-- ==== Sys2Proof/Word.lean ====
section
/-! DEFINITION. Word types of the device (R2, R126): bytes, halfwords, registers, and the field reader of R2. -/

namespace Sys2Proof

/-- One byte of a buffer or of memory. -/
abbrev Byte := BitVec 8

/-- One halfword of code (R126). -/
abbrev Half := BitVec 16

/-- A 64-bit scalar register of any stream (R148, R177, R194, R212). -/
abbrev Reg := BitVec 64

/-- A vector register: one 256-byte row of X (R66). -/
abbrev Row := BitVec 2048

/-- The field of `n` bits whose lowest bit is `lo` (R2). -/
def fld (w lo n : Nat) : Nat := w / 2 ^ lo % 2 ^ n

/-- The two's complement reading of the low `n` bits of `x`. -/
def sgn (n x : Nat) : Int :=
  let y := x % 2 ^ n
  if 2 * y < 2 ^ n then (y : Int) else (y : Int) - (2 ^ n : Nat)

/-- The low `n` bits of an integer, as a natural number. -/
def low (n : Nat) (x : Int) : Nat := (x % (2 ^ n : Nat)).toNat

/-- A little-endian value from its bytes (R2). -/
def leNat : List Byte → Nat
  | [] => 0
  | b :: bs => b.toNat + 256 * leNat bs

/-- The `n` little-endian bytes of a value (R2). -/
def leBytes : Nat → Nat → List Byte
  | 0, _ => []
  | n + 1, v => BitVec.ofNat 8 v :: leBytes n (v / 256)

/-- The tokens named by a 32-bit word: the POP and PUSH codes of Table 6.1 (R127, R133). -/
structure Tok where
  pop : BitVec 2
  push : BitVec 2
  deriving DecidableEq, Repr

end Sys2Proof
end

