-- ==== Sys2Proof/Machine/Num.lean ====
section
/-! DEFINITION. Numbers and arithmetic (chapter 2 of the spec): element formats, exact values, Round, conversions,
block scales. Every value is exact (a rational or the root of one) until `round` narrows it once (R51). -/

namespace Sys2Proof.Machine

open Sys2Proof

/-! ### Flags (R60, Table 2.10) -/

/-- The five IEEE flags in the bit order of Table 2.10: NV, DZ, OF, UF, NX from bit 0. -/
abbrev Fl := BitVec 5

def flNone : Fl := 0
def flNV : Fl := 1
def flDZ : Fl := 2
def flOF : Fl := 4
def flUF : Fl := 8
def flNX : Fl := 16

/-! ### Rounding modes (R50, Table 2.5) -/

/-- A rounding mode; RDI carries the dither value d of its element (R51, R53). -/
inductive Rnd where
  | rne
  | rtz
  | rup
  | rdn
  | rna
  | rdi (d : Nat)
  deriving DecidableEq, Repr

/-- The mode of a legal code (Table 2.5), with the dither value that RDI uses. -/
def Rnd.ofCode (code dither : Nat) : Rnd :=
  match code with
  | 0 => .rne
  | 1 => .rtz
  | 2 => .rup
  | 3 => .rdn
  | 4 => .rna
  | _ => .rdi dither

/-- The dither matrix of R53. -/
def bayer (y c : Nat) : Nat :=
  let z := y ^^^ c
  let bit (v b : Nat) : Nat := fld v b 1
  let term (b : Nat) : Nat := bit z b * 2 ^ (7 - 2 * b) + bit y b * 2 ^ (6 - 2 * b)
  term 0 + term 1 + term 2 + term 3

/-- Dither(row, col) with a given %dphase (R53). -/
def dither (dphase : BitVec 8) (row col : Nat) : Nat :=
  (bayer (row % 16) (col % 16) + dphase.toNat) % 256

/-! ### Element formats (R36, R39, Table 6.6) -/

/-- The element formats by name: Table 6.6, and UINT64 of R155. -/
inductive EF where
  | f64 | f32 | f19 | f16 | bf16 | e4m3 | e5m2 | e3m2 | e2m3 | e2m1
  | mxe4m3 | mxe5m2 | mxe3m2 | mxe2m3 | mxfp4 | mxint8 | sfp4 | g32int4
  | i16 | i8 | ui8 | i4 | ui4 | tern2 | i32 | ui32 | i64 | ui64
  deriving DecidableEq, Repr

/-- Table 6.6: the format of a 5-bit code; codes 27 to 31 name none. -/
def EF.ofCode : Nat → Option EF
  | 0 => some .f64 | 1 => some .f32 | 2 => some .f19 | 3 => some .f16 | 4 => some .bf16
  | 5 => some .e4m3 | 6 => some .e5m2 | 7 => some .e3m2 | 8 => some .e2m3 | 9 => some .e2m1
  | 10 => some .mxe4m3 | 11 => some .mxe5m2 | 12 => some .mxe3m2 | 13 => some .mxe2m3
  | 14 => some .mxfp4 | 15 => some .mxint8 | 16 => some .sfp4 | 17 => some .g32int4
  | 18 => some .i16 | 19 => some .i8 | 20 => some .ui8 | 21 => some .i4 | 22 => some .ui4
  | 23 => some .tern2 | 24 => some .i32 | 25 => some .ui32 | 26 => some .i64
  | _ => none

/-- The type codes of the C conversion (R155). -/
def EF.ofCvt : Nat → EF
  | 0 => .i64 | 1 => .ui64 | 2 => .i32 | 3 => .ui32 | 4 => .f64 | 5 => .f32 | 6 => .f16 | _ => .bf16

/-- The element of a block-scaled format (Table 2.3); any other format is its own element. -/
def EF.elem : EF → EF
  | .mxe4m3 => .e4m3 | .mxe5m2 => .e5m2 | .mxe3m2 => .e3m2 | .mxe2m3 => .e2m3
  | .mxfp4 => .e2m1 | .mxint8 => .i8 | .sfp4 => .e2m1 | .g32int4 => .i4
  | f => f

/-- Whether a format is block-scaled (Table 2.3). -/
def EF.scaled : EF → Bool
  | .mxe4m3 | .mxe5m2 | .mxe3m2 | .mxe2m3 | .mxfp4 | .mxint8 | .sfp4 | .g32int4 => true
  | _ => false

/-- Width of one element in bits (Tables 2.1 and 2.2). -/
def EF.width (f : EF) : Nat :=
  match f.elem with
  | .f64 | .i64 | .ui64 => 64
  | .f32 | .f19 | .i32 | .ui32 => 32
  | .f16 | .bf16 | .i16 => 16
  | .e4m3 | .e5m2 | .i8 | .ui8 => 8
  | .e3m2 | .e2m3 => 6
  | .e2m1 | .i4 | .ui4 => 4
  | _ => 2

/-- What a float format does with its top exponent codes (R36, R37). -/
inductive Specials where
  | ieee    -- exponent all ones holds infinity and NaN
  | nanOnly -- FP8 E4M3: only the all-ones code of each sign is NaN
  | none    -- FP6, FP4: every code is a number
  deriving DecidableEq, Repr

/-- The layout of a float format: exponent and fraction widths, container shift of the fraction, special codes. -/
structure FFmt where
  eb : Nat
  fb : Nat
  sh : Nat
  sp : Specials
  deriving DecidableEq, Repr

/-- Table 2.1; none for an integer or ternary format. -/
def EF.ffmt (f : EF) : Option FFmt :=
  match f.elem with
  | .f64 => some ⟨11, 52, 0, .ieee⟩
  | .f32 => some ⟨8, 23, 0, .ieee⟩
  | .f19 => some ⟨8, 10, 13, .ieee⟩
  | .f16 => some ⟨5, 10, 0, .ieee⟩
  | .bf16 => some ⟨8, 7, 0, .ieee⟩
  | .e4m3 => some ⟨4, 3, 0, .nanOnly⟩
  | .e5m2 => some ⟨5, 2, 0, .ieee⟩
  | .e3m2 => some ⟨3, 2, 0, .none⟩
  | .e2m3 => some ⟨2, 3, 0, .none⟩
  | .e2m1 => some ⟨2, 1, 0, .none⟩
  | _ => none

def fmt64 : FFmt := ⟨11, 52, 0, .ieee⟩
def fmt32 : FFmt := ⟨8, 23, 0, .ieee⟩
def fmt16 : FFmt := ⟨5, 10, 0, .ieee⟩
def fmtBf16 : FFmt := ⟨8, 7, 0, .ieee⟩
/-- The unsigned scale format UE6M2 (R41), as the magnitude part of a float with 6 exponent and 2 fraction bits. -/
def fmtUe6m2 : FFmt := ⟨6, 2, 0, .nanOnly⟩

/-- The exponent bias (Table 2.1); UE6M2 has bias 47 (R41). -/
def FFmt.bias (f : FFmt) : Nat := if f = fmtUe6m2 then 47 else 2 ^ (f.eb - 1) - 1

/-- Precision p of R51. -/
def FFmt.p (f : FFmt) : Nat := f.fb + 1

/-- emin of R51. -/
def FFmt.emin (f : FFmt) : Int := 1 - (f.bias : Int)

/-- Exponent of the unit of the subnormals. -/
def FFmt.kmin (f : FFmt) : Int := f.emin - (f.fb : Int)

/-- The magnitude code of the largest finite value (Table 2.1). -/
def FFmt.maxCode (f : FFmt) : Nat :=
  match f.sp with
  | .ieee => (2 ^ f.eb - 1) * 2 ^ f.fb - 1
  | .nanOnly => 2 ^ (f.eb + f.fb) - 2
  | .none => 2 ^ (f.eb + f.fb) - 1

/-- The magnitude code of infinity in a format that has it. -/
def FFmt.infCode (f : FFmt) : Nat := (2 ^ f.eb - 1) * 2 ^ f.fb

/-- Places a sign and a magnitude code in the container (R36, R37). -/
def FFmt.pack (f : FFmt) (neg : Bool) (code : Nat) : Nat :=
  ((if neg then 2 ^ (f.eb + f.fb) else 0) + code) * 2 ^ f.sh

/-- The canonical NaN (Table 2.6); +0 stands for it in a format without NaN (R56). -/
def FFmt.nan (f : FFmt) : Nat :=
  match f.sp with
  | .ieee => ((2 ^ f.eb - 1) * 2 ^ f.fb + 2 ^ (f.fb - 1)) * 2 ^ f.sh
  | .nanOnly => (2 ^ (f.eb + f.fb) - 1) * 2 ^ f.sh
  | .none => 0

/-! ### Exact values -/

/-- An exact value: NaN (signalling or quiet), an infinity, a signed rational `num / den`, or the square root of one. -/
inductive Val where
  | nan (sig : Bool)
  | inf (neg : Bool)
  | fin (neg : Bool) (num den : Nat)
  | root (num den : Nat)
  deriving DecidableEq, Repr

def Val.zero (neg : Bool) : Val := .fin neg 0 1

/-- An integer as an exact value. -/
def Val.ofInt (x : Int) : Val := .fin (decide (x < 0)) x.natAbs 1

/-- 2 to an integer power, times a natural number, as a rational. -/
def Val.dyadic (neg : Bool) (m : Nat) (k : Int) : Val :=
  if 0 ≤ k then .fin neg (m * 2 ^ k.toNat) 1 else .fin neg m (2 ^ (-k).toNat)

/-- The exact value of a float code (R36, R37). -/
def FFmt.decode (f : FFmt) (x : Nat) : Val :=
  let c := x / 2 ^ f.sh
  let neg := decide (fld c (f.eb + f.fb) 1 = 1)
  let ex := fld c f.fb f.eb
  let fr := fld c 0 f.fb
  let special : Bool :=
    match f.sp with
    | .ieee => decide (ex = 2 ^ f.eb - 1)
    | .nanOnly => decide (ex = 2 ^ f.eb - 1 ∧ fr = 2 ^ f.fb - 1)
    | .none => false
  if special then
    if f.sp = .ieee ∧ fr = 0 then .inf neg
    else .nan (decide (f.sp = .ieee ∧ fld fr (f.fb - 1) 1 = 0))
  else if ex = 0 then .dyadic neg fr f.kmin
  else .dyadic neg (2 ^ f.fb + fr) (f.kmin + (ex : Int) - 1)

/-- The integer of an integer or ternary code (R39). -/
def EF.decodeInt (f : EF) (x : Nat) : Int :=
  match f.elem with
  | .ui8 | .ui4 | .ui32 | .ui64 => ((x % 2 ^ f.width : Nat) : Int)
  | .tern2 => if x % 4 = 1 then 1 else if x % 4 = 3 then -1 else 0
  | _ => sgn f.width x

/-- Decode of R42: the exact value of one element, its block scale not applied. -/
def EF.decode (f : EF) (x : Nat) : Val :=
  match f.ffmt with
  | some ff => ff.decode x
  | none => .ofInt (f.decodeInt x)

/-! ### Exact operations, with the invalid flag of IEEE 754 -/

def Val.isSig : Val → Bool
  | .nan true => true
  | _ => false

def Val.isNan : Val → Bool
  | .nan _ => true
  | _ => false

def Val.isZero : Val → Bool
  | .fin _ n _ => n == 0
  | .root n _ => n == 0
  | _ => false

def Val.neg : Val → Bool
  | .inf s => s
  | .fin s _ _ => s
  | _ => false

def Val.negate : Val → Val
  | .inf s => .inf (!s)
  | .fin s n d => .fin (!s) n d
  | v => v

/-- NV when an operand is a signalling NaN (R55). -/
def nvOf (a b : Val) : Fl := if a.isSig || b.isSig then flNV else flNone

/-- Exact sum; an exact zero of unlike signs is +0, or -0 when `rdn` (R52). -/
def Val.add (rdn : Bool) (a b : Val) : Val × Fl :=
  match a, b with
  | .nan _, _ => (.nan false, nvOf a b)
  | _, .nan _ => (.nan false, nvOf a b)
  | .inf s, .inf t => if s = t then (.inf s, flNone) else (.nan false, flNV)
  | .inf s, _ => (.inf s, flNone)
  | _, .inf t => (.inf t, flNone)
  | .fin s n d, .fin t m e =>
    let x : Int := (if s then -(n : Int) else n) * e
    let y : Int := (if t then -(m : Int) else m) * d
    let z := x + y
    if z = 0 then
      (.zero (if n = 0 ∧ m = 0 ∧ s = t then s else rdn), flNone)
    else (.fin (decide (z < 0)) z.natAbs (d * e), flNone)
  | _, _ => (.nan false, flNone)

/-- Exact product; 0 × ∞ is invalid (Table 2.10). -/
def Val.mul (a b : Val) : Val × Fl :=
  match a, b with
  | .nan _, _ => (.nan false, nvOf a b)
  | _, .nan _ => (.nan false, nvOf a b)
  | .inf s, y => if y.isZero then (.nan false, flNV) else (.inf (s != y.neg), flNone)
  | x, .inf t => if x.isZero then (.nan false, flNV) else (.inf (x.neg != t), flNone)
  | .fin s n d, .fin t m e => (.fin (s != t) (n * m) (d * e), flNone)
  | _, _ => (.nan false, flNone)

/-- Exact quotient with the special cases of Table 7.5. -/
def Val.div (a b : Val) : Val × Fl :=
  match a, b with
  | .nan _, _ => (.nan false, nvOf a b)
  | _, .nan _ => (.nan false, nvOf a b)
  | .inf _, .inf _ => (.nan false, flNV)
  | .inf s, y => (.inf (s != y.neg), flNone)
  | x, .inf t => (.zero (x.neg != t), flNone)
  | .fin s n d, .fin t m e =>
    if m = 0 then
      if n = 0 then (.nan false, flNV) else (.inf (s != t), flDZ)
    else (.fin (s != t) (n * e) (d * m), flNone)
  | _, _ => (.nan false, flNone)

/-- Exact square root: √−0 = −0, a negative operand is invalid (Table 7.5). -/
def Val.sqrt (a : Val) : Val × Fl :=
  match a with
  | .nan s => (.nan false, if s then flNV else flNone)
  | .inf s => if s then (.nan false, flNV) else (.inf false, flNone)
  | .fin s n d =>
    if n = 0 then (.zero s, flNone)
    else if s then (.nan false, flNV)
    else (.root n d, flNone)
  | v => (v, flNone)

/-- The order of two exact finite or infinite values: `a < b`; false when either is NaN. -/
def Val.lt (a b : Val) : Bool :=
  match a, b with
  | .inf s, .inf t => s && !t
  | .inf s, .fin _ _ _ => s
  | .fin _ _ _, .inf t => !t
  | .fin s n d, .fin t m e =>
    decide ((if s then -(n : Int) else n) * e < (if t then -(m : Int) else m) * d)
  | _, _ => false

/-- Equality of values: +0 equals −0; false when either is NaN. -/
def Val.eqv (a b : Val) : Bool := !a.isNan && !b.isNan && !a.lt b && !b.lt a

/-! ### Round (R51, R52, R57) -/

/-- floor(log2 (n / d)) for positive n and d. -/
def flog2 (n d : Nat) : Int :=
  let e : Int := (Nat.log2 n : Int) - (Nat.log2 d : Int)
  let fits : Bool := if 0 ≤ e then decide (d * 2 ^ e.toNat ≤ n) else decide (d ≤ n * 2 ^ (-e).toNat)
  if fits then e else e - 1

/-- Bit by bit integer square root: the largest r with r² ≤ n, over `b` bits still to try. -/
def isqrtGo (n : Nat) : Nat → Nat → Nat
  | 0, r => r
  | b + 1, r => if (r + 2 ^ b) * (r + 2 ^ b) ≤ n then isqrtGo n b (r + 2 ^ b) else isqrtGo n b r

def isqrt (n : Nat) : Nat := isqrtGo n (Nat.log2 n / 2 + 1) 0

/-- The magnitude of a nonzero value in units of 2^k / 256: its floor, and whether that floor is exact. -/
def Val.scaled256 (v : Val) (k : Int) : Nat × Bool :=
  match v with
  | .fin _ n d =>
    let a := n * 2 ^ (8 + (if k < 0 then (-k).toNat else 0))
    let b := d * 2 ^ (if k < 0 then 0 else k.toNat)
    (a / b, a % b == 0)
  | .root n d =>
    let a := n * 2 ^ (16 + (if k < 0 then 2 * (-k).toNat else 0))
    let b := d * 2 ^ (if k < 0 then 0 else 2 * k.toNat)
    let r := isqrt (a / b)
    (r, a % b == 0 && r * r == a / b)
  | _ => (0, true)

/-- floor(log2 |v|) of a nonzero finite value. -/
def Val.flog2 (v : Val) : Int :=
  match v with
  | .fin _ n d => Machine.flog2 n d
  | .root n d => Machine.flog2 n d / 2
  | _ => 0

/-- The choice between lo (false) and hi (true) of R51, from lo's last bit, t = floor(256 f) and exactness of t. -/
def Rnd.up (mode : Rnd) (neg odd : Bool) (t : Nat) (exact : Bool) : Bool :=
  if t = 0 ∧ exact then false
  else
    match mode with
    | .rne => decide (128 < t) || (t == 128 && (!exact || odd))
    | .rna => decide (128 ≤ t)
    | .rtz => false
    | .rup => !neg
    | .rdn => neg
    | .rdi d => decide (d < t) || (t == d && !exact)

/-- A value rounded to a multiple m of 2^k in a mode (R51): m, and whether it was inexact. -/
def Val.roundAt (v : Val) (k : Int) (mode : Rnd) : Nat × Bool :=
  let (x, exact) := v.scaled256 k
  let n := x / 256
  let t := x % 256
  (if mode.up v.neg (decide (n % 2 = 1)) t exact then n + 1 else n, !(t == 0 && exact))

/-- Table 2.7: the code of an overflowing finite value of a sign. -/
def FFmt.overflow (f : FFmt) (mode : Rnd) (sat neg : Bool) : Nat :=
  let max := f.pack neg f.maxCode
  let top : Nat :=
    match f.sp with
    | .ieee => f.pack neg f.infCode
    | .nanOnly => f.pack neg (f.maxCode + 1)
    | .none => max
  if sat then max
  else
    match mode with
    | .rtz => max
    | .rup => if neg then max else top
    | .rdn => if neg then top else max
    | _ => top

/-- Round(v, fmt, mode) of R51, R52, R55–R57, with `.sat`: the result code and its flags. -/
def FFmt.round (f : FFmt) (mode : Rnd) (sat : Bool) (v : Val) : Nat × Fl :=
  match v with
  | .nan _ => (f.nan, if f.sp = .none then flNV else flNone)
  | .inf neg =>
    match f.sp with
    | .ieee => if sat then (f.pack neg f.maxCode, flNX) else (f.pack neg f.infCode, flNone)
    | .nanOnly => (f.pack neg (if sat then f.maxCode else f.maxCode + 1), flNX)
    | .none => (f.pack neg f.maxCode, flNX)
  | v =>
    if v.isZero then (f.pack v.neg 0, flNone)
    else
      let e := max v.flog2 f.emin
      let k := e - (f.fb : Int)
      let (m, inexact) := v.roundAt k mode
      let code := (k - f.kmin).toNat * 2 ^ f.fb + m
      let tiny := decide (v.flog2 < f.emin)
      if f.maxCode < code then (f.overflow mode sat v.neg, flOF ||| flNX)
      else
        (f.pack v.neg code,
          if inexact then (if tiny then flUF ||| flNX else flNX) else flNone)

/-! ### Scalar float operations (R154), used by C, V, the epilogue and the engines -/

/-- The rounding float operations of Table 7.5. -/
inductive FOp where
  | add | sub | mul | div | sqrt | fma | rcp
  deriving DecidableEq, Repr

def Rnd.isRdn : Rnd → Bool
  | .rdn => true
  | _ => false

/-- The exact value of an operation on a, b and the third operand c, with its invalid and divide-by-zero flags. -/
def FOp.exact (op : FOp) (mode : Rnd) (a b c : Val) : Val × Fl :=
  match op with
  | .add => a.add mode.isRdn b
  | .sub => a.add mode.isRdn b.negate
  | .mul => a.mul b
  | .div => a.div b
  | .sqrt => a.sqrt
  | .rcp => (Val.fin false 1 1).div a
  | .fma =>
    let (p, f) := a.mul b
    let (r, g) := p.add mode.isRdn c
    (r, f ||| g ||| (if c.isSig then flNV else flNone))

/-- One rounding float operation on codes of a format (R154, R217). -/
def FOp.run (op : FOp) (f : FFmt) (mode : Rnd) (a b c : Nat) : Nat × Fl :=
  let (v, fl) := op.exact mode (f.decode a) (f.decode b) (f.decode c)
  let (r, fl') := f.round mode false v
  (r, fl ||| fl')

/-- `fmin` (lo = true) and `fmax` of R154 on codes: −0 below +0, a quiet NaN yields the other operand. -/
def fminmax (f : FFmt) (lo : Bool) (a b : Nat) : Nat × Fl :=
  let x := f.decode a
  let y := f.decode b
  let fl := nvOf x y
  let clean (c : Nat) : Nat := c / 2 ^ f.sh * 2 ^ f.sh
  match x.isNan, y.isNan with
  | true, true => (f.nan, fl)
  | true, false => (clean b, fl)
  | false, true => (clean a, fl)
  | false, false =>
    let less : Bool := x.lt y || (x.eqv y && x.neg && !y.neg)
    (clean (if less = lo then a else if x.eqv y && x.neg == y.neg then a else b), fl)

/-- The float conditions of Table 7.4, with the invalid flag. -/
def fcond (f : FFmt) (cond a b : Nat) : Bool × Fl :=
  let x := f.decode a
  let y := f.decode b
  let un := x.isNan || y.isNan
  let quiet := nvOf x y
  let loud := if un then flNV else flNone
  match cond with
  | 0 => (x.eqv y, quiet)
  | 1 => (un || !x.eqv y, quiet)
  | 2 => (x.lt y, loud)
  | 3 => (!un && !x.lt y, loud)
  | 4 => (un, quiet)
  | _ => (!un, quiet)

/-! ### Conversions (R58, Table 2.9) -/

/-- The range of an integer or ternary format (Table 2.2). -/
def EF.range (f : EF) : Int × Int :=
  match f.elem with
  | .ui8 | .ui4 | .ui32 | .ui64 => (0, (2 ^ f.width : Nat) - 1)
  | .tern2 => (-1, 1)
  | _ => (-((2 ^ (f.width - 1) : Nat) : Int), (2 ^ (f.width - 1) : Nat) - 1)

/-- The code of an in-range integer (R39). -/
def EF.codeInt (f : EF) (x : Int) : Nat := low f.width x

def clampInt (r : Int × Int) (x : Int) : Int := if x < r.1 then r.1 else if r.2 < x then r.2 else x

/-- A float value to an integer format: round with q = 1, clamp outside the range (Table 2.9).
`clampFl` is the flag a clamp raises: invalid for an integer, inexact for TERN2, overflow and inexact in R59. An integer
format has emin 0 (R51), so an inexact result of a magnitude below 1 raises underflow too (R52). -/
def toInt (mode : Rnd) (r : Int × Int) (clampFl : Fl) (v : Val) : Int × Fl :=
  match v with
  | .nan _ => (0, flNV)
  | .inf neg => (if neg then r.1 else r.2, clampFl)
  | v =>
    let (m, inexact) := if v.isZero then (0, false) else v.roundAt 0 mode
    let x : Int := if v.neg then -(m : Int) else m
    if x < r.1 ∨ r.2 < x then (clampInt r x, clampFl)
    else (x, if !inexact then flNone else if v.flog2 < 0 then flUF ||| flNX else flNX)

/-- Table 2.9 from an exact source value: `src` tells a float source from an integer one. -/
def convertVal (src dst : EF) (mode : Rnd) (sat : Bool) (v : Val) (x : Int) : Nat × Fl :=
  match src.ffmt, dst.ffmt with
  | _, some ff =>
    let (r, fl) := ff.round mode sat v
    (r, if v.isSig then fl ||| flNV else fl)
  | some _, none =>
    let (i, fl) := toInt mode dst.range (if dst = .tern2 then flNX else flNV) v
    (dst.codeInt i, fl)
  | none, none =>
    if dst = .tern2 ∨ sat then (dst.codeInt (clampInt dst.range x), flNone)
    else (dst.codeInt x, flNone)

/-- Table 2.9 on codes of unscaled formats. -/
def convert (src dst : EF) (mode : Rnd) (sat : Bool) (c : Nat) : Nat × Fl :=
  convertVal src dst mode sat (src.decode c) (src.decodeInt c)

/-! ### Block scales and quantisation (R40–R42, R59) -/

/-- The kind of a block scale (Table 2.3). -/
inductive ScaleKind where
  | e8m0 | ue6m2 | fp16
  deriving DecidableEq, Repr

def EF.scaleKind : EF → ScaleKind
  | .sfp4 => .ue6m2
  | .g32int4 => .fp16
  | _ => .e8m0

/-- Bytes of one block scale (R195). -/
def EF.scaleSize (f : EF) : Nat := if f = .g32int4 then 2 else 1

/-- ScaleValue of R42 from a scale code (R41). -/
def ScaleKind.value (k : ScaleKind) (c : Nat) : Val :=
  match k with
  | .e8m0 => if c % 256 = 255 then .nan false else .dyadic false 1 ((c % 256 : Nat) - 127)
  | .ue6m2 => if c % 256 = 255 then .nan false else fmtUe6m2.decode (c % 256)
  | .fp16 => fmt16.decode c

/-- Expand(e, fmt, scale) of R42, exact, MXINT8 with its factor 2^-6 (Table 2.3); with the invalid flag of a signalling
element or scale and of 0 × ∞ (R55, R60). -/
def EF.expandFl (f : EF) (e scale : Nat) : Val × Fl :=
  let x := f.decode e
  if f.scaled then
    let y := x.mul (f.scaleKind.value scale)
    if f = .mxint8 then ((y.1.mul (.fin false 1 64)).1, y.2) else y
  else (x, flNone)

/-- The value of Expand. -/
def EF.expand (f : EF) (e scale : Nat) : Val := (f.expandFl e scale).1

/-- emax of the MX scale exponent (R59). -/
def EF.mxEmax : EF → Int
  | .mxe4m3 => 8 | .mxe5m2 => 15 | .mxe3m2 => 4 | .mxe2m3 => 2 | .mxfp4 => 2 | _ => 0

/-- The largest magnitude of a block, as an exact value. -/
def maxMag : List Val → Val
  | [] => .zero false
  | v :: vs =>
    let m := maxMag vs
    let a := if v.neg then v.negate else v
    if m.lt a then a else m

/-- One element of R59: rounded, always saturating; a clamp raises overflow and inexact. -/
def quantElem (f : EF) (mode : Rnd) (v : Val) : Nat × Fl :=
  match f.ffmt with
  | some ff => ff.round mode true v
  | none =>
    let (i, fl) := toInt mode f.range (flOF ||| flNX) v
    (f.codeInt i, fl)

/-- Block quantisation of R59: the scale code, and for each element its code and flags. `bad` forces a NaN block
(an invalid tensor scale, R226); `t` is the SFP4 tensor scale; `modes` gives each element's mode. -/
def quantBlock (f : EF) (bad : Bool) (t : Val) (xs : List (Val × Rnd)) : Nat × List (Nat × Fl) :=
  let isBad := bad || xs.any (fun x => match x.1 with | .nan _ => true | .inf _ => true | _ => false)
  if isBad then
    ((match f.scaleKind with | .fp16 => fmt16.nan | _ => 255), xs.map (fun _ => (0, flNV)))
  else
    let a := maxMag (xs.map (·.1))
    match f.scaleKind with
    | .e8m0 =>
      let x : Int := if a.isZero then -127 else clampInt (-127, 127) (a.flog2 - f.mxEmax)
      let s := Val.dyadic false 1 ((if f = .mxint8 then 6 else 0) - x)
      ((x + 127).toNat, xs.map (fun (v, m) => quantElem f m (v.mul s).1))
    | .ue6m2 =>
      let q := (a.div ((Val.fin false 6 1).mul t).1).1
      let code := (fmtUe6m2.round .rne true q).1
      let s := fmtUe6m2.decode code
      if s.isZero then (code, xs.map (fun _ => (0, flNone)))
      else (code, xs.map (fun (v, m) => quantElem f m (v.div (s.mul t).1).1))
    | .fp16 =>
      let code := (fmt16.round .rne true (a.div (.fin false 7 1)).1).1
      let s := fmt16.decode code
      if s.isZero then (code, xs.map (fun _ => (0, flNone)))
      else (code, xs.map (fun (v, m) => quantElem f m (v.div s).1))

/-! ### K-groups (R43–R48) -/

/-- The compatibility classes of Table 2.4. -/
inductive MCls where
  | f64 | f32 | f16 | f8n | gq | int
  deriving DecidableEq, Repr

/-- The class that holds a pair of formats (R43, Table 2.4); none when no class holds both. -/
def mclass (a b : EF) : Option MCls :=
  let isF64 (f : EF) : Bool := f == .f64
  let isF32 (f : EF) : Bool := f == .f32 || f == .f19
  let isF16 (f : EF) : Bool := f == .f16 || f == .bf16
  let isF8N (f : EF) : Bool :=
    match f with
    | .e4m3 | .e5m2 | .e3m2 | .e2m3 | .e2m1 | .mxe4m3 | .mxe5m2 | .mxe3m2 | .mxe2m3 | .mxfp4 | .mxint8 | .sfp4 => true
    | _ => false
  let isInt (f : EF) : Bool :=
    match f with
    | .i16 | .i8 | .ui8 | .i4 | .ui4 | .tern2 => true
    | _ => false
  let gqMate (f : EF) : Bool :=
    match f with
    | .g32int4 | .f16 | .bf16 | .e4m3 | .e5m2 => true
    | _ => false
  if isF64 a && isF64 b then some .f64
  else if isF32 a && isF32 b then some .f32
  else if isF16 a && isF16 b then some .f16
  else if isF8N a && isF8N b then some .f8n
  else if isInt a && isInt b then some .int
  else if (a == .g32int4 && gqMate b) || (b == .g32int4 && gqMate a) then some .gq
  else none

/-- K-group size G of Table 2.4. -/
def MCls.group : MCls → Nat
  | .f64 => 1
  | .f32 => 8
  | _ => 32

/-- Alignment width W of Table 2.4 (unused by F64 and INT, which align nothing). -/
def MCls.align : MCls → Nat
  | .f32 => 64
  | _ => 48

/-- floor(log2 |p|) of the largest nonzero finite product, if any. -/
def maxExp : List Val → Option Int
  | [] => none
  | v :: vs =>
    let r := maxExp vs
    if v.isZero then r
    else
      match r with
      | none => some v.flog2
      | some e => some (max v.flog2 e)

/-- AlignSum(P, cls) of R44 for the classes that align, with the mode's zero sign. -/
def alignSum (w : Nat) (rdn : Bool) (ps : List Val) : Val :=
  if ps.any Val.isNan then .nan false
  else
    let pinf := ps.any (fun p => p == .inf false)
    let ninf := ps.any (fun p => p == .inf true)
    if pinf && ninf then .nan false
    else if pinf then .inf false
    else if ninf then .inf true
    else
      match maxExp ps with
      | none =>
        if rdn then .zero (ps.any Val.neg) else .zero (ps.all Val.neg)
      | some e =>
        let k := e - (w : Int)
        let term (p : Val) : Int :=
          let m : Nat := (p.scaled256 k).1 / 256
          if p.neg then -(m : Int) else m
        let s := ps.foldl (fun acc p => acc + term p) 0
        if s = 0 then .zero rdn else .dyadic (decide (s < 0)) s.natAbs k

/-- One step of R45: c := Round(c + group × tA × tB). -/
def accStep (acc : FFmt) (mode : Rnd) (c : Nat) (group tA tB : Val) : Nat :=
  let t := (((group.mul tA).1).mul tB).1
  let v := ((acc.decode c).add mode.isRdn t).1
  (acc.round mode false v).1

/-! ### Packed elements (R38) -/

/-- Element `i` of width `w` bits in the little-endian bit string of a byte reader from `base`. -/
def packedAt (rd : Nat → Byte) (base w i : Nat) : Nat :=
  let bit := w * i
  let first := base + bit / 8
  let n := (bit % 8 + w + 7) / 8
  leNat ((List.range n).map (fun j => rd (first + j))) / 2 ^ (bit % 8) % 2 ^ w

/-- Element `i` of width `w` in a row. -/
def rowElem (r : Row) (w i : Nat) : Nat := r.toNat / 2 ^ (w * i) % 2 ^ w

/-- A row whose `n` elements of width `w` are `f i`, and whose higher bits are those of `old`. -/
def rowBuild (old : Row) (w n : Nat) (f : Nat → Nat) : Row :=
  BitVec.ofNat 2048
    ((List.range n).foldl (fun acc i => acc + f i % 2 ^ w * 2 ^ (w * i)) (old.toNat / 2 ^ (w * n) * 2 ^ (w * n)))

/-- Byte `j` of a row. -/
def rowByte (r : Row) (j : Nat) : Byte := BitVec.ofNat 8 (r.toNat / 2 ^ (8 * j))

/-- A row from its 256 bytes. -/
def rowOfBytes (bs : List Byte) : Row := BitVec.ofNat 2048 (leNat bs)

end Sys2Proof.Machine
end

