-- ==== Sys2Proof/Machine/Tab.lean ====
section
/-! DEFINITION. Sparse tables: lists of (key, value) pairs in strictly rising key order, in which no entry holds the
value that an unlisted key reads as. Memories and buffers are tables of bytes (Host.Cell). -/

namespace Sys2Proof.Machine

open Sys2Proof

/-- A table from natural keys. -/
abbrev Tab (α : Type) := List (Nat × α)

variable {α : Type}

/-- The value at key `k`, `d` being what an unlisted `k` reads as. -/
def Tab.get (d : α) : Tab α → Nat → α
  | [], _ => d
  | (j, v) :: t, k => if j = k then v else if k < j then d else Tab.get d t k

/-- The table with `v` at key `k`, in rising order. -/
def Tab.put : Tab α → Nat → α → Tab α
  | [], k, v => [(k, v)]
  | (j, w) :: t, k, v =>
    if j = k then (k, v) :: t
    else if k < j then (k, v) :: (j, w) :: t
    else (j, w) :: Tab.put t k v

/-- The table without key `k`. -/
def Tab.del : Tab α → Nat → Tab α
  | [], _ => []
  | (j, w) :: t, k => if j = k then t else if k < j then (j, w) :: t else (j, w) :: Tab.del t k

/-- The canonical write: the entry goes where `v` is what the unlisted key reads as. -/
def Tab.set [DecidableEq α] (d : α) (t : Tab α) (k : Nat) (v : α) : Tab α :=
  if v = d then t.del k else t.put k v

/-- Keys strictly above `k` and rising. -/
def Tab.above (k : Nat) : Tab α → Bool
  | [] => true
  | (j, _) :: t => decide (k < j) && Tab.above j t

/-- Keys strictly rising. -/
def Tab.sorted : Tab α → Bool
  | [] => true
  | (j, _) :: t => Tab.above j t

/-- The canonical form: keys strictly rising, and no entry equal to what an unlisted key reads as. -/
def Tab.wf [DecidableEq α] (d : Nat → α) (t : Tab α) : Bool :=
  t.sorted && t.all (fun e => decide (e.2 ≠ d e.1))

end Sys2Proof.Machine
end

