-- ==== Sys2Proof/Machine/EventData.lean ====
section
/-! DEFINITION. The names that events carry: streams, buffers, and what arrives from outside the device. -/

namespace Sys2Proof.Machine

open Sys2Proof

/-- The four instruction streams of a core (R10). -/
inductive Stream where
  | C | L | M | V
  deriving DecidableEq, Repr, Inhabited

/-- The four buffers of a core (R62). -/
inductive Buf where
  | W | A | X | S
  deriving DecidableEq, Repr

/-- Who writes a system register (R338, R370). -/
inductive Writer where
  | software     -- system software, through the physical function
  | management   -- the management processor
  | power        -- the power controller
  | function     -- a virtual function: the host's guest driver
  deriving DecidableEq, Repr

/-- The codes of a page response (R301). -/
inductive PageCode where
  | success | invalid | failure
  deriving DecidableEq, Repr

/-- What an ATS translation reply grants (R300): the host page and its permissions. -/
structure AtsReply where
  present : Bool
  read : Bool
  write : Bool
  size : Nat          -- bytes of the host page
  deriving DecidableEq, Repr

/-- A message of the Relay (R28, R281, R344). Its partition stands in the header of its packet. -/
inductive Msg where
  | enqueue (job : Nat) (block : BitVec 256)        -- a successor homed on this package
  | enqueueAck (job : Nat)
  | ready (job lrec inst : Nat)                     -- the home entry's count reached 0
  | gangComplete (job inst : Nat)                   -- a package reports its gang complete
  | store (addr : Nat) (data : List Byte)           -- an access to memory homed here
  | load (addr n : Nat)
  | amo (addr op n v w : Nat)
  | redf (addr : Nat) (bf : Bool) (rnd dither v : Nat)
  | reply (addr : Nat) (data : List Byte)           -- the bytes that a load or an atomic returns
  | collective (inst tag parts seq task shape off total : Nat) (data : List Byte)  -- part of a participant's contribution (R352)
  deriving DecidableEq, Repr

/-- TDI states of a virtual function (R343). -/
inductive Tdi where
  | unlocked | locked | run | error
  deriving DecidableEq, Repr

/-- A packet of the Ultra Ethernet transport (R350): sequence number in the connection, message number, kind and bytes. -/
structure UePacket where
  seq : Nat
  msg : Nat
  write : Bool        -- true: net.write; false: net.send
  tag : Nat           -- message tag or remote key
  off : Nat           -- offset in the window or in the message
  total : Nat         -- message length
  data : List Byte
  deriving DecidableEq, Repr

/-- A firmware image as the boot ROM sees it (R360). -/
structure Image where
  version : Nat
  ecdsaOk : Bool      -- the ECDSA P-384 signature verifies against the fused key hash
  lmsOk : Bool        -- the LMS signature verifies
  digest : Nat        -- SHA-384 of the image
  deriving DecidableEq, Repr

/-- A request of SPDM (R364): its version (0x12 or 0x13), whether it offers ECDSA P-384 and SHA-384, and its parameter
(a certificate slot or a measurement index). -/
structure SpdmReq where
  version : Nat
  p384 : Bool
  sha384 : Bool
  param : Nat
  deriving DecidableEq, Repr

/-- Where an uncorrectable error is found (R366). -/
inductive UePlace where
  | dramRead (tile : Nat)
  | l2Clean (tile : Nat)
  | l2Dirty (tile : Nat)
  | core (v : Nat)
  | l2Slice (comb : Nat)
  deriving DecidableEq, Repr

end Sys2Proof.Machine
end

