-- ==== Sys2Proof/Syntax.lean ====
section
/-! DEFINITION. The instructions: one constructor per row of spec/opcode_table.json. A word instruction carries its
tokens (R127) and the fields of its encoding; a device event carries the thing it happens to and, where it comes from
outside the device, what arrives. -/

namespace Sys2Proof

open Sys2Proof.Machine

inductive Instr where
  -- Control stream words
  | add (tk : Tok) (d : BitVec 5) (a : BitVec 5) (b : BitVec 5)
  | sub (tk : Tok) (d : BitVec 5) (a : BitVec 5) (b : BitVec 5)
  | and (tk : Tok) (d : BitVec 5) (a : BitVec 5) (b : BitVec 5)
  | or (tk : Tok) (d : BitVec 5) (a : BitVec 5) (b : BitVec 5)
  | xor (tk : Tok) (d : BitVec 5) (a : BitVec 5) (b : BitVec 5)
  | andn (tk : Tok) (d : BitVec 5) (a : BitVec 5) (b : BitVec 5)
  | sll (tk : Tok) (d : BitVec 5) (a : BitVec 5) (b : BitVec 5)
  | srl (tk : Tok) (d : BitVec 5) (a : BitVec 5) (b : BitVec 5)
  | sra (tk : Tok) (d : BitVec 5) (a : BitVec 5) (b : BitVec 5)
  | mul (tk : Tok) (d : BitVec 5) (a : BitVec 5) (b : BitVec 5)
  | mulh (tk : Tok) (d : BitVec 5) (a : BitVec 5) (b : BitVec 5)
  | mulhu (tk : Tok) (d : BitVec 5) (a : BitVec 5) (b : BitVec 5)
  | div (tk : Tok) (d : BitVec 5) (a : BitVec 5) (b : BitVec 5)
  | divu (tk : Tok) (d : BitVec 5) (a : BitVec 5) (b : BitVec 5)
  | rem (tk : Tok) (d : BitVec 5) (a : BitVec 5) (b : BitVec 5)
  | remu (tk : Tok) (d : BitVec 5) (a : BitVec 5) (b : BitVec 5)
  | min (tk : Tok) (d : BitVec 5) (a : BitVec 5) (b : BitVec 5)
  | max (tk : Tok) (d : BitVec 5) (a : BitVec 5) (b : BitVec 5)
  | minu (tk : Tok) (d : BitVec 5) (a : BitVec 5) (b : BitVec 5)
  | maxu (tk : Tok) (d : BitVec 5) (a : BitVec 5) (b : BitVec 5)
  | clz (tk : Tok) (d : BitVec 5) (a : BitVec 5)
  | popc (tk : Tok) (d : BitVec 5) (a : BitVec 5)
  | addi (tk : Tok) (d : BitVec 5) (a : BitVec 5) (i : BitVec 12)
  | andi (tk : Tok) (d : BitVec 5) (a : BitVec 5) (i : BitVec 12)
  | ori (tk : Tok) (d : BitVec 5) (a : BitVec 5) (i : BitVec 12)
  | xori (tk : Tok) (d : BitVec 5) (a : BitVec 5) (i : BitVec 12)
  | slli (tk : Tok) (d : BitVec 5) (a : BitVec 5) (s : BitVec 6)
  | srli (tk : Tok) (d : BitVec 5) (a : BitVec 5) (s : BitVec 6)
  | srai (tk : Tok) (d : BitVec 5) (a : BitVec 5) (s : BitVec 6)
  | li (tk : Tok) (d : BitVec 5) (i : BitVec 16)
  | lis (tk : Tok) (d : BitVec 5) (i : BitVec 16)
  | cmp (tk : Tok) (q : BitVec 3) (c : BitVec 3) (a : BitVec 5) (b : BitVec 5) (k : BitVec 2) (n : BitVec 1)
  | cmpi (tk : Tok) (q : BitVec 3) (c : BitVec 3) (a : BitVec 5) (i : BitVec 11)
  | qand (tk : Tok) (d : BitVec 3) (a : BitVec 3) (b : BitVec 3)
  | qor (tk : Tok) (d : BitVec 3) (a : BitVec 3) (b : BitVec 3)
  | qxor (tk : Tok) (d : BitVec 3) (a : BitVec 3) (b : BitVec 3)
  | qandn (tk : Tok) (d : BitVec 3) (a : BitVec 3) (b : BitVec 3)
  | qnot (tk : Tok) (d : BitVec 3) (a : BitVec 3)
  | qset (tk : Tok) (d : BitVec 3)
  | qclr (tk : Tok) (d : BitVec 3)
  | ld (tk : Tok) (d : BitVec 5) (a : BitVec 5) (c : BitVec 4) (s : BitVec 3) (l : BitVec 2) (z : BitVec 3)
  | st (tk : Tok) (d : BitVec 5) (a : BitVec 5) (c : BitVec 4) (s : BitVec 3) (l : BitVec 2) (z : BitVec 3)
  | ldl (tk : Tok) (d : BitVec 5) (a : BitVec 5) (c : BitVec 4) (s : BitVec 3) (e : BitVec 2) (z : BitVec 3)
  | stl (tk : Tok) (d : BitVec 5) (a : BitVec 5) (c : BitVec 4) (s : BitVec 3) (e : BitVec 2) (z : BitVec 3)
  | amoG (tk : Tok) (d : BitVec 5) (a : BitVec 5) (c : BitVec 4) (s : BitVec 3) (o : BitVec 4) (z : BitVec 1)
  | amoS (tk : Tok) (d : BitVec 5) (a : BitVec 5) (c : BitVec 4) (s : BitVec 3) (o : BitVec 4) (z : BitVec 1)
  | amoSg (tk : Tok) (d : BitVec 5) (a : BitVec 5) (c : BitVec 4) (s : BitVec 3) (o : BitVec 4) (z : BitVec 1)
  | redf (tk : Tok) (b : BitVec 5) (a : BitVec 5) (c : BitVec 4) (s : BitVec 3) (r : BitVec 3) (t : BitVec 1)
  | faddF64 (tk : Tok) (d : BitVec 5) (a : BitVec 5) (b : BitVec 5) (r : BitVec 3) (n : BitVec 1)
  | fsubF64 (tk : Tok) (d : BitVec 5) (a : BitVec 5) (b : BitVec 5) (r : BitVec 3) (n : BitVec 1)
  | fmulF64 (tk : Tok) (d : BitVec 5) (a : BitVec 5) (b : BitVec 5) (r : BitVec 3) (n : BitVec 1)
  | fdivF64 (tk : Tok) (d : BitVec 5) (a : BitVec 5) (b : BitVec 5) (r : BitVec 3) (n : BitVec 1)
  | fminF64 (tk : Tok) (d : BitVec 5) (a : BitVec 5) (b : BitVec 5) (n : BitVec 1)
  | fmaxF64 (tk : Tok) (d : BitVec 5) (a : BitVec 5) (b : BitVec 5) (n : BitVec 1)
  | fsqrtF64 (tk : Tok) (d : BitVec 5) (a : BitVec 5) (r : BitVec 3) (n : BitVec 1)
  | ffmaF64 (tk : Tok) (d : BitVec 5) (a : BitVec 5) (b : BitVec 5) (r : BitVec 3) (n : BitVec 1)
  | faddF32 (tk : Tok) (d : BitVec 5) (a : BitVec 5) (b : BitVec 5) (r : BitVec 3) (n : BitVec 1)
  | fsubF32 (tk : Tok) (d : BitVec 5) (a : BitVec 5) (b : BitVec 5) (r : BitVec 3) (n : BitVec 1)
  | fmulF32 (tk : Tok) (d : BitVec 5) (a : BitVec 5) (b : BitVec 5) (r : BitVec 3) (n : BitVec 1)
  | fdivF32 (tk : Tok) (d : BitVec 5) (a : BitVec 5) (b : BitVec 5) (r : BitVec 3) (n : BitVec 1)
  | fminF32 (tk : Tok) (d : BitVec 5) (a : BitVec 5) (b : BitVec 5) (n : BitVec 1)
  | fmaxF32 (tk : Tok) (d : BitVec 5) (a : BitVec 5) (b : BitVec 5) (n : BitVec 1)
  | fsqrtF32 (tk : Tok) (d : BitVec 5) (a : BitVec 5) (r : BitVec 3) (n : BitVec 1)
  | ffmaF32 (tk : Tok) (d : BitVec 5) (a : BitVec 5) (b : BitVec 5) (r : BitVec 3) (n : BitVec 1)
  | cvt (tk : Tok) (d : BitVec 5) (a : BitVec 5) (s : BitVec 3) (t : BitVec 3) (r : BitVec 3) (n : BitVec 1) (u : BitVec 1)
  | bq (tk : Tok) (q : BitVec 3) (o : BitVec 18)
  | bnq (tk : Tok) (q : BitVec 3) (o : BitVec 18)
  | j (tk : Tok) (o : BitVec 21)
  | call (tk : Tok) (o : BitVec 21)
  | jmpr (tk : Tok) (a : BitVec 5)
  | callr (tk : Tok) (a : BitVec 5)
  | ret (tk : Tok)
  | ifence (tk : Tok)
  | fence (tk : Tok) (m : BitVec 16) (s : BitVec 3)
  | waitw (tk : Tok) (b : BitVec 5) (a : BitVec 5) (k : BitVec 4) (s : BitVec 3) (c : BitVec 3)
  | exit (p : BitVec 2) (a : BitVec 5) (n : BitVec 3)
  | arenaH (tk : Tok) (d : BitVec 5) (i : BitVec 2)
  | arenaA (tk : Tok) (d : BitVec 5) (i : BitVec 2) (a : BitVec 5)
  | engage (tk : Tok) (q : BitVec 3) (d : BitVec 5) (a : BitVec 5) (b : BitVec 5)
  | lease (tk : Tok) (q : BitVec 3) (d : BitVec 5) (a : BitVec 5)
  | unlease (tk : Tok) (q : BitVec 3) (a : BitVec 5)
  | mfsr (tk : Tok) (d : BitVec 5) (s : BitVec 12)
  | mtsr (tk : Tok) (a : BitVec 5) (s : BitVec 12)
  | trap (p : BitVec 2) (c : BitVec 16)
  | brk (p : BitVec 2) (c : BitVec 16)
  | take (tk : Tok) (r : BitVec 5)
  | give (tk : Tok) (r : BitVec 5)
  | nopToken (tk : Tok)
  | kset (tk : Tok) (k : BitVec 6) (i : BitVec 13)
  | kinc (tk : Tok) (k : BitVec 6) (i : BitVec 13)
  | kwge (tk : Tok) (k : BitVec 6) (i : BitVec 13)
  | kwgs (tk : Tok) (k : BitVec 6) (i : BitVec 13)
  | kwlt (tk : Tok) (k : BitVec 6) (i : BitVec 13)
  | kread (tk : Tok) (k : BitVec 6) (d : BitVec 5)
  | kincr (tk : Tok) (k : BitVec 6) (s : BitVec 5)
  | blockHeader (l : BitVec 10) (r : BitVec 1) (s : BitVec 3) (g : BitVec 1) (n : BitVec 11)
  | nop
  | mov (d : BitVec 5) (a : BitVec 5)
  | addc (d : BitVec 5) (i : BitVec 5)
  | lic (d : BitVec 5) (i : BitVec 5)
  | kincCompact (k : BitVec 6) (i : BitVec 4)
  -- Load stream words
  | cp1d (tk : Tok) (g : BitVec 2) (c : BitVec 4) (s : BitVec 3) (l : BitVec 2)
  | cp2d (tk : Tok) (g : BitVec 2) (c : BitVec 4) (s : BitVec 3) (l : BitVec 2)
  | cp3d (tk : Tok) (g : BitVec 2) (c : BitVec 4) (s : BitVec 3) (l : BitVec 2)
  | cpw1d (tk : Tok) (g : BitVec 2) (c : BitVec 4) (s : BitVec 3) (l : BitVec 2)
  | cpw2d (tk : Tok) (g : BitVec 2) (c : BitVec 4) (s : BitVec 3) (l : BitVec 2)
  | cpw3d (tk : Tok) (g : BitVec 2) (c : BitVec 4) (s : BitVec 3) (l : BitVec 2)
  | cpl (tk : Tok) (g : BitVec 2) (c : BitVec 4) (s : BitVec 3)
  | cpr (tk : Tok) (g : BitVec 2) (c : BitVec 4) (s : BitVec 3)
  | cpm (tk : Tok) (g : BitVec 2) (c : BitVec 4) (s : BitVec 3)
  | cvcp (tk : Tok) (g : BitVec 2) (c : BitVec 4) (s : BitVec 3) (l : BitVec 2) (r : BitVec 3) (n : BitVec 1) (u : BitVec 1)
  | pfBulk (tk : Tok) (g : BitVec 2) (c : BitVec 4) (s : BitVec 3) (l : BitVec 2)
  | pfRel (tk : Tok) (g : BitVec 2) (c : BitVec 4) (s : BitVec 3)
  | lgath (tk : Tok) (g : BitVec 2) (c : BitVec 4) (s : BitVec 3) (l : BitVec 2)
  | lscat (tk : Tok) (g : BitVec 2) (c : BitVec 4) (s : BitVec 3) (l : BitVec 2)
  | lfill (tk : Tok) (g : BitVec 2) (c : BitVec 4) (s : BitVec 3) (l : BitVec 2)
  | badd (tk : Tok) (d : BitVec 4) (a : BitVec 4) (b : BitVec 4)
  | bsub (tk : Tok) (d : BitVec 4) (a : BitVec 4) (b : BitVec 4)
  | band (tk : Tok) (d : BitVec 4) (a : BitVec 4) (b : BitVec 4)
  | bor (tk : Tok) (d : BitVec 4) (a : BitVec 4) (b : BitVec 4)
  | bxor (tk : Tok) (d : BitVec 4) (a : BitVec 4) (b : BitVec 4)
  | bsll (tk : Tok) (d : BitVec 4) (a : BitVec 4) (b : BitVec 4)
  | bsrl (tk : Tok) (d : BitVec 4) (a : BitVec 4) (b : BitVec 4)
  | bmul (tk : Tok) (d : BitVec 4) (a : BitVec 4) (b : BitVec 4)
  | baddi (tk : Tok) (d : BitVec 4) (a : BitVec 4) (i : BitVec 14)
  | bli (tk : Tok) (d : BitVec 4) (i : BitVec 16)
  | blis (tk : Tok) (d : BitVec 4) (i : BitVec 16)
  | bmov (d : BitVec 4) (a : BitVec 4)
  | baddc (d : BitVec 4) (i : BitVec 6)
  -- Matrix stream words
  | mma (tk : Tok) (t : BitVec 3) (a : BitVec 4) (b : BitVec 4) (g : BitVec 3) (f : BitVec 5) (r : BitVec 3)
  | mmat (tk : Tok) (t : BitVec 3) (a : BitVec 4) (b : BitVec 4) (g : BitVec 3) (f : BitVec 5) (r : BitVec 3)
  | tclr (tk : Tok) (t : BitVec 3)
  | tldA (tk : Tok) (t : BitVec 3) (b : BitVec 4)
  | tldW (tk : Tok) (t : BitVec 3) (b : BitVec 4)
  | drain (tk : Tok) (t : BitVec 3) (b : BitVec 4) (d : BitVec 2) (r : BitVec 3) (e : BitVec 1) (k : BitVec 6) (i : BitVec 3)
  | eload (tk : Tok) (r : BitVec 3) (b : BitVec 4) (n : BitVec 5) (u : BitVec 1)
  | gli (tk : Tok) (d : BitVec 4) (i : BitVec 16)
  | glis (tk : Tok) (d : BitVec 4) (i : BitVec 16)
  | tclrCompact (t : BitVec 3)
  -- Vector stream words
  | vaddF32 (tk : Tok) (d : BitVec 5) (a : BitVec 5) (b : BitVec 5) (r : BitVec 3) (n : BitVec 1) (w : BitVec 1)
  | vsubF32 (tk : Tok) (d : BitVec 5) (a : BitVec 5) (b : BitVec 5) (r : BitVec 3) (n : BitVec 1) (w : BitVec 1)
  | vmulF32 (tk : Tok) (d : BitVec 5) (a : BitVec 5) (b : BitVec 5) (r : BitVec 3) (n : BitVec 1) (w : BitVec 1)
  | vfmaF32 (tk : Tok) (d : BitVec 5) (a : BitVec 5) (b : BitVec 5) (r : BitVec 3) (n : BitVec 1) (w : BitVec 1)
  | vminF32 (tk : Tok) (d : BitVec 5) (a : BitVec 5) (b : BitVec 5) (n : BitVec 1) (w : BitVec 1)
  | vmaxF32 (tk : Tok) (d : BitVec 5) (a : BitVec 5) (b : BitVec 5) (n : BitVec 1) (w : BitVec 1)
  | vdivF32 (tk : Tok) (d : BitVec 5) (a : BitVec 5) (b : BitVec 5) (r : BitVec 3) (n : BitVec 1) (w : BitVec 1)
  | vaddF64 (tk : Tok) (d : BitVec 5) (a : BitVec 5) (b : BitVec 5) (r : BitVec 3) (n : BitVec 1) (w : BitVec 1)
  | vsubF64 (tk : Tok) (d : BitVec 5) (a : BitVec 5) (b : BitVec 5) (r : BitVec 3) (n : BitVec 1) (w : BitVec 1)
  | vmulF64 (tk : Tok) (d : BitVec 5) (a : BitVec 5) (b : BitVec 5) (r : BitVec 3) (n : BitVec 1) (w : BitVec 1)
  | vfmaF64 (tk : Tok) (d : BitVec 5) (a : BitVec 5) (b : BitVec 5) (r : BitVec 3) (n : BitVec 1) (w : BitVec 1)
  | vminF64 (tk : Tok) (d : BitVec 5) (a : BitVec 5) (b : BitVec 5) (n : BitVec 1) (w : BitVec 1)
  | vmaxF64 (tk : Tok) (d : BitVec 5) (a : BitVec 5) (b : BitVec 5) (n : BitVec 1) (w : BitVec 1)
  | vdivF64 (tk : Tok) (d : BitVec 5) (a : BitVec 5) (b : BitVec 5) (r : BitVec 3) (n : BitVec 1) (w : BitVec 1)
  | vaddF16 (tk : Tok) (d : BitVec 5) (a : BitVec 5) (b : BitVec 5) (r : BitVec 3) (n : BitVec 1) (w : BitVec 1)
  | vsubF16 (tk : Tok) (d : BitVec 5) (a : BitVec 5) (b : BitVec 5) (r : BitVec 3) (n : BitVec 1) (w : BitVec 1)
  | vmulF16 (tk : Tok) (d : BitVec 5) (a : BitVec 5) (b : BitVec 5) (r : BitVec 3) (n : BitVec 1) (w : BitVec 1)
  | vfmaF16 (tk : Tok) (d : BitVec 5) (a : BitVec 5) (b : BitVec 5) (r : BitVec 3) (n : BitVec 1) (w : BitVec 1)
  | vminF16 (tk : Tok) (d : BitVec 5) (a : BitVec 5) (b : BitVec 5) (n : BitVec 1) (w : BitVec 1)
  | vmaxF16 (tk : Tok) (d : BitVec 5) (a : BitVec 5) (b : BitVec 5) (n : BitVec 1) (w : BitVec 1)
  | vdivF16 (tk : Tok) (d : BitVec 5) (a : BitVec 5) (b : BitVec 5) (r : BitVec 3) (n : BitVec 1) (w : BitVec 1)
  | vaddBf16 (tk : Tok) (d : BitVec 5) (a : BitVec 5) (b : BitVec 5) (r : BitVec 3) (n : BitVec 1) (w : BitVec 1)
  | vsubBf16 (tk : Tok) (d : BitVec 5) (a : BitVec 5) (b : BitVec 5) (r : BitVec 3) (n : BitVec 1) (w : BitVec 1)
  | vmulBf16 (tk : Tok) (d : BitVec 5) (a : BitVec 5) (b : BitVec 5) (r : BitVec 3) (n : BitVec 1) (w : BitVec 1)
  | vfmaBf16 (tk : Tok) (d : BitVec 5) (a : BitVec 5) (b : BitVec 5) (r : BitVec 3) (n : BitVec 1) (w : BitVec 1)
  | vminBf16 (tk : Tok) (d : BitVec 5) (a : BitVec 5) (b : BitVec 5) (n : BitVec 1) (w : BitVec 1)
  | vmaxBf16 (tk : Tok) (d : BitVec 5) (a : BitVec 5) (b : BitVec 5) (n : BitVec 1) (w : BitVec 1)
  | vdivBf16 (tk : Tok) (d : BitVec 5) (a : BitVec 5) (b : BitVec 5) (r : BitVec 3) (n : BitVec 1) (w : BitVec 1)
  | vaddI32 (tk : Tok) (d : BitVec 5) (a : BitVec 5) (b : BitVec 5) (s : BitVec 1) (w : BitVec 1)
  | vsubI32 (tk : Tok) (d : BitVec 5) (a : BitVec 5) (b : BitVec 5) (s : BitVec 1) (w : BitVec 1)
  | vmulI32 (tk : Tok) (d : BitVec 5) (a : BitVec 5) (b : BitVec 5) (s : BitVec 1) (w : BitVec 1)
  | vmulhI32 (tk : Tok) (d : BitVec 5) (a : BitVec 5) (b : BitVec 5) (w : BitVec 1)
  | vand (tk : Tok) (d : BitVec 5) (a : BitVec 5) (b : BitVec 5) (w : BitVec 1)
  | vor (tk : Tok) (d : BitVec 5) (a : BitVec 5) (b : BitVec 5) (w : BitVec 1)
  | vxor (tk : Tok) (d : BitVec 5) (a : BitVec 5) (b : BitVec 5) (w : BitVec 1)
  | vandn (tk : Tok) (d : BitVec 5) (a : BitVec 5) (b : BitVec 5) (w : BitVec 1)
  | vsll (tk : Tok) (d : BitVec 5) (a : BitVec 5) (b : BitVec 5) (w : BitVec 1)
  | vsrl (tk : Tok) (d : BitVec 5) (a : BitVec 5) (b : BitVec 5) (w : BitVec 1)
  | vsra (tk : Tok) (d : BitVec 5) (a : BitVec 5) (b : BitVec 5) (w : BitVec 1)
  | vaddI16 (tk : Tok) (d : BitVec 5) (a : BitVec 5) (b : BitVec 5) (s : BitVec 1) (w : BitVec 1)
  | vsubI16 (tk : Tok) (d : BitVec 5) (a : BitVec 5) (b : BitVec 5) (s : BitVec 1) (w : BitVec 1)
  | vmulI16 (tk : Tok) (d : BitVec 5) (a : BitVec 5) (b : BitVec 5) (s : BitVec 1) (w : BitVec 1)
  | vcmp (tk : Tok) (q : BitVec 4) (c : BitVec 3) (a : BitVec 5) (b : BitVec 5) (t : BitVec 3) (n : BitVec 1) (w : BitVec 1)
  | vmov (tk : Tok) (d : BitVec 5) (a : BitVec 5) (w : BitVec 1)
  | vsel (tk : Tok) (d : BitVec 5) (a : BitVec 5) (b : BitVec 5) (w : BitVec 1)
  | vbcast (tk : Tok) (d : BitVec 5) (x : BitVec 4) (w : BitVec 1)
  | vsqrt (tk : Tok) (t : BitVec 2) (d : BitVec 5) (a : BitVec 5) (r : BitVec 3) (n : BitVec 1) (w : BitVec 1)
  | vrsqrt (tk : Tok) (t : BitVec 2) (d : BitVec 5) (a : BitVec 5) (r : BitVec 3) (n : BitVec 1) (w : BitVec 1)
  | vexp2 (tk : Tok) (t : BitVec 2) (d : BitVec 5) (a : BitVec 5) (r : BitVec 3) (n : BitVec 1) (w : BitVec 1)
  | vlog2 (tk : Tok) (t : BitVec 2) (d : BitVec 5) (a : BitVec 5) (r : BitVec 3) (n : BitVec 1) (w : BitVec 1)
  | vexp (tk : Tok) (t : BitVec 2) (d : BitVec 5) (a : BitVec 5) (r : BitVec 3) (n : BitVec 1) (w : BitVec 1)
  | vln (tk : Tok) (t : BitVec 2) (d : BitVec 5) (a : BitVec 5) (r : BitVec 3) (n : BitVec 1) (w : BitVec 1)
  | vsin (tk : Tok) (t : BitVec 2) (d : BitVec 5) (a : BitVec 5) (r : BitVec 3) (n : BitVec 1) (w : BitVec 1)
  | vcos (tk : Tok) (t : BitVec 2) (d : BitVec 5) (a : BitVec 5) (r : BitVec 3) (n : BitVec 1) (w : BitVec 1)
  | vtanh (tk : Tok) (t : BitVec 2) (d : BitVec 5) (a : BitVec 5) (r : BitVec 3) (n : BitVec 1) (w : BitVec 1)
  | verf (tk : Tok) (t : BitVec 2) (d : BitVec 5) (a : BitVec 5) (r : BitVec 3) (n : BitVec 1) (w : BitVec 1)
  | vrcp (tk : Tok) (t : BitVec 2) (d : BitVec 5) (a : BitVec 5) (r : BitVec 3) (n : BitVec 1) (w : BitVec 1)
  | vcvtF32 (tk : Tok) (f : BitVec 5) (e : BitVec 1) (d : BitVec 5) (a : BitVec 5) (r : BitVec 3) (n : BitVec 1) (s : BitVec 1) (w : BitVec 1)
  | vcvtF64 (tk : Tok) (f : BitVec 5) (e : BitVec 1) (d : BitVec 5) (a : BitVec 5) (r : BitVec 3) (n : BitVec 1) (s : BitVec 1) (w : BitVec 1)
  | vcvtI32 (tk : Tok) (f : BitVec 5) (e : BitVec 1) (d : BitVec 5) (a : BitVec 5) (r : BitVec 3) (n : BitVec 1) (s : BitVec 1) (w : BitVec 1)
  | vquant (tk : Tok) (f : BitVec 5) (d : BitVec 5) (a : BitVec 5) (r : BitVec 3) (n : BitVec 1) (w : BitVec 1)
  | vexpand (tk : Tok) (f : BitVec 5) (d : BitVec 5) (a : BitVec 5) (r : BitVec 3) (n : BitVec 1) (w : BitVec 1)
  | vrsum (tk : Tok) (t : BitVec 3) (d : BitVec 5) (a : BitVec 5) (r : BitVec 3) (n : BitVec 1) (w : BitVec 1)
  | vrmax (tk : Tok) (t : BitVec 3) (d : BitVec 5) (a : BitVec 5) (r : BitVec 3) (n : BitVec 1) (w : BitVec 1)
  | vrmin (tk : Tok) (t : BitVec 3) (d : BitVec 5) (a : BitVec 5) (r : BitVec 3) (n : BitVec 1) (w : BitVec 1)
  | vbcl (tk : Tok) (z : BitVec 2) (d : BitVec 5) (a : BitVec 5) (w : BitVec 1) (i : BitVec 7)
  | vrotl (tk : Tok) (z : BitVec 2) (d : BitVec 5) (a : BitVec 5) (w : BitVec 1) (i : BitVec 7)
  | vshuf (tk : Tok) (z : BitVec 2) (d : BitVec 5) (a : BitVec 5) (w : BitVec 1) (b : BitVec 5)
  | vzip (tk : Tok) (z : BitVec 2) (d : BitVec 5) (a : BitVec 5) (w : BitVec 1)
  | vldr (tk : Tok) (u : BitVec 2) (x : BitVec 4) (d : BitVec 5) (w : BitVec 1)
  | vstr (tk : Tok) (u : BitVec 2) (x : BitVec 4) (d : BitVec 5) (w : BitVec 1)
  | vldG (tk : Tok) (z : BitVec 2) (x : BitVec 4) (d : BitVec 5) (c : BitVec 4) (s : BitVec 3) (l : BitVec 2) (w : BitVec 1)
  | vstG (tk : Tok) (z : BitVec 2) (x : BitVec 4) (d : BitVec 5) (c : BitVec 4) (s : BitVec 3) (l : BitVec 2) (w : BitVec 1)
  | vldSg (tk : Tok) (z : BitVec 2) (x : BitVec 4) (d : BitVec 5) (c : BitVec 4) (s : BitVec 3) (w : BitVec 1)
  | vstSg (tk : Tok) (z : BitVec 2) (x : BitVec 4) (d : BitVec 5) (c : BitVec 4) (s : BitVec 3) (w : BitVec 1)
  | vgath (tk : Tok) (z : BitVec 2) (u : BitVec 1) (d : BitVec 5) (i : BitVec 5) (x : BitVec 4) (w : BitVec 1)
  | vscat (tk : Tok) (z : BitVec 2) (u : BitVec 1) (d : BitVec 5) (i : BitVec 5) (x : BitVec 4) (w : BitVec 1)
  | pand (tk : Tok) (d : BitVec 4) (a : BitVec 4) (b : BitVec 4)
  | por (tk : Tok) (d : BitVec 4) (a : BitVec 4) (b : BitVec 4)
  | pxor (tk : Tok) (d : BitVec 4) (a : BitVec 4) (b : BitVec 4)
  | pandn (tk : Tok) (d : BitVec 4) (a : BitVec 4) (b : BitVec 4)
  | pnot (tk : Tok) (d : BitVec 4) (a : BitVec 4)
  | pset (tk : Tok) (d : BitVec 4)
  | pclr (tk : Tok) (d : BitVec 4)
  | xli (tk : Tok) (d : BitVec 4) (i : BitVec 16)
  | xlis (tk : Tok) (d : BitVec 4) (i : BitVec 16)
  | xadd (tk : Tok) (d : BitVec 4) (a : BitVec 4) (b : BitVec 4)
  | xsub (tk : Tok) (d : BitVec 4) (a : BitVec 4) (b : BitVec 4)
  | xand (tk : Tok) (d : BitVec 4) (a : BitVec 4) (b : BitVec 4)
  | xorX (tk : Tok) (d : BitVec 4) (a : BitVec 4) (b : BitVec 4)
  | xxor (tk : Tok) (d : BitVec 4) (a : BitVec 4) (b : BitVec 4)
  | xsll (tk : Tok) (d : BitVec 4) (a : BitVec 4) (b : BitVec 4)
  | xsrl (tk : Tok) (d : BitVec 4) (a : BitVec 4) (b : BitVec 4)
  | xmul (tk : Tok) (d : BitVec 4) (a : BitVec 4) (b : BitVec 4)
  | vfence (tk : Tok) (m : BitVec 16) (s : BitVec 3)
  | vflrd (tk : Tok) (d : BitVec 5) (f : BitVec 3) (w : BitVec 1)
  | vflclr (tk : Tok) (f : BitVec 3)
  | vbaseW (tk : Tok) (x : BitVec 4)
  | vbaseR (tk : Tok) (x : BitVec 4)
  | vrotW (tk : Tok) (x : BitVec 4)
  | vrotR (tk : Tok) (x : BitVec 4)
  | vgov (p : BitVec 4)
  -- Device events
  | blockRunEnd (v : Nat) (st : Stream)
  | accessPerform (v : Nat) (k : Nat)
  | lCmdSourceReleased (v : Nat) (k : Nat)
  | lCmdDelivered (v : Nat) (k : Nat)
  | notifyWrite (v : Nat) (k : Nat)
  | lCmdServiceFault (v : Nat) (k : Nat)
  | mFinish (v : Nat)
  | drainStart (v : Nat)
  | drainRow (v : Nat)
  | drainDelivered (v : Nat)
  | portStarvationFreeze (b : Buf)
  | combEngineDecision (v : Nat)
  | rowMax (k : Nat)
  | rowExps (k : Nat)
  | rowScale (k : Nat)
  | rowAll (k : Nat)
  | gthGet (k : Nat)
  | gthPut (k : Nat)
  | selTop (k : Nat)
  | selPack (k : Nat)
  | xfmTr (k : Nat)
  | colSum (k : Nat)
  | colBcast (k : Nat)
  | colCat (k : Nat)
  | netSend (k : Nat)
  | netWrite (k : Nat)
  | netPost (k : Nat)
  | engineReleasedEvent (k : Nat)
  | engineDeliveredEvent (k : Nat)
  | engineOccupancyEnd (k : Nat)
  | engineWakeDone (e : Nat)
  | engineServiceFault (k : Nat)
  | holdCreate (e : Nat)
  | holdLapse (e : Nat)
  | standingLeaseGrant (e : Nat) (p : Nat)
  | standingLeaseEnd (e : Nat) (p : Nat)
  | engineRecall (e : Nat)
  | lsePccapWrite (x : BitVec 64)
  | lseSwcapWrite (x : BitVec 64)
  | taskCompletion (v : Nat)
  | successorApply (k : Nat)
  | enqueuePacket (k : Nat)
  | enqueueAck (k : Nat)
  | readyPacket (k : Nat)
  | gangCompleteReport (k : Nat)
  | arenaAllocate (n : Nat)
  | arenaZeroFillDone (n : Nat)
  | gangPlace (n : Nat)
  | ageingInterval (n : Nat)
  | taskOverrun (v : Nat)
  | notify (p : Nat) (i : Nat)
  | queueConsume (i : Nat)
  | queueBind (i : Nat) (x : BitVec 64)
  | queueUnbind (i : Nat)
  | queueErrClear (i : Nat)
  | flogRead
  | preemptRequest (p : Nat)
  | preemptResume (p : Nat)
  | arenaSlotReset (p : Nat)
  | registerWrite (o : Nat) (x : BitVec 64) (w : Writer)
  | corePark (v : Nat)
  | faultRecordWrite (p : Nat)
  | faultQueueWrite (p : Nat) (c : Bool) (x : BitVec 64)
  | coreResume (p : Nat) (v : Nat)
  | coreAbandon (p : Nat) (v : Nat)
  | sideLogKick (p : Nat) (v : Nat)
  | frameRewrite (p : Nat) (v : Nat)
  | sideLogReplay (v : Nat) (k : Nat)
  | autoResume (v : Nat)
  | tlbInvalidate (p : Nat) (x : BitVec 64)
  | invalidateDone (p : Nat)
  | atsResponse (p : Nat) (a : Nat) (r : AtsReply)
  | pageResponse (p : Nat) (a : Nat) (c : PageCode)
  | atsInvalidation (p : Nat) (a : Nat) (z : Nat)
  | tileFill (t : Nat)
  | layoutPrepare
  | layoutApplyRequest
  | layoutAbort
  | lapBoundary
  | clusterScrubDone (c : Nat)
  | pageReseal (a : Nat)
  | quotaInterval (c : Nat)
  | mpReset
  | rekeyRequest (p : Nat)
  | rekeySweepTile (p : Nat)
  | capFlogRead
  | slipClear (p : Nat)
  | priEnable (p : Nat)
  | tdiStateChange (p : Nat) (t : Tdi)
  | getVersion (f : Nat) (x : SpdmReq)
  | getCapabilities (f : Nat) (x : SpdmReq)
  | negotiateAlgorithms (f : Nat) (x : SpdmReq)
  | getDigests (f : Nat) (x : SpdmReq)
  | getCertificate (f : Nat) (x : SpdmReq)
  | challenge (f : Nat) (x : SpdmReq)
  | getMeasurements (f : Nat) (x : SpdmReq)
  | keyExchange (f : Nat) (x : SpdmReq)
  | relayPacketReceive (g : Nat) (p : Nat) (n : Nat) (m : Msg)
  | relayAck (g : Nat) (p : Nat) (n : Nat)
  | relayRto (g : Nat) (p : Nat) (n : Nat)
  | flitCrcError (i : Nat)
  | linkRetrain (i : Nat)
  | retrainTimeout (i : Nat)
  | uePacketReceive (c : Nat) (u : UePacket)
  | ueAckReceive (c : Nat) (n : Nat) (b : BitVec 64)
  | ueReorderTimeout (c : Nat) (n : Nat)
  | ueRto (c : Nat) (n : Nat)
  | ueConnOpen (i : Nat) (x : BitVec 128)
  | ueConnClose (i : Nat)
  | ueWindowWrite (i : Nat) (x : BitVec 128)
  | coldReset
  | firmwareUpload (m : Image)
  | firmwareCommit
  | watchdogKick
  | watchdogExpiry
  | eccCorrected
  | uncorrectableError (u : UePlace)
  | linkRetrainSuccess (i : Nat)
  | cClockChange (f : Nat)
  | refresh (i : Nat)
  deriving DecidableEq, Repr

end Sys2Proof
end

