-- ==== Sys2Proof/Machine/CoreState.lean ====
section
/-! DEFINITION. The state of one core (R10, R13–R16, R62, R148, R177, R193, R208, R212, R302, R304): its four streams,
buffers, tokens, counters, pending accesses, commands in flight, side log and cause records. -/

namespace Sys2Proof.Machine

open Sys2Proof

/-- The cause codes of Table 17.3. -/
inductive Cause where
  | illegal | accessList | addressing | counterOverflow | translation | protection | bound | hostRefused
  | hostOutstanding | capFailure | outlived | leaseRecalled | overrun | trap | breakpoint
  deriving DecidableEq, Repr

/-- Code and rank of a cause (Table 17.3: the two columns agree). -/
def Cause.code : Cause → Nat
  | .illegal => 1 | .accessList => 2 | .addressing => 3 | .counterOverflow => 4 | .translation => 5
  | .protection => 6 | .bound => 7 | .hostRefused => 8 | .hostOutstanding => 9 | .capFailure => 10
  | .outlived => 11 | .leaseRecalled => 12 | .overrun => 13 | .trap => 14 | .breakpoint => 15

/-- The routes of R303. -/
inductive Route where
  | automatic | handler | software
  deriving DecidableEq, Repr

def Route.code : Route → Nat
  | .automatic => 0 | .handler => 1 | .software => 2

/-- The route column of Table 17.3. -/
def Cause.route : Cause → Route
  | .illegal | .accessList | .addressing | .counterOverflow | .outlived | .leaseRecalled | .trap => .handler
  | .hostOutstanding => .automatic
  | _ => .software

/-- A cause record (Table 17.9). `orig` is ORIG: 0 C, 1 L, 2 M, 3 V, 4 an L command, 5 a drain, 6 a shared-engine
command, 7 no instruction. -/
structure CauseRec where
  cause : Cause
  orig : Nat
  rel : Bool := false
  del : Bool := false
  det : Nat := 0
  doff : Nat := 0
  word : Nat := 0
  addr : Nat := 0
  mask : Nat := 0
  deriving DecidableEq, Repr

/-- Index of a stream in the frame's order C, L, M, V. -/
def Stream.ix : Stream → Nat
  | .C => 0 | .L => 1 | .M => 2 | .V => 3

def Stream.ofIx : Nat → Stream
  | 0 => .C | 1 => .L | 2 => .M | _ => .V

/-- The block a stream stands in (R128–R132). -/
structure Block where
  addr : Nat            -- G: address of the header
  len : Nat             -- LEN in halfwords; 0 while the header has not been executed
  rot : Bool
  stg : Nat
  n : Nat               -- repeat count read at entry
  runs : Nat            -- runs that n and STG give (R129)
  run : Nat             -- run index
  byRec : Bool          -- entered as the kernel of the loop record: n is the trip count (R15)
  called : Bool         -- entered by a call or as a handler: its end acts as a return (R165)
  deriving DecidableEq, Repr

/-- The block a stream is about to enter at an address. -/
def Block.entering (addr : Nat) (byRec called : Bool) : Block := ⟨addr, 0, false, 0, 0, 0, 0, byRec, called⟩

/-- A halfword fetched into a loop buffer; a fetch that faulted raises its cause when the word would issue (R131). -/
structure Fetched where
  bad : Option Cause
  half : Half
  deriving DecidableEq, Repr

/-- A release at core scope that a stream has yet to make (R13, R93, R167): a token push, an increment of a counter, or a
`kset`. -/
inductive HAct where
  | push (dst : Stream) (x : BitVec 32)
  | inc (k : BitVec 6) (n : Nat) (r : CauseRec)
  | set (k : BitVec 6) (x : BitVec 24)
  deriving DecidableEq, Repr

/-- A release that waits: the accesses of its stream numbered below `id` precede it (R92). -/
structure Held where
  id : Nat
  act : HAct
  deriving DecidableEq, Repr

/-- A fence that has issued and whose earlier accesses have not all performed (R92). -/
structure Fence where
  id : Nat              -- accesses of the stream numbered below precede it, the others follow it
  st : Stream
  mask : Nat            -- the classes that it orders
  deriving DecidableEq, Repr

/-- One instruction stream: its program counter (block, run, offset, phase), loop buffer and waiting pushes. -/
structure Strm where
  ended : Bool                          -- the loop record has ended (R15)
  phase : Nat                           -- 0 prologue, 1 kernel, 2 epilogue
  blk : Block
  off : Nat                             -- halfword offset from the header of the next word to issue
  lb : List (Option Fetched)            -- loop buffer (R10, R131); an absent halfword is fetched again
  lbAddr : Nat                          -- header address of the block in the loop buffer
  lbOk : Bool                           -- the loop buffer holds a block and is not stale
  hold : List Held                      -- pushes and increments that wait (R13, R93)
  last : Nat                            -- halfword offset of the word issued last
  gone : Bool                           -- abandoned by an `exit` in a handler (R271)
  deriving DecidableEq, Repr

def Strm.reset : Strm := ⟨true, 0, Block.entering 0 false false, 0, [], 0, false, [], 0, false⟩

/-- A moment: C-cycles and calendar slots since the end of cold reset (R105). -/
structure Now where
  clk : Nat
  slot : Nat
  deriving DecidableEq, Repr

/-! ### Events of the ordering model (R85–R90) -/

/-- What an event is: an access, a fence, or an end of a link of R90; `done` is a task's completion and `start` the placing
of a task, with the tasks whose completion it follows (R97). Of a pop, `back` counts the pushes of its queue since the push of
its token. -/
inductive EvKind where
  | access
  | fence (mask scope : Nat)
  | push (queue : Nat)
  | pop (queue back : Nat)
  | inc (k : Nat)
  | kset (k : Nat)
  | obs (k : Nat)
  | fork (th : Nat)
  | done
  | start (tasks : List Nat)
  deriving DecidableEq, Repr

/-- An event that has taken place. `th` is 0–3 for a stream, above for an engine thread; `po` stands in program order. -/
structure Ev where
  no : Nat              -- its number, in the order in which events took place
  core : Nat
  gang : List Nat
  task : Nat            -- the task it belongs to, by the seed that the core began it with
  th : Nat
  po : Nat
  kind : EvKind
  cls : Nat             -- ordering class; 16 none, 17 every class (the fork of an `engage`)
  read : Bool
  write : Bool
  acq : Nat             -- scope of an acquire; 0 none
  rel : Nat             -- scope of a release; 0 none
  loc : Nat             -- place of its bytes (Order.lean)
  n : Nat
  miss : List Nat       -- numbers of the writes that a read did not see, though they had performed
  deriving DecidableEq, Repr

/-- A write that a read may still not see: its place (Order.lean), the bytes before it, its event (R90). -/
structure Past where
  loc : Nat
  old : List Byte
  ev : Ev
  deriving DecidableEq, Repr

/-- A return-stack entry (R132, R165): the caller's block and the offset after the call. `handler` marks the entry
that a handler entry makes (R271). -/
structure Ret where
  blk : Block
  off : Nat
  handler : Bool
  deriving DecidableEq, Repr

/-- Drain type of a tile (R193). -/
inductive DType where
  | f32 | i32 | f64
  deriving DecidableEq, Repr

def DType.code : DType → Nat
  | .f32 => 0 | .i32 => 1 | .f64 => 2

def DType.ofCode : Nat → DType
  | 1 => .i32 | 2 => .f64 | _ => .f32

/-- The space an access names. -/
inductive Space where
  | G                   -- partition virtual space
  | S (core : Nat)      -- the scratchpad of a core, by its index v of R304
  | B (b : Buf)         -- a buffer of the issuing core (R65)
  deriving DecidableEq, Repr

/-- The kind of one granule access (R87, R91). -/
inductive AccKind where
  | load
  | store (data : List Byte)
  | amo (op n : Nat) (v w : Nat)                      -- operation, bytes, operand, second operand of a CAS
  | redf (bf : Bool) (rnd : Nat) (dither : Nat) (v : Nat)
  deriving DecidableEq, Repr

/-- One granule access waiting to perform at its ordering point. `id` rises in program order of its stream; the
granules of one instruction share `grp`. -/
structure Acc where
  id : Nat
  grp : Nat
  st : Stream
  space : Space
  addr : Nat
  n : Nat
  pos : Nat             -- byte position in the instruction's data
  kind : AccKind
  cls : Nat
  scope : Nat
  pol : Nat
  word : Nat            -- G: address of the issuing word
  stuck : Bool          -- it faulted; it translates again at the core's resumption (R306)
  deriving DecidableEq, Repr

/-- What becomes of the bytes an instruction collects. -/
inductive Dest where
  | sreg (d : Nat) (n : Nat) (signed : Bool)    -- C load: s[d], sign- or zero-extended
  | spair (d : Nat)                             -- 16-byte load: s[d], s[d+1]
  | vrow (row : Nat)                            -- V load into an X row
  | nothing                                     -- store, or a discarded value
  deriving DecidableEq, Repr

/-- An instruction whose accesses are pending: the bytes returned so far, and its push at finish. -/
structure Flight where
  grp : Nat
  st : Stream
  dest : Dest
  got : List (Nat × Byte)
  all : List Acc        -- a V load: its accesses, all issued again if the core parks before they have returned (R231)
  push : BitVec 2
  word : Nat
  deriving DecidableEq, Repr

/-- An armed `waitw` (R163). -/
structure WaitW where
  addr : Nat
  cond : Nat
  cmp : BitVec 32
  push : BitVec 2
  met : Bool
  cls : Nat
  scope : Nat
  id : Nat              -- its place in program order
  deriving DecidableEq, Repr

/-- A side-log entry (R302): an access that has not performed, and the cause that sent it there. -/
structure SideEntry where
  acc : Acc
  cause : Cause
  due : Bool            -- a kick, a resumption or a page response replays it
  deriving DecidableEq, Repr

/-- An M instruction issued and not finished (R201). -/
inductive MOp where
  | mma (word : Instr) (trans : Bool) (tile : Nat) (fa fb : EF) (cls : MCls) (bA bB : Nat) (desc scale : BitVec 64) (rs : Nat) (dph : BitVec 8)
  | tclr (tile : Nat)
  | tld (tile : Nat) (buf : Buf) (off pitch : Nat)
  | drain (id : Nat)                                  -- the hand-over of a drain, which may have begun (R206)
  | kinc (k imm : Nat)
  | token
  deriving DecidableEq, Repr

/-- An M instruction in the M queue; its push takes place at its finish (R201). `next` is the K-group that it applies
next (R304); `part` names the elements to which that group has been applied already, in pairs where its flag is set
(R202). -/
structure MEntry where
  id : Nat              -- its place in program order
  op : MOp
  push : BitVec 2
  payload : BitVec 32
  addr : Nat            -- G: address of the word
  next : Nat
  part : Option (Nat × Bool)
  deriving DecidableEq, Repr

/-- A drain in flight (R205–R207). Row `next` enters next; `pend` holds computed rows not yet written. -/
structure Drain where
  id : Nat
  tile : Nat
  ty : DType
  dst : Buf
  off : Nat
  pitch : Nat
  prog : Option (List (BitVec 32))
  slot : Option Nat
  k : Nat
  inc : Nat
  rw : BitVec 64
  addr : Nat
  word : Instr
  started : Bool
  dph : BitVec 8
  next : Nat
  got : Option (Row × Nat)            -- the row that enters next as first read, and which of its units that reading gave (R65)
  pend : List (List (Nat × List Byte)) -- each row's units still to be written, by their offsets in the row
  half : Bool                         -- some units of the oldest row have been written
  deriving DecidableEq, Repr

/-- The L commands (Table 6.9). -/
inductive LOp where
  | cp | cpw | cpl | cpr | cpm | cvcp | pfBulk | pfRel | lgath | lscat | lfill
  deriving DecidableEq, Repr

/-- Where a translated granule lies: host memory, or a device address with the page's policy maximum. -/
structure Place where
  host : Bool
  pa : Nat
  cmax : Nat
  deriving DecidableEq, Repr

/-- A granule that a command reads or writes (R87, R65). `pos` is where its bytes stand in the command's data. -/
structure Grain where
  space : Space
  addr : Nat
  n : Nat
  pos : Nat
  phys : Option Place   -- a granule of G:, once it has translated
  whole : Bool          -- the command writes the whole cap tile (Table 3.7)
  deriving DecidableEq, Repr

/-- What a command in service has still to do (R94–R96). Its granules are read, translated and written in any order. -/
structure Work where
  idx : List Nat                -- elements of a gather or scatter whose index is still to be read
  srcs : List Grain             -- source granules still to be read
  dsts : List Grain             -- destination granules still to be written
  got : List (Nat × Byte)       -- data, by position
  marked : List (Nat × Nat × Cause)  -- elements that have faulted, with their G: address and cause (R312)
  deriving DecidableEq, Repr

def Work.idle : Work := ⟨[], [], [], [], []⟩

/-- An L command in flight (R183): the group words read at issue, its events so far, and the writes still due. -/
structure LCmd where
  id : Nat
  op : LOp
  dims : Nat                    -- 1, 2 or 3
  cls : Nat
  scope : Nat
  pol : Nat
  rnd : Nat
  nf : Bool
  sat : Bool
  dst : BitVec 64
  src : BitVec 64
  shape : BitVec 64
  comp : BitVec 64
  plane : BitVec 64
  payload : Option (BitVec 32)  -- payload of the token the word popped
  dph : BitVec 8
  addr : Nat                    -- G: address of the word
  released : Bool
  delivered : Bool
  notified : Bool
  told : List Nat               -- the cores whose notify word has been written
  faulted : Option Cause
  todo : Nat                    -- pf.bulk, pf.rel: tiles reached; a gather or scatter that has parked the core: 1 + the C-cycle
  tiles : List (Nat × Nat)      -- tiles that a bulk prefetch has asked for: place in the range, and tile
  work : Work
  word : Instr
  deriving DecidableEq, Repr

/-- The task a core runs (R8, R16, R277). -/
structure Task where
  node : Nat                    -- index of the node entry on this package
  part : Nat                    -- partition
  taskid : Nat
  idx : List Nat                -- %idx.0–%idx.7
  coreid : Nat
  clusterid : Nat
  combid : Nat
  gang : List Nat               -- the cores of the gang, by v
  loop : List (List Nat)        -- per stream: prologue, kernel, epilogue
  trip : Nat
  handler : Option Nat          -- G: address of the handler block
  dstep0 : BitVec 8
  dphase0 : BitVec 8
  rank : Nat
  budget : Nat                  -- µs of calendar time (R29, R290)
  had : Nat                     -- calendar slots used when the present budget began (Table 17.3)
  hran : Nat                    -- calendar slots of handlers that have ended (R271)
  hfrom : Nat                   -- calendar slot at which the handler that runs was entered
  deriving DecidableEq, Repr

/-- Task states of Table 1.5; a core with no task is idle. -/
inductive TSt where
  | idle | placed | running | exiting | parked | complete
  deriving DecidableEq, Repr

/-- The state of one core. -/
structure Core where
  -- task
  st : TSt
  before : TSt                          -- the state held before parking (Table 1.5)
  task : Option Task
  succ : List (BitVec 256)              -- successor blocks read at `exit` (R169)
  exitStep : Nat                        -- step of R17 reached while Exiting
  inHandler : Bool                      -- C runs the task's handler (R271); the task state is Parked
  hstop : Bool                          -- a fault in the handler, or no room for its return: software decides
  returning : Bool                      -- resumed: the side log replays before it returns to its streams (R306)
  hid : Nat                             -- accesses numbered from here on were issued by the handler that runs
  cyc0 : Nat                            -- %cyc base: value accumulated before the last start
  ran : Nat                             -- calendar slots of the budget used before the last start (R29)
  cycFrom : Now                         -- the moment of the last start of %cyc and of the budget
  parkedAt : Nat                        -- C-cycle at which the core parked
  -- C stream
  s : Vector Reg 32
  q : BitVec 8
  ret : List Ret                        -- return stack, newest first
  sflags : BitVec 5
  dphase : BitVec 8                     -- as it stood when this C-cycle began (R54)
  dstep : BitVec 8
  dphNext : Option (BitVec 8 × Bool)    -- %dphase after this C-cycle, where it changes in it, and whether `mtsr` wrote it (R174, R207)
  dstNext : Option (BitVec 8)           -- %dstep after this C-cycle, where it changes in it
  ovf : Vector (BitVec 32) 18           -- %ovf.class.kind at 3 × class + kind (R107)
  streak : Vector (BitVec 4) 6          -- %streak.class (R109)
  waitw : Option WaitW
  heldW : Option WaitW                  -- the `waitw` that waited when the handler was entered (R163, R271)
  engReq : Option (Nat × Nat × Nat)     -- an engage whose comb decision is due: command id, q, d (R105)
  -- L stream
  b : Vector Reg 16
  lcmds : List LCmd
  -- M stream
  g : Vector Reg 16
  dty : Vector DType 8
  slots : Vector (Option (List (BitVec 32))) 8
  e : Vector Row 8                      -- e0–e7 as the last row of a drain left them (R208)
  mq : List MEntry
  drains : List Drain
  -- V stream
  x : Vector Reg 16
  p : Vector (BitVec 128) 16            -- physical predicates
  vbase : BitVec 10
  rot : BitVec 5
  vgov : BitVec 4
  vflags : Vector (BitVec 128) 5
  -- buffers
  seed : Nat                            -- which undefined contents unlisted bytes of W, A, X read as; 0 is all zero
  seedS : Nat
  bufW : Tab Byte
  bufA : Tab Byte
  bufS : Tab Byte
  bufX : Tab Row                        -- by row number 0–1023
  -- coupling
  tq : Vector (List (BitVec 32)) 16     -- token queue from stream i to stream j at 4 i + j
  k : Vector (BitVec 24) 64
  kAt : Nat                             -- C-cycle of the last operation on a counter (R168)
  kPh : Nat                             -- the step of R168 that the counters have reached in it
  kIncs : List (Nat × CauseRec)         -- its increments: counter and origin
  kOver : List Nat                      -- the counters that they have taken past 2^24 − 1
  raisedAt : Nat                        -- C-cycle in which flags of %sflags were raised last (R61)
  raised : BitVec 5                     -- the flags raised in it
  sflate : BitVec 5                     -- flags that commands have raised since the frame was written (R186, R304)
  -- streams
  strm : Vector Strm 4
  icache : Tab Half                     -- the instruction cache, by G: address of a halfword (R10, R131)
  -- memory system
  nextId : Nat
  acc : List Acc
  fl : List Flight
  fences : List Fence
  slog : List SideEntry
  -- faults
  causes : List CauseRec
  settled : Bool                        -- every cause recorded so far stands in the frame
  framed : Bool                         -- the frame of this parking has been written
  kimg : Vector (BitVec 24) 64          -- the counters as the frame's images reflect them (R304)
  frameHeld : Bool                      -- the frame write faulted (FWF) and is held
  route : Route
  pages : List Nat                      -- host pages this core waits on
  deriving DecidableEq, Repr

/-- A core at cold reset: SRAM arrays zero (R359), no task. -/
def Core.reset : Core where
  st := .idle
  before := .idle
  task := none
  succ := []
  exitStep := 0
  inHandler := false
  hstop := false
  returning := false
  hid := 0
  cyc0 := 0
  ran := 0
  cycFrom := ⟨0, 0⟩
  parkedAt := 0
  s := Vector.replicate 32 0
  q := 0
  ret := []
  sflags := 0
  dphase := 0
  dstep := 0
  dphNext := none
  dstNext := none
  ovf := Vector.replicate 18 0
  streak := Vector.replicate 6 0
  waitw := none
  heldW := none
  engReq := none
  b := Vector.replicate 16 0
  lcmds := []
  g := Vector.replicate 16 0
  dty := Vector.replicate 8 .f32
  slots := Vector.replicate 8 none
  e := Vector.replicate 8 0
  mq := []
  drains := []
  x := Vector.replicate 16 0
  p := Vector.replicate 16 0
  vbase := 0
  rot := 0
  vgov := 0
  vflags := Vector.replicate 5 0
  seed := 0
  seedS := 0
  bufW := []
  bufA := []
  bufS := []
  bufX := []
  tq := Vector.replicate 16 []
  k := Vector.replicate 64 0
  kAt := 0
  kPh := 0
  kIncs := []
  kOver := []
  raisedAt := 0
  raised := 0
  sflate := 0
  strm := Vector.replicate 4 Strm.reset
  icache := []
  nextId := 0
  acc := []
  fl := []
  fences := []
  slog := []
  causes := []
  settled := false
  framed := false
  kimg := Vector.replicate 64 0
  frameHeld := false
  route := .software
  pages := []

end Sys2Proof.Machine
end

