-- ==== Sys2Proof/Machine/Flags.lean ====
section
/-! DEFINITION. Flag recording (R60, R61, R215): the sticky %sflags of C and the lane masks %vflags of V. -/

namespace Sys2Proof.Machine

open Sys2Proof

/-- ORs flags into %sflags unless `.nf` (R60, R61). DESIGN CHOICE (log entry 74): a C float word raises its flags in the C-cycle of its
issue, so that any later `mtsr` of %sflags clears them. -/
def Core.raiseS (c : Core) (nf : Bool) (f : Fl) : Core :=
  if nf then c else { c with sflags := c.sflags ||| f }

/-- ORs the flags of lane `i` into the masks of %vflags (R215). -/
def orLane (v : Vector (BitVec 128) 5) (i : Nat) (f : Fl) : Vector (BitVec 128) 5 :=
  Vector.ofFn fun j => if f.getLsbD j.val then v[j.val] ||| (1#128 <<< i) else v[j.val]

/-- ORs the flags of lanes `i`, `i + 1`, … into %vflags. -/
def orLanes : Vector (BitVec 128) 5 → Nat → List Fl → Vector (BitVec 128) 5
  | v, _, [] => v
  | v, i, f :: fs => orLanes (orLane v i f) (i + 1) fs

/-- Records lane flags unless `.nf` (R215). -/
def Core.raiseV (c : Core) (nf : Bool) (fs : List Fl) : Core :=
  if nf then c else { c with vflags := orLanes c.vflags 0 fs }

/-- Clears one flag's mask (R236). -/
def Core.clearV (c : Core) (f : Nat) : Core :=
  { c with vflags := Vector.ofFn fun j => if j.val = f then 0 else c.vflags[j.val] }

end Sys2Proof.Machine
end

