-- ==== Sys2Proof/Config.lean ====
section
/-! DEFINITION. What the spec leaves open, as constants without a body: the schedule, elapsed cycles, undefined
contents, and the values of the special functions within their bounds. Each is named in a log entry. -/

namespace Sys2Proof

open Sys2Proof.Machine

/-- Which agent moves next: a stream of a core, or the device event `ev` (log entry 1). -/
structure Turn where
  core : Nat
  st : Stream
  ev : Option Instr
  deriving DecidableEq, Repr, Inhabited

/-- The special functions whose value the spec gives only within a bound (R221, Table 10.4). -/
inductive SpecialFn where
  | rsqrt | exp2 | log2 | exp | ln | sin | cos | tanh | erf
  deriving DecidableEq, Repr

/-- The schedule: the agent that moves after `tick` steps. Nothing constrains it (log entry 1). -/
opaque Config.pick : Nat → Turn

/-- The C-cycles that the step numbered `tick` takes (log entry 2). -/
opaque Config.elapsed : Nat → Nat

/-- Undefined contents of a buffer byte at a task's start: seed, buffer code, offset (R16; log entry 3). -/
opaque Config.undefByte : Nat → Nat → Nat → BitVec 8

/-- Undefined contents of a row of X at a task's start: seed, row number (R16; log entry 3). -/
opaque Config.undefRow : Nat → Nat → Row

/-- Undefined register contents at a task's start: seed, register number (R16; log entry 3). -/
opaque Config.undefReg : Nat → Nat → BitVec 128

/-- A special function where its exact result is not representable: function, FP64, rounding code, operand code →
result code (R221; log entry 4). The same operand and mode always give the same bits. -/
opaque Config.special : SpecialFn → Bool → Nat → Nat → Nat

/-- The pages of a partition's arena pool in a tier: the first page and their number, in 64 KiB (R79; log entry 11). -/
opaque Config.pool : Nat → Nat → Nat × Nat

/-- The cores that the scheduler chooses for a gang at a step (R288: any choice that R21 permits; log entry 5). -/
opaque Config.place : Nat → List Nat

/-- A value that the spec leaves open at one place and time: place, time (log entry 5). -/
opaque Config.freeNat : Nat → Nat → Nat

/-- Which of the possible numbers of slices an L2 has (R7, R71: not visible to programs; log entry 9). -/
opaque Config.slices : Nat

/-- Where the L2 places a tile: comb, slice and set, each modulo their numbers (R71; log entry 9). -/
opaque Config.l2place : Nat → Nat × Nat × Nat

/-- Which of the slices left holds a tile whose slice has been lost (R367; log entry 9). -/
opaque Config.rehome : Nat → Nat

/-- The tile at which the record blocks of a level of a tier's cap tree begin, CAPBASE for level 1, less the number of the first of
them: the tier, 0 for HBM, and the level (R318, R333; log entry 60). -/
opaque Config.capBase : Nat → Nat → Nat

/-- A byte of an area of the fault frame whose layout the spec leaves open: the area's contents, and the byte's offset (R304;
log entry 12). -/
opaque Config.areaByte : List Nat → Nat → BitVec 8

/-- The link by which packets reach a package: the package, and how often its route has moved on (R346; log entry 61). -/
opaque Config.route : Nat → Nat → Nat

/-- Which of its tier's memory controllers a tile has, modulo their number (R7, R334; log entry 9). -/
opaque Config.controller : Nat → Nat

/-- One less than the controllers that the LPDDR tier has in a comb (R7; log entry 9). -/
opaque Config.lpControllers : Nat

/-- AES-256 under the key of a number (R332); keys are secret (R331; log entry 10). -/
opaque Config.aes : Nat → BitVec 128 → BitVec 128

/-- What the host and its devices write to host memory during step `tick`: an address and bytes (log entry 7). -/
opaque Config.hostWrite : Nat → Option (Nat × List (BitVec 8))

end Sys2Proof
end

