-- ==== Sys2Proof/Machine/Operands.lean ====
section
/-! DEFINITION. Operand forms: the registers of the four streams, the row window of R66, predicates (R213), and the
buffers of a core (R62) with what undefined contents read as. -/

namespace Sys2Proof.Machine

open Sys2Proof

/-! ### Scalar registers -/

/-- s[n]: s0 reads as 0 (R148). -/
def Core.getS (c : Core) (n : BitVec 5) : Reg := if n = 0 then 0 else c.s[n.toNat]'(n.isLt)

/-- `s[n] := v`: a write to s0 is discarded (R148). -/
def Core.setS (c : Core) (n : BitVec 5) (v : Reg) : Core :=
  if n = 0 then c else { c with s := c.s.set n.toNat v n.isLt }

/-- q[n] (R148). -/
def Core.getQ (c : Core) (n : BitVec 3) : Bool := c.q.getLsbD n.toNat

/-- `q[n] := v`. -/
def Core.setQ (c : Core) (n : BitVec 3) (v : Bool) : Core :=
  { c with q := (c.q &&& ~~~(1#8 <<< n.toNat)) ||| (if v then 1#8 <<< n.toNat else 0) }

def Core.getB (c : Core) (n : BitVec 4) : Reg := c.b[n.toNat]'(n.isLt)
def Core.setB (c : Core) (n : BitVec 4) (v : Reg) : Core := { c with b := c.b.set n.toNat v n.isLt }
def Core.getG (c : Core) (n : BitVec 4) : Reg := c.g[n.toNat]'(n.isLt)
def Core.setG (c : Core) (n : BitVec 4) (v : Reg) : Core := { c with g := c.g.set n.toNat v n.isLt }
def Core.getX (c : Core) (n : BitVec 4) : Reg := c.x[n.toNat]'(n.isLt)
def Core.setX (c : Core) (n : BitVec 4) (v : Reg) : Core := { c with x := c.x.set n.toNat v n.isLt }

/-- Counter n (R14). -/
def Core.getK (c : Core) (n : BitVec 6) : BitVec 24 := c.k[n.toNat]'(n.isLt)
def Core.setK (c : Core) (n : BitVec 6) (v : BitVec 24) : Core := { c with k := c.k.set n.toNat v n.isLt }

/-- A register of the stream's own file, as the token words name it (R134). -/
def Core.getR (c : Core) (st : Stream) (r : BitVec 5) : Reg :=
  match st with
  | .C => c.getS r
  | .L => c.getB (r.setWidth 4)
  | .M => c.getG (r.setWidth 4)
  | .V => c.getX (r.setWidth 4)

def Core.setR (c : Core) (st : Stream) (r : BitVec 5) (v : Reg) : Core :=
  match st with
  | .C => c.setS r v
  | .L => c.setB (r.setWidth 4) v
  | .M => c.setG (r.setWidth 4) v
  | .V => c.setX (r.setWidth 4) v

/-- A stream's record. -/
def Core.str (c : Core) (st : Stream) : Strm :=
  match st with
  | .C => c.strm[0]
  | .L => c.strm[1]
  | .M => c.strm[2]
  | .V => c.strm[3]

def Core.setStr (c : Core) (st : Stream) (v : Strm) : Core :=
  match st with
  | .C => { c with strm := c.strm.set 0 v }
  | .L => { c with strm := c.strm.set 1 v }
  | .M => { c with strm := c.strm.set 2 v }
  | .V => { c with strm := c.strm.set 3 v }

/-- G: address of the word a stream stands at. -/
def Strm.pc (r : Strm) : Nat := r.blk.addr + 2 * r.off

/-! ### Token queues (R13, Table 6.4) -/

/-- The peer that a nonzero POP or PUSH code names (Table 6.4). -/
def peer (st : Stream) (code : BitVec 2) : Option Stream :=
  match st, code.toNat with
  | _, 0 => none
  | .C, 1 => some .L
  | .C, 2 => some .M
  | .C, _ => some .V
  | .L, 1 => some .C
  | .L, 2 => some .M
  | .L, _ => some .V
  | .M, 1 => some .C
  | .M, 2 => some .L
  | .M, _ => some .V
  | .V, 1 => some .C
  | .V, 2 => some .L
  | .V, _ => some .M

theorem Stream.ix_lt (st : Stream) : st.ix < 4 := by cases st <;> decide

/-- The queue from one stream to another. -/
def Core.queue (c : Core) (src dst : Stream) : List (BitVec 32) :=
  c.tq[4 * src.ix + dst.ix]'(by have := src.ix_lt; have := dst.ix_lt; omega)

def Core.setQueue (c : Core) (src dst : Stream) (l : List (BitVec 32)) : Core :=
  { c with tq := c.tq.set (4 * src.ix + dst.ix) l (by have := src.ix_lt; have := dst.ix_lt; omega) }

/-! ### Buffers (R62, Table 0.2) -/

def Buf.size : Buf → Nat
  | .W => 0x80000
  | .A => 0x60000
  | .X => 0x40000
  | .S => 0x40000

def Buf.code : Buf → Nat
  | .W => 0 | .A => 1 | .X => 2 | .S => 3

/-- What an unlisted byte of W, A or S reads as: 0 after cold reset, an undefined value once a task has started (R16). -/
def Core.undef (c : Core) (b : Buf) (a : Nat) : Byte :=
  let seed := match b with | .S => c.seedS | _ => c.seed
  if seed = 0 then 0 else Config.undefByte seed b.code a

/-- What an unlisted row of X reads as. -/
def Core.undefX (c : Core) (r : Nat) : Row := if c.seed = 0 then 0 else Config.undefRow c.seed r

/-- Row `r` of X (R66). -/
def Core.row (c : Core) (r : Nat) : Row := Tab.get (c.undefX r) c.bufX r

def Core.setRow (c : Core) (r : Nat) (v : Row) : Core :=
  { c with bufX := Tab.set (c.undefX r) c.bufX r v }

/-- One byte of a buffer. -/
def Core.byte (c : Core) (b : Buf) (a : Nat) : Byte :=
  match b with
  | .W => Tab.get (c.undef .W a) c.bufW a
  | .A => Tab.get (c.undef .A a) c.bufA a
  | .S => Tab.get (c.undef .S a) c.bufS a
  | .X => rowByte (c.row (a / 256)) (a % 256)

def Core.setByte (c : Core) (b : Buf) (a : Nat) (v : Byte) : Core :=
  match b with
  | .W => { c with bufW := Tab.set (c.undef .W a) c.bufW a v }
  | .A => { c with bufA := Tab.set (c.undef .A a) c.bufA a v }
  | .S => { c with bufS := Tab.set (c.undef .S a) c.bufS a v }
  | .X =>
    c.setRow (a / 256) (rowBuild (c.row (a / 256)) 8 256
      (fun i => if i = a % 256 then v.toNat else rowElem (c.row (a / 256)) 8 i))

/-- `n` bytes of a buffer. -/
def Core.bytes (c : Core) (b : Buf) (a n : Nat) : List Byte := (List.range n).map (fun i => c.byte b (a + i))

/-- Writes bytes at consecutive offsets of a buffer. -/
def Core.setBytes (c : Core) (b : Buf) (a : Nat) : List Byte → Core
  | [] => c
  | v :: vs => Core.setBytes (c.setByte b a v) b (a + 1) vs

/-! ### The V window (R66, R141, R213) -/

/-- The vector register that a 5-bit field names under bank bit B (R141). -/
def vreg (bank : BitVec 1) (f : BitVec 5) : Nat :=
  if f.toNat ≤ 15 then 16 * bank.toNat + f.toNat else 32 + 16 * bank.toNat + f.toNat - 16

/-- The X row of a vector register (R66). -/
def Core.vrow (c : Core) (n : Nat) : Nat :=
  if n ≤ 31 then (c.vbase.toNat + n) % 1024
  else (c.vbase.toNat + 32 + (n - 32 + c.rot.toNat) % 32) % 1024

/-- The X row that a register field names. -/
def Core.vr (c : Core) (bank : BitVec 1) (f : BitVec 5) : Nat := c.vrow (vreg bank f)

/-- The physical predicate of a predicate name (R66). -/
def Core.pphys (c : Core) (n : BitVec 4) : Fin 16 :=
  if n.toNat ≤ 7 then ⟨n.toNat, n.isLt⟩ else ⟨8 + (n.toNat - 8 + c.rot.toNat) % 8, by omega⟩

/-- pN: p0 reads as all ones (R141, R213). -/
def Core.getP (c : Core) (n : BitVec 4) : BitVec 128 :=
  if n = 0 then BitVec.allOnes 128 else c.p[(c.pphys n).val]'(c.pphys n).isLt

/-- A write to p0 is discarded (R141). -/
def Core.setP (c : Core) (n : BitVec 4) (v : BitVec 128) : Core :=
  if n = 0 then c else { c with p := c.p.set (c.pphys n).val v (c.pphys n).isLt }

/-- Enabled(i, s): the governing predicate's bit for lane i of s bytes (R214). -/
def Core.enabled (c : Core) (i s : Nat) : Bool := (c.getP c.vgov).getLsbD (i * s / 2)

end Sys2Proof.Machine
end

