-- ==== Sys2Proof/Machine/State.lean ====
section
/-! DEFINITION. The state of the device, plain data: the cores, device memory with the L2 and the sealing records, the
translation caches, the shared engines and their commands, the scheduler's graph, the system registers, the links, and
the management state; the faults and refusals of a step; and the state right after reset. -/

namespace Sys2Proof.Machine

open Sys2Proof

/-! ### Memory (R71–R78, R332–R336) -/

/-- A tile resident in the L2 (R71–R73): its number (device address / 1024), owner, priority and pinning. The list of
resident tiles stands in least-recently-used order, the least recent first. -/
structure L2Tile where
  tile : Nat
  part : Nat
  retain : Bool
  dirty : Bool
  pinned : Bool
  deriving DecidableEq, Repr

/-- The record of a sealed tile (R332, R333). `key` numbers the key it is sealed under; 0 verifies nowhere. -/
structure Seal where
  key : Nat
  version : Nat
  tag : BitVec 96
  deriving DecidableEq, Repr

/-- A record block in the cap cache of its memory controller (R333). -/
structure CapLine where
  blk : Nat
  dirty : Bool
  pinned : Bool         -- its version would pass 2^32 − 1
  deriving DecidableEq, Repr

/-- A fill that has been asked for: the tile and who waits is found among the pending accesses (R75). -/
structure Fill where
  tile : Nat
  part : Nat
  retain : Bool
  deriving DecidableEq, Repr

/-! ### Translation (R294–R301) -/

/-- A cached leaf translation (R298, R300). `holder` tells which TLB holds it: that of a core, of a cluster, or of the device
(Translate.lean). -/
structure Tlb where
  holder : Nat
  part : Nat
  va : Nat              -- first G: address of the page
  size : Nat
  host : Bool
  pa : Nat              -- device address of the page; for a host page, unused
  tier : Nat
  tierPa : Nat          -- partition-relative address of the page
  bound : Nat           -- the bound of its tier when it was cached
  arena : Bool          -- a page of the arena window
  read : Bool
  write : Bool
  exec : Bool
  cmax : Nat
  deriving DecidableEq, Repr

/-- A page request or translation request towards the host (R300, R301). -/
structure PageReq where
  part : Nat
  page : Nat            -- G: address, 64 KiB aligned
  stage : Nat           -- 0: translation request sent; 1: page request outstanding; 2: queued behind the limit
  who : List (Nat × Nat × Bool) -- what waits: the core, the number of its access, L command or engine command, whether it writes
  deriving DecidableEq, Repr

/-! ### Shared engines (chapter 5) -/

/-- What holds a lease: a node, or a standing lease of a partition (R113, R115). -/
inductive Lessee where
  | node (n : Nat)
  | standing (p : Nat)
  deriving DecidableEq, Repr

/-- Asleep, waking or awake (R113). -/
inductive Wake where
  | asleep | waking | awake
  deriving DecidableEq, Repr

/-- A hold of R110: the designated core. -/
structure Hold where
  core : Nat
  made : Nat            -- the calendar slot in which it was made
  deriving DecidableEq, Repr

/-- One shared engine, found by its identity of Table 19.5. -/
structure Engine where
  wake : Wake
  leases : List Lessee
  part : Nat            -- partition charged while not asleep; for a comb engine, the partition that leases it
  grant : Nat           -- grant time (R330)
  marked : List Nat     -- marked set: cores by v
  ptr : Nat             -- rotating pointer: index of a core in the domain
  holds : List Hold
  heldLap : Nat         -- 1 + the lap in which a hold was last made; 0 none
  seenAt : Nat          -- 1 + the moment at which it decided a request last (R105); 0 none
  seenPos : Nat         -- that request's place in the rotating order of the moment
  seenClk : Nat         -- 1 + the C-cycle in which it decided a request last; 0 none
  endClk : Nat          -- 1 + the C-cycle in which its last lease ended (R114); 0 none
  deriving DecidableEq, Repr

/-- An engine at reset, and one whose state a recall has lost: its rotating pointer starts at the first core of its domain (log
entry 63). -/
def Engine.asleep : Engine := ⟨.asleep, [], 0, 0, [], 0, [], 0, 0, 0, 0, 0⟩

/-- A shared-engine command (R106, R117). -/
structure ECmd where
  id : Nat
  eng : Nat             -- identity of the engine (Table 19.5)
  entry : Nat           -- entry that admitted it (Table 5.2)
  core : Nat
  hdr : BitVec 64
  doff : Nat
  desc : BitVec 256
  word : Nat            -- G: address of the `engage`
  occupying : Bool      -- it holds its slot
  ending : Bool         -- its occupancy has passed: its slot is free from the next C-cycle on
  started : Bool        -- the engine has served it
  released : Bool
  delivered : Bool
  dead : Bool           -- its delivered event never occurs (R124, R350)
  work : Work
  faulted : Bool        -- performed by the core's own copy machinery after a fault (R307)
  step : Nat            -- how far it has come
  seq : Nat             -- instance number of a collective, or first packet of a network message
  deriving DecidableEq, Repr

/-- A comb-engine request that waits for its slot (R105). -/
structure EReq where
  core : Nat
  q : BitVec 3
  d : BitVec 5
  hdr : BitVec 64
  doff : BitVec 64
  desc : BitVec 256
  list : BitVec 64
  marked : Bool
  check : Nat           -- CheckCommand's answer at issue: 0 none, else its outcome code
  push : BitVec 2
  word : Nat
  deriving DecidableEq, Repr

/-! ### The scheduler (chapter 16) -/

/-- Node states of Table 16.2. -/
inductive NSt where
  | waiting | ready | allocating | placing | running | complete | failed | discarded
  deriving DecidableEq, Repr

/-- A node entry (R26, R170, R280). -/
structure Node where
  st : NSt
  job : Nat
  part : Nat
  lrec : Nat
  key : Nat
  count : Nat               -- declared predecessor count
  left : Nat                -- predecessor counter
  passed : List Nat         -- handles passed to it, in order of application
  arenas : List Nat         -- the arena set (R170)
  record : List (BitVec 64) -- the launch record read at readiness: 24 words
  order : Nat               -- position in ready order
  age : Nat                 -- ageing intervals waited
  zeroing : List Nat        -- handles whose zero fill is still due
  cores : List Nat          -- reserved cores, by v
  done : List Nat           -- cores of the gang whose task has completed
  packages : Nat            -- packages yet to report their gang complete (R281)
  home : Bool
  inst : Nat                -- number of the node instance, the same on every package (R281)
  pkg : Nat                 -- package of its home entry
  replayed : List Nat       -- %taskid values already replayed (R368)
  after : List Nat          -- cores whose tasks named it and have yet to complete (R97)
  preds : List Nat          -- the tasks that named it, by the seeds that their cores began them with (R97)
  comb : Nat                -- home comb
  deriving DecidableEq, Repr

/-- A job on this package (R28, R285). -/
structure Job where
  count : Nat               -- nodes of the job on this package that have not completed
  sent : Nat                -- enqueue and ready packets not yet acknowledged
  failed : Bool
  deriving DecidableEq, Repr

/-- An arena slot (R80, R287, R297). -/
structure Arena where
  gen : Nat                 -- generation last issued; 0 none
  live : Bool
  tier : Nat
  pages : List Nat          -- partition-relative page addresses, in order
  holders : List Nat        -- nodes that hold it
  deriving DecidableEq, Repr

/-- A successor block on its way to the scheduler (R26, R282). -/
structure Succ where
  job : Nat
  part : Nat
  block : BitVec 256
  set : List Nat            -- arena set of the exiting node
  comb : Nat                -- comb of the exiting core; 0 for a root node
  core : Option Nat         -- the exiting core; none for an entry of a host queue or a packet
  seq : Nat                 -- when it was handed over
  deriving DecidableEq, Repr

/-- The host queue a slot serves (R283–R285). -/
structure QSlot where
  head : Nat
  tail : Nat
  failedSince : Bool        -- the job was marked failed since this slot's previous DONE write
  doneDue : Bool            -- a DONE write is due
  due : Bool                -- TAIL is to be read
  known : Bool              -- HEAD has been read since the bind
  headDue : Bool            -- HEAD is to be written
  leaving : Option (BitVec 64)  -- an unbind that waits for HEAD, and what SCH_QS_CFG then holds (R285)
  deriving DecidableEq, Repr

/-! ### Faults (R305) -/

/-- A fault record waiting to be written (Table 17.5): partition and its four words. -/
structure FaultRec where
  part : Nat
  words : List (BitVec 64)
  deriving DecidableEq, Repr

/-! ### Links (chapter 20) -/

/-- A Relay link (R344–R346). -/
structure Link where
  up : Bool
  retraining : Bool
  retrains : Nat
  retries : Nat
  busy : Nat                -- the first slot that its retries and past retrains leave free (R324)
  deriving DecidableEq, Repr

/-- A packet kept until it is acknowledged (R346). -/
structure RelaySent where
  num : Nat
  msg : Msg
  resent : Nat              -- times resent
  waits : Bool              -- it waits at its source for a slot of its partition (R323)
  deriving DecidableEq, Repr

/-- The Relay transport state towards one package for one partition (R346). -/
structure RelayPair where
  nextTx : Nat
  nextRx : Nat
  unacked : List RelaySent
  unreachable : Bool
  deriving DecidableEq, Repr

/-- A receive buffer posted by `net.post` (R125, R350). -/
structure UePost where
  cmd : Nat                 -- the command
  tag : Nat
  cap : Nat                 -- LEN
  core : Nat
  addr : Nat                -- LOCAL
  msg : Option Nat          -- the message bound to it
  got : Nat                 -- bytes of it that have performed
  total : Nat               -- its length
  deriving DecidableEq, Repr

/-- A packet kept until it is acknowledged (R350). -/
structure UeSent where
  pkt : UePacket
  resent : Nat              -- times resent
  timer : Bool              -- its reorder timer has been started
  running : Bool            -- and runs
  cmd : Nat                 -- the command it belongs to
  deriving DecidableEq, Repr

/-- A connection's transport state (R348–R350). -/
structure UeConn where
  nextTx : Nat              -- number of the next packet
  nextMsg : Nat             -- number of the next `net.send` message
  unacked : List UeSent
  rxBase : Nat              -- C: every lower packet number has performed
  rxDone : List Nat         -- packet numbers above C that have performed
  rxNext : Nat              -- ROD: the next packet number expected; the lower ones have been accepted
  posts : List UePost       -- oldest first
  bound : Nat               -- messages bound so far: the next message to bind
  deriving DecidableEq, Repr

def UeConn.fresh : UeConn := ⟨0, 0, [], 0, [], 0, [], 0⟩

/-- A participant's contribution to a collective (R124, R352). -/
structure Contrib where
  inst : Nat                -- node instance
  tag : Nat
  parts : Nat               -- P
  seq : Nat                 -- instance number of the collective
  task : Nat                -- %taskid
  shape : Nat               -- CMD, TYPE, ROOT and LEN
  data : List Byte
  total : Nat               -- bytes of the contribution: those that have arrived are its first
  deriving DecidableEq, Repr

/-! ### Management (chapter 22) -/

/-- What the management processor, the boot ROM and the fuses hold (R360–R362, R366, R367). -/
structure Mgmt where
  imageA : Option Image     -- flash slot A
  imageB : Option Image     -- flash slot B
  lastB : Bool              -- the last successful boot ran slot B
  running : Option Image    -- the image that the boot ROM accepted
  runningB : Bool           -- its slot
  newImage : Bool           -- the slot not booted last holds an image that has not been tried (R361)
  minVersion : Nat          -- the fused minimum
  wdtFrom : Nat             -- C-cycle at which the watchdog last started
  ceTimes : List Nat        -- C-cycles of the corrected errors of the last hour, newest first
  retired : List Nat        -- each retired core: the core that it presented
  slices : List (Nat × Nat) -- each retired slice: its comb and its place in it
  closed : List Nat         -- clusters that accept no placement
  deriving DecidableEq, Repr

/-- An SPDM responder's view of one requester (R364). -/
structure Spdm where
  version : Bool
  caps : Bool
  algs : Bool
  sessions : Nat
  deriving DecidableEq, Repr

/-- What the device has sent to the outside, newest first: the host's view of its outputs. -/
inductive Output where
  | interrupt (part : Nat)
  | ats (part : Nat) (pasid : Option Nat) (page : Nat)
  | pageRequest (part : Nat) (pasid : Option Nat) (page : Nat)
  | hostWrite (part addr : Nat) (data : List Byte)
  | relay (pkg part num : Nat) (m : Msg)
  | relayAck (pkg part num : Nat)
  | ue (conn : Nat) (p : UePacket)
  | ueAck (conn c : Nat) (bitmap : BitVec 64)
  | spdm (function request : Nat) (answer : Option (List Nat))   -- none: refused
  | invalidated (part : Nat)
  | report (kind : Nat) (value : Nat)
  deriving DecidableEq, Repr

/-- The state of the device. -/
structure State where
  -- the model's own: schedule and free values
  tick : Nat
  turn : Turn
  fresh : Nat                           -- counter of identifiers and seeds
  -- clocks (R1, R105, R323)
  clock : Nat                           -- C-cycles since the end of cold reset
  slot : Nat                            -- calendar slots since the end of cold reset
  slotFrac : Nat                        -- the part of a slot that has passed, in 1 / (stretch × cclk)
  lap : Nat                             -- laps begun
  -- cores, by v of R304
  cores : Tab Core
  -- memory
  mem : Tab Byte                        -- plaintext of device memory beneath the L2
  l2b : Tab Byte                        -- dirty bytes of resident tiles, over `mem`
  l2 : List L2Tile
  seals : Tab Seal                      -- by tile number
  fills : List Fill
  fails : List Nat                      -- tiles of the failure table (R334)
  failing : List (Nat × Nat × Nat)      -- a tile whose fill has failed, and what waited for it and has yet to fault (R77)
  dramBad : List Nat                    -- tiles whose reads from DRAM may be uncorrectable (R366)
  through : Tab (Nat × Nat × Nat)       -- by tile: the command that wrote it to memory last, and the version then (R76)
  capFlog : List (BitVec 64)
  hist : List Ev                        -- events that the order of a read may rest on, newest first (R90)
  past : List Past                      -- writes that a read may still not see, newest first (R88, R90)
  devKey : Nat                          -- number of the device key (R331)
  capBlk : Tab Seal                     -- the records of record blocks and roots, by block (R333)
  capCache : List CapLine               -- the cap caches of the memory controllers
  hostMem : Tab Byte                    -- host memory as the device's accesses see it, by part × 2^56 + G: address
  -- translation
  tlb : List Tlb
  invs : List (Nat × Bool)              -- invalidations whose DONE is due: partition, and whether the host asked
  preq : List PageReq
  -- engines
  engines : Tab Engine                  -- by identity (Table 19.5)
  ecmds : List ECmd
  ereqs : List EReq
  colls : List (Nat × Nat × Nat × Nat)  -- collective commands issued: core, tag, P, count
  contribs : List Contrib
  -- scheduler
  nodes : Tab Node                      -- by 65536 × comb + index
  jobs : Tab Job                        -- by 65536 × partition + job
  arenas : Tab Arena                    -- by 64 × partition + slot
  succs : List Succ
  qslots : Tab QSlot
  flog : List (BitVec 64)
  readyNo : Nat
  -- faults
  fq : List FaultRec
  fqStop : List Nat                     -- partitions whose records wait for a write of the queue's registers
  -- registers, by BAR0 offset (32-bit and narrower registers in the low bits)
  regs : Tab (BitVec 64)
  tdi : Tab Tdi                         -- by partition
  -- layout and calendar in progress (R319–R321)
  scrub : List Nat                      -- clusters to scrub
  reseal : List (Nat × Nat × Nat)       -- pages to seal afresh, in 64 KiB: first, one past the last, partition
  keys : Tab Nat                        -- key number of a partition; 0 none
  keyNo : Nat
  sweep : Tab (Nat × Nat × Nat)         -- running sweep by partition: tier, next tile, new key
  quotaNext : Tab (BitVec 64)           -- quotas due at the next lap, by partition
  monitor : Tab Nat                     -- hits by ((comb × 32 + partition) × 32 + depth)
  shadow : Tab (List Nat)               -- shadow LRU stack by ((comb × 32 + partition) × 2^20 + set × 2^10 + slice)
  stretch : Nat                         -- the stretch factor f in force (R325)
  cclk : Nat                            -- C-clock frequency in MHz (R1, R325)
  -- links
  links : Tab Link
  failed : List Nat                     -- links whose routes have failed over, oldest first (R346)
  inbox : List (Nat × Nat × Msg)        -- accepted Relay messages for the scheduler: package, partition, message
  relay : Tab RelayPair                 -- by package × 32 + partition
  ueConn : Tab (BitVec 128)             -- LNK_UE_CONN entries
  ueWin : Tab (BitVec 128)
  ueState : Tab UeConn
  -- management
  mgmt : Mgmt
  spdm : Tab Spdm                       -- by function
  out : List Output
  deriving DecidableEq, Repr

/-- Why a step stops the machine. The spec stops the device nowhere, so only accesses that name nothing fault. -/
inductive Fault where
  /-- A store or load reached a device address past the end of both memory tiers. Raised by no rule of the spec: a
  translation is bounded (R296); safe, because the machine stops. -/
  | noSuchAddress
  deriving DecidableEq, Repr

/-- Why a step has no meaning. -/
inductive Refusal where
  /-- Raised by the dispatch for an instruction with no meaning in the model; safe. -/
  | notModelled (mnemonic : String)
  deriving DecidableEq, Repr

/-- The result of one instruction. -/
abbrev Res := Host.Outcome State Fault Refusal

/-- The state right after power good: phase 0 of the cold reset (R359), whose event is due. Every register has the
reset value of its table; SRAM is zero; no tile is sealed; both firmware slots are empty (log entry 13). -/
def State.reset : State where
  tick := 0
  turn := ⟨0, .C, some .coldReset⟩
  fresh := 1
  clock := 0
  slot := 0
  slotFrac := 0
  lap := 0
  cores := []
  mem := []
  l2b := []
  l2 := []
  seals := []
  fills := []
  fails := []
  failing := []
  dramBad := []
  through := []
  capFlog := []
  hist := []
  past := []
  devKey := 0
  capBlk := []
  capCache := []
  hostMem := []
  tlb := []
  invs := []
  preq := []
  engines := []
  ecmds := []
  ereqs := []
  colls := []
  contribs := []
  nodes := []
  jobs := []
  arenas := []
  succs := []
  qslots := []
  flog := []
  readyNo := 0
  fq := []
  fqStop := []
  regs := []
  tdi := []
  scrub := []
  reseal := []
  keys := []
  keyNo := 0
  sweep := []
  quotaNext := []
  monitor := []
  shadow := []
  stretch := 16
  cclk := 1400
  links := []
  failed := []
  inbox := []
  relay := []
  ueConn := []
  ueWin := []
  ueState := []
  mgmt := ⟨none, none, false, none, false, false, 0, 0, [], [], [], []⟩
  spdm := []
  out := []

end Sys2Proof.Machine
end

