-- ==== Sys2Proof/Machine/Order.lean ====
section
/-! DEFINITION. The order of accesses as parties see it (R84–R90, R92, R94, R95, R97): members of a scope, the edges of the
cycle rule between events that have taken place, and the writes that a read may still not see.

Accesses perform one after another, and every order of Table 4.3 is kept in that order. What the rules leave open is added
here: a read of device memory, of a buffer or of host memory may return the bytes before a write that has performed, unless
missing it would close a cycle of counted edges (R90). Log entry 56 says which outcomes this leaves out. -/

namespace Sys2Proof.Machine

open Sys2Proof

/-! ### Cores -/

/-- The core of index v (R304). -/
def State.core (s : State) (v : Nat) : Core := Tab.get Core.reset s.cores v

/-- The state with another core v. -/
def State.setCore (s : State) (v : Nat) (c : Core) : State := { s with cores := Tab.put s.cores v c }

/-- The core whose stream moves. -/
def State.cur (s : State) : Core := s.core s.turn.core

/-- Cores of a package (Table 1.1). -/
def numCores : Nat := 2304

/-- Cluster number 0–47 of a core. -/
def clusterOf (v : Nat) : Nat := v / 48

/-- Comb of a core. -/
def combOf (v : Nat) : Nat := v / 576

/-- The present moment. -/
def State.now (s : State) : Now := ⟨s.clock, s.slot⟩

/-- One of a list, by the free choice of a place. -/
def oneOf {α : Type} (tick place : Nat) : List α → Option α
  | [] => none
  | [x] => some x
  | x :: y :: r => (x :: y :: r)[Config.freeNat place tick % (r.length + 2)]?

/-- Splits a list by a free choice: what is done now, and what is still due (R94, R96). -/
def chosen {α : Type} (tick : Nat) : List α → Nat → List α × List α
  | [], _ => ([], [])
  | w :: ws, i =>
    let (a, b) := chosen tick ws (i + 1)
    if Config.freeNat 4 (tick * 2 ^ 20 + i) % 2 = 1 then (w :: a, b) else (a, w :: b)

/-- Whether two byte ranges meet. -/
def meets (a n b m : Nat) : Bool := decide (a < b + m ∧ b < a + n)

/-! ### Places

A device address is its own place. -/

/-- The place of a byte of a buffer of core v. -/
def bufLoc (v : Nat) (b : Buf) (off : Nat) : Nat := 2 ^ 50 + (4 * v + b.code) * 2 ^ 19 + off

/-- The place of a byte of host memory, by the key of its table. -/
def hostLoc (key : Nat) : Nat := 2 ^ 62 + key

/-! ### Parties and scopes -/

/-- The thread of an L command. -/
def lThread (id : Nat) : Nat := 4 + 3 * id

/-- The thread of an engine command. -/
def eThread (id : Nat) : Nat := 5 + 3 * id

/-- The thread of a drain. -/
def dThread (id : Nat) : Nat := 6 + 3 * id

/-- The stream that issues a thread: L its commands, C the engines', M its drains. -/
def homeStream (th : Nat) : Nat := if th < 4 then th else match th % 3 with | 1 => 1 | 2 => 0 | _ => 2

/-- The host as a party: a core that is none (R99). -/
def hostCore : Nat := 2 ^ 20

/-- Whether the party of `f` is a member of scope z of an operation of the party of `e` (Table 4.1): the host is one of system
scope alone (R99). -/
def Ev.inScope (z : Nat) (e f : Ev) : Bool :=
  match z with
  | 0 => f.core == e.core && (f.th == e.th || f.th == homeStream e.th)
  | 1 => f.core == e.core
  | 2 => clusterOf f.core == clusterOf e.core
  | 3 => f.core == e.core || e.gang.contains f.core
  | 4 => combOf f.core == combOf e.core
  | 5 => decide (f.core < numCores)
  | _ => true

/-- Whether two events belong to one party. -/
def Ev.same (e f : Ev) : Bool := e.core == f.core && e.th == f.th

/-- Whether two events touch a common byte. -/
def Ev.touch (e f : Ev) : Bool := decide (0 < e.n ∧ 0 < f.n) && meets e.loc e.n f.loc f.n

/-- Whether an event touches the byte at a place. -/
def Ev.at (e : Ev) (loc : Nat) : Bool := decide (e.loc ≤ loc ∧ loc < e.loc + e.n)

/-- Whether an event touches a buffer of its own core. -/
def Ev.own (e : Ev) : Bool := decide (bufLoc e.core .W 0 ≤ e.loc ∧ e.loc < bufLoc (e.core + 1) .W 0)

/-! ### Edges -/

/-- Whether a mask of classes holds the class of an event. -/
def Ev.inMask (m : Nat) (e : Ev) : Bool := decide (e.cls < 16) && m / 2 ^ e.cls % 2 == 1

/-- Preserved order from an earlier to a later event of one party (Table 4.3): for each edge, the scopes that must hold the
party by which a cycle enters, and the party by which it leaves; 6 where the edge counts in every cycle. A fence stands
between as an event of its own (R92). The accesses of a thread are unordered among themselves, and all precede its
completion events (R94). -/
def Ev.ob (e f : Ev) : List (Nat × Nat) :=
  if !e.same f || decide (f.po ≤ e.po) then []
  else
    (if e.th < 4 ∧ e.kind = .access ∧ e.cls < 16 ∧ (e.cls = f.cls ∨ f.cls = 17) then [(6, 6)] else []) ++
    (if e.th < 4 ∧ e.own ∧ e.touch f then [(6, 6)] else []) ++
    (match f.kind with | .fork _ => if e.kind = .access ∧ e.cls = 16 then [(6, 6)] else [] | _ => []) ++
    (if e.acq ≠ 0 then [(e.acq, e.acq)] else []) ++
    (if f.rel ≠ 0 then [(f.rel, f.rel)] else []) ++
    (if e.rel ≠ 0 ∧ f.acq ≠ 0 then [(e.rel, f.acq)] else []) ++
    (match f.kind with | .fence m z => if e.inMask m then [(z, z)] else [] | _ => []) ++
    (match e.kind with | .fence m z => if f.inMask m then [(z, z)] else [] | _ => [])

/-- Whether read `f` returns a byte of write `e`: of the writes of that byte that it sees, `e` is the last. -/
def Ev.reads (evs : List Ev) (e f : Ev) : Bool :=
  f.read && e.write && decide (e.no < f.no) && !f.miss.contains e.no &&
    (List.range f.n).any (fun i => e.at (f.loc + i) &&
      evs.all (fun w => !(w.write && w.at (f.loc + i) && decide (e.no < w.no ∧ w.no < f.no) && !f.miss.contains w.no)))

/-- Whether a communication runs from `e` to `f` (R90): rf from a write to a read by another party, co from a write to a later
write of a common byte, fr from a read to a write of a common byte that performs later or that it has missed. -/
def Ev.comm (evs : List Ev) (e f : Ev) : Bool :=
  (!e.same f && e.reads evs f) || (e.touch f && e.write && f.write && decide (e.no < f.no)) ||
    (e.touch f && e.read && f.write && (decide (e.no < f.no) || e.miss.contains f.no))

/-- Whether an event between two others is of a kind, on the core of the latter. -/
def Ev.between (e f : Ev) (k : EvKind) (x : Ev) : Bool :=
  decide (e.no < x.no ∧ x.no < f.no) && x.core == f.core && x.kind == k

/-- Whether a token, counter, fork or task link runs from `e` to `f` (R90, R97, R167): a push to the pop of its token; an
increment, or a `kset`, to an observation of its counter that no later `kset` parts from it. -/
def Ev.link (evs : List Ev) (e f : Ev) : Bool :=
  match e.kind, f.kind with
  | .done, .start ts => ts.contains e.task
  | .start _, _ => e.core == f.core && e.task == f.task && decide (e.no < f.no)
  | _, .done => e.core == f.core && e.task == f.task && decide (e.no < f.no)
  | .push a, .pop b n =>
    e.core == f.core && a == b && decide (e.no < f.no) && (evs.filter (e.between f (.push a))).length == n
  | .inc a, .obs b => e.core == f.core && a == b && decide (e.no < f.no) && !evs.any (e.between f (.kset a))
  | .kset a, .obs b => e.core == f.core && a == b && decide (e.no < f.no) && !evs.any (e.between f (.kset a))
  | .fork t, _ => e.core == f.core && f.th == t
  | _, _ => false

/-- Whether `e`, a write of an engine thread, stands before `f`, a later release of a stream that has joined the thread: an
earlier acquire of the stream has observed a completion event of it (R94, R95). -/
def Ev.joined (evs : List Ev) (e f : Ev) : Bool :=
  e.write && e.core == f.core && decide (4 ≤ e.th ∧ f.th < 4 ∧ f.rel ≠ 0 ∧ e.no < f.no) &&
    evs.any (fun i => i.same e && decide (e.po < i.po) &&
      evs.any (fun o => o.same f && decide (o.po < f.po ∧ o.acq ≠ 0) && (i.link evs o || i.comm evs o)))

/-! ### Paths -/

/-- A place of a path: the event reached, the event by which the path entered its party, and the scopes that the party by
which it leaves must be in, as a mask. -/
structure Way where
  at_ : Ev
  enter : Ev
  mask : Nat
  deriving DecidableEq, Repr

/-- Whether a party is in every scope of a mask, as event `e` reckons them. -/
def Ev.inAll (mask : Nat) (e f : Ev) : Bool := (List.range 7).all (fun z => mask / 2 ^ z % 2 == 0 || e.inScope z f)

/-- The next places of a path over some events. -/
def Way.next (evs : List Ev) (w : Way) : List Way :=
  evs.flatMap (fun f =>
    ((w.at_.ob f).filter (fun z => w.at_.inScope z.1 w.enter)).map (fun z => ⟨f, w.enter, w.mask ||| 2 ^ z.2⟩) ++
      (if w.at_.same f ∧ w.at_.comm evs f then [⟨f, w.enter, w.mask⟩] else []) ++
      (if w.at_.joined evs f ∧ f.inScope f.rel w.enter then [⟨f, w.enter, 2 ^ f.rel⟩] else []) ++
      (if !w.at_.same f && (w.at_.comm evs f || w.at_.link evs f) && w.at_.inAll w.mask f then [⟨f, w.at_, 0⟩] else []))

/-- Whether a path reaches event `r` so that the cycle closes with event `m` (R90); `fuel` bounds the places. -/
def reaches (evs : List Ev) (m r : Ev) : Nat → List Way → List Way → Bool
  | 0, _, _ => true
  | _ + 1, [], _ => false
  | fuel + 1, w :: todo, seen =>
    if w.at_.no = r.no ∧ w.at_.inAll w.mask m then true
    else
      let new := (w.next evs).filter (fun x => !seen.contains x)
      reaches evs m r fuel (new ++ todo) (new ++ seen)

/-- Whether a counted path leads from event `m`, entered from `r`, to event `r`, which it leaves for `m`. -/
def closes (evs : List Ev) (m r : Ev) : Bool :=
  reaches evs m r (2048 * (evs.length + 1) ^ 2) [⟨m, r, 0⟩] [⟨m, r, 0⟩]

/-- Whether read `r`, which misses write `m` and the other writes of its list, closes a cycle through the two (R90). -/
def mustSee (hist : List Ev) (m r : Ev) : Bool := closes (r :: hist) m r

/-! ### Recording -/

/-- The number of the next event. -/
def State.nextEv (s : State) : Nat := match s.hist with | [] => 0 | e :: _ => e.no + 1

/-- Records an event. -/
def State.record (s : State) (e : Ev) : State := { s with hist := { e with no := s.nextEv } :: s.hist }

/-- Records an event, unless every write that has performed is seen by all: no order rests on it then. -/
def State.note (s : State) (e : Ev) : State := if s.past.isEmpty then s else s.record e

/-- Records a write at a place, with the bytes before it. -/
def State.noteWrite (s : State) (e : Ev) (loc : Nat) (old : List Byte) : State :=
  let e1 : Ev := { e with no := s.nextEv, loc := loc, n := old.length }
  { s with hist := e1 :: s.hist, past := ⟨loc, old, e1⟩ :: s.past }

/-- Bytes that no party that is recorded has written are seen by all at once. -/
def State.settlePast (s : State) (loc n : Nat) : State :=
  { s with past := s.past.filter (fun p => !meets p.loc p.old.length loc n) }

/-- An event of a party of core v, before its kind and place are filled in. -/
def State.event (s : State) (v th po cls : Nat) : Ev :=
  ⟨0, v, match (s.core v).task with | some t => t.gang | none => [], (s.core v).seed, th, po, .access, cls, false, false, 0, 0, 0,
    0, []⟩

/-! ### What a read sees -/

/-- Some writes by a free choice, from the oldest on: with one of them come the later ones over bytes that both wrote. -/
def missed (tick no : Nat) : List Past → List Past → List Past
  | [], acc => acc
  | p :: ps, acc =>
    missed tick no ps
      (if Config.freeNat 21 ((tick * 2 ^ 40 + no) * 2 ^ 40 + p.ev.no) % 2 = 1 ∨ acc.any (fun q => meets q.loc q.old.length p.loc p.old.length) then
        p :: acc
       else acc)

/-- Whether a read may miss a write at all: a command misses none of its own, and M none of the L commands of its core, whatever
their scope, as the end state of R260 needs, whose copies name no scope (log entry 73). -/
def Ev.mayMiss (r w : Ev) : Bool :=
  !(r.core == w.core && (r.th == w.th && decide (4 ≤ r.th) || r.th == 2 && decide (4 ≤ w.th) && homeStream w.th == 1))

/-- Bytes from a place with some of them replaced. -/
def overlay (loc : Nat) (bs : List Byte) (q : Nat) (old : List Byte) : List Byte :=
  (List.range bs.length).zipWith (fun i b => if q ≤ loc + i then old.getD (loc + i - q) b else b) bs

/-- The writes over its bytes that a read misses, the newest first: a free choice of them, where missing these closes no cycle,
and else none (R88, R90). -/
def State.misses (s : State) (r : Ev) : List Past :=
  let ms := missed s.tick s.nextEv (s.past.filter (fun p => meets p.loc p.old.length r.loc r.n && r.mayMiss p.ev)).reverse []
  let r1 : Ev := { r with no := s.nextEv, read := true, miss := ms.map (fun p => p.ev.no) }
  if ms.any (fun p => mustSee s.hist p.ev r1) then [] else ms

/-- What a read at a place where bytes `now` stand returns, and the state with the read recorded (R88, R90). -/
def State.seen (s : State) (r : Ev) (loc : Nat) (now : List Byte) : State × List Byte :=
  let r1 : Ev := { r with read := true, loc := loc, n := now.length }
  let ms := s.misses r1
  (s.note { r1 with miss := ms.map (fun p => p.ev.no) }, ms.foldl (fun bs p => overlay loc bs p.loc p.old) now)

end Sys2Proof.Machine
end

