-- ==== Sys2Proof/Decode.lean ====
section
/-! DEFINITION. Decoding and encoding (R126–R145): each stream's opcode map as a total function of a word, the byte
decoder over the little-endian halfwords of R126, and the encoder of the same tables. -/

namespace Sys2Proof

open Sys2Proof.Machine

/-- The field of `n` bits at `lo`, as a bit vector. -/
def bits (n lo w : Nat) : BitVec n := BitVec.ofNat n (w / 2 ^ lo)

/-- The POP and PUSH codes of a word (Table 6.1). -/
def tok (w : Nat) : Tok := ⟨bits 2 24 w, bits 2 22 w⟩

/-- Major 32 of the C stream, by minor. -/
def decodeC32 (w : Nat) : Option Instr :=
  match fld w 17 5 with
  | 0 => if fld w 0 2 = 0 then some (.add (tok w) (bits 5 12 w) (bits 5 7 w) (bits 5 2 w)) else none
  | 1 => if fld w 0 2 = 0 then some (.sub (tok w) (bits 5 12 w) (bits 5 7 w) (bits 5 2 w)) else none
  | 2 => if fld w 0 2 = 0 then some (.and (tok w) (bits 5 12 w) (bits 5 7 w) (bits 5 2 w)) else none
  | 3 => if fld w 0 2 = 0 then some (.or (tok w) (bits 5 12 w) (bits 5 7 w) (bits 5 2 w)) else none
  | 4 => if fld w 0 2 = 0 then some (.xor (tok w) (bits 5 12 w) (bits 5 7 w) (bits 5 2 w)) else none
  | 5 => if fld w 0 2 = 0 then some (.andn (tok w) (bits 5 12 w) (bits 5 7 w) (bits 5 2 w)) else none
  | 6 => if fld w 0 2 = 0 then some (.sll (tok w) (bits 5 12 w) (bits 5 7 w) (bits 5 2 w)) else none
  | 7 => if fld w 0 2 = 0 then some (.srl (tok w) (bits 5 12 w) (bits 5 7 w) (bits 5 2 w)) else none
  | 8 => if fld w 0 2 = 0 then some (.sra (tok w) (bits 5 12 w) (bits 5 7 w) (bits 5 2 w)) else none
  | 9 => if fld w 0 2 = 0 then some (.mul (tok w) (bits 5 12 w) (bits 5 7 w) (bits 5 2 w)) else none
  | 10 => if fld w 0 2 = 0 then some (.mulh (tok w) (bits 5 12 w) (bits 5 7 w) (bits 5 2 w)) else none
  | 11 => if fld w 0 2 = 0 then some (.mulhu (tok w) (bits 5 12 w) (bits 5 7 w) (bits 5 2 w)) else none
  | 12 => if fld w 0 2 = 0 then some (.div (tok w) (bits 5 12 w) (bits 5 7 w) (bits 5 2 w)) else none
  | 13 => if fld w 0 2 = 0 then some (.divu (tok w) (bits 5 12 w) (bits 5 7 w) (bits 5 2 w)) else none
  | 14 => if fld w 0 2 = 0 then some (.rem (tok w) (bits 5 12 w) (bits 5 7 w) (bits 5 2 w)) else none
  | 15 => if fld w 0 2 = 0 then some (.remu (tok w) (bits 5 12 w) (bits 5 7 w) (bits 5 2 w)) else none
  | 16 => if fld w 0 2 = 0 then some (.min (tok w) (bits 5 12 w) (bits 5 7 w) (bits 5 2 w)) else none
  | 17 => if fld w 0 2 = 0 then some (.max (tok w) (bits 5 12 w) (bits 5 7 w) (bits 5 2 w)) else none
  | 18 => if fld w 0 2 = 0 then some (.minu (tok w) (bits 5 12 w) (bits 5 7 w) (bits 5 2 w)) else none
  | 19 => if fld w 0 2 = 0 then some (.maxu (tok w) (bits 5 12 w) (bits 5 7 w) (bits 5 2 w)) else none
  | 20 => if fld w 0 7 = 0 then some (.clz (tok w) (bits 5 12 w) (bits 5 7 w)) else none
  | 21 => if fld w 0 7 = 0 then some (.popc (tok w) (bits 5 12 w) (bits 5 7 w)) else none
  | _ => none

/-- Major 37 of the C stream, by minor. -/
def decodeC37 (w : Nat) : Option Instr :=
  match fld w 6 6 with
  | 0 => some (.slli (tok w) (bits 5 17 w) (bits 5 12 w) (bits 6 0 w))
  | 1 => some (.srli (tok w) (bits 5 17 w) (bits 5 12 w) (bits 6 0 w))
  | 2 => some (.srai (tok w) (bits 5 17 w) (bits 5 12 w) (bits 6 0 w))
  | _ => none

/-- Major 38 of the C stream, by minor. -/
def decodeC38 (w : Nat) : Option Instr :=
  match fld w 16 1 with
  | 0 => some (.li (tok w) (bits 5 17 w) (bits 16 0 w))
  | 1 => some (.lis (tok w) (bits 5 17 w) (bits 16 0 w))
  | _ => none

/-- Major 41 of the C stream, by minor. -/
def decodeC41 (w : Nat) : Option Instr :=
  match fld w 10 3 with
  | 0 => if fld w 0 10 = 0 then some (.qand (tok w) (bits 3 19 w) (bits 3 16 w) (bits 3 13 w)) else none
  | 1 => if fld w 0 10 = 0 then some (.qor (tok w) (bits 3 19 w) (bits 3 16 w) (bits 3 13 w)) else none
  | 2 => if fld w 0 10 = 0 then some (.qxor (tok w) (bits 3 19 w) (bits 3 16 w) (bits 3 13 w)) else none
  | 3 => if fld w 0 10 = 0 then some (.qandn (tok w) (bits 3 19 w) (bits 3 16 w) (bits 3 13 w)) else none
  | 4 => if fld w 0 10 = 0 ∧ fld w 13 3 = 0 then some (.qnot (tok w) (bits 3 19 w) (bits 3 16 w)) else none
  | 5 => if fld w 0 10 = 0 ∧ fld w 13 6 = 0 then some (.qset (tok w) (bits 3 19 w)) else none
  | 6 => if fld w 0 10 = 0 ∧ fld w 13 6 = 0 then some (.qclr (tok w) (bits 3 19 w)) else none
  | _ => none

/-- Major 50 of the C stream, by minor. -/
def decodeC50 (w : Nat) : Option Instr :=
  match fld w 0 3 with
  | 0 => some (.faddF64 (tok w) (bits 5 17 w) (bits 5 12 w) (bits 5 7 w) (bits 3 4 w) (bits 1 3 w))
  | 1 => some (.fsubF64 (tok w) (bits 5 17 w) (bits 5 12 w) (bits 5 7 w) (bits 3 4 w) (bits 1 3 w))
  | 2 => some (.fmulF64 (tok w) (bits 5 17 w) (bits 5 12 w) (bits 5 7 w) (bits 3 4 w) (bits 1 3 w))
  | 3 => some (.fdivF64 (tok w) (bits 5 17 w) (bits 5 12 w) (bits 5 7 w) (bits 3 4 w) (bits 1 3 w))
  | 4 => if fld w 4 3 = 0 then some (.fminF64 (tok w) (bits 5 17 w) (bits 5 12 w) (bits 5 7 w) (bits 1 3 w)) else none
  | 5 => if fld w 4 3 = 0 then some (.fmaxF64 (tok w) (bits 5 17 w) (bits 5 12 w) (bits 5 7 w) (bits 1 3 w)) else none
  | 6 => if fld w 7 5 = 0 then some (.fsqrtF64 (tok w) (bits 5 17 w) (bits 5 12 w) (bits 3 4 w) (bits 1 3 w)) else none
  | 7 => some (.ffmaF64 (tok w) (bits 5 17 w) (bits 5 12 w) (bits 5 7 w) (bits 3 4 w) (bits 1 3 w))
  | _ => none

/-- Major 51 of the C stream, by minor. -/
def decodeC51 (w : Nat) : Option Instr :=
  match fld w 0 3 with
  | 0 => some (.faddF32 (tok w) (bits 5 17 w) (bits 5 12 w) (bits 5 7 w) (bits 3 4 w) (bits 1 3 w))
  | 1 => some (.fsubF32 (tok w) (bits 5 17 w) (bits 5 12 w) (bits 5 7 w) (bits 3 4 w) (bits 1 3 w))
  | 2 => some (.fmulF32 (tok w) (bits 5 17 w) (bits 5 12 w) (bits 5 7 w) (bits 3 4 w) (bits 1 3 w))
  | 3 => some (.fdivF32 (tok w) (bits 5 17 w) (bits 5 12 w) (bits 5 7 w) (bits 3 4 w) (bits 1 3 w))
  | 4 => if fld w 4 3 = 0 then some (.fminF32 (tok w) (bits 5 17 w) (bits 5 12 w) (bits 5 7 w) (bits 1 3 w)) else none
  | 5 => if fld w 4 3 = 0 then some (.fmaxF32 (tok w) (bits 5 17 w) (bits 5 12 w) (bits 5 7 w) (bits 1 3 w)) else none
  | 6 => if fld w 7 5 = 0 then some (.fsqrtF32 (tok w) (bits 5 17 w) (bits 5 12 w) (bits 3 4 w) (bits 1 3 w)) else none
  | 7 => some (.ffmaF32 (tok w) (bits 5 17 w) (bits 5 12 w) (bits 5 7 w) (bits 3 4 w) (bits 1 3 w))
  | _ => none

/-- Major 53 of the C stream, by minor. -/
def decodeC53 (w : Nat) : Option Instr :=
  match fld w 18 1 with
  | 0 => some (.bq (tok w) (bits 3 19 w) (bits 18 0 w))
  | 1 => some (.bnq (tok w) (bits 3 19 w) (bits 18 0 w))
  | _ => none

/-- Major 54 of the C stream, by minor. -/
def decodeC54 (w : Nat) : Option Instr :=
  match fld w 21 1 with
  | 0 => some (.j (tok w) (bits 21 0 w))
  | 1 => some (.call (tok w) (bits 21 0 w))
  | _ => none

/-- Major 55 of the C stream, by minor. -/
def decodeC55 (w : Nat) : Option Instr :=
  match fld w 17 5 with
  | 0 => if fld w 0 7 = 0 ∧ fld w 12 5 = 0 then some (.jmpr (tok w) (bits 5 7 w)) else none
  | 1 => if fld w 0 7 = 0 ∧ fld w 12 5 = 0 then some (.callr (tok w) (bits 5 7 w)) else none
  | 2 => if fld w 0 17 = 0 then some (.ret (tok w)) else none
  | 3 => if fld w 0 17 = 0 then some (.ifence (tok w)) else none
  | _ => none

/-- Major 58 of the C stream, by minor. -/
def decodeC58 (w : Nat) : Option Instr :=
  match fld w 19 3 with
  | 0 => if fld w 0 11 = 0 ∧ fld w 22 2 = 0 then some (.exit (bits 2 24 w) (bits 5 14 w) (bits 3 11 w)) else none
  | 1 => if fld w 0 12 = 0 then some (.arenaH (tok w) (bits 5 14 w) (bits 2 12 w)) else none
  | 2 => if fld w 0 7 = 0 then some (.arenaA (tok w) (bits 5 14 w) (bits 2 12 w) (bits 5 7 w)) else none
  | _ => none

/-- Major 59 of the C stream, by minor. -/
def decodeC59 (w : Nat) : Option Instr :=
  match fld w 2 2 with
  | 0 => if fld w 0 2 = 0 then some (.engage (tok w) (bits 3 19 w) (bits 5 14 w) (bits 5 9 w) (bits 5 4 w)) else none
  | 1 => if fld w 0 2 = 0 ∧ fld w 4 5 = 0 then some (.lease (tok w) (bits 3 19 w) (bits 5 14 w) (bits 5 9 w)) else none
  | 2 => if fld w 0 2 = 0 ∧ fld w 4 5 = 0 ∧ fld w 14 5 = 0 then some (.unlease (tok w) (bits 3 19 w) (bits 5 9 w)) else none
  | _ => none

/-- Major 60 of the C stream, by minor. -/
def decodeC60 (w : Nat) : Option Instr :=
  match fld w 20 2 with
  | 0 => if fld w 0 3 = 0 then some (.mfsr (tok w) (bits 5 15 w) (bits 12 3 w)) else none
  | 1 => if fld w 0 3 = 0 then some (.mtsr (tok w) (bits 5 15 w) (bits 12 3 w)) else none
  | 2 => if fld w 16 4 = 0 ∧ fld w 22 2 = 0 then some (.trap (bits 2 24 w) (bits 16 0 w)) else none
  | 3 => if fld w 16 4 = 0 ∧ fld w 22 2 = 0 then some (.brk (bits 2 24 w) (bits 16 0 w)) else none
  | _ => none

/-- Major 61 of the C stream, by minor. -/
def decodeC61 (w : Nat) : Option Instr :=
  match fld w 20 2 with
  | 0 => if fld w 0 15 = 0 then some (.take (tok w) (bits 5 15 w)) else none
  | 1 => if fld w 0 15 = 0 then some (.give (tok w) (bits 5 15 w)) else none
  | 2 => if fld w 0 20 = 0 then some (.nopToken (tok w)) else none
  | _ => none

/-- Major 62 of the C stream, by minor. -/
def decodeC62 (w : Nat) : Option Instr :=
  match fld w 13 3 with
  | 0 => some (.kset (tok w) (bits 6 16 w) (bits 13 0 w))
  | 5 => if fld w 0 8 = 0 then some (.kread (tok w) (bits 6 16 w) (bits 5 8 w)) else none
  | 6 => if fld w 0 8 = 0 then some (.kincr (tok w) (bits 6 16 w) (bits 5 8 w)) else none
  | 1 => some (.kinc (tok w) (bits 6 16 w) (bits 13 0 w))
  | 2 => some (.kwge (tok w) (bits 6 16 w) (bits 13 0 w))
  | 3 => some (.kwgs (tok w) (bits 6 16 w) (bits 13 0 w))
  | 4 => some (.kwlt (tok w) (bits 6 16 w) (bits 13 0 w))
  | _ => none

/-- The 32-bit words of the C stream (Tables 6.8, 6.5), by major. -/
def decodeC (w : Nat) : Option Instr :=
  match fld w 26 6 with
  | 32 => decodeC32 w
  | 33 => some (.addi (tok w) (bits 5 17 w) (bits 5 12 w) (bits 12 0 w))
  | 34 => some (.andi (tok w) (bits 5 17 w) (bits 5 12 w) (bits 12 0 w))
  | 35 => some (.ori (tok w) (bits 5 17 w) (bits 5 12 w) (bits 12 0 w))
  | 36 => some (.xori (tok w) (bits 5 17 w) (bits 5 12 w) (bits 12 0 w))
  | 37 => decodeC37 w
  | 38 => decodeC38 w
  | 39 => if fld w 0 3 = 0 then some (.cmp (tok w) (bits 3 19 w) (bits 3 16 w) (bits 5 11 w) (bits 5 6 w) (bits 2 4 w) (bits 1 3 w)) else none
  | 40 => some (.cmpi (tok w) (bits 3 19 w) (bits 3 16 w) (bits 5 11 w) (bits 11 0 w))
  | 41 => decodeC41 w
  | 42 => some (.ld (tok w) (bits 5 17 w) (bits 5 12 w) (bits 4 8 w) (bits 3 5 w) (bits 2 3 w) (bits 3 0 w))
  | 43 => some (.st (tok w) (bits 5 17 w) (bits 5 12 w) (bits 4 8 w) (bits 3 5 w) (bits 2 3 w) (bits 3 0 w))
  | 44 => some (.ldl (tok w) (bits 5 17 w) (bits 5 12 w) (bits 4 8 w) (bits 3 5 w) (bits 2 3 w) (bits 3 0 w))
  | 45 => some (.stl (tok w) (bits 5 17 w) (bits 5 12 w) (bits 4 8 w) (bits 3 5 w) (bits 2 3 w) (bits 3 0 w))
  | 46 => some (.amoG (tok w) (bits 5 17 w) (bits 5 12 w) (bits 4 8 w) (bits 3 5 w) (bits 4 1 w) (bits 1 0 w))
  | 47 => some (.amoS (tok w) (bits 5 17 w) (bits 5 12 w) (bits 4 8 w) (bits 3 5 w) (bits 4 1 w) (bits 1 0 w))
  | 48 => some (.amoSg (tok w) (bits 5 17 w) (bits 5 12 w) (bits 4 8 w) (bits 3 5 w) (bits 4 1 w) (bits 1 0 w))
  | 49 => if fld w 1 1 = 0 then some (.redf (tok w) (bits 5 17 w) (bits 5 12 w) (bits 4 8 w) (bits 3 5 w) (bits 3 2 w) (bits 1 0 w)) else none
  | 50 => decodeC50 w
  | 51 => decodeC51 w
  | 52 => if fld w 0 1 = 0 then some (.cvt (tok w) (bits 5 17 w) (bits 5 12 w) (bits 3 9 w) (bits 3 6 w) (bits 3 3 w) (bits 1 2 w) (bits 1 1 w)) else none
  | 53 => decodeC53 w
  | 54 => decodeC54 w
  | 55 => decodeC55 w
  | 56 => if fld w 0 3 = 0 then some (.fence (tok w) (bits 16 6 w) (bits 3 3 w)) else none
  | 57 => if fld w 0 2 = 0 then some (.waitw (tok w) (bits 5 17 w) (bits 5 12 w) (bits 4 8 w) (bits 3 5 w) (bits 3 2 w)) else none
  | 58 => decodeC58 w
  | 59 => decodeC59 w
  | 60 => decodeC60 w
  | 61 => decodeC61 w
  | 62 => decodeC62 w
  | 63 => some (.blockHeader (bits 10 16 w) (bits 1 15 w) (bits 3 12 w) (bits 1 11 w) (bits 11 0 w))
  | _ => none

/-- The compact halfwords of the C stream (Table 6.14). -/
def decodeCompactC (w : Nat) : Option Instr :=
  match fld w 10 6 with
  | 1 => some (.mov (bits 5 5 w) (bits 5 0 w))
  | 2 => some (.addc (bits 5 5 w) (bits 5 0 w))
  | 3 => some (.lic (bits 5 5 w) (bits 5 0 w))
  | 4 => some (.kincCompact (bits 6 4 w) (bits 4 0 w))
  | 0 => if fld w 0 10 = 0 then some (.nop) else none
  | _ => none

/-- Major 32 of the L stream, by minor. -/
def decodeL32 (w : Nat) : Option Instr :=
  match fld w 7 4 with
  | 0 => if fld w 0 7 = 0 then some (.cp1d (tok w) (bits 2 20 w) (bits 4 16 w) (bits 3 13 w) (bits 2 11 w)) else none
  | 1 => if fld w 0 7 = 0 then some (.cp2d (tok w) (bits 2 20 w) (bits 4 16 w) (bits 3 13 w) (bits 2 11 w)) else none
  | 2 => if fld w 0 7 = 0 then some (.cp3d (tok w) (bits 2 20 w) (bits 4 16 w) (bits 3 13 w) (bits 2 11 w)) else none
  | 3 => if fld w 0 7 = 0 then some (.cpw1d (tok w) (bits 2 20 w) (bits 4 16 w) (bits 3 13 w) (bits 2 11 w)) else none
  | 4 => if fld w 0 7 = 0 then some (.cpw2d (tok w) (bits 2 20 w) (bits 4 16 w) (bits 3 13 w) (bits 2 11 w)) else none
  | 5 => if fld w 0 7 = 0 then some (.cpw3d (tok w) (bits 2 20 w) (bits 4 16 w) (bits 3 13 w) (bits 2 11 w)) else none
  | 6 => if fld w 0 7 = 0 ∧ fld w 11 2 = 0 then some (.cpl (tok w) (bits 2 20 w) (bits 4 16 w) (bits 3 13 w)) else none
  | 7 => if fld w 0 7 = 0 ∧ fld w 11 2 = 0 then some (.cpr (tok w) (bits 2 20 w) (bits 4 16 w) (bits 3 13 w)) else none
  | 8 => if fld w 0 7 = 0 ∧ fld w 11 2 = 0 then some (.cpm (tok w) (bits 2 20 w) (bits 4 16 w) (bits 3 13 w)) else none
  | _ => none

/-- Major 34 of the L stream, by minor. -/
def decodeL34 (w : Nat) : Option Instr :=
  match fld w 7 4 with
  | 0 => if fld w 0 7 = 0 then some (.pfBulk (tok w) (bits 2 20 w) (bits 4 16 w) (bits 3 13 w) (bits 2 11 w)) else none
  | 1 => if fld w 0 7 = 0 ∧ fld w 11 2 = 0 then some (.pfRel (tok w) (bits 2 20 w) (bits 4 16 w) (bits 3 13 w)) else none
  | _ => none

/-- Major 35 of the L stream, by minor. -/
def decodeL35 (w : Nat) : Option Instr :=
  match fld w 7 4 with
  | 0 => if fld w 0 7 = 0 then some (.lgath (tok w) (bits 2 20 w) (bits 4 16 w) (bits 3 13 w) (bits 2 11 w)) else none
  | 1 => if fld w 0 7 = 0 then some (.lscat (tok w) (bits 2 20 w) (bits 4 16 w) (bits 3 13 w) (bits 2 11 w)) else none
  | 2 => if fld w 0 7 = 0 then some (.lfill (tok w) (bits 2 20 w) (bits 4 16 w) (bits 3 13 w) (bits 2 11 w)) else none
  | _ => none

/-- Major 36 of the L stream, by minor. -/
def decodeL36 (w : Nat) : Option Instr :=
  match fld w 18 4 with
  | 0 => if fld w 0 6 = 0 then some (.badd (tok w) (bits 4 14 w) (bits 4 10 w) (bits 4 6 w)) else none
  | 1 => if fld w 0 6 = 0 then some (.bsub (tok w) (bits 4 14 w) (bits 4 10 w) (bits 4 6 w)) else none
  | 2 => if fld w 0 6 = 0 then some (.band (tok w) (bits 4 14 w) (bits 4 10 w) (bits 4 6 w)) else none
  | 3 => if fld w 0 6 = 0 then some (.bor (tok w) (bits 4 14 w) (bits 4 10 w) (bits 4 6 w)) else none
  | 4 => if fld w 0 6 = 0 then some (.bxor (tok w) (bits 4 14 w) (bits 4 10 w) (bits 4 6 w)) else none
  | 5 => if fld w 0 6 = 0 then some (.bsll (tok w) (bits 4 14 w) (bits 4 10 w) (bits 4 6 w)) else none
  | 6 => if fld w 0 6 = 0 then some (.bsrl (tok w) (bits 4 14 w) (bits 4 10 w) (bits 4 6 w)) else none
  | 7 => if fld w 0 6 = 0 then some (.bmul (tok w) (bits 4 14 w) (bits 4 10 w) (bits 4 6 w)) else none
  | _ => none

/-- Major 38 of the L stream, by minor. -/
def decodeL38 (w : Nat) : Option Instr :=
  match fld w 17 1 with
  | 0 => if fld w 0 1 = 0 then some (.bli (tok w) (bits 4 18 w) (bits 16 1 w)) else none
  | 1 => if fld w 0 1 = 0 then some (.blis (tok w) (bits 4 18 w) (bits 16 1 w)) else none
  | _ => none

/-- Major 61 of the L stream, by minor. -/
def decodeL61 (w : Nat) : Option Instr :=
  match fld w 20 2 with
  | 0 => if fld w 0 15 = 0 then some (.take (tok w) (bits 5 15 w)) else none
  | 1 => if fld w 0 15 = 0 then some (.give (tok w) (bits 5 15 w)) else none
  | 2 => if fld w 0 20 = 0 then some (.nopToken (tok w)) else none
  | _ => none

/-- Major 62 of the L stream, by minor. -/
def decodeL62 (w : Nat) : Option Instr :=
  match fld w 13 3 with
  | 1 => some (.kinc (tok w) (bits 6 16 w) (bits 13 0 w))
  | 2 => some (.kwge (tok w) (bits 6 16 w) (bits 13 0 w))
  | 3 => some (.kwgs (tok w) (bits 6 16 w) (bits 13 0 w))
  | 4 => some (.kwlt (tok w) (bits 6 16 w) (bits 13 0 w))
  | _ => none

/-- The 32-bit words of the L stream (Tables 6.9, 6.5), by major. -/
def decodeL (w : Nat) : Option Instr :=
  match fld w 26 6 with
  | 32 => decodeL32 w
  | 33 => if fld w 0 6 = 0 then some (.cvcp (tok w) (bits 2 20 w) (bits 4 16 w) (bits 3 13 w) (bits 2 11 w) (bits 3 8 w) (bits 1 7 w) (bits 1 6 w)) else none
  | 34 => decodeL34 w
  | 35 => decodeL35 w
  | 36 => decodeL36 w
  | 37 => some (.baddi (tok w) (bits 4 18 w) (bits 4 14 w) (bits 14 0 w))
  | 38 => decodeL38 w
  | 61 => decodeL61 w
  | 62 => decodeL62 w
  | 63 => some (.blockHeader (bits 10 16 w) (bits 1 15 w) (bits 3 12 w) (bits 1 11 w) (bits 11 0 w))
  | _ => none

/-- The compact halfwords of the L stream (Table 6.14). -/
def decodeCompactL (w : Nat) : Option Instr :=
  match fld w 10 6 with
  | 1 => if fld w 8 2 = 0 then some (.bmov (bits 4 4 w) (bits 4 0 w)) else none
  | 2 => some (.baddc (bits 4 6 w) (bits 6 0 w))
  | 0 => if fld w 0 10 = 0 then some (.nop) else none
  | _ => none

/-- Major 34 of the M stream, by minor. -/
def decodeM34 (w : Nat) : Option Instr :=
  match fld w 13 2 with
  | 0 => if fld w 0 13 = 0 ∧ fld w 15 4 = 0 then some (.tclr (tok w) (bits 3 19 w)) else none
  | 1 => if fld w 0 13 = 0 then some (.tldA (tok w) (bits 3 19 w) (bits 4 15 w)) else none
  | 2 => if fld w 0 13 = 0 then some (.tldW (tok w) (bits 3 19 w) (bits 4 15 w)) else none
  | _ => none

/-- Major 37 of the M stream, by minor. -/
def decodeM37 (w : Nat) : Option Instr :=
  match fld w 17 1 with
  | 0 => if fld w 0 1 = 0 then some (.gli (tok w) (bits 4 18 w) (bits 16 1 w)) else none
  | 1 => if fld w 0 1 = 0 then some (.glis (tok w) (bits 4 18 w) (bits 16 1 w)) else none
  | _ => none

/-- Major 61 of the M stream, by minor. -/
def decodeM61 (w : Nat) : Option Instr :=
  match fld w 20 2 with
  | 0 => if fld w 0 15 = 0 then some (.take (tok w) (bits 5 15 w)) else none
  | 1 => if fld w 0 15 = 0 then some (.give (tok w) (bits 5 15 w)) else none
  | 2 => if fld w 0 20 = 0 then some (.nopToken (tok w)) else none
  | _ => none

/-- Major 62 of the M stream, by minor. -/
def decodeM62 (w : Nat) : Option Instr :=
  match fld w 13 3 with
  | 1 => some (.kinc (tok w) (bits 6 16 w) (bits 13 0 w))
  | 2 => some (.kwge (tok w) (bits 6 16 w) (bits 13 0 w))
  | 3 => some (.kwgs (tok w) (bits 6 16 w) (bits 13 0 w))
  | 4 => some (.kwlt (tok w) (bits 6 16 w) (bits 13 0 w))
  | _ => none

/-- The 32-bit words of the M stream (Tables 6.10, 6.5), by major. -/
def decodeM (w : Nat) : Option Instr :=
  match fld w 26 6 with
  | 32 => some (.mma (tok w) (bits 3 19 w) (bits 4 15 w) (bits 4 11 w) (bits 3 8 w) (bits 5 3 w) (bits 3 0 w))
  | 33 => some (.mmat (tok w) (bits 3 19 w) (bits 4 15 w) (bits 4 11 w) (bits 3 8 w) (bits 5 3 w) (bits 3 0 w))
  | 34 => decodeM34 w
  | 35 => some (.drain (tok w) (bits 3 19 w) (bits 4 15 w) (bits 2 13 w) (bits 3 10 w) (bits 1 9 w) (bits 6 3 w) (bits 3 0 w))
  | 36 => if fld w 0 9 = 0 then some (.eload (tok w) (bits 3 19 w) (bits 4 15 w) (bits 5 10 w) (bits 1 9 w)) else none
  | 37 => decodeM37 w
  | 61 => decodeM61 w
  | 62 => decodeM62 w
  | 63 => some (.blockHeader (bits 10 16 w) (bits 1 15 w) (bits 3 12 w) (bits 1 11 w) (bits 11 0 w))
  | _ => none

/-- The compact halfwords of the M stream (Table 6.14). -/
def decodeCompactM (w : Nat) : Option Instr :=
  match fld w 10 6 with
  | 1 => if fld w 3 7 = 0 then some (.tclrCompact (bits 3 0 w)) else none
  | 0 => if fld w 0 10 = 0 then some (.nop) else none
  | _ => none

/-- Major 32 of the V stream, by minor. -/
def decodeV32 (w : Nat) : Option Instr :=
  match fld w 20 2 with
  | 0 => some (.vaddF32 (tok w) (bits 5 15 w) (bits 5 10 w) (bits 5 5 w) (bits 3 2 w) (bits 1 1 w) (bits 1 0 w))
  | 1 => some (.vsubF32 (tok w) (bits 5 15 w) (bits 5 10 w) (bits 5 5 w) (bits 3 2 w) (bits 1 1 w) (bits 1 0 w))
  | 2 => some (.vmulF32 (tok w) (bits 5 15 w) (bits 5 10 w) (bits 5 5 w) (bits 3 2 w) (bits 1 1 w) (bits 1 0 w))
  | 3 => some (.vfmaF32 (tok w) (bits 5 15 w) (bits 5 10 w) (bits 5 5 w) (bits 3 2 w) (bits 1 1 w) (bits 1 0 w))
  | _ => none

/-- Major 33 of the V stream, by minor. -/
def decodeV33 (w : Nat) : Option Instr :=
  match fld w 20 2 with
  | 0 => if fld w 2 3 = 0 then some (.vminF32 (tok w) (bits 5 15 w) (bits 5 10 w) (bits 5 5 w) (bits 1 1 w) (bits 1 0 w)) else none
  | 1 => if fld w 2 3 = 0 then some (.vmaxF32 (tok w) (bits 5 15 w) (bits 5 10 w) (bits 5 5 w) (bits 1 1 w) (bits 1 0 w)) else none
  | 2 => some (.vdivF32 (tok w) (bits 5 15 w) (bits 5 10 w) (bits 5 5 w) (bits 3 2 w) (bits 1 1 w) (bits 1 0 w))
  | _ => none

/-- Major 34 of the V stream, by minor. -/
def decodeV34 (w : Nat) : Option Instr :=
  match fld w 20 2 with
  | 0 => some (.vaddF64 (tok w) (bits 5 15 w) (bits 5 10 w) (bits 5 5 w) (bits 3 2 w) (bits 1 1 w) (bits 1 0 w))
  | 1 => some (.vsubF64 (tok w) (bits 5 15 w) (bits 5 10 w) (bits 5 5 w) (bits 3 2 w) (bits 1 1 w) (bits 1 0 w))
  | 2 => some (.vmulF64 (tok w) (bits 5 15 w) (bits 5 10 w) (bits 5 5 w) (bits 3 2 w) (bits 1 1 w) (bits 1 0 w))
  | 3 => some (.vfmaF64 (tok w) (bits 5 15 w) (bits 5 10 w) (bits 5 5 w) (bits 3 2 w) (bits 1 1 w) (bits 1 0 w))
  | _ => none

/-- Major 35 of the V stream, by minor. -/
def decodeV35 (w : Nat) : Option Instr :=
  match fld w 20 2 with
  | 0 => if fld w 2 3 = 0 then some (.vminF64 (tok w) (bits 5 15 w) (bits 5 10 w) (bits 5 5 w) (bits 1 1 w) (bits 1 0 w)) else none
  | 1 => if fld w 2 3 = 0 then some (.vmaxF64 (tok w) (bits 5 15 w) (bits 5 10 w) (bits 5 5 w) (bits 1 1 w) (bits 1 0 w)) else none
  | 2 => some (.vdivF64 (tok w) (bits 5 15 w) (bits 5 10 w) (bits 5 5 w) (bits 3 2 w) (bits 1 1 w) (bits 1 0 w))
  | _ => none

/-- Major 36 of the V stream, by minor. -/
def decodeV36 (w : Nat) : Option Instr :=
  match fld w 20 2 with
  | 0 => some (.vaddF16 (tok w) (bits 5 15 w) (bits 5 10 w) (bits 5 5 w) (bits 3 2 w) (bits 1 1 w) (bits 1 0 w))
  | 1 => some (.vsubF16 (tok w) (bits 5 15 w) (bits 5 10 w) (bits 5 5 w) (bits 3 2 w) (bits 1 1 w) (bits 1 0 w))
  | 2 => some (.vmulF16 (tok w) (bits 5 15 w) (bits 5 10 w) (bits 5 5 w) (bits 3 2 w) (bits 1 1 w) (bits 1 0 w))
  | 3 => some (.vfmaF16 (tok w) (bits 5 15 w) (bits 5 10 w) (bits 5 5 w) (bits 3 2 w) (bits 1 1 w) (bits 1 0 w))
  | _ => none

/-- Major 37 of the V stream, by minor. -/
def decodeV37 (w : Nat) : Option Instr :=
  match fld w 20 2 with
  | 0 => if fld w 2 3 = 0 then some (.vminF16 (tok w) (bits 5 15 w) (bits 5 10 w) (bits 5 5 w) (bits 1 1 w) (bits 1 0 w)) else none
  | 1 => if fld w 2 3 = 0 then some (.vmaxF16 (tok w) (bits 5 15 w) (bits 5 10 w) (bits 5 5 w) (bits 1 1 w) (bits 1 0 w)) else none
  | 2 => some (.vdivF16 (tok w) (bits 5 15 w) (bits 5 10 w) (bits 5 5 w) (bits 3 2 w) (bits 1 1 w) (bits 1 0 w))
  | _ => none

/-- Major 38 of the V stream, by minor. -/
def decodeV38 (w : Nat) : Option Instr :=
  match fld w 20 2 with
  | 0 => some (.vaddBf16 (tok w) (bits 5 15 w) (bits 5 10 w) (bits 5 5 w) (bits 3 2 w) (bits 1 1 w) (bits 1 0 w))
  | 1 => some (.vsubBf16 (tok w) (bits 5 15 w) (bits 5 10 w) (bits 5 5 w) (bits 3 2 w) (bits 1 1 w) (bits 1 0 w))
  | 2 => some (.vmulBf16 (tok w) (bits 5 15 w) (bits 5 10 w) (bits 5 5 w) (bits 3 2 w) (bits 1 1 w) (bits 1 0 w))
  | 3 => some (.vfmaBf16 (tok w) (bits 5 15 w) (bits 5 10 w) (bits 5 5 w) (bits 3 2 w) (bits 1 1 w) (bits 1 0 w))
  | _ => none

/-- Major 39 of the V stream, by minor. -/
def decodeV39 (w : Nat) : Option Instr :=
  match fld w 20 2 with
  | 0 => if fld w 2 3 = 0 then some (.vminBf16 (tok w) (bits 5 15 w) (bits 5 10 w) (bits 5 5 w) (bits 1 1 w) (bits 1 0 w)) else none
  | 1 => if fld w 2 3 = 0 then some (.vmaxBf16 (tok w) (bits 5 15 w) (bits 5 10 w) (bits 5 5 w) (bits 1 1 w) (bits 1 0 w)) else none
  | 2 => some (.vdivBf16 (tok w) (bits 5 15 w) (bits 5 10 w) (bits 5 5 w) (bits 3 2 w) (bits 1 1 w) (bits 1 0 w))
  | _ => none

/-- Major 40 of the V stream, by minor. -/
def decodeV40 (w : Nat) : Option Instr :=
  match fld w 20 2 with
  | 0 => if fld w 2 3 = 0 then some (.vaddI32 (tok w) (bits 5 15 w) (bits 5 10 w) (bits 5 5 w) (bits 1 1 w) (bits 1 0 w)) else none
  | 1 => if fld w 2 3 = 0 then some (.vsubI32 (tok w) (bits 5 15 w) (bits 5 10 w) (bits 5 5 w) (bits 1 1 w) (bits 1 0 w)) else none
  | 2 => if fld w 2 3 = 0 then some (.vmulI32 (tok w) (bits 5 15 w) (bits 5 10 w) (bits 5 5 w) (bits 1 1 w) (bits 1 0 w)) else none
  | 3 => if fld w 1 4 = 0 then some (.vmulhI32 (tok w) (bits 5 15 w) (bits 5 10 w) (bits 5 5 w) (bits 1 0 w)) else none
  | _ => none

/-- Major 41 of the V stream, by minor. -/
def decodeV41 (w : Nat) : Option Instr :=
  match fld w 20 2 with
  | 0 => if fld w 1 4 = 0 then some (.vand (tok w) (bits 5 15 w) (bits 5 10 w) (bits 5 5 w) (bits 1 0 w)) else none
  | 1 => if fld w 1 4 = 0 then some (.vor (tok w) (bits 5 15 w) (bits 5 10 w) (bits 5 5 w) (bits 1 0 w)) else none
  | 2 => if fld w 1 4 = 0 then some (.vxor (tok w) (bits 5 15 w) (bits 5 10 w) (bits 5 5 w) (bits 1 0 w)) else none
  | 3 => if fld w 1 4 = 0 then some (.vandn (tok w) (bits 5 15 w) (bits 5 10 w) (bits 5 5 w) (bits 1 0 w)) else none
  | _ => none

/-- Major 42 of the V stream, by minor. -/
def decodeV42 (w : Nat) : Option Instr :=
  match fld w 20 2 with
  | 0 => if fld w 1 4 = 0 then some (.vsll (tok w) (bits 5 15 w) (bits 5 10 w) (bits 5 5 w) (bits 1 0 w)) else none
  | 1 => if fld w 1 4 = 0 then some (.vsrl (tok w) (bits 5 15 w) (bits 5 10 w) (bits 5 5 w) (bits 1 0 w)) else none
  | 2 => if fld w 1 4 = 0 then some (.vsra (tok w) (bits 5 15 w) (bits 5 10 w) (bits 5 5 w) (bits 1 0 w)) else none
  | _ => none

/-- Major 43 of the V stream, by minor. -/
def decodeV43 (w : Nat) : Option Instr :=
  match fld w 20 2 with
  | 0 => if fld w 2 3 = 0 then some (.vaddI16 (tok w) (bits 5 15 w) (bits 5 10 w) (bits 5 5 w) (bits 1 1 w) (bits 1 0 w)) else none
  | 1 => if fld w 2 3 = 0 then some (.vsubI16 (tok w) (bits 5 15 w) (bits 5 10 w) (bits 5 5 w) (bits 1 1 w) (bits 1 0 w)) else none
  | 2 => if fld w 2 3 = 0 then some (.vmulI16 (tok w) (bits 5 15 w) (bits 5 10 w) (bits 5 5 w) (bits 1 1 w) (bits 1 0 w)) else none
  | _ => none

/-- Major 45 of the V stream, by minor. -/
def decodeV45 (w : Nat) : Option Instr :=
  match fld w 20 2 with
  | 0 => if fld w 1 9 = 0 then some (.vmov (tok w) (bits 5 15 w) (bits 5 10 w) (bits 1 0 w)) else none
  | 1 => if fld w 1 4 = 0 then some (.vsel (tok w) (bits 5 15 w) (bits 5 10 w) (bits 5 5 w) (bits 1 0 w)) else none
  | 2 => if fld w 1 4 = 0 ∧ fld w 9 6 = 0 then some (.vbcast (tok w) (bits 5 15 w) (bits 4 5 w) (bits 1 0 w)) else none
  | _ => none

/-- Major 46 of the V stream, by minor. -/
def decodeV46 (w : Nat) : Option Instr :=
  match fld w 17 5 with
  | 0 => some (.vsqrt (tok w) (bits 2 15 w) (bits 5 10 w) (bits 5 5 w) (bits 3 2 w) (bits 1 1 w) (bits 1 0 w))
  | 1 => some (.vrsqrt (tok w) (bits 2 15 w) (bits 5 10 w) (bits 5 5 w) (bits 3 2 w) (bits 1 1 w) (bits 1 0 w))
  | 2 => some (.vexp2 (tok w) (bits 2 15 w) (bits 5 10 w) (bits 5 5 w) (bits 3 2 w) (bits 1 1 w) (bits 1 0 w))
  | 3 => some (.vlog2 (tok w) (bits 2 15 w) (bits 5 10 w) (bits 5 5 w) (bits 3 2 w) (bits 1 1 w) (bits 1 0 w))
  | 4 => some (.vexp (tok w) (bits 2 15 w) (bits 5 10 w) (bits 5 5 w) (bits 3 2 w) (bits 1 1 w) (bits 1 0 w))
  | 5 => some (.vln (tok w) (bits 2 15 w) (bits 5 10 w) (bits 5 5 w) (bits 3 2 w) (bits 1 1 w) (bits 1 0 w))
  | 6 => some (.vsin (tok w) (bits 2 15 w) (bits 5 10 w) (bits 5 5 w) (bits 3 2 w) (bits 1 1 w) (bits 1 0 w))
  | 7 => some (.vcos (tok w) (bits 2 15 w) (bits 5 10 w) (bits 5 5 w) (bits 3 2 w) (bits 1 1 w) (bits 1 0 w))
  | 8 => some (.vtanh (tok w) (bits 2 15 w) (bits 5 10 w) (bits 5 5 w) (bits 3 2 w) (bits 1 1 w) (bits 1 0 w))
  | 9 => some (.verf (tok w) (bits 2 15 w) (bits 5 10 w) (bits 5 5 w) (bits 3 2 w) (bits 1 1 w) (bits 1 0 w))
  | 10 => some (.vrcp (tok w) (bits 2 15 w) (bits 5 10 w) (bits 5 5 w) (bits 3 2 w) (bits 1 1 w) (bits 1 0 w))
  | _ => none

/-- Major 50 of the V stream, by minor. -/
def decodeV50 (w : Nat) : Option Instr :=
  match fld w 1 1 with
  | 0 => if fld w 0 1 = 0 then some (.vquant (tok w) (bits 5 17 w) (bits 5 12 w) (bits 5 7 w) (bits 3 4 w) (bits 1 3 w) (bits 1 2 w)) else none
  | 1 => if fld w 0 1 = 0 then some (.vexpand (tok w) (bits 5 17 w) (bits 5 12 w) (bits 5 7 w) (bits 3 4 w) (bits 1 3 w) (bits 1 2 w)) else none
  | _ => none

/-- Major 51 of the V stream, by minor. -/
def decodeV51 (w : Nat) : Option Instr :=
  match fld w 18 4 with
  | 0 => some (.vrsum (tok w) (bits 3 15 w) (bits 5 10 w) (bits 5 5 w) (bits 3 2 w) (bits 1 1 w) (bits 1 0 w))
  | 1 => some (.vrmax (tok w) (bits 3 15 w) (bits 5 10 w) (bits 5 5 w) (bits 3 2 w) (bits 1 1 w) (bits 1 0 w))
  | 2 => some (.vrmin (tok w) (bits 3 15 w) (bits 5 10 w) (bits 5 5 w) (bits 3 2 w) (bits 1 1 w) (bits 1 0 w))
  | _ => none

/-- Major 52 of the V stream, by minor. -/
def decodeV52 (w : Nat) : Option Instr :=
  match fld w 20 2 with
  | 0 => some (.vbcl (tok w) (bits 2 18 w) (bits 5 13 w) (bits 5 8 w) (bits 1 7 w) (bits 7 0 w))
  | 1 => some (.vrotl (tok w) (bits 2 18 w) (bits 5 13 w) (bits 5 8 w) (bits 1 7 w) (bits 7 0 w))
  | 2 => if fld w 5 2 = 0 then some (.vshuf (tok w) (bits 2 18 w) (bits 5 13 w) (bits 5 8 w) (bits 1 7 w) (bits 5 0 w)) else none
  | 3 => if fld w 0 7 = 0 then some (.vzip (tok w) (bits 2 18 w) (bits 5 13 w) (bits 5 8 w) (bits 1 7 w)) else none
  | _ => none

/-- Major 53 of the V stream, by minor. -/
def decodeV53 (w : Nat) : Option Instr :=
  match fld w 20 2 with
  | 0 => if fld w 0 8 = 0 then some (.vldr (tok w) (bits 2 18 w) (bits 4 14 w) (bits 5 9 w) (bits 1 8 w)) else none
  | 1 => if fld w 0 8 = 0 then some (.vstr (tok w) (bits 2 18 w) (bits 4 14 w) (bits 5 9 w) (bits 1 8 w)) else none
  | _ => none

/-- Major 54 of the V stream, by minor. -/
def decodeV54 (w : Nat) : Option Instr :=
  match fld w 21 1 with
  | 0 => some (.vldG (tok w) (bits 2 19 w) (bits 4 15 w) (bits 5 10 w) (bits 4 6 w) (bits 3 3 w) (bits 2 1 w) (bits 1 0 w))
  | 1 => some (.vstG (tok w) (bits 2 19 w) (bits 4 15 w) (bits 5 10 w) (bits 4 6 w) (bits 3 3 w) (bits 2 1 w) (bits 1 0 w))
  | _ => none

/-- Major 55 of the V stream, by minor. -/
def decodeV55 (w : Nat) : Option Instr :=
  match fld w 21 1 with
  | 0 => if fld w 1 2 = 0 then some (.vldSg (tok w) (bits 2 19 w) (bits 4 15 w) (bits 5 10 w) (bits 4 6 w) (bits 3 3 w) (bits 1 0 w)) else none
  | 1 => if fld w 1 2 = 0 then some (.vstSg (tok w) (bits 2 19 w) (bits 4 15 w) (bits 5 10 w) (bits 4 6 w) (bits 3 3 w) (bits 1 0 w)) else none
  | _ => none

/-- Major 56 of the V stream, by minor. -/
def decodeV56 (w : Nat) : Option Instr :=
  match fld w 21 1 with
  | 0 => if fld w 0 3 = 0 then some (.vgath (tok w) (bits 2 19 w) (bits 1 18 w) (bits 5 13 w) (bits 5 8 w) (bits 4 4 w) (bits 1 3 w)) else none
  | 1 => if fld w 0 3 = 0 then some (.vscat (tok w) (bits 2 19 w) (bits 1 18 w) (bits 5 13 w) (bits 5 8 w) (bits 4 4 w) (bits 1 3 w)) else none
  | _ => none

/-- Major 57 of the V stream, by minor. -/
def decodeV57 (w : Nat) : Option Instr :=
  match fld w 7 3 with
  | 0 => if fld w 0 7 = 0 then some (.pand (tok w) (bits 4 18 w) (bits 4 14 w) (bits 4 10 w)) else none
  | 1 => if fld w 0 7 = 0 then some (.por (tok w) (bits 4 18 w) (bits 4 14 w) (bits 4 10 w)) else none
  | 2 => if fld w 0 7 = 0 then some (.pxor (tok w) (bits 4 18 w) (bits 4 14 w) (bits 4 10 w)) else none
  | 3 => if fld w 0 7 = 0 then some (.pandn (tok w) (bits 4 18 w) (bits 4 14 w) (bits 4 10 w)) else none
  | 4 => if fld w 0 7 = 0 ∧ fld w 10 4 = 0 then some (.pnot (tok w) (bits 4 18 w) (bits 4 14 w)) else none
  | 5 => if fld w 0 7 = 0 ∧ fld w 10 8 = 0 then some (.pset (tok w) (bits 4 18 w)) else none
  | 6 => if fld w 0 7 = 0 ∧ fld w 10 8 = 0 then some (.pclr (tok w) (bits 4 18 w)) else none
  | _ => none

/-- Major 58 of the V stream, by minor. -/
def decodeV58 (w : Nat) : Option Instr :=
  match fld w 17 1 with
  | 0 => if fld w 0 1 = 0 then some (.xli (tok w) (bits 4 18 w) (bits 16 1 w)) else none
  | 1 => if fld w 0 1 = 0 then some (.xlis (tok w) (bits 4 18 w) (bits 16 1 w)) else none
  | _ => none

/-- Major 59 of the V stream, by minor. -/
def decodeV59 (w : Nat) : Option Instr :=
  match fld w 18 4 with
  | 0 => if fld w 0 6 = 0 then some (.xadd (tok w) (bits 4 14 w) (bits 4 10 w) (bits 4 6 w)) else none
  | 1 => if fld w 0 6 = 0 then some (.xsub (tok w) (bits 4 14 w) (bits 4 10 w) (bits 4 6 w)) else none
  | 2 => if fld w 0 6 = 0 then some (.xand (tok w) (bits 4 14 w) (bits 4 10 w) (bits 4 6 w)) else none
  | 3 => if fld w 0 6 = 0 then some (.xorX (tok w) (bits 4 14 w) (bits 4 10 w) (bits 4 6 w)) else none
  | 4 => if fld w 0 6 = 0 then some (.xxor (tok w) (bits 4 14 w) (bits 4 10 w) (bits 4 6 w)) else none
  | 5 => if fld w 0 6 = 0 then some (.xsll (tok w) (bits 4 14 w) (bits 4 10 w) (bits 4 6 w)) else none
  | 6 => if fld w 0 6 = 0 then some (.xsrl (tok w) (bits 4 14 w) (bits 4 10 w) (bits 4 6 w)) else none
  | 7 => if fld w 0 6 = 0 then some (.xmul (tok w) (bits 4 14 w) (bits 4 10 w) (bits 4 6 w)) else none
  | _ => none

/-- Major 60 of the V stream, by minor. -/
def decodeV60 (w : Nat) : Option Instr :=
  match fld w 19 3 with
  | 0 => some (.vfence (tok w) (bits 16 3 w) (bits 3 0 w))
  | 1 => if fld w 0 6 = 0 ∧ fld w 10 4 = 0 then some (.vflrd (tok w) (bits 5 14 w) (bits 3 7 w) (bits 1 6 w)) else none
  | 2 => if fld w 0 7 = 0 ∧ fld w 10 9 = 0 then some (.vflclr (tok w) (bits 3 7 w)) else none
  | 3 => if fld w 0 10 = 0 ∧ fld w 14 5 = 0 then some (.vbaseW (tok w) (bits 4 10 w)) else none
  | 4 => if fld w 0 10 = 0 ∧ fld w 14 5 = 0 then some (.vbaseR (tok w) (bits 4 10 w)) else none
  | 5 => if fld w 0 10 = 0 ∧ fld w 14 5 = 0 then some (.vrotW (tok w) (bits 4 10 w)) else none
  | 6 => if fld w 0 10 = 0 ∧ fld w 14 5 = 0 then some (.vrotR (tok w) (bits 4 10 w)) else none
  | _ => none

/-- Major 61 of the V stream, by minor. -/
def decodeV61 (w : Nat) : Option Instr :=
  match fld w 20 2 with
  | 0 => if fld w 0 15 = 0 then some (.take (tok w) (bits 5 15 w)) else none
  | 1 => if fld w 0 15 = 0 then some (.give (tok w) (bits 5 15 w)) else none
  | 2 => if fld w 0 20 = 0 then some (.nopToken (tok w)) else none
  | _ => none

/-- Major 62 of the V stream, by minor. -/
def decodeV62 (w : Nat) : Option Instr :=
  match fld w 13 3 with
  | 1 => some (.kinc (tok w) (bits 6 16 w) (bits 13 0 w))
  | 2 => some (.kwge (tok w) (bits 6 16 w) (bits 13 0 w))
  | 3 => some (.kwgs (tok w) (bits 6 16 w) (bits 13 0 w))
  | 4 => some (.kwlt (tok w) (bits 6 16 w) (bits 13 0 w))
  | _ => none

/-- The 32-bit words of the V stream (Tables 6.11, 6.5), by major. -/
def decodeV (w : Nat) : Option Instr :=
  match fld w 26 6 with
  | 32 => decodeV32 w
  | 33 => decodeV33 w
  | 34 => decodeV34 w
  | 35 => decodeV35 w
  | 36 => decodeV36 w
  | 37 => decodeV37 w
  | 38 => decodeV38 w
  | 39 => decodeV39 w
  | 40 => decodeV40 w
  | 41 => decodeV41 w
  | 42 => decodeV42 w
  | 43 => decodeV43 w
  | 44 => some (.vcmp (tok w) (bits 4 18 w) (bits 3 15 w) (bits 5 10 w) (bits 5 5 w) (bits 3 2 w) (bits 1 1 w) (bits 1 0 w))
  | 45 => decodeV45 w
  | 46 => decodeV46 w
  | 47 => some (.vcvtF32 (tok w) (bits 5 17 w) (bits 1 16 w) (bits 5 11 w) (bits 5 6 w) (bits 3 3 w) (bits 1 2 w) (bits 1 1 w) (bits 1 0 w))
  | 48 => some (.vcvtF64 (tok w) (bits 5 17 w) (bits 1 16 w) (bits 5 11 w) (bits 5 6 w) (bits 3 3 w) (bits 1 2 w) (bits 1 1 w) (bits 1 0 w))
  | 49 => some (.vcvtI32 (tok w) (bits 5 17 w) (bits 1 16 w) (bits 5 11 w) (bits 5 6 w) (bits 3 3 w) (bits 1 2 w) (bits 1 1 w) (bits 1 0 w))
  | 50 => decodeV50 w
  | 51 => decodeV51 w
  | 52 => decodeV52 w
  | 53 => decodeV53 w
  | 54 => decodeV54 w
  | 55 => decodeV55 w
  | 56 => decodeV56 w
  | 57 => decodeV57 w
  | 58 => decodeV58 w
  | 59 => decodeV59 w
  | 60 => decodeV60 w
  | 61 => decodeV61 w
  | 62 => decodeV62 w
  | 63 => some (.blockHeader (bits 10 16 w) (bits 1 15 w) (bits 3 12 w) (bits 1 11 w) (bits 11 0 w))
  | _ => none

/-- The compact halfwords of the V stream (Table 6.14). -/
def decodeCompactV (w : Nat) : Option Instr :=
  match fld w 10 6 with
  | 1 => if fld w 4 6 = 0 then some (.vgov (bits 4 0 w)) else none
  | 0 => if fld w 0 10 = 0 then some (.nop) else none
  | _ => none

/-- Why a byte string is no instruction. -/
inductive DecodeError where
  | truncated    -- fewer bytes than the first halfword asks for
  | unassigned   -- no row of the stream's map (R146)
  deriving DecidableEq, Repr

/-- A 32-bit word of a stream (R127). -/
def decodeWord (st : Stream) (w : Nat) : Option Instr :=
  match st with
  | .C => decodeC w
  | .L => decodeL w
  | .M => decodeM w
  | .V => decodeV w

/-- A compact halfword of a stream (R145). -/
def decodeCompact (st : Stream) (w : Nat) : Option Instr :=
  match st with
  | .C => decodeCompactC w
  | .L => decodeCompactL w
  | .M => decodeCompactM w
  | .V => decodeCompactV w

/-- The instruction that begins with halfword `h` and, for a 32-bit word, goes on with `h2` (R126). -/
def decodeHalves (st : Stream) (h h2 : Half) : Option Instr :=
  if h.toNat / 2 ^ 15 = 0 then decodeCompact st h.toNat
  else decodeWord st (h.toNat * 2 ^ 16 + h2.toNat)

/-- A halfword from its two bytes, the lower address first (R126, R2). -/
def halfOf (lo hi : Byte) : Half := BitVec.ofNat 16 (lo.toNat + 256 * hi.toNat)

/-- The first instruction of a byte string and the bytes after it: the halfword at the lower address holds bits
[31:16], each halfword little-endian (R126). -/
def decode (st : Stream) (bs : List Byte) : Except DecodeError (Instr × List Byte) :=
  match bs with
  | b0 :: b1 :: rest =>
    let h := halfOf b0 b1
    if h.toNat / 2 ^ 15 = 0 then
      match decodeCompact st h.toNat with
      | some i => .ok (i, rest)
      | none => .error .unassigned
    else
      match rest with
      | b2 :: b3 :: rest' =>
        match decodeWord st (h.toNat * 2 ^ 16 + (halfOf b2 b3).toNat) with
        | some i => .ok (i, rest')
        | none => .error .unassigned
      | _ => .error .truncated
  | _ => .error .truncated

/-- The bytes of a word of `nbits` bits as the hardware stores them (R126). -/
def wordBytes (nbits w : Nat) : List Byte :=
  if nbits ≤ 16 then leBytes 2 w
  else leBytes 2 (w / 2 ^ 16) ++ leBytes 2 w

/-- The first of the streams C, L, M, V whose map assigns the word: the same bits mean different things in the four
streams (R127), and a table word does not name its stream. -/
def streamOf (nbits w : Nat) : Option (Stream × Instr) :=
  let try1 (st : Stream) : Option (Stream × Instr) :=
    match decode st (wordBytes nbits w) with
    | .ok (i, _) => some (st, i)
    | .error _ => none
  match try1 .C with
  | some x => some x
  | none =>
    match try1 .L with
    | some x => some x
    | none =>
      match try1 .M with
      | some x => some x
      | none => try1 .V

/-- The instruction read from a table word. -/
def decodeTableWord (nbits w : Nat) : Option Instr := (streamOf nbits w).map (·.2)

/-- The POP and PUSH codes in their places (Table 6.1). -/
def Tok.enc (t : Tok) : Nat := t.pop.toNat * 2 ^ 24 + t.push.toNat * 2 ^ 22

/-- A word of the instruction maps: its width in bits and its value. -/
structure Enc where
  nbits : Nat
  word : Nat
  deriving DecidableEq, Repr

/-- The sum of the fields `(value, lowest bit)` of a word. -/
def fieldSum : List (Nat × Nat) → Nat
  | [] => 0
  | f :: fs => f.1 * 2 ^ f.2 + fieldSum fs

/-- A word from its fixed bits, its tokens and its fields. -/
def enc (nbits fixed tokens : Nat) (fs : List (Nat × Nat)) : Enc := ⟨nbits, fixed + (tokens + fieldSum fs)⟩

/-- The word of an instruction (Tables 6.3, 6.7–6.14); none for a device event, which has no encoding. -/
def encode (i : Instr) : Option Enc :=
  match i with
  | .add tk d a b => some (enc 32 2147483648 (tk.enc) [(d.toNat, 12), (a.toNat, 7), (b.toNat, 2)])
  | .sub tk d a b => some (enc 32 2147614720 (tk.enc) [(d.toNat, 12), (a.toNat, 7), (b.toNat, 2)])
  | .and tk d a b => some (enc 32 2147745792 (tk.enc) [(d.toNat, 12), (a.toNat, 7), (b.toNat, 2)])
  | .or tk d a b => some (enc 32 2147876864 (tk.enc) [(d.toNat, 12), (a.toNat, 7), (b.toNat, 2)])
  | .xor tk d a b => some (enc 32 2148007936 (tk.enc) [(d.toNat, 12), (a.toNat, 7), (b.toNat, 2)])
  | .andn tk d a b => some (enc 32 2148139008 (tk.enc) [(d.toNat, 12), (a.toNat, 7), (b.toNat, 2)])
  | .sll tk d a b => some (enc 32 2148270080 (tk.enc) [(d.toNat, 12), (a.toNat, 7), (b.toNat, 2)])
  | .srl tk d a b => some (enc 32 2148401152 (tk.enc) [(d.toNat, 12), (a.toNat, 7), (b.toNat, 2)])
  | .sra tk d a b => some (enc 32 2148532224 (tk.enc) [(d.toNat, 12), (a.toNat, 7), (b.toNat, 2)])
  | .mul tk d a b => some (enc 32 2148663296 (tk.enc) [(d.toNat, 12), (a.toNat, 7), (b.toNat, 2)])
  | .mulh tk d a b => some (enc 32 2148794368 (tk.enc) [(d.toNat, 12), (a.toNat, 7), (b.toNat, 2)])
  | .mulhu tk d a b => some (enc 32 2148925440 (tk.enc) [(d.toNat, 12), (a.toNat, 7), (b.toNat, 2)])
  | .div tk d a b => some (enc 32 2149056512 (tk.enc) [(d.toNat, 12), (a.toNat, 7), (b.toNat, 2)])
  | .divu tk d a b => some (enc 32 2149187584 (tk.enc) [(d.toNat, 12), (a.toNat, 7), (b.toNat, 2)])
  | .rem tk d a b => some (enc 32 2149318656 (tk.enc) [(d.toNat, 12), (a.toNat, 7), (b.toNat, 2)])
  | .remu tk d a b => some (enc 32 2149449728 (tk.enc) [(d.toNat, 12), (a.toNat, 7), (b.toNat, 2)])
  | .min tk d a b => some (enc 32 2149580800 (tk.enc) [(d.toNat, 12), (a.toNat, 7), (b.toNat, 2)])
  | .max tk d a b => some (enc 32 2149711872 (tk.enc) [(d.toNat, 12), (a.toNat, 7), (b.toNat, 2)])
  | .minu tk d a b => some (enc 32 2149842944 (tk.enc) [(d.toNat, 12), (a.toNat, 7), (b.toNat, 2)])
  | .maxu tk d a b => some (enc 32 2149974016 (tk.enc) [(d.toNat, 12), (a.toNat, 7), (b.toNat, 2)])
  | .clz tk d a => some (enc 32 2150105088 (tk.enc) [(d.toNat, 12), (a.toNat, 7)])
  | .popc tk d a => some (enc 32 2150236160 (tk.enc) [(d.toNat, 12), (a.toNat, 7)])
  | .addi tk d a i => some (enc 32 2214592512 (tk.enc) [(d.toNat, 17), (a.toNat, 12), (i.toNat, 0)])
  | .andi tk d a i => some (enc 32 2281701376 (tk.enc) [(d.toNat, 17), (a.toNat, 12), (i.toNat, 0)])
  | .ori tk d a i => some (enc 32 2348810240 (tk.enc) [(d.toNat, 17), (a.toNat, 12), (i.toNat, 0)])
  | .xori tk d a i => some (enc 32 2415919104 (tk.enc) [(d.toNat, 17), (a.toNat, 12), (i.toNat, 0)])
  | .slli tk d a s => some (enc 32 2483027968 (tk.enc) [(d.toNat, 17), (a.toNat, 12), (s.toNat, 0)])
  | .srli tk d a s => some (enc 32 2483028032 (tk.enc) [(d.toNat, 17), (a.toNat, 12), (s.toNat, 0)])
  | .srai tk d a s => some (enc 32 2483028096 (tk.enc) [(d.toNat, 17), (a.toNat, 12), (s.toNat, 0)])
  | .li tk d i => some (enc 32 2550136832 (tk.enc) [(d.toNat, 17), (i.toNat, 0)])
  | .lis tk d i => some (enc 32 2550202368 (tk.enc) [(d.toNat, 17), (i.toNat, 0)])
  | .cmp tk q c a b k n => some (enc 32 2617245696 (tk.enc) [(q.toNat, 19), (c.toNat, 16), (a.toNat, 11), (b.toNat, 6), (k.toNat, 4), (n.toNat, 3)])
  | .cmpi tk q c a i => some (enc 32 2684354560 (tk.enc) [(q.toNat, 19), (c.toNat, 16), (a.toNat, 11), (i.toNat, 0)])
  | .qand tk d a b => some (enc 32 2751463424 (tk.enc) [(d.toNat, 19), (a.toNat, 16), (b.toNat, 13)])
  | .qor tk d a b => some (enc 32 2751464448 (tk.enc) [(d.toNat, 19), (a.toNat, 16), (b.toNat, 13)])
  | .qxor tk d a b => some (enc 32 2751465472 (tk.enc) [(d.toNat, 19), (a.toNat, 16), (b.toNat, 13)])
  | .qandn tk d a b => some (enc 32 2751466496 (tk.enc) [(d.toNat, 19), (a.toNat, 16), (b.toNat, 13)])
  | .qnot tk d a => some (enc 32 2751467520 (tk.enc) [(d.toNat, 19), (a.toNat, 16)])
  | .qset tk d => some (enc 32 2751468544 (tk.enc) [(d.toNat, 19)])
  | .qclr tk d => some (enc 32 2751469568 (tk.enc) [(d.toNat, 19)])
  | .ld tk d a c s l z => some (enc 32 2818572288 (tk.enc) [(d.toNat, 17), (a.toNat, 12), (c.toNat, 8), (s.toNat, 5), (l.toNat, 3), (z.toNat, 0)])
  | .st tk d a c s l z => some (enc 32 2885681152 (tk.enc) [(d.toNat, 17), (a.toNat, 12), (c.toNat, 8), (s.toNat, 5), (l.toNat, 3), (z.toNat, 0)])
  | .ldl tk d a c s e z => some (enc 32 2952790016 (tk.enc) [(d.toNat, 17), (a.toNat, 12), (c.toNat, 8), (s.toNat, 5), (e.toNat, 3), (z.toNat, 0)])
  | .stl tk d a c s e z => some (enc 32 3019898880 (tk.enc) [(d.toNat, 17), (a.toNat, 12), (c.toNat, 8), (s.toNat, 5), (e.toNat, 3), (z.toNat, 0)])
  | .amoG tk d a c s o z => some (enc 32 3087007744 (tk.enc) [(d.toNat, 17), (a.toNat, 12), (c.toNat, 8), (s.toNat, 5), (o.toNat, 1), (z.toNat, 0)])
  | .amoS tk d a c s o z => some (enc 32 3154116608 (tk.enc) [(d.toNat, 17), (a.toNat, 12), (c.toNat, 8), (s.toNat, 5), (o.toNat, 1), (z.toNat, 0)])
  | .amoSg tk d a c s o z => some (enc 32 3221225472 (tk.enc) [(d.toNat, 17), (a.toNat, 12), (c.toNat, 8), (s.toNat, 5), (o.toNat, 1), (z.toNat, 0)])
  | .redf tk b a c s r t => some (enc 32 3288334336 (tk.enc) [(b.toNat, 17), (a.toNat, 12), (c.toNat, 8), (s.toNat, 5), (r.toNat, 2), (t.toNat, 0)])
  | .faddF64 tk d a b r n => some (enc 32 3355443200 (tk.enc) [(d.toNat, 17), (a.toNat, 12), (b.toNat, 7), (r.toNat, 4), (n.toNat, 3)])
  | .fsubF64 tk d a b r n => some (enc 32 3355443201 (tk.enc) [(d.toNat, 17), (a.toNat, 12), (b.toNat, 7), (r.toNat, 4), (n.toNat, 3)])
  | .fmulF64 tk d a b r n => some (enc 32 3355443202 (tk.enc) [(d.toNat, 17), (a.toNat, 12), (b.toNat, 7), (r.toNat, 4), (n.toNat, 3)])
  | .fdivF64 tk d a b r n => some (enc 32 3355443203 (tk.enc) [(d.toNat, 17), (a.toNat, 12), (b.toNat, 7), (r.toNat, 4), (n.toNat, 3)])
  | .fminF64 tk d a b n => some (enc 32 3355443204 (tk.enc) [(d.toNat, 17), (a.toNat, 12), (b.toNat, 7), (n.toNat, 3)])
  | .fmaxF64 tk d a b n => some (enc 32 3355443205 (tk.enc) [(d.toNat, 17), (a.toNat, 12), (b.toNat, 7), (n.toNat, 3)])
  | .fsqrtF64 tk d a r n => some (enc 32 3355443206 (tk.enc) [(d.toNat, 17), (a.toNat, 12), (r.toNat, 4), (n.toNat, 3)])
  | .ffmaF64 tk d a b r n => some (enc 32 3355443207 (tk.enc) [(d.toNat, 17), (a.toNat, 12), (b.toNat, 7), (r.toNat, 4), (n.toNat, 3)])
  | .faddF32 tk d a b r n => some (enc 32 3422552064 (tk.enc) [(d.toNat, 17), (a.toNat, 12), (b.toNat, 7), (r.toNat, 4), (n.toNat, 3)])
  | .fsubF32 tk d a b r n => some (enc 32 3422552065 (tk.enc) [(d.toNat, 17), (a.toNat, 12), (b.toNat, 7), (r.toNat, 4), (n.toNat, 3)])
  | .fmulF32 tk d a b r n => some (enc 32 3422552066 (tk.enc) [(d.toNat, 17), (a.toNat, 12), (b.toNat, 7), (r.toNat, 4), (n.toNat, 3)])
  | .fdivF32 tk d a b r n => some (enc 32 3422552067 (tk.enc) [(d.toNat, 17), (a.toNat, 12), (b.toNat, 7), (r.toNat, 4), (n.toNat, 3)])
  | .fminF32 tk d a b n => some (enc 32 3422552068 (tk.enc) [(d.toNat, 17), (a.toNat, 12), (b.toNat, 7), (n.toNat, 3)])
  | .fmaxF32 tk d a b n => some (enc 32 3422552069 (tk.enc) [(d.toNat, 17), (a.toNat, 12), (b.toNat, 7), (n.toNat, 3)])
  | .fsqrtF32 tk d a r n => some (enc 32 3422552070 (tk.enc) [(d.toNat, 17), (a.toNat, 12), (r.toNat, 4), (n.toNat, 3)])
  | .ffmaF32 tk d a b r n => some (enc 32 3422552071 (tk.enc) [(d.toNat, 17), (a.toNat, 12), (b.toNat, 7), (r.toNat, 4), (n.toNat, 3)])
  | .cvt tk d a s t r n u => some (enc 32 3489660928 (tk.enc) [(d.toNat, 17), (a.toNat, 12), (s.toNat, 9), (t.toNat, 6), (r.toNat, 3), (n.toNat, 2), (u.toNat, 1)])
  | .bq tk q o => some (enc 32 3556769792 (tk.enc) [(q.toNat, 19), (o.toNat, 0)])
  | .bnq tk q o => some (enc 32 3557031936 (tk.enc) [(q.toNat, 19), (o.toNat, 0)])
  | .j tk o => some (enc 32 3623878656 (tk.enc) [(o.toNat, 0)])
  | .call tk o => some (enc 32 3625975808 (tk.enc) [(o.toNat, 0)])
  | .jmpr tk a => some (enc 32 3690987520 (tk.enc) [(a.toNat, 7)])
  | .callr tk a => some (enc 32 3691118592 (tk.enc) [(a.toNat, 7)])
  | .ret tk => some (enc 32 3691249664 (tk.enc) [])
  | .ifence tk => some (enc 32 3691380736 (tk.enc) [])
  | .fence tk m s => some (enc 32 3758096384 (tk.enc) [(m.toNat, 6), (s.toNat, 3)])
  | .waitw tk b a k s c => some (enc 32 3825205248 (tk.enc) [(b.toNat, 17), (a.toNat, 12), (k.toNat, 8), (s.toNat, 5), (c.toNat, 2)])
  | .exit p a n => some (enc 32 3892314112 (0) [(p.toNat, 24), (a.toNat, 14), (n.toNat, 11)])
  | .arenaH tk d i => some (enc 32 3892838400 (tk.enc) [(d.toNat, 14), (i.toNat, 12)])
  | .arenaA tk d i a => some (enc 32 3893362688 (tk.enc) [(d.toNat, 14), (i.toNat, 12), (a.toNat, 7)])
  | .engage tk q d a b => some (enc 32 3959422976 (tk.enc) [(q.toNat, 19), (d.toNat, 14), (a.toNat, 9), (b.toNat, 4)])
  | .lease tk q d a => some (enc 32 3959422980 (tk.enc) [(q.toNat, 19), (d.toNat, 14), (a.toNat, 9)])
  | .unlease tk q a => some (enc 32 3959422984 (tk.enc) [(q.toNat, 19), (a.toNat, 9)])
  | .mfsr tk d s => some (enc 32 4026531840 (tk.enc) [(d.toNat, 15), (s.toNat, 3)])
  | .mtsr tk a s => some (enc 32 4027580416 (tk.enc) [(a.toNat, 15), (s.toNat, 3)])
  | .trap p c => some (enc 32 4028628992 (0) [(p.toNat, 24), (c.toNat, 0)])
  | .brk p c => some (enc 32 4029677568 (0) [(p.toNat, 24), (c.toNat, 0)])
  | .take tk r => some (enc 32 4093640704 (tk.enc) [(r.toNat, 15)])
  | .give tk r => some (enc 32 4094689280 (tk.enc) [(r.toNat, 15)])
  | .nopToken tk => some (enc 32 4095737856 (tk.enc) [])
  | .kset tk k i => some (enc 32 4160749568 (tk.enc) [(k.toNat, 16), (i.toNat, 0)])
  | .kinc tk k i => some (enc 32 4160757760 (tk.enc) [(k.toNat, 16), (i.toNat, 0)])
  | .kwge tk k i => some (enc 32 4160765952 (tk.enc) [(k.toNat, 16), (i.toNat, 0)])
  | .kwgs tk k i => some (enc 32 4160774144 (tk.enc) [(k.toNat, 16), (i.toNat, 0)])
  | .kwlt tk k i => some (enc 32 4160782336 (tk.enc) [(k.toNat, 16), (i.toNat, 0)])
  | .kread tk k d => some (enc 32 4160790528 (tk.enc) [(k.toNat, 16), (d.toNat, 8)])
  | .kincr tk k s => some (enc 32 4160798720 (tk.enc) [(k.toNat, 16), (s.toNat, 8)])
  | .blockHeader l r s g n => some (enc 32 4227858432 (0) [(l.toNat, 16), (r.toNat, 15), (s.toNat, 12), (g.toNat, 11), (n.toNat, 0)])
  | .nop => some (enc 16 0 (0) [])
  | .mov d a => some (enc 16 1024 (0) [(d.toNat, 5), (a.toNat, 0)])
  | .addc d i => some (enc 16 2048 (0) [(d.toNat, 5), (i.toNat, 0)])
  | .lic d i => some (enc 16 3072 (0) [(d.toNat, 5), (i.toNat, 0)])
  | .kincCompact k i => some (enc 16 4096 (0) [(k.toNat, 4), (i.toNat, 0)])
  | .cp1d tk g c s l => some (enc 32 2147483648 (tk.enc) [(g.toNat, 20), (c.toNat, 16), (s.toNat, 13), (l.toNat, 11)])
  | .cp2d tk g c s l => some (enc 32 2147483776 (tk.enc) [(g.toNat, 20), (c.toNat, 16), (s.toNat, 13), (l.toNat, 11)])
  | .cp3d tk g c s l => some (enc 32 2147483904 (tk.enc) [(g.toNat, 20), (c.toNat, 16), (s.toNat, 13), (l.toNat, 11)])
  | .cpw1d tk g c s l => some (enc 32 2147484032 (tk.enc) [(g.toNat, 20), (c.toNat, 16), (s.toNat, 13), (l.toNat, 11)])
  | .cpw2d tk g c s l => some (enc 32 2147484160 (tk.enc) [(g.toNat, 20), (c.toNat, 16), (s.toNat, 13), (l.toNat, 11)])
  | .cpw3d tk g c s l => some (enc 32 2147484288 (tk.enc) [(g.toNat, 20), (c.toNat, 16), (s.toNat, 13), (l.toNat, 11)])
  | .cpl tk g c s => some (enc 32 2147484416 (tk.enc) [(g.toNat, 20), (c.toNat, 16), (s.toNat, 13)])
  | .cpr tk g c s => some (enc 32 2147484544 (tk.enc) [(g.toNat, 20), (c.toNat, 16), (s.toNat, 13)])
  | .cpm tk g c s => some (enc 32 2147484672 (tk.enc) [(g.toNat, 20), (c.toNat, 16), (s.toNat, 13)])
  | .cvcp tk g c s l r n u => some (enc 32 2214592512 (tk.enc) [(g.toNat, 20), (c.toNat, 16), (s.toNat, 13), (l.toNat, 11), (r.toNat, 8), (n.toNat, 7), (u.toNat, 6)])
  | .pfBulk tk g c s l => some (enc 32 2281701376 (tk.enc) [(g.toNat, 20), (c.toNat, 16), (s.toNat, 13), (l.toNat, 11)])
  | .pfRel tk g c s => some (enc 32 2281701504 (tk.enc) [(g.toNat, 20), (c.toNat, 16), (s.toNat, 13)])
  | .lgath tk g c s l => some (enc 32 2348810240 (tk.enc) [(g.toNat, 20), (c.toNat, 16), (s.toNat, 13), (l.toNat, 11)])
  | .lscat tk g c s l => some (enc 32 2348810368 (tk.enc) [(g.toNat, 20), (c.toNat, 16), (s.toNat, 13), (l.toNat, 11)])
  | .lfill tk g c s l => some (enc 32 2348810496 (tk.enc) [(g.toNat, 20), (c.toNat, 16), (s.toNat, 13), (l.toNat, 11)])
  | .badd tk d a b => some (enc 32 2415919104 (tk.enc) [(d.toNat, 14), (a.toNat, 10), (b.toNat, 6)])
  | .bsub tk d a b => some (enc 32 2416181248 (tk.enc) [(d.toNat, 14), (a.toNat, 10), (b.toNat, 6)])
  | .band tk d a b => some (enc 32 2416443392 (tk.enc) [(d.toNat, 14), (a.toNat, 10), (b.toNat, 6)])
  | .bor tk d a b => some (enc 32 2416705536 (tk.enc) [(d.toNat, 14), (a.toNat, 10), (b.toNat, 6)])
  | .bxor tk d a b => some (enc 32 2416967680 (tk.enc) [(d.toNat, 14), (a.toNat, 10), (b.toNat, 6)])
  | .bsll tk d a b => some (enc 32 2417229824 (tk.enc) [(d.toNat, 14), (a.toNat, 10), (b.toNat, 6)])
  | .bsrl tk d a b => some (enc 32 2417491968 (tk.enc) [(d.toNat, 14), (a.toNat, 10), (b.toNat, 6)])
  | .bmul tk d a b => some (enc 32 2417754112 (tk.enc) [(d.toNat, 14), (a.toNat, 10), (b.toNat, 6)])
  | .baddi tk d a i => some (enc 32 2483027968 (tk.enc) [(d.toNat, 18), (a.toNat, 14), (i.toNat, 0)])
  | .bli tk d i => some (enc 32 2550136832 (tk.enc) [(d.toNat, 18), (i.toNat, 1)])
  | .blis tk d i => some (enc 32 2550267904 (tk.enc) [(d.toNat, 18), (i.toNat, 1)])
  | .bmov d a => some (enc 16 1024 (0) [(d.toNat, 4), (a.toNat, 0)])
  | .baddc d i => some (enc 16 2048 (0) [(d.toNat, 6), (i.toNat, 0)])
  | .mma tk t a b g f r => some (enc 32 2147483648 (tk.enc) [(t.toNat, 19), (a.toNat, 15), (b.toNat, 11), (g.toNat, 8), (f.toNat, 3), (r.toNat, 0)])
  | .mmat tk t a b g f r => some (enc 32 2214592512 (tk.enc) [(t.toNat, 19), (a.toNat, 15), (b.toNat, 11), (g.toNat, 8), (f.toNat, 3), (r.toNat, 0)])
  | .tclr tk t => some (enc 32 2281701376 (tk.enc) [(t.toNat, 19)])
  | .tldA tk t b => some (enc 32 2281709568 (tk.enc) [(t.toNat, 19), (b.toNat, 15)])
  | .tldW tk t b => some (enc 32 2281717760 (tk.enc) [(t.toNat, 19), (b.toNat, 15)])
  | .drain tk t b d r e k i => some (enc 32 2348810240 (tk.enc) [(t.toNat, 19), (b.toNat, 15), (d.toNat, 13), (r.toNat, 10), (e.toNat, 9), (k.toNat, 3), (i.toNat, 0)])
  | .eload tk r b n u => some (enc 32 2415919104 (tk.enc) [(r.toNat, 19), (b.toNat, 15), (n.toNat, 10), (u.toNat, 9)])
  | .gli tk d i => some (enc 32 2483027968 (tk.enc) [(d.toNat, 18), (i.toNat, 1)])
  | .glis tk d i => some (enc 32 2483159040 (tk.enc) [(d.toNat, 18), (i.toNat, 1)])
  | .tclrCompact t => some (enc 16 1024 (0) [(t.toNat, 0)])
  | .vaddF32 tk d a b r n w => some (enc 32 2147483648 (tk.enc) [(d.toNat, 15), (a.toNat, 10), (b.toNat, 5), (r.toNat, 2), (n.toNat, 1), (w.toNat, 0)])
  | .vsubF32 tk d a b r n w => some (enc 32 2148532224 (tk.enc) [(d.toNat, 15), (a.toNat, 10), (b.toNat, 5), (r.toNat, 2), (n.toNat, 1), (w.toNat, 0)])
  | .vmulF32 tk d a b r n w => some (enc 32 2149580800 (tk.enc) [(d.toNat, 15), (a.toNat, 10), (b.toNat, 5), (r.toNat, 2), (n.toNat, 1), (w.toNat, 0)])
  | .vfmaF32 tk d a b r n w => some (enc 32 2150629376 (tk.enc) [(d.toNat, 15), (a.toNat, 10), (b.toNat, 5), (r.toNat, 2), (n.toNat, 1), (w.toNat, 0)])
  | .vminF32 tk d a b n w => some (enc 32 2214592512 (tk.enc) [(d.toNat, 15), (a.toNat, 10), (b.toNat, 5), (n.toNat, 1), (w.toNat, 0)])
  | .vmaxF32 tk d a b n w => some (enc 32 2215641088 (tk.enc) [(d.toNat, 15), (a.toNat, 10), (b.toNat, 5), (n.toNat, 1), (w.toNat, 0)])
  | .vdivF32 tk d a b r n w => some (enc 32 2216689664 (tk.enc) [(d.toNat, 15), (a.toNat, 10), (b.toNat, 5), (r.toNat, 2), (n.toNat, 1), (w.toNat, 0)])
  | .vaddF64 tk d a b r n w => some (enc 32 2281701376 (tk.enc) [(d.toNat, 15), (a.toNat, 10), (b.toNat, 5), (r.toNat, 2), (n.toNat, 1), (w.toNat, 0)])
  | .vsubF64 tk d a b r n w => some (enc 32 2282749952 (tk.enc) [(d.toNat, 15), (a.toNat, 10), (b.toNat, 5), (r.toNat, 2), (n.toNat, 1), (w.toNat, 0)])
  | .vmulF64 tk d a b r n w => some (enc 32 2283798528 (tk.enc) [(d.toNat, 15), (a.toNat, 10), (b.toNat, 5), (r.toNat, 2), (n.toNat, 1), (w.toNat, 0)])
  | .vfmaF64 tk d a b r n w => some (enc 32 2284847104 (tk.enc) [(d.toNat, 15), (a.toNat, 10), (b.toNat, 5), (r.toNat, 2), (n.toNat, 1), (w.toNat, 0)])
  | .vminF64 tk d a b n w => some (enc 32 2348810240 (tk.enc) [(d.toNat, 15), (a.toNat, 10), (b.toNat, 5), (n.toNat, 1), (w.toNat, 0)])
  | .vmaxF64 tk d a b n w => some (enc 32 2349858816 (tk.enc) [(d.toNat, 15), (a.toNat, 10), (b.toNat, 5), (n.toNat, 1), (w.toNat, 0)])
  | .vdivF64 tk d a b r n w => some (enc 32 2350907392 (tk.enc) [(d.toNat, 15), (a.toNat, 10), (b.toNat, 5), (r.toNat, 2), (n.toNat, 1), (w.toNat, 0)])
  | .vaddF16 tk d a b r n w => some (enc 32 2415919104 (tk.enc) [(d.toNat, 15), (a.toNat, 10), (b.toNat, 5), (r.toNat, 2), (n.toNat, 1), (w.toNat, 0)])
  | .vsubF16 tk d a b r n w => some (enc 32 2416967680 (tk.enc) [(d.toNat, 15), (a.toNat, 10), (b.toNat, 5), (r.toNat, 2), (n.toNat, 1), (w.toNat, 0)])
  | .vmulF16 tk d a b r n w => some (enc 32 2418016256 (tk.enc) [(d.toNat, 15), (a.toNat, 10), (b.toNat, 5), (r.toNat, 2), (n.toNat, 1), (w.toNat, 0)])
  | .vfmaF16 tk d a b r n w => some (enc 32 2419064832 (tk.enc) [(d.toNat, 15), (a.toNat, 10), (b.toNat, 5), (r.toNat, 2), (n.toNat, 1), (w.toNat, 0)])
  | .vminF16 tk d a b n w => some (enc 32 2483027968 (tk.enc) [(d.toNat, 15), (a.toNat, 10), (b.toNat, 5), (n.toNat, 1), (w.toNat, 0)])
  | .vmaxF16 tk d a b n w => some (enc 32 2484076544 (tk.enc) [(d.toNat, 15), (a.toNat, 10), (b.toNat, 5), (n.toNat, 1), (w.toNat, 0)])
  | .vdivF16 tk d a b r n w => some (enc 32 2485125120 (tk.enc) [(d.toNat, 15), (a.toNat, 10), (b.toNat, 5), (r.toNat, 2), (n.toNat, 1), (w.toNat, 0)])
  | .vaddBf16 tk d a b r n w => some (enc 32 2550136832 (tk.enc) [(d.toNat, 15), (a.toNat, 10), (b.toNat, 5), (r.toNat, 2), (n.toNat, 1), (w.toNat, 0)])
  | .vsubBf16 tk d a b r n w => some (enc 32 2551185408 (tk.enc) [(d.toNat, 15), (a.toNat, 10), (b.toNat, 5), (r.toNat, 2), (n.toNat, 1), (w.toNat, 0)])
  | .vmulBf16 tk d a b r n w => some (enc 32 2552233984 (tk.enc) [(d.toNat, 15), (a.toNat, 10), (b.toNat, 5), (r.toNat, 2), (n.toNat, 1), (w.toNat, 0)])
  | .vfmaBf16 tk d a b r n w => some (enc 32 2553282560 (tk.enc) [(d.toNat, 15), (a.toNat, 10), (b.toNat, 5), (r.toNat, 2), (n.toNat, 1), (w.toNat, 0)])
  | .vminBf16 tk d a b n w => some (enc 32 2617245696 (tk.enc) [(d.toNat, 15), (a.toNat, 10), (b.toNat, 5), (n.toNat, 1), (w.toNat, 0)])
  | .vmaxBf16 tk d a b n w => some (enc 32 2618294272 (tk.enc) [(d.toNat, 15), (a.toNat, 10), (b.toNat, 5), (n.toNat, 1), (w.toNat, 0)])
  | .vdivBf16 tk d a b r n w => some (enc 32 2619342848 (tk.enc) [(d.toNat, 15), (a.toNat, 10), (b.toNat, 5), (r.toNat, 2), (n.toNat, 1), (w.toNat, 0)])
  | .vaddI32 tk d a b s w => some (enc 32 2684354560 (tk.enc) [(d.toNat, 15), (a.toNat, 10), (b.toNat, 5), (s.toNat, 1), (w.toNat, 0)])
  | .vsubI32 tk d a b s w => some (enc 32 2685403136 (tk.enc) [(d.toNat, 15), (a.toNat, 10), (b.toNat, 5), (s.toNat, 1), (w.toNat, 0)])
  | .vmulI32 tk d a b s w => some (enc 32 2686451712 (tk.enc) [(d.toNat, 15), (a.toNat, 10), (b.toNat, 5), (s.toNat, 1), (w.toNat, 0)])
  | .vmulhI32 tk d a b w => some (enc 32 2687500288 (tk.enc) [(d.toNat, 15), (a.toNat, 10), (b.toNat, 5), (w.toNat, 0)])
  | .vand tk d a b w => some (enc 32 2751463424 (tk.enc) [(d.toNat, 15), (a.toNat, 10), (b.toNat, 5), (w.toNat, 0)])
  | .vor tk d a b w => some (enc 32 2752512000 (tk.enc) [(d.toNat, 15), (a.toNat, 10), (b.toNat, 5), (w.toNat, 0)])
  | .vxor tk d a b w => some (enc 32 2753560576 (tk.enc) [(d.toNat, 15), (a.toNat, 10), (b.toNat, 5), (w.toNat, 0)])
  | .vandn tk d a b w => some (enc 32 2754609152 (tk.enc) [(d.toNat, 15), (a.toNat, 10), (b.toNat, 5), (w.toNat, 0)])
  | .vsll tk d a b w => some (enc 32 2818572288 (tk.enc) [(d.toNat, 15), (a.toNat, 10), (b.toNat, 5), (w.toNat, 0)])
  | .vsrl tk d a b w => some (enc 32 2819620864 (tk.enc) [(d.toNat, 15), (a.toNat, 10), (b.toNat, 5), (w.toNat, 0)])
  | .vsra tk d a b w => some (enc 32 2820669440 (tk.enc) [(d.toNat, 15), (a.toNat, 10), (b.toNat, 5), (w.toNat, 0)])
  | .vaddI16 tk d a b s w => some (enc 32 2885681152 (tk.enc) [(d.toNat, 15), (a.toNat, 10), (b.toNat, 5), (s.toNat, 1), (w.toNat, 0)])
  | .vsubI16 tk d a b s w => some (enc 32 2886729728 (tk.enc) [(d.toNat, 15), (a.toNat, 10), (b.toNat, 5), (s.toNat, 1), (w.toNat, 0)])
  | .vmulI16 tk d a b s w => some (enc 32 2887778304 (tk.enc) [(d.toNat, 15), (a.toNat, 10), (b.toNat, 5), (s.toNat, 1), (w.toNat, 0)])
  | .vcmp tk q c a b t n w => some (enc 32 2952790016 (tk.enc) [(q.toNat, 18), (c.toNat, 15), (a.toNat, 10), (b.toNat, 5), (t.toNat, 2), (n.toNat, 1), (w.toNat, 0)])
  | .vmov tk d a w => some (enc 32 3019898880 (tk.enc) [(d.toNat, 15), (a.toNat, 10), (w.toNat, 0)])
  | .vsel tk d a b w => some (enc 32 3020947456 (tk.enc) [(d.toNat, 15), (a.toNat, 10), (b.toNat, 5), (w.toNat, 0)])
  | .vbcast tk d x w => some (enc 32 3021996032 (tk.enc) [(d.toNat, 15), (x.toNat, 5), (w.toNat, 0)])
  | .vsqrt tk t d a r n w => some (enc 32 3087007744 (tk.enc) [(t.toNat, 15), (d.toNat, 10), (a.toNat, 5), (r.toNat, 2), (n.toNat, 1), (w.toNat, 0)])
  | .vrsqrt tk t d a r n w => some (enc 32 3087138816 (tk.enc) [(t.toNat, 15), (d.toNat, 10), (a.toNat, 5), (r.toNat, 2), (n.toNat, 1), (w.toNat, 0)])
  | .vexp2 tk t d a r n w => some (enc 32 3087269888 (tk.enc) [(t.toNat, 15), (d.toNat, 10), (a.toNat, 5), (r.toNat, 2), (n.toNat, 1), (w.toNat, 0)])
  | .vlog2 tk t d a r n w => some (enc 32 3087400960 (tk.enc) [(t.toNat, 15), (d.toNat, 10), (a.toNat, 5), (r.toNat, 2), (n.toNat, 1), (w.toNat, 0)])
  | .vexp tk t d a r n w => some (enc 32 3087532032 (tk.enc) [(t.toNat, 15), (d.toNat, 10), (a.toNat, 5), (r.toNat, 2), (n.toNat, 1), (w.toNat, 0)])
  | .vln tk t d a r n w => some (enc 32 3087663104 (tk.enc) [(t.toNat, 15), (d.toNat, 10), (a.toNat, 5), (r.toNat, 2), (n.toNat, 1), (w.toNat, 0)])
  | .vsin tk t d a r n w => some (enc 32 3087794176 (tk.enc) [(t.toNat, 15), (d.toNat, 10), (a.toNat, 5), (r.toNat, 2), (n.toNat, 1), (w.toNat, 0)])
  | .vcos tk t d a r n w => some (enc 32 3087925248 (tk.enc) [(t.toNat, 15), (d.toNat, 10), (a.toNat, 5), (r.toNat, 2), (n.toNat, 1), (w.toNat, 0)])
  | .vtanh tk t d a r n w => some (enc 32 3088056320 (tk.enc) [(t.toNat, 15), (d.toNat, 10), (a.toNat, 5), (r.toNat, 2), (n.toNat, 1), (w.toNat, 0)])
  | .verf tk t d a r n w => some (enc 32 3088187392 (tk.enc) [(t.toNat, 15), (d.toNat, 10), (a.toNat, 5), (r.toNat, 2), (n.toNat, 1), (w.toNat, 0)])
  | .vrcp tk t d a r n w => some (enc 32 3088318464 (tk.enc) [(t.toNat, 15), (d.toNat, 10), (a.toNat, 5), (r.toNat, 2), (n.toNat, 1), (w.toNat, 0)])
  | .vcvtF32 tk f e d a r n s w => some (enc 32 3154116608 (tk.enc) [(f.toNat, 17), (e.toNat, 16), (d.toNat, 11), (a.toNat, 6), (r.toNat, 3), (n.toNat, 2), (s.toNat, 1), (w.toNat, 0)])
  | .vcvtF64 tk f e d a r n s w => some (enc 32 3221225472 (tk.enc) [(f.toNat, 17), (e.toNat, 16), (d.toNat, 11), (a.toNat, 6), (r.toNat, 3), (n.toNat, 2), (s.toNat, 1), (w.toNat, 0)])
  | .vcvtI32 tk f e d a r n s w => some (enc 32 3288334336 (tk.enc) [(f.toNat, 17), (e.toNat, 16), (d.toNat, 11), (a.toNat, 6), (r.toNat, 3), (n.toNat, 2), (s.toNat, 1), (w.toNat, 0)])
  | .vquant tk f d a r n w => some (enc 32 3355443200 (tk.enc) [(f.toNat, 17), (d.toNat, 12), (a.toNat, 7), (r.toNat, 4), (n.toNat, 3), (w.toNat, 2)])
  | .vexpand tk f d a r n w => some (enc 32 3355443202 (tk.enc) [(f.toNat, 17), (d.toNat, 12), (a.toNat, 7), (r.toNat, 4), (n.toNat, 3), (w.toNat, 2)])
  | .vrsum tk t d a r n w => some (enc 32 3422552064 (tk.enc) [(t.toNat, 15), (d.toNat, 10), (a.toNat, 5), (r.toNat, 2), (n.toNat, 1), (w.toNat, 0)])
  | .vrmax tk t d a r n w => some (enc 32 3422814208 (tk.enc) [(t.toNat, 15), (d.toNat, 10), (a.toNat, 5), (r.toNat, 2), (n.toNat, 1), (w.toNat, 0)])
  | .vrmin tk t d a r n w => some (enc 32 3423076352 (tk.enc) [(t.toNat, 15), (d.toNat, 10), (a.toNat, 5), (r.toNat, 2), (n.toNat, 1), (w.toNat, 0)])
  | .vbcl tk z d a w i => some (enc 32 3489660928 (tk.enc) [(z.toNat, 18), (d.toNat, 13), (a.toNat, 8), (w.toNat, 7), (i.toNat, 0)])
  | .vrotl tk z d a w i => some (enc 32 3490709504 (tk.enc) [(z.toNat, 18), (d.toNat, 13), (a.toNat, 8), (w.toNat, 7), (i.toNat, 0)])
  | .vshuf tk z d a w b => some (enc 32 3491758080 (tk.enc) [(z.toNat, 18), (d.toNat, 13), (a.toNat, 8), (w.toNat, 7), (b.toNat, 0)])
  | .vzip tk z d a w => some (enc 32 3492806656 (tk.enc) [(z.toNat, 18), (d.toNat, 13), (a.toNat, 8), (w.toNat, 7)])
  | .vldr tk u x d w => some (enc 32 3556769792 (tk.enc) [(u.toNat, 18), (x.toNat, 14), (d.toNat, 9), (w.toNat, 8)])
  | .vstr tk u x d w => some (enc 32 3557818368 (tk.enc) [(u.toNat, 18), (x.toNat, 14), (d.toNat, 9), (w.toNat, 8)])
  | .vldG tk z x d c s l w => some (enc 32 3623878656 (tk.enc) [(z.toNat, 19), (x.toNat, 15), (d.toNat, 10), (c.toNat, 6), (s.toNat, 3), (l.toNat, 1), (w.toNat, 0)])
  | .vstG tk z x d c s l w => some (enc 32 3625975808 (tk.enc) [(z.toNat, 19), (x.toNat, 15), (d.toNat, 10), (c.toNat, 6), (s.toNat, 3), (l.toNat, 1), (w.toNat, 0)])
  | .vldSg tk z x d c s w => some (enc 32 3690987520 (tk.enc) [(z.toNat, 19), (x.toNat, 15), (d.toNat, 10), (c.toNat, 6), (s.toNat, 3), (w.toNat, 0)])
  | .vstSg tk z x d c s w => some (enc 32 3693084672 (tk.enc) [(z.toNat, 19), (x.toNat, 15), (d.toNat, 10), (c.toNat, 6), (s.toNat, 3), (w.toNat, 0)])
  | .vgath tk z u d i x w => some (enc 32 3758096384 (tk.enc) [(z.toNat, 19), (u.toNat, 18), (d.toNat, 13), (i.toNat, 8), (x.toNat, 4), (w.toNat, 3)])
  | .vscat tk z u d i x w => some (enc 32 3760193536 (tk.enc) [(z.toNat, 19), (u.toNat, 18), (d.toNat, 13), (i.toNat, 8), (x.toNat, 4), (w.toNat, 3)])
  | .pand tk d a b => some (enc 32 3825205248 (tk.enc) [(d.toNat, 18), (a.toNat, 14), (b.toNat, 10)])
  | .por tk d a b => some (enc 32 3825205376 (tk.enc) [(d.toNat, 18), (a.toNat, 14), (b.toNat, 10)])
  | .pxor tk d a b => some (enc 32 3825205504 (tk.enc) [(d.toNat, 18), (a.toNat, 14), (b.toNat, 10)])
  | .pandn tk d a b => some (enc 32 3825205632 (tk.enc) [(d.toNat, 18), (a.toNat, 14), (b.toNat, 10)])
  | .pnot tk d a => some (enc 32 3825205760 (tk.enc) [(d.toNat, 18), (a.toNat, 14)])
  | .pset tk d => some (enc 32 3825205888 (tk.enc) [(d.toNat, 18)])
  | .pclr tk d => some (enc 32 3825206016 (tk.enc) [(d.toNat, 18)])
  | .xli tk d i => some (enc 32 3892314112 (tk.enc) [(d.toNat, 18), (i.toNat, 1)])
  | .xlis tk d i => some (enc 32 3892445184 (tk.enc) [(d.toNat, 18), (i.toNat, 1)])
  | .xadd tk d a b => some (enc 32 3959422976 (tk.enc) [(d.toNat, 14), (a.toNat, 10), (b.toNat, 6)])
  | .xsub tk d a b => some (enc 32 3959685120 (tk.enc) [(d.toNat, 14), (a.toNat, 10), (b.toNat, 6)])
  | .xand tk d a b => some (enc 32 3959947264 (tk.enc) [(d.toNat, 14), (a.toNat, 10), (b.toNat, 6)])
  | .xorX tk d a b => some (enc 32 3960209408 (tk.enc) [(d.toNat, 14), (a.toNat, 10), (b.toNat, 6)])
  | .xxor tk d a b => some (enc 32 3960471552 (tk.enc) [(d.toNat, 14), (a.toNat, 10), (b.toNat, 6)])
  | .xsll tk d a b => some (enc 32 3960733696 (tk.enc) [(d.toNat, 14), (a.toNat, 10), (b.toNat, 6)])
  | .xsrl tk d a b => some (enc 32 3960995840 (tk.enc) [(d.toNat, 14), (a.toNat, 10), (b.toNat, 6)])
  | .xmul tk d a b => some (enc 32 3961257984 (tk.enc) [(d.toNat, 14), (a.toNat, 10), (b.toNat, 6)])
  | .vfence tk m s => some (enc 32 4026531840 (tk.enc) [(m.toNat, 3), (s.toNat, 0)])
  | .vflrd tk d f w => some (enc 32 4027056128 (tk.enc) [(d.toNat, 14), (f.toNat, 7), (w.toNat, 6)])
  | .vflclr tk f => some (enc 32 4027580416 (tk.enc) [(f.toNat, 7)])
  | .vbaseW tk x => some (enc 32 4028104704 (tk.enc) [(x.toNat, 10)])
  | .vbaseR tk x => some (enc 32 4028628992 (tk.enc) [(x.toNat, 10)])
  | .vrotW tk x => some (enc 32 4029153280 (tk.enc) [(x.toNat, 10)])
  | .vrotR tk x => some (enc 32 4029677568 (tk.enc) [(x.toNat, 10)])
  | .vgov p => some (enc 16 1024 (0) [(p.toNat, 0)])
  | .blockRunEnd _ _ => none
  | .accessPerform _ _ => none
  | .lCmdSourceReleased _ _ => none
  | .lCmdDelivered _ _ => none
  | .notifyWrite _ _ => none
  | .lCmdServiceFault _ _ => none
  | .mFinish _ => none
  | .drainStart _ => none
  | .drainRow _ => none
  | .drainDelivered _ => none
  | .portStarvationFreeze _ => none
  | .combEngineDecision _ => none
  | .rowMax _ => none
  | .rowExps _ => none
  | .rowScale _ => none
  | .rowAll _ => none
  | .gthGet _ => none
  | .gthPut _ => none
  | .selTop _ => none
  | .selPack _ => none
  | .xfmTr _ => none
  | .colSum _ => none
  | .colBcast _ => none
  | .colCat _ => none
  | .netSend _ => none
  | .netWrite _ => none
  | .netPost _ => none
  | .engineReleasedEvent _ => none
  | .engineDeliveredEvent _ => none
  | .engineOccupancyEnd _ => none
  | .engineWakeDone _ => none
  | .engineServiceFault _ => none
  | .holdCreate _ => none
  | .holdLapse _ => none
  | .standingLeaseGrant _ _ => none
  | .standingLeaseEnd _ _ => none
  | .engineRecall _ => none
  | .lsePccapWrite _ => none
  | .lseSwcapWrite _ => none
  | .taskCompletion _ => none
  | .successorApply _ => none
  | .enqueuePacket _ => none
  | .enqueueAck _ => none
  | .readyPacket _ => none
  | .gangCompleteReport _ => none
  | .arenaAllocate _ => none
  | .arenaZeroFillDone _ => none
  | .gangPlace _ => none
  | .ageingInterval _ => none
  | .taskOverrun _ => none
  | .notify _ _ => none
  | .queueConsume _ => none
  | .queueBind _ _ => none
  | .queueUnbind _ => none
  | .queueErrClear _ => none
  | .flogRead => none
  | .preemptRequest _ => none
  | .preemptResume _ => none
  | .arenaSlotReset _ => none
  | .registerWrite _ _ _ => none
  | .corePark _ => none
  | .faultRecordWrite _ => none
  | .faultQueueWrite _ _ _ => none
  | .coreResume _ _ => none
  | .coreAbandon _ _ => none
  | .sideLogKick _ _ => none
  | .frameRewrite _ _ => none
  | .sideLogReplay _ _ => none
  | .autoResume _ => none
  | .tlbInvalidate _ _ => none
  | .invalidateDone _ => none
  | .atsResponse _ _ _ => none
  | .pageResponse _ _ _ => none
  | .atsInvalidation _ _ _ => none
  | .tileFill _ => none
  | .layoutPrepare => none
  | .layoutApplyRequest => none
  | .layoutAbort => none
  | .lapBoundary => none
  | .clusterScrubDone _ => none
  | .pageReseal _ => none
  | .quotaInterval _ => none
  | .mpReset => none
  | .rekeyRequest _ => none
  | .rekeySweepTile _ => none
  | .capFlogRead => none
  | .slipClear _ => none
  | .priEnable _ => none
  | .tdiStateChange _ _ => none
  | .getVersion _ _ => none
  | .getCapabilities _ _ => none
  | .negotiateAlgorithms _ _ => none
  | .getDigests _ _ => none
  | .getCertificate _ _ => none
  | .challenge _ _ => none
  | .getMeasurements _ _ => none
  | .keyExchange _ _ => none
  | .relayPacketReceive _ _ _ _ => none
  | .relayAck _ _ _ => none
  | .relayRto _ _ _ => none
  | .flitCrcError _ => none
  | .linkRetrain _ => none
  | .retrainTimeout _ => none
  | .uePacketReceive _ _ => none
  | .ueAckReceive _ _ _ => none
  | .ueReorderTimeout _ _ => none
  | .ueRto _ _ => none
  | .ueConnOpen _ _ => none
  | .ueConnClose _ => none
  | .ueWindowWrite _ _ => none
  | .coldReset => none
  | .firmwareUpload _ => none
  | .firmwareCommit => none
  | .watchdogKick => none
  | .watchdogExpiry => none
  | .eccCorrected => none
  | .uncorrectableError _ => none
  | .linkRetrainSuccess _ => none
  | .cClockChange _ => none
  | .refresh _ => none

/-- The streams whose maps hold an instruction (R127, R133); none for a device event. -/
def Instr.homes (i : Instr) : List Stream :=
  match i with
  | .add .. | .sub .. | .and .. | .or .. | .xor .. | .andn .. | .sll .. | .srl .. | .sra .. | .mul .. | .mulh .. |
    .mulhu .. | .div .. | .divu .. | .rem .. | .remu .. | .min .. | .max .. | .minu .. | .maxu .. | .clz .. | .popc
    .. | .addi .. | .andi .. | .ori .. | .xori .. | .slli .. | .srli .. | .srai .. | .li .. | .lis .. | .cmp .. |
    .cmpi .. | .qand .. | .qor .. | .qxor .. | .qandn .. | .qnot .. | .qset .. | .qclr .. | .ld .. | .st .. | .ldl
    .. | .stl .. | .amoG .. | .amoS .. | .amoSg .. | .redf .. | .faddF64 .. | .fsubF64 .. | .fmulF64 .. | .fdivF64
    .. | .fminF64 .. | .fmaxF64 .. | .fsqrtF64 .. | .ffmaF64 .. | .faddF32 .. | .fsubF32 .. | .fmulF32 .. | .fdivF32
    .. | .fminF32 .. | .fmaxF32 .. | .fsqrtF32 .. | .ffmaF32 .. | .cvt .. | .bq .. | .bnq .. | .j .. | .call .. |
    .jmpr .. | .callr .. | .ret .. | .ifence .. | .fence .. | .waitw .. | .exit .. | .arenaH .. | .arenaA .. |
    .engage .. | .lease .. | .unlease .. | .mfsr .. | .mtsr .. | .trap .. | .brk .. | .kset .. | .kread .. | .kincr
    .. | .mov .. | .addc .. | .lic .. | .kincCompact .. => [.C]
  | .cp1d .. | .cp2d .. | .cp3d .. | .cpw1d .. | .cpw2d .. | .cpw3d .. | .cpl .. | .cpr .. | .cpm .. | .cvcp .. |
    .pfBulk .. | .pfRel .. | .lgath .. | .lscat .. | .lfill .. | .badd .. | .bsub .. | .band .. | .bor .. | .bxor ..
    | .bsll .. | .bsrl .. | .bmul .. | .baddi .. | .bli .. | .blis .. | .bmov .. | .baddc .. => [.L]
  | .mma .. | .mmat .. | .tclr .. | .tldA .. | .tldW .. | .drain .. | .eload .. | .gli .. | .glis .. | .tclrCompact
    .. => [.M]
  | .vaddF32 .. | .vsubF32 .. | .vmulF32 .. | .vfmaF32 .. | .vminF32 .. | .vmaxF32 .. | .vdivF32 .. | .vaddF64 .. |
    .vsubF64 .. | .vmulF64 .. | .vfmaF64 .. | .vminF64 .. | .vmaxF64 .. | .vdivF64 .. | .vaddF16 .. | .vsubF16 .. |
    .vmulF16 .. | .vfmaF16 .. | .vminF16 .. | .vmaxF16 .. | .vdivF16 .. | .vaddBf16 .. | .vsubBf16 .. | .vmulBf16 ..
    | .vfmaBf16 .. | .vminBf16 .. | .vmaxBf16 .. | .vdivBf16 .. | .vaddI32 .. | .vsubI32 .. | .vmulI32 .. |
    .vmulhI32 .. | .vand .. | .vor .. | .vxor .. | .vandn .. | .vsll .. | .vsrl .. | .vsra .. | .vaddI16 .. |
    .vsubI16 .. | .vmulI16 .. | .vcmp .. | .vmov .. | .vsel .. | .vbcast .. | .vsqrt .. | .vrsqrt .. | .vexp2 .. |
    .vlog2 .. | .vexp .. | .vln .. | .vsin .. | .vcos .. | .vtanh .. | .verf .. | .vrcp .. | .vcvtF32 .. | .vcvtF64
    .. | .vcvtI32 .. | .vquant .. | .vexpand .. | .vrsum .. | .vrmax .. | .vrmin .. | .vbcl .. | .vrotl .. | .vshuf
    .. | .vzip .. | .vldr .. | .vstr .. | .vldG .. | .vstG .. | .vldSg .. | .vstSg .. | .vgath .. | .vscat .. |
    .pand .. | .por .. | .pxor .. | .pandn .. | .pnot .. | .pset .. | .pclr .. | .xli .. | .xlis .. | .xadd .. |
    .xsub .. | .xand .. | .xorX .. | .xxor .. | .xsll .. | .xsrl .. | .xmul .. | .vfence .. | .vflrd .. | .vflclr ..
    | .vbaseW .. | .vbaseR .. | .vrotW .. | .vrotR .. | .vgov .. => [.V]
  | .take .. | .give .. | .nopToken .. | .kinc .. | .kwge .. | .kwgs .. | .kwlt .. | .blockHeader .. | .nop .. => [.C, .L, .M, .V]
  | .blockRunEnd .. | .accessPerform .. | .lCmdSourceReleased .. | .lCmdDelivered .. | .notifyWrite .. |
    .lCmdServiceFault .. | .mFinish .. | .drainStart .. | .drainRow .. | .drainDelivered .. | .portStarvationFreeze
    .. | .combEngineDecision .. | .rowMax .. | .rowExps .. | .rowScale .. | .rowAll .. | .gthGet .. | .gthPut .. |
    .selTop .. | .selPack .. | .xfmTr .. | .colSum .. | .colBcast .. | .colCat .. | .netSend .. | .netWrite .. |
    .netPost .. | .engineReleasedEvent .. | .engineDeliveredEvent .. | .engineOccupancyEnd .. | .engineWakeDone .. |
    .engineServiceFault .. | .holdCreate .. | .holdLapse .. | .standingLeaseGrant .. | .standingLeaseEnd .. |
    .engineRecall .. | .lsePccapWrite .. | .lseSwcapWrite .. | .taskCompletion .. | .successorApply .. |
    .enqueuePacket .. | .enqueueAck .. | .readyPacket .. | .gangCompleteReport .. | .arenaAllocate .. |
    .arenaZeroFillDone .. | .gangPlace .. | .ageingInterval .. | .taskOverrun .. | .notify .. | .queueConsume .. |
    .queueBind .. | .queueUnbind .. | .queueErrClear .. | .flogRead .. | .preemptRequest .. | .preemptResume .. |
    .arenaSlotReset .. | .registerWrite .. | .corePark .. | .faultRecordWrite .. | .faultQueueWrite .. | .coreResume
    .. | .coreAbandon .. | .sideLogKick .. | .frameRewrite .. | .sideLogReplay .. | .autoResume .. | .tlbInvalidate
    .. | .invalidateDone .. | .atsResponse .. | .pageResponse .. | .atsInvalidation .. | .tileFill .. |
    .layoutPrepare .. | .layoutApplyRequest .. | .layoutAbort .. | .lapBoundary .. | .clusterScrubDone .. |
    .pageReseal .. | .quotaInterval .. | .mpReset .. | .rekeyRequest .. | .rekeySweepTile .. | .capFlogRead .. |
    .slipClear .. | .priEnable .. | .tdiStateChange .. | .getVersion .. | .getCapabilities .. | .negotiateAlgorithms
    .. | .getDigests .. | .getCertificate .. | .challenge .. | .getMeasurements .. | .keyExchange .. |
    .relayPacketReceive .. | .relayAck .. | .relayRto .. | .flitCrcError .. | .linkRetrain .. | .retrainTimeout .. |
    .uePacketReceive .. | .ueAckReceive .. | .ueReorderTimeout .. | .ueRto .. | .ueConnOpen .. | .ueConnClose .. |
    .ueWindowWrite .. | .coldReset .. | .firmwareUpload .. | .firmwareCommit .. | .watchdogKick .. | .watchdogExpiry
    .. | .eccCorrected .. | .uncorrectableError .. | .linkRetrainSuccess .. | .cClockChange .. | .refresh .. => []

/-- The bytes of a word instruction, as stored (R126). -/
def encodeBytes (i : Instr) : List Byte :=
  match encode i with
  | some e => wordBytes e.nbits e.word
  | none => []

end Sys2Proof
end

