-- ==== Sys2Proof/WellFormed.lean ====
section
/-! DEFINITION. Well-formed words (R146): the value rules that an assigned word must meet in the stream that holds it.
A word that breaks one is an illegal-instruction fault when it would issue. The masks of the opcode table already make
reserved and must-be-zero bits zero. -/

namespace Sys2Proof

open Sys2Proof.Machine

/-- Scope 0b111 is illegal (R85). -/
def scopeOk (s : BitVec 3) : Bool := s != 7

/-- Rounding codes 0b110 and 0b111 are illegal (R50). -/
def rndOk (r : BitVec 3) : Bool := decide (r.toNat ≤ 5)

/-- RDI is illegal too where the result is FP64 or a bounded special function (R50, R221). -/
def rnd64Ok (r : BitVec 3) : Bool := decide (r.toNat ≤ 4)

/-- Conditions 6 and 7 are unassigned (Table 7.4). -/
def condOk (c : BitVec 3) : Bool := decide (c.toNat ≤ 5)

/-- A register that begins a pair (R156, R172). -/
def evenReg (d : BitVec 5) : Bool := d.toNat % 2 == 0

/-- Size 4 of a load or store needs an even d (R156). -/
def pairOk (z : BitVec 3) (d : BitVec 5) : Bool := z != 4 || evenReg d

/-- The space codes of `ldl` and `stl` (R157). -/
def spaceOk (e : BitVec 2) : Bool := decide (e.toNat ≤ 1)

/-- A register field of a file of 16 registers has [4] zero (R134). -/
def fileOk (st : Stream) (r : BitVec 5) : Bool := st == .C || decide (r.toNat < 16)

/-- The special-register numbers of Table 7.10. -/
def srKnown (s : BitVec 12) : Bool :=
  let n := s.toNat
  decide (n ≤ 0x00B) || decide (0x010 ≤ n ∧ n ≤ 0x013) || decide (0x020 ≤ n ∧ n ≤ 0x031) ||
    decide (0x040 ≤ n ∧ n ≤ 0x045) || decide (0x048 ≤ n ∧ n ≤ 0x04D)

/-- The RW registers of Table 7.10: %sflags, %dphase, %dstep and the overflow counters. -/
def srWritable (s : BitVec 12) : Bool :=
  let n := s.toNat
  n == 0x010 || n == 0x011 || n == 0x013 || decide (0x020 ≤ n ∧ n ≤ 0x031)

/-- The static checks of a block header (R128); the check on the run count is made when the block is entered. -/
def headerOk (st : Stream) (len : BitVec 10) (rot : BitVec 1) (stg : BitVec 3) (rreg : BitVec 1) (rep : BitVec 11) : Bool :=
  decide (2 ≤ len.toNat) && (st == .V || (rot == 0 && stg == 0)) && (stg == 0 || rot == 1) &&
    (rreg == 0 || (decide (rep.toNat < 32) && fileOk st (rep.setWidth 5)))

/-- Formats of the FP32 hub (Table 10.6). -/
def hub32Fmt (f : Nat) : Bool := decide (2 ≤ f ∧ f ≤ 9) || decide (18 ≤ f ∧ f ≤ 25)

/-- Formats of the FP64 hub (Table 10.6). -/
def hub64Fmt (f : Nat) : Bool := f == 1 || f == 3 || f == 4 || f == 24 || f == 25 || f == 26

/-- Formats of the INT32 hub (Table 10.6). -/
def hubI32Fmt (f : Nat) : Bool := decide (18 ≤ f ∧ f ≤ 23) || f == 25

/-- Type, rounding and nf of a reduction (R227). -/
def redOk (t r : BitVec 3) (n : BitVec 1) : Bool :=
  decide (t.toNat ≤ 6) && (if t.toNat ≤ 3 then (if t = 1 then rnd64Ok r else rndOk r) else r == 0 && n == 0)

/-- The value rules of R146 for an instruction in the stream that holds it. An event has none. -/
def Instr.wf (st : Stream) (i : Instr) : Bool :=
  match i with
  | .add _ _ _ _ => true
  | .sub _ _ _ _ => true
  | .and _ _ _ _ => true
  | .or _ _ _ _ => true
  | .xor _ _ _ _ => true
  | .andn _ _ _ _ => true
  | .sll _ _ _ _ => true
  | .srl _ _ _ _ => true
  | .sra _ _ _ _ => true
  | .mul _ _ _ _ => true
  | .mulh _ _ _ _ => true
  | .mulhu _ _ _ _ => true
  | .div _ _ _ _ => true
  | .divu _ _ _ _ => true
  | .rem _ _ _ _ => true
  | .remu _ _ _ _ => true
  | .min _ _ _ _ => true
  | .max _ _ _ _ => true
  | .minu _ _ _ _ => true
  | .maxu _ _ _ _ => true
  | .clz _ _ _ => true
  | .popc _ _ _ => true
  | .addi _ _ _ _ => true
  | .andi _ _ _ _ => true
  | .ori _ _ _ _ => true
  | .xori _ _ _ _ => true
  | .slli _ _ _ _ => true
  | .srli _ _ _ _ => true
  | .srai _ _ _ _ => true
  | .li _ _ _ => true
  | .lis _ _ _ => true
  | .cmp _ _ c _ _ k n => condOk c && k != 3 && (k != 0 || n == 0)
  | .cmpi _ _ c _ _ => condOk c
  | .qand _ _ _ _ => true
  | .qor _ _ _ _ => true
  | .qxor _ _ _ _ => true
  | .qandn _ _ _ _ => true
  | .qnot _ _ _ => true
  | .qset _ _ => true
  | .qclr _ _ => true
  | .ld _ d _ _ s _ z => scopeOk s && pairOk z d
  | .st _ d _ _ s _ z => scopeOk s && decide (z.toNat ≤ 4) && pairOk z d
  | .ldl _ d _ _ s e z => scopeOk s && spaceOk e && pairOk z d
  | .stl _ d _ _ s e z => scopeOk s && spaceOk e && decide (z.toNat ≤ 4) && pairOk z d
  | .amoG _ d _ _ s o z => scopeOk s && decide (o.toNat ≤ 10) && (o != 9 || evenReg d) && (o != 10 || (z == 1 && d.toNat % 4 == 0))
  | .amoS _ d _ _ s o _ => scopeOk s && decide (o.toNat ≤ 9) && (o != 9 || evenReg d)
  | .amoSg _ d _ _ s o _ => scopeOk s && decide (o.toNat ≤ 9) && (o != 9 || evenReg d)
  | .redf _ _ _ _ s r _ => scopeOk s && rndOk r
  | .faddF64 _ _ _ _ r _ => rnd64Ok r
  | .fsubF64 _ _ _ _ r _ => rnd64Ok r
  | .fmulF64 _ _ _ _ r _ => rnd64Ok r
  | .fdivF64 _ _ _ _ r _ => rnd64Ok r
  | .fminF64 _ _ _ _ _ => true
  | .fmaxF64 _ _ _ _ _ => true
  | .fsqrtF64 _ _ _ r _ => rnd64Ok r
  | .ffmaF64 _ _ _ _ r _ => rnd64Ok r
  | .faddF32 _ _ _ _ r _ => rndOk r
  | .fsubF32 _ _ _ _ r _ => rndOk r
  | .fmulF32 _ _ _ _ r _ => rndOk r
  | .fdivF32 _ _ _ _ r _ => rndOk r
  | .fminF32 _ _ _ _ _ => true
  | .fmaxF32 _ _ _ _ _ => true
  | .fsqrtF32 _ _ _ r _ => rndOk r
  | .ffmaF32 _ _ _ _ r _ => rndOk r
  | .cvt _ _ _ s t r n _ => s != t && rndOk r && (t != 4 || r != 5) && (s.toNat > 3 || t.toNat > 3 || (r == 0 && n == 0))
  | .bq _ _ _ => true
  | .bnq _ _ _ => true
  | .j _ _ => true
  | .call _ _ => true
  | .jmpr _ _ => true
  | .callr _ _ => true
  | .ret _ => true
  | .ifence _ => true
  | .fence _ _ s => scopeOk s
  | .waitw _ _ _ _ s c => scopeOk s && decide (c.toNat ≤ 3)
  | .exit _ a n => decide (n.toNat ≤ 4) && (n != 0 || a == 0)
  | .arenaH _ _ _ => true
  | .arenaA _ _ _ _ => true
  | .engage _ _ _ a _ => evenReg a
  | .lease _ _ _ _ => true
  | .unlease _ _ _ => true
  | .mfsr _ _ s => srKnown s
  | .mtsr _ _ s => srKnown s && srWritable s
  | .trap _ _ => true
  | .brk _ _ => true
  | .take tk r => tk.pop != 0 && fileOk st r
  | .give tk r => tk.push != 0 && fileOk st r
  | .nopToken _ => true
  | .kset _ _ _ => st == .C
  | .kinc _ _ _ => true
  | .kwge _ _ _ => true
  | .kwgs _ _ _ => true
  | .kwlt _ _ _ => true
  | .kread _ _ _ => st == .C
  | .kincr _ _ _ => st == .C
  | .blockHeader l r s g n => headerOk st l r s g n
  | .nop => true
  | .mov _ _ => true
  | .addc _ _ => true
  | .lic _ _ => true
  | .kincCompact _ i => i != 0
  | .cp1d _ _ _ s _ => scopeOk s
  | .cp2d _ _ _ s _ => scopeOk s
  | .cp3d _ g _ s _ => scopeOk s && g != 3
  | .cpw1d _ _ _ s _ => scopeOk s
  | .cpw2d _ _ _ s _ => scopeOk s
  | .cpw3d _ g _ s _ => scopeOk s && g != 3
  | .cpl _ _ _ s => scopeOk s
  | .cpr _ _ _ s => scopeOk s
  | .cpm _ _ _ s => scopeOk s
  | .cvcp _ _ _ s _ r _ _ => scopeOk s && rndOk r
  | .pfBulk _ _ _ s _ => scopeOk s
  | .pfRel _ _ _ s => scopeOk s
  | .lgath _ _ _ s _ => scopeOk s
  | .lscat _ _ _ s _ => scopeOk s
  | .lfill _ _ _ s _ => scopeOk s
  | .badd _ _ _ _ => true
  | .bsub _ _ _ _ => true
  | .band _ _ _ _ => true
  | .bor _ _ _ _ => true
  | .bxor _ _ _ _ => true
  | .bsll _ _ _ _ => true
  | .bsrl _ _ _ _ => true
  | .bmul _ _ _ _ => true
  | .baddi _ _ _ _ => true
  | .bli _ _ _ => true
  | .blis _ _ _ => true
  | .bmov _ _ => true
  | .baddc _ _ => true
  | .mma _ _ _ _ _ f r => decide (f.toNat ≤ 23 ∨ f = 31) && rndOk r
  | .mmat _ _ _ _ _ f r => decide (f.toNat ≤ 23 ∨ f = 31) && rndOk r
  | .tclr _ _ => true
  | .tldA _ _ _ => true
  | .tldW _ _ _ => true
  | .drain _ _ _ d r e _ _ => d != 3 && (e != 0 || r == 0)
  | .eload _ _ _ _ _ => true
  | .gli _ _ _ => true
  | .glis _ _ _ => true
  | .tclrCompact _ => true
  | .vaddF32 _ _ _ _ r _ _ => rndOk r
  | .vsubF32 _ _ _ _ r _ _ => rndOk r
  | .vmulF32 _ _ _ _ r _ _ => rndOk r
  | .vfmaF32 _ _ _ _ r _ _ => rndOk r
  | .vminF32 _ _ _ _ _ _ => true
  | .vmaxF32 _ _ _ _ _ _ => true
  | .vdivF32 _ _ _ _ r _ _ => rndOk r
  | .vaddF64 _ _ _ _ r _ _ => rnd64Ok r
  | .vsubF64 _ _ _ _ r _ _ => rnd64Ok r
  | .vmulF64 _ _ _ _ r _ _ => rnd64Ok r
  | .vfmaF64 _ _ _ _ r _ _ => rnd64Ok r
  | .vminF64 _ _ _ _ _ _ => true
  | .vmaxF64 _ _ _ _ _ _ => true
  | .vdivF64 _ _ _ _ r _ _ => rnd64Ok r
  | .vaddF16 _ _ _ _ r _ _ => rndOk r
  | .vsubF16 _ _ _ _ r _ _ => rndOk r
  | .vmulF16 _ _ _ _ r _ _ => rndOk r
  | .vfmaF16 _ _ _ _ r _ _ => rndOk r
  | .vminF16 _ _ _ _ _ _ => true
  | .vmaxF16 _ _ _ _ _ _ => true
  | .vdivF16 _ _ _ _ r _ _ => rndOk r
  | .vaddBf16 _ _ _ _ r _ _ => rndOk r
  | .vsubBf16 _ _ _ _ r _ _ => rndOk r
  | .vmulBf16 _ _ _ _ r _ _ => rndOk r
  | .vfmaBf16 _ _ _ _ r _ _ => rndOk r
  | .vminBf16 _ _ _ _ _ _ => true
  | .vmaxBf16 _ _ _ _ _ _ => true
  | .vdivBf16 _ _ _ _ r _ _ => rndOk r
  | .vaddI32 _ _ _ _ _ _ => true
  | .vsubI32 _ _ _ _ _ _ => true
  | .vmulI32 _ _ _ _ _ _ => true
  | .vmulhI32 _ _ _ _ _ => true
  | .vand _ _ _ _ _ => true
  | .vor _ _ _ _ _ => true
  | .vxor _ _ _ _ _ => true
  | .vandn _ _ _ _ _ => true
  | .vsll _ _ _ _ _ => true
  | .vsrl _ _ _ _ _ => true
  | .vsra _ _ _ _ _ => true
  | .vaddI16 _ _ _ _ _ _ => true
  | .vsubI16 _ _ _ _ _ _ => true
  | .vmulI16 _ _ _ _ _ _ => true
  | .vcmp _ _ c _ _ t n _ => condOk c && decide (t.toNat ≤ 6) && (decide (t.toNat ≤ 3) || n == 0)
  | .vmov _ _ _ _ => true
  | .vsel _ _ _ _ _ => true
  | .vbcast _ _ _ _ => true
  | .vsqrt _ t _ _ r _ _ => decide (t.toNat ≤ 1) && rndOk r && (t == 0 || r != 5)
  | .vrsqrt _ t _ _ r _ _ => decide (t.toNat ≤ 1) && rnd64Ok r
  | .vexp2 _ t _ _ r _ _ => decide (t.toNat ≤ 1) && rnd64Ok r
  | .vlog2 _ t _ _ r _ _ => decide (t.toNat ≤ 1) && rnd64Ok r
  | .vexp _ t _ _ r _ _ => decide (t.toNat ≤ 1) && rnd64Ok r
  | .vln _ t _ _ r _ _ => decide (t.toNat ≤ 1) && rnd64Ok r
  | .vsin _ t _ _ r _ _ => decide (t.toNat ≤ 1) && rnd64Ok r
  | .vcos _ t _ _ r _ _ => decide (t.toNat ≤ 1) && rnd64Ok r
  | .vtanh _ t _ _ r _ _ => decide (t.toNat ≤ 1) && rnd64Ok r
  | .verf _ t _ _ r _ _ => decide (t.toNat ≤ 1) && rnd64Ok r
  | .vrcp _ t _ _ r _ _ => decide (t.toNat ≤ 1) && rndOk r && (t == 0 || r != 5)
  | .vcvtF32 _ f _ _ _ r _ _ _ => rndOk r && hub32Fmt f.toNat
  | .vcvtF64 _ f e _ _ r _ _ _ => rndOk r && hub64Fmt f.toNat && (e == 0 || r != 5)
  | .vcvtI32 _ f _ _ _ r _ _ _ => r == 0 && hubI32Fmt f.toNat
  | .vquant _ f _ _ r _ _ => rndOk r && decide (10 ≤ f.toNat ∧ f.toNat ≤ 17)
  | .vexpand _ f _ _ r _ _ => rndOk r && decide (10 ≤ f.toNat ∧ f.toNat ≤ 17)
  | .vrsum _ t _ _ r n _ => redOk t r n
  | .vrmax _ t _ _ r n _ => redOk t r n && r == 0
  | .vrmin _ t _ _ r n _ => redOk t r n && r == 0
  | .vbcl _ z _ _ _ i => decide (z.toNat ≤ 2 ∧ i.toNat < 128 / 2 ^ z.toNat)
  | .vrotl _ z _ _ _ i => decide (z.toNat ≤ 2 ∧ i.toNat < 128 / 2 ^ z.toNat)
  | .vshuf _ z _ _ _ _ => decide (z.toNat ≤ 2)
  | .vzip _ z _ _ _ => decide (z.toNat ≤ 2)
  | .vldr _ u _ _ _ => u != 3
  | .vstr _ u _ _ _ => u != 3
  | .vldG _ z _ _ _ s _ _ => scopeOk s && decide (z.toNat ≤ 2)
  | .vstG _ z _ _ _ s _ _ => scopeOk s && decide (z.toNat ≤ 2)
  | .vldSg _ z _ _ _ s _ => scopeOk s && decide (z.toNat ≤ 2)
  | .vstSg _ z _ _ _ s _ => scopeOk s && decide (z.toNat ≤ 2)
  | .vgath _ z _ _ _ _ _ => decide (z.toNat ≤ 2)
  | .vscat _ z _ _ _ _ _ => decide (z.toNat ≤ 2)
  | .pand _ _ _ _ => true
  | .por _ _ _ _ => true
  | .pxor _ _ _ _ => true
  | .pandn _ _ _ _ => true
  | .pnot _ _ _ => true
  | .pset _ _ => true
  | .pclr _ _ => true
  | .xli _ _ _ => true
  | .xlis _ _ _ => true
  | .xadd _ _ _ _ => true
  | .xsub _ _ _ _ => true
  | .xand _ _ _ _ => true
  | .xorX _ _ _ _ => true
  | .xxor _ _ _ _ => true
  | .xsll _ _ _ _ => true
  | .xsrl _ _ _ _ => true
  | .xmul _ _ _ _ => true
  | .vfence _ _ s => scopeOk s
  | .vflrd _ _ f _ => decide (f.toNat ≤ 4)
  | .vflclr _ f => decide (f.toNat ≤ 4)
  | .vbaseW _ _ => true
  | .vbaseR _ _ => true
  | .vrotW _ _ => true
  | .vrotR _ _ => true
  | .vgov _ => true
  | .blockRunEnd _ _ => true
  | .accessPerform _ _ => true
  | .lCmdSourceReleased _ _ => true
  | .lCmdDelivered _ _ => true
  | .notifyWrite _ _ => true
  | .lCmdServiceFault _ _ => true
  | .mFinish _ => true
  | .drainStart _ => true
  | .drainRow _ => true
  | .drainDelivered _ => true
  | .portStarvationFreeze _ => true
  | .combEngineDecision _ => true
  | .rowMax _ => true
  | .rowExps _ => true
  | .rowScale _ => true
  | .rowAll _ => true
  | .gthGet _ => true
  | .gthPut _ => true
  | .selTop _ => true
  | .selPack _ => true
  | .xfmTr _ => true
  | .colSum _ => true
  | .colBcast _ => true
  | .colCat _ => true
  | .netSend _ => true
  | .netWrite _ => true
  | .netPost _ => true
  | .engineReleasedEvent _ => true
  | .engineDeliveredEvent _ => true
  | .engineOccupancyEnd _ => true
  | .engineWakeDone _ => true
  | .engineServiceFault _ => true
  | .holdCreate _ => true
  | .holdLapse _ => true
  | .standingLeaseGrant _ _ => true
  | .standingLeaseEnd _ _ => true
  | .engineRecall _ => true
  | .lsePccapWrite _ => true
  | .lseSwcapWrite _ => true
  | .taskCompletion _ => true
  | .successorApply _ => true
  | .enqueuePacket _ => true
  | .enqueueAck _ => true
  | .readyPacket _ => true
  | .gangCompleteReport _ => true
  | .arenaAllocate _ => true
  | .arenaZeroFillDone _ => true
  | .gangPlace _ => true
  | .ageingInterval _ => true
  | .taskOverrun _ => true
  | .notify _ _ => true
  | .queueConsume _ => true
  | .queueBind _ _ => true
  | .queueUnbind _ => true
  | .queueErrClear _ => true
  | .flogRead => true
  | .preemptRequest _ => true
  | .preemptResume _ => true
  | .arenaSlotReset _ => true
  | .registerWrite _ _ _ => true
  | .corePark _ => true
  | .faultRecordWrite _ => true
  | .faultQueueWrite _ _ _ => true
  | .coreResume _ _ => true
  | .coreAbandon _ _ => true
  | .sideLogKick _ _ => true
  | .frameRewrite _ _ => true
  | .sideLogReplay _ _ => true
  | .autoResume _ => true
  | .tlbInvalidate _ _ => true
  | .invalidateDone _ => true
  | .atsResponse _ _ _ => true
  | .pageResponse _ _ _ => true
  | .atsInvalidation _ _ _ => true
  | .tileFill _ => true
  | .layoutPrepare => true
  | .layoutApplyRequest => true
  | .layoutAbort => true
  | .lapBoundary => true
  | .clusterScrubDone _ => true
  | .pageReseal _ => true
  | .quotaInterval _ => true
  | .mpReset => true
  | .rekeyRequest _ => true
  | .rekeySweepTile _ => true
  | .capFlogRead => true
  | .slipClear _ => true
  | .priEnable _ => true
  | .tdiStateChange _ _ => true
  | .getVersion _ _ => true
  | .getCapabilities _ _ => true
  | .negotiateAlgorithms _ _ => true
  | .getDigests _ _ => true
  | .getCertificate _ _ => true
  | .challenge _ _ => true
  | .getMeasurements _ _ => true
  | .keyExchange _ _ => true
  | .relayPacketReceive _ _ _ _ => true
  | .relayAck _ _ _ => true
  | .relayRto _ _ _ => true
  | .flitCrcError _ => true
  | .linkRetrain _ => true
  | .retrainTimeout _ => true
  | .uePacketReceive _ _ => true
  | .ueAckReceive _ _ _ => true
  | .ueReorderTimeout _ _ => true
  | .ueRto _ _ => true
  | .ueConnOpen _ _ => true
  | .ueConnClose _ => true
  | .ueWindowWrite _ _ => true
  | .coldReset => true
  | .firmwareUpload _ => true
  | .firmwareCommit => true
  | .watchdogKick => true
  | .watchdogExpiry => true
  | .eccCorrected => true
  | .uncorrectableError _ => true
  | .linkRetrainSuccess _ => true
  | .cClockChange _ => true
  | .refresh _ => true

end Sys2Proof
end

