-- ==== Sys2Proof/Machine/Ops.lean ====
section
/-! DEFINITION. The shared operations: reaching a core, parking it with a cause (R18, R19), issuing an instruction with
its tokens (R11, R13), granules and pending accesses (R87), counters (R14), and block transfers (R129–R132). -/

namespace Sys2Proof.Machine

open Sys2Proof

/-! ### Cores -/

/-- %cyc (Table 7.10): C-cycles since the first issue, stopped while Parked. -/
def Core.cyc (c : Core) (clock : Nat) : Nat :=
  match c.st with
  | .running => c.cyc0 + (clock - c.cycFrom.clk)
  | .exiting => c.cyc0 + (clock - c.cycFrom.clk)
  | _ => c.cyc0

/-- %dphase and %dstep as they stand after the present C-cycle (R174, R207). -/
def Core.dphLast (c : Core) : BitVec 8 := match c.dphNext with | some (x, _) => x | none => c.dphase
def Core.dstLast (c : Core) : BitVec 8 := c.dstNext.getD c.dstep

/-- A C-cycle begins (R54, R174). -/
def Core.newCycle (c : Core) : Core := { c with dphase := c.dphLast, dphNext := none, dstep := c.dstLast, dstNext := none }

/-- Whether an `mtsr` of this C-cycle has written %dphase or %dstep: C's next word, and what a token of C orders after the write,
issues in a later C-cycle (R174). -/
def Core.srDue (c : Core) : Bool := (match c.dphNext with | some (_, w) => w | none => false) || c.dstNext.isSome

/-- Calendar slots of its budget that a task has used, its handlers apart: they run from its first issue and stop while it
is parked (R29). -/
def Core.spent (c : Core) (slot : Nat) : Nat :=
  match c.st with
  | .running => c.ran + (slot - c.cycFrom.slot)
  | .exiting => c.ran + (slot - c.cycFrom.slot)
  | _ => c.ran

/-- C's loop record has ended without `exit`: a running task behaves as at an `exit` with no successors (R17). -/
def Core.implicitExit (c : Core) : Core :=
  if (c.str .C).ended ∧ c.st = .running then { c with st := .exiting, succ := [], exitStep := 1 } else c

/-- The first issue of a placed task makes it run (Table 1.5); where C's loop record is empty it then exits (R17). -/
def Core.start (now : Now) (c : Core) : Core :=
  if c.st = .placed then Core.implicitExit { c with st := .running, cyc0 := 0, ran := 0, cycFrom := now } else c

/-- A core that stops with a cause, at a moment: it keeps the state it held, %cyc and the budget used (R18, R29). -/
def Core.stopped (now : Now) (r : CauseRec) (c : Core) : Core :=
  { c with
    st := .parked
    before := c.st
    causes := c.causes ++ [r]
    settled := false
    framed := false
    parkedAt := now.clk
    cyc0 := c.cyc now.clk
    ran := c.spent now.slot
    sflate := 0 }

/-- The calendar slots of a handler that runs count as used up to this moment (R271). -/
def Core.handlerUsed (now : Now) (c : Core) : Core :=
  if c.inHandler && !c.hstop then
    { c with task := c.task.map (fun t => { t with hran := t.hran + (now.slot - t.hfrom), hfrom := now.slot }) }
  else c

/-- Parks a core with a cause (R18, R19). A task that is placed parks as one that has begun to run (log entry 16). A core
already parked records the further cause (R305). A core with no task records nothing (Table 1.5). -/
def Core.park (now : Now) (r : CauseRec) (c : Core) : Core :=
  match c.st with
  | .placed => (c.start now).stopped now r
  | .running => c.stopped now r
  | .exiting => c.stopped now r
  | .parked =>
    { c.handlerUsed now with causes := c.causes ++ [r], settled := false, hstop := c.hstop || c.inHandler, returning := false }
  | _ => c

/-- Core v waits on host pages. -/
def Core.waitOn (c : Core) (pages : List Nat) : Core := { c with pages := c.pages ++ pages.filter (fun p => !c.pages.contains p) }

/-- Parks core v with a cause. -/
def State.park (s : State) (v : Nat) (r : CauseRec) : State := s.setCore v ((s.core v).park s.now r)

/-- The cause record of a fault at issue (R372): origin the stream, word the stream's word. -/
def Core.recOf (c : Core) (st : Stream) (cause : Cause) (addr : Nat) : CauseRec :=
  { cause := cause, orig := st.ix, word := (c.str st).pc, addr := addr }

/-! ### Orders that an issue waits for (R89, R92, R98) -/

/-- Whether a faulted access waits for the resumption while the task's handler runs: the handler's words do not wait for
it (R271). The handler's own accesses are numbered from `hid` on. -/
def Core.holds (c : Core) (a : Acc) : Bool := c.inHandler && a.stuck && decide (a.id < c.hid)

/-- Every access of the stream has performed, side log included (R92, R98). -/
def Core.drained (c : Core) (st : Stream) : Bool :=
  c.acc.all (fun a => a.st != st || c.holds a) && c.slog.all (fun e => e.acc.st != st)

/-- No access of the stream in a class of the mask is pending (R92). -/
def Core.clearOf (c : Core) (st : Stream) (mask : Nat) : Bool :=
  c.acc.all (fun a => a.st != st || fld mask a.cls 1 == 0 || c.holds a) &&
    c.slog.all (fun e => e.acc.st != st || fld mask e.acc.cls 1 == 0)

/-- Whether a pending access is an acquire (R86): a load or an atomic with a nonzero scope. -/
def Acc.isAcquire (a : Acc) : Bool :=
  a.scope != 0 && (match a.kind with | .load => true | .amo _ _ _ _ => true | _ => false)

/-- Whether a pending access is a release (R86): a store, reduction or atomic with a nonzero scope. -/
def Acc.isRelease (a : Acc) : Bool :=
  a.scope != 0 && (match a.kind with | .load => false | _ => true)

/-- No acquire of the stream is pending (R89, kind 3). -/
def Core.acquired (c : Core) (st : Stream) : Bool := c.acc.all (fun a => a.st != st || !a.isAcquire || c.holds a)

/-- No release of the stream is pending: an acquire of the stream waits for it (R89, kind 5). -/
def Core.released (c : Core) (st : Stream) : Bool :=
  c.acc.all (fun a => a.st != st || !a.isRelease || c.holds a) &&
    c.slog.all (fun e => e.acc.st != st || !e.acc.isRelease) && (c.str st).hold.isEmpty

/-- Every access of the stream before number `id` has performed, side log included (R92, R98). -/
def Core.releasable (c : Core) (st : Stream) (id : Nat) : Bool :=
  c.acc.all (fun a => a.st != st || decide (id ≤ a.id) || c.holds a) &&
    c.slog.all (fun e => e.acc.st != st || decide (id ≤ e.acc.id))

/-- Whether an earlier access that a fence orders has yet to perform (R92, R98). -/
def Core.fenceWaits (c : Core) (f : Fence) : Bool :=
  c.acc.any (fun a => a.st == f.st && decide (a.id < f.id) && fld f.mask a.cls 1 == 1 && !c.holds a) ||
    c.slog.any (fun e => e.acc.st == f.st && decide (e.acc.id < f.id) && fld f.mask e.acc.cls 1 == 1)

/-- Whether a fence of the stream keeps accesses of a class from issuing: an earlier access that it orders has yet to perform
(R92, R161). -/
def Core.barred (c : Core) (st : Stream) (cls : Nat) : Bool :=
  c.fences.any (fun f => f.st == st && fld f.mask cls 1 == 1 && c.fenceWaits f)

/-- Every command of core v whose delivered event has occurred has performed: a release of a stream of the core waits for
it, however narrow the command's scope (R95). -/
def State.landed (s : State) (v : Nat) : Bool :=
  (s.core v).lcmds.all (fun l => !l.delivered || l.work.dsts.isEmpty) &&
    s.ecmds.all (fun c => c.core != v || !c.delivered || c.work.dsts.isEmpty)

/-! ### Order (R89, R98) -/

/-- Whether an access touches a buffer of the issuing core v. -/
def Acc.ownBuf (a : Acc) (v : Nat) : Bool := match a.space with | .G => false | .S w => w == v | .B _ => true

/-- Whether two accesses touch overlapping bytes of a buffer of core v, which they belong to (R89, kind 2). Kind 2 of Table 4.3
and R65 order them whatever their classes, also where the text after the table and R254 speak of no order (log entry 72). -/
def Acc.sameBytes (v : Nat) (b a : Acc) : Bool := b.space == a.space && a.ownBuf v && meets b.addr b.n a.addr a.n

/-- Whether an earlier access `b` of a stream of core v must perform before `a` (R89): both of one class, `b` an acquire, `a`
a release, `b` a release and `a` an acquire, or overlapping bytes of one of the core's own buffers. -/
def Acc.before (v : Nat) (b a : Acc) : Bool :=
  (decide (b.cls < 16) && b.cls == a.cls) || b.isAcquire || a.isRelease || (b.isRelease && a.isAcquire) ||
    b.sameBytes v a

/-- Whether an access is a load or an atomic. -/
def Acc.loads (a : Acc) : Bool := match a.kind with | .load => true | .amo _ _ _ _ => true | _ => false

/-- Whether a logged access of core v must be replayed before a later access `a` performs (R89, R98): a release waits for every
entry of its stream, a load or atomic for those of its class, an acquire for a release, and an access to a buffer of the core for
an entry over the same bytes. The accesses of one instruction wait for none of its own. -/
def Acc.afterLog (v : Nat) (e a : Acc) : Bool :=
  e.st == a.st && e.grp != a.grp && decide (e.id < a.id) &&
    (a.isRelease || (a.loads && e.cls == a.cls) || (a.isAcquire && e.isRelease) || e.sameBytes v a)

/-- Whether every pending access, release and fence of core v that must precede an access has performed (R89, R92). -/
def Core.follows (v : Nat) (c : Core) (a : Acc) : Bool :=
  c.acc.all (fun b => b.st != a.st || b.grp == a.grp || decide (a.id ≤ b.id) || c.holds b || !b.before v a) &&
    ((c.str a.st).gone || (c.str a.st).hold.all (fun h => decide (a.id < h.id) || !(a.isAcquire || a.isRelease))) &&
    c.fences.all (fun f => f.st != a.st || decide (a.id < f.id) || fld f.mask a.cls 1 == 0 || !c.fenceWaits f)

/-- Whether a pending access of core v may perform: all that must precede it has, side log included (R89, R92, R98). -/
def Core.mayPerform (v : Nat) (c : Core) (a : Acc) : Bool :=
  !a.stuck && c.follows v a && c.slog.all (fun e => !e.acc.afterLog v a)

/-- Whether entry k of the log of core v may replay: entries of its class replay in log order, and every order of R89 still
binds it (R98, R302). -/
def Core.mayReplay (v : Nat) (c : Core) (k : Nat) (e : SideEntry) : Bool :=
  e.due && c.follows v e.acc && (c.slog.take k).all (fun x => x.acc.cls != e.acc.cls && !x.acc.afterLog v e.acc)

/-- The same, in a state: a release also waits for the commands of its core that count as delivered (R95). -/
def State.mayPerform (s : State) (v : Nat) (a : Acc) : Bool :=
  (s.core v).mayPerform v a && (!a.isRelease || s.landed v)

/-! ### Counters (R14, R168) -/

/-- Whether an operation of step `ph` of R168 may still reach the counters in a C-cycle: 0 `kset`, 1 an increment, 2 to 5
the tests and reads of C, L, M and V. -/
def Core.kTurn (clk ph : Nat) (c : Core) : Bool := c.kAt != clk || decide (c.kPh ≤ ph)

/-- Notes an operation of step `ph` on the counters in a C-cycle. -/
def Core.kMark (clk ph : Nat) (c : Core) : Core :=
  { c with
    kAt := clk
    kPh := ph
    kIncs := if c.kAt = clk then c.kIncs else []
    kOver := if c.kAt = clk then c.kOver else [] }

/-- The step of R168 at which a stream tests and reads counters. -/
def Stream.kStep (st : Stream) : Nat := 2 + st.ix

/-- An increment of counter k in a C-cycle is noted with its origin. -/
def Core.kNote (clk : Nat) (k : BitVec 6) (r : CauseRec) (c : Core) : Core :=
  let c1 := c.kMark clk 1
  { c1 with kIncs := c1.kIncs ++ [(k.toNat, r)] }

/-- The record of an overflow of counter k: the increment of the C-cycle with the lowest origin (R372). -/
def kOrigin (k : Nat) (r : CauseRec) (incs : List (Nat × CauseRec)) : CauseRec :=
  incs.foldl (fun b e => if e.1 = k ∧ e.2.orig < b.orig then e.2 else b) r

/-- The first increment of counter k in the C-cycle. -/
def Core.kFirst (c : Core) (k : Nat) (r : CauseRec) : CauseRec :=
  match c.kIncs.find? (fun e => e.1 == k) with | some e => e.2 | none => r

/-- Adds an increment to a counter: a result above 2^24 − 1 saturates and parks the core with cause 4 (R14). The increments
that one C-cycle brings to a counter overflow together, with one record (R168, R372). -/
def Core.incK (now : Now) (k : BitVec 6) (n : Nat) (r0 : CauseRec) (c : Core) : Core :=
  let r : CauseRec := { r0 with cause := .counterOverflow }
  let c0 := c.kMark now.clk 1
  let c1 := c.kNote now.clk k r
  let x := (c.getK k).toNat + n
  if x < 2 ^ 24 then c1.setK k (BitVec.ofNat 24 x)
  else
    let c2 := c1.setK k (BitVec.allOnes 24)
    let new := kOrigin k.toNat (c1.kFirst k.toNat r) c1.kIncs
    if c0.kOver.contains k.toNat then
      let old := kOrigin k.toNat (c0.kFirst k.toNat r) c0.kIncs
      { c2 with causes := c2.causes.map (fun x => if x = old then new else x), settled := c2.settled && old == new }
    else Core.park now new { c2 with kOver := k.toNat :: c2.kOver }

/-- A completion increment; an increment of 0 touches no counter (R117, R182). -/
def Core.complete (now : Now) (k n : Nat) (r : CauseRec) (c : Core) : Core :=
  if n = 0 then c else c.incK now (BitVec.ofNat 6 k) n r

/-- Whether the completion increment of an event may reach its counter in this C-cycle (R168). -/
def Core.mayComplete (clk n : Nat) (c : Core) : Bool := n == 0 || c.kTurn clk 1

/-! ### Pushes and increments of a stream (R13, R93) -/

/-- Queue number of a pair of streams. -/
def queueNo (src dst : Stream) : Nat := 4 * src.ix + dst.ix

/-- Whether a stream can make a release that it holds: what precedes it has performed and, for a push, its queue has room;
an increment takes its turn in the C-cycle (R13, R92, R168). -/
def Core.canMake (now : Now) (landed : Bool) (st : Stream) (h : Held) (c : Core) : Bool :=
  landed && c.releasable st h.id &&
    (match h.act with
     | .push p _ => decide ((c.queue st p).length < 8)
     | .inc _ _ _ => c.kTurn now.clk 1
     | .set _ _ => c.kTurn now.clk 0)

/-- Makes a release of a stream. -/
def Core.make (now : Now) (st : Stream) (h : Held) (c : Core) : Core :=
  match h.act with
  | .push p x => c.setQueue st p (c.queue st p ++ [x])
  | .inc k n r => c.incK now k n r
  | .set k x => (c.setK k x).kMark now.clk 0

/-- Makes what a stream holds, oldest first, as far as it can, since a release is kept before a later one (Table 4.4): what it
still holds, what it has made, and the core. -/
def Core.flushGo (now : Now) (landed : Bool) (st : Stream) : List Held → Core → List Held × List Held × Core
  | [], c => ([], [], c)
  | h :: r, c =>
    if c.canMake now landed st h then
      let (k, m, c1) := Core.flushGo now landed st r (c.make now st h)
      (k, h :: m, c1)
    else (h :: r, [], c)

/-- The event of a release that core v has made: it has core scope (R93). -/
def State.heldEv (s : State) (v : Nat) (st : Stream) (h : Held) : Ev :=
  { s.event v st.ix (4 * h.id + 2) 16 with
    kind := match h.act with | .push p _ => .push (queueNo st p) | .inc k _ _ => .inc k.toNat | .set k _ => .kset k.toNat
    rel := 1 }

/-- Makes the waiting releases of one stream of core v. -/
def State.flushStr (s : State) (v : Nat) (st : Stream) : State :=
  match ((s.core v).str st).hold with
  | [] => s
  | h :: r =>
    let (k, m, c) := Core.flushGo s.now (s.landed v) st (h :: r) (s.core v)
    m.foldl (fun s h => s.note (s.heldEv v st h)) (s.setCore v (c.setStr st { c.str st with hold := k }))

/-- Makes the waiting releases of all four streams of core v. -/
def State.flushAt (s : State) (v : Nat) : State :=
  (((s.flushStr v .C).flushStr v .L).flushStr v .M).flushStr v .V

/-- Adds a release to what a stream holds. -/
def Core.hold (c : Core) (st : Stream) (a : HAct) : Core :=
  { c with nextId := c.nextId + 1 }.setStr st { c.str st with hold := (c.str st).hold ++ [Held.mk c.nextId a] }

/-- An M instruction joins the M queue, where it finishes in order (R201). -/
def Core.enqueue (c : Core) (op : MOp) (push : BitVec 2) (x : BitVec 32) : Core :=
  { c with mq := c.mq ++ [⟨c.nextId, op, push, x, (c.str .M).pc, 0, none⟩], nextId := c.nextId + 1 }

/-- Queues the push of a finished instruction (R13); code 0b00 names no peer. -/
def Core.push (c : Core) (st : Stream) (code : BitVec 2) (x : BitVec 32) : Core :=
  match peer st code with
  | none => c
  | some p => c.hold st (.push p x)

/-- Moves a stream's offset on by the halfwords of the word that it has issued. -/
def Core.advance (c : Core) (st : Stream) (hw : Nat) : Core :=
  c.setStr st
    { c.str st with off := (c.str st).off + hw, last := if hw = 0 then (c.str st).last else (c.str st).off }

/-! ### Issue (R11, R13, R146) -/

/-- What an instruction does once its tokens are there: it waits, it faults with nothing performed, it takes effect
and finishes with a payload for its push, or it takes effect and finishes later. -/
inductive Eff where
  | wait
  | fault (c : Cause) (addr : Nat)
  | go (s : State) (payload : BitVec 32)
  | late (s : State)

/-- Whether a stream moves: the task is not parked, or the stream is C in the task's handler (R19, R271). -/
def Core.moves (c : Core) (st : Stream) : Bool :=
  c.st == .placed || c.st == .running || c.st == .exiting ||
    (c.st == .parked && c.inHandler && !c.hstop && st == .C)

/-- Whether a push of a stream is due and its queue is full, which holds the stream (R13). -/
def Core.pushFull (c : Core) (st : Stream) : Bool :=
  (c.str st).hold.any (fun h => c.releasable st h.id &&
    (match h.act with | .push p _ => decide (8 ≤ (c.queue st p).length) | _ => false))

/-- Whether a stream may issue: it moves, it has not ended, no full queue holds it (R13), and it waits on no acquire, faulted
access, `waitw`, engine request or write of %dphase or %dstep in this C-cycle. -/
def Core.canIssue (c : Core) (st : Stream) : Bool :=
  c.moves st && !(c.str st).ended && !c.pushFull st && c.acquired st &&
    c.acc.all (fun a => a.st != st || !a.stuck || c.holds a) && (st != .C || (c.waitw.isNone && c.engReq.isNone && !c.srDue))

/-- The POP code of a word, from its first halfword; a header has none (R127, R128). -/
def popOf (h : Half) : BitVec 2 := if fld h.toNat 10 5 = 31 then 0 else BitVec.ofNat 2 (fld h.toNat 8 2)

/-- Whether a word with a POP code waits for its token (R11, R13). -/
def Core.popWaits (c : Core) (st : Stream) (pop : BitVec 2) : Bool :=
  match peer st pop with
  | none => false
  | some p => (c.queue p st).isEmpty || !c.released st || (p == .C && c.srDue)

/-- Completes an issue from its effect: `hw` halfwords of code, `push` its PUSH code. -/
def Eff.finish (s : State) (v : Nat) (st : Stream) (hw : Nat) (push : BitVec 2) : Eff → State
  | .wait => s
  | .fault cause addr => s.park v ((s.core v).recOf st cause addr)
  | .go s' payload =>
    (s'.setCore v ((((s'.core v).start s.now).advance st hw).push st push payload)).flushAt v
  | .late s' => (s'.setCore v (((s'.core v).start s.now).advance st hw)).flushAt v

/-- A word that breaks R146 faults when it would issue: one that still waits raises nothing. -/
def Eff.checked (wf : Bool) : Eff → Eff
  | .wait => .wait
  | e => if wf then e else .fault .illegal 0

/-- The event of a pop of core v, which leaves `n` tokens: an acquire of core scope (R93). -/
def State.popEv (s : State) (v : Nat) (p st : Stream) (n : Nat) : Ev :=
  { s.event v st.ix (4 * (s.core v).nextId) 16 with kind := .pop (queueNo p st) n, acq := 1 }

/-- Issues a word of stream `st` of the moving core (R11): an instruction whose pop queue is empty waits; a word that breaks
R146 is an illegal-instruction fault at the moment at which it would issue, and pops nothing; the pop takes place at issue,
and not when the instruction faults or waits; it is an acquire (R13), which waits for the stream's releases (R89, kind 5). `f`
is the effect, from the state after the pop and the payload popped (0 when none). -/
def issue (s : State) (st : Stream) (i : Instr) (tk : Tok) (hw : Nat) (f : State → BitVec 32 → Eff) : Res :=
  let v := s.turn.core
  let c := s.core v
  if c.canIssue st then
    match peer st tk.pop with
    | none => .next (((f s 0).checked (i.wf st)).finish s v st hw tk.push)
    | some p =>
      match c.queue p st with
      | [] => .next s
      | x :: r =>
        if c.released st ∧ (p ≠ .C ∨ !c.srDue) then
          .next (((f ((s.setCore v (c.setQueue p st r)).note (s.popEv v p st r.length)) x).checked (i.wf st)).finish s v st hw tk.push)
        else .next s
  else .next s

/-- No token. -/
def Tok.none : Tok := ⟨0, 0⟩

/-- An effect on the moving core alone, finishing at once with payload 0. -/
def onCore (s : State) (f : Core → Core) : Eff := .go (s.setCore s.turn.core (f s.cur)) 0

/-- s-registers whose value a pending load, atomic or engine request has yet to write (R148). -/
def Core.sBusy (c : Core) (rs : List (BitVec 5)) : Bool :=
  c.fl.any (fun f =>
    !c.acc.any (fun a => a.grp == f.grp && c.holds a) &&
      match f.dest with
      | .sreg d _ _ => rs.any (fun r => r.toNat == d && r != 0)
      | .spair d => rs.any (fun r => (r.toNat == d || r.toNat == d + 1) && r != 0)
      | _ => false)

/-- X rows that a pending V load has yet to write, or that a pending access of V to X touches (R212, R89 kind 2). -/
def Core.rowBusy (c : Core) (rows : List Nat) : Bool :=
  c.fl.any (fun f => match f.dest with | .vrow r => rows.contains r | _ => false) ||
    c.acc.any (fun a => a.st == .V && a.space == .B .X && rows.contains (a.addr / 256))

/-- A C instruction of one 32-bit word whose registers are `rs` and whose effect is on the core alone. -/
def cOp (s : State) (i : Instr) (tk : Tok) (rs : List (BitVec 5)) (f : Core → Core) : Res :=
  issue s .C i tk 2 (fun s _ => if s.cur.sBusy rs then .wait else onCore s f)

/-- A compact C instruction (R176). -/
def cCompact (s : State) (i : Instr) (rs : List (BitVec 5)) (f : Core → Core) : Res :=
  issue s .C i Tok.none 1 (fun s _ => if s.cur.sBusy rs then .wait else onCore s f)

/-- An L instruction of one 32-bit word whose effect is on the core alone. -/
def lOp (s : State) (i : Instr) (tk : Tok) (f : Core → Core) : Res := issue s .L i tk 2 (fun s _ => onCore s f)

/-- A V instruction of one 32-bit word that names the X rows `rows` of the core and whose effect is on the core alone. -/
def vOp (s : State) (i : Instr) (tk : Tok) (rows : Core → List Nat) (f : Core → Core) : Res :=
  issue s .V i tk 2 (fun s _ => if s.cur.rowBusy (rows s.cur) then .wait else onCore s f)

/-! ### Granules and accesses (R87) -/

/-- The largest granule of 16, 8, 4, 2, 1 that starts at `a` and fits `n` bytes (R87). -/
def granule (a n : Nat) : Nat :=
  if 16 ≤ n ∧ a % 16 = 0 then 16
  else if 8 ≤ n ∧ a % 8 = 0 then 8
  else if 4 ≤ n ∧ a % 4 = 0 then 4
  else if 2 ≤ n ∧ a % 2 = 0 then 2
  else 1

/-- Granules(a, n) of R87 as (address, size, position in the access); `fuel` bounds their number. -/
def granulesGo : Nat → Nat → Nat → Nat → List (Nat × Nat × Nat)
  | 0, _, _, _ => []
  | fuel + 1, a, n, pos =>
    if n = 0 then []
    else
      let g := granule a n
      (a, g, pos) :: granulesGo fuel (a + g) (n - g) (pos + g)

def granules (a n : Nat) : List (Nat × Nat × Nat) := granulesGo n a n 0

/-- One access of an instruction before it is split: its bytes start at position `pos` of the instruction's data. -/
structure Spec where
  space : Space
  addr : Nat
  n : Nat
  pos : Nat
  kind : AccKind
  deriving DecidableEq, Repr

/-- The part of a granule's kind: a store keeps its own bytes. -/
def AccKind.slice (k : AccKind) (pos n : Nat) : AccKind :=
  match k with
  | .store d => .store ((d.drop pos).take n)
  | k => k

/-- The granules of an access, numbered from `id`. -/
def Spec.split (sp : Spec) (proto : Acc) : List Acc :=
  (granules sp.addr sp.n).map fun (a, n, p) =>
    { proto with space := sp.space, addr := a, n := n, pos := sp.pos + p, kind := sp.kind.slice p n }

/-- Numbers accesses in order. -/
def numberAccs : Nat → List Acc → List Acc
  | _, [] => []
  | n, a :: r => { a with id := n } :: numberAccs (n + 1) r

/-- Hands the accesses of one instruction to the memory system, with what becomes of the bytes they return. `late`
says that the instruction finishes only when they have performed, and pushes then. -/
def Core.launch (c : Core) (st : Stream) (specs : List Spec) (cls scope pol : Nat) (dest : Dest) (late : Bool)
    (push : BitVec 2) : Core :=
  let grp := c.nextId
  let proto : Acc := ⟨0, grp, st, .G, 0, 0, 0, .load, cls, scope, pol, (c.str st).pc, false⟩
  let accs := numberAccs (grp + 1) (specs.map (fun sp => sp.split proto)).flatten
  { c with
    nextId := grp + 1 + accs.length
    acc := c.acc ++ accs
    fl := if late then c.fl ++ [⟨grp, st, dest, [], match dest with | .vrow _ => (if cls < 16 then accs else []) | _ => [], push, (c.str st).pc⟩] else c.fl }

/-! ### Scratchpad addresses (R4, R68) -/

/-- Whether core `v` may reach the scratchpad of core `w` (R24). -/
def Core.mayReach (c : Core) (v w : Nat) : Bool :=
  clusterOf v == clusterOf w ||
    (match c.task with | some t => t.gang.contains w | none => false)

/-- The core and offset of an SG: address, or none when R68 makes it an access-list fault. -/
def Core.sgTarget (c : Core) (v : Nat) (a : Reg) : Option (Nat × Nat) :=
  let x := a.toNat
  let comb := fld x 28 2
  let cl := fld x 24 4
  let co := fld x 18 6
  let w := (comb * 12 + cl) * 48 + co
  if x / 2 ^ 30 = 0 ∧ cl ≤ 11 ∧ co ≤ 47 ∧ c.mayReach v w then some (w, x % 2 ^ 18) else none

/-- The conditions of `waitw`, on unsigned 32-bit values (R163). -/
def waitCond (cond : Nat) (w x : BitVec 32) : Bool :=
  match cond with
  | 0 => w == x
  | 1 => w != x
  | 2 => !w.ult x
  | _ => w.ult x

/-- The 32-bit word at an offset of S:. -/
def Core.sWord (c : Core) (off : Nat) : BitVec 32 := BitVec.ofNat 32 (leNat (c.bytes .S off 4))

/-! ### Blocks (R15, R129–R132) -/

/-- The address of a phase's block in the loop record of the task; 0 when the phase is empty (R15). -/
def Core.phaseAddr (c : Core) (st : Stream) (ph : Nat) : Nat :=
  match c.task with
  | none => 0
  | some t =>
    let a := ((t.loop.getD st.ix []).getD ph 0)
    if ph = 1 then (if t.trip = 0 then 0 else a) else a

/-- The stream after its loop record's phases up to `ph`: the first phase from `ph` on that is not empty is entered;
after the last the stream has ended (R15). -/
def Core.enterPhase (c : Core) (st : Stream) (ph : Nat) : Core :=
  let r := c.str st
  let go (p a : Nat) : Core :=
    c.setStr st { r with phase := p, blk := Block.entering a (p == 1) false, off := 0, ended := false }
  let a0 := c.phaseAddr st 0
  let a1 := c.phaseAddr st 1
  let a2 := c.phaseAddr st 2
  if ph = 0 ∧ a0 ≠ 0 then go 0 a0
  else if ph ≤ 1 ∧ a1 ≠ 0 then go 1 a1
  else if ph ≤ 2 ∧ a2 ≠ 0 then go 2 a2
  else c.setStr st { r with ended := true }

/-- V loads that have not returned whole issue again in full (R231, R238). -/
def Core.reissue (c : Core) : Core :=
  let again (f : Flight) : Bool := !f.all.isEmpty
  { c with
    acc := c.acc.filter (fun a => !c.fl.any (fun f => f.grp == a.grp && again f)) ++ (c.fl.filter again).flatMap (·.all)
    fl := c.fl.map (fun f => if again f then { f with got := [] } else f) }

/-- A loop buffer without the halfwords whose fetch faulted: they are fetched again. -/
def Strm.refetch (r : Strm) : Strm :=
  { r with lb := r.lb.map (fun h => match h with | some f => if f.bad.isSome then none else some f | none => none) }

/-- A core returns to the state it held before parking (Table 1.5): faulted accesses and commands try again. -/
def Core.goBack (now : Now) (c0 : Core) : Core :=
  let c := c0.reissue
  { c with
    st := c.before
    cycFrom := now
    causes := []
    settled := false
    framed := false
    frameHeld := false
    returning := false
    pages := []
    strm := c.strm.map Strm.refetch
    acc := c.acc.map (fun a => { a with stuck := false })
    lcmds := c.lcmds.map (fun l => { l with faulted := none }) }

/-- A core whose handler had faulted returns to it: the handler's own accesses try again (R271, R306). -/
def Core.handlerOn (now : Now) (c : Core) : Core :=
  let c1 : Core :=
    { c with
      task := c.task.map (fun t => { t with hfrom := now.slot })
      hstop := false
      returning := false
      acc := c.acc.map (fun a => if c.hid ≤ a.id then { a with stuck := false } else a) }
  c1.setStr .C (c1.str .C).refetch

/-- A core goes on: in the handler that a fault of its own has stopped, or as it was before it parked. -/
def Core.goOn (now : Now) (c : Core) : Core := if c.inHandler then c.handlerOn now else c.goBack now

/-- The side log replays, and the core then goes on (R306). -/
def Core.replayAll (now : Now) (c : Core) : Core :=
  if c.slog.isEmpty then c.goOn now
  else
    { c with
      slog := c.slog.map (fun e => { e with due := true })
      returning := true, causes := [], settled := true, frameHeld := false, pages := [] }

/-- A resumption (R306): the side log replays, and the core then returns to the state it held before parking. A handler that
runs has ended, and a `waitw` that waited at its entry waits again (R163, R271). -/
def Core.resume (now : Now) (c0 : Core) : Core :=
  let c : Core :=
    { c0.handlerUsed now with
      inHandler := false
      hstop := false
      waitw := if c0.inHandler then c0.heldW else c0.waitw
      heldW := none }
  c.replayAll now

/-- A return to the newest entry of the return stack (R132, R165); a return to the entry that a handler entry made
resumes the core (R271). -/
def Core.popRet (now : Now) (c : Core) : Core :=
  match c.ret with
  | [] => c
  | e :: r =>
    if e.handler then
      ({ c with ret := r }.setStr .C { c.str .C with blk := e.blk, off := e.off, ended := c.before == TSt.exiting }).resume now
    else { c with ret := r }.setStr .C { c.str .C with blk := e.blk, off := e.off, last := e.off - 2 }

/-- The phase of C ends with saved entries on the return stack: an illegal-instruction fault at its last word (R165; log
entry 55). -/
def Core.badEnd (now : Now) (c : Core) : Core :=
  let c1 := c.setStr .C { c.str .C with off := (c.str .C).last }
  c1.park now (c1.recOf .C .illegal 0)

/-- The end of a stream's block (R129, R132, R165): a called block returns; any other ends its phase, and C's return stack
must then be empty. -/
def Core.endBlock (now : Now) (st : Stream) (c : Core) : Core :=
  if st = .C then
    if (c.str .C).blk.called then c.popRet now
    else if !c.ret.isEmpty then c.badEnd now
    else (c.enterPhase .C ((c.str .C).phase + 1)).implicitExit
  else c.enterPhase st ((c.str st).phase + 1)

/-- The write of the stage predicate at the start of run i (R130): all ones while i < n. DEDUCED (log entry 78): R253 says that the
predicate of a stage j ≥ n is never set; by R130 stage j reads in run j what run 0 wrote, whatever j is, and the model follows R130. -/
def Core.stageWrite (c : Core) (i n : Nat) : Core := c.setP 8 (if i < n then BitVec.allOnes 128 else 0)

/-- Clears the physical predicates 8–15 (R130). -/
def Core.clearStages (c : Core) : Core :=
  { c with p := Vector.ofFn fun j => if j.val < 8 then c.p[j.val] else 0 }

end Sys2Proof.Machine
end

