-- ==== Sys2Proof/Machine/Registers.lean ====
section
/-! DEFINITION. The system registers by BAR0 offset (Tables 16.4, 16.5, 17.7, 17.8, 19.7–19.10, 20.6, 20.7, 22.4):
their places, their reset values, and reading and writing their storage. Registers lie in 64-bit words at multiples
of 8; the byte tables of the layout and the calendar are read by byte. -/

namespace Sys2Proof.Machine

open Sys2Proof

/-! ### Offsets -/

def schCtrl : Nat := 0x0000
def schFeat : Nat := 0x0008
def schEvt : Nat := 0x0010
def schFlog : Nat := 0x0018
def schPend : Nat := 0x0100
def qsBase (i : Nat) : Nat := 0x1000 + 0x40 * i
def qsCfg (i : Nat) : Nat := 0x1008 + 0x40 * i
def qsStat (i : Nat) : Nat := 0x1010 + 0x40 * i
def schBudget (p : Nat) : Nat := 0x5000 + 0x40 * p
def schAge (p : Nat) : Nat := 0x5008 + 0x40 * p
def schPre (p : Nat) : Nat := 0x5010 + 0x40 * p
def schArst (p : Nat) : Nat := 0x5018 + 0x40 * p
def schStat (p : Nat) : Nat := 0x5020 + 0x40 * p
def xltRoot (p : Nat) : Nat := 0x8000 + 0x80 * p
def xltCfg (p : Nat) : Nat := 0x8008 + 0x80 * p
/-- BASE of a tier: 0 HBM, 1 LPDDR. -/
def xltBase (p tier : Nat) : Nat := 0x8010 + 0x80 * p + 0x10 * tier
def xltBound (p tier : Nat) : Nat := 0x8018 + 0x80 * p + 0x10 * tier
def xltInv (p : Nat) : Nat := 0x8030 + 0x80 * p
def xltInvst (p : Nat) : Nat := 0x8038 + 0x80 * p
def xltPrq (p : Nat) : Nat := 0x8040 + 0x80 * p
def fltFbase (p : Nat) : Nat := 0x9000 + 0x80 * p
def fltQbase (p : Nat) : Nat := 0x9008 + 0x80 * p
def fltQcfg (p : Nat) : Nat := 0x9010 + 0x80 * p
def fltCmd (p : Nat) : Nat := 0x9018 + 0x80 * p
def fltEvt (p : Nat) : Nat := 0x9020 + 0x80 * p
def fltPksel (p : Nat) : Nat := 0x9028 + 0x80 * p
def fltParked (p : Nat) : Nat := 0x9030 + 0x80 * p
def prtCtrl : Nat := 0xA000
def prtJrnl : Nat := 0xA008
def prtCst : Nat := 0xA010
def prtEvt : Nat := 0xA018
def prtQint : Nat := 0xA020
def prtClOwn : Nat := 0xA100
def prtClAct : Nat := 0xA180
def prtClstat : Nat := 0xA200
/-- Staged range of a tier. -/
def prtRange (p tier : Nat) : Nat := 0xB000 + 0x40 * p + 8 * tier
def prtWfloor (p : Nat) : Nat := 0xB010 + 0x40 * p
def prtActRange (p tier : Nat) : Nat := 0xB018 + 0x40 * p + 8 * tier
def prtActWfloor (p : Nat) : Nat := 0xB028 + 0x40 * p
def prtWays (p : Nat) : Nat := 0xB030 + 0x40 * p
def prtStat (p : Nat) : Nat := 0xB038 + 0x40 * p
def hstCap : Nat := 0xC000
def hstEvt : Nat := 0xC008
def hstPri (p : Nat) : Nat := 0xC100 + 0x10 * p
def lnkPkgid : Nat := 0xD000
def lnkRlyCfg : Nat := 0xD008
def lnkUeCfg : Nat := 0xD010
def lnkEvt : Nat := 0xD018
def lnkRlyStat (i : Nat) : Nat := 0xD100 + 8 * i
def lnkPlbase (p : Nat) : Nat := 0xD200 + 0x10 * p
def lnkPlen (p : Nat) : Nat := 0xD208 + 0x10 * p
def lnkUeIdx : Nat := 0xD800
def lnkUeConn : Nat := 0xD810
def lnkUeWin : Nat := 0xD820
def lsePccap : Nat := 0xE000
def lseSwcap : Nat := 0xE008
def lseUsed : Nat := 0xE010
def lseCmd : Nat := 0xE018
def lseCres : Nat := 0xE020
def lseEvt : Nat := 0xE028
def lseLast : Nat := 0xE030
def lseBudget (p : Nat) : Nat := 0xE400 + 0x20 * p
def lsePUsed (p : Nat) : Nat := 0xE408 + 0x20 * p
def lseRes (p : Nat) : Nat := 0xE410 + 0x20 * p
def lseK (p : Nat) : Nat := 0xE418 + 0x20 * p
def capKctl (p : Nat) : Nat := 0xF000 + 0x40 * p
def capSweep (p : Nat) : Nat := 0xF008 + 0x40 * p
def capPtr (p tier : Nat) : Nat := 0xF010 + 0x40 * p + 8 * tier
def capPin (p : Nat) : Nat := 0xF020 + 0x40 * p
def capFail (p : Nat) : Nat := 0xF028 + 0x40 * p
def capEvt : Nat := 0xF800
def capFlogR : Nat := 0xF808
/-- Slot table k (0 MESH, 1 MEM, 2 ENG, 3 LINK) of a comb, staged; entry s is the byte at s. -/
def calStaged (comb k : Nat) : Nat := 0x10000 + 0x1000 * comb + 0x200 * k
def calActive (comb k : Nat) : Nat := 0x10800 + 0x1000 * comb + 0x200 * k
def calStretch : Nat := 0x14000
def calSlip (p : Nat) : Nat := 0x14100 + 0x20 * p
def calSlipclr (p : Nat) : Nat := 0x14110 + 0x20 * p
def mgtStat : Nat := 0x20000
def mgtFwver : Nat := 0x20008
def mgtFwcmt : Nat := 0x20010
def mgtFeatDev : Nat := 0x20018
def mgtWdt : Nat := 0x20020
def mgtRasCe : Nat := 0x20028
def mgtRasEvt : Nat := 0x20030
def mgtSpare : Nat := 0x20038
def mgtCemax : Nat := 0x20040

/-- The Reset column of the register tables: the value of a register after a cold reset. -/
def regReset (off : Nat) : BitVec 64 :=
  if off = prtQint then 1000
  else if off = lnkRlyCfg then 0x00640014
  else if off = lnkUeCfg then 0x00320002
  else if off = lsePccap ∨ off = lseSwcap then 4000
  else if off = calStretch then 16
  else if off = mgtFeatDev then 0x3F
  else if off = mgtWdt then 0x03E8
  else if off = mgtCemax then 1000
  else if 0x5000 ≤ off ∧ off < 0x5800 then
    (if off % 0x40 = 0x00 then 500 else if off % 0x40 = 0x08 then 50 else 0)
  else if 0x8000 ≤ off ∧ off < 0x9000 then
    (if off % 0x80 = 0x08 then 0xF else if off % 0x80 = 0x38 then 1 else if off % 0x80 = 0x40 then 32 else 0)
  else if 0xC100 ≤ off ∧ off < 0xC300 then (if off % 0x10 = 0 then 1 else 0)
  else if 0xD200 ≤ off ∧ off < 0xD400 then (if off % 0x10 = 8 then 1 else 0)
  else if 0xE400 ≤ off ∧ off < 0xE800 then
    (if off % 0x20 = 0x10 then 0x9249 else if off % 0x20 = 0x18 then 0x444444 else 0)
  else 0

/-- The stored value of a register word. -/
def State.reg (s : State) (off : Nat) : BitVec 64 := Tab.get (regReset off) s.regs off

/-- Stores a register word. -/
def State.setReg (s : State) (off : Nat) (v : BitVec 64) : State :=
  { s with regs := Tab.set (regReset off) s.regs off v }

/-- A field of a register. -/
def State.regF (s : State) (off lo n : Nat) : Nat := fld (s.reg off).toNat lo n

/-- Sets bits of a register. -/
def State.orReg (s : State) (off : Nat) (m : BitVec 64) : State := s.setReg off (s.reg off ||| m)

/-- Replaces a field of a register. -/
def State.setRegF (s : State) (off lo n v : Nat) : State :=
  let x := (s.reg off).toNat
  s.setReg off (BitVec.ofNat 64 (x - fld x lo n * 2 ^ lo + v % 2 ^ n * 2 ^ lo))

/-- A byte of a byte table. -/
def State.regByte (s : State) (off : Nat) : Nat := s.regF (off / 8 * 8) (8 * (off % 8)) 8

/-- Stores a byte of a byte table. -/
def State.setRegByte (s : State) (off v : Nat) : State := s.setRegF (off / 8 * 8) (8 * (off % 8)) 8 v

/-- BAR0 is open from phase 5 on (R359): until then every register but MGT_STAT reads zero and ignores writes. -/
def State.barOpen (s : State) : Bool := s.regF mgtStat 0 3 == 5

/-- A write through BAR0: ignored before phase 5. -/
def State.bar (s : State) (t : State) : State := if s.barOpen then t else s

/-! ### What the registers say -/

/-- The partition of the task on core v; 0 with no task. -/
def State.partOf (s : State) (v : Nat) : Nat :=
  match (s.core v).task with | some t => t.part | none => 0

/-- ASEL of a partition (R81, Table 17.7). -/
def State.asel (s : State) (p : Nat) : Nat := s.regF (xltCfg p) 0 4

/-- The owner of cluster c in the active layout, if any (Table 19.7). -/
def State.owner (s : State) (c : Nat) : Option Nat :=
  let b := s.regByte (prtClAct + c)
  if b / 128 = 1 then some (b % 32) else none

/-- A partition is live when it owns a cluster (R317). -/
def State.liveP (s : State) (p : Nat) : Bool := (List.range 48).any (fun c => s.owner c == some p)

/-- The partition that owns slot `i` of an active table, if any (Table 19.4). -/
def State.slotOwner (s : State) (comb k i : Nat) : Option Nat :=
  let e := s.regByte (calActive comb k + i)
  if e / 128 = 1 ∧ e / 64 % 2 = 0 then some (e % 32) else none

/-- Whether a partition owns an entry of the ENG table of a comb (R103, R322). -/
def State.ownsEng (s : State) (p comb : Nat) : Bool :=
  (List.range 512).any (fun i => s.slotOwner comb 2 i == some p)

/-! ### The staged layout and the journal (R318–R320) -/

/-- Owner of a cluster in the staged layout. -/
def State.stagedOwner (s : State) (c : Nat) : Option Nat :=
  let b := s.regByte (prtClOwn + c)
  if b / 128 = 1 then some (b % 32) else none

/-- LO and HI of a range register. -/
def rangeOf (x : BitVec 64) : Nat × Nat := (fld x.toNat 0 16, fld x.toNat 16 16)

def State.stagedRange (s : State) (p t : Nat) : Nat × Nat := rangeOf (s.reg (prtRange p t))
def State.actRange (s : State) (p t : Nat) : Nat × Nat := rangeOf (s.reg (prtActRange p t))

/-- Whether a partition will be live. -/
def State.stagedLive (s : State) (p : Nat) : Bool := (List.range 48).any (fun c => s.stagedOwner c == some p)

/-- Whether a cluster's owner changes. -/
def State.ownerChanges (s : State) (c : Nat) : Bool := s.stagedOwner c != s.owner c

/-- Whether a partition's range of a tier changes. -/
def State.rangeChanges (s : State) (p t : Nat) : Bool := s.stagedRange p t != s.actRange p t

/-- Whether a partition's clusters or ranges change. -/
def State.partChanges (s : State) (p : Nat) : Bool :=
  (List.range 48).any (fun c => s.ownerChanges c && (s.stagedOwner c == some p || s.owner c == some p)) ||
    s.rangeChanges p 0 || s.rangeChanges p 1

/-- A staged slot entry. -/
def State.stagedSlot (s : State) (comb k i : Nat) : Nat := s.regByte (calStaged comb k + i)

/-- Whether a partition owns an entry of a staged table. -/
def State.stagedOwns (s : State) (comb k p : Nat) : Bool :=
  (List.range 512).any (fun i => let e := s.stagedSlot comb k i; e / 128 == 1 && fld e 6 1 == 0 && e % 32 == p)

/-- The state of the journal (Table 19.3). -/
def State.journal (s : State) : Nat := s.regF prtJrnl 0 2

/-- Whether a partition may take a lease on an engine of a comb: it owns an entry of the ENG table in force, and, while the journal
holds what it has checked, of the staged one (R319, code 5). -/
def State.mayLease (s : State) (p comb : Nat) : Bool := s.ownsEng p comb && (s.journal == 0 || s.stagedOwns comb 2 p)

/-- Whether the journal keeps a rekey sweep of a partition from starting: its clusters or ranges are to change (R319, code 1; log
entry 84). -/
def State.sweepBarred (s : State) (p : Nat) : Bool := s.journal != 0 && s.partChanges p

/-! ### Arena windows (R81) -/

/-- Whether a G: address of a partition lies in its arena window. -/
def State.inWindow (s : State) (p va : Nat) : Bool := fld va 52 4 == s.asel p

/-- The slot of an arena-window address. -/
def winSlot (va : Nat) : Nat := fld va 46 6

/-- The arena a handle names, if it is live (R80). -/
def State.arenaOf (s : State) (p handle : Nat) : Option Arena :=
  let a := Tab.get ⟨0, false, 0, [], []⟩ s.arenas (64 * p + fld handle 10 6)
  if a.live ∧ a.gen = fld handle 0 10 ∧ a.gen ≠ 0 then some a else none

/-- Whether an address of a partition is an arena-window address of a handle that is not live (R81). -/
def State.outlived (s : State) (p va : Nat) : Bool := s.inWindow p va && (s.arenaOf p (fld va 36 16)).isNone

end Sys2Proof.Machine
end

