-- ==== Sys2Proof/Machine/Translate.lean ====
section
/-! DEFINITION. Translation (R294–R300): the walk of the partition's tables, the arena map, relocation, cached
translations, host pages; and the fetch of code halfwords through it (R131). -/

namespace Sys2Proof.Machine

open Sys2Proof

/-! ### Reading device memory (R71) -/

/-- The byte at a device address as the L2 holds it: a dirty byte of a resident tile, else memory. -/
def State.devByte (s : State) (pa : Nat) : Byte := Tab.get (Tab.get 0 s.mem pa) s.l2b pa

/-- `n` bytes from a device address. -/
def State.devBytes (s : State) (pa n : Nat) : List Byte := (List.range n).map (fun i => s.devByte (pa + i))

/-- Device address where the LPDDR tier begins: HBM holds 1 TiB and LPDDR 2 TiB (R7; log entry 9). -/
def lpBase : Nat := 2 ^ 40

/-- One past the last device address. -/
def devEnd : Nat := 3 * 2 ^ 40

/-- The partition whose active range of a tier holds a device address (R317, Table 19.7); units of 512 MiB. -/
def State.ownerOf (s : State) (pa : Nat) : Option Nat :=
  let tier := if pa < lpBase then 0 else 1
  let unit := (pa - (if tier = 0 then 0 else lpBase)) / 2 ^ 29
  (List.range 32).find? (fun p =>
    decide (s.regF (prtActRange p tier) 0 16 ≤ unit ∧ unit < s.regF (prtActRange p tier) 16 16))

/-- The key that a tile's memory copy must be under now: the partition's, or during a sweep the new one below the
pointer (R335). -/
def State.keyOf (s : State) (tile : Nat) : Nat :=
  match s.ownerOf (1024 * tile) with
  | none => 0
  | some p =>
    match s.sweep.find? (fun e => e.1 == p) with
    | some (_, tier, next, new) =>
      let t := if 1024 * tile < lpBase then 0 else 1
      if t < tier ∨ (t = tier ∧ tile < next) then new else Tab.get 0 s.keys p
    | none => Tab.get 0 s.keys p

/-- Whether a tile lies in a page that is still to be sealed afresh holding zeros (R336). -/
def State.resealing (s : State) (tile : Nat) : Bool := s.reseal.any (fun r => decide (r.1 ≤ tile / 64 ∧ tile / 64 < r.2.1))

/-- Whether a read of a tile from DRAM meets an uncorrectable error: one marked so may (R366; log entry 5). -/
def State.dramErr (s : State) (tile : Nat) : Bool := s.dramBad.contains tile && Config.freeNat 16 s.tick % 2 == 1

/-! ### The cap tree (R333)

The record of a data tile is its entry of `seals`. Sixty-four records fill a record block, whose own record is its entry of
`capBlk`, and so on up; the records of a tier's last level of blocks are the roots, on the die. -/

/-- Levels of record blocks above a tile: 2^28 tiles of HBM in a comb give 1,024 roots above three levels, 2^29 of LPDDR give
32 above four. -/
def capLevels (tile : Nat) : Nat := if 1024 * tile < lpBase then 3 else 4

/-- The record block of a level that covers a tile. -/
def capBlock (tile level : Nat) : Nat := level * 2 ^ 40 + tile / 64 ^ level

/-- The first tile that a record block covers. -/
def capFirst (blk : Nat) : Nat := blk % 2 ^ 40 * 64 ^ (blk / 2 ^ 40)

/-- The tile in the cap area of its tier that holds a record block (R318). -/
def capTile (blk : Nat) : Nat :=
  Config.capBase (if 1024 * capFirst blk < lpBase then 0 else 1) (blk / 2 ^ 40) + blk % 2 ^ 40

/-- The memory controller of a tile: one of the 16 of HBM, four in each comb, or one of those of the LPDDR tier, of which every comb
has as many (R7; log entry 9). -/
def controllerOf (tile : Nat) : Nat :=
  if 1024 * tile < lpBase then Config.controller tile % 16 else 16 + Config.controller tile % (4 * (Config.lpControllers + 1))

/-- The record block that holds the record of a block. -/
def capParent (blk : Nat) : Nat := blk / 2 ^ 40 * 2 ^ 40 + 2 ^ 40 + blk % 2 ^ 40 / 64

/-- Whether a block's record is a root. -/
def capTop (blk : Nat) : Bool :=
  decide (capLevels (capFirst blk) ≤ blk / 2 ^ 40)

/-- The line of the cap cache that holds a block. -/
def State.capLine (s : State) (blk : Nat) : Option CapLine := s.capCache.find? (fun l => l.blk == blk)

/-- The blocks that a fill reads to verify a tile: up to one that the cap cache holds; `fuel` levels are left. -/
def State.capChain (s : State) : Nat → Nat → List Nat
  | 0, _ => []
  | fuel + 1, blk => if (s.capLine blk).isSome then [] else blk :: (if capTop blk then [] else s.capChain fuel (capParent blk))

/-- The blocks to be verified above a tile. -/
def State.capPath (s : State) (tile : Nat) : List Nat := s.capChain (capLevels tile) (capBlock tile 1)

/-- Whether every block that a fill reads verifies: a failure at any level is one of the fill (R333). -/
def State.capOk (s : State) (tile : Nat) : Bool := (s.capPath tile).all (fun b => !s.dramErr (capTile b))

/-- Whether the record of a tile is of the key in force. -/
def State.keyed (s : State) (tile : Nat) : Bool :=
  s.keyOf tile != 0 && (Tab.get ⟨0, 0, 0⟩ s.seals tile).key == s.keyOf tile

/-- Whether a tile verifies: it is resident, or its record is of the key in force, its read from DRAM is not uncorrectable,
and every record block above it verifies (R75, R77, R333; log entry 10). -/
def State.verifies (s : State) (tile : Nat) : Bool :=
  s.l2.any (fun t => t.tile == tile) || (s.keyed tile && !s.dramErr tile && s.capOk tile)

/-! ### The walk (R294–R296) -/

/-- The kind of an access to translate (R296). -/
inductive XKind where
  | read | write | code
  deriving DecidableEq, Repr

/-- A translation: a host page, or a device address; the page's maximum policy and what a TLB would hold. -/
structure Xlat where
  host : Bool
  pa : Nat
  cmax : Nat
  ent : Tlb
  deriving DecidableEq, Repr

/-- Relocate(pa, tier) of R296 for an access of `n` bytes. -/
def State.relocate (s : State) (p pa tier n : Nat) : Except Cause Nat :=
  if (s.reg (xltBound p tier)).toNat < pa + n then .error .bound
  else .ok ((s.reg (xltBase p tier)).toNat + pa)

/-- A level of Table 17.1: lowest index bit, index width, bits of the table below, bits of a leaf page. -/
structure Level where
  lo : Nat
  width : Nat
  below : Nat
  page : Nat

def levels : List Level := [⟨42, 14, 16, 0⟩, ⟨29, 13, 11, 29⟩, ⟨21, 8, 8, 21⟩, ⟨16, 5, 0, 16⟩]

/-- Whether an entry is malformed at a level (R295). -/
def malformed (l : Level) (e : Nat) : Bool :=
  let addr := fld e 8 44 * 256
  let t := fld e 1 1
  let h := fld e 4 1
  (t == 1 && l.below == 0) || (t == 0 && l.page == 0) ||
    (t == 1 && (addr % 2 ^ l.below != 0 || h == 1)) ||
    (t == 0 && (addr % 2 ^ l.page != 0 || (h == 1 && (addr != 0 || fld e 7 1 != 0))))

/-- The tiles whose entries a walk reads, in order (R296). -/
def State.walkTiles (s : State) (p va : Nat) : List Level → Nat → Nat → List Nat
  | [], _, _ => []
  | l :: ls, table, tier =>
    match s.relocate p (table + 8 * fld va l.lo l.width) tier 8 with
    | .error _ => []
    | .ok pa =>
      if s.resealing (pa / 1024) ∨ !s.verifies (pa / 1024) then [pa / 1024]
      else
        let e := leNat (s.devBytes pa 8)
        if malformed l e ∨ fld e 0 1 = 0 ∨ fld e 1 1 = 0 then [pa / 1024]
        else pa / 1024 :: s.walkTiles p va ls (fld e 8 44 * 256) (fld e 7 1)

/-- The leaf that a walk from a table reaches, or its fault; the reading of an entry is a verified read (R296). An entry of
a page that is being sealed afresh reads zero, an invalid entry (R336). -/
def State.walk (s : State) (p va : Nat) : List Level → Nat → Nat → Except Cause (Level × Nat)
  | [], _, _ => .error .translation
  | l :: ls, table, tier =>
    match s.relocate p (table + 8 * fld va l.lo l.width) tier 8 with
    | .error c => .error c
    | .ok pa =>
      if s.resealing (pa / 1024) then .error .translation
      else if !s.verifies (pa / 1024) then .error .capFailure
      else
        let e := leNat (s.devBytes pa 8)
        if malformed l e ∨ fld e 0 1 = 0 then .error .translation
        else if fld e 1 1 = 0 then .ok (l, e)
        else s.walk p va ls (fld e 8 44 * 256) (fld e 7 1)

/-- Arena-window translation (R297): generation, size, then the 64 KiB page of the arena. -/
def State.walkArena (s : State) (p va : Nat) (k : XKind) (n : Nat) : Except Cause Xlat :=
  match s.arenaOf p (fld va 36 16) with
  | none => .error .outlived
  | some a =>
    let off := va % 2 ^ 36
    if a.pages.length * 2 ^ 16 ≤ off then .error .translation
    else if k = .code then .error .protection
    else
      let page := a.pages.getD (off / 2 ^ 16) 0
      match s.relocate p (page + off % 2 ^ 16) a.tier n with
      | .error c => .error c
      | .ok pa =>
        .ok ⟨false, pa, 2,
          ⟨0, p, va / 2 ^ 16 * 2 ^ 16, 2 ^ 16, false, pa - off % 2 ^ 16, a.tier, page, (s.reg (xltBound p a.tier)).toNat, true,
            true, true, false, 2⟩⟩

/-- The TLBs that serve an access: those of a core and of its cluster (R298), or, for the accesses of engines, one of the
device (log entry 58). `who` is the core, numCores for an engine, or numCores + 64 + v for a code fetch of core v. -/
def tlbsOf (who : Nat) : List Nat :=
  if who < numCores then [who, numCores + 1 + clusterOf who]
  else if who < numCores + 64 then [numCores + 49]
  else [who - (numCores + 64), numCores + 1 + clusterOf (who - (numCores + 64))]

/-- Whether host translations are on (ATSEN, R310), and the PASID that requests carry, if any (R300). -/
def State.atsOn (s : State) (p : Nat) : Bool := s.regF (xltCfg p) 25 1 == 1
def State.pasid (s : State) (p : Nat) : Option Nat := if s.regF (xltCfg p) 24 1 = 1 then some (s.regF (xltCfg p) 4 20) else none

/-- Whether a TLB entry that serves `who` translates an address of a partition for an access of a kind. The arena window
goes only through the arena map (R294). -/
def State.serves (s : State) (who p va : Nat) (k : XKind) (t : Tlb) : Bool :=
  (tlbsOf who).contains t.holder && t.part == p && decide (t.va ≤ va ∧ va < t.va + t.size) && t.arena == s.inWindow p va &&
    (!t.host || (s.atsOn p && (if k = .write then t.write else t.read)))

/-- HostTranslate (R300) against the cached host translations: none yet means a request must go out. -/
def State.hostXlat (s : State) (who p va : Nat) (k : XKind) : Except Cause Xlat :=
  if !s.atsOn p then .error .hostRefused
  else
    match s.tlb.find? (fun t => t.host && s.serves who p va k t) with
    | some t => .ok ⟨true, va, 0, t⟩
    | none => .error .hostOutstanding

/-- Translate(va, kind) of R296 for one granule of `n` bytes, from the tables. -/
def State.walkAll (s : State) (who p va : Nat) (k : XKind) (n : Nat) : Except Cause Xlat :=
  if s.inWindow p va then s.walkArena p va k n
  else
    let root := (s.reg (xltRoot p)).toNat
    if root % 2 = 0 then .error .translation
    else
      match s.walk p va levels (fld root 17 35 * 2 ^ 17) (fld root 1 1) with
      | .error c => .error c
      | .ok (l, e) =>
        if k = .write ∧ fld e 2 1 = 0 then .error .protection
        else if k = .code ∧ fld e 3 1 = 0 then .error .protection
        else if fld e 4 1 = 1 then s.hostXlat who p va k
        else
          let page := fld e 8 44 * 256
          let o := va % 2 ^ l.page
          match s.relocate p (page + o) (fld e 7 1) n with
          | .error c => .error c
          | .ok pa =>
            .ok ⟨false, pa, fld e 5 2,
              ⟨0, p, va / 2 ^ l.page * 2 ^ l.page, 2 ^ l.page, false, pa - o, fld e 7 1, page,
                (s.reg (xltBound p (fld e 7 1))).toNat, false, true, fld e 2 1 == 1, fld e 3 1 == 1, fld e 5 2⟩⟩

/-- The cached translation that an access of `n` bytes uses, if any: a changed entry may be used in its old form until it is
invalidated or evicted, granule by granule (R298, R299, R309); which form is left open. -/
def State.hit (s : State) (who p va : Nat) (k : XKind) : Option Tlb :=
  match s.tlb.filter (s.serves who p va k) with
  | [] => none
  | t :: ts => (t :: ts)[Config.freeNat 1 (s.tick * 2 ^ 56 + va) % (ts.length + 2)]?

/-- An access through a cached leaf. -/
def Tlb.use (t : Tlb) (va : Nat) (k : XKind) (n : Nat) : Except Cause Xlat :=
  if k = .write ∧ !t.write then .error .protection
  else if k = .code ∧ !t.exec then .error .protection
  else if t.host then .ok ⟨true, va, 0, t⟩
  else if t.bound < t.tierPa + (va - t.va) + n then .error .bound
  else .ok ⟨false, t.pa + (va - t.va), t.cmax, t⟩

/-- Translation of a granule for `who`. -/
def State.translate (s : State) (who p va : Nat) (k : XKind) (n : Nat) : Except Cause Xlat :=
  match s.hit who p va k with
  | none => s.walkAll who p va k n
  | some t => t.use va k n

/-- The tiles of table entries that the translation of a granule reads. -/
def State.xlatTiles (s : State) (who p va : Nat) (k : XKind) : List Nat :=
  let root := (s.reg (xltRoot p)).toNat
  if (s.hit who p va k).isSome || s.inWindow p va || root % 2 == 0 then []
  else s.walkTiles p va levels (fld root 17 35 * 2 ^ 17) (fld root 1 1)

/-- Caches a leaf in one TLB: 128 entries in a core's, 4,096 in a cluster's (R298); which entry makes room is left open. -/
def cacheIn (tick holder : Nat) (e : Tlb) (l : List Tlb) : List Tlb :=
  let e1 : Tlb := { e with holder := holder }
  if l.contains e1 then l
  else
    let own := l.filter (fun t => t.holder == holder)
    if own.length < (if holder < numCores then 128 else 4096) then e1 :: l
    else e1 :: l.erase (own.getD (Config.freeNat 23 tick % own.length) e1)

/-- The state with a leaf translation cached for `who` (R298). -/
def State.cache (s : State) (who : Nat) (x : Xlat) : State :=
  { s with tlb := (tlbsOf who).foldl (fun l h => cacheIn s.tick h x.ent l) s.tlb }

/-! ### Code fetch (R126, R131) -/

/-- The key of a halfword of code in an instruction cache. -/
def codeKey (p va : Nat) : Nat := p * 2 ^ 56 + va

/-- One halfword of code of core v at a G: address of a partition as memory holds it, or the cause that its word raises when
it would issue; a host page is refused to a partition whose function is in ERROR (R343). -/
def State.fetchMem (s : State) (v p va : Nat) : Fetched :=
  match s.translate (numCores + 64 + v) p va .code 2 with
  | .error c => ⟨some c, 0⟩
  | .ok x =>
    if x.host then
      if Tab.get .unlocked s.tdi p = Tdi.error then ⟨some .hostRefused, 0⟩
      else ⟨none, BitVec.ofNat 16 (leNat [Tab.get 0 s.hostMem (codeKey p va), Tab.get 0 s.hostMem (codeKey p va + 1)])⟩
    else if s.resealing (x.pa / 1024) then ⟨none, 0⟩
    else if !s.verifies (x.pa / 1024) then ⟨some .capFailure, 0⟩
    else ⟨none, BitVec.ofNat 16 (leNat (s.devBytes x.pa 2))⟩

/-- The halfword in core v's instruction cache, while it has not been evicted: when that is, is left open (R131). -/
def State.codeHit (s : State) (v p va : Nat) : Option Half :=
  match (s.core v).icache.find? (fun e => e.1 == codeKey p va) with
  | some e => if Config.freeNat 22 (s.tick * 2 ^ 56 + va) % 2 = 0 then some e.2 else none
  | none => none

/-- One halfword of code as core v fetches it: from its instruction cache, else from memory (R10, R131). One past the last address
of G: is an addressing fault (R4). -/
def State.fetchHalf (s : State) (v p va : Nat) : Fetched :=
  if 2 ^ 56 < va + 2 then ⟨some .addressing, 0⟩
  else
    match s.codeHit v p va with
    | some h => ⟨none, h⟩
    | none => s.fetchMem v p va

/-- Whether the loop buffer holds the block in which the stream stands. -/
def Strm.current (r : Strm) : Bool := r.lbAddr == r.blk.addr && (r.blk.len != 0 || r.lbOk)

/-- Whether the halfword at offset `o` of the stream's block is in its loop buffer. -/
def Strm.holds (r : Strm) (o : Nat) : Bool := r.current && (r.lb.getD o none).isSome

/-- The halfword at offset `o` of the stream's block: from its loop buffer when it holds the block, else fetched. After a call
whose callee has replaced the loop buffer, the caller's words are fetched one by one; a long block's words after an `ifence` are
fetched from memory as it then is (log entry 59). -/
def State.halfAt (s : State) (v : Nat) (st : Stream) (o : Nat) : Fetched :=
  let r := (s.core v).str st
  match (if r.current then r.lb.getD o none else none) with
  | some f => f
  | none => s.fetchHalf v (s.partOf v) (r.blk.addr + 2 * o)

/-- The halfwords of a block from its header, for the loop buffer (R131); one that waits for a host page is fetched again. -/
def State.fetchBlock (s : State) (v p addr len : Nat) : List (Option Fetched) :=
  (List.range len).map (fun i =>
    let f := s.fetchHalf v p (addr + 2 * i)
    if f.bad = some .hostOutstanding then none else some f)

/-- Whether the word at a G: address of the task's partition is known not to be a block header: a fetch that faults
raises its fault only when the word would issue (R131, R132). -/
def State.notHeader (s : State) (v p addr : Nat) : Bool :=
  let h := s.fetchHalf v p addr
  h.bad.isNone && fld h.half.toNat 10 6 != 63

end Sys2Proof.Machine
end

