-- ==== Sys2Proof/Machine/Seal.lean ====
section
/-! DEFINITION. Sealed memory and the L2 (R71–R78, R326, R327, R332–R335): the tag of a tile, write-backs and versions,
cap failures, allocation and victims, and one granule read or written at its home slice. -/

namespace Sys2Proof.Machine

open Sys2Proof

/-! ### The seal (R332) -/

/-- Multiplication by x in GF(2^128), first bit leftmost (SP 800-38D). -/
def gfX (v : BitVec 128) : BitVec 128 := (v >>> 1) ^^^ (if v.getLsbD 0 then (0xE1#128 <<< 120) else 0)

/-- Product in GF(2^128): `n` bits of x are still to be read, from the left. -/
def gfMulGo (x : BitVec 128) : Nat → BitVec 128 → BitVec 128 → BitVec 128
  | 0, _, z => z
  | n + 1, v, z => gfMulGo x n (gfX v) (if x.getLsbD n then z ^^^ v else z)

def gfMul (x y : BitVec 128) : BitVec 128 := gfMulGo x 128 y 0

/-- A 16-byte block as a bit string, its first byte leftmost. -/
def blockBits (bs : List Byte) : BitVec 128 := BitVec.ofNat 128 (leNat bs.reverse)

/-- The tweak T of a tile: version, device address bits [51:10], owner. -/
def tweak (v tile p : Nat) : BitVec 128 :=
  BitVec.ofNat 128 (v % 2 ^ 32 * 2 ^ 96 + tile % 2 ^ 42 * 2 ^ 54 + p % 32 * 2 ^ 49)

/-- GHASH over the sealed blocks: `l` is L·x^j for the next block, `y` the running hash. -/
def sealGo (key : Nat) (h : BitVec 128) : List (List Byte) → BitVec 128 → BitVec 128 → BitVec 128
  | [], _, y => y
  | b :: bs, l, y =>
    let c := Config.aes key (blockBits b ^^^ l) ^^^ l
    sealGo key h bs (gfX l) (gfMul (y ^^^ c) h)

/-- The 64 blocks of a tile's bytes. -/
def blocksOf (bs : List Byte) : List (List Byte) := (List.range 64).map (fun j => (bs.drop (16 * j)).take 16)

/-- The tag of a tile (R332). -/
def tagOf (key tile v p : Nat) (bs : List Byte) : BitVec 96 :=
  let t := tweak v tile p
  let g := sealGo key (Config.aes key 0) (blocksOf bs) (Config.aes key t) 0
  ((g ^^^ Config.aes key (t ^^^ 1)) >>> 32).setWidth 96

/-! ### Tiles -/

/-- The record of a tile. -/
def State.sealOf (s : State) (tile : Nat) : Seal := Tab.get ⟨0, 0, 0⟩ s.seals tile

/-- The state with a tile's record made over its present bytes. -/
def State.sealTile (s : State) (tile key ver p : Nat) : State :=
  { s with
    seals := Tab.set ⟨0, 0, 0⟩ s.seals tile ⟨key, ver, tagOf key tile ver p (s.devBytes (1024 * tile) 1024)⟩ }

/-- Puts bytes into a table of bytes. -/
def putBytes : Tab Byte → List (Nat × Byte) → Tab Byte
  | m, [] => m
  | m, (a, b) :: r => putBytes (Tab.set 0 m a b) r

/-- The dirty bytes of a tile. -/
def State.dirtyOf (s : State) (tile : Nat) : List (Nat × Byte) := s.l2b.filter (fun e => e.1 / 1024 == tile)

/-- Moves a tile's dirty bytes into memory. -/
def State.mergeTile (s : State) (tile : Nat) : State :=
  { s with mem := putBytes s.mem (s.dirtyOf tile), l2b := s.l2b.filter (fun e => e.1 / 1024 != tile) }

/-- Removes a tile from the L2 without write-back (R82, R321). -/
def State.dropTile (s : State) (tile : Nat) : State :=
  { s with
    l2 := s.l2.filter (fun t => t.tile != tile)
    l2b := s.l2b.filter (fun e => e.1 / 1024 != tile)
    past := s.past.filter (fun p => p.loc / 1024 != tile || s.dirtyOf tile == []) }

/-- Updates a resident tile's entry. -/
def State.mapTile (s : State) (tile : Nat) (f : L2Tile → L2Tile) : State :=
  { s with l2 := s.l2.map (fun t => if t.tile = tile then f t else t) }

/-- Whether a sweep of a partition runs (R335). -/
def State.sweeping (s : State) (p : Nat) : Bool := s.sweep.any (fun e => e.1 == p)

/-- Starts a rekey sweep of a partition (R335): a new key is generated; pointers at LO. None starts while the journal holds a change
of the partition's clusters or ranges (R319). -/
def State.startSweep (s : State) (p : Nat) (byCommand : Bool) : State :=
  if s.sweeping p ∨ s.sweepBarred p then s
  else
    let lo0 := s.regF (prtActRange p 0) 0 16 * 2 ^ 19
    let lo1 := lpBase / 1024 + s.regF (prtActRange p 1) 0 16 * 2 ^ 19
    ((({ s with
      keyNo := s.keyNo + 1
      sweep := Tab.put s.sweep p (0, lo0, s.keyNo + 1) }.setReg (capSweep p) (if byCommand then 3 else 1)).setReg
      (capPtr p 0) (BitVec.ofNat 64 (lo0 * 1024))).setReg (capPtr p 1) (BitVec.ofNat 64 (lo1 * 1024)))

/-! ### The cap cache (R333) -/

/-- A record as it stands in a block. -/
def Seal.bytes (r : Seal) : List Byte := leBytes 4 r.version ++ leBytes 12 r.tag.toNat

/-- The record of a block. -/
def State.capRec (s : State) (blk : Nat) : Seal := Tab.get ⟨0, 0, 0⟩ s.capBlk blk

/-- The bytes of a record block. -/
def State.capBytes (s : State) (blk : Nat) : List Byte :=
  (List.range 64).flatMap (fun i =>
    let k := blk % 2 ^ 40 * 64 + i
    Seal.bytes (if blk / 2 ^ 40 = 1 then s.sealOf k else s.capRec (blk / 2 ^ 40 * 2 ^ 40 - 2 ^ 40 + k)))

/-- Marks a block's line as changed. -/
def State.capDirty (s : State) (blk : Nat) : State :=
  { s with capCache := s.capCache.map (fun l => if l.blk = blk then { l with dirty := true } else l) }

/-- The lines of the cap cache of a block's controller. -/
def State.capPeers (s : State) (blk : Nat) : List CapLine :=
  s.capCache.filter (fun l => controllerOf (capTile l.blk) == controllerOf (capTile blk))

/-- The blocks to be read, the lowest first, before a block stands verified in the cap cache. -/
def State.capClimb (s : State) (blk : Nat) : List Nat := s.capChain 5 blk

/-- Whether a line may leave the cap cache: it is not pinned, and the parent of a changed one, which takes its new record, is at hand
or verifies. -/
def State.capLeaves (s : State) (l : CapLine) : Bool :=
  !l.pinned && (!l.dirty || capTop l.blk || (s.capClimb (capParent l.blk)).all (fun b => !s.dramErr (capTile b)))

/-- The blocks that a changed line's departure brings into the cap cache: its parent, changed, and those that verify it; none above a
root. -/
def State.capAbove (s : State) (blk : Nat) : List (Nat × Bool) :=
  if capTop blk then [] else (s.capClimb (capParent blk)).map (fun b => (b, false)) ++ [(capParent blk, true)]

/-- A line without a place in the cap cache. -/
def State.capDrop (s : State) (blk : Nat) : State := { s with capCache := s.capCache.filter (fun x => x.blk != blk) }

/-- A changed block is written back: its version advances by one, and it is sealed under the device key with p = 0 (R331, R332). -/
def State.capSeal (s : State) (blk : Nat) : State :=
  { s with
    capBlk := Tab.set ⟨0, 0, 0⟩ s.capBlk blk
      ⟨s.devKey, (s.capRec blk).version + 1, tagOf s.devKey (capTile blk) ((s.capRec blk).version + 1) 0 (s.capBytes blk)⟩ }

/-- Brings blocks into the cap caches of their controllers, 256 lines each, the flagged ones to be changed (R333). Which line makes
room is left open; a changed one is written back, and its parent, which holds its record, is brought in as a changed block. A block
whose version would pass 2^32 − 1 stays pinned; a cache that is full of lines that cannot leave is reported. `fuel` bounds the
steps. -/
def State.capMake : Nat → List (Nat × Bool) → State → State
  | 0, _, s => s
  | _ + 1, [], s => s
  | fuel + 1, (b, w) :: bs, s =>
    if (s.capLine b).isSome then State.capMake fuel bs (if w then s.capDirty b else s)
    else if (s.capPeers b).length < 256 then State.capMake fuel bs { s with capCache := ⟨b, w, false⟩ :: s.capCache }
    else
      match (s.capPeers b).filter s.capLeaves with
      | [] => State.capMake fuel bs { s.orReg capEvt 4 with out := .report 78 b :: s.out }
      | l :: ls =>
        let x := (l :: ls).getD (Config.freeNat 24 (s.tick * 2 ^ 16 + fuel) % (ls.length + 1)) l
        if !x.dirty then State.capMake fuel ((b, w) :: bs) (s.capDrop x.blk)
        else if 2 ^ 32 - 1 ≤ (s.capRec x.blk).version then
          State.capMake fuel ((b, w) :: bs)
            { s with capCache := s.capCache.map (fun y => if y.blk = x.blk then { y with pinned := true } else y) }
        else State.capMake fuel (s.capAbove x.blk ++ (b, w) :: bs) ((s.capSeal x.blk).capDrop x.blk)

/-- More steps than the lines of the caches and their levels allow. -/
def capFuel : Nat := 2 ^ 15

/-- A fill of a tile reads and verifies the blocks above it. -/
def State.capFetch (s : State) (tile : Nat) : State := State.capMake capFuel ((s.capPath tile).map (fun b => (b, false))) s

/-- A tile's new record is written into its record block. -/
def State.capWrite (s : State) (tile : Nat) : State :=
  State.capMake capFuel ((s.capPath tile).map (fun b => (b, false)) ++ [(capBlock tile 1, true)]) s

/-- Writes a resident dirty tile back (R76): its version advances by one and it is sealed under the key in force. A tile
whose version would pass 2^32 − 1 is pinned, and its partition is swept (R78). -/
def State.writeBack (s : State) (tile : Nat) : State :=
  match s.l2.find? (fun t => t.tile == tile) with
  | none => s
  | some t =>
    if !t.dirty ∨ (t.pinned ∧ s.sweeping t.part) then s
    else
      let v := (s.sealOf tile).version
      if 2 ^ 32 - 1 ≤ v then
        (s.mapTile tile (fun t => { t with pinned := true })).startSweep t.part false
      else
        let s1 := s.mergeTile tile
        let s2 := s1.sealTile tile (s1.keyOf tile) (v + 1) t.part
        let s3 := (s2.capWrite tile).mapTile tile (fun t => { t with dirty := false, pinned := false })
        { s3 with fails := s3.fails.filter (· != tile) }

/-- A tag failure (R334): counted for the owner, logged; a tile failing again, or a full table, is reported. -/
def State.tagFail (s : State) (tile : Nat) : State :=
  let p := (s.ownerOf (1024 * tile)).getD 0
  let n := (s.reg (capFail p)).toNat
  let s1 := s.setReg (capFail p) (BitVec.ofNat 64 (min (n + 1) (2 ^ 32 - 1)))
  let s2 := { s1 with capFlog := s1.capFlog ++ [BitVec.ofNat 64 (p * 2 ^ 59 + tile % 2 ^ 42 * 2 ^ 10 + 1)] }
  let full := decide (256 ≤ (s.fails.filter (fun t => controllerOf t == controllerOf tile)).length)
  if s.fails.contains tile || full then
    { s2.orReg capEvt 2 with out := .report 77 tile :: s2.out }
  else { s2 with fails := s2.fails ++ [tile] }

/-! ### Accesses that wait on one fill (R75, R77) -/

/-- The tile of device memory whose fill a granule of core v's commands may wait for; one that has translated has its fill
verified (R184). -/
def State.grainTile (s : State) (who v : Nat) (k : XKind) (g : Grain) : Option Nat :=
  if g.space ≠ .G ∨ g.whole ∨ g.phys.isSome then none
  else
    match s.translate who (s.partOf v) g.addr k g.n with
    | .ok x => if x.host then none else some (x.pa / 1024)
    | .error _ => none

/-- Whether a command has a granule still to reach in a tile. -/
def State.worksOn (s : State) (who v tile : Nat) (w : Work) : Bool :=
  w.srcs.any (fun g => s.grainTile who v .read g == some tile) || w.dsts.any (fun g => s.grainTile who v .write g == some tile)

/-- Whether a pending access of core v reaches a tile. -/
def State.accOn (s : State) (v tile : Nat) (a : Acc) : Bool :=
  a.space == .G &&
    (match s.translate v (s.partOf v) a.addr (match a.kind with | .load => XKind.read | _ => .write) a.n with
     | .ok x => !x.host && x.pa / 1024 == tile
     | .error _ => false)

/-- What may wait on a fill of a tile: accesses that may perform, and commands in service. -/
def State.sharers (s : State) (tile : Nat) : List (Nat × Nat) :=
  s.cores.flatMap (fun e =>
    ((e.2.acc.filter (fun a => s.mayPerform e.1 a && s.accOn e.1 tile a)).map (fun a => (e.1, a.id))) ++
      ((e.2.lcmds.filter (fun l => !l.delivered && l.faulted.isNone && s.worksOn e.1 e.1 tile l.work)).map
        (fun l => (e.1, l.id)))) ++
    ((s.ecmds.filter (fun c => !c.delivered && !c.faulted && s.worksOn numCores c.core tile c.work)).map
      (fun c => (numCores, c.id)))

/-- A fill of a tile has failed: what waits on it faults with it; which have come to wait by now is left open (R77). -/
def State.fillFails (s : State) (tile : Nat) : State :=
  let s1 := s.tagFail tile
  { s1 with failing := s1.failing ++ (chosen s.tick (s.sharers tile) (2 ^ 18)).1.map (fun w => (tile, w)) }

/-- What waited on a failed fill has faulted. -/
def State.unfail (s : State) (a b : Nat) : State := { s with failing := s.failing.filter (fun f => f.2 != (a, b)) }

/-- Whether what accesses a tile waited on a fill of it that has failed. -/
def State.failedFill (s : State) (tile : Nat) (who : Nat × Nat) : Bool := s.failing.contains (tile, who)

/-! ### Pages that move (R336) -/

/-- Seals a tile afresh over its bytes in memory. -/
def State.sealMem (s : State) (tile key ver p : Nat) : State :=
  let bs := (List.range 1024).map (fun i => Tab.get 0 s.mem (1024 * tile + i))
  { s with seals := Tab.set ⟨0, 0, 0⟩ s.seals tile ⟨key, ver, tagOf key tile ver p bs⟩ }

/-- The pending ranges without one page. -/
def cutPage (g : Nat) : List (Nat × Nat × Nat) → List (Nat × Nat × Nat)
  | [] => []
  | (lo, hi, p) :: r =>
    if lo ≤ g ∧ g < hi then
      (if lo < g then [(lo, g, p)] else []) ++ (if g + 1 < hi then [(g + 1, hi, p)] else []) ++ r
    else (lo, hi, p) :: cutPage g r

/-- PRT_EVT.SCRUBDONE is set when the last scrub and the last reseal of an apply have ended (R321). -/
def State.scrubCheck (s : State) : State := if s.scrub.isEmpty ∧ s.reseal.isEmpty then s.orReg prtEvt 4 else s

/-- A page is sealed afresh under its new owner's key: 64 tiles of zeros with version 0. -/
def State.resealPage (s : State) (g : Nat) : State :=
  match s.reseal.find? (fun r => decide (r.1 ≤ g ∧ g < r.2.1)) with
  | none => s
  | some (_, _, p) =>
    let s1 : State :=
      { s with
        reseal := cutPage g s.reseal
        l2 := s.l2.filter (fun t => t.tile / 64 != g)
        l2b := s.l2b.filter (fun e => e.1 / 2 ^ 16 != g)
        mem := s.mem.filter (fun e => e.1 / 2 ^ 16 != g)
        past := s.past.filter (fun q => q.loc / 2 ^ 16 != g)
        fails := s.fails.filter (fun t => t / 64 != g) }
    (((List.range 64).foldl (fun s i => s.sealMem (64 * g + i) (s.keyOf (64 * g + i)) 0 p) s1).capWrite (64 * g)).scrubCheck

/-- An access to a page that is not yet sealed afresh has it sealed first. -/
def State.settle (s : State) (tile : Nat) : State := if s.resealing tile then s.resealPage (tile / 64) else s

/-! ### Allocation (R72, R73, R327) -/

/-- Table 3.6: the policy applied, from the page maximum (Table 17.2) and the instruction's policy (Table 3.5). -/
def appliedPol (cmax pol : Nat) : Nat :=
  match cmax with
  | 0 => 3
  | 1 => if pol = 3 then 3 else 1
  | 2 => if pol = 2 then 0 else pol
  | _ => pol

/-- The quota of a partition in a comb, in ways (R326). -/
def State.quota (s : State) (p comb : Nat) : Nat := s.regF (prtWays p) (5 * comb) 5

/-- The numbers of slices that 200 MiB of a comb can have: 204,800 tiles lie in sets of 20 ways, the sets evenly in the
slices, of which the monitors count sets 0 and 32 (R7, R326; log entry 9). -/
def sliceCounts : List Nat := [1, 2, 4, 5, 8, 10, 16, 20, 32, 40, 64, 80, 128, 160, 256]

/-- Slices of a comb's L2. -/
def slicesPerComb : Nat := sliceCounts.getD (Config.slices % 15) 1

/-- Sets of a slice. -/
def setsPerSlice : Nat := 10240 / slicesPerComb

/-- The slices that a comb has lost: those retired after its four spares (R367). -/
def State.lostSlices (s : State) (comb : Nat) : List Nat := ((s.mgmt.slices.filter (fun e => e.1 == comb)).drop 4).map (·.2)

/-- Where the L2 holds a tile: comb, slice and set. A tile of a lost slice is rehomed in another of the comb (R367). -/
def State.home (s : State) (tile : Nat) : Nat × Nat × Nat :=
  let (c, k, e) := Config.l2place tile
  let comb := c % 4
  let slice := k % slicesPerComb
  let left := (List.range slicesPerComb).filter (fun i => !(s.lostSlices comb).contains i)
  (comb, if left.contains slice then slice else left.getD (Config.rehome tile % left.length) slice, e % setsPerSlice)

/-- The resident tiles of a set, the least recently used first. -/
def State.inSet (s : State) (pl : Nat × Nat × Nat) : List L2Tile := s.l2.filter (fun t => s.home t.tile == pl)

/-- How many tiles of a set a partition holds. -/
def held (ts : List L2Tile) (p : Nat) : Nat := (ts.filter (fun t => t.part == p)).length

/-- The victim of R73 among a partition's tiles of a set: the least recently used at default priority; where all hold retain
priority, the least recently used; never a pinned one. -/
def ownVictim (own : List L2Tile) : Option Nat :=
  let low := own.filter (fun t => !t.retain)
  ((if low.isEmpty then own else low).find? (fun t => !t.pinned)).map (·.tile)

/-- The victim of R327 for partition p: none when an invalid way is free; `some none` when the access cannot allocate. -/
def State.victim (s : State) (p : Nat) (pl : Nat × Nat × Nat) : Option (Option Nat) :=
  let ts := s.inSet pl
  if ts.length < 20 then none
  else
    let full := ts.find? (fun t => !t.pinned && s.quota t.part pl.1 < held ts t.part)
    let own := ownVictim (ts.filter (fun t => t.part == p))
    if held ts p < s.quota p pl.1 then
      match full with
      | some t => some (some t.tile)
      | none => some own
    else some own

/-- Allocates a tile for partition p, as most recently used, if R327 finds a way; a dirty victim is written back. -/
def State.allocate (s : State) (p tile : Nat) (retain : Bool) : State :=
  let fresh : L2Tile := ⟨tile, p, retain, false, false⟩
  match s.victim p (s.home tile) with
  | none => { s with l2 := s.l2 ++ [fresh] }
  | some none => s
  | some (some t) =>
    let s1 := s.writeBack t
    if s1.l2.any (fun x => x.tile == t && x.pinned) then s1
    else
      let s2 := s1.dropTile t
      { s2 with l2 := s2.l2 ++ [fresh] }

/-- Whether a tile is resident. -/
def State.resident (s : State) (tile : Nat) : Bool := s.l2.any (fun t => t.tile == tile)

/-- What an access does to a resident tile's place and priority (Table 3.5), bypass apart. A hit under retain raises the tile
and leaves its place: whether it also becomes most recently used, the table does not say (log entry 62). -/
def State.touch (s : State) (tile pol : Nat) : State :=
  match pol with
  | 0 =>
    { s with l2 := s.l2.filter (fun t => t.tile != tile) ++ s.l2.filter (fun t => t.tile == tile) }
  | 2 => s.mapTile tile (fun t => { t with retain := true })
  | _ => s

/-- After a bypass access, the tile is written back if dirty and invalidated (Table 3.5); a pinned tile stays. -/
def State.bypassed (s : State) (tile : Nat) : State :=
  let s1 := s.writeBack tile
  if s1.l2.any (fun t => t.tile == tile && t.pinned) then s1 else s1.dropTile tile

/-- Moves a tile to the front of a shadow stack. -/
def shadowPush (l : List Nat) (tile : Nat) : List Nat := (tile :: l.filter (· != tile)).take 20

/-- The quota monitors count an access to sets 0 and 32 at its depth in the partition's shadow stack (R326). -/
def State.observe (s : State) (p tile : Nat) : State :=
  let (comb, slice, set) := s.home tile
  if set = 0 ∨ set = 32 then
    let key := (comb * 32 + p) * 2 ^ 20 + set * 2 ^ 10 + slice
    let l := Tab.get [] s.shadow key
    let s1 := { s with shadow := Tab.set [] s.shadow key (shadowPush l tile) }
    match l.findIdx? (· == tile) with
    | none => s1
    | some d =>
      let k := (comb * 32 + p) * 32 + d + 1
      { s1 with monitor := Tab.set 0 s1.monitor k (Tab.get 0 s1.monitor k + 1) }
  else s

/-! ### One granule at its home slice -/

/-- The result of an access: the bytes read, its fault, or a wait. -/
inductive MRes where
  | ok (s : State) (bs : List Byte)
  | fault (s : State) (c : Cause)
  | wait (s : State)                    -- a translation request to the host is on its way (R300)

/-- Makes a tile's bytes available: resident, or fetched and verified up the cap tree and allocated if the policy allocates; a
fill that fails its tag is a cap failure (R75, R77, R333). `whole` marks a write of the whole tile, which needs no fill (Table 3.7);
`sure` a granule of a command, whose fill was verified when it translated (R184, R190): its tile need only be under the key still. -/
def State.reach (s : State) (p tile pol : Nat) (whole sure : Bool) : MRes :=
  let s := (s.settle tile).observe p tile
  if s.resident tile then .ok (s.touch tile pol) []
  else if !whole && !(if sure then s.keyed tile else s.verifies tile) then .fault (s.fillFails tile) .capFailure
  else
    let s := if whole then s else s.capFetch tile
    if pol = 0 ∨ pol = 2 then .ok (s.allocate p tile (pol == 2)) []
  else .ok s []

/-- Notes that a command's bytes have gone out to memory with a tile's present version. -/
def State.wentOut (s : State) (tile : Nat) (by_ : Option (Nat × Nat)) : State :=
  match by_ with
  | none => s
  | some w => { s with through := Tab.set (0, 0, 0) s.through tile (w.1 + 1, w.2, (s.sealOf tile).version) }

/-- Whether the last write of a tile to memory carried bytes of the same command: its granules in a tile make one
write-through, and the version advances once for it (R76, R184; log entry 71). -/
def State.goesOn (s : State) (tile : Nat) (by_ : Option (Nat × Nat)) : Bool :=
  match by_ with
  | none => false
  | some w => Tab.get (0, 0, 0) s.through tile == (w.1 + 1, w.2, (s.sealOf tile).version)

/-- Ends an access to a tile (bypass). -/
def State.leave (s : State) (tile pol : Nat) (by_ : Option (Nat × Nat) := none) : State :=
  if pol = 3 ∧ s.resident tile then (s.bypassed tile).wentOut tile by_ else s

/-- Numbers bytes with consecutive addresses. -/
def addressed : Nat → List Byte → List (Nat × Byte)
  | _, [] => []
  | a, b :: bs => (a, b) :: addressed (a + 1) bs

/-- Puts bytes into the overlay of dirty bytes. -/
def putDirty : Tab Byte → List (Nat × Byte) → Tab Byte
  | m, [] => m
  | m, (a, b) :: r => putDirty (m.put a b) r

/-- Merges bytes into a tile, seen by all at once: a resident tile becomes dirty; otherwise the tile is sealed again and written
through (Table 3.7). -/
def State.devMerge (s : State) (p pa : Nat) (bs : List Byte) (by_ : Option (Nat × Nat) := none) : State :=
  let tile := pa / 1024
  if s.resident tile then
    (State.mapTile { s with l2b := putDirty s.l2b (addressed pa bs) } tile (fun t => { t with dirty := true })).settlePast pa
      bs.length
  else
    let s1 := { s with mem := putBytes s.mem (addressed pa bs) }.settlePast pa bs.length
    let v := (s.sealOf tile).version
    if s.goesOn tile by_ then (s1.sealTile tile (s1.keyOf tile) v p).capWrite tile
    else if 2 ^ 32 - 1 ≤ v then
      State.startSweep { s with
        l2 := s.l2 ++ [L2Tile.mk tile p false true true]
        l2b := putDirty s.l2b (addressed pa bs) } p false |>.settlePast pa bs.length
    else
      let s2 := (s1.sealTile tile (s1.keyOf tile) (v + 1) p).capWrite tile
      { s2 with fails := s2.fails.filter (· != tile) }.wentOut tile by_

/-- Records the writes of some granules of a run, from the bytes before it. -/
def State.noteWrites (ev : Ev) (old : List Byte) : List (Nat × Nat × Nat) → State → State
  | [], s => s
  | (a, n, pos) :: gs, s => State.noteWrites ev old gs (s.noteWrite ev a ((old.drop pos).take n))

/-- Writes bytes of a tile for a party: the writes of their granules are recorded, and a read may still miss them (R87, R90). -/
def State.devPut (s : State) (ev : Ev) (p pa : Nat) (bs : List Byte) (by_ : Option (Nat × Nat)) : State :=
  let s1 := s.devMerge p pa bs by_
  State.noteWrites ev (s.devBytes pa bs.length) (granules pa bs.length) { s1 with hist := s.hist, past := s.past }

/-- Reads `n` bytes of one tile. -/
def State.devRead (s : State) (p pa n pol : Nat) : MRes :=
  match s.reach p (pa / 1024) pol false false with
  | .fault s c => .fault s c
  | .wait s => .wait s
  | .ok s _ => .ok (s.leave (pa / 1024) pol) (s.devBytes pa n)

/-- Writes bytes of one tile. -/
def State.devWrite (s : State) (p pa pol : Nat) (bs : List Byte) (whole : Bool) : MRes :=
  match s.reach p (pa / 1024) pol whole false with
  | .fault s c => .fault s c
  | .wait s => .wait s
  | .ok s _ => .ok ((s.devMerge p pa bs).leave (pa / 1024) pol) []

end Sys2Proof.Machine
end

