-- ==== Sys2Proof/Machine/Memory.lean ====
section
/-! DEFINITION. One granule access to G: (R71, R91, R99, R159, R160, R341), to a scratchpad port (R69, R163), and to a
buffer; runs of bytes over G:; and the page requests of host ranges (R300). -/

namespace Sys2Proof.Machine

open Sys2Proof

/-! ### Atomic operations -/

/-- Table 7.7 on `n` bytes: `w` is the new value of a compare-and-swap. -/
def amoOp (op n old v w : Nat) : Nat :=
  let m := 2 ^ (8 * n)
  match op with
  | 0 => v
  | 1 => (old + v) % m
  | 2 => old &&& v
  | 3 => old ||| v
  | 4 => old ^^^ v
  | 5 => if sgn (8 * n) old < sgn (8 * n) v then old else v
  | 6 => if sgn (8 * n) old < sgn (8 * n) v then v else old
  | 7 => min old v
  | 8 => max old v
  | _ => if old = v then w else old

/-- The float add reduction on a 4-byte word (R160): FP32, or two BF16 halves. -/
def redfOp (bf : Bool) (rnd d old v : Nat) : Nat :=
  let m := Rnd.ofCode rnd d
  if bf then
    (FOp.add.run fmtBf16 m (old % 2 ^ 16) (v % 2 ^ 16) 0).1 +
      (FOp.add.run fmtBf16 m (old / 2 ^ 16) (v / 2 ^ 16) 0).1 * 2 ^ 16
  else (FOp.add.run fmt32 m old v 0).1

/-- The bytes that an access leaves, from the bytes that it finds; none for a load. -/
def AccKind.newBytes (k : AccKind) (n : Nat) (old : List Byte) : Option (List Byte) :=
  match k with
  | .load => none
  | .store d => some d
  | .amo op _ v w => some (leBytes n (amoOp op n (leNat old) v w))
  | .redf bf r d v => some (leBytes n (redfOp bf r d (leNat old) v))

/-- The bytes that an access returns. -/
def AccKind.returns (k : AccKind) (old : List Byte) : List Byte :=
  match k with
  | .load => old
  | .amo _ _ _ _ => old
  | _ => []

/-- The access kind to translate for (R296). -/
def AccKind.xkind : AccKind → XKind
  | .load => .read
  | _ => .write

/-! ### Who accesses -/

/-- Who makes an access: what waits for a host translation (R300); the instruction or command it belongs to, where it has one
of its own; and the event that a party of the package makes of it: an access of any other is seen by all at once. -/
structure Agent where
  who : Nat × Nat
  cmd : Option (Nat × Nat)
  ev : Option Ev
  deriving DecidableEq, Repr

/-- An access by no party that is recorded. -/
def Agent.outside (a b : Nat) : Agent := ⟨(a, b), none, none⟩

/-- An event of an access of a kind. -/
def AccKind.event (k : AccKind) (ev : Ev) : Ev :=
  match k with
  | .load => { ev with read := true }
  | .store _ => { ev with write := true }
  | _ => { ev with read := true, write := true }

/-- What an agent reads of the bytes that stand at a place. -/
def State.look (s : State) (ag : Agent) (loc : Nat) (now : List Byte) : State × List Byte :=
  match ag.ev with | some ev => s.seen ev loc now | none => (s, now)

/-- An agent has written at a place, where bytes `old` stood before. -/
def State.wrote (s : State) (ag : Agent) (k : AccKind) (loc : Nat) (old : List Byte) : State :=
  match ag.ev with | some ev => s.noteWrite (k.event ev) loc old | none => s.settlePast loc old.length

/-- Writes bytes at a device address. -/
def State.put (s : State) (ag : Agent) (k : AccKind) (p pa : Nat) (d : List Byte) : State :=
  match ag.ev with | some ev => s.devPut (k.event ev) p pa d ag.cmd | none => s.devMerge p pa d ag.cmd

/-- One access at a device address whose tile is at hand: an atomic reads and writes as one step (R91). -/
def State.devAcc (s : State) (ag : Agent) (p pa n : Nat) (k : AccKind) : State × List Byte :=
  match k.newBytes n (s.devBytes pa n) with
  | none => s.look ag pa (s.devBytes pa n)
  | some d => (s.put ag k p pa d, k.returns (s.devBytes pa n))

/-! ### Host ranges -/

/-- Key of a host byte: a partition's G: address. -/
def hostKey (p va : Nat) : Nat := p * 2 ^ 56 + va

/-- `n` bytes of a host range. -/
def State.hostBytes (s : State) (p va n : Nat) : List Byte :=
  (List.range n).map (fun i => Tab.get 0 s.hostMem (hostKey p (va + i)))

/-- What a host atomic may be (R341): 0 swap, 1 add, 9 compare-and-swap. -/
def hostAmoOk (k : AccKind) : Bool :=
  match k with
  | .amo op _ _ _ => op == 0 || op == 1 || op == 9
  | .redf _ _ _ _ => false
  | _ => true

def AccKind.isAtomic : AccKind → Bool
  | .amo _ _ _ _ => true
  | .redf _ _ _ _ => true
  | _ => false

/-- Asks the host for a translation of a page, and records who waits for it; requests to one page are merged (R300).
Whether the access then waits for the reply, or has the outcome "host page request outstanding". -/
def State.askHost (s : State) (who : Nat × Nat) (p va : Nat) (write : Bool) : State × Bool :=
  let page := va / 2 ^ 16 * 2 ^ 16
  match s.preq.find? (fun r => r.part == p && r.page == page) with
  | none => ({ s with preq := s.preq ++ [⟨p, page, 0, [(who.1, who.2, write)]⟩], out := .ats p (s.pasid p) page :: s.out }, true)
  | some r =>
    let w := (who.1, who.2, write)
    let add (q : PageReq) : PageReq :=
      if q.part = p ∧ q.page = page ∧ !q.who.contains w then { q with who := q.who ++ [w] } else q
    ({ s with preq := s.preq.map add }, r.stage == 0)

/-- The host as a party: what it reads of host memory (R99). -/
def hostEv : Ev := ⟨0, hostCore, [], 0, 0, 0, .access, 16, true, false, 0, 0, 0, 0, []⟩

/-- Whether the host may see write `e` of host memory before a write that has gone out before it: the two share no byte, and no
order that counts with the host keeps the earlier one before `e` (R90, R99). -/
def mayPass (hist : List Ev) (e : Ev) : Output → Bool
  | .hostWrite q va d =>
    let loc := hostLoc (hostKey q va)
    match hist.find? (fun x => x.write && x.loc == loc && x.n == d.length && decide (x.no < e.no)) with
    | some x =>
      !meets loc d.length e.loc e.n &&
        !reaches hist hostEv e (128 * (hist.length + 1) ^ 2) [⟨x, hostEv, 0⟩] [⟨x, hostEv, 0⟩]
    | none => false
  | _ => false

/-- An output takes its place among those that have gone out, at most `n` places before the newest. -/
def outAt (may : Output → Bool) (o : Output) : Nat → List Output → List Output
  | n + 1, x :: r => if may x then x :: outAt may o n r else o :: x :: r
  | _, r => o :: r

/-- A write of host memory goes out: among the writes that the host may see after it, it takes a place of free choice (R99). -/
def State.sendHost (s : State) (ag : Agent) (p va : Nat) (d : List Byte) : State :=
  let may : Output → Bool :=
    match ag.ev, s.hist with | some _, e :: _ => mayPass s.hist e | _, _ => fun _ => false
  { s with out := outAt may (.hostWrite p va d) (Config.freeNat 29 s.tick) s.out }

/-- One granule access to a host range (R99, R341). -/
def State.hostAcc (s : State) (ag : Agent) (p va n : Nat) (k : AccKind) : MRes :=
  if Tab.get .unlocked s.tdi p = Tdi.error then .fault s .hostRefused
  else if !hostAmoOk k ∨ (k.isAtomic ∧ s.regF hstCap 0 1 = 0) then .fault s .addressing
  else if k.isAtomic ∧ Config.freeNat 3 s.tick % 2 = 1 then .fault s .hostRefused
  else
    let old := s.hostBytes p va n
    match k.newBytes n old with
    | none => let (s1, bs) := s.look ag (hostLoc (hostKey p va)) old; .ok s1 bs
    | some d =>
      let s1 : State := { s with hostMem := putBytes s.hostMem (addressed (hostKey p va) d) }
      .ok ((s1.wrote ag k (hostLoc (hostKey p va)) old).sendHost ag p va d) (k.returns old)

/-- Whether a command that counts as delivered at a scope beyond its stream has a granule on its way to some bytes of a host
range: an access to them follows it (R95, R99). -/
def State.leaving (s : State) (p va n : Nat) : Bool :=
  let due (scope : Nat) (g : Grain) : Bool :=
    scope != 0 && g.space == .G && (match g.phys with | some x => x.host | none => false) && meets g.addr g.n va n
  s.cores.any (fun e => e.2.lcmds.any (fun l => l.delivered && l.work.dsts.any (due l.scope)) && s.partOf e.1 == p) ||
    s.ecmds.any (fun c => c.delivered && s.partOf c.core == p && c.work.dsts.any (due (fld c.hdr.toNat 21 3)))

/-! ### G: -/

/-- The result of translating a granule. -/
inductive XRes where
  | ok (s : State) (x : Xlat)
  | fault (s : State) (c : Cause)
  | wait (s : State)

/-- The table entries that a translation reads: the monitors count them (R326), and the cap tree verifies their tiles. A
walk leaves no tile in the L2 (log entry 58). -/
def State.walked (s : State) (p : Nat) (tiles : List Nat) : State :=
  tiles.foldl (fun s t => if s.resident t then s.observe p t else (s.observe p t).capFetch t) s

/-- Translates a granule, asking the host where a host translation is missing. A walk that meets a cap failure counts it for
the tile of the entry (R296, R303). -/
def State.xlate (s : State) (who : Nat × Nat) (p va : Nat) (k : XKind) (n : Nat) : XRes :=
  let tiles := s.xlatTiles who.1 p va k
  let s1 := s.walked p tiles
  match s.translate who.1 p va k n with
  | .ok x => .ok (s1.cache who.1 x) x
  | .error c =>
    if c = .hostOutstanding then
      let (s2, waits) := s1.askHost who p va (k == .write)
      if waits then .wait s2 else .fault s2 c
    else if c = .capFailure then .fault (s1.tagFail (tiles.getLastD 0)) c
    else .fault s1 c

/-- Whether a fill that a bulk prefetch has asked for is bringing a tile in: an access waits for it (R75, R77). -/
def State.filling (s : State) (tile : Nat) : Bool := !s.resident tile && s.fills.any (fun f => f.tile == tile)

/-- One granule access of a partition to G:, translated at its ordering point. A part of it past the last address of G: is an
addressing fault (R4). -/
def State.gAcc (s : State) (ag : Agent) (p va n pol : Nat) (k : AccKind) (whole : Bool) : MRes :=
  if 2 ^ 56 < va + n then .fault s .addressing
  else
    match s.xlate ag.who p va k.xkind n with
    | .fault s c => .fault s c
    | .wait s => .wait s
    | .ok s x =>
      if x.host then
        if s.leaving p va n then .wait s else s.hostAcc ag p va n k
      else if !whole && s.filling (x.pa / 1024) then .wait s
      else if s.failedFill (x.pa / 1024) ag.who then .fault s .capFailure
      else
        let pl := appliedPol x.cmax pol
        match s.reach p (x.pa / 1024) pl whole false with
        | .fault s c => .fault s c
        | .wait s => .wait s
        | .ok s _ =>
          let (s1, bs) := s.devAcc ag p x.pa n k
          .ok (s1.leave (x.pa / 1024) pl ag.cmd) bs

/-- Reads `n` bytes from G:, granule by granule; `fuel` bounds the granules. -/
def State.gReadGo (ag : Agent) (p pol : Nat) : List (Nat × Nat × Nat) → State → List Byte → MRes
  | [], s, acc => .ok s acc
  | (a, n, _) :: gs, s, acc =>
    match s.gAcc ag p a n pol .load false with
    | .fault s c => .fault s c
    | .wait s => .wait s
    | .ok s bs => State.gReadGo ag p pol gs s (acc ++ bs)

def State.gRead (s : State) (ag : Agent) (p va n pol : Nat) : MRes := State.gReadGo ag p pol (granules va n) s []

/-- The pieces of `n` bytes at an address that lie in one cap tile each, as (address, size, position); `fuel` bounds them. -/
def tilePieces : Nat → Nat → Nat → Nat → List (Nat × Nat × Nat)
  | 0, _, _, _ => []
  | fuel + 1, a, n, pos =>
    if n = 0 then []
    else
      let m := min n (1024 - a % 1024)
      (a, m, pos) :: tilePieces fuel (a + m) (n - m) (pos + m)

/-- Writes bytes to G:, one write to each tile. A tile that the run covers whole needs no fill (Table 3.7). -/
def State.gWriteGo (ag : Agent) (p pol : Nat) (d : List Byte) : List (Nat × Nat × Nat) → State → MRes
  | [], s => .ok s []
  | (a, n, pos) :: gs, s =>
    match s.gAcc ag p a n pol (.store ((d.drop pos).take n)) (n == 1024) with
    | .fault s c => .fault s c
    | .wait s => .wait s
    | .ok s _ => State.gWriteGo ag p pol d gs s

def State.gWrite (s : State) (ag : Agent) (p va pol : Nat) (d : List Byte) : MRes :=
  State.gWriteGo ag p pol d (tilePieces d.length va d.length 0) s

/-! ### Scratchpad ports and buffers -/

/-- A write to S at the port, which tests an armed `waitw` on its word, also one that a handler has interrupted (R163, R271). -/
def Core.writeS (c : Core) (off : Nat) (d : List Byte) : Core :=
  let c1 := c.setBytes .S off d
  let test (w : WaitW) : WaitW :=
    if meets off d.length w.addr 4 ∧ waitCond w.cond (c1.sWord w.addr) w.cmp then { w with met := true } else w
  { c1 with waitw := c1.waitw.map test, heldW := c1.heldW.map test }

/-- Writes bytes to a buffer of a core. -/
def Core.writeBuf (c : Core) (b : Buf) (off : Nat) (d : List Byte) : Core :=
  match b with
  | .S => c.writeS off d
  | b => c.setBytes b off d

/-- The event of a `waitw` of core v that succeeds, of place `id` in program order: a read, and an acquire at its scope (R93,
R163). -/
def State.waitEv (s : State) (v off cls scope id : Nat) : Ev :=
  { s.event v 0 (4 * id) cls with read := true, acq := scope, loc := bufLoc v .S off, n := 4 }

/-- The reads of the armed `waitw` of core v that a write has just met, `c` the core before it: the write is what they have read
(R93, R163). -/
def State.noteMet (s : State) (v : Nat) (c : Core) : State :=
  let new (a b : Option WaitW) : List WaitW :=
    match a, b with | some x, some y => if y.met ∧ !x.met then [y] else [] | _, _ => []
  (new c.waitw (s.core v).waitw ++ new c.heldW (s.core v).heldW).foldl
    (fun s w => s.note (s.waitEv v w.addr w.cls w.scope w.id)) s

/-- An access to a buffer of core v (R65), at its port (R69): an atomic reads and writes as one step (R91). What V and M leave in
a row of X is seen by all at once (log entry 56). -/
def State.bufAcc (s : State) (ag : Agent) (v : Nat) (b : Buf) (off n : Nat) (k : AccKind) : State × List Byte :=
  let old := (s.core v).bytes b off n
  match k.newBytes n old with
  | none => if b = .X then (s, old) else s.look ag (bufLoc v b off) old
  | some d =>
    let s1 := s.setCore v ((s.core v).writeBuf b off d)
    (if b = .X then s1 else (s1.wrote ag k (bufLoc v b off) old).noteMet v (s.core v), k.returns old)

/-- An access to the scratchpad of core w at its port. -/
def State.sPort (s : State) (ag : Agent) (w off n : Nat) (k : AccKind) : State × List Byte := s.bufAcc ag w .S off n k

/-- Ranges of the buffers of core v, each a buffer, an offset and a length, as a reader of the core sees them: the core with the
writes that the reads miss taken out. -/
def State.viewGo (ag : Agent) (v : Nat) : List (Buf × Nat × Nat) → State → Core → State × Core
  | [], s, c => (s, c)
  | (b, off, n) :: r, s, c =>
    let (s1, bs) := s.look ag (bufLoc v b off) ((s.core v).bytes b off n)
    State.viewGo ag v r s1 (c.setBytes b off bs)

/-- Core v as an agent reads some ranges of its buffers; as it stands, while every write is seen by all. -/
def State.view (s : State) (ag : Agent) (v : Nat) (rs : List (Buf × Nat × Nat)) : State × Core :=
  if s.past.isEmpty then (s, s.core v) else State.viewGo ag v rs s (s.core v)

/-! ### Granules of commands (R94–R96, R184) -/

/-- A granule of G: that a command is about to reach: translated, and the fill it needs verified (R184). `whole` marks a
tile that the command writes whole. -/
def State.prepare (s : State) (who : Nat × Nat) (p va n : Nat) (k : XKind) (whole : Bool) : XRes :=
  if 2 ^ 56 < va + n then .fault s .addressing
  else
    match s.xlate who p va k n with
    | .ok s x =>
      if x.host then (if Tab.get .unlocked s.tdi p = Tdi.error then .fault s .hostRefused else .ok s x)
      else
        let s := s.settle (x.pa / 1024)
        if s.failedFill (x.pa / 1024) who then .fault s .capFailure
        else if whole ∨ s.resident (x.pa / 1024) then .ok s x
        else if s.filling (x.pa / 1024) then .wait s
        else if s.verifies (x.pa / 1024) then .ok s x
        else .fault (s.fillFails (x.pa / 1024)) .capFailure
    | r => r

/-- Where a translated granule lies. -/
def Xlat.place (x : Xlat) : Place := ⟨x.host, x.pa, x.cmax⟩

/-- Reads a translated granule. -/
def State.readAt (s : State) (ag : Agent) (p va n pol : Nat) (t : Place) : MRes :=
  if s.outlived p va then .fault s .outlived
  else if t.host then
    if s.leaving p va n then .wait s else s.hostAcc ag p va n .load
  else
    let pl := appliedPol t.cmax pol
    match s.reach p (t.pa / 1024) pl false true with
    | .fault s c => .fault s c
    | .wait s => .wait s
    | .ok s _ =>
      let (s1, bs) := s.look ag t.pa (s.devBytes t.pa n)
      .ok (s1.leave (t.pa / 1024) pl) bs

/-- Writes bytes at a translated place; `whole` writes a tile that needs no fill. An arena that has died since is outlived
(R82, R83). -/
def State.writeTo (s : State) (ag : Agent) (p va pol : Nat) (t : Place) (d : List Byte) (whole : Bool) : MRes :=
  if s.outlived p va then .fault s .outlived
  else if t.host then s.hostAcc ag p va d.length (.store d)
  else
    let pl := appliedPol t.cmax pol
    match s.reach p (t.pa / 1024) pl whole true with
    | .fault s c => .fault s c
    | .wait s => .wait s
    | .ok s _ => .ok ((s.put ag (.store d) p t.pa d).leave (t.pa / 1024) pl ag.cmd) []

/-- Reads a granule for a command of core v; one of G: must have translated. -/
def State.readGrain (s : State) (ag : Agent) (v pol : Nat) (g : Grain) : MRes :=
  match g.space, g.phys with
  | .G, some t => s.readAt ag (s.partOf v) g.addr g.n pol t
  | .G, none => .wait s
  | .S u, _ => let (s1, bs) := s.sPort ag u g.addr g.n .load; .ok s1 bs
  | .B b, _ => let (s1, bs) := s.bufAcc ag v b g.addr g.n .load; .ok s1 bs

/-- Writes a granule for a command of core v; one of G: must have translated. -/
def State.writeGrain (s : State) (ag : Agent) (v pol : Nat) (g : Grain) (d : List Byte) (whole : Bool) : MRes :=
  match g.space, g.phys with
  | .G, some t => s.writeTo ag (s.partOf v) g.addr pol t d whole
  | .G, none => .wait s
  | .S u, _ => .ok (s.sPort ag u g.addr g.n (.store d)).1 []
  | .B b, _ => .ok (s.bufAcc ag v b g.addr g.n (.store d)).1 []

end Sys2Proof.Machine
end

