-- ==== Sys2Proof/Machine/Access.lean ====
section
/-! DEFINITION. Accesses at their ordering points (R88, R89), the side log (R98, R302), and what a finished access
writes. -/

namespace Sys2Proof.Machine

open Sys2Proof

/-! ### Fault records (R305) -/

/-- Partition-relative address of core v's frame (R304), without its tier bit. -/
def State.frameAddr (s : State) (p v : Nat) : Nat := s.regF (fltFbase p) 12 40 * 4096 + 4096 * v

/-- A fault record (Table 17.5). -/
def State.faultRec (s : State) (v : Nat) (cause : Nat) (kind route addr : Nat) : FaultRec :=
  let p := s.partOf v
  let t := (s.core v).task
  let tid := match t with | some t => t.taskid | none => 0
  let nd := match t with | some t => t.node | none => 0
  ⟨p, [BitVec.ofNat 64 (p * 2 ^ 59 + cause * 2 ^ 53 + kind * 2 ^ 51 + route * 2 ^ 49 + v * 2 ^ 37),
    BitVec.ofNat 64 addr, BitVec.ofNat 64 (s.frameAddr p v), BitVec.ofNat 64 (tid % 2 ^ 32 * 2 ^ 32 + nd % 2 ^ 32)]⟩

/-- Posts a fault record: it waits to be written (R305). -/
def State.post (s : State) (r : FaultRec) : State := { s with fq := s.fq ++ [r] }

/-! ### Agents -/

/-- The agent of an access of core v. -/
def State.agentOf (s : State) (v : Nat) (a : Acc) : Agent :=
  ⟨(v, a.id), some (v, a.grp),
    some
      { s.event v a.st.ix (4 * a.grp + 1) a.cls with
        acq := if a.isAcquire then a.scope else 0
        rel := if a.isRelease then a.scope else 0 }⟩

/-- Whether an access is a store or reduction, which a translation fault sends to the side log. -/
def Acc.logs (a : Acc) : Bool :=
  match a.kind with | .store _ => true | .redf _ _ _ _ => true | _ => false

/-- The causes that retire a store into the side log (Table 7.6): translation, protection, bound, host page refused or
outstanding, and cap failure. -/
def Cause.logs : Cause → Bool
  | .translation | .protection | .bound | .hostRefused | .hostOutstanding | .capFailure => true
  | _ => false

/-! ### Finishing -/

/-- The `n`-byte value collected from position `p` on. -/
def gotNat (got : List (Nat × Byte)) (p n : Nat) : Nat :=
  leNat ((List.range n).map (fun i => match got.find? (fun e => e.1 == p + i) with | some e => e.2 | none => 0))

/-- Writes what an instruction has collected (R156, R159, R231). -/
def Core.deposit (c : Core) (f : Flight) : Core :=
  match f.dest with
  | .sreg d n signed =>
    let x := gotNat f.got 0 n
    c.setS (BitVec.ofNat 5 d) (if signed then BitVec.ofInt 64 (sgn (8 * n) x) else BitVec.ofNat 64 x)
  | .spair d =>
    (c.setS (BitVec.ofNat 5 d) (BitVec.ofNat 64 (gotNat f.got 0 8))).setS (BitVec.ofNat 5 (d + 1))
      (BitVec.ofNat 64 (gotNat f.got 8 8))
  | .vrow row =>
    c.setRow row (rowBuild (c.row row) 8 256 (fun i =>
      match f.got.find? (fun e => e.1 == i) with
      | some e => e.2.toNat
      | none => rowElem (c.row row) 8 i))
  | .nothing => c

/-- Retires one performed access with the bytes it returned; the last of an instruction finishes it: its destination is
written, and its push takes place (R149). -/
def Core.retire (c : Core) (a : Acc) (bs : List Byte) : Core :=
  let c1 := { c with acc := c.acc.filter (fun b => b.id != a.id), slog := c.slog.filter (fun e => e.acc.id != a.id) }
  match c1.fl.find? (fun f => f.grp == a.grp) with
  | none => c1
  | some f =>
    let f1 := { f with got := f.got ++ (List.range bs.length).zipWith (fun i b => (a.pos + i, b)) bs }
    if c1.acc.any (fun b => b.grp == a.grp) ∨ c1.slog.any (fun e => e.acc.grp == a.grp) then
      { c1 with fl := c1.fl.map (fun g => if g.grp = a.grp then f1 else g) }
    else ({ c1 with fl := c1.fl.filter (fun g => g.grp != a.grp) }.deposit f1).push f.st f.push 0

/-- Retires one performed access of core v, and makes the releases that waited for it. -/
def State.retire (s : State) (v : Nat) (a : Acc) (bs : List Byte) : State :=
  (s.setCore v ((s.core v).retire a bs)).flushAt v

/-- Marks an access as held. -/
def Core.stick (c : Core) (a : Acc) : Core :=
  { c with acc := c.acc.map (fun b => if b.id = a.id then { b with stuck := true } else b) }

/-- The cause record of an access of a stream (Table 17.9). -/
def Acc.record (a : Acc) (cause : Cause) : CauseRec :=
  { cause := cause, orig := a.st.ix, word := a.word, addr := match a.space with | .G => a.addr | _ => 0 }

/-- An access that faults in service: a store or reduction retires into the side log and is reported by a record of kind
"logged", and holds its stream when the log is full (R98, R302); one that only follows others of its class into the log
replays as soon as those have left it (log entry 50); any other parks the core and tries again at resumption
(Table 7.6). -/
def State.accFault (s0 : State) (v : Nat) (a : Acc) (cause : Cause) : State :=
  let s := s0.unfail v a.id
  let c := s.core v
  let follows := c.slog.any (fun e => e.acc.st == a.st && e.acc.cls == a.cls && e.acc.grp != a.grp && decide (e.acc.id < a.id))
  if a.logs ∧ cause.logs then
    if c.slog.length < 64 then
      let s1 := s.setCore v
        { c with acc := c.acc.filter (fun b => b.id != a.id), slog := c.slog ++ [⟨{ a with stuck := false }, cause, follows⟩] }
      let s2 := s1.flushAt v
      s2.post (s2.faultRec v cause.code 1 cause.route.code a.addr)
    else s.setCore v (c.stick a)
  else
    let c1 := c.stick a
    let c2 := if cause = .hostOutstanding then { c1 with pages := a.addr / 2 ^ 16 * 2 ^ 16 :: c1.pages } else c1
    s.setCore v (c2.park s.now (a.record cause))

/-- Performs one access of core v. -/
def State.performAcc (s : State) (v : Nat) (a : Acc) : State :=
  match a.space with
  | .S w =>
    let (s1, bs) := s.sPort (s.agentOf v a) w a.addr a.n a.kind
    s1.retire v a bs
  | .B b =>
    let (s1, bs) := s.bufAcc (s.agentOf v a) v b a.addr a.n a.kind
    s1.retire v a bs
  | .G =>
    match s.gAcc (s.agentOf v a) (s.partOf v) a.addr a.n a.pol a.kind false with
    | .ok s1 bs => s1.retire v a bs
    | .fault s1 cause => s1.accFault v a cause
    | .wait s1 => s1

/-- Whether a G: access translates to a device address past the end of memory (R7). -/
def State.pastEnd (s : State) (v : Nat) (a : Acc) : Bool :=
  a.space == .G &&
    (match s.translate v (s.partOf v) a.addr a.kind.xkind a.n with
     | .ok x => !x.host && decide (devEnd ≤ x.pa)
     | .error _ => false)

/-- The event ACCESS_PERFORM (R88): pending access k of core v performs at its ordering point. A store of a class that
has entries in the log of its stream follows them into it (R98). -/
def execAccessPerform (v k : Nat) (σ : State) : Res :=
  let c := σ.core v
  match c.acc.find? (fun a => a.id == k) with
  | none => .next σ
  | some a =>
    if !σ.mayPerform v a then .next σ
    else
      match c.slog.find? (fun e => e.acc.st == a.st && e.acc.cls == a.cls && e.acc.grp != a.grp && decide (e.acc.id < a.id)) with
      | some e => if a.logs then .next (σ.accFault v a e.cause) else .next σ
      | none => if σ.pastEnd v a then .fault .noSuchAddress else .next (σ.performAcc v a)

/-! ### The side log -/

/-- A resumed core goes on once its side log has replayed, as far as nothing that waits for its resumption must come first
(R306). -/
def Core.returned (now : Now) (v : Nat) (c : Core) : Core :=
  if c.returning ∧ ((List.range c.slog.length).zip c.slog).all (fun e => !c.mayReplay v e.1 e.2) then c.goOn now else c

/-- A logged access of core v performs. -/
def State.replayed (s : State) (v : Nat) (a : Acc) : State :=
  let s1 := s.retire v a []
  let c := s1.core v
  let c1 : Core := { c with acc := c.acc.map (fun b => if b.logs then { b with stuck := false } else b) }
  s1.setCore v (c1.returned s1.now v)

/-- The event SIDE_LOG_REPLAY (R302): entry k of core v's log, which a replay has made due, translates again, in log
order within its class. It performs and leaves the log, or parks the core with the replay's cause. A core that is resumed goes
on once no entry replays (R306). -/
def execSideLogReplay (v k : Nat) (σ : State) : Res :=
  let c := σ.core v
  match c.slog[k]? with
  | none => .next σ
  | some e =>
    if !c.mayReplay v k e ∨ (e.acc.isRelease ∧ !σ.landed v) then .next (σ.setCore v (c.returned σ.now v))
    else
      match e.acc.space with
      | .S w => .next ((σ.sPort (σ.agentOf v e.acc) w e.acc.addr e.acc.n e.acc.kind).1.replayed v e.acc)
      | .B b => .next ((σ.bufAcc (σ.agentOf v e.acc) v b e.acc.addr e.acc.n e.acc.kind).1.replayed v e.acc)
      | .G =>
        match σ.gAcc (σ.agentOf v e.acc) (σ.partOf v) e.acc.addr e.acc.n e.acc.pol e.acc.kind false with
        | .ok s1 _ => .next (s1.replayed v e.acc)
        | .wait s1 => .next s1
        | .fault s1 cause =>
          let c1 := s1.core v
          let c2 : Core :=
            { c1 with
              slog := c1.slog.map (fun x => if x.acc.id = e.acc.id then { x with due := false, cause := cause } else x)
              pages := if cause = .hostOutstanding then e.acc.addr / 2 ^ 16 * 2 ^ 16 :: c1.pages else c1.pages }
          .next (s1.setCore v (c2.park s1.now (e.acc.record cause)))

/-- The stores of V that wait behind a fault enter the side log before the frame is written, while it has room, with the cause
that the core has parked for (R238; log entry 50). -/
def State.logHeld (s : State) (v : Nat) (cause : Cause) : State :=
  let c := s.core v
  let as := (c.acc.filter (fun a => a.st == .V && a.logs && !a.stuck && decide (a.cls < 16))).take (64 - c.slog.length)
  let s1 := s.setCore v
    { c with
      acc := c.acc.filter (fun a => !as.any (fun b => b.id == a.id))
      slog := c.slog ++ as.map (fun a => ⟨a, cause, false⟩) }
  as.foldl (fun s a => s.post (s.faultRec v cause.code 1 cause.route.code a.addr)) s1

/-- The event SIDE_LOG_KICK: FLT_P_CMD action 2 of partition p for core v (R302, R306). -/
def execSideLogKick (p v : Nat) (σ : State) : Res :=
  let c := σ.core v
  if c.task.isSome ∧ σ.partOf v = p then
    .next (σ.setCore v { c with slog := c.slog.map (fun e => { e with due := true }) })
  else .next σ

end Sys2Proof.Machine
end

