-- ==== Sys2Proof/Machine/ControlAlu.lean ====
section
/-! DEFINITION. Integer arithmetic, compares and predicates of the C stream (R150–R153), and its compact forms (R176). -/

namespace Sys2Proof.Machine

open Sys2Proof

/-! ### The operations of Table 7.3 -/

/-- Signed quotient truncated toward zero, with Table 7.3's values for b = 0 and for overflow. -/
def aluDiv (a b : Reg) : Reg := if b = 0 then BitVec.allOnes 64 else BitVec.ofInt 64 (a.toInt.tdiv b.toInt)

/-- Unsigned quotient; b = 0 gives all ones. -/
def aluDivu (a b : Reg) : Reg := if b = 0 then BitVec.allOnes 64 else BitVec.ofNat 64 (a.toNat / b.toNat)

/-- a − b × div(a, b); b = 0 gives a. -/
def aluRem (a b : Reg) : Reg := if b = 0 then a else BitVec.ofInt 64 (a.toInt.tmod b.toInt)

/-- Unsigned remainder; b = 0 gives a. -/
def aluRemu (a b : Reg) : Reg := if b = 0 then a else BitVec.ofNat 64 (a.toNat % b.toNat)

/-- Bits [127:64] of the signed product. -/
def aluMulh (a b : Reg) : Reg := BitVec.ofInt 64 (a.toInt * b.toInt / (2 ^ 64 : Nat))

/-- Bits [127:64] of the unsigned product. -/
def aluMulhu (a b : Reg) : Reg := BitVec.ofNat 64 (a.toNat * b.toNat / 2 ^ 64)

/-- Count of leading zero bits; 64 for 0. -/
def aluClz (a : Reg) : Reg := BitVec.ofNat 64 (if a = 0 then 64 else 63 - Nat.log2 a.toNat)

/-- Count of one bits. -/
def aluPopc (a : Reg) : Reg := BitVec.ofNat 64 ((List.range 64).filter (fun i => a.getLsbD i)).length

/-- The integer conditions of Table 7.4. -/
def icond (cond : Nat) (x y : Reg) : Bool :=
  match cond with
  | 0 => x == y
  | 1 => x != y
  | 2 => x.slt y
  | 3 => !x.slt y
  | 4 => x.ult y
  | _ => !x.ult y

/-! ### Register forms (R150) -/

/-- `add`: s[d] := a + b (Table 7.3). -/
def execAdd (tk : Tok) (d : BitVec 5) (a : BitVec 5) (b : BitVec 5) (σ : State) : Res :=
  cOp σ (.add tk d a b) tk [d, a, b] (fun c => c.setS d (c.getS a + c.getS b))

/-- `sub`: s[d] := a − b (Table 7.3). -/
def execSub (tk : Tok) (d : BitVec 5) (a : BitVec 5) (b : BitVec 5) (σ : State) : Res :=
  cOp σ (.sub tk d a b) tk [d, a, b] (fun c => c.setS d (c.getS a - c.getS b))

/-- `and`: s[d] := a AND b (Table 7.3). -/
def execAnd (tk : Tok) (d : BitVec 5) (a : BitVec 5) (b : BitVec 5) (σ : State) : Res :=
  cOp σ (.and tk d a b) tk [d, a, b] (fun c => c.setS d (c.getS a &&& c.getS b))

/-- `or`: s[d] := a OR b (Table 7.3). -/
def execOr (tk : Tok) (d : BitVec 5) (a : BitVec 5) (b : BitVec 5) (σ : State) : Res :=
  cOp σ (.or tk d a b) tk [d, a, b] (fun c => c.setS d (c.getS a ||| c.getS b))

/-- `xor`: s[d] := a XOR b (Table 7.3). -/
def execXor (tk : Tok) (d : BitVec 5) (a : BitVec 5) (b : BitVec 5) (σ : State) : Res :=
  cOp σ (.xor tk d a b) tk [d, a, b] (fun c => c.setS d (c.getS a ^^^ c.getS b))

/-- `andn`: s[d] := a AND NOT b (Table 7.3). -/
def execAndn (tk : Tok) (d : BitVec 5) (a : BitVec 5) (b : BitVec 5) (σ : State) : Res :=
  cOp σ (.andn tk d a b) tk [d, a, b] (fun c => c.setS d (c.getS a &&& ~~~(c.getS b)))

/-- `sll`: s[d] := a << b[5:0] (Table 7.3). -/
def execSll (tk : Tok) (d : BitVec 5) (a : BitVec 5) (b : BitVec 5) (σ : State) : Res :=
  cOp σ (.sll tk d a b) tk [d, a, b] (fun c => c.setS d (c.getS a <<< ((c.getS b).toNat % 64)))

/-- `srl`: s[d] := logical a >> b[5:0] (Table 7.3). -/
def execSrl (tk : Tok) (d : BitVec 5) (a : BitVec 5) (b : BitVec 5) (σ : State) : Res :=
  cOp σ (.srl tk d a b) tk [d, a, b] (fun c => c.setS d (c.getS a >>> ((c.getS b).toNat % 64)))

/-- `sra`: s[d] := arithmetic a >> b[5:0] (Table 7.3). -/
def execSra (tk : Tok) (d : BitVec 5) (a : BitVec 5) (b : BitVec 5) (σ : State) : Res :=
  cOp σ (.sra tk d a b) tk [d, a, b] (fun c => c.setS d ((c.getS a).sshiftRight ((c.getS b).toNat % 64)))

/-- `mul`: s[d] := bits [63:0] of a × b (Table 7.3). -/
def execMul (tk : Tok) (d : BitVec 5) (a : BitVec 5) (b : BitVec 5) (σ : State) : Res :=
  cOp σ (.mul tk d a b) tk [d, a, b] (fun c => c.setS d (c.getS a * c.getS b))

/-- `mulh`: s[d] := bits [127:64] of the signed product (Table 7.3). -/
def execMulh (tk : Tok) (d : BitVec 5) (a : BitVec 5) (b : BitVec 5) (σ : State) : Res :=
  cOp σ (.mulh tk d a b) tk [d, a, b] (fun c => c.setS d (aluMulh (c.getS a) (c.getS b)))

/-- `mulhu`: s[d] := bits [127:64] of the unsigned product (Table 7.3). -/
def execMulhu (tk : Tok) (d : BitVec 5) (a : BitVec 5) (b : BitVec 5) (σ : State) : Res :=
  cOp σ (.mulhu tk d a b) tk [d, a, b] (fun c => c.setS d (aluMulhu (c.getS a) (c.getS b)))

/-- `div`: s[d] := the signed quotient (Table 7.3). -/
def execDiv (tk : Tok) (d : BitVec 5) (a : BitVec 5) (b : BitVec 5) (σ : State) : Res :=
  cOp σ (.div tk d a b) tk [d, a, b] (fun c => c.setS d (aluDiv (c.getS a) (c.getS b)))

/-- `divu`: s[d] := the unsigned quotient (Table 7.3). -/
def execDivu (tk : Tok) (d : BitVec 5) (a : BitVec 5) (b : BitVec 5) (σ : State) : Res :=
  cOp σ (.divu tk d a b) tk [d, a, b] (fun c => c.setS d (aluDivu (c.getS a) (c.getS b)))

/-- `rem`: s[d] := the signed remainder (Table 7.3). -/
def execRem (tk : Tok) (d : BitVec 5) (a : BitVec 5) (b : BitVec 5) (σ : State) : Res :=
  cOp σ (.rem tk d a b) tk [d, a, b] (fun c => c.setS d (aluRem (c.getS a) (c.getS b)))

/-- `remu`: s[d] := the unsigned remainder (Table 7.3). -/
def execRemu (tk : Tok) (d : BitVec 5) (a : BitVec 5) (b : BitVec 5) (σ : State) : Res :=
  cOp σ (.remu tk d a b) tk [d, a, b] (fun c => c.setS d (aluRemu (c.getS a) (c.getS b)))

/-- `min`: s[d] := the signed minimum (Table 7.3). -/
def execMin (tk : Tok) (d : BitVec 5) (a : BitVec 5) (b : BitVec 5) (σ : State) : Res :=
  cOp σ (.min tk d a b) tk [d, a, b] (fun c => c.setS d (if (c.getS a).slt (c.getS b) then c.getS a else c.getS b))

/-- `max`: s[d] := the signed maximum (Table 7.3). -/
def execMax (tk : Tok) (d : BitVec 5) (a : BitVec 5) (b : BitVec 5) (σ : State) : Res :=
  cOp σ (.max tk d a b) tk [d, a, b] (fun c => c.setS d (if (c.getS a).slt (c.getS b) then c.getS b else c.getS a))

/-- `minu`: s[d] := the unsigned minimum (Table 7.3). -/
def execMinu (tk : Tok) (d : BitVec 5) (a : BitVec 5) (b : BitVec 5) (σ : State) : Res :=
  cOp σ (.minu tk d a b) tk [d, a, b] (fun c => c.setS d (if (c.getS a).ult (c.getS b) then c.getS a else c.getS b))

/-- `maxu`: s[d] := the unsigned maximum (Table 7.3). -/
def execMaxu (tk : Tok) (d : BitVec 5) (a : BitVec 5) (b : BitVec 5) (σ : State) : Res :=
  cOp σ (.maxu tk d a b) tk [d, a, b] (fun c => c.setS d (if (c.getS a).ult (c.getS b) then c.getS b else c.getS a))

/-- `clz` (Table 7.3). -/
def execClz (tk : Tok) (d : BitVec 5) (a : BitVec 5) (σ : State) : Res :=
  cOp σ (.clz tk d a) tk [d, a] (fun c => c.setS d (aluClz (c.getS a)))

/-- `popc` (Table 7.3). -/
def execPopc (tk : Tok) (d : BitVec 5) (a : BitVec 5) (σ : State) : Res :=
  cOp σ (.popc tk d a) tk [d, a] (fun c => c.setS d (aluPopc (c.getS a)))

/-! ### Immediate forms (R151) -/

/-- `addi`: s[d] := s[a] OP SignExtend(imm) (R151). -/
def execAddi (tk : Tok) (d : BitVec 5) (a : BitVec 5) (i : BitVec 12) (σ : State) : Res :=
  cOp σ (.addi tk d a i) tk [d, a] (fun c => c.setS d (c.getS a + i.signExtend 64))

/-- `andi`: s[d] := s[a] OP SignExtend(imm) (R151). -/
def execAndi (tk : Tok) (d : BitVec 5) (a : BitVec 5) (i : BitVec 12) (σ : State) : Res :=
  cOp σ (.andi tk d a i) tk [d, a] (fun c => c.setS d (c.getS a &&& i.signExtend 64))

/-- `ori`: s[d] := s[a] OP SignExtend(imm) (R151). -/
def execOri (tk : Tok) (d : BitVec 5) (a : BitVec 5) (i : BitVec 12) (σ : State) : Res :=
  cOp σ (.ori tk d a i) tk [d, a] (fun c => c.setS d (c.getS a ||| i.signExtend 64))

/-- `xori`: s[d] := s[a] OP SignExtend(imm) (R151). -/
def execXori (tk : Tok) (d : BitVec 5) (a : BitVec 5) (i : BitVec 12) (σ : State) : Res :=
  cOp σ (.xori tk d a i) tk [d, a] (fun c => c.setS d (c.getS a ^^^ i.signExtend 64))

/-- `slli`: shift by the amount in the word (R151). -/
def execSlli (tk : Tok) (d : BitVec 5) (a : BitVec 5) (s : BitVec 6) (σ : State) : Res :=
  cOp σ (.slli tk d a s) tk [d, a] (fun c => c.setS d (c.getS a <<< s.toNat))

/-- `srli`: shift by the amount in the word (R151). -/
def execSrli (tk : Tok) (d : BitVec 5) (a : BitVec 5) (s : BitVec 6) (σ : State) : Res :=
  cOp σ (.srli tk d a s) tk [d, a] (fun c => c.setS d (c.getS a >>> s.toNat))

/-- `srai`: shift by the amount in the word (R151). -/
def execSrai (tk : Tok) (d : BitVec 5) (a : BitVec 5) (s : BitVec 6) (σ : State) : Res :=
  cOp σ (.srai tk d a s) tk [d, a] (fun c => c.setS d ((c.getS a).sshiftRight s.toNat))

/-- `li`: s[d] := SignExtend(imm) (R151). -/
def execLi (tk : Tok) (d : BitVec 5) (i : BitVec 16) (σ : State) : Res :=
  cOp σ (.li tk d i) tk [d] (fun c => c.setS d (i.signExtend 64))

/-- `lis`: s[d] := (s[d] << 16) OR imm (R151). -/
def execLis (tk : Tok) (d : BitVec 5) (i : BitVec 16) (σ : State) : Res :=
  cOp σ (.lis tk d i) tk [d] (fun c => c.setS d ((c.getS d <<< 16) ||| i.setWidth 64))

/-! ### Compares and predicates (R152, R153) -/

/-- The result and the invalid flag of `cmp` by kind: 0 integer, 1 FP64, 2 FP32 (R152). -/
def cmpResult (kind cond : Nat) (x y : Reg) : Bool × Fl :=
  match kind with
  | 0 => (icond cond x y, flNone)
  | 1 => fcond fmt64 cond x.toNat y.toNat
  | _ => fcond fmt32 cond (x.toNat % 2 ^ 32) (y.toNat % 2 ^ 32)

/-- `cmp`: q[qd] := Cond(s[a], s[b]) (R152). -/
def execCmp (tk : Tok) (q : BitVec 3) (c : BitVec 3) (a : BitVec 5) (b : BitVec 5) (k : BitVec 2) (n : BitVec 1) (σ : State) : Res :=
  cOp σ (.cmp tk q c a b k n) tk [a, b] (fun k0 =>
    let r := cmpResult k.toNat c.toNat (k0.getS a) (k0.getS b)
    (k0.setQ q r.1).raiseS (n == 1) r.2)

/-- `cmpi`: an integer compare with a signed immediate (R152). -/
def execCmpi (tk : Tok) (q : BitVec 3) (c : BitVec 3) (a : BitVec 5) (i : BitVec 11) (σ : State) : Res :=
  cOp σ (.cmpi tk q c a i) tk [a] (fun k => k.setQ q (icond c.toNat (k.getS a) (i.signExtend 64)))

/-- `qand` (R153). -/
def execQand (tk : Tok) (d : BitVec 3) (a : BitVec 3) (b : BitVec 3) (σ : State) : Res :=
  cOp σ (.qand tk d a b) tk [] (fun c => c.setQ d (c.getQ a && c.getQ b))

/-- `qor` (R153). -/
def execQor (tk : Tok) (d : BitVec 3) (a : BitVec 3) (b : BitVec 3) (σ : State) : Res :=
  cOp σ (.qor tk d a b) tk [] (fun c => c.setQ d (c.getQ a || c.getQ b))

/-- `qxor` (R153). -/
def execQxor (tk : Tok) (d : BitVec 3) (a : BitVec 3) (b : BitVec 3) (σ : State) : Res :=
  cOp σ (.qxor tk d a b) tk [] (fun c => c.setQ d (c.getQ a != c.getQ b))

/-- `qandn` (R153). -/
def execQandn (tk : Tok) (d : BitVec 3) (a : BitVec 3) (b : BitVec 3) (σ : State) : Res :=
  cOp σ (.qandn tk d a b) tk [] (fun c => c.setQ d (c.getQ a && !c.getQ b))

/-- `qnot` (R153). -/
def execQnot (tk : Tok) (d : BitVec 3) (a : BitVec 3) (σ : State) : Res :=
  cOp σ (.qnot tk d a) tk [] (fun c => c.setQ d (!c.getQ a))

/-- `qset` (R153). -/
def execQset (tk : Tok) (d : BitVec 3) (σ : State) : Res :=
  cOp σ (.qset tk d) tk [] (fun c => c.setQ d (true))

/-- `qclr` (R153). -/
def execQclr (tk : Tok) (d : BitVec 3) (σ : State) : Res :=
  cOp σ (.qclr tk d) tk [] (fun c => c.setQ d (false))

/-! ### Compact forms (R176) -/

/-- Compact `mov`: s[d] := s[a]. -/
def execMov (d : BitVec 5) (a : BitVec 5) (σ : State) : Res :=
  cCompact σ (.mov d a) [d, a] (fun c => c.setS d (c.getS a))

/-- `addc`: s[d] := s[d] + SignExtend(imm). -/
def execAddc (d : BitVec 5) (i : BitVec 5) (σ : State) : Res :=
  cCompact σ (.addc d i) [d] (fun c => c.setS d (c.getS d + i.signExtend 64))

/-- `lic`: s[d] := SignExtend(imm). -/
def execLic (d : BitVec 5) (i : BitVec 5) (σ : State) : Res :=
  cCompact σ (.lic d i) [d] (fun c => c.setS d (i.signExtend 64))

end Sys2Proof.Machine
end

