-- ==== Sys2Proof/Machine/ControlFlow.lean ====
section
/-! DEFINITION. Block headers of the four streams (R128–R131), and the branches, calls and returns of C (R132, R164,
R165). -/

namespace Sys2Proof.Machine

open Sys2Proof

/-! ### Fetching code (R10, R131) -/

/-- Puts a halfword into core v's instruction cache of 64 KiB; which entry makes room is left open (R10). -/
def State.putCode (s : State) (v p va : Nat) (h : Half) : State :=
  let c := s.core v
  let l := Tab.put c.icache (codeKey p va) h
  s.setCore v { c with icache := if l.length ≤ 32768 then l else l.eraseIdx (Config.freeNat 25 s.tick % l.length) }

/-- What a fetch of a halfword of code does beside returning it: the tables that it walks and the tile that it reads are
counted (R326), a leaf is cached (R298), a cap failure is counted (R303), a host page is asked for (R300), and the halfword
enters the instruction cache. DESIGN CHOICE: a fetch has no cache policy of its own; one that misses the L2 has the tile verified and
leaves nothing in the L2 (log entry 58). -/
def State.fillHalf (s : State) (v p va : Nat) : State :=
  if 2 ^ 56 < va + 2 ∨ (s.codeHit v p va).isSome then s
  else
    match s.xlate (numCores + 64 + v, 0) p va .code 2 with
    | .fault s _ => s
    | .wait s => s
    | .ok s1 x =>
      let f := s.fetchMem v p va
      if x.host then (if f.bad.isSome then s1 else s1.putCode v p va f.half)
      else
        let tile := x.pa / 1024
        let s2 := (s1.settle tile).observe p tile
        if f.bad.isSome then s2.tagFail tile
        else (if s2.resident tile then s2 else s2.capFetch tile).putCode v p va f.half

/-- The halfwords of a block are fetched. -/
def State.fillBlock (s : State) (v p addr len : Nat) : State :=
  (List.range len).foldl (fun s i => s.fillHalf v p (addr + 2 * i)) s

/-! ### Headers -/

/-- The repeat count of a header as read at its entry (R129): the trip count for the kernel that the loop record enters
(R15), else the immediate or bits [31:0] of the register. -/
def Core.repCount (c : Core) (st : Stream) (byRec : Bool) (rreg : BitVec 1) (rep : BitVec 11) : Nat :=
  if byRec then (match c.task with | some t => t.trip | none => 0)
  else if rreg = 0 then rep.toNat
  else (c.getR st (rep.setWidth 5)).toNat % 2 ^ 32

/-- The runs of a block with repeat count n (R129). -/
def runsOf (n stg : Nat) : Nat := if n = 0 then 0 else if stg = 0 then n else n + stg - 1

/-- Whether a block is fetched into its stream's loop buffer when it is entered: it fits, and the buffer does not hold it
or is stale (R131). -/
def Strm.loads (r : Strm) (addr len : Nat) : Bool := decide (len ≤ 256) && !(r.lbAddr == addr && r.lbOk)

/-- The loop buffer of a stream of core v that enters a block (R131). -/
def State.loadLoop (σ : State) (v p addr len : Nat) (r : Strm) : Strm :=
  if r.loads addr len then { r with lb := σ.fetchBlock v p addr len, lbAddr := addr, lbOk := true }
  else if 256 < len ∧ r.lbAddr = addr then { r with lb := [], lbOk := false }
  else r

/-- The state in which the moving stream has fetched the block of its header, where the block goes into the loop buffer. -/
def State.opened (σ : State) (st : Stream) (l : BitVec 10) : State :=
  let q := σ.cur.str st
  if q.loads q.pc l.toNat then σ.fillBlock σ.turn.core (σ.partOf σ.turn.core) q.pc l.toNat else σ

/-- A block header (R128–R131): it is entered at its own address, the stream's header when the stream stands at offset 0.
A run count above 1 for a block longer than 256 halfwords is an illegal instruction (R12); so is a header that the stream
meets inside a body, since a phase runs one block, and only a C transfer leaves it (R132; log entry 15). -/
def execBlockHeader (l : BitVec 10) (r : BitVec 1) (s : BitVec 3) (g : BitVec 1) (n : BitVec 11) (σ : State) : Res :=
  let st := σ.turn.st
  issue σ st (.blockHeader l r s g n) Tok.none 0 (fun σ _ =>
    let c := σ.cur
    let q := c.str st
    let byRec := q.blk.byRec && q.off == 0
    let cnt := c.repCount st byRec g n
    let runs := runsOf cnt s.toNat
    if q.blk.len ≠ 0 then .fault .illegal 0
    else if st = .C ∧ g = 1 ∧ c.sBusy [n.setWidth 5] then .wait
    else if 1 < runs ∧ 256 < l.toNat then .fault .illegal 0
    else
      let blk : Block := ⟨q.pc, l.toNat, r == 1, s.toNat, cnt, runs, 0, byRec, q.blk.called⟩
      let v := σ.turn.core
      let p := σ.partOf v
      let σ1 := σ.opened st l
      let c1 := (σ1.core v).setStr st { σ.loadLoop v p q.pc l.toNat q with blk := blk, off := 2, last := 0 }
      let c2 := if st = .V ∧ s ≠ 0 then c1.clearStages.stageWrite 0 cnt else c1
      onCore σ1 (fun _ => if runs = 0 then c2.endBlock σ.now st else c2))

/-! ### Transfers -/

/-- A transfer to a code address (R132): a target within the current block moves issue there; a header outside it ends
the block and is entered; any other target, an odd one, or one with bits [63:56] nonzero, is an illegal instruction. A
call saves the caller's block, run index and the offset after the call, up to 8 deep (R165). DESIGN CHOICE: a block that a called
block branches to does not count as called (log entry 76). -/
def State.branchTo (σ : State) (t : Nat) (call : Bool) : Eff :=
  let c := σ.cur
  let r := c.str .C
  let b := r.blk
  if t % 2 ≠ 0 ∨ t / 2 ^ 56 ≠ 0 then .fault .illegal 0
  else if call = false ∧ b.addr < t ∧ t < b.addr + 2 * b.len then
    onCore σ (fun c => c.setStr .C { r with off := (t - b.addr) / 2 })
  else if call = true ∧ 8 ≤ c.ret.length then .fault .illegal 0
  else if σ.notHeader σ.turn.core (σ.partOf σ.turn.core) t then .fault .illegal 0
  else
    onCore σ (fun c =>
      { c with ret := if call then ⟨b, r.off + 2, false⟩ :: c.ret else c.ret }.setStr .C
        { r with blk := Block.entering t false call, off := 0, last := 0 })

/-- The target of a direct transfer: the word's address plus 2 × the signed offset (R164). -/
def State.target (σ : State) (o : Int) : Nat := low 64 (((σ.cur.str .C).pc : Int) + 2 * o)

/-- `bq` (R164). -/
def execBq (tk : Tok) (q : BitVec 3) (o : BitVec 18) (σ : State) : Res :=
  issue σ .C (.bq tk q o) tk 0 (fun σ _ =>
    if σ.cur.getQ q then σ.branchTo (σ.target o.toInt) false else onCore σ (fun c => c.advance .C 2))

/-- `bnq` (R164). -/
def execBnq (tk : Tok) (q : BitVec 3) (o : BitVec 18) (σ : State) : Res :=
  issue σ .C (.bnq tk q o) tk 0 (fun σ _ =>
    if σ.cur.getQ q then onCore σ (fun c => c.advance .C 2) else σ.branchTo (σ.target o.toInt) false)

/-- `j` (R164). -/
def execJ (tk : Tok) (o : BitVec 21) (σ : State) : Res :=
  issue σ .C (.j tk o) tk 0 (fun σ _ => σ.branchTo (σ.target o.toInt) false)

/-- `call` (R164, R165). -/
def execCall (tk : Tok) (o : BitVec 21) (σ : State) : Res :=
  issue σ .C (.call tk o) tk 0 (fun σ _ => σ.branchTo (σ.target o.toInt) true)

/-- `jmpr` (R165). -/
def execJmpr (tk : Tok) (a : BitVec 5) (σ : State) : Res :=
  issue σ .C (.jmpr tk a) tk 0 (fun σ _ =>
    if σ.cur.sBusy [a] then .wait else σ.branchTo (σ.cur.getS a).toNat false)

/-- `callr` (R165). -/
def execCallr (tk : Tok) (a : BitVec 5) (σ : State) : Res :=
  issue σ .C (.callr tk a) tk 0 (fun σ _ =>
    if σ.cur.sBusy [a] then .wait else σ.branchTo (σ.cur.getS a).toNat true)

/-- `ret` (R165): with an empty return stack it is an illegal instruction. -/
def execRet (tk : Tok) (σ : State) : Res :=
  issue σ .C (.ret tk) tk 0 (fun σ _ =>
    if σ.cur.ret.isEmpty then .fault .illegal 0 else onCore σ (fun c => c.popRet σ.now))

/-! ### The end of a block run -/

/-- A block run ends (R129, R130): at a repeat boundary %rot advances in a rotating block (R12), the stage predicate of
the next run is written, and the block starts again after its header; after the last run the block ends. -/
def Core.endRun (now : Now) (st : Stream) (c : Core) : Core :=
  let q := c.str st
  let b := q.blk
  if b.run + 1 < b.runs then
    let c1 := c.setStr st { q with blk := { b with run := b.run + 1 }, off := 2 }
    let c2 := if b.rot then { c1 with rot := c1.rot + 1 } else c1
    if st = .V ∧ b.stg ≠ 0 then c2.stageWrite (b.run + 1) b.n else c2
  else c.endBlock now st

/-- The event BLOCK_RUN_END: the stream of core v stands at the end of its block. -/
def execBlockRunEnd (v : Nat) (st : Stream) (σ : State) : Res :=
  let c := σ.core v
  let q := c.str st
  if c.canIssue st ∧ q.blk.len ≠ 0 ∧ q.blk.len ≤ q.off then .next ((σ.setCore v (c.endRun σ.now st)).flushAt v)
  else .next σ

end Sys2Proof.Machine
end

