-- ==== Sys2Proof/Machine/ControlMem.lean ====
section
/-! DEFINITION. Memory instructions of the C stream (R156–R163): an instruction checks its address at issue and hands
its granule accesses to the memory system; they perform at their ordering points (ACCESS_PERFORM). -/

namespace Sys2Proof.Machine

open Sys2Proof

/-- Bytes of a size code (Table 6.8). -/
def sizeBytes (z : BitVec 3) : Nat :=
  match z.toNat with
  | 0 => 1 | 1 => 2 | 2 => 4 | 3 => 8 | 4 => 16 | 5 => 1 | 6 => 2 | _ => 4

/-- The registers that the data of an access of a size code occupies. -/
def dataRegs (z : BitVec 3) (d : BitVec 5) : List (BitVec 5) := if z = 4 then [d, d + 1] else [d]

/-- Where a C load puts its bytes (R156). -/
def loadDest (z : BitVec 3) (d : BitVec 5) : Dest :=
  if z = 4 then .spair d.toNat else .sreg d.toNat (sizeBytes z) (decide (5 ≤ z.toNat))

/-- The bytes that a C store writes (R156). -/
def Core.storeData (c : Core) (z : BitVec 3) (d : BitVec 5) : List Byte :=
  if z = 4 then leBytes 8 (c.getS d).toNat ++ leBytes 8 (c.getS (d + 1)).toNat
  else leBytes (sizeBytes z) (c.getS d).toNat

/-- The check of the `n` bytes of a G: access of the moving core (R4, R156, R158): all of them lie below 2^56 and, in an arena
window, under a live handle. -/
def State.gCheck (s : State) (va : Reg) (n : Nat) : Option Cause :=
  if 2 ^ 56 < va.toNat + n then some .addressing
  else if s.outlived (s.partOf s.turn.core) va.toNat ∨ s.outlived (s.partOf s.turn.core) (va.toNat + n - 1) then some .outlived
  else none

/-- The space and offset of an access of `n` bytes to S: (code 0) or SG: (code 1), or its fault (R157, R68). -/
def State.sPlace (s : State) (code : BitVec 2) (a : Reg) (n : Nat) : Except Cause (Space × Nat) :=
  if code = 0 then
    if a.toNat + n ≤ 0x40000 then .ok (.S s.turn.core, a.toNat) else .error .addressing
  else
    match s.cur.sgTarget s.turn.core a with
    | none => .error .accessList
    | some (w, off) => if off + n ≤ 0x40000 then .ok (.S w, off) else .error .addressing

/-- Hands over a load (or atomic): it finishes when its value is written (Table 7.2). -/
def State.sendLoad (s : State) (st : Stream) (specs : List Spec) (c sc : Nat) (pol : Nat) (dest : Dest)
    (push : BitVec 2) : Eff :=
  .late (s.setCore s.turn.core (s.cur.launch st specs c sc pol dest true push))

/-- Hands over a store or reduction: a plain one finishes as it leaves the stream, a release when it has performed
(Table 7.2, R92). -/
def State.sendStore (s : State) (st : Stream) (specs : List Spec) (c sc : Nat) (pol : Nat) (push : BitVec 2) : Eff :=
  if sc = 0 then .go (s.setCore s.turn.core (s.cur.launch st specs c sc pol .nothing false push)) 0
  else .late (s.setCore s.turn.core (s.cur.launch st specs c sc pol .nothing true push))

/-- `ld` (R156). -/
def execLd (tk : Tok) (d a : BitVec 5) (c : BitVec 4) (s : BitVec 3) (l : BitVec 2) (z : BitVec 3) (σ : State) : Res :=
  issue σ .C (.ld tk d a c s l z) tk 2 (fun σ _ =>
    if σ.cur.sBusy (a :: dataRegs z d) ∨ σ.cur.barred .C c.toNat then .wait
    else
      let va := σ.cur.getS a
      match σ.gCheck va (sizeBytes z) with
      | some f => .fault f va.toNat
      | none =>
        σ.sendLoad .C [⟨.G, va.toNat, sizeBytes z, 0, .load⟩] c.toNat s.toNat l.toNat (loadDest z d) tk.push)

/-- `st` (R156). -/
def execSt (tk : Tok) (d a : BitVec 5) (c : BitVec 4) (s : BitVec 3) (l : BitVec 2) (z : BitVec 3) (σ : State) : Res :=
  issue σ .C (.st tk d a c s l z) tk 2 (fun σ _ =>
    if σ.cur.sBusy (a :: dataRegs z d) ∨ σ.cur.barred .C c.toNat then .wait
    else
      let va := σ.cur.getS a
      match σ.gCheck va (sizeBytes z) with
      | some f => .fault f va.toNat
      | none =>
        σ.sendStore .C [⟨.G, va.toNat, sizeBytes z, 0, .store (σ.cur.storeData z d)⟩] c.toNat s.toNat l.toNat tk.push)

/-- `ldl` (R157). -/
def execLdl (tk : Tok) (d a : BitVec 5) (c : BitVec 4) (s : BitVec 3) (e : BitVec 2) (z : BitVec 3) (σ : State) : Res :=
  issue σ .C (.ldl tk d a c s e z) tk 2 (fun σ _ =>
    if σ.cur.sBusy (a :: dataRegs z d) ∨ σ.cur.barred .C c.toNat then .wait
    else
      match σ.sPlace e (σ.cur.getS a) (sizeBytes z) with
      | .error f => .fault f 0
      | .ok (sp, off) => σ.sendLoad .C [⟨sp, off, sizeBytes z, 0, .load⟩] c.toNat s.toNat 0 (loadDest z d) tk.push)

/-- `stl` (R157). -/
def execStl (tk : Tok) (d a : BitVec 5) (c : BitVec 4) (s : BitVec 3) (e : BitVec 2) (z : BitVec 3) (σ : State) : Res :=
  issue σ .C (.stl tk d a c s e z) tk 2 (fun σ _ =>
    if σ.cur.sBusy (a :: dataRegs z d) ∨ σ.cur.barred .C c.toNat then .wait
    else
      match σ.sPlace e (σ.cur.getS a) (sizeBytes z) with
      | .error f => .fault f 0
      | .ok (sp, off) =>
        σ.sendStore .C [⟨sp, off, sizeBytes z, 0, .store (σ.cur.storeData z d)⟩] c.toNat s.toNat 0 tk.push)

/-! ### Atomics (R159) -/

/-- Bytes of an atomic (R159). -/
def amoBytes (o : BitVec 4) (z : BitVec 1) : Nat := if o = 10 then 16 else if z = 0 then 4 else 8

/-- The registers of an atomic (R159). -/
def amoRegs (o : BitVec 4) (d : BitVec 5) : List (BitVec 5) :=
  if o = 10 then [d, d + 1, d + 2, d + 3] else if o = 9 then [d, d + 1] else [d]

/-- The granule access of an atomic: operand and second operand by operation (Table 7.7). -/
def Core.amoKind (c : Core) (o : BitVec 4) (z : BitVec 1) (d : BitVec 5) : AccKind :=
  let n := amoBytes o z
  if o = 10 then
    .amo 9 n ((c.getS d).toNat + (c.getS (d + 1)).toNat * 2 ^ 64)
      ((c.getS (d + 2)).toNat + (c.getS (d + 3)).toNat * 2 ^ 64)
  else .amo o.toNat n ((c.getS d).toNat % 2 ^ (8 * n)) ((c.getS (d + 1)).toNat % 2 ^ (8 * n))

/-- Where the old value goes (R159). -/
def amoDest (o : BitVec 4) (z : BitVec 1) (d : BitVec 5) : Dest :=
  if o = 10 then .spair d.toNat else .sreg d.toNat (amoBytes o z) false

/-- `amo` on G: (R159). -/
def execAmoG (tk : Tok) (d a : BitVec 5) (c : BitVec 4) (s : BitVec 3) (o : BitVec 4) (z : BitVec 1) (σ : State) : Res :=
  issue σ .C (.amoG tk d a c s o z) tk 2 (fun σ _ =>
    if σ.cur.sBusy (a :: amoRegs o d) ∨ σ.cur.barred .C c.toNat then .wait
    else
      let va := σ.cur.getS a
      if va.toNat % amoBytes o z ≠ 0 then .fault .addressing va.toNat
      else
        match σ.gCheck va (amoBytes o z) with
        | some f => .fault f va.toNat
        | none =>
          σ.sendLoad .C [⟨.G, va.toNat, amoBytes o z, 0, σ.cur.amoKind o z d⟩] c.toNat s.toNat 0 (amoDest o z d) tk.push)

/-- An `amo` on a scratchpad (R159). -/
def State.amoScratch (σ : State) (code : BitVec 2) (tk : Tok) (d a : BitVec 5) (c : BitVec 4) (s : BitVec 3)
    (o : BitVec 4) (z : BitVec 1) : Eff :=
  if σ.cur.sBusy (a :: amoRegs o d) ∨ σ.cur.barred .C c.toNat then .wait
  else
    match σ.sPlace code (σ.cur.getS a) (amoBytes o z) with
    | .error f => .fault f 0
    | .ok (sp, off) =>
      if off % amoBytes o z ≠ 0 then .fault .addressing 0
      else σ.sendLoad .C [⟨sp, off, amoBytes o z, 0, σ.cur.amoKind o z d⟩] c.toNat s.toNat 0 (amoDest o z d) tk.push

/-- `amo` on S: (R159). -/
def execAmoS (tk : Tok) (d a : BitVec 5) (c : BitVec 4) (s : BitVec 3) (o : BitVec 4) (z : BitVec 1) (σ : State) : Res :=
  issue σ .C (.amoS tk d a c s o z) tk 2 (fun σ _ => σ.amoScratch 0 tk d a c s o z)

/-- `amo` on SG: (R159). -/
def execAmoSg (tk : Tok) (d a : BitVec 5) (c : BitVec 4) (s : BitVec 3) (o : BitVec 4) (z : BitVec 1) (σ : State) : Res :=
  issue σ .C (.amoSg tk d a c s o z) tk 2 (fun σ _ => σ.amoScratch 1 tk d a c s o z)

/-- `redf` (R160): an add reduction at the home L2 slice; the dither value is fixed at issue. -/
def execRedf (tk : Tok) (b a : BitVec 5) (c : BitVec 4) (s r : BitVec 3) (t : BitVec 1) (σ : State) : Res :=
  issue σ .C (.redf tk b a c s r t) tk 2 (fun σ _ =>
    if σ.cur.sBusy [a, b] ∨ σ.cur.barred .C c.toNat then .wait
    else
      let va := σ.cur.getS a
      if va.toNat % 4 ≠ 0 then .fault .addressing va.toNat
      else
        match σ.gCheck va 4 with
        | some f => .fault f va.toNat
        | none =>
          σ.sendStore .C
            [⟨.G, va.toNat, 4, 0, .redf (t == 1) r.toNat (dither σ.cur.dphase 0 0) ((σ.cur.getS b).toNat % 2 ^ 32)⟩]
            c.toNat s.toNat 0 tk.push)

/-! ### Fences and waits (R161–R163) -/

/-- The event of a fence of the moving core. -/
def State.fenceEv (σ : State) (st : Stream) (m : BitVec 16) (s : BitVec 3) : Ev :=
  { σ.event σ.turn.core st.ix (4 * σ.cur.nextId) 16 with kind := .fence m.toNat s.toNat }

/-- A fence of a stream (R92, R161): a later access of a class in its mask issues only once the earlier ones of these classes
have performed; accesses of other classes pass it. A fence whose earlier accesses have all performed is gone. -/
def Core.fencedBy (c : Core) (f : Fence) : Core :=
  { c with fences := c.fences.filter c.fenceWaits ++ (if c.fenceWaits f then [f] else []) }

/-- A fence of the moving core. -/
def State.fenced (σ : State) (st : Stream) (m : BitVec 16) (s : BitVec 3) : State :=
  let f : Fence := ⟨σ.cur.nextId, st, m.toNat⟩
  let s1 := σ.setCore σ.turn.core (σ.cur.fencedBy f)
  if σ.cur.fenceWaits f then s1.record (σ.fenceEv st m s) else s1.note (σ.fenceEv st m s)

/-- `fence` (R161, R92). -/
def execFence (tk : Tok) (m : BitVec 16) (s : BitVec 3) (σ : State) : Res :=
  issue σ .C (.fence tk m s) tk 2 (fun σ _ => .go (σ.fenced .C m s) 0)

/-- A stream's loop buffer is stale (R131). A block that fits the loop buffer goes on from the copy it has; each word that a
long block has yet to fetch holds the value that the instruction cache had or that memory then has, which is left open
(R162). -/
def Strm.stale (tick p : Nat) (cache : Tab Half) (r : Strm) : Strm :=
  let old (i : Nat) : Option Fetched :=
    if Config.freeNat 22 (tick * 2 ^ 56 + r.blk.addr + 2 * i) % 2 = 1 then
      (cache.find? (fun e => e.1 == codeKey p (r.blk.addr + 2 * i))).map (fun e => ⟨none, e.2⟩)
    else none
  if r.blk.len ≤ 256 then { r with lbOk := false }
  else { r with lb := (List.range r.blk.len).map old, lbAddr := r.blk.addr, lbOk := false }

/-- The event of an `ifence`: an acquire of core scope. -/
def State.ifenceEv (σ : State) : Ev := { σ.event σ.turn.core 0 (4 * σ.cur.nextId) 16 with acq := 1 }

/-- A core whose instruction cache is invalidated and whose loop buffers are stale (R162). -/
def Core.refetched (tick p : Nat) (c : Core) : Core :=
  { c with icache := [], strm := c.strm.map (Strm.stale tick p c.icache) }

/-- `ifence` (R162): once every earlier access of C has performed, the instruction cache is invalidated and all four loop
buffers become stale. -/
def execIfence (tk : Tok) (σ : State) : Res :=
  issue σ .C (.ifence tk) tk 2 (fun σ _ =>
    if σ.cur.drained .C then
      onCore (σ.note σ.ifenceEv) (Core.refetched σ.tick (σ.partOf σ.turn.core))
    else .wait)

/-- A read of `n` bytes of S that C makes at issue, as an access: it waits as one would (R89, R98). -/
def Core.atIssue (c : Core) (v off n cls scope : Nat) : Acc :=
  ⟨c.nextId, c.nextId, .C, .S v, off, n, 0, .load, cls, scope, 0, (c.str .C).pc, false⟩

/-- `waitw` (R163): it reads the word at the port when it issues and, if the condition fails, stays armed; each later
write to the word is tested as it performs (`Core.wrote`), and the word finishes once one has met the condition. -/
def execWaitw (tk : Tok) (b a : BitVec 5) (k : BitVec 4) (s c : BitVec 3) (σ : State) : Res :=
  match σ.cur.waitw with
  | some w =>
    if w.met ∧ σ.cur.moves .C then
      .next ((σ.setCore σ.turn.core (({ σ.cur with waitw := none }.advance .C 2).push .C w.push 0)).flushAt σ.turn.core)
    else .next σ
  | none =>
    issue σ .C (.waitw tk b a k s c) tk 0 (fun σ _ =>
      let off := (σ.cur.getS a).toNat
      if σ.cur.sBusy [a, b] ∨ σ.cur.barred .C k.toNat ∨ !σ.cur.mayPerform σ.turn.core (σ.cur.atIssue σ.turn.core off 4 k.toNat s.toNat) then .wait
      else if off / 2 ^ 18 ≠ 0 ∨ off % 4 ≠ 0 then .fault .addressing 0
      else
        let x := (σ.cur.getS b).setWidth 32
        if waitCond c.toNat (σ.cur.sWord off) x then
          onCore (σ.note (σ.waitEv σ.turn.core off k.toNat s.toNat σ.cur.nextId)) (fun k => k.advance .C 2)
        else .late (σ.setCore σ.turn.core { σ.cur with waitw := some ⟨off, c.toNat, x, tk.push, false, k.toNat, s.toNat, σ.cur.nextId⟩, nextId := σ.cur.nextId + 1 }))

end Sys2Proof.Machine
end

