-- ==== Sys2Proof/Machine/Record.lean ====
section
/-! DEFINITION. The launch record (R276, Table 16.1): its fields and its checks (R279, Table 16.3), and the shapes of R20
and R21. -/

namespace Sys2Proof.Machine

open Sys2Proof

/-- A launch record as read: 24 words of 64 bits. -/
abbrev Rec := List (BitVec 64)

/-- A field of the word at byte offset `off`. -/
def recF (r : Rec) (off lo n : Nat) : Nat := fld (r.getD (off / 8) 0).toNat lo n

def recDepth (r : Rec) : Nat := recF r 0 36 4
def recNar (r : Rec) : Nat := recF r 0 33 3
def recHv (r : Rec) : Nat := recF r 0 32 1
def recPrio (r : Rec) : Nat := recF r 0 29 3
def recDstep (r : Rec) : Nat := recF r 0 21 8
def recDphase (r : Rec) : Nat := recF r 0 13 8
def recFeat (r : Rec) : Nat := recF r 0x08 0 64
def recTrip (r : Rec) : Nat := recF r 0x10 0 32
def recHandler (r : Rec) : Nat := recF r 0x18 0 56

/-- The 32-bit word of level j. -/
def recLevel (r : Rec) (j : Nat) : Nat := recF r (0x20 + 8 * (j / 2)) (32 * (j % 2)) 32

def levCount (w : Nat) : Nat := fld w 0 16
def levDom (w : Nat) : Nat := fld w 16 3
def levScope (w : Nat) : Nat := fld w 19 3

/-- The level words of the shape, outermost first. -/
def recLevels (r : Rec) : List Nat := (List.range (recDepth r)).map (recLevel r)

/-- Loop record of a stream by index: prologue, kernel and epilogue addresses. -/
def recLoop (r : Rec) (st : Nat) : List Nat := (List.range 3).map (fun i => recF r (0x40 + 24 * st + 8 * i) 0 64)

/-- The declaration of arena i: pages, tier, zero-fill. -/
def recArena (r : Rec) (i : Nat) : Nat × Nat × Bool :=
  (recF r (0xA0 + 8 * i) 0 21, recF r (0xA0 + 8 * i) 21 1, recF r (0xA0 + 8 * i) 22 1 == 1)

def recArenas (r : Rec) : List (Nat × Nat × Bool) := (List.range (recNar r)).map (recArena r)

/-- Product of the counts of a list of levels. -/
def prodCounts (ls : List Nat) : Nat := ls.foldl (fun a w => a * levCount w) 1

/-- Tasks of a node instance. -/
def recTasks (r : Rec) : Nat := prodCounts (recLevels r)

/-- The levels bound to the package or below: the shape of one gang (R21). -/
def gangLevels (r : Rec) : List Nat := (recLevels r).filter (fun w => decide (levDom w ≤ 3))

/-- Whether the shape has a level above package (R281): a package, Relay-domain or fabric level. -/
def spansPackages (r : Rec) : Bool := (recLevels r).any (fun w => decide (4 ≤ levDom w))

/-- Whether the shape has a level above the Relay domain (R352): one whose instances are Relay domains, or the fabric (log entry
67). -/
def overFabric (r : Rec) : Bool := (recLevels r).any (fun w => decide (5 ≤ levDom w))

/-- Gangs of a node instance over all packages: one to a package (R21). -/
def recGangs (r : Rec) : Nat := prodCounts ((recLevels r).filter (fun w => decide (4 ≤ levDom w)))

/-- Tasks of one gang. -/
def gangTasks (r : Rec) : Nat := prodCounts (gangLevels r)

/-! ### Checks -/

/-- The limits of Table 16.1: row 3 of Table 16.3. -/
def recFieldsOk (r : Rec) : Bool :=
  let w (off : Nat) : Nat := recF r off 0 64
  let d := recDepth r
  let addrOk (a : Nat) : Bool := decide (a % 2 = 0 ∧ a / 2 ^ 56 = 0)
  decide (1 ≤ d ∧ d ≤ 8) && decide (recNar r ≤ 4) && recF r 0 0 2 == 0 &&
    recF r 0x10 32 32 == 0 && recF r 0x18 56 8 == 0 && (recHv r == 1 || w 0x18 == 0) && addrOk (recHandler r) &&
    (List.range 8).all (fun j =>
      let l := recLevel r j
      if j < d then
        l / 2 ^ 22 == 0 && decide (1 ≤ levCount l) && levDom l != 7 && decide (2 ≤ levScope l ∧ levScope l ≤ 6)
      else l == 0) &&
    (List.range 12).all (fun i => addrOk (w (0x40 + 8 * i))) &&
    (List.range 4).all (fun i =>
      if i < recNar r then
        w (0xA0 + 8 * i) / 2 ^ 23 == 0 && decide (1 ≤ (recArena r i).1 ∧ (recArena r i).1 ≤ 2 ^ 20)
      else w (0xA0 + 8 * i) == 0)

/-- Rank of a scope for the shape check (R21): cluster, comb, gang and package, system. -/
def scopeRank (s : Nat) : Nat :=
  match s with
  | 2 => 0 | 4 => 1 | 3 => 2 | 5 => 2 | _ => 3

/-- Cores available in a scope (Table 1.6); none for system. -/
def scopeCores (s : Nat) : Option Nat :=
  match s with
  | 2 => some 48 | 3 => some 2304 | 4 => some 576 | 5 => some 2304 | _ => none

/-- Cores of one instance of a domain; a package's number within a Relay domain is the job's (R21). -/
def domCores (d : Nat) : Nat :=
  match d with
  | 0 => 1 | 1 => 4 | 2 => 48 | 3 => 576 | _ => 2304

/-- Whether one level list is non-increasing under a key. -/
def narrowing (f : Nat → Nat) : List Nat → Bool
  | [] => true
  | [_] => true
  | a :: b :: r => decide (f b ≤ f a) && narrowing f (b :: r)

/-- The instances of domain `d` within one instance of the next larger domain that the shape uses, or within the scope of
the outermost level of `d` for the largest (R21); none sets no limit. `pkgs` is the length of the job package list. Table
1.6 has system software set the packages of a Relay domain and the Relay domains of the fabric, and no register holds
either: the model's choice is the length of the job package list for the first and no limit for the second (log entry
53). -/
def domLimit (ls : List Nat) (pkgs d : Nat) : Option Nat :=
  let above := (ls.filter (fun w => decide (d < levDom w))).map levDom
  match above.getLast? with
  | some e =>
    if e ≤ 4 then some (domCores e / domCores d) else if d ≤ 4 then some (pkgs * (2304 / domCores d)) else none
  | none =>
    match (ls.filter (fun w => levDom w == d)).head? with
    | none => none
    | some w => (scopeCores (levScope w)).map (fun n => if d ≤ 4 then n / domCores d else 0)

/-- A shape valid by R20 and R21. -/
def shapeOk (ls : List Nat) (pkgs : Nat) : Bool :=
  narrowing levDom ls && (match ls.getLast? with | some w => levDom w == 0 | none => false) &&
    (List.range 7).all (fun d =>
      match domLimit ls pkgs d with
      | none => true
      | some m => decide (prodCounts (ls.filter (fun w => levDom w == d)) ≤ m)) &&
    (List.range ls.length).all (fun i =>
      match scopeCores (levScope (ls.getD i 0)) with
      | none => true
      | some m => decide (prodCounts (ls.drop i) ≤ m)) &&
    narrowing (fun w => scopeRank (levScope w)) ls && decide (prodCounts ls ≤ 2 ^ 32)

end Sys2Proof.Machine
end

