-- ==== Sys2Proof/Machine/Work.lean ====
section
/-! DEFINITION. Commands in service, granule by granule (R75–R77, R87, R94–R96, R116, R184): the granules of rows, their
translation, reading and landing in any order, the faults that they meet, and the elements of gathers (R188, R312). -/

namespace Sys2Proof.Machine

open Sys2Proof

/-! ### Granules of rows (R65, R87) -/

/-- Splits an access into the 4-byte units of R65. -/
def units4 (a n : Nat) : List (Nat × Nat × Nat) :=
  (granules a n).flatMap (fun (b, m, p) =>
    if m ≤ 4 then [(b, m, p)] else (List.range (m / 4)).map (fun i => (b + 4 * i, 4, p + 4 * i)))

/-- The part of data at a position. -/
def part (d : List Byte) (p n : Nat) : List Byte := (d.drop p).take n

/-- Whether rows cover every byte of the tile at a G: address. -/
def coversTile (rows : List (Nat × Nat)) (t : Nat) : Bool :=
  rows.any (fun r => decide (r.1 ≤ t ∧ t + 1024 ≤ r.1 + r.2)) ||
    (List.range 1024).all (fun i => rows.any (fun r => decide (r.1 ≤ t + i ∧ t + i < r.1 + r.2)))

/-- The granules of `n` bytes at an address of a space, whose data begins at position `pos`. -/
def grainsAt (sp : Space) (a n pos : Nat) (cut : Nat → Nat → List (Nat × Nat × Nat)) : List Grain :=
  (cut a n).map (fun (b, m, p) => ⟨sp, b, m, pos + p, none, false⟩)

/-- How a space splits bytes: a buffer of the core in the units of R65, any other by R87. -/
def Space.cut : Space → Nat → Nat → List (Nat × Nat × Nat)
  | .B _ => units4
  | _ => granules

/-- The granules of rows that `cut` splits, each row's data behind that of the row before it; rows of G: that a command writes
and that cover a whole tile mark the granules of it. -/
def rowGrainsBy (cut : Nat → Nat → List (Nat × Nat × Nat)) (sp : Space) (write : Bool) (rows : List (Nat × Nat)) : List Grain :=
  (rows.foldl (fun (e : List Grain × Nat) r =>
    (e.1 ++ (grainsAt sp r.1 r.2 e.2 cut).map (fun g =>
      { g with whole := write && sp == .G && coversTile rows (g.addr / 1024 * 1024) }), e.2 + r.2)) ([], 0)).1

/-- The granules of rows as their space splits them. -/
def rowGrains (sp : Space) (write : Bool) (rows : List (Nat × Nat)) : List Grain := rowGrainsBy sp.cut sp write rows

/-- Bytes as data from a position on. -/
def dataAt (pos : Nat) (d : List Byte) : List (Nat × Byte) := addressed pos d

/-- The data at some positions, if all of it is there. -/
def Work.data (w : Work) (pos n : Nat) : Option (List Byte) :=
  (List.range n).mapM (fun i => (w.got.find? (fun e => e.1 == pos + i)).map (·.2))

/-- Whether a granule lies in host memory. -/
def Grain.onHost (g : Grain) : Bool := match g.phys with | some x => x.host | none => false

/-- Whether a granule is ready to be reached: it needs no translation, or has it. -/
def Grain.ready (g : Grain) : Bool := g.space != .G || g.phys.isSome

/-- Whether every granule of a command has translated. -/
def Work.translated (w : Work) : Bool := w.srcs.all Grain.ready && w.dsts.all Grain.ready

/-! ### Progress (R94, R96) -/

/-- Translates granules of a command; one that faults or waits is left. -/
def State.xlateAll (who : Nat × Nat) (p : Nat) (k : XKind) : List Grain → State → List Grain → State × List Grain
  | [], s, acc => (s, acc)
  | g :: gs, s, acc =>
    if g.ready then State.xlateAll who p k gs s (acc ++ [g])
    else
      match s.prepare who p g.addr g.n k g.whole with
      | .ok s1 x => State.xlateAll who p k gs s1 (acc ++ [{ g with phys := some x.place }])
      | .wait s1 => State.xlateAll who p k gs s1 (acc ++ [g])
      | .fault _ _ => State.xlateAll who p k gs s (acc ++ [g])

/-- Reads granules that are ready: those left, and the data read. -/
def State.readAll (ag : Agent) (v pol : Nat) : List Grain → State → List Grain → List (Nat × Byte) →
    State × List Grain × List (Nat × Byte)
  | [], s, acc, got => (s, acc, got)
  | g :: gs, s, acc, got =>
    match s.readGrain ag v pol g with
    | .ok s1 bs => State.readAll ag v pol gs s1 acc (got ++ dataAt g.pos bs)
    | .wait s1 => State.readAll ag v pol gs s1 (acc ++ [g]) got
    | .fault _ _ => State.readAll ag v pol gs s (acc ++ [g]) got

/-- Whether a granule lies in a tile of device memory. -/
def Grain.inTile (t : Nat) (g : Grain) : Bool := match g.phys with | some x => !x.host && x.pa / 1024 == t | none => false

/-- Whether a byte of a tile lies in a granule. -/
def Grain.holds (pa : Nat) (g : Grain) : Bool :=
  match g.phys with | some x => !x.host && decide (x.pa ≤ pa ∧ pa < x.pa + g.n) | none => false

/-- The bytes of a tile that granules still to be written cover whole, once they are there. -/
def tileBytes (dat : Grain → Option (List Byte)) (ds : List Grain) (t : Nat) : Option (List Byte) :=
  (List.range 1024).mapM (fun i =>
    match ds.find? (Grain.holds (1024 * t + i)) with
    | none => none
    | some g => (dat g).bind (fun d => d[1024 * t + i - (match g.phys with | some x => x.pa | none => 0)]?))

/-- Whether granules still to be written cover a tile. -/
def tileLeft (ds : List Grain) (t : Nat) : Bool := (List.range 1024).all (fun i => ds.any (Grain.holds (1024 * t + i)))

/-- Whether a granule of a tile of G: that a command writes whole is still to be translated. -/
def tileWaits (ds : List Grain) (va : Nat) : Bool := ds.any (fun h => h.whole && h.phys.isNone && h.addr / 1024 == va / 1024)

/-- The write that lands a granule, if its data is there: the granule's own, or, where the command writes a whole tile that
is not resident, the whole tile at once, which waits for all of its granules (R75, R76, Table 3.7). With it, the granules that
remain. -/
def State.landing (s : State) (dat : Grain → Option (List Byte)) (ds : List Grain) (g : Grain) :
    Option (Grain × List Byte × Bool × List Grain) :=
  let one : Option (Grain × List Byte × Bool × List Grain) := (dat g).map (fun d => (g, d, false, ds.erase g))
  match g.phys with
  | some x =>
    let t := x.pa / 1024
    if g.whole && !x.host && tileWaits ds g.addr then none
    else if g.whole && !x.host && !s.resident t && tileLeft ds t then
      (tileBytes dat ds t).map (fun d =>
        ({ g with addr := g.addr - x.pa % 1024, n := 1024, phys := some { x with pa := 1024 * t } }, d, true,
          ds.filter (fun h => !h.inTile t)))
    else one
  | none => if g.space = .G then none else one

/-- Lands granules of a command as far as their data is there: the granules that remain. A command that has delivered gives
up what it can no longer write. -/
def State.landAll (ag : Agent) (v pol : Nat) (late : Bool) (dat : Grain → Option (List Byte)) :
    List Grain → State → List Grain → State × List Grain
  | [], s, ds => (s, ds)
  | g :: gs, s, ds =>
    if !ds.contains g then State.landAll ag v pol late dat gs s ds
    else
      match s.landing dat ds g with
      | none => State.landAll ag v pol late dat gs s ds
      | some (h, d, whole, rest) =>
        match s.writeGrain ag v pol h d whole with
        | .ok s1 _ => State.landAll ag v pol late dat gs s1 rest
        | .wait s1 => State.landAll ag v pol late dat gs s1 ds
        | .fault _ _ => State.landAll ag v pol late dat gs s (if late then rest else ds)

/-- Who serves a command: its core and policy, the agents of its reads and of its writes, and the data of its granules. -/
structure Server where
  v : Nat
  pol : Nat
  reads : Agent
  writes : Agent
  dat : Work → Grain → Option (List Byte)

/-- Some granules of a command are read and some land, by a free choice. -/
def State.moveOn (s : State) (sv : Server) (w : Work) : State × Work :=
  let (r, r') := chosen s.tick w.srcs (2 ^ 17)
  let (s1, r1, got) := State.readAll sv.reads sv.v sv.pol r s [] []
  let w1 : Work := { w with srcs := r1 ++ r', got := w.got ++ got }
  let (s2, ds) := State.landAll sv.writes sv.v sv.pol false (sv.dat w1) (chosen s.tick w1.dsts (2 ^ 18)).1 s1 w1.dsts
  (s2, { w1 with dsts := ds })

/-- A command goes on by a free choice of its granules: some translate, some are read, some land (R94, R96). -/
def State.workOn (s : State) (sv : Server) (w : Work) : State × Work :=
  let p := s.partOf sv.v
  let (a, a') := chosen s.tick w.srcs 0
  let (s1, a1) := State.xlateAll sv.reads.who p .read a s []
  let (b, b') := chosen s.tick w.dsts (2 ^ 16)
  let (s2, b1) := State.xlateAll sv.writes.who p .write b s1 []
  s2.moveOn sv { w with srcs := a1 ++ a', dsts := b1 ++ b' }

/-- Every granule that can goes on: all translate, are read and land. -/
def State.workAll (s : State) (sv : Server) (w : Work) : State × Work :=
  let p := s.partOf sv.v
  let (s1, a1) := State.xlateAll sv.reads.who p .read w.srcs s []
  let (s2, b1) := State.xlateAll sv.writes.who p .write w.dsts s1 []
  let (s3, r1, got) := State.readAll sv.reads sv.v sv.pol a1 s2 [] []
  let w1 : Work := { w with srcs := r1, dsts := b1, got := w.got ++ got }
  let (s4, ds) := State.landAll sv.writes sv.v sv.pol false (sv.dat w1) w1.dsts s3 w1.dsts
  (s4, { w1 with dsts := ds })

/-- Some granules land, whatever may be left of them: those of a command that has delivered, whose data is at hand (R95), or
that ends, each then written or not, independently (R116). -/
def State.landSome (s : State) (sv : Server) (w : Work) : State × Work :=
  let (s1, ds) := State.landAll sv.writes sv.v sv.pol true (sv.dat w) (chosen s.tick w.dsts 0).1 s w.dsts
  (s1, { w with dsts := ds })

/-! ### Faults (R190) -/

/-- The fault that a granule meets when it is translated. -/
def State.xlateFault (s : State) (who : Nat × Nat) (p : Nat) (k : XKind) (g : Grain) : Option (State × Cause × Nat) :=
  if g.ready then none
  else match s.prepare who p g.addr g.n k g.whole with | .fault s1 c => some (s1, c, g.addr) | _ => none

/-- The fault that a granule meets when it is read. -/
def State.readFault (s : State) (sv : Server) (g : Grain) : Option (State × Cause × Nat) :=
  if g.ready then (match s.readGrain sv.reads sv.v sv.pol g with | .fault s1 c => some (s1, c, g.addr) | _ => none) else none

/-- The fault that a granule meets when it lands. -/
def State.landFault (s : State) (sv : Server) (w : Work) (g : Grain) : Option (State × Cause × Nat) :=
  match s.landing (sv.dat w) w.dsts g with
  | none => none
  | some (h, d, whole, _) =>
    match s.writeGrain sv.writes sv.v sv.pol h d whole with | .fault s1 c => some (s1, c, g.addr) | _ => none

/-- A list from a freely chosen place on. -/
def turned {α : Type} (n : Nat) (l : List α) : List α := l.drop (n % (l.length + 1)) ++ l.take (n % (l.length + 1))

/-- A fault that a command meets in service: that of one of its granules, whichever it reaches first. -/
def State.workFault (s : State) (sv : Server) (w : Work) : Option (State × Cause × Nat) :=
  let p := s.partOf sv.v
  let n := Config.freeNat 26 s.tick
  ((turned n w.srcs).findSome? (fun g =>
      match s.xlateFault sv.reads.who p .read g with | some f => some f | none => s.readFault sv g)).or
    ((turned n w.dsts).findSome? (fun g =>
      match s.xlateFault sv.writes.who p .write g with | some f => some f | none => s.landFault sv w g))

/-- The host page of an address. -/
def pageOf (a : Nat) : Nat := a / 2 ^ 16 * 2 ^ 16

/-- The pages of one fault. -/
def pagesOf (c : Cause) (a : Nat) : List Nat := if c = .hostOutstanding then [pageOf a] else []

/-! ### Gathers and scatters (R121, R188, R312) -/

/-- A gather or scatter: its direction, element size, the offset of its index list in S, its base and shift, and its buffer. -/
structure Gather where
  get : Bool
  size : Nat
  idx : Nat
  base : Nat
  sh : Nat
  buf : Space
  off : Nat

/-- The G: address of an element, from its index. -/
def Gather.addr (g : Gather) (x : Nat) : Nat := g.base + x * 2 ^ g.sh

/-- The buffer granules of element i. -/
def Gather.side (g : Gather) (i : Nat) : List Grain := grainsAt g.buf (g.off + i * g.size) g.size (i * g.size) g.buf.cut

/-- The granule of element i in G:, which its alignment makes one (R188), from its index. -/
def Gather.far (g : Gather) (i x : Nat) : List Grain := grainsAt .G (g.addr x) g.size (i * g.size) granules

/-- What a gather or scatter of some elements has to do. -/
def Gather.plan (g : Gather) (els : List Nat) : Work :=
  { idx := els
    srcs := if g.get then [] else els.flatMap g.side
    dsts := if g.get then els.flatMap g.side else []
    got := []
    marked := [] }

/-- The index of element i as the command reads it (R188). -/
def State.indexAt (s : State) (sv : Server) (g : Gather) (i : Nat) : State × Nat :=
  let (s1, bs) := s.sPort sv.reads sv.v (g.idx + 4 * i) 4 .load
  (s1, leNat bs)

/-- Whether an element with an index passes the last address of G: (R188). -/
def Gather.past (g : Gather) (x : Nat) : Bool := decide (2 ^ 56 < g.addr x + g.size)

/-- The index of element i is read, which makes its granule in G: due. An index whose element would pass the last address
of G: is left: it faults. -/
def State.readIndex (s : State) (sv : Server) (g : Gather) (w : Work) (i : Nat) : State × Work :=
  let (s1, x) := s.indexAt sv g i
  if g.past x then (s, w)
  else
    (s1,
      if g.get then { w with idx := w.idx.erase i, srcs := w.srcs ++ g.far i x }
      else { w with idx := w.idx.erase i, dsts := w.dsts ++ g.far i x })

/-- Some indices are read. -/
def State.readIndices (sv : Server) (g : Gather) : List Nat → State → Work → State × Work
  | [], s, w => (s, w)
  | i :: is, s, w =>
    let (s1, w1) := s.readIndex sv g w i
    State.readIndices sv g is s1 w1

/-- Elements translate; one whose translation fails or waits on a page request is marked, and makes no access (R312). So is one
whose arena has died. One that waits for a reply is left. -/
def State.markAll (who : Nat × Nat) (p size : Nat) (k : XKind) : List Grain → State → List Grain →
    List (Nat × Nat × Cause) → State × List Grain × List (Nat × Nat × Cause)
  | [], s, acc, m => (s, acc, m)
  | g :: gs, s, acc, m =>
    if g.space = .G ∧ s.outlived p g.addr then
      State.markAll who p size k gs s acc (m ++ [(g.pos / size, g.addr, Cause.outlived)])
    else if g.ready then State.markAll who p size k gs s (acc ++ [g]) m
    else
      match s.prepare who p g.addr g.n k false with
      | .ok s1 x => State.markAll who p size k gs s1 (acc ++ [{ g with phys := some x.place }]) m
      | .wait s1 => State.markAll who p size k gs s1 (acc ++ [g]) m
      | .fault s1 c => State.markAll who p size k gs s1 acc (m ++ [(g.pos / size, g.addr, c)])

/-- Which of a list are served: all, or some by a free choice. -/
def served {α : Type} (tick : Nat) (all : Bool) (l : List α) (i : Nat) : List α × List α :=
  if all then (l, []) else chosen tick l i

/-- A gather or scatter goes on: indices are read, elements translate or are marked, and some of those that have translated
move. A mark stays, whatever becomes of its page (R312). -/
def State.gatherOn (s : State) (sv : Server) (g : Gather) (w : Work) (all : Bool) : State × Work :=
  let (s1, w1) := State.readIndices sv g (served s.tick all w.idx (2 ^ 19)).1 s w
  let p := s.partOf sv.v
  let (a, a') := served s.tick all w1.srcs 0
  let (s2, a1, m1) := State.markAll sv.reads.who p g.size .read a s1 [] []
  let (b, b') := served s.tick all w1.dsts (2 ^ 16)
  let (s3, b1, m2) := State.markAll sv.writes.who p g.size .write b s2 [] []
  s3.moveOn sv { w1 with srcs := a1 ++ a', dsts := b1 ++ b', marked := w1.marked ++ m1 ++ m2 }

/-- Whether every element of a gather or scatter has either translated or been marked, and one has been: the core parks
(R312). -/
def Work.stops (w : Work) : Bool := w.idx.isEmpty && w.translated && !w.marked.isEmpty

/-- The mask of marked elements. -/
def Work.mask (w : Work) : Nat := w.marked.foldl (fun a e => a ||| 2 ^ e.1) 0

/-- The lowest-numbered marked element. -/
def Work.lowest (w : Work) : Option (Nat × Nat × Cause) :=
  match w.marked with
  | [] => none
  | e :: es => some (es.foldl (fun a x => if x.1 < a.1 then x else a) e)

/-- An element that would pass the last address of G: is an addressing fault of the command (R188): its address. -/
def State.badIndex (s : State) (sv : Server) (g : Gather) (w : Work) : Option Nat :=
  (w.idx.find? (fun i => g.past (s.indexAt sv g i).2)).map (fun i => g.addr (s.indexAt sv g i).2)

/-- A fault that a gather or scatter meets: the state, the work, and the cause and address that its record names, those of the
lowest-numbered marked element (R312). -/
def State.gatherFault (s : State) (sv : Server) (g : Gather) (w : Work) : Option (State × Work × Cause × Nat) :=
  match s.badIndex sv g w with
  | some a => some (s, w, .addressing, a)
  | none =>
    let (s1, w1) := s.gatherOn sv g w true
    if w1.stops then w1.lowest.map (fun e => (s1, w1, e.2.2, e.2.1)) else none

/-- The elements of a gather or scatter that wait on a host page are marked "host page refused" (R301): the work, and the
lowest-numbered of them with its G: address. -/
def Work.refused (w : Work) (size a : Nat) : Work × Option (Nat × Nat) :=
  let hit (g : Grain) : Bool := !g.ready && pageOf g.addr == a
  let new := ((w.srcs ++ w.dsts).filter hit).map (fun g => (g.pos / size, g.addr, Cause.hostRefused))
  let old := (w.marked.filter (fun e => e.2.2 == .hostOutstanding && pageOf e.2.1 == a)).map (fun e => (e.1, e.2.1, Cause.hostRefused))
  let w1 : Work :=
    { w with
      srcs := w.srcs.filter (fun g => !hit g)
      dsts := w.dsts.filter (fun g => !hit g)
      marked := new ++ old ++ w.marked.filter (fun e => !(e.2.2 == .hostOutstanding && pageOf e.2.1 == a)) }
  (w1, (Work.lowest { w1 with marked := new ++ old }).map (fun e => (e.1, e.2.1)))

/-- Whether every element that has translated has been performed: what is left belongs to marked elements (R312), or to an
arena that has died since (R82). -/
def State.performed (s : State) (p : Nat) (w : Work) (size : Nat) : Bool :=
  let mine (g : Grain) : Bool := w.marked.any (fun e => e.1 == g.pos / size) || (g.space == .G && s.outlived p g.addr)
  w.srcs.all mine && w.dsts.all mine && w.idx.isEmpty

/-- The marked elements are due again at the addresses that their indices gave, which are read no more (R307). -/
def Gather.resume (g : Gather) (w : Work) : Work :=
  let far := w.marked.flatMap (fun e => grainsAt .G e.2.1 g.size (e.1 * g.size) granules)
  if g.get then { w with srcs := w.srcs ++ far, marked := [] } else { w with dsts := w.dsts ++ far, marked := [] }

/-- The marked elements are due again, with their indices and, for a scatter, their data (R190, Table 8.7). -/
def Gather.again (g : Gather) (w : Work) : Work :=
  let els := (w.marked.map (·.1)).filter (fun i => !w.idx.contains i)
  let other (pos : Nat) : Bool := !els.contains (pos / g.size)
  { w with
    idx := w.idx ++ els
    srcs := w.srcs.filter (fun x => other x.pos) ++ (if g.get then [] else els.flatMap g.side)
    got := w.got.filter (fun e => other e.1)
    marked := [] }

end Sys2Proof.Machine
end

