-- ==== Sys2Proof/Machine/Engines.lean ====
section
/-! DEFINITION. Shared engines (R101–R118): identities, slots, CheckCommand, Admit and Engage, leases, holds and
recalls. -/

namespace Sys2Proof.Machine

open Sys2Proof

/-! ### Classes and identities (Tables 5.1, 19.5) -/

def clsCount (c : Nat) : Nat := [12, 8, 8, 4, 8, 4].getD c 0
def clsSlots (c : Nat) : Nat := [2, 4, 2, 2, 4, 8].getD c 0
def clsCost (c : Nat) : Nat := [10, 8, 9, 6, 30, 40].getD c 0

/-- Whether a class has a comb as its domain. -/
def clsComb (c : Nat) : Bool := c == 4 || c == 5

/-- The identity of engine `idx` of a class in core v's domain (Table 19.5); physical and virtual numbers agree. -/
def engId (v cls idx : Nat) : Nat :=
  combOf v * 2 ^ 14 + (if clsComb cls then 15 else clusterOf v % 12) * 2 ^ 10 + cls * 2 ^ 7 + idx

def engCls (e : Nat) : Nat := fld e 7 3
def engComb (e : Nat) : Nat := fld e 14 2

/-- The cluster number 0–47 of a cluster engine. -/
def engCluster (e : Nat) : Nat := engComb e * 12 + fld e 10 4

/-- Whether an identity names an engine. -/
def engExists (e : Nat) : Bool :=
  e / 2 ^ 16 == 0 && fld e 4 3 == 0 && decide (fld e 0 4 < clsCount (engCls e)) &&
    (if clsComb (engCls e) then fld e 10 4 == 15 else decide (fld e 10 4 ≤ 11))

def State.engine (s : State) (e : Nat) : Engine := Tab.get Engine.asleep s.engines e
def State.setEngine (s : State) (e : Nat) (x : Engine) : State := { s with engines := Tab.set Engine.asleep s.engines e x }

/-- The moment by which an engine orders requests: the C-cycle, or for a comb engine the calendar slot (R105). -/
def State.engNow (s : State) (e : Nat) : Nat := if clsComb (engCls e) then s.slot else s.clock

/-- The place of core v's request in the rotating order of the present moment at engine e (R105). -/
def State.engPos (s : State) (e v : Nat) : Nat :=
  let n := if clsComb (engCls e) then 576 else 48
  (v % n + n - s.engNow e % n) % n

/-- The engines that a list names for a request of core v. -/
def listed (v cls : Nat) (list : BitVec 64) : List Nat :=
  ((List.range 4).filter (fun i => fld list.toNat (16 * i + 15) 1 == 1)).map (fun i => engId v cls (fld list.toNat (16 * i) 4))

/-- Whether a request of core v may be decided now: none that follows it in the rotating order has been decided at the same
moment by an engine that it names (R105). -/
def State.engTurn (s : State) (v cls : Nat) (list : BitVec 64) : Bool :=
  (listed v cls list).all (fun e =>
    (s.engine e).seenAt != s.engNow e + 1 || decide ((s.engine e).seenPos < s.engPos e v))

/-- The engines of a list have decided a request of core v. -/
def State.engSeen (s : State) (v cls : Nat) (list : BitVec 64) : State :=
  (listed v cls list).foldl (fun s e =>
    s.setEngine e { s.engine e with seenAt := s.engNow e + 1, seenPos := s.engPos e v, seenClk := s.clock + 1 }) s

/-- Whether engine e has decided no request in this C-cycle: a hold comes before the requests of its C-cycle, and so does a
recall (R105). -/
def State.engFresh (s : State) (e : Nat) : Bool := (s.engine e).seenClk != s.clock + 1

/-- Whether the last lease of an engine has ended in this C-cycle: it refuses requests from the next on (R114). -/
def State.justEnded (s : State) (e : Nat) : Bool := (s.engine e).leases.isEmpty && (s.engine e).endClk == s.clock + 1

/-- Slots of an engine that are free and not held (R103). -/
def State.freeSlots (s : State) (e : Nat) : Nat :=
  clsSlots (engCls e) - (s.ecmds.filter (fun c => c.eng == e && c.occupying)).length - (s.engine e).holds.length

/-- The partition of a lease. -/
def State.lesseePart (s : State) : Lessee → Nat
  | .standing p => p
  | .node n => match s.nodes.find? (fun e => e.1 == n) with | some (_, nd) => nd.part | none => 0

/-- Whether a partition holds a lease on an engine. -/
def State.leasesEng (s : State) (p e : Nat) : Bool :=
  (s.engine e).leases.any (fun l => s.lesseePart l == p) || (s.justEnded e && (s.engine e).part == p)

/-- An engine with no lease, no occupied slot and no pending completion falls asleep (R113). -/
def State.mayDoze (s : State) (e : Nat) : State :=
  let x := s.engine e
  if x.leases.isEmpty ∧ !s.justEnded e ∧ s.ecmds.all (fun c => c.eng != e) then
    s.setEngine e { x with wake := .asleep, part := 0, grant := 0 }
  else s

/-- Replaces a command; one that has delivered, left its slot and performed goes, and its engine may doze. -/
def State.setEcmd (s : State) (c : ECmd) : State :=
  if c.delivered ∧ !c.occupying ∧ c.work.dsts.isEmpty then
    State.mayDoze { s with ecmds := s.ecmds.filter (fun x => x.id != c.id) } c.eng
  else { s with ecmds := s.ecmds.map (fun x => if x.id = c.id then c else x) }

/-! ### Holds (R110) -/

/-- Cores of an engine's domain, and a core's index in it (R105). -/
def domSize (e : Nat) : Nat := if clsComb (engCls e) then 576 else 48
def domBase (e : Nat) : Nat := if clsComb (engCls e) then engComb e * 576 else engCluster e * 48

/-- The first marked core at or after the pointer, around the domain (R110). -/
def nextMarked (base size ptr : Nat) (marked : List Nat) : Option Nat :=
  (List.range size).find? (fun i => marked.contains (base + (ptr + i) % size)) |>.map (fun i => base + (ptr + i) % size)

/-- The hold that is due (R110): once in a lap, an awake engine with a marked core and a free slot holds that slot for the next
marked core at its pointer, and moves the pointer past it. -/
def State.holdNow (s : State) (e : Nat) : State :=
  let x := s.engine e
  if engExists e ∧ x.wake = .awake ∧ x.heldLap ≠ s.slot / 512 + 1 ∧ 1 ≤ s.freeSlots e then
    match nextMarked (domBase e) (domSize e) x.ptr x.marked with
    | none => s
    | some v =>
      s.setEngine e
        { x with
          ptr := (v - domBase e + 1) % domSize e
          holds := x.holds ++ [⟨v, s.slot⟩]
          heldLap := s.slot / 512 + 1 }
  else s

/-- A hold that is due is made before the engine decides the requests of the C-cycle (R105, R110). -/
def State.makeHold (s : State) (e : Nat) : State := if s.engFresh e then s.holdNow e else s

/-! ### CheckCommand (R118) -/

/-- The descriptor's field. -/
def desF (d : BitVec 256) (lo n : Nat) : Nat := fld d.toNat lo n

def hdrCls (h : BitVec 64) : Nat := fld h.toNat 61 3
def hdrCmd (h : BitVec 64) : Nat := fld h.toNat 58 3
def hdrKd (h : BitVec 64) : Nat := fld h.toNat 52 6
def hdrId (h : BitVec 64) : Nat := fld h.toNat 40 12
def hdrKs (h : BitVec 64) : Nat := fld h.toNat 34 6
def hdrIs (h : BitVec 64) : Nat := fld h.toNat 28 6
def hdrClass (h : BitVec 64) : Nat := fld h.toNat 24 4
def hdrScope (h : BitVec 64) : Nat := fld h.toNat 21 3

/-- Whether `n` bytes from an offset lie within S. -/
def inS (off n : Nat) : Bool := decide (off + n ≤ 0x40000)

/-- Element size of a gather (Table 5.11). -/
def gthSize (d : BitVec 256) : Nat := 4 * 2 ^ desF d 135 2

/-- Element size of a collective (Table 5.14). DESIGN CHOICE (log entry 75): `col.bcast` and `col.cat`, to which the table gives no
element type, take elements of 1 byte. -/
def colSize (h : BitVec 64) (d : BitVec 256) : Nat :=
  if hdrCmd h = 0 then (if desF d 32 2 = 1 then 2 else 4) else 1

/-- Whether two N-row blocks of W share a byte (R123). -/
def blocksMeet (a pa b pb n len : Nat) : Bool :=
  (List.range n).any (fun i => (List.range n).any (fun j => meets (a + i * pa) len (b + j * pb) len))

/-- The descriptor of a command lies within the limits of its table (R118, case 1). -/
def State.descOk (s : State) (p : Nat) (h : BitVec 64) (d : BitVec 256) : Bool :=
  let z (lo hi : Nat) : Bool := desF d lo (hi - lo + 1) == 0
  let f := desF d
  match hdrCls h with
  | 0 =>
    decide (hdrCmd h ≤ 3) && z 50 255 && z 21 31 && f 32 18 % 8 == 0 && f 18 2 != 3 && decide (1 ≤ f 11 7 ∧ f 11 7 ≤ 64) &&
      inS (f 32 18) (8 * f 11 7) && decide (f 0 11 + f 11 7 ≤ (if f 20 1 = 0 then 1024 else 1536))
  | 1 =>
    decide (hdrCmd h ≤ 1) && z 140 255 && z 114 127 && z 82 95 && z 56 63 && f 135 2 != 3 &&
      decide (1 ≤ f 128 7 ∧ f 128 7 ≤ 64) && f 96 18 % gthSize d == 0 && f 64 18 % 4 == 0 && f 0 56 % gthSize d == 0 &&
      decide (f 135 2 + 2 ≤ f 137 3) && inS (f 96 18) (f 128 7 * gthSize d) && inS (f 64 18) (4 * f 128 7)
  | 2 =>
    let n := f 128 13
    let src := f 0 18
    let dst := f 32 18
    let dsti := f 64 18
    let mask := f 96 18
    let common := z 167 255 && z 141 159 && z 114 127 && z 82 95 && z 50 63 && z 18 31 && decide (1 ≤ n ∧ n ≤ 4096) &&
      src % 4 == 0 && dst % 4 == 0 && dsti % 4 == 0 && mask % 4 == 0 && inS src (4 * n)
    if hdrCmd h = 0 then
      let k := f 160 7
      common && decide (1 ≤ k ∧ k ≤ 64 ∧ k ≤ n) && mask == 0 && inS dst (4 * k) && inS dsti (4 * k) &&
        !meets src (4 * n) dst (4 * k) && !meets src (4 * n) dsti (4 * k)
    else if hdrCmd h = 1 then
      common && f 160 7 == 0 && inS mask (4 * n) && inS dst (4 * n) && inS dsti 4 &&
        !meets src (4 * n) dst (4 * n) && !meets src (4 * n) dsti 4 && !meets mask (4 * n) dst (4 * n) &&
        !meets mask (4 * n) dsti 4
    else false
  | 3 =>
    let n := f 64 8
    let sz := 2 ^ f 72 2
    let src := f 0 19
    let dst := f 32 19
    let ps := f 80 16
    let pd := f 96 16
    hdrCmd h == 0 && z 112 255 && z 74 79 && z 51 63 && z 19 31 && f 72 2 != 3 && n % 8 == 0 &&
      decide (8 ≤ n ∧ n ≤ 128) && decide (n * sz ≤ ps ∧ n * sz ≤ pd) &&
      decide (src + (n - 1) * ps + n * sz ≤ 0x80000 ∧ dst + (n - 1) * pd + n * sz ≤ 0x80000) &&
      !blocksMeet src ps dst pd n (n * sz)
  | 4 =>
    let len := f 192 17
    decide (hdrCmd h ≤ 2) && z 209 255 && z 184 191 && z 120 127 && z 34 47 && decide (1 ≤ len ∧ len ≤ 65536) &&
      len % colSize h d == 0 && f 0 16 != 0 && f 16 16 != 0 &&
      (if hdrCmd h = 0 then f 32 2 != 3 else f 32 2 == 0) &&
      (if hdrCmd h = 1 then decide (f 48 16 < f 16 16) else f 48 16 == 0)
  | 5 =>
    let conn := (Tab.get 0 s.ueConn (f 0 24)).toNat
    decide (hdrCmd h ≤ 2) && z 224 255 && z 113 127 && z 88 95 && z 24 31 && decide (1 ≤ f 96 17 ∧ f 96 17 ≤ 65536) &&
      (hdrCmd h == 1 || f 128 64 == 0) && (hdrCmd h == 2 || hdrScope h == 6) &&
      decide (f 0 24 < 16384) && fld conn 40 2 == 1 && fld conn 42 5 == p
  | _ => false

/-- The G: address fields of a descriptor. -/
def descAddrs (h : BitVec 64) (d : BitVec 256) : List Nat :=
  match hdrCls h with
  | 1 => [desF d 0 56]
  | 4 => [desF d 64 56, desF d 128 56]
  | 5 => [desF d 32 56]
  | _ => []

/-- The tasks that a collective of core v may count on (R124, R352). -/
def State.liveTasks (s : State) (v : Nat) : Nat :=
  match (s.core v).task with
  | none => 0
  | some t =>
    match s.nodes.find? (fun e => e.1 == t.node) with
    | none => 0
    | some (_, nd) =>
      (if spansPackages nd.record then recTasks nd.record else nd.cores.length) - nd.done.length

/-- CheckCommand(H, D) of R118: 0 none, 6 malformed, 5 outlived, 7 participants. -/
def State.checkCommand (s : State) (v : Nat) (h doff : BitVec 64) (d : BitVec 256) : Nat :=
  let p := s.partOf v
  if hdrScope h = 7 ∨ h.toNat % 2 ^ 21 ≠ 0 ∨ doff.toNat / 2 ^ 18 ≠ 0 ∨ doff.toNat % 32 ≠ 0 ∨ !s.descOk p h d then 6
  else if (descAddrs h d).any (s.outlived p) then 5
  else if hdrCls h = 4 ∧ s.liveTasks v < desF d 16 16 then 7
  else 0

/-! ### Admission (R103) -/

/-- An entry of a baton list. -/
def entryAt (list : BitVec 64) (i : Nat) : Nat := fld list.toNat (16 * i) 16

/-- The reserve and the marking threshold K of a class for a partition (R101). -/
def State.reserve (s : State) (p cls : Nat) : Nat := s.regF (lseRes p) (3 * cls) 3
def State.kOf (s : State) (p cls : Nat) : Nat := s.regF (lseK p) (4 * cls) 4

/-- The streak of a class (R109). -/
def Core.streakOf (c : Core) (cls : Nat) : Nat := if h : cls < 6 then c.streak[cls].toNat else 0

def Core.setStreak (c : Core) (cls n : Nat) : Core :=
  if h : cls < 6 then { c with streak := c.streak.set cls (BitVec.ofNat 4 n) h } else c

/-- Adds to an overflow counter, saturating (R107): kind 0 first, 1 alt, 2 list. -/
def Core.addOvf (c : Core) (cls kind n : Nat) : Core :=
  if h : 3 * cls + kind < 18 then
    { c with ovf := c.ovf.set (3 * cls + kind) (BitVec.ofNat 32 (min (c.ovf[3 * cls + kind].toNat + n) (2 ^ 32 - 1))) h }
  else c

/-- Admit(e, H, pos) of R103 without its effects: the outcome code, and whether a held slot is taken. -/
def State.admitCode (s : State) (v cls entry pos : Nat) (marked : Bool) : Nat × Bool :=
  let p := s.partOf v
  let idx := fld entry 0 4
  let e := engId v cls idx
  let x := s.engine e
  if clsCount cls ≤ idx then (4, false)
  else if clsComb cls ∧ (!s.leasesEng p e ∨ !s.ownsEng p (combOf v)) then (4, false)
  else if x.leases.isEmpty ∧ !s.justEnded e then (3, false)
  else if marked ∧ x.holds.any (fun h => h.core == v) then (0, true)
  else
    let f := s.freeSlots e
    if pos = 0 ∧ 1 ≤ f then (0, false)
    else if 0 < pos ∧ s.reserve p cls < f then (0, false)
    else (if f = 0 ∨ pos = 0 then 1 else 2, false)

/-- Removes one hold of a core. -/
def dropHold (v : Nat) : List Hold → List Hold
  | [] => []
  | h :: r => if h.core = v then r else h :: dropHold v r

/-- A gather or scatter command (R121): its elements lie in S of its core. -/
def ECmd.gather (c : ECmd) : Gather :=
  { get := hdrCmd c.hdr == 0, size := gthSize c.desc, idx := desF c.desc 64 18, base := desF c.desc 0 56,
    sh := desF c.desc 137 3, buf := .S c.core, off := desF c.desc 96 18 }

/-- A field of a command's descriptor. -/
def ECmd.f (c : ECmd) (lo n : Nat) : Nat := desF c.desc lo n

def ECmd.cls (c : ECmd) : Nat := hdrCls c.hdr
def ECmd.cmd (c : ECmd) : Nat := hdrCmd c.hdr

/-- The rows of the block of a transpose at an offset, from its pitch (R123). -/
def ECmd.block (c : ECmd) (off pitch : Nat) : List (Nat × Nat) :=
  (List.range (c.f 64 8)).map (fun b => (off + b * pitch, c.f 64 8 * 2 ^ c.f 72 2))

/-- What a command has to do from its beginning: a row command a phase of each row, at 4 × row + phase; a gather or scatter its
elements; a select, collective or send the reading of its source; a transpose its reads and writes. -/
def ECmd.plan (c : ECmd) : Work :=
  match c.cls with
  | 0 => { Work.idle with idx := (List.range (c.f 11 7)).map (fun j => 4 * j + (if c.cmd = 3 then 1 else c.cmd + 1)) }
  | 1 => c.gather.plan (List.range (c.f 128 7))
  | 2 =>
    { Work.idle with
      srcs := rowGrains (.S c.core) false
        ((c.f 0 18, 4 * c.f 128 13) :: (if c.cmd = 1 then [(c.f 96 18, 4 * c.f 128 13)] else [])) }
  | 3 =>
    { Work.idle with
      srcs := rowGrains (.B .W) false (c.block (c.f 0 19) (c.f 80 16))
      dsts := rowGrains (.B .W) true (c.block (c.f 32 19) (c.f 96 16)) }
  | 4 => { Work.idle with srcs := rowGrains .G false [(c.f 64 56, c.f 192 17)] }
  | 5 => if c.cmd = 2 then Work.idle else { Work.idle with srcs := rowGrains .G false [(c.f 32 56, c.f 96 17)] }
  | _ => Work.idle

/-- The bytes of a granule of a transpose: position (b, a) of the destination is element (a, b) of the source (R123). -/
def ECmd.turnedBytes (c : ECmd) (w : Work) (pos n : Nat) : Option (List Byte) :=
  let e := c.f 64 8
  let sz := 2 ^ c.f 72 2
  (List.range n).mapM (fun i =>
    let q := pos + i
    let b := q / (e * sz)
    let a := q % (e * sz) / sz
    (w.got.find? (fun x => x.1 == (a * e + b) * sz + q % sz)).map (·.2))

/-- Who serves a command: its accesses carry the header's class, and pass the L2 at default policy (R106, R117). What it reads
precedes its released event, but for the elements of a gather (Table 5.9). -/
def State.eServer (s : State) (c : ECmd) : Server :=
  let ev := s.event c.core (eThread c.id) 0 (hdrClass c.hdr)
  { v := c.core, pol := 0, reads := ⟨(numCores, c.id), some (numCores, c.id), some (if c.cls = 1 ∧ c.cmd = 0 then { ev with po := 2 } else ev)⟩,
    writes := ⟨(numCores, c.id), some (numCores, c.id), some { ev with po := 2 }⟩,
    dat := fun w g => if c.cls = 3 then c.turnedBytes w g.pos g.n else w.data g.pos g.n }

/-- The command that an admission makes. -/
def EReq.command (r : EReq) (s : State) (entry e seq : Nat) : ECmd :=
  let c : ECmd :=
    { id := s.fresh, eng := e, entry := entry, core := r.core, hdr := r.hdr, doff := r.doff.toNat % 2 ^ 18, desc := r.desc,
      word := r.word, occupying := true, ending := false, started := (s.engine e).wake == .awake, released := false, delivered := false,
      dead := false, work := Work.idle, faulted := false, step := 0, seq := seq }
  { c with work := c.plan }

/-- The instance number of a collective command (R124): how many the task has issued with this TAG and P. -/
def State.collSeq (s : State) (v tag p : Nat) : Nat :=
  match s.colls.find? (fun c => c.1 == v && c.2.1 == tag && c.2.2.1 == p) with
  | some (_, _, _, n) => n
  | none => 0

/-- Counts one collective command issued. -/
def State.countColl (s : State) (v tag p : Nat) : State :=
  let n := s.collSeq v tag p
  { s with colls := (v, tag, p, n + 1) :: s.colls.filter (fun c => !(c.1 == v && c.2.1 == tag && c.2.2.1 == p)) }

/-- The fork of an engine command: it follows the classed accesses of C, whatever their class (R89, kind 7). -/
def State.forkEv (s : State) (v id : Nat) : Ev :=
  { s.event v 0 (4 * (s.core v).nextId + 1) 17 with kind := .fork (eThread id) }

/-- Admits a request at an engine: the slot is taken and the command's engine thread begins (R94). -/
def State.admitReq (s : State) (r : EReq) (entry : Nat) (held : Bool) : State :=
  let cls := hdrCls r.hdr
  let e := engId r.core cls (fld entry 0 4)
  let x := s.engine e
  let tag := desF r.desc 0 16
  let p := desF r.desc 16 16
  let seq := if cls = 4 then s.collSeq r.core tag p else 0
  let s1 := if cls = 4 then s.countColl r.core tag p else s
  let s2 := if held then s1.setEngine e { x with holds := dropHold r.core x.holds } else s1
  { s2 with ecmds := s2.ecmds ++ [r.command s2 entry e seq], fresh := s2.fresh + 1 }.note (s2.forkEv r.core s2.fresh)

/-- The outcome of the list: the codes of the entries tried, in order, the admission, and a malformed entry. -/
structure Tried where
  s : State
  rs : List Nat
  adm : Option (Nat × Nat × Bool)     -- position, entry, held
  bad : Bool

/-- The loop of Engage (R103) from entry i on. -/
def tryEntries (r : EReq) : List Nat → State → List Nat → Tried
  | [], s, rs => ⟨s, rs, none, false⟩
  | i :: is, s, rs =>
    let ent := entryAt r.list i
    let cls := hdrCls r.hdr
    if fld ent 15 1 = 0 then ⟨s, rs, none, false⟩
    else if fld ent 12 3 ≠ cls ∨ fld ent 4 8 ≠ 0 then ⟨s, rs, none, true⟩
    else
      let (code, held) := s.admitCode r.core cls ent i r.marked
      if code = 0 then ⟨s.admitReq r ent held, rs ++ [0], some (i, ent, held), false⟩
      else
        let e := engId r.core cls (fld ent 0 4)
        let x := s.engine e
        let s1 :=
          if r.marked ∧ (code = 1 ∨ code = 2) ∧ !x.marked.contains r.core then
            s.setEngine e { x with marked := r.core :: x.marked }
          else s
        tryEntries r is s1 (rs ++ [code])

/-- Clears a core's bits in every engine of a class of its domain (R109). -/
def State.clearMarks (s : State) (v cls : Nat) : State :=
  (List.range (clsCount cls)).foldl (fun s i =>
    let e := engId v cls i
    s.setEngine e { s.engine e with marked := (s.engine e).marked.filter (· != v) }) s

/-- Clears a core's bits in every engine (R109: it parks, or its task completes). -/
def State.clearAllMarks (s : State) (v : Nat) : State := (List.range 6).foldl (fun s c => s.clearMarks v c) s

/-- Whether a code is one of busy, reserve, asleep, foreign. -/
def isRefusal (c : Nat) : Bool := decide (1 ≤ c ∧ c ≤ 4)

/-- Engage(qd, sd, H, D, B) of R103 for a request: the result word to s[d], q, the counters, the streak and the marks
(R104, R107, R109), and the admitted command. -/
def State.engage (s : State) (r : EReq) : State :=
  let cls := hdrCls r.hdr
  let t : Tried := if r.check ≠ 0 then ⟨s, [r.check], none, false⟩ else tryEntries r [0, 1, 2, 3] s []
  let rs := if t.bad ∨ t.rs.isEmpty then [6] else t.rs
  let code := rs.getD 0 0 + 8 * rs.getD 1 0 + 64 * rs.getD 2 0 + 512 * rs.getD 3 0
  let (pos, ent, held) := t.adm.getD (0, 0, false)
  let word := code + pos * 2 ^ 12 + (if held then 2 ^ 14 else 0) + (if r.marked then 2 ^ 15 else 0) + ent * 2 ^ 16
  let c := t.s.core r.core
  let c1 := if isRefusal (rs.getD 0 0) then c.addOvf cls 0 1 else c
  let c2 := c1.addOvf cls 1 ((rs.drop 1).filter isRefusal).length
  let c3 := if t.adm.isNone then c2.addOvf cls 2 1 else c2
  let c4 :=
    if t.adm.isSome then c3.setStreak cls 0
    else if isRefusal (rs.getD 0 0) then c3.setStreak cls (min (c3.streakOf cls + 1) 15)
    else c3
  let c5 := (c4.setQ r.q (ent != 0)).setS r.d (BitVec.ofNat 64 word)
  let s1 := (t.s.setCore r.core c5).engSeen r.core cls r.list
  if t.adm.isSome then s1.clearMarks r.core cls else s1

/-- %busy of a class for core v (R108). -/
def State.busyBits (s : State) (v cls : Nat) : Nat :=
  let marked := decide (s.kOf (s.partOf v) cls ≤ (s.core v).streakOf cls)
  (List.range (clsCount cls)).foldl (fun a i =>
    if (s.admitCode v cls (2 ^ 15 + cls * 2 ^ 12 + i) 0 marked).1 = 0 then a else a + 2 ^ i) 0

/-! ### Leases (R113–R115, R328, R329) -/

/-- LSE_USED: the cost of every engine that is not asleep (R328). -/
def State.leaseUsed (s : State) : Nat :=
  s.engines.foldl (fun a e => if e.2.wake = .asleep then a else a + clsCost (engCls e.1)) 0

/-- LSE_P_USED of a partition (R328). -/
def State.leaseUsedBy (s : State) (p : Nat) : Nat :=
  s.engines.foldl (fun a e => if e.2.wake = .asleep ∨ e.2.part ≠ p then a else a + clsCost (engCls e.1)) 0

/-- The pool in force (R328). -/
def State.pool' (s : State) : Nat := min (s.reg lsePccap).toNat (s.reg lseSwcap).toNat

/-- Whether the journal holds a change of a cluster's owner (R319). -/
def State.changing (s : State) (cl : Nat) : Bool :=
  s.regF prtJrnl 0 2 != 0 && s.regByte (prtClOwn + cl) != s.regByte (prtClAct + cl)

/-- Adds a lease to an engine, waking it if it sleeps and the budgets allow (Table 5.7, from "already waking or awake"
on): the state and the code. -/
def State.grantLease (s : State) (p : Nat) (l : Lessee) (e : Nat) : State × Nat :=
  let x := s.engine e
  let cost := clsCost (engCls e)
  if x.wake ≠ .asleep then (s.setEngine e { x with leases := x.leases ++ [l] }, 1)
  else if (s.reg (lseBudget p)).toNat < s.leaseUsedBy p + cost ∨ s.pool' < s.leaseUsed + cost then (s, 3)
  else (s.setEngine e { x with wake := .waking, leases := [l], part := p, grant := s.clock }, 0)

/-- How many leases a node holds. -/
def State.nodeLeases (s : State) (n : Nat) : Nat := (s.engines.filter (fun e => e.2.leases.contains (.node n))).length

/-- A lease on a comb engine of another partition, or in a comb or cluster that the request may not use: "foreign". -/
def State.leaseForeign (s : State) (p e comb cl : Nat) : Bool :=
  if clsComb (engCls e) then
    (s.engine e).leases.any (fun l => s.lesseePart l != p) || !s.mayLease p comb
  else s.changing cl

/-- A lease request of core v for an entry (Table 5.7): the state, the code, and the entry granted. -/
def State.lease (s : State) (v : Nat) (a : BitVec 64) : State × Nat × Nat :=
  let ent := a.toNat % 2 ^ 16
  let cls := fld ent 12 3
  let any := fld ent 4 1 == 1
  let idx := fld ent 0 4
  let p := s.partOf v
  let n := match (s.core v).task with | some t => t.node | none => 0
  if a.toNat / 2 ^ 16 ≠ 0 ∨ fld ent 15 1 = 0 ∨ 6 ≤ cls ∨ fld ent 5 7 ≠ 0 ∨ (any ∧ idx ≠ 0) then (s, 5, 0)
  else if clsCount cls ≤ idx ∨ (!any ∧ s.leaseForeign p (engId v cls idx) (combOf v) (clusterOf v)) ∨
      (any ∧ (if clsComb cls then !s.mayLease p (combOf v) else s.changing (clusterOf v))) then (s, 4, 0)
  else
    let target : Option Nat :=
      if any then (List.range (clsCount cls)).find? (fun i => (s.engine (engId v cls i)).wake == .asleep) else some idx
    match target with
    | none => (s, 2, 0)
    | some i =>
      let e := engId v cls i
      let granted := 2 ^ 15 + cls * 2 ^ 12 + i
      if (s.engine e).leases.contains (.node n) then (s, 1, granted)
      else if 16 ≤ s.nodeLeases n then (s, 3, 0)
      else
        let (s1, code) := s.grantLease p (.node n) e
        (s1, code, if code ≤ 1 then granted else 0)

/-- Ends a lease. An engine whose last lease has ended refuses requests from the next C-cycle on, and falls asleep once it has
finished its work (R113, R114). -/
def State.endLease (s : State) (l : Lessee) (e : Nat) : State :=
  let x := s.engine e
  let left := x.leases.filter (· != l)
  s.setEngine e { x with leases := left, endClk := if !x.leases.isEmpty ∧ left.isEmpty then s.clock + 1 else x.endClk }

/-! ### Recall (R116, R330) -/

/-- Ends one command with its events as they stand, each granule that it could write written or not (R116, step 4); its core
parks when `parks`. A slot that it alone has kept from being free is held at once where a hold is due (R105, R110). -/
def State.endCommand (s : State) (c : ECmd) (parks : Bool) : State :=
  let s1 := (s.landSome (s.eServer c) c.work).1
  let s2 := { s1 with ecmds := s1.ecmds.filter (fun x => x.id != c.id) }
  if parks then
    s2.park c.core
      { cause := .leaseRecalled, orig := 6, rel := c.released, del := c.delivered, det := c.entry, doff := c.doff,
        word := c.word, addr := c.hdr.toNat }
  else if s.freeSlots c.eng = 0 then s2.holdNow c.eng
  else s2

/-- A recall of an engine at one C-cycle (R116): every lease ends, its state is lost, each command that occupies a slot or awaits
completion ends, and its core parks. A recall of an engine that is asleep does nothing (R329). -/
def State.recall (s : State) (e : Nat) : State :=
  if (s.engine e).wake = .asleep then s
  else
    let s1 := s.setEngine e Engine.asleep
    (s1.ecmds.filter (fun c => c.eng == e && (!c.delivered || c.occupying))).foldl (fun s c => s.endCommand c true) s1

/-- The recall group of R116. -/
def recallGroup (e : Nat) (x : Engine) : Nat :=
  let st := x.leases.any (fun l => match l with | .standing _ => true | .node _ => false)
  (if st then 2 else 0) + (if clsComb (engCls e) then 1 else 0)

/-- The engine that the power controller recalls next: the lowest group, in it the latest grant; of two with one grant time
the lower identity (log entry 63). -/
def State.nextRecall (s : State) : Option Nat :=
  let awake := s.engines.filter (fun e => e.2.wake != .asleep)
  let better (a b : Nat × Engine) : Bool :=
    decide (recallGroup a.1 a.2 < recallGroup b.1 b.2) ||
      (recallGroup a.1 a.2 == recallGroup b.1 b.2 && decide (b.2.grant < a.2.grant))
  match awake with
  | [] => none
  | a :: r => some (r.foldl (fun m x => if better x m then x else m) a).1

/-- Recalls engines while LSE_USED exceeds the pool in force (R330); `fuel` bounds the recalls. -/
def State.fitPool : Nat → State → State
  | 0, s => s
  | n + 1, s =>
    if s.leaseUsed ≤ s.pool' then s
    else
      match s.nextRecall with
      | none => s
      | some e => State.fitPool n (((s.recall e).orReg lseEvt 1).setReg lseLast (BitVec.ofNat 64 e))

end Sys2Proof.Machine
end

