-- ==== Sys2Proof/Machine/LoadCmd.lean ====
section
/-! DEFINITION. L commands (R179–R192): the group words, the checks at issue of Table 8.6, service, and the events of a
command in flight. -/

namespace Sys2Proof.Machine

open Sys2Proof

/-! ### Group words (R180–R182) -/

/-- Bit 63 of an address word: a buffer word. -/
def isBuf (w : BitVec 64) : Bool := w.toNat / 2 ^ 63 == 1

/-- BUF of a buffer word (Table 8.3). -/
def bufOf (w : BitVec 64) : Buf :=
  match fld w.toNat 61 2 with | 0 => .W | 1 => .A | 2 => .X | _ => .S

/-- Address of a G: word or OFF of a buffer word. -/
def baseOf (w : BitVec 64) : Nat := if isBuf w then fld w.toNat 0 19 else fld w.toNat 0 56

/-- The must-be-zero bits of an address word (R180). -/
def addrWordOk (w : BitVec 64) : Bool := if isBuf w then fld w.toNat 19 2 == 0 else fld w.toNat 56 7 == 0

def LCmd.kd (l : LCmd) : Nat := fld l.comp.toNat 58 6
def LCmd.incD (l : LCmd) : Nat := fld l.comp.toNat 46 12
def LCmd.ks (l : LCmd) : Nat := fld l.comp.toNat 40 6
def LCmd.incS (l : LCmd) : Nat := fld l.comp.toNat 34 6
def LCmd.notify (l : LCmd) : Bool := fld l.comp.toNat 33 1 == 1
def LCmd.nidx (l : LCmd) : Nat := fld l.comp.toNat 16 16
def LCmd.nval (l : LCmd) : Nat := fld l.comp.toNat 0 16

/-- A field of the shape word. -/
def LCmd.sh (l : LCmd) (lo n : Nat) : Nat := fld l.shape.toNat lo n

/-- Planes, rows and row length of a command's shape (R184; one row where the layout is one range). -/
def LCmd.ext (l : LCmd) : Nat × Nat × Nat :=
  match l.dims with
  | 2 => (1, l.sh 28 12, l.sh 0 17)
  | 3 => (l.sh 17 11, l.sh 28 12, l.sh 0 17)
  | _ => (1, 1, if l.op = .pfBulk ∨ l.op = .pfRel then l.sh 0 36 else l.sh 0 20)

/-- Plane pitch and row pitch of a side (R184): GP2, GP1 on a G: side, BP2, BP1 on a buffer side. -/
def LCmd.pitches (l : LCmd) (w : BitVec 64) : Nat × Nat :=
  if isBuf w then (fld w.toNat 21 20, fld w.toNat 41 20) else (fld l.plane.toNat 0 56, l.sh 40 24)

/-- The rows of a region as (address, bytes). -/
def rowsOf (base pp rp : Nat) (e : Nat × Nat × Nat) : List (Nat × Nat) :=
  (List.range e.1).flatMap (fun p => (List.range e.2.1).map (fun r => (base + p * pp + r * rp, e.2.2)))

/-- One past the last byte of a region. -/
def endOf (base pp rp : Nat) (e : Nat × Nat × Nat) : Nat := base + (e.1 - 1) * pp + (e.2.1 - 1) * rp + e.2.2

def LCmd.sfmt (l : LCmd) : Nat := l.sh 59 5
def LCmd.dfmt (l : LCmd) : Nat := l.sh 54 5

/-- The formats that `cvcp` takes (Table 8.4). -/
def cvFmtOk (f : Nat) : Bool := decide (f ≤ 9) || decide (18 ≤ f ∧ f ≤ 25)

def fmtOf (f : Nat) : EF := (EF.ofCode f).getD .f64

/-- Bytes of `n` packed elements. -/
def packedLen (f : EF) (n : Nat) : Nat := (n * f.width + 7) / 8

/-- Element size of a gather or scatter (Table 8.4). -/
def LCmd.elSize (l : LCmd) : Nat := 4 * 2 ^ l.sh 41 2

/-- The offset of the index list and the number of elements. -/
def LCmd.idx (l : LCmd) : Nat := l.sh 46 18
def LCmd.count (l : LCmd) : Nat := l.sh 0 9

def LCmd.isGath (l : LCmd) : Bool := l.op == .lgath || l.op == .lscat

/-- Whether a command has a released event (R187, R189). -/
def LCmd.releases (l : LCmd) : Bool :=
  match l.op with | .pfBulk => false | .pfRel => false | .lfill => false | _ => true

/-- The bytes that a command reads in the space of its source word; the elements of an `lgath` are not known at issue. -/
def LCmd.srcRows (l : LCmd) : List (Nat × Nat) :=
  let (pp, rp) := l.pitches l.src
  match l.op with
  | .cvcp => [(baseOf l.src, packedLen (fmtOf l.sfmt) (l.sh 0 20))]
  | .lscat => [(baseOf l.src, l.count * l.elSize)]
  | .lgath => []
  | .lfill => []
  | _ => rowsOf (baseOf l.src) pp rp l.ext

/-- The bytes that a command writes in the space of its destination word. -/
def LCmd.dstRows (l : LCmd) : List (Nat × Nat) :=
  let (pp, rp) := l.pitches l.dst
  match l.op with
  | .cpr => [(l.dst.toNat % 2 ^ 18, l.ext.2.2)]
  | .cpm => [(l.dst.toNat % 2 ^ 18, l.ext.2.2)]
  | .cvcp => [(baseOf l.dst, packedLen (fmtOf l.dfmt) (l.sh 0 20))]
  | .lgath => [(baseOf l.dst, l.count * l.elSize)]
  | .lscat => []
  | .pfBulk => []
  | .pfRel => []
  | _ => rowsOf (baseOf l.dst) pp rp l.ext

/-- What an address word of a command must be (Table 8.2). -/
inductive Need where
  | buf | g | any | sg | none
  deriving DecidableEq, Repr

def LOp.dstNeed : LOp → Need
  | .cp | .cpl | .lgath => .buf
  | .cpw | .lscat => .g
  | .cpr | .cpm => .sg
  | .cvcp | .lfill => .any
  | .pfBulk | .pfRel => .none

def LOp.srcNeed : LOp → Need
  | .cp | .pfBulk | .pfRel | .lgath => .g
  | .cpw | .cpl | .cpr | .cpm | .lscat => .buf
  | .cvcp => .any
  | .lfill => .none

/-- The space tag and must-be-zero bits of a word (Table 8.6, order 2). -/
def Need.ok (n : Need) (w : BitVec 64) : Bool :=
  match n with
  | .buf => isBuf w && addrWordOk w
  | .g => !isBuf w && addrWordOk w
  | .any => addrWordOk w
  | _ => true

/-- Whether a word's side is G:, a buffer, or neither. -/
def Need.isG (n : Need) (w : BitVec 64) : Bool := n == .g || (n == .any && !isBuf w)
def Need.isBuf (n : Need) (w : BitVec 64) : Bool := n == .buf || (n == .any && Machine.isBuf w)

/-- The SG: targets of a command, by core number within the cluster: none where it passes core 47 (R184). -/
def LCmd.targets (l : LCmd) (c : Core) (v : Nat) : List (Option Nat) :=
  let one (a : Nat) : Option Nat := (c.sgTarget v (BitVec.ofNat 64 a)).map (·.1)
  match l.op with
  | .cpr => [one l.dst.toNat]
  | .cpm =>
    ((List.range 16).filter (fun i => l.sh (48 + i) 1 == 1)).map (fun i =>
      if 47 < fld l.dst.toNat 18 6 + i then none else one (l.dst.toNat + i * 2 ^ 18))
  | _ => []

/-! ### Checks at issue (Table 8.6) -/

/-- The shape word within its ranges. -/
def LCmd.shapeOk (l : LCmd) : Bool :=
  let (np, nr, rl) := l.ext
  match l.op with
  | .cp | .cpw | .cpl | .cpr =>
    if l.dims = 1 then l.sh 20 44 == 0 && decide (1 ≤ rl ∧ rl ≤ 524288)
    else
      decide (1 ≤ np ∧ 1 ≤ nr ∧ 1 ≤ rl ∧ rl ≤ 65536) && (l.dims == 3 || l.sh 17 11 == 0) &&
        (l.op != .cpl || l.sh 40 24 == 0) && (l.dims == 2 || fld l.plane.toNat 56 8 == 0)
  | .cpm => l.sh 20 28 == 0 && l.sh 48 16 != 0 && decide (1 ≤ rl ∧ rl ≤ 262144)
  | .cvcp =>
    l.sh 20 34 == 0 && cvFmtOk l.sfmt && cvFmtOk l.dfmt && l.sfmt != l.dfmt && decide (1 ≤ rl ∧ rl ≤ 524288)
  | .pfBulk | .pfRel => l.sh 36 28 == 0 && decide (1 ≤ rl)
  | .lgath | .lscat =>
    l.sh 41 2 != 3 && l.sh 9 32 == 0 && decide (1 ≤ l.count ∧ l.count ≤ 256) && l.idx % 4 == 0 &&
      decide (l.idx + 4 * l.count ≤ 0x40000)
  | .lfill => l.sh 20 44 == 0 && decide (1 ≤ rl ∧ rl ≤ 524288) && rl % 4 == 0

/-- The alignments that a command requires (R186, R188, R189). -/
def LCmd.alignOk (l : LCmd) : Bool :=
  match l.op with
  | .cvcp =>
    let n := l.sh 0 20
    let ws := (fmtOf l.sfmt).width
    let wd := (fmtOf l.dfmt).width
    n * ws % 8 == 0 && n * wd % 8 == 0 && baseOf l.src % (max 8 ws / 8) == 0 && baseOf l.dst % (max 8 wd / 8) == 0
  | .lgath => baseOf l.src % l.elSize == 0 && decide (l.sh 41 2 + 2 ≤ l.sh 43 3)
  | .lscat => baseOf l.dst % l.elSize == 0 && decide (l.sh 41 2 + 2 ≤ l.sh 43 3)
  | .lfill => baseOf l.dst % 4 == 0
  | _ => true

/-- Whether every byte of rows lies within the space of a word: a buffer, or G: below 2^56. -/
def rowsFit (isG : Bool) (w : BitVec 64) (rows : List (Nat × Nat)) : Bool :=
  let top := if isG then 2 ^ 56 else (bufOf w).size
  rows.all (fun r => decide (r.1 + r.2 ≤ top))

/-- Whether two lists of rows share a byte. -/
def rowsMeet (xs ys : List (Nat × Nat)) : Bool := xs.any (fun x => ys.any (fun y => meets x.1 x.2 y.1 y.2))

/-- Whether the bytes read and the bytes written of one command overlap (R183): both sides G:, or both in one buffer; an
SG: side that names the issuing core counts as its S:; the index list of an `lgath` is read in S:, and a notify word is none
of the bytes (log entry 64). -/
def LCmd.overlaps (l : LCmd) (c : Core) (v : Nat) : Bool :=
  let sg := l.op.srcNeed.isG l.src
  let dg := l.op.dstNeed.isG l.dst
  let sb := l.op.srcNeed.isBuf l.src
  let db := l.op.dstNeed.isBuf l.dst
  let own := (l.targets c v).contains (some v)
  (sg && dg && rowsMeet l.srcRows l.dstRows) ||
    (sb && db && bufOf l.src == bufOf l.dst && rowsMeet l.srcRows l.dstRows) ||
    (sb && own && bufOf l.src == .S && rowsMeet l.srcRows l.dstRows) ||
    (l.op == .lgath && bufOf l.dst == .S && rowsMeet [(l.idx, 4 * l.count)] l.dstRows)

/-- Order 2 of Table 8.6: everything that is an addressing fault. -/
def LCmd.addressingOk (l : LCmd) (c : Core) (v : Nat) : Bool :=
  l.op.dstNeed.ok l.dst && l.op.srcNeed.ok l.src && l.shapeOk && fld l.comp.toNat 32 1 == 0 &&
    (l.releases || (l.ks == 0 && l.incS == 0)) && l.alignOk &&
    (!l.op.srcNeed.isG l.src || rowsFit true l.src l.srcRows) &&
    (!l.op.srcNeed.isBuf l.src || rowsFit false l.src l.srcRows) &&
    (!l.op.dstNeed.isG l.dst || rowsFit true l.dst l.dstRows) &&
    (!l.op.dstNeed.isBuf l.dst || rowsFit false l.dst l.dstRows) &&
    (l.op.dstNeed != .sg || l.dstRows.all (fun r => decide (r.1 + r.2 ≤ 0x40000))) && !l.overlaps c v

/-- Order 3: the buffers that Table 3.2 gives to L, and the SG: targets (R68). -/
def LCmd.accessOk (l : LCmd) (c : Core) (v : Nat) : Bool :=
  (!l.op.srcNeed.isBuf l.src || bufOf l.src == .W || bufOf l.src == .S) &&
    (!l.op.dstNeed.isBuf l.dst || bufOf l.dst != .X) && (l.targets c v).all (·.isSome)

/-- Order 4: the first G: address of the command in the arena window under a handle that is not live (R81). -/
def LCmd.outlivedAt (l : LCmd) (s : State) (p : Nat) : Option Nat :=
  let ends (rows : List (Nat × Nat)) : List Nat := rows.flatMap (fun r => [r.1, r.1 + r.2 - 1])
  ((if l.op.srcNeed.isG l.src then ends l.srcRows else []) ++
    (if l.op.dstNeed.isG l.dst then ends l.dstRows else [])).find? (s.outlived p)

/-- The checks at issue in the order of Table 8.6: the first that fails, with the G: address it names. -/
def LCmd.check (l : LCmd) (s : State) (v : Nat) : Option (Cause × Nat) :=
  let c := s.core v
  if l.op = .cvcp ∧ l.rnd = 5 ∧ l.dfmt = 0 then some (.illegal, 0)
  else if !l.addressingOk c v then some (.addressing, 0)
  else if !l.accessOk c v then some (.accessList, 0)
  else (l.outlivedAt s (s.partOf v)).map (fun a => (.outlived, a))

/-! ### Issue (R183) -/

/-- The fields of a command word. -/
structure LForm where
  op : LOp
  dims : Nat := 1
  g : BitVec 2
  c : BitVec 4
  s : BitVec 3
  l : BitVec 2 := 0
  r : BitVec 3 := 0
  n : BitVec 1 := 0
  u : BitVec 1 := 0

/-- The command that a word makes from its group, read at issue (R177). -/
def LForm.make (f : LForm) (i : Instr) (c : Core) (payload : Option (BitVec 32)) : LCmd :=
  let reg (i : Nat) : BitVec 64 := c.getB (BitVec.ofNat 4 (4 * f.g.toNat + i))
  { id := c.nextId, op := f.op, dims := f.dims, cls := f.c.toNat, scope := f.s.toNat, pol := f.l.toNat, rnd := f.r.toNat,
    nf := f.n == 1, sat := f.u == 1, dst := reg 0, src := reg 1, shape := reg 2, comp := reg 3,
    plane := if f.dims = 3 then reg 4 else 0, payload := payload, dph := c.dphase, addr := (c.str .L).pc,
    released := false, delivered := false, notified := false, told := [], faulted := none, todo := 0, tiles := [],
    work := Work.idle, word := i }

/-- The space of a word's side. A buffer of the core splits by R65, its own S as well (R96). -/
def sideSpace (isG : Bool) (w : BitVec 64) : Space := if isG then .G else .B (bufOf w)

/-- An `lgath` or `lscat` of core v (R188). -/
def LCmd.gather (l : LCmd) : Gather :=
  let get := l.op == .lgath
  let b := if get then l.dst else l.src
  { get := get, size := l.elSize, idx := l.idx, base := baseOf (if get then l.src else l.dst), sh := l.sh 43 3,
    buf := sideSpace false b, off := baseOf b }

/-- What a command of core v has to do from its beginning (R184, R186, R188, R189): the granules it reads and writes, in each
target of a copy to SG:; a prefetch or release has none. A fill writes words. -/
def LCmd.plan (l : LCmd) (s : State) (v : Nat) : Work :=
  match l.op with
  | .pfBulk => Work.idle
  | .pfRel => Work.idle
  | .lgath => l.gather.plan (List.range l.count)
  | .lscat => l.gather.plan (List.range l.count)
  | .lfill =>
    { Work.idle with dsts := rowGrainsBy units4 (sideSpace (l.op.dstNeed.isG l.dst) l.dst) true l.dstRows }
  | _ =>
    { Work.idle with
      srcs := rowGrains (sideSpace (l.op.srcNeed.isG l.src) l.src) false l.srcRows
      dsts :=
        if l.op.dstNeed = .sg then
          ((l.targets (s.core v) v).filterMap (fun t => t)).flatMap (fun w => rowGrains (.S w) true l.dstRows)
        else rowGrains (sideSpace (l.op.dstNeed.isG l.dst) l.dst) true l.dstRows }

/-- The fork of a command: it follows the accesses of L in its class (R89, kind 7). -/
def State.lForkEv (s : State) (v : Nat) (l : LCmd) : Ev :=
  { s.event v 1 (4 * l.id) l.cls with kind := .fork (lThread l.id) }

/-- A command word (R183): it waits while 32 commands, or for a gather or scatter 8 of these (R304), are in flight; it is
checked; then its engine thread begins, and the word finishes. -/
def issueL (σ : State) (i : Instr) (tk : Tok) (f : LForm) : Res :=
  issue σ .L i tk 2 (fun σ x =>
    let v := σ.turn.core
    let c := σ.cur
    let l := f.make i c (if tk.pop = 0 then none else some x)
    if 32 ≤ c.lcmds.length ∨ (l.isGath ∧ 8 ≤ (c.lcmds.filter LCmd.isGath).length) then .wait
    else
      match l.check σ v with
      | some (cause, a) => .fault cause a
      | none =>
        .go ((σ.setCore v { c with lcmds := c.lcmds ++ [{ l with work := l.plan σ v }], nextId := c.nextId + 1 }).note
          (σ.lForkEv v l)) 0)

/-- `cp.1d` (R184). -/
def execCp1d (tk : Tok) (g : BitVec 2) (c : BitVec 4) (s : BitVec 3) (l : BitVec 2) (σ : State) : Res :=
  issueL σ (.cp1d tk g c s l) tk { op := .cp, g := g, c := c, s := s, l := l }

/-- `cp.2d` (R184). -/
def execCp2d (tk : Tok) (g : BitVec 2) (c : BitVec 4) (s : BitVec 3) (l : BitVec 2) (σ : State) : Res :=
  issueL σ (.cp2d tk g c s l) tk { op := .cp, dims := 2, g := g, c := c, s := s, l := l }

/-- `cp.3d` (R184). -/
def execCp3d (tk : Tok) (g : BitVec 2) (c : BitVec 4) (s : BitVec 3) (l : BitVec 2) (σ : State) : Res :=
  issueL σ (.cp3d tk g c s l) tk { op := .cp, dims := 3, g := g, c := c, s := s, l := l }

/-- `cpw.1d` (R184). -/
def execCpw1d (tk : Tok) (g : BitVec 2) (c : BitVec 4) (s : BitVec 3) (l : BitVec 2) (σ : State) : Res :=
  issueL σ (.cpw1d tk g c s l) tk { op := .cpw, g := g, c := c, s := s, l := l }

/-- `cpw.2d` (R184). -/
def execCpw2d (tk : Tok) (g : BitVec 2) (c : BitVec 4) (s : BitVec 3) (l : BitVec 2) (σ : State) : Res :=
  issueL σ (.cpw2d tk g c s l) tk { op := .cpw, dims := 2, g := g, c := c, s := s, l := l }

/-- `cpw.3d` (R184). -/
def execCpw3d (tk : Tok) (g : BitVec 2) (c : BitVec 4) (s : BitVec 3) (l : BitVec 2) (σ : State) : Res :=
  issueL σ (.cpw3d tk g c s l) tk { op := .cpw, dims := 3, g := g, c := c, s := s, l := l }

/-- `cpl` (R184). -/
def execCpl (tk : Tok) (g : BitVec 2) (c : BitVec 4) (s : BitVec 3) (σ : State) : Res :=
  issueL σ (.cpl tk g c s) tk { op := .cpl, dims := 2, g := g, c := c, s := s }

/-- `cpr` (R184). -/
def execCpr (tk : Tok) (g : BitVec 2) (c : BitVec 4) (s : BitVec 3) (σ : State) : Res :=
  issueL σ (.cpr tk g c s) tk { op := .cpr, g := g, c := c, s := s }

/-- `cpm` (R184). -/
def execCpm (tk : Tok) (g : BitVec 2) (c : BitVec 4) (s : BitVec 3) (σ : State) : Res :=
  issueL σ (.cpm tk g c s) tk { op := .cpm, g := g, c := c, s := s }

/-- `cvcp` (R186). -/
def execCvcp (tk : Tok) (g : BitVec 2) (c : BitVec 4) (s : BitVec 3) (l : BitVec 2) (r : BitVec 3) (n : BitVec 1) (u : BitVec 1) (σ : State) : Res :=
  issueL σ (.cvcp tk g c s l r n u) tk { op := .cvcp, g := g, c := c, s := s, l := l, r := r, n := n, u := u }

/-- `pf.bulk` (R187). -/
def execPfBulk (tk : Tok) (g : BitVec 2) (c : BitVec 4) (s : BitVec 3) (l : BitVec 2) (σ : State) : Res :=
  issueL σ (.pfBulk tk g c s l) tk { op := .pfBulk, g := g, c := c, s := s, l := l }

/-- `pf.rel` (R187). -/
def execPfRel (tk : Tok) (g : BitVec 2) (c : BitVec 4) (s : BitVec 3) (σ : State) : Res :=
  issueL σ (.pfRel tk g c s) tk { op := .pfRel, g := g, c := c, s := s }

/-- `lgath` (R188). -/
def execLgath (tk : Tok) (g : BitVec 2) (c : BitVec 4) (s : BitVec 3) (l : BitVec 2) (σ : State) : Res :=
  issueL σ (.lgath tk g c s l) tk { op := .lgath, g := g, c := c, s := s, l := l }

/-- `lscat` (R188). -/
def execLscat (tk : Tok) (g : BitVec 2) (c : BitVec 4) (s : BitVec 3) (l : BitVec 2) (σ : State) : Res :=
  issueL σ (.lscat tk g c s l) tk { op := .lscat, g := g, c := c, s := s, l := l }

/-- `lfill` (R189). -/
def execLfill (tk : Tok) (g : BitVec 2) (c : BitVec 4) (s : BitVec 3) (l : BitVec 2) (σ : State) : Res :=
  issueL σ (.lfill tk g c s l) tk { op := .lfill, g := g, c := c, s := s, l := l }


end Sys2Proof.Machine
end

