-- ==== Sys2Proof/Machine/ControlTask.lean ====
section
/-! DEFINITION. Tokens and counters of every stream (R134, R166–R168), task control (R169, R171), `trap` and `brk`
(R175), and the compact `nop` and `kinc`. -/

namespace Sys2Proof.Machine

open Sys2Proof

/-! ### Tokens -/

/-- An effect of a word of the moving stream that finishes with a payload. A word of M finishes in order behind the M
instructions before it (R201), so its push waits in the M queue. -/
def finishIn (σ : State) (tk : Tok) (payload : BitVec 32) (f : Core → Core) : Eff :=
  let c := f σ.cur
  if σ.turn.st = .M then
    .late (σ.setCore σ.turn.core (c.enqueue .token tk.push payload))
  else .go (σ.setCore σ.turn.core c) payload

/-- Whether a register of the moving stream's file awaits a value (C only). -/
def busyIn (σ : State) (r : BitVec 5) : Bool := σ.turn.st == .C && σ.cur.sBusy [r]

/-- `take` (R134): the register gets the payload, zero-extended. -/
def execTake (tk : Tok) (r : BitVec 5) (σ : State) : Res :=
  issue σ σ.turn.st (.take tk r) tk 2 (fun σ x =>
    if busyIn σ r then .wait else finishIn σ tk 0 (fun c => c.setR σ.turn.st r (x.setWidth 64)))

/-- `give` (R134): its push carries the low 32 bits of the register. -/
def execGive (tk : Tok) (r : BitVec 5) (σ : State) : Res :=
  issue σ σ.turn.st (.give tk r) tk 2 (fun σ _ =>
    if busyIn σ r then .wait else finishIn σ tk ((σ.cur.getR σ.turn.st r).setWidth 32) id)

/-- `nop` of major TOK (R134): pops and pushes only. -/
def execNopToken (tk : Tok) (σ : State) : Res :=
  issue σ σ.turn.st (.nopToken tk) tk 2 (fun σ _ => finishIn σ tk 0 id)

/-- The compact `nop`: no effect. -/
def execNop (σ : State) : Res := issue σ σ.turn.st .nop Tok.none 1 (fun σ _ => onCore σ id)

/-! ### Counters (R167) -/

/-- An increment by the moving stream: a release at core scope (R93), made once what precedes it has performed. In M it takes
place in order, when it finishes. -/
def incBy (σ : State) (tk : Tok) (k : BitVec 6) (n : Nat) : Eff :=
  let st := σ.turn.st
  let c := σ.cur
  if st = .M then
    .late (σ.setCore σ.turn.core (c.enqueue (.kinc k.toNat n) tk.push 0))
  else onCore σ (fun c => c.hold st (.inc k n (c.recOf st .counterOverflow 0)))

/-- `kset` (R167): a release of core scope, made once what precedes it has performed. -/
def execKset (tk : Tok) (k : BitVec 6) (i : BitVec 13) (σ : State) : Res :=
  issue σ .C (.kset tk k i) tk 2 (fun σ _ =>
    onCore σ (fun c => c.hold .C (.set k (i.setWidth 24))))

/-- `kinc` (R167). -/
def execKinc (tk : Tok) (k : BitVec 6) (i : BitVec 13) (σ : State) : Res :=
  issue σ σ.turn.st (.kinc tk k i) tk 2 (fun σ _ => incBy σ tk k i.toNat)

/-- `kincr` (R167): the increment is bits [23:0] of the register. -/
def execKincr (tk : Tok) (k : BitVec 6) (s : BitVec 5) (σ : State) : Res :=
  issue σ .C (.kincr tk k s) tk 2 (fun σ _ =>
    if σ.cur.sBusy [s] then .wait
    else onCore σ (fun c => c.hold .C (.inc k ((c.getS s).toNat % 2 ^ 24) (c.recOf .C .counterOverflow 0))))

/-- The event of a counter wait or read: an acquire of core scope (R93). -/
def State.obsEv (s : State) (k : BitVec 6) : Ev :=
  { s.event s.turn.core s.turn.st.ix (4 * s.cur.nextId) 16 with kind := .obs k.toNat, acq := 1 }

/-- Whether the commands that the moving stream has issued, that count as delivered at stream scope and that increment counter
k have performed: the stream itself is a member of that scope (R85, R95). -/
def State.joins (s : State) (k : Nat) : Bool :=
  match s.turn.st with
  | .L => s.cur.lcmds.all (fun l => !l.delivered || l.scope != 0 || l.kd != k || l.work.dsts.isEmpty)
  | .C =>
    s.ecmds.all (fun c => c.core != s.turn.core || !c.delivered || hdrScope c.hdr != 0 || hdrKd c.hdr != k || c.work.dsts.isEmpty)
  | _ => true

/-- A test of counter k by the moving stream, which holds now: `f` is what it does to the counters. Tests take their turn in
the C-cycle (R168); as acquires they wait for the releases of their stream (R89, kind 5). -/
def kTest (σ : State) (tk : Tok) (k : BitVec 6) (holds : Bool) (f : Core → Core) : Eff :=
  let step := σ.turn.st.kStep
  if holds && σ.cur.kTurn σ.clock step && σ.cur.released σ.turn.st && σ.joins k.toNat then
    finishIn (σ.note (σ.obsEv k)) tk 0 (fun c => (f c).kMark σ.clock step)
  else .wait

/-- `kwge` (R167): waits until the counter is at least the threshold. -/
def execKwge (tk : Tok) (k : BitVec 6) (i : BitVec 13) (σ : State) : Res :=
  issue σ σ.turn.st (.kwge tk k i) tk 2 (fun σ _ => kTest σ tk k (decide (i.toNat ≤ (σ.cur.getK k).toNat)) id)

/-- `kwgs` (R167): waits until the counter is at least the threshold, and subtracts it in the same step. -/
def execKwgs (tk : Tok) (k : BitVec 6) (i : BitVec 13) (σ : State) : Res :=
  issue σ σ.turn.st (.kwgs tk k i) tk 2 (fun σ _ =>
    kTest σ tk k (decide (i.toNat ≤ (σ.cur.getK k).toNat)) (fun c => c.setK k (c.getK k - i.setWidth 24)))

/-- `kwlt` (R167): waits until the counter is below the threshold. -/
def execKwlt (tk : Tok) (k : BitVec 6) (i : BitVec 13) (σ : State) : Res :=
  issue σ σ.turn.st (.kwlt tk k i) tk 2 (fun σ _ => kTest σ tk k (decide ((σ.cur.getK k).toNat < i.toNat)) id)

/-- `kread` (R167). -/
def execKread (tk : Tok) (k : BitVec 6) (d : BitVec 5) (σ : State) : Res :=
  issue σ .C (.kread tk k d) tk 2 (fun σ _ =>
    if σ.cur.sBusy [d] then .wait else kTest σ tk k true (fun c => c.setS d ((c.getK k).setWidth 64)))

/-- Compact `kinc` (R176). -/
def execKincCompact (k : BitVec 6) (i : BitVec 4) (σ : State) : Res :=
  issue σ .C (.kincCompact k i) Tok.none 1 (fun σ _ => incBy σ Tok.none k i.toNat)

/-! ### Task control -/

/-- A 32-byte block at an S: offset. -/
def Core.block (c : Core) (off : Nat) : BitVec 256 := BitVec.ofNat 256 (leNat (c.bytes .S off 32))

/-- C begins to exit (R17, R169): it issues nothing further and its return stack is discarded. An `exit` in a handler ends
the task (R271): the streams that have not ended are abandoned, and what had faulted does not try again. -/
def Core.beginExit (c : Core) (now : Now) (bs : List (BitVec 256)) : Core :=
  let c1 : Core :=
    { c with
      st := .exiting
      succ := bs
      exitStep := 1
      ret := []
      strm := Vector.ofFn fun j =>
        { c.strm[j.val] with
          ended := c.strm[j.val].ended || c.inHandler || decide (j.val = 0)
          gone := c.inHandler } }
  if c.inHandler then
    let gone (g : Nat) : Bool := c.acc.any (fun a => a.grp == g && a.stuck)
    { c1 with
      inHandler := false
      task := (c.handlerUsed now).task
      cycFrom := now
      waitw := none
      heldW := none
      causes := []
      settled := false
      framed := false
      acc := c.acc.filter (fun a => !gone a.grp)
      fl := c.fl.filter (fun f => !gone f.grp)
      slog := c.slog.map (fun e => { e with due := true })
      lcmds := c.lcmds.filter (fun l => l.faulted.isNone) }
  else c1

/-- The exit of the moving core begins; in a handler, its engine commands that had faulted end too. -/
def State.exitNow (σ : State) (bs : List (BitVec 256)) : State :=
  let v := σ.turn.core
  let c := σ.cur.start σ.now
  let s1 := σ.setCore v (c.beginExit σ.now bs)
  if c.inHandler then
    let gone := s1.ecmds.filter (fun e => e.core == v && e.faulted && !e.delivered)
    (gone.map (·.eng)).foldl State.mayDoze
      { s1 with ecmds := s1.ecmds.filter (fun e => !(e.core == v && e.faulted && !e.delivered)) }
  else s1

/-- `exit` (R169): the successor blocks are read at issue, in class 0. -/
def execExit (p : BitVec 2) (a : BitVec 5) (n : BitVec 3) (σ : State) : Res :=
  issue σ .C (.exit p a n) ⟨p, 0⟩ 2 (fun σ _ =>
    let off := (σ.cur.getS a).toNat
    if σ.cur.sBusy [a] then .wait
    else if n = 0 then .late (σ.exitNow [])
    else if off / 2 ^ 18 ≠ 0 ∨ off % 32 ≠ 0 ∨ 0x40000 < off + 32 * n.toNat then .fault .addressing 0
    else if !σ.cur.mayPerform σ.turn.core (σ.cur.atIssue σ.turn.core off (32 * n.toNat) 0 0) then .wait
    else
      .late (σ.exitNow ((List.range n.toNat).map (fun i => σ.cur.block (off + 32 * i)))))

/-- The handle at an index of the arena set of the moving core's node; 0 when none (R170, R171). -/
def State.handleAt (σ : State) (i : Nat) : Nat :=
  match σ.cur.task with
  | none => 0
  | some t =>
    match σ.nodes.find? (fun e => e.1 == t.node) with
    | none => 0
    | some (_, nd) => nd.arenas.getD i 0

/-- `arena.h` (R171). -/
def execArenaH (tk : Tok) (d : BitVec 5) (i : BitVec 2) (σ : State) : Res :=
  cOp σ (.arenaH tk d i) tk [d] (fun c => c.setS d (BitVec.ofNat 64 (σ.handleAt i.toNat)))

/-- `arena.a` (R171). -/
def execArenaA (tk : Tok) (d : BitVec 5) (i : BitVec 2) (a : BitVec 5) (σ : State) : Res :=
  cOp σ (.arenaA tk d i a) tk [d, a] (fun c =>
    let h := σ.handleAt i.toNat
    c.setS d (if h = 0 then 0
      else BitVec.ofNat 64 (σ.asel (σ.partOf σ.turn.core) * 2 ^ 52 + h * 2 ^ 36 + (c.getS a).toNat % 2 ^ 36)))

/-! ### trap and brk -/

/-- Parks the moving core from C with a code; the saved position is the following word (R175). -/
def stopWith (σ : State) (cause : Cause) (code : BitVec 16) : Eff :=
  let c := σ.cur.start σ.now
  .late (σ.setCore σ.turn.core (c.park σ.now { c.recOf .C cause 0 with det := code.toNat }))

/-- `trap` (R175). -/
def execTrap (p : BitVec 2) (c : BitVec 16) (σ : State) : Res :=
  issue σ .C (.trap p c) ⟨p, 0⟩ 2 (fun σ _ => stopWith σ .trap c)

/-- `brk` (R175). -/
def execBrk (p : BitVec 2) (c : BitVec 16) (σ : State) : Res :=
  issue σ .C (.brk p c) ⟨p, 0⟩ 2 (fun σ _ => stopWith σ .breakpoint c)

end Sys2Proof.Machine
end

