-- ==== Sys2Proof/Machine/ControlEngine.lean ====
section
/-! DEFINITION. `engage`, `lease` and `unlease` (R172, R173), the special registers of C (R174), and the events of
admission: comb decisions, holds, wakes, standing leases, recalls and caps. -/

namespace Sys2Proof.Machine

open Sys2Proof

/-! ### engage, lease, unlease -/

/-- The descriptor of an `engage` of core v as an access of the header's class reads it (R103); one that lies elsewhere than in S is
malformed, and reads as 0. -/
def State.descRead (s : State) (v : Nat) (h o : BitVec 64) : State × BitVec 256 :=
  if o.toNat / 2 ^ 18 ≠ 0 ∨ o.toNat % 32 ≠ 0 then (s, 0)
  else
    let (s1, bs) := s.sPort ⟨(v, 0), none, some (s.event v 0 (4 * (s.core v).nextId) (hdrClass h))⟩ v o.toNat 32 .load
    (s1, BitVec.ofNat 256 (leNat bs))

/-- `engage` (R172). The descriptor is read at issue; a command of a comb engine whose ENG table gives the partition an
entry waits for its slot, C with it, and requests that reach one engine at one moment are decided in its rotating order (R105).
The command is a fork for every classed access of C, which its service follows (R89, kind 7). -/
def execEngage (tk : Tok) (q : BitVec 3) (d a b : BitVec 5) (σ : State) : Res :=
  issue σ .C (.engage tk q d a b) tk 2 (fun σ _ =>
    let v := σ.turn.core
    let c := σ.cur
    if c.sBusy [a, a + 1, b, d] ∨ !c.drained .C then .wait
    else
      let h := c.getS a
      let o := c.getS (a + 1)
      let (σ, des) := σ.descRead v h o
      let p := σ.partOf v
      let r : EReq :=
        { core := v, q := q, d := d, hdr := h, doff := o, desc := des, list := c.getS b,
          marked := decide (hdrCls h < 6 ∧ σ.kOf p (hdrCls h) ≤ c.streakOf (hdrCls h)),
          check := σ.checkCommand v h o des, push := tk.push, word := (c.str .C).pc }
      if clsComb (hdrCls h) ∧ σ.ownsEng p (combOf v) then
        .late { σ.setCore v { c with engReq := some (0, q.toNat, d.toNat), nextId := c.nextId + 1 } with ereqs := σ.ereqs ++ [r] }
      else if !σ.engTurn v (hdrCls h) r.list then .wait
      else
        let s1 := σ.engage r
        .go (s1.setCore v { s1.core v with nextId := c.nextId + 1 }) 0)

/-- The event COMB_ENGINE_DECISION (R105, R323): the request of core v is decided at a slot its partition owns in the ENG table
of its comb, in the rotating order of the slot, and the `engage` retires. -/
def execCombEngineDecision (v : Nat) (σ : State) : Res :=
  match σ.ereqs.find? (fun r => r.core == v) with
  | none => .next σ
  | some r =>
    if σ.slotOwner (combOf v) 2 (σ.slot % 512) ≠ some (σ.partOf v) ∨ !σ.engTurn v (hdrCls r.hdr) r.list then .next σ
    else
      let s1 := { σ with ereqs := σ.ereqs.filter (fun x => x.core != v) }.engage r
      .next ((s1.setCore v ({ s1.core v with engReq := none }.push .C r.push 0)).flushAt v)

/-- `lease` (R173). -/
def execLease (tk : Tok) (q : BitVec 3) (d a : BitVec 5) (σ : State) : Res :=
  issue σ .C (.lease tk q d a) tk 2 (fun σ _ =>
    if σ.cur.sBusy [d, a] then .wait
    else
      let (s1, code, ent) := σ.lease σ.turn.core (σ.cur.getS a)
      onCore s1 (fun c => (c.setQ q (decide (code ≤ 1))).setS d (BitVec.ofNat 64 (ent * 2 ^ 16 + code))))

/-- `unlease` (R173): it ends the issuing node's lease on the named engine; q tells whether there was one. -/
def execUnlease (tk : Tok) (q : BitVec 3) (a : BitVec 5) (σ : State) : Res :=
  issue σ .C (.unlease tk q a) tk 2 (fun σ _ =>
    if σ.cur.sBusy [a] then .wait
    else
      let x := (σ.cur.getS a).toNat
      let ok := x / 2 ^ 15 == 1 && fld x 4 1 == 0 && decide (fld x 12 3 < 6) && fld x 5 7 == 0
      let e := engId σ.turn.core (fld x 12 3) (fld x 0 4)
      let n := match σ.cur.task with | some t => t.node | none => 0
      let had := ok && (σ.engine e).leases.contains (.node n)
      onCore (if had then σ.endLease (.node n) e else σ) (fun c => c.setQ q had))

/-! ### Special registers (Table 7.10) -/

/-- The value that `mfsr` reads. -/
def State.srRead (σ : State) (n : Nat) : Reg :=
  let c := σ.cur
  let t := c.task
  let tv (f : Task → Nat) : Reg := match t with | some t => BitVec.ofNat 64 (f t) | none => 0
  if n = 0 then tv (·.taskid)
  else if n ≤ 8 then tv (fun t => t.idx.getD (n - 1) 0)
  else if n = 0x009 then tv (·.coreid)
  else if n = 0x00A then tv (·.clusterid)
  else if n = 0x00B then tv (·.combid)
  else if n = 0x010 then c.sflags.setWidth 64
  else if n = 0x011 then c.dphase.setWidth 64
  else if n = 0x012 then BitVec.ofNat 64 (c.cyc σ.clock)
  else if n = 0x013 then c.dstep.setWidth 64
  else if h : 0x020 ≤ n ∧ n ≤ 0x031 then (c.ovf[n - 0x020]'(by omega)).setWidth 64
  else if 0x040 ≤ n ∧ n ≤ 0x045 then BitVec.ofNat 64 (σ.busyBits σ.turn.core (n - 0x040))
  else BitVec.ofNat 64 (c.streakOf (n - 0x048))

/-- What `mtsr` writes: the low bits of the value. Flags raised in the same C-cycle survive a write of %sflags (R61); %dphase and
%dstep take theirs from the next C-cycle on (R174, R207). -/
def Core.srWrite (c : Core) (clk n : Nat) (x : Reg) : Core :=
  if n = 0x010 then { c with sflags := x.setWidth 5 ||| (if c.raisedAt = clk then c.raised else 0) }
  else if n = 0x011 then { c with dphNext := some (x.setWidth 8, true) }
  else if n = 0x013 then { c with dstNext := some (x.setWidth 8) }
  else if h : 0x020 ≤ n ∧ n ≤ 0x031 then { c with ovf := c.ovf.set (n - 0x020) (x.setWidth 32) (by omega) }
  else c

/-- `mfsr` (R174). -/
def execMfsr (tk : Tok) (d : BitVec 5) (s : BitVec 12) (σ : State) : Res :=
  cOp σ (.mfsr tk d s) tk [d] (fun c => c.setS d (σ.srRead s.toNat))

/-- `mtsr` (R174). -/
def execMtsr (tk : Tok) (a : BitVec 5) (s : BitVec 12) (σ : State) : Res :=
  cOp σ (.mtsr tk a s) tk [a] (fun c => c.srWrite σ.clock s.toNat (c.getS a))

/-! ### Wakes and holds -/

/-- The event ENGINE_WAKE_DONE (R114): engine e is awake, and the commands admitted to it start. -/
def execEngineWakeDone (e : Nat) (σ : State) : Res :=
  let x := σ.engine e
  if x.wake = .waking then
    .next { σ.setEngine e { x with wake := .awake } with
      ecmds := σ.ecmds.map (fun c => if c.eng = e then { c with started := true } else c) }
  else .next σ

/-- An engine's oldest hold ends unclaimed, one lap after it was made: its slot is free, and the core's bits of that class are
cleared (R109, R110). -/
def State.lapseHold (s : State) (e : Nat) : State :=
  match (s.engine e).holds with
  | [] => s
  | h :: r =>
    if h.made + 512 ≤ s.slot then (s.setEngine e { s.engine e with holds := r }).clearMarks h.core (engCls e) else s

/-- What every engine does of itself as time passes: holds that have lasted a lap end, and a hold that is due is made (R105,
R110). At most two holds of an engine coexist. -/
def State.holdsDue (s : State) : State :=
  (s.engines.map (·.1)).foldl (fun s e => ((s.lapseHold e).lapseHold e).makeHold e) s

/-- What the engines do as a C-cycle begins: slots whose occupancy has passed are free, and engines that have nothing left to do
fall asleep (R106, R113, R114). -/
def State.endSlots (s : State) : State :=
  let s1 := (s.ecmds.filter (fun c => c.occupying && c.ending)).foldl (fun s c => s.setEcmd { c with occupying := false }) s
  ((s1.engines.filter (fun e => e.2.wake != .asleep)).map (·.1)).foldl State.mayDoze s1

/-- The event HOLD_CREATE (R110): engine e makes the hold that is due. -/
def execHoldCreate (e : Nat) (σ : State) : Res := .next (σ.makeHold e)

/-- The event HOLD_LAPSE (R110): engine e's oldest hold ends unclaimed. -/
def execHoldLapse (e : Nat) (σ : State) : Res := .next (σ.lapseHold e)

/-! ### Standing leases, recalls and caps (R328–R330) -/

/-- The result of a grant in LSE_CRES: the code with VALID. -/
def State.setCres (σ : State) (code : Nat) : State := σ.setReg lseCres (BitVec.ofNat 64 (8 + code))

/-- The event STANDING_LEASE_GRANT: LSE_CMD action 0 for engine e and partition p (R329, Table 5.7). -/
def execStandingLeaseGrant (e p : Nat) (σ : State) : Res :=
  let cls := engCls e
  let x := σ.engine e
  if !σ.barOpen then .next σ
  else if e / 2 ^ 16 ≠ 0 ∨ 6 ≤ cls ∨ fld e 4 3 ≠ 0 then .next (σ.setCres 5)
  else if !engExists e ∨
      (if clsComb cls then x.leases.any (fun l => σ.lesseePart l != p) || !σ.mayLease p (engComb e)
       else σ.owner (engCluster e) != some p || σ.changing (engCluster e)) then .next (σ.setCres 4)
  else if x.leases.contains (.standing p) then .next (σ.setCres 1)
  else
    let (s1, code) := σ.grantLease p (.standing p) e
    .next (s1.setCres code)

/-- The event STANDING_LEASE_END: LSE_CMD action 1 (R329). -/
def execStandingLeaseEnd (e p : Nat) (σ : State) : Res := .next (σ.bar (σ.endLease (.standing p) e))

/-- The event ENGINE_RECALL: LSE_CMD action 2 (R116, R329). It comes before the requests of its C-cycle (R105). -/
def execEngineRecall (e : Nat) (σ : State) : Res := .next (σ.bar (if σ.engFresh e then σ.recall e else σ))

/-- A write of a pool cap: a value above 4,000 LU is ignored and sets BADW (R328, R338); then engines are recalled until
usage fits (R330). -/
def State.writeCap (σ : State) (off : Nat) (x : BitVec 64) : State :=
  if 4000 < x.toNat then σ.orReg lseEvt 2 else State.fitPool (σ.engines.length + 1) (σ.setReg off x)

/-- Whether no engine has decided a request in this C-cycle, and no lease has woken one: the recalls that a cap may bring come before
the requests of their C-cycle, and a lease of it is checked against the lowered cap (R105, R330). -/
def State.capTurn (σ : State) : Bool :=
  σ.engines.all (fun e => σ.engFresh e.1 && (e.2.wake == .asleep || e.2.grant != σ.clock))

/-- The event LSE_PCCAP_WRITE, by the power controller (R330), once BAR0 takes writes (R359). -/
def execLsePccapWrite (x : BitVec 64) (σ : State) : Res := .next (σ.bar (if σ.capTurn then σ.writeCap lsePccap x else σ))

/-- The event LSE_SWCAP_WRITE, by system software (R330). -/
def execLseSwcapWrite (x : BitVec 64) (σ : State) : Res := .next (σ.bar (if σ.capTurn then σ.writeCap lseSwcap x else σ))

end Sys2Proof.Machine
end

