-- ==== Sys2Proof/Machine/ControlFloat.lean ====
section
/-! DEFINITION. Scalar floating point of the C stream (R154, R155). -/

namespace Sys2Proof.Machine

open Sys2Proof

/-- The rounding mode of a C instruction: under RDI the dither value is Dither(0, 0) with the current %dphase (R53). -/
def Core.rndC (c : Core) (r : BitVec 3) : Rnd := Rnd.ofCode r.toNat (dither c.dphase 0 0)

/-- A rounding operation in FP64 or in FP32 on the low 32 bits, zero-extended (R154). -/
def Core.fop (c : Core) (f : FFmt) (op : FOp) (r : BitVec 3) (n : BitVec 1) (d a b : BitVec 5) : Core :=
  let m := 2 ^ (f.eb + f.fb + 1)
  let x := op.run f (c.rndC r) ((c.getS a).toNat % m) ((c.getS b).toNat % m) ((c.getS d).toNat % m)
  (c.setS d (BitVec.ofNat 64 x.1)).raiseS (n == 1) x.2

/-- `fmin` and `fmax` (R154). -/
def Core.fmm (c : Core) (f : FFmt) (lo : Bool) (n : BitVec 1) (d a b : BitVec 5) : Core :=
  let m := 2 ^ (f.eb + f.fb + 1)
  let x := fminmax f lo ((c.getS a).toNat % m) ((c.getS b).toNat % m)
  (c.setS d (BitVec.ofNat 64 x.1)).raiseS (n == 1) x.2

/-- `fadd.f64` (Table 7.5). -/
def execFaddF64 (tk : Tok) (d : BitVec 5) (a : BitVec 5) (b : BitVec 5) (r : BitVec 3) (n : BitVec 1) (σ : State) : Res :=
  cOp σ (.faddF64 tk d a b r n) tk [d, a, b] (fun c => c.fop fmt64 .add r n d a b)

/-- `fsub.f64` (Table 7.5). -/
def execFsubF64 (tk : Tok) (d : BitVec 5) (a : BitVec 5) (b : BitVec 5) (r : BitVec 3) (n : BitVec 1) (σ : State) : Res :=
  cOp σ (.fsubF64 tk d a b r n) tk [d, a, b] (fun c => c.fop fmt64 .sub r n d a b)

/-- `fmul.f64` (Table 7.5). -/
def execFmulF64 (tk : Tok) (d : BitVec 5) (a : BitVec 5) (b : BitVec 5) (r : BitVec 3) (n : BitVec 1) (σ : State) : Res :=
  cOp σ (.fmulF64 tk d a b r n) tk [d, a, b] (fun c => c.fop fmt64 .mul r n d a b)

/-- `fdiv.f64` (Table 7.5). -/
def execFdivF64 (tk : Tok) (d : BitVec 5) (a : BitVec 5) (b : BitVec 5) (r : BitVec 3) (n : BitVec 1) (σ : State) : Res :=
  cOp σ (.fdivF64 tk d a b r n) tk [d, a, b] (fun c => c.fop fmt64 .div r n d a b)

/-- `fmin.f64` (R154). -/
def execFminF64 (tk : Tok) (d : BitVec 5) (a : BitVec 5) (b : BitVec 5) (n : BitVec 1) (σ : State) : Res :=
  cOp σ (.fminF64 tk d a b n) tk [d, a, b] (fun c => c.fmm fmt64 true n d a b)

/-- `fmax.f64` (R154). -/
def execFmaxF64 (tk : Tok) (d : BitVec 5) (a : BitVec 5) (b : BitVec 5) (n : BitVec 1) (σ : State) : Res :=
  cOp σ (.fmaxF64 tk d a b n) tk [d, a, b] (fun c => c.fmm fmt64 false n d a b)

/-- `fsqrt.f64` (Table 7.5). -/
def execFsqrtF64 (tk : Tok) (d : BitVec 5) (a : BitVec 5) (r : BitVec 3) (n : BitVec 1) (σ : State) : Res :=
  cOp σ (.fsqrtF64 tk d a r n) tk [d, a] (fun c => c.fop fmt64 .sqrt r n d a a)

/-- `ffma.f64`: s[d] := Round(a × b + d) (Table 7.5). -/
def execFfmaF64 (tk : Tok) (d : BitVec 5) (a : BitVec 5) (b : BitVec 5) (r : BitVec 3) (n : BitVec 1) (σ : State) : Res :=
  cOp σ (.ffmaF64 tk d a b r n) tk [d, a, b] (fun c => c.fop fmt64 .fma r n d a b)

/-- `fadd.f32` (Table 7.5). -/
def execFaddF32 (tk : Tok) (d : BitVec 5) (a : BitVec 5) (b : BitVec 5) (r : BitVec 3) (n : BitVec 1) (σ : State) : Res :=
  cOp σ (.faddF32 tk d a b r n) tk [d, a, b] (fun c => c.fop fmt32 .add r n d a b)

/-- `fsub.f32` (Table 7.5). -/
def execFsubF32 (tk : Tok) (d : BitVec 5) (a : BitVec 5) (b : BitVec 5) (r : BitVec 3) (n : BitVec 1) (σ : State) : Res :=
  cOp σ (.fsubF32 tk d a b r n) tk [d, a, b] (fun c => c.fop fmt32 .sub r n d a b)

/-- `fmul.f32` (Table 7.5). -/
def execFmulF32 (tk : Tok) (d : BitVec 5) (a : BitVec 5) (b : BitVec 5) (r : BitVec 3) (n : BitVec 1) (σ : State) : Res :=
  cOp σ (.fmulF32 tk d a b r n) tk [d, a, b] (fun c => c.fop fmt32 .mul r n d a b)

/-- `fdiv.f32` (Table 7.5). -/
def execFdivF32 (tk : Tok) (d : BitVec 5) (a : BitVec 5) (b : BitVec 5) (r : BitVec 3) (n : BitVec 1) (σ : State) : Res :=
  cOp σ (.fdivF32 tk d a b r n) tk [d, a, b] (fun c => c.fop fmt32 .div r n d a b)

/-- `fmin.f32` (R154). -/
def execFminF32 (tk : Tok) (d : BitVec 5) (a : BitVec 5) (b : BitVec 5) (n : BitVec 1) (σ : State) : Res :=
  cOp σ (.fminF32 tk d a b n) tk [d, a, b] (fun c => c.fmm fmt32 true n d a b)

/-- `fmax.f32` (R154). -/
def execFmaxF32 (tk : Tok) (d : BitVec 5) (a : BitVec 5) (b : BitVec 5) (n : BitVec 1) (σ : State) : Res :=
  cOp σ (.fmaxF32 tk d a b n) tk [d, a, b] (fun c => c.fmm fmt32 false n d a b)

/-- `fsqrt.f32` (Table 7.5). -/
def execFsqrtF32 (tk : Tok) (d : BitVec 5) (a : BitVec 5) (r : BitVec 3) (n : BitVec 1) (σ : State) : Res :=
  cOp σ (.fsqrtF32 tk d a r n) tk [d, a] (fun c => c.fop fmt32 .sqrt r n d a a)

/-- `ffma.f32`: s[d] := Round(a × b + d) (Table 7.5). -/
def execFfmaF32 (tk : Tok) (d : BitVec 5) (a : BitVec 5) (b : BitVec 5) (r : BitVec 3) (n : BitVec 1) (σ : State) : Res :=
  cOp σ (.ffmaF32 tk d a b r n) tk [d, a, b] (fun c => c.fop fmt32 .fma r n d a b)

/-- Writes a conversion's result: INT32 sign-extended, every other narrow type zero-extended (R155). -/
def cvtWrite (dst : EF) (x : Nat) : Reg :=
  if dst = .i32 then (BitVec.ofNat 32 x).signExtend 64 else BitVec.ofNat 64 x

/-- `cvt` (R155). -/
def execCvt (tk : Tok) (d : BitVec 5) (a : BitVec 5) (s : BitVec 3) (t : BitVec 3) (r : BitVec 3) (n : BitVec 1) (u : BitVec 1) (σ : State) : Res :=
  cOp σ (.cvt tk d a s t r n u) tk [d, a] (fun c =>
    let src := EF.ofCvt s.toNat
    let dst := EF.ofCvt t.toNat
    let x := convert src dst (c.rndC r) (u == 1) ((c.getS a).toNat % 2 ^ src.width)
    (c.setS d (cvtWrite dst x.1)).raiseS (n == 1) x.2)

end Sys2Proof.Machine
end

