-- ==== Sys2Proof/Machine/Links.lean ====
section
/-! DEFINITION. What several device events share: partition-relative memory (R296), the job package list (R347), packets
sent over Relay (R346), and the registers that a locked TDI protects (R343). -/

namespace Sys2Proof.Machine

open Sys2Proof

/-! ### Partition-relative memory -/

/-- Reads `n` bytes, within one tile, at a partition-relative address of a tier. -/
def State.relRead (s : State) (p pa tier n : Nat) : MRes :=
  match s.relocate p pa tier n with
  | .error c => .fault s c
  | .ok a => s.devRead p a n 0

/-- Writes bytes, within one tile, at a partition-relative address of a tier. -/
def State.relWrite (s : State) (p pa tier : Nat) (bs : List Byte) : MRes :=
  match s.relocate p pa tier bs.length with
  | .error c => .fault s c
  | .ok a => s.devWrite p a 0 bs (decide (bs.length = 1024))

/-! ### The job package list (R347) -/

/-- The device address of entry i of a partition's job package list. -/
def State.pkgAddr (s : State) (p i : Nat) : Except Cause Nat :=
  let b := (s.reg (lnkPlbase p)).toNat
  s.relocate p (fld b 2 50 * 4 + 4 * i) (fld b 0 1) 4

/-- Entry i of a partition's job package list: the identity of a package; one that cannot be read names this package. A page not yet
sealed for the partition is sealed first (R336). -/
def State.pkgAt (s : State) (p i : Nat) : Nat :=
  match s.pkgAddr p i with
  | .ok a => leNat ((s.settle (a / 1024)).devBytes a 4) % 2 ^ 18
  | .error _ => s.regF lnkPkgid 0 18

/-- The identity of this package. -/
def State.self (s : State) : Nat := s.regF lnkPkgid 0 18

/-- The packages of the jobs of a partition; the list of one entry is this package. -/
def State.pkgs (s : State) (p : Nat) : List Nat :=
  let n := s.regF (lnkPlen p) 0 17
  if n ≤ 1 then [s.self] else (List.range n).map (s.pkgAt p)

/-- A read of the job package list: an access of its partition to every tile that it lies in, which the quota monitors count and
which brings the seal of a moved page forward (R326, R336). A list of one entry needs no read. -/
def State.listRead (s : State) (p : Nat) : State :=
  let n := s.regF (lnkPlen p) 0 17
  if n ≤ 1 then s
  else
    let tiles := ((List.range n).filterMap (fun i => match s.pkgAddr p i with | .ok a => some (a / 1024) | .error _ => none)).eraseDups
    tiles.foldl (fun s t => (s.settle t).observe p t) s

/-- The other packages of the list. -/
def State.others (s : State) (p : Nat) : List Nat := (s.pkgs p).filter (· != s.self)

/-- This package's place in the list. -/
def State.pkgIndex (s : State) (p : Nat) : Nat := ((s.pkgs p).findIdx? (· == s.self)).getD 0

/-! ### Relay packets (R346) -/

def RelayPair.fresh : RelayPair := ⟨0, 0, [], false⟩

def relayKey (pkg p : Nat) : Nat := pkg * 32 + p

/-- The transport state towards a package for a partition. -/
def State.pair (s : State) (pkg p : Nat) : RelayPair := Tab.get RelayPair.fresh s.relay (relayKey pkg p)

def State.setPair (s : State) (pkg p : Nat) (r : RelayPair) : State :=
  { s with relay := Tab.set RelayPair.fresh s.relay (relayKey pkg p) r }

/-- The route to a package, counted from its first: each failure of the link that it takes moves it on (R346). -/
def routeAt (pkg : Nat) (failed : List Nat) : Nat :=
  failed.foldl (fun k i => if Config.route pkg k % 16 = i then k + 1 else k) 0

/-- The link by which packets reach a package now (R346; log entry 61). -/
def State.linkOf (s : State) (pkg : Nat) : Nat := Config.route pkg (routeAt pkg s.failed) % 16

/-- The comb whose LINK slots a port uses: four links to a comb, and behind them its bridge port (log entry 14). -/
def linkComb (i : Nat) : Nat := if i < 16 then i / 4 else (i - 16) % 4

def Link.down : Link := ⟨false, false, 0, 0, 0⟩
def State.link (s : State) (i : Nat) : Link := Tab.get Link.down s.links i
def State.setLink (s : State) (i : Nat) (x : Link) : State := { s with links := Tab.set Link.down s.links i x }

/-- Whether a retrain or a retry takes a slot of a port (R324). -/
def Link.taken (x : Link) (slot : Nat) : Bool := x.retraining || decide (slot < x.busy)

/-- Whether the present slot serves a partition on the link towards a package: it owns the slot in the LINK table of the link's
comb, and no retry or retrain takes the slot (R323, R324, R344). -/
def State.linkServes (s : State) (pkg p : Nat) : Bool :=
  !(s.link (s.linkOf pkg)).taken s.slot && s.slotOwner (linkComb (s.linkOf pkg)) 3 (s.slot % 512) == some p

/-- The packets of a pair that wait leave, in the order of their numbers, if the present slot serves them; else they wait at their
source (R323). -/
def State.relayOut (s : State) (pkg p : Nat) : State :=
  let r := s.pair pkg p
  if r.unacked.all (fun u => !u.waits) || !s.linkServes pkg p then s
  else
    { s.setPair pkg p { r with unacked := r.unacked.map (fun u => { u with waits := false }) } with
      out := ((r.unacked.filter (·.waits)).map (fun u => Output.relay pkg p u.num u.msg)).reverse ++ s.out }

/-- Sends a packet: it takes the next number of its pair and is kept until it is acknowledged (R346). It leaves in a slot of its
partition. -/
def State.relaySend (s : State) (pkg p : Nat) (m : Msg) : State :=
  let r := s.pair pkg p
  (s.setPair pkg p { r with nextTx := r.nextTx + 1, unacked := r.unacked ++ [⟨r.nextTx, m, 0, true⟩] }).relayOut pkg p

/-! ### Slips (R324) -/

/-- One of the slip counters of a partition: 0 MESH, 1 MEM, 2 ENG, 3 LINK. -/
def State.slip (s : State) (p k : Nat) : Nat := s.regF (calSlip p + 8 * (k / 2)) (32 * (k % 2)) 32

/-- Slots lost to a partition, saturating. -/
def State.addSlips (s : State) (p k n : Nat) : State :=
  s.setRegF (calSlip p + 8 * (k / 2)) (32 * (k % 2)) 32 (min (s.slip p k + n) (2 ^ 32 - 1))

/-- The LINK slots of a comb from slot `a` up to slot `b` are lost to their owners. -/
def State.loseSlots (s : State) (comb a b : Nat) : State :=
  if b ≤ a then s
  else
    (List.range 512).foldl (fun s i =>
      match s.slotOwner comb 3 ((a + i) % 512) with | some p => s.addSlips p 3 ((b - a + 511 - i) / 512) | none => s) s

/-- The slots after slot `was`, up to the present one, that a retry or retrain of a port has taken are lost. -/
def State.linkSlips (s : State) (was i : Nat) : State :=
  let x := s.link i
  s.loseSlots (linkComb i) (was + 1) (if x.retraining then s.slot + 1 else min (s.slot + 1) x.busy)

/-- A retry or retrain takes the present slot of a port, unless one takes it already, and `n` further ones. -/
def State.linkTakes (s : State) (i n : Nat) : State :=
  let x := s.link i
  (if x.taken s.slot then s else s.loseSlots (linkComb i) s.slot (s.slot + 1)).setLink i
    { x with busy := max x.busy (s.slot + 1 + n) }

/-- What new slots bring, the last one counted being `was`: those that retries and retrains have taken are lost, and packets leave
that the present one serves (R323, R324). -/
def State.slotOn (s : State) (was : Nat) : State :=
  if s.slot = was then s
  else
    let s1 := (s.links.map (·.1)).foldl (fun s i => s.linkSlips was i) s
    (s1.relay.map (·.1)).foldl (fun s k => s.relayOut (k / 32) (k % 32)) s1

/-! ### Locked TDIs (R343) -/

/-- Whether a partition's TDI is locked or running. -/
def State.locked (s : State) (p : Nat) : Bool :=
  let t := Tab.get Tdi.unlocked s.tdi p
  t == .locked || t == .run

end Sys2Proof.Machine
end

