-- ==== Sys2Proof/Machine/LoadService.lean ====
section
/-! DEFINITION. L commands in service (R74, R94–R96, R184–R191, R312): how a command goes on, its released and delivered
events, its notify write, and its faults. -/

namespace Sys2Proof.Machine

open Sys2Proof

/-! ### Data (R184, R186, R189) -/

/-- Packs codes of a width, the first lowest (R38). -/
def packNat (w : Nat) : List Nat → Nat
  | [] => 0
  | x :: xs => x % 2 ^ w + 2 ^ w * packNat w xs

/-- Elements `i` to `i + n − 1` of a converting copy, from its source, if that is there: their codes and flags. -/
def LCmd.convert (l : LCmd) (w : Work) (i n : Nat) : Option (List (Nat × Fl)) :=
  let sf := fmtOf l.sfmt
  let lo := i * sf.width / 8
  (w.data lo ((i + n) * sf.width / 8 + (if (i + n) * sf.width % 8 = 0 then 0 else 1) - lo)).map (fun d =>
    (List.range n).map (fun j =>
      Machine.convert sf (fmtOf l.dfmt) (Rnd.ofCode l.rnd (dither l.dph ((i + j) / 64) ((i + j) % 64))) l.sat
        (leNat d / 2 ^ ((i + j) * sf.width - 8 * lo) % 2 ^ sf.width)))

/-- The bytes that a command writes to a granule, once what they come from has been read. -/
def LCmd.bytes (l : LCmd) (w : Work) (g : Grain) : Option (List Byte) :=
  match l.op with
  | .lfill => some (((List.replicate ((g.n + 3) / 4) (leBytes 4 (l.payload.getD 0).toNat)).flatten).take g.n)
  | .cvcp =>
    let wd := (fmtOf l.dfmt).width
    let i := 8 * g.pos / wd
    let n := (8 * (g.pos + g.n) + wd - 1) / wd - i
    (l.convert w i n).map (fun es => leBytes g.n (packNat wd (es.map (·.1)) / 2 ^ (8 * g.pos - i * wd)))
  | _ => w.data g.pos g.n

/-- The flags of every element of a converting copy. -/
def LCmd.flags (l : LCmd) : Fl :=
  if l.op = .cvcp then
    (match l.convert l.work 0 (l.sh 0 20) with | some es => es.foldl (fun f e => f ||| e.2) flNone | none => flNone)
  else flNone

/-! ### A command goes on -/

/-- Who serves command `l` of core v: what it reads precedes its released event, but for the elements of an `lgath` (R184,
R188), and all of it its delivered event (R94). -/
def State.lServer (s : State) (v : Nat) (l : LCmd) : Server :=
  let ev := s.event v (lThread l.id) 0 l.cls
  { v := v, pol := l.pol, reads := ⟨(v, l.id), some (v, l.id), some (if l.op = .lgath then { ev with po := 2 } else ev)⟩,
    writes := ⟨(v, l.id), some (v, l.id), some { ev with po := 2 }⟩, dat := l.bytes }

/-- The command k of core v. -/
def Core.lcmd (c : Core) (k : Nat) : Option LCmd := c.lcmds.find? (fun l => l.id == k)

/-- Replaces a command, or removes it once its last event has occurred and its last granule has performed. -/
def Core.setLcmd (c : Core) (l : LCmd) : Core :=
  if l.delivered ∧ (!l.notify ∨ l.notified) ∧ l.work.dsts.isEmpty then
    { c with lcmds := c.lcmds.filter (fun m => m.id != l.id) }
  else { c with lcmds := c.lcmds.map (fun m => if m.id = l.id then l else m) }

/-- Core v with a command as it now stands. -/
def State.putLcmd (s : State) (v : Nat) (l : LCmd) : State := (s.setCore v ((s.core v).setLcmd l)).flushAt v

/-- The cause record of a command (Table 17.9). -/
def LCmd.record (l : LCmd) (cause : Cause) (addr : Nat) : CauseRec :=
  { cause := cause, orig := 4, rel := l.released, del := l.delivered, word := l.addr, addr := addr }

/-- A gather or scatter of a resumed core tries its marked elements again, with their indices; once its source is released, at the
addresses that these gave (Table 8.7). -/
def LCmd.retry (l : LCmd) : LCmd :=
  if l.isGath ∧ l.faulted.isNone ∧ l.todo ≠ 0 then
    { l with todo := 0, work := if l.released then l.gather.resume l.work else l.gather.again l.work }
  else l

/-- A copy, fill, prefetch or release faults in service (Table 8.7): it is issued again at the resumption. -/
def State.lFault (s : State) (v : Nat) (l : LCmd) (cause : Cause) (addr : Nat) : State :=
  let l1 := { l with faulted := some cause, todo := 0, tiles := [], work := l.plan s v }
  (s.unfail v l.id).setCore v ((((s.core v).setLcmd l1).waitOn (pagesOf cause addr)).park s.now (l1.record cause addr))

/-- A gather or scatter faults, at this C-cycle, which `todo` notes (R190, R312): the core parks; the record of the first command
that marks in the C-cycle serves every other. -/
def State.lMark (s : State) (v : Nat) (l : LCmd) (cause : Cause) (addr : Nat) : State × LCmd :=
  let c := s.core v
  let same := c.st == .parked && c.lcmds.any (fun m => m.isGath && m.faulted.isSome && m.todo == s.clock + 1)
  let l1 := { l with faulted := some cause, todo := s.clock + 1 }
  let c1 := (c.setLcmd l1).waitOn (l.work.marked.flatMap (fun e => pagesOf e.2.2 e.2.1))
  ((s.unfail v l.id).setCore v (if same then c1 else c1.park s.now (l1.record cause addr)), l1)

/-- A gather or scatter all of whose elements have translated or been marked parks the core, if one has been marked (R312). -/
def State.lStop (s : State) (v : Nat) (l : LCmd) : State × LCmd :=
  match (if l.work.stops ∧ l.todo = 0 then l.work.lowest else none) with
  | some (_, a, c) => s.lMark v l c a
  | none => (s, l)

/-- A command that moves data goes on by a free choice (R94, R96, R312). -/
def State.lOn (s : State) (v : Nat) (l0 : LCmd) : State × LCmd :=
  let l := l0.retry
  if l.isGath then
    let (s1, w) := s.gatherOn (s.lServer v l) l.gather l.work false
    s1.lStop v { l with work := w }
  else
    let (s1, w) := s.workOn (s.lServer v l) l.work
    (s1, { l with work := w })

/-- Whether the source of a command is released: all of it has been read, and every G: address translated and every fill
verified (R95, R184, R188). -/
def LCmd.mayRelease (l : LCmd) : Bool :=
  l.work.idx.isEmpty && l.work.marked.isEmpty && l.work.translated && (l.op == .lgath || l.work.srcs.isEmpty)

/-- Whether a command meets the condition of its delivered event (R95): every granule has performed; a granule of host memory,
where the delivery scope is narrower than system, has left the package. -/
def LCmd.arrived (l : LCmd) : Bool :=
  l.mayRelease && l.work.srcs.isEmpty && (l.work.dsts.isEmpty || (decide (l.scope < 6) && l.work.dsts.all Grain.onHost))

/-! ### Bulk prefetch and release (R74, R187) -/

/-- The first tile of a range and the number of its tiles, widened outward. -/
def LCmd.tileRange (l : LCmd) : Nat × Nat :=
  let a := baseOf l.src
  (a / 1024, (a + l.sh 0 36 + 1023) / 1024 - a / 1024)

/-- Reaches tile `i` of a range: the state and the translation; or the fault, or a wait, with the G: address. -/
def State.tileAt (s : State) (v : Nat) (l : LCmd) (i : Nat) : State × Option Xlat × Option (Option Cause × Nat) :=
  let va := (l.tileRange.1 + i) * 1024
  match s.xlate (v, l.id) (s.partOf v) va .read 1 with
  | .fault s c => (s, none, some (some c, va))
  | .wait s => (s, none, some (none, va))
  | .ok s x => (s, some x, none)

/-- Asks for tile `i` of a bulk prefetch, at translation `x`. A tile of host memory counts as resident at once. So does one
that is resident already, which the prefetch reaches as a hit: it becomes most recently used, or is raised to retain priority
where the prefetch would allocate it so (log entry 66). -/
def State.askTile (s : State) (v : Nat) (l : LCmd) (i : Nat) (x : Xlat) : State × LCmd :=
  if x.host then (s, l)
  else
    let t := x.pa / 1024
    let ret := x.cmax == 3 || appliedPol x.cmax l.pol == 2
    let s := s.observe (s.partOf v) t
    if s.resident t then (s.touch t (if ret then 2 else 0), l)
    else
      (if s.fills.any (fun f => f.tile == t) then s else { s with fills := s.fills ++ [⟨t, s.partOf v, ret⟩] },
        { l with tiles := l.tiles ++ [(i, t)] })

/-- A bulk prefetch goes on (R187): a tile whose fill was discarded (R83) is asked for again, and the next tiles are asked for in
increasing address order, while fewer than 64 are outstanding; `fuel` bounds the tiles. -/
def State.pump (v : Nat) : Nat → LCmd → State → State × LCmd × Option (Option Cause × Nat)
  | 0, l, s => (s, l, none)
  | fuel + 1, l, s =>
    match l.tiles.find? (fun e => !s.fills.any (fun f => f.tile == e.2)) with
    | some e =>
      (match s.tileAt v l e.1 with
       | (s1, some x, _) =>
         let (s2, l2) := s1.askTile v { l with tiles := l.tiles.erase e } e.1 x
         State.pump v fuel l2 s2
       | (s1, none, stop) => (s1, l, stop))
    | none =>
      if l.tileRange.2 ≤ l.todo ∨ 64 ≤ l.tiles.length then (s, l, none)
      else
        match s.tileAt v l l.todo with
        | (s1, some x, _) =>
          let (s2, l2) := s1.askTile v { l with todo := l.todo + 1 } l.todo x
          State.pump v fuel l2 s2
        | (s1, none, stop) => (s1, l, stop)

/-- Lowers resident tiles of a released range to default priority, in address order; `fuel` bounds the tiles. -/
def State.lower (v : Nat) : Nat → LCmd → State → State × LCmd × Option (Option Cause × Nat)
  | 0, l, s => (s, l, none)
  | fuel + 1, l, s =>
    if l.tileRange.2 ≤ l.todo then (s, l, none)
    else
      match s.tileAt v l l.todo with
      | (s1, some x, _) =>
        State.lower v fuel { l with todo := l.todo + 1 }
          (if x.host then s1 else s1.mapTile (x.pa / 1024) (fun t => { t with retain := false }))
      | (s1, none, stop) => (s1, l, stop)

/-- A prefetch or release goes on; how far a release comes is left open. -/
def State.tilesOn (s : State) (v : Nat) (l : LCmd) (all : Bool) : State × LCmd × Option (Option Cause × Nat) :=
  let n := l.tileRange.2 + 1
  if l.op = .pfBulk then State.pump v (n + 64) l s
  else State.lower v (if all then n else Config.freeNat 27 s.tick % (n + 1)) l s

/-- Whether a prefetch or release has reached its whole range. -/
def LCmd.tilesDone (l : LCmd) : Bool := decide (l.tileRange.2 ≤ l.todo) && l.tiles.isEmpty

/-! ### What a command reaches -/

/-- The G: ranges that a command has still to reach. -/
def LCmd.reach (l : LCmd) : List (Nat × Nat) :=
  match l.op with
  | .pfBulk => [(l.tileRange.1 * 1024, l.tileRange.2 * 1024)]
  | .pfRel => [(l.tileRange.1 * 1024, l.tileRange.2 * 1024)]
  | _ => (l.work.srcs ++ l.work.dsts).filterMap (fun g => if g.space = .G then some (g.addr, g.n) else none)

/-- The address of the first granule of some ranges that lies in the host page a. -/
def firstIn (a : Nat) (rows : List (Nat × Nat)) : Nat :=
  match rows.find? (fun r => decide (r.1 < a + 2 ^ 16 ∧ a < r.1 + r.2)) with
  | some r => max a r.1
  | none => a

/-! ### Events -/

/-- A completion increment of a thread of core v: a release at the thread's delivery scope (R94). -/
def State.completed (s : State) (v th po cls scope k n : Nat) (r : CauseRec) : State :=
  let s1 := s.setCore v ((s.core v).complete s.now k n r)
  (if n = 0 then s1 else s1.note { s.event v th po cls with kind := .inc k, rel := scope }).flushAt v

/-- The event L_CMD_SOURCE_RELEASED (R95, R184): command k of core v goes on, and its source is released once it may be. A
gather or scatter some of whose elements are marked performs the others (R312). -/
def execLCmdSourceReleased (v k : Nat) (σ : State) : Res :=
  match (σ.core v).lcmd k with
  | none => .next σ
  | some l =>
    if l.released ∨ !l.releases ∨ (l.faulted.isSome ∧ !l.isGath) then .next σ
    else
      let (s1, l1) := σ.lOn v l
      if l1.mayRelease ∧ l1.faulted.isNone ∧ (s1.core v).mayComplete s1.clock l.incS then
        let l2 := { l1 with released := true }
        .next ((s1.putLcmd v l2).completed v (lThread l.id) 1 16 l.scope l.ks l.incS (l2.record .counterOverflow 0))
      else .next (s1.putLcmd v l1)

/-- Flags that a command raises in %sflags in this C-cycle (R61, R186); those raised after the frame was written reach the
resumed task. -/
def Core.raiseCmd (clk : Nat) (nf : Bool) (f : Fl) (c : Core) : Core :=
  let f := if nf then flNone else f
  { c.raiseS nf f with
    raisedAt := clk
    raised := (if c.raisedAt = clk then c.raised else 0) ||| f
    sflate := if c.framed then c.sflate ||| f else c.sflate }

/-- The delivered event of a command of core v. -/
def State.deliver (s : State) (v : Nat) (l : LCmd) : State :=
  let l1 := { l with delivered := true }
  let c := (s.core v).setLcmd l1
  (s.setCore v (if l.op = .cvcp then c.raiseCmd s.clock l.nf l.flags else c)).completed v (lThread l.id) 3 16 l.scope l.kd l.incD
    (l1.record .counterOverflow 0)

/-- The event L_CMD_DELIVERED (R95, R187, R189): command k of core v goes on, and is delivered once it may be. What a narrow
delivery scope has left due performs afterwards. -/
def execLCmdDelivered (v k : Nat) (σ : State) : Res :=
  match (σ.core v).lcmd k with
  | none => .next σ
  | some l =>
    if (l.faulted.isSome ∧ !l.isGath) ∨ (l.releases ∧ !l.released) then .next σ
    else if l.delivered then
      let (s1, w) := σ.landSome (σ.lServer v l) l.work
      .next (s1.putLcmd v { l with work := w })
    else if l.op = .pfBulk ∨ l.op = .pfRel then
      match σ.tilesOn v l false with
      | (s1, l1, none) =>
        if l1.tilesDone ∧ (s1.core v).mayComplete s1.clock l.incD then .next (s1.deliver v l1) else .next (s1.putLcmd v l1)
      | (s1, l1, some (none, _)) => .next (s1.putLcmd v l1)
      | (_, _, some (some _, _)) => .next σ
    else
      let (s1, l1) := σ.lOn v l
      if l1.arrived ∧ l1.faulted.isNone ∧ (s1.core v).mayComplete s1.clock l.incD then .next (s1.deliver v l1)
      else .next (s1.putLcmd v l1)

/-- The value of a command's notify word (R182). -/
def LCmd.notifyWord (l : LCmd) : Nat :=
  match l.payload with | some y => (if l.op = .lfill then l.nval else y.toNat) | none => l.nval

/-- Whether the notify word of a command may be written: the delivered condition holds (R95); a prefetch or release has
completed (R187). -/
def LCmd.mayNotify (l : LCmd) : Bool :=
  l.notify && !l.notified &&
    (l.delivered || ((!l.releases || l.released) && l.faulted.isNone && l.op != .pfBulk && l.op != .pfRel && l.arrived))

/-- The cores that the notify word of a command is due at: each target for `cpr` and `cpm`, else its own (R182). -/
def State.notifyDue (s : State) (v : Nat) (l : LCmd) : List Nat :=
  (if l.op = .cpr ∨ l.op = .cpm then (l.targets (s.core v) v).filterMap id else [v]).filter (fun w => !l.told.contains w)

/-- The event NOTIFY_WRITE (R94, R95, R182): the notify word of command k is written in S of one of the cores that it is due at, in
any order, once the delivered condition holds; it and the delivered increment are unordered. -/
def execNotifyWrite (v k : Nat) (σ : State) : Res :=
  match (σ.core v).lcmd k with
  | none => .next σ
  | some l =>
    if !l.mayNotify then .next σ
    else
      match oneOf σ.tick 31 (σ.notifyDue v l) with
      | none => .next (σ.putLcmd v { l with notified := true })
      | some w =>
        let ag : Agent := ⟨(v, l.id), some (v, l.id), some { σ.event v (lThread l.id) 3 l.cls with rel := l.scope }⟩
        let l1 := { l with told := w :: l.told }
        .next (((σ.sPort ag w (4 * l.nidx) 4 (.store (leBytes 4 l.notifyWord))).1).putLcmd v
          { l1 with notified := (σ.notifyDue v l1).isEmpty })

/-! ### Faults (R190, R312) -/

/-- The event L_CMD_SERVICE_FAULT (R190, R312): command k of core v meets a fault in service, and the core parks. Once its
source is released only the death of an arena remains to be met (R83, R190). -/
def execLCmdServiceFault (v k : Nat) (σ : State) : Res :=
  match (σ.core v).lcmd k with
  | none => .next σ
  | some l =>
    if l.delivered ∨ l.faulted.isSome then .next σ
    else if l.op = .pfBulk ∨ l.op = .pfRel then
      match σ.tilesOn v l true with
      | (s1, l1, some (some c, a)) => .next (s1.lFault v l1 c a)
      | _ => .next σ
    else if l.isGath then
      match σ.gatherFault (σ.lServer v l) l.gather l.retry.work with
      | some (s1, w, c, a) => .next (s1.lMark v { l with work := w } c a).1
      | none => .next σ
    else
      match σ.workFault (σ.lServer v l) l.work with
      | some (s1, c, a) => if l.released ∧ c ≠ .outlived then .next σ else .next (s1.lFault v l c a)
      | none => .next σ

end Sys2Proof.Machine
end

