-- ==== Sys2Proof/Machine/Special.lean ====
section
/-! DEFINITION. The special functions of V, the epilogue processor and the row engine (R221, R222): exact where the exact
result is representable, else the free value of Config within the bound of Table 10.4 (log entry 4). -/

namespace Sys2Proof.Machine

open Sys2Proof

/-- The lane formats of the special functions. -/
def laneFmt (f64 : Bool) : FFmt := if f64 then fmt64 else fmt32

/-- The exponent of a positive value that is a power of two. -/
def Val.log2? (v : Val) : Option Int :=
  match v with
  | .fin _ n d =>
    let e := Machine.flog2 n d
    if n = 0 then none
    else if 0 ≤ e then (if n = d * 2 ^ e.toNat then some e else none)
    else (if n * 2 ^ (-e).toNat = d then some e else none)
  | _ => none

/-- The integer that a finite value is, if it is one. -/
def Val.int? (v : Val) : Option Int :=
  match v with
  | .fin s n d => if d ≠ 0 ∧ n % d = 0 then some (if s then -((n / d : Nat) : Int) else (n / d : Nat)) else none
  | _ => none

/-! ### The exact results (R221), far closer than the bound of Table 10.4

A number stands as an integer count of 2^-W. W leaves 600 bits beyond what the operand's exponent takes, so that the errors
that the truncations leave lie far below an ulp of the result (log entry 4). -/

/-- Bits of fraction for an operand of binary exponent `e`: three times a small operand's, for the cubic term of a series. -/
def fixBits (e : Int) : Nat := 600 + e.toNat + 3 * (-e).toNat

def fixMul (W : Nat) (a b : Int) : Int := a * b / 2 ^ W

/-- A finite value as a count of 2^-W. -/
def Val.fix (W : Nat) (v : Val) : Int :=
  match v with
  | .fin s n d => (if s then -1 else 1) * ((n * 2 ^ W / d : Nat) : Int)
  | _ => 0

/-- A count of 2^-W, times 2^k, as a value. -/
def ofFix (W : Nat) (a k : Int) : Val := .dyadic (decide (a < 0)) a.natAbs (k - W)

/-- e^t by its series, for a small t: `n` terms are left, and the next has the index i. -/
def expSeries (W : Nat) (t : Int) : Nat → Nat → Int
  | 0, _ => 2 ^ W
  | n + 1, i => 2 ^ W + fixMul W t (expSeries W t n (i + 1)) / i

def fixExp (W : Nat) (t : Int) : Int := expSeries W t (W / 4 + 40) 1

/-- The sum of ± z^(2i) / (2i + 1), from index i on; q is z². -/
def oddSeries (W : Nat) (alt : Bool) (q : Int) : Nat → Nat → Int
  | 0, _ => 0
  | n + 1, i => 2 ^ W / (2 * i + 1) + (if alt then -1 else 1) * fixMul W q (oddSeries W alt q n (i + 1))

/-- atanh z, or atan z when `alt`, for |z| ≤ 1/3. -/
def fixAtan (W : Nat) (alt : Bool) (z : Int) : Int := fixMul W z (oddSeries W alt (fixMul W z z) (W / 3 + 20) 0)

def fixLn2 (W : Nat) : Int := 2 * fixAtan W false (2 ^ W / 3)

def fixPi (W : Nat) : Int := 16 * fixAtan W true (2 ^ W / 5) - 4 * fixAtan W true (2 ^ W / 239)

/-- ln of n / d, from its exponent and 2 atanh ((m - 1) / (m + 1)) of its significand m. -/
def fixLn (W n d : Nat) : Int :=
  let e := Machine.flog2 n d
  let a : Int := n * 2 ^ (-e).toNat
  let b : Int := d * 2 ^ e.toNat
  e * fixLn2 W + 2 * fixAtan W false ((a - b) * 2 ^ W / (a + b))

/-- e^(t / 2^W) as a value, by way of 2^k. -/
def expVal (W : Nat) (t : Int) : Val :=
  let l := fixLn2 W
  ofFix W (fixExp W (t - t / l * l)) (t / l)

/-- cos (odd = 0) or sin x / x (odd = 1) by its series; q is x². -/
def trigSeries (W odd : Nat) (q : Int) : Nat → Nat → Int
  | 0, _ => 2 ^ W
  | n + 1, i => 2 ^ W - fixMul W q (trigSeries W odd q n (i + 1)) / ((2 * i + 1 + odd) * (2 * i + 2 + odd))

/-- The sum of (2q)^n / (1 · 3 · … · (2n + 1)), which with e^-q gives erf. -/
def erfSeries (W : Nat) (q : Int) : Nat → Nat → Int
  | 0, _ => 2 ^ W
  | n + 1, i => 2 ^ W + fixMul W (2 * q) (erfSeries W q n (i + 1)) / (2 * i + 3)

/-- A function of a nonzero finite operand, where it is not representable. An operand so large that the result lies beyond
every finite value, or below every subnormal, is cut at four times the exponent range; tanh and erf are taken just below 1
from where no code lies between them and 1. -/
def exactly (fn : SpecialFn) (f : FFmt) (v : Val) : Val :=
  let W := fixBits v.flog2
  let one : Int := 2 ^ W
  let cut : Val := .fin v.neg (4 * 2 ^ f.eb) 1
  let x := (if decide ((f.eb : Int) + 2 < v.flog2) then cut else v).fix W
  let m : Int := ((v.fix W).natAbs : Int)
  let sign (y : Int) : Val := ofFix W (if v.neg then -y else y) 0
  let low (k : Nat) : Int := one - 2 ^ (W - k)
  match fn with
  | .rsqrt => (match v with | .fin _ n d => ofFix W (isqrt (d * 2 ^ (2 * W) / n)) 0 | _ => v)
  | .exp2 => ofFix W (fixExp W (fixMul W (x % one) (fixLn2 W))) (x / one)
  | .exp => expVal W x
  | .log2 => (match v with | .fin _ n d => ofFix W (fixLn W n d * one / fixLn2 W) 0 | _ => v)
  | .ln => (match v with | .fin _ n d => ofFix W (fixLn W n d) 0 | _ => v)
  | .sin =>
    let r := m % (2 * fixPi W)
    sign (fixMul W r (trigSeries W 1 (fixMul W r r) (W / 4 + 40) 0))
  | .cos =>
    let r := m % (2 * fixPi W)
    ofFix W (trigSeries W 0 (fixMul W r r) (W / 4 + 40) 0) 0
  | .tanh =>
    if 64 * one ≤ m then sign (low 100)
    else
      let e := (expVal W (2 * m)).fix W
      sign ((e - one) * one / (e + one))
  | .erf =>
    if 8 * one ≤ m then sign (low 90)
    else
      let q := fixMul W m m
      let s := fixMul W (fixMul W m (erfSeries W q (W + 200) 0)) ((expVal W (-q)).fix W)
      sign (2 * s * one / (isqrt ((fixPi W).toNat * 2 ^ W) : Int))

/-! ### The values that R221 allows -/

/-- Table 10.4: the bound in ulp. -/
def ulps (fn : SpecialFn) : Nat :=
  match fn with
  | .rsqrt | .exp2 | .log2 => 1
  | _ => 2

/-- The value that a result code stands for; that of infinity is the first beyond the finite ones. -/
def FFmt.reach (f : FFmt) (r : Nat) : Val :=
  let mag := r % 2 ^ (f.eb + f.fb)
  if mag = f.infCode then .dyadic (decide (r ≠ mag)) (2 ^ f.fb) (f.kmin + (2 ^ f.eb : Nat) - 2) else f.decode r

/-- sin and cos beyond the domain of their bound: |x| > 2^20 × π. -/
def farTrig (fn : SpecialFn) (v : Val) : Bool :=
  (fn == .sin || fn == .cos) && decide (2 ^ 20 * fixPi 600 < ((v.fix 600).natAbs : Int))

/-- Whether R221 allows a code for the exact result y: within the bound, and on the side that the mode names. Beyond the domain
of sin and cos the bound is −1 to 1. -/
def allows (fn : SpecialFn) (f : FFmt) (mode : Rnd) (v y : Val) (r : Nat) : Bool :=
  let z := f.reach r
  let d := (z.add false y.negate).1
  let far (a : Val) : Val := if a.neg then a.negate else a
  let ulp := Val.dyadic false (ulps fn) (max y.flog2 f.emin - f.fb)
  !z.isNan && (if farTrig fn v then !(Val.fin false 1 1).lt (far z) else !ulp.lt (far d)) &&
    (match mode with
     | .rtz => !(far y).lt (far z)
     | .rup => !z.lt y
     | .rdn => !y.lt z
     | _ => true)

/-- A value that is not the exact result, with its flags (R221): the free value where R221 allows it, else the rounded one.
Inexact always; overflow by R57, underflow when the value lies below the normal range. -/
def approx (fn : SpecialFn) (f64 : Bool) (rc x : Nat) : Nat × Fl :=
  let f := laneFmt f64
  let mode := Rnd.ofCode rc 0
  let v := f.decode x
  let y := exactly fn f v
  let (near, fl) := f.round mode false y
  if fl &&& flOF ≠ 0 then (near, flOF ||| flNX)
  else
    let r := Config.special fn f64 rc x % 2 ^ (f.eb + f.fb + 1)
    let z := if allows fn f mode v y r then r else near
    let mag := z % 2 ^ (f.eb + f.fb)
    if mag = f.infCode then (f.overflow mode false (decide (z ≠ mag)), flOF ||| flNX)
    else (z, if mag < 2 ^ f.fb then flUF ||| flNX else flNX)

/-- 2 to an integer power, rounded (exact in range; overflow by R57). -/
def pow2 (f : FFmt) (mode : Rnd) (n : Int) : Nat × Fl := f.round mode false (.dyadic false 1 n)

/-- One special function other than the square root and the reciprocal (R221, Table 10.5). -/
def specialRun (fn : SpecialFn) (f64 : Bool) (rc x : Nat) : Nat × Fl :=
  let f := laneFmt f64
  let mode := Rnd.ofCode rc 0
  let v := f.decode x
  let one := f.bias * 2 ^ f.fb
  match v with
  | .nan sig => (f.nan, if sig then flNV else flNone)
  | _ =>
    let free := approx fn f64 rc x
    match fn with
    | .rsqrt =>
      if v.isZero then (f.pack v.neg f.infCode, flDZ)
      else if v.neg then (f.nan, flNV)
      else
        (match v, v.log2? with
         | .inf _, _ => (0, flNone)
         | _, some e => if e % 2 = 0 then pow2 f mode (-(e / 2)) else free
         | _, none => free)
    | .exp2 =>
      (match v with
       | .inf neg => (if neg then 0 else f.infCode, flNone)
       | _ =>
         if v.isZero then (one, flNone)
         else
           match v.int? with
           | some n => if f.kmin ≤ n then pow2 f mode (min n (2 ^ f.eb)) else free
           | none => free)
    | .exp =>
      (match v with
       | .inf neg => (if neg then 0 else f.infCode, flNone)
       | _ =>
         if v.isZero then (one, flNone) else free)
    | .log2 =>
      if v.isZero then (f.pack true f.infCode, flDZ)
      else if v.neg then (f.nan, flNV)
      else
        (match v, v.log2? with
         | .inf _, _ => (f.infCode, flNone)
         | _, some e => f.round mode false (.ofInt e)
         | _, none => free)
    | .ln =>
      if v.isZero then (f.pack true f.infCode, flDZ)
      else if v.neg then (f.nan, flNV)
      else
        (match v with
         | .inf _ => (f.infCode, flNone)
         | _ => if x = one then (0, flNone) else free)
    | .sin =>
      (match v with
       | .inf _ => (f.nan, flNV)
       | _ => if v.isZero then (f.pack v.neg 0, flNone) else free)
    | .cos =>
      (match v with
       | .inf _ => (f.nan, flNV)
       | _ => if v.isZero then (one, flNone) else free)
    | _ =>
      match v with
      | .inf neg => (f.pack neg one, flNone)
      | _ => if v.isZero then (f.pack v.neg 0, flNone) else free

end Sys2Proof.Machine
end

