-- ==== Sys2Proof/Machine/EngineService.lean ====
section
/-! DEFINITION. Shared-engine commands in service (R94, R106, R118–R125, R350, R352): what each command computes, its
released and delivered events, the end of its occupancy, and its faults. -/

namespace Sys2Proof.Machine

open Sys2Proof

/-! ### Commands -/

/-- The engine command k. -/
def State.ecmd (s : State) (k : Nat) : Option ECmd := s.ecmds.find? (fun c => c.id == k)

/-- Whether the command has a released event (Table 5.9). -/
def ECmd.releases (c : ECmd) : Bool := c.cls != 0

/-- The cause record of a command (Table 17.9). -/
def ECmd.record (c : ECmd) (cause : Cause) (addr mask : Nat) : CauseRec :=
  { cause := cause, orig := 6, rel := c.released, del := c.delivered, det := c.entry, doff := c.doff, word := c.word,
    addr := addr, mask := mask }

/-- Whether the present slot lets an engine serve a partition: a comb engine serves in the slots that the partition owns in the ENG
table of its comb, a cluster engine in every one (R322, R323). -/
def State.engServes (s : State) (e p : Nat) : Bool :=
  !clsComb (engCls e) || s.slotOwner (engComb e) 2 (s.slot % 512) == some p

/-- Whether a command of class and number (cls, cmd) may be served: it has started, a faulted one waits for its
core's resumption (R307), and the slot is its partition's (R323). -/
def State.servable (s : State) (c : ECmd) (cls cmd : Nat) : Bool :=
  c.cls == cls && c.cmd == cmd && c.started && !c.delivered && !c.dead && !(c.faulted && (s.core c.core).st == .parked) &&
    s.engServes c.eng (s.partOf c.core)

/-- A command goes on by a free choice of its granules (R94, R96). -/
def State.eOn (s : State) (c : ECmd) : State × ECmd :=
  let (s1, w) := s.workOn (s.eServer c) c.work
  (s1, { c with work := w })

/-- Serves command k with `f` if it is of the class and number given. -/
def serveCmd (σ : State) (k cls cmd : Nat) (f : ECmd → State) : Res :=
  match σ.ecmd k with
  | none => .next σ
  | some c => if σ.servable c cls cmd then .next (f c) else .next σ

/-! ### The row engine (R119, R120) -/

/-- The formats of a row command. -/
def rowFmt (ty : Nat) : FFmt := match ty with | 0 => fmt32 | 1 => fmtBf16 | _ => fmt16

def rowLanes (ty : Nat) : Nat := if ty = 0 then 64 else 128

/-- The lanes of a row, widened to FP32. -/
def rowWide (ty : Nat) (x : Row) : List Nat :=
  let f := rowFmt ty
  let w := if ty = 0 then 32 else 16
  (List.range (rowLanes ty)).map (fun i => (fmt32.round .rne false (f.decode (rowElem x w i))).1)

/-- The row with lanes `ys`. -/
def rowSet (ty : Nat) (x : Row) (ys : List Nat) : Row :=
  rowBuild x (if ty = 0 then 32 else 16) (rowLanes ty) (fun i => ys.getD i 0)

/-- Phase 1: the maximum, +0 above −0; the canonical NaN if any lane is NaN. -/
def rowMax (xs : List Nat) : Nat :=
  if xs.any (fun x => (fmt32.decode x).isNan) then fmt32.nan
  else match xs with | [] => 0 | x :: r => r.foldl (fun m y => (fminmax fmt32 false m y).1) x

/-- Phase 2: the exponentials in FP32 and their sum in lane order. -/
def rowExp (m : Nat) (xs : List Nat) : List Nat × Nat :=
  match fmt32.decode m with
  | .nan _ => (xs.map (fun _ => fmt32.nan), fmt32.nan)
  | .inf false => (xs.map (fun _ => fmt32.nan), fmt32.nan)
  | .inf true => (xs.map (fun _ => 0), 0)
  | _ =>
    let es := xs.map (fun x => (specialRun .exp false 0 (FOp.sub.run fmt32 .rne x m 0).1).1)
    (es, es.foldl (fun s e => (FOp.add.run fmt32 .rne s e 0).1) 0)

/-- Phase 3: the quotients, each rounded once to the type. -/
def rowQuot (ty s : Nat) (es : List Nat) : List Nat :=
  let v := fmt32.decode s
  es.map (fun e => if v.isZero then 0 else ((rowFmt ty).round .rne false ((fmt32.decode e).div v).1).1)

/-- What one phase of row j of a command writes, from the row and the statistic that it has read: space, address, position in the
command's data, and bytes. Phase 3 reads the sum where phase 2 stores it and Table 5.10 places it, at +4 (log entry 65). -/
def ECmd.rowPhase (d : ECmd) (j phase : Nat) (x : Row) (stat : Nat) : List (Space × Nat × Nat × List Byte) :=
  let ty := d.f 18 2
  let st := d.f 32 18 + 8 * j
  let row (ys : List Nat) : Space × Nat × Nat × List Byte :=
    (.B (if d.f 20 1 = 1 then .A else .X), 256 * (d.f 0 11 + j), 1024 * j, (List.range 256).map (rowByte (rowSet ty x ys)))
  match phase with
  | 1 => [(.S d.core, st, 1024 * j + 512, leBytes 4 (rowMax (rowWide ty x)))]
  | 2 =>
    let (es, s) := rowExp stat (rowWide ty x)
    [row (es.map (fun e => ((rowFmt ty).round .rne false (fmt32.decode e)).1)), (.S d.core, st + 4, 1024 * j + 516, leBytes 4 s)]
  | _ => [row (rowQuot ty stat (rowWide ty x))]

/-- Where the bytes that a phase of row j reads stand in the command's data. -/
def rowPos (j : Nat) : Nat := 2 ^ 30 + 1024 * j

/-- Phase `phase` of row j is entered: the row is due to be read, and in phases 2 and 3 its maximum or its sum (R120). A phase that
has been entered stands 2^20 above its own number. -/
def ECmd.rowEnter (d : ECmd) (j phase : Nat) : ECmd :=
  let w := d.work
  let b : Space := .B (if d.f 20 1 = 1 then .A else .X)
  let st := d.f 32 18 + 8 * j + (if phase = 2 then 0 else 4)
  { d with
    work :=
      { w with
        idx := w.idx.erase (4 * j + phase) ++ [2 ^ 20 + 4 * j + phase]
        srcs := w.srcs ++ grainsAt b (256 * (d.f 0 11 + j)) 256 (rowPos j) b.cut ++
          (if phase = 1 then [] else grainsAt (.S d.core) st 4 (rowPos j + 512) granules)
        got := w.got.filter (fun e => e.1 / 1024 != 2 ^ 20 + j) } }

/-- One phase of row j is computed from what it has read: what it writes is due, and the row's next phase (R120). -/
def ECmd.rowOn (d : ECmd) (j phase : Nat) : ECmd :=
  let w := d.work
  let out := d.rowPhase j phase (rowOfBytes ((w.data (rowPos j) 256).getD [])) (leNat ((w.data (rowPos j + 512) 4).getD []))
  let old (q : Nat) : Bool := out.any (fun o => decide (o.2.2.1 ≤ q ∧ q < o.2.2.1 + o.2.2.2.length))
  { d with
    work :=
      { w with
        idx := w.idx.erase (2 ^ 20 + 4 * j + phase) ++ (if d.cmd = 3 ∧ phase < 3 then [4 * j + phase + 1] else [])
        dsts := w.dsts ++ out.flatMap (fun o => grainsAt o.1 o.2.1 o.2.2.2.length o.2.2.1 o.1.cut)
        got := w.got.filter (fun e => !old e.1) ++ out.flatMap (fun o => dataAt o.2.2.1 o.2.2.2) } }

/-- Whether a phase of a row may be entered, or computed: what the row's earlier phase writes has landed, and what the phase reads
has been read. -/
def Work.rowReady (w : Work) (i : Nat) : Bool :=
  !w.dsts.any (fun g => g.pos / 1024 == i % 2 ^ 20 / 4) && !w.srcs.any (fun g => g.pos / 1024 == 2 ^ 20 + i % 2 ^ 20 / 4)

/-- Serves a row command: some granules are read and some land, and a phase of a row is entered or computed. Which row comes next is
left open, which allows more than the timetable of R120 (log entry 2). -/
def serveRow (σ : State) (k cmd : Nat) : Res :=
  serveCmd σ k 0 cmd (fun d0 =>
    let (s, w) := σ.moveOn (σ.eServer d0) d0.work
    let d := { d0 with work := w }
    match oneOf s.tick 28 (w.idx.filter w.rowReady) with
    | none => s.setEcmd d
    | some i =>
      s.setEcmd (if i < 2 ^ 20 then d.rowEnter (i / 4) (i % 4) else d.rowOn (i % 2 ^ 20 / 4) (i % 4)))

/-- The event ROW_MAX: a row of command k passes phase 1 (R120). -/
def execRowMax (k : Nat) (σ : State) : Res := serveRow σ k 0

/-- The event ROW_EXPS: a row of command k passes phase 2 (R120). -/
def execRowExps (k : Nat) (σ : State) : Res := serveRow σ k 1

/-- The event ROW_SCALE: a row of command k passes phase 3 (R120). -/
def execRowScale (k : Nat) (σ : State) : Res := serveRow σ k 2

/-- The event ROW_ALL: a row of command k passes the next of its three phases (R120). -/
def execRowAll (k : Nat) (σ : State) : Res := serveRow σ k 3

/-! ### Gather (R121) -/

/-- Command k has met a fault (R118, R307): the core that issued it parks, and its slot is free. The elements of a gather or scatter
that translated perform; the others wait, in its mask, for the resumption. -/
def State.eFault (s : State) (c : ECmd) (cause : Cause) (a : Nat) : State :=
  let ps := if c.cls = 1 then c.work.marked.flatMap (fun e => pagesOf e.2.2 e.2.1) else pagesOf cause a
  let c1 : ECmd := { c with faulted := true, ending := true, step := if c.cls = 1 then 1 else c.step }
  let s1 := (s.unfail numCores c.id).setEcmd c1
  s1.setCore c.core (((s1.core c.core).waitOn ps).park s1.now (c.record cause a c.work.mask))

/-- A gather or scatter as it stands: it faults once all of its elements have translated or are marked, one of them marked
(R312). -/
def State.eStop (s : State) (c : ECmd) : State :=
  match (if c.work.stops ∧ c.step = 0 then c.work.lowest else none) with
  | some (_, a, cause) => s.eFault c cause a
  | none => s.setEcmd c

/-- A gather or scatter whose core has been resumed performs its marked elements, by the core's own machinery (R307). -/
def State.regather (s : State) (c : ECmd) : ECmd :=
  if c.cls = 1 ∧ c.step = 1 ∧ (s.core c.core).st ≠ .parked then { c with step := 0, work := c.gather.resume c.work } else c

/-- Serves a gather or scatter: it goes on, and the elements that have translated perform though others are marked. -/
def serveGth (σ : State) (k cmd : Nat) : Res :=
  match σ.ecmd k with
  | none => .next σ
  | some c0 =>
    if c0.cls ≠ 1 ∨ c0.cmd ≠ cmd ∨ !c0.started ∨ c0.delivered then .next σ
    else
      let c := σ.regather c0
      let (s, w) := σ.gatherOn (σ.eServer c) c.gather c.work false
      .next (s.eStop { c with work := w })

/-- The event GTH_GET: command k goes on (R121). -/
def execGthGet (k : Nat) (σ : State) : Res := serveGth σ k 0

/-- The event GTH_PUT: command k goes on (R121). -/
def execGthPut (k : Nat) (σ : State) : Res := serveGth σ k 1

/-! ### Select (R122) -/

/-- The 32-bit words of some bytes. -/
def wordsOf (d : List Byte) : List Nat := (List.range (d.length / 4)).map (fun i => leNat (part d (4 * i) 4))

/-- Whether element a ranks above element b: NaNs below −∞, the zeros equal. -/
def selAbove (a b : Nat) : Bool :=
  let x := fmt32.decode a
  let y := fmt32.decode b
  if x.isNan then false else if y.isNan then true else y.lt x

/-- Places an element in a list in falling order, behind those that rank with it or above. -/
def selInsert (e : Nat × Nat) : List (Nat × Nat) → List (Nat × Nat)
  | [] => [e]
  | x :: r => if selAbove e.1 x.1 then e :: x :: r else x :: selInsert e r

/-- Values with their indices, in falling order, equal ones by index. -/
def selSort (xs : List (Nat × Nat)) : List (Nat × Nat) := xs.foldl (fun l e => selInsert e l) []

/-- What a select writes, from its source: word lists with their offsets in S (R122). -/
def ECmd.selected (c : ECmd) (d : List Byte) : List (Nat × List Nat) :=
  let xs := (wordsOf d).take (c.f 128 13)
  if c.cmd = 0 then
    let top := (selSort (xs.zip (List.range xs.length))).take (c.f 160 7)
    [(c.f 32 18, top.map (·.1)), (c.f 64 18, top.map (·.2))]
  else
    let ys := ((xs.zip ((wordsOf d).drop (c.f 128 13))).filter (fun e => e.2 != 0)).map (·.1)
    [(c.f 32 18, ys), (c.f 64 18, [ys.length])]

/-- A command has computed bytes, which its writes then land: rows of a space, one behind the other. -/
def ECmd.computed (c : ECmd) (sp : Space) (rows : List (Nat × List Byte)) (step : Nat) : ECmd :=
  { c with
    step := step
    work :=
      { Work.idle with
        got := dataAt 0 (rows.flatMap (·.2))
        dsts := rowGrains sp true (rows.map (fun r => (r.1, r.2.length))) } }

/-- Serves a select: its source is read, then its results are computed and land. -/
def serveSel (σ : State) (k cmd : Nat) : Res :=
  serveCmd σ k 2 cmd (fun c =>
    let (s, c1) := σ.eOn c
    if c1.step = 0 ∧ c1.work.srcs.isEmpty then
      let d := (c1.work.data 0 (4 * c.f 128 13 * (c.cmd + 1))).getD []
      s.setEcmd (c1.computed (.S c.core) ((c1.selected d).map (fun r => (r.1, r.2.flatMap (leBytes 4)))) 1)
    else s.setEcmd c1)

/-- The event SEL_TOP: command k goes on (R122). -/
def execSelTop (k : Nat) (σ : State) : Res := serveSel σ k 0

/-- The event SEL_PACK: command k goes on (R122). -/
def execSelPack (k : Nat) (σ : State) : Res := serveSel σ k 1

/-! ### Transform (R123) -/

/-- The event XFM_TR: command k goes on (R123). -/
def execXfmTr (k : Nat) (σ : State) : Res :=
  serveCmd σ k 3 0 (fun c => let (s, c1) := σ.eOn c; s.setEcmd c1)

/-! ### Connections (R349) -/

/-- The connection by which collective engines exchange contributions of a partition with a package over Ethernet (R352; log
entry 67): it is open from the first, ordered, and of the largest payload. -/
def etherConn (pkg p : Nat) : Nat := 2 ^ 14 + 32 * pkg + p

/-- The entry of a connection (Table 20.3). -/
def State.conn (s : State) (n : Nat) : Nat :=
  let e := (Tab.get 0 s.ueConn n).toNat
  if n < 2 ^ 14 ∨ e ≠ 0 then e else 2 ^ 40 + n % 32 * 2 ^ 42 + 2 ^ 47 + 2 ^ 49

def connPay (e : Nat) : Nat := 1024 * 2 ^ fld e 48 2
def connRod (e : Nat) : Bool := fld e 47 1 == 1
def connPart (e : Nat) : Nat := fld e 42 5
def connOpen (e : Nat) : Bool := fld e 40 2 == 1

def State.ue (s : State) (n : Nat) : UeConn := Tab.get UeConn.fresh s.ueState n
def State.setUe (s : State) (n : Nat) (x : UeConn) : State := { s with ueState := Tab.set UeConn.fresh s.ueState n x }

/-- Sends packets of a command on a connection: they take its next numbers and are kept until they are acknowledged. -/
def State.ueSend (s : State) (n cmd : Nat) (send : Bool) (ps : List UePacket) : State :=
  let u := s.ue n
  let qs := (List.range ps.length).zipWith (fun i (p : UePacket) => { p with seq := u.nextTx + i }) ps
  let u1 : UeConn :=
    { u with
      nextTx := u.nextTx + qs.length
      nextMsg := if send then u.nextMsg + 1 else u.nextMsg
      unacked := u.unacked ++ qs.map (fun p => ⟨p, 0, false, false, cmd⟩) }
  { s.setUe n u1 with out := (qs.map (Output.ue n)).reverse ++ s.out }

/-! ### Collectives (R124, R352) -/

/-- CMD, TYPE, ROOT and LEN of a collective, which the commands of an instance agree in. -/
def ECmd.shape (c : ECmd) : Nat := c.cmd + 8 * c.f 32 2 + 32 * c.f 48 16 + 2 ^ 21 * c.f 192 17

/-- The node entry of a core's task. -/
def State.nodeOf (s : State) (v : Nat) : Option Node :=
  match (s.core v).task with
  | none => none
  | some t => (s.nodes.find? (fun e => e.1 == t.node)).map (·.2)

/-- The contributions to the instance that a command belongs to, in the order in which they arrived. With P = 1 they are
the caller's own. -/
def State.contribsOf (s : State) (c : ECmd) : List Contrib :=
  match s.nodeOf c.core, (s.core c.core).task with
  | some nd, some t =>
    s.contribs.filter (fun x => x.inst == nd.inst && x.tag == c.f 0 16 && x.parts == c.f 16 16 && x.seq == c.seq &&
      x.data.length == x.total && (x.parts != 1 || x.task == t.taskid))
  | _, _ => []

/-- Contributions in increasing order of %taskid. -/
def rankInsert (x : Contrib) : List Contrib → List Contrib
  | [] => [x]
  | y :: r => if x.task < y.task then x :: y :: r else y :: rankInsert x r

def byRank (l : List Contrib) : List Contrib := l.foldl (fun a x => rankInsert x a) []

/-- The sum of element codes: FP32 additions with RNE from rank 0, a BF16 total rounded once; INT32 wraps. -/
def colAdd (ty : Nat) (xs : List Nat) : Nat :=
  match ty with
  | 2 => xs.foldl (fun a x => (a + x) % 2 ^ 32) 0
  | _ =>
    let wide := xs.map (fun x => if ty = 1 then (fmt32.round .rne false (fmtBf16.decode x)).1 else x)
    let s := match wide with | [] => 0 | x :: r => r.foldl (fun a y => (FOp.add.run fmt32 .rne a y 0).1) x
    if ty = 1 then (fmtBf16.round .rne false (fmt32.decode s)).1 else s

/-- The result of a collective from its contributions in rank order. -/
def ECmd.colResult (c : ECmd) (ds : List (List Byte)) : List Byte :=
  match c.cmd with
  | 0 =>
    if ds.length ≤ 1 then ds.flatten
    else
      let sz := colSize c.hdr c.desc
      (List.range (c.f 192 17 / sz)).flatMap (fun e =>
        leBytes sz (colAdd (c.f 32 2) (ds.map (fun d => leNat (part d (e * sz) sz)))))
  | 1 => ds.getD (c.f 48 16) []
  | _ => ds.flatten

/-- Whether a contribution is the same participant's to the same instance. -/
def Contrib.same (x y : Contrib) : Bool :=
  x.inst == y.inst && x.tag == y.tag && x.parts == y.parts && x.seq == y.seq && x.task == y.task

/-- Adds a part of a contribution, which begins at byte `off`. -/
def State.addContrib (s : State) (x : Contrib) (off : Nat) : State :=
  match s.contribs.find? (Contrib.same x) with
  | none => if off = 0 then { s with contribs := s.contribs ++ [x] } else s
  | some y =>
    if y.data.length = off then
      { s with contribs := s.contribs.map (fun z => if Contrib.same x z then { z with data := z.data ++ x.data } else z) }
    else s

/-- The parts of a contribution that a packet can carry, with their offsets (R344). -/
def partsOf (d : List Byte) : List (Nat × List Byte) :=
  (List.range ((d.length + 2047) / 2048)).map (fun i => (2048 * i, part d (2048 * i) 2048))

/-- A packet that carries a part of a contribution over Ethernet: its identity stands before its bytes (log entry 67). -/
def Contrib.packet (x : Contrib) (off : Nat) (d : List Byte) : UePacket :=
  ⟨0, 0, false, x.tag, off, x.total, leBytes 16 x.inst ++ [x.parts, x.seq, x.task, x.shape].flatMap (leBytes 8) ++ d⟩

/-- The contribution of which such a packet carries a part. -/
def UePacket.contrib (k : UePacket) : Contrib :=
  let f (i : Nat) : Nat := leNat (part k.data (8 * i) 8)
  ⟨leNat (part k.data 0 16), k.tag, f 2, f 3, f 4, f 5, k.data.drop 48, k.total⟩

/-- Sends a contribution to another package: over Ethernet for a node with a level above the Relay domain, else over Relay
(R352). -/
def State.sendContrib (s : State) (c : ECmd) (nd : Node) (x : Contrib) (q : Nat) : State :=
  if overFabric nd.record then
    s.ueSend (etherConn q nd.part) c.id false ((partsOf x.data).map (fun e => x.packet e.1 e.2))
  else
    (partsOf x.data).foldl (fun s e =>
      s.relaySend q nd.part (.collective x.inst x.tag x.parts x.seq x.task x.shape e.1 x.total e.2)) s

/-- Adds a command's contribution, and sends it to the other packages of a node that spans packages. -/
def State.contribute (s : State) (c : ECmd) (d : List Byte) : State :=
  match s.nodeOf c.core, (s.core c.core).task with
  | some nd, some t =>
    let x : Contrib := ⟨nd.inst, c.f 0 16, c.f 16 16, c.seq, t.taskid, c.shape, d, d.length⟩
    let s1 := s.addContrib x 0
    if spansPackages nd.record ∧ c.f 16 16 ≠ 1 then (s1.others nd.part).foldl (fun s q => s.sendContrib c nd x q) s1 else s1
  | _, _ => s

/-- Serves a collective: its own contribution is read and sent; once the P contributions of its instance are there and agree,
the result is computed and lands. -/
def serveColl (σ : State) (k cmd : Nat) : Res :=
  serveCmd σ k 4 cmd (fun c =>
    let (s, c1) := σ.eOn c
    if c1.step = 0 ∧ c1.work.srcs.isEmpty then
      (s.contribute c ((c1.work.data 0 (c.f 192 17)).getD [])).setEcmd { c1 with step := 1, work := Work.idle }
    else if c1.step = 1 then
      let xs := (s.contribsOf c).take (c.f 16 16)
      if xs.length = c.f 16 16 ∧ (s.contribsOf c).all (fun x => x.shape == c.shape) then
        s.setEcmd (c1.computed .G [(c.f 128 56, c.colResult ((byRank xs).map (·.data)))] 2)
      else s.setEcmd c1
    else s.setEcmd c1)

/-- The event COL_SUM: command k reads its contribution, or computes the sum of its instance (R124). -/
def execColSum (k : Nat) (σ : State) : Res := serveColl σ k 0

/-- The event COL_BCAST (R124). -/
def execColBcast (k : Nat) (σ : State) : Res := serveColl σ k 1

/-- The event COL_CAT (R124). -/
def execColCat (k : Nat) (σ : State) : Res := serveColl σ k 2

/-! ### The network (R125, R349, R350) -/

/-- The packets of a message: each carries up to the connection's payload. -/
def packets (pay msg : Nat) (write : Bool) (tag off : Nat) (d : List Byte) : List UePacket :=
  (List.range ((d.length + pay - 1) / pay)).map (fun i =>
    ⟨0, msg, write, tag, off + i * pay, d.length, part d (i * pay) pay⟩)

/-- A command that reaches a connection which is no longer open: a closed one has ended it (R353); in error it waits
(R350). -/
def State.notOpen (s : State) (c : ECmd) : State :=
  if fld (s.conn (c.f 0 24)) 40 2 = 0 then (s.endCommand c false).mayDoze c.eng else s.setEcmd { c with dead := true }

/-- Serves a send or a write: its local bytes are read, and its packets go out. -/
def serveSend (σ : State) (k cmd : Nat) : Res :=
  serveCmd σ k 5 cmd (fun c =>
    let n := c.f 0 24
    if !connOpen (σ.conn n) then σ.notOpen c
    else
      let (s, c1) := σ.eOn c
      if c1.step = 0 ∧ c1.work.srcs.isEmpty then
        (s.ueSend n c.id (cmd == 0)
          (packets (connPay (s.conn n)) (if cmd = 0 then (s.ue n).nextMsg else 0) (cmd == 1) (c.f 192 32) (c.f 128 64)
            ((c1.work.data 0 (c.f 96 17)).getD []))).setEcmd { c1 with step := 1, work := Work.idle }
      else s.setEcmd c1)

/-- The event NET_SEND: command k has read its local bytes and sends them as a message (R125). -/
def execNetSend (k : Nat) (σ : State) : Res := serveSend σ k 0

/-- The event NET_WRITE: command k has read its local bytes and sends them to the remote window (R125). -/
def execNetWrite (k : Nat) (σ : State) : Res := serveSend σ k 1

/-- The event NET_POST: command k posts its receive buffer (R125). -/
def execNetPost (k : Nat) (σ : State) : Res :=
  serveCmd σ k 5 2 (fun c =>
    let n := c.f 0 24
    let u := σ.ue n
    if c.step ≠ 0 then σ
    else if !connOpen (σ.conn n) then σ.notOpen c
    else (σ.setUe n { u with posts := u.posts ++ [⟨c.id, c.f 192 32, c.f 96 17, c.core, c.f 32 56, none, 0, 0⟩] }).setEcmd
      { c with step := 1 })

/-- Whether the work of a network command is done: every packet acknowledged, or its post's message performed whole. -/
def State.netDone (s : State) (c : ECmd) : Bool :=
  let u := s.ue (c.f 0 24)
  if c.cmd = 2 then u.posts.any (fun p => p.cmd == c.id && p.msg.isSome && p.got == p.total)
  else u.unacked.all (fun x => x.cmd != c.id)

/-! ### Events -/

/-- The G: ranges that a command has still to reach. -/
def ECmd.reach (c : ECmd) : List (Nat × Nat) :=
  (c.work.srcs ++ c.work.dsts).filterMap (fun g => if g.space = .G then some (g.addr, g.n) else none)

/-- Whether the source of a command has been read (Table 5.9). -/
def ECmd.sourceRead (c : ECmd) : Bool :=
  match c.cls with
  | 1 => c.work.idx.isEmpty && (c.cmd == 0 || c.work.srcs.isEmpty)
  | 3 => c.work.srcs.isEmpty
  | _ => decide (1 ≤ c.step)

/-- Whether a command has only its remaining writes to make. -/
def State.done (s : State) (c : ECmd) : Bool :=
  match c.cls with
  | 0 => c.work.idx.isEmpty
  | 1 => c.work.idx.isEmpty && c.work.srcs.isEmpty && c.work.marked.isEmpty
  | 3 => c.work.srcs.isEmpty
  | 4 => c.step == 2
  | 5 => c.step == 1 && s.netDone c
  | _ => c.step == 1

/-- Whether a command meets the condition of its delivered event: every granule has performed, but for those of host memory, where
the delivery scope is narrower than system (R95). -/
def State.eArrived (s : State) (c : ECmd) : Bool :=
  s.done c && c.work.translated &&
    (c.work.dsts.isEmpty || (decide (hdrScope c.hdr < 6) && c.work.dsts.all Grain.onHost))

/-- Whether the occupancy of a command has passed: its events may occur (R106, R371). -/
def ECmd.passed (c : ECmd) : Bool := !c.occupying || c.ending

/-- The event ENGINE_RELEASED_EVENT (R94, R106, R371, Table 5.9): command k's source has been read, and its occupancy has
passed; a `net.post` releases at once. -/
def execEngineReleasedEvent (k : Nat) (σ : State) : Res :=
  match σ.ecmd k with
  | none => .next σ
  | some c =>
    if c.releases ∧ !c.released ∧ !c.dead ∧ c.started ∧ c.sourceRead ∧ (c.passed ∨ (c.cls = 5 ∧ c.cmd = 2)) ∧
        (σ.core c.core).mayComplete σ.clock (hdrIs c.hdr) then
      let c1 := { c with released := true }
      .next ((σ.setEcmd c1).completed c.core (eThread k) 1 16 (hdrScope c.hdr) (hdrKs c.hdr) (hdrIs c.hdr)
        (c1.record .counterOverflow 0 0))
    else .next σ

/-- The event ENGINE_DELIVERED_EVENT (R94, R106, R371, Table 5.9): command k has performed and its occupancy has passed; its
counter is incremented. What a narrow delivery scope has left due performs afterwards. -/
def execEngineDeliveredEvent (k : Nat) (σ : State) : Res :=
  match σ.ecmd k with
  | none => .next σ
  | some c =>
    if c.delivered then
      let (s1, w) := σ.landSome (σ.eServer c) c.work
      .next ((s1.setEcmd { c with work := w }).flushAt c.core)
    else if !c.dead ∧ c.started ∧ (c.released ∨ !c.releases) ∧ c.passed ∧ σ.eArrived c ∧
        (σ.core c.core).mayComplete σ.clock (hdrId c.hdr) then
      let c1 := { c with delivered := true }
      let s1 := σ.setEcmd c1
      let u := s1.ue (c.f 0 24)
      let s2 := if c.cls = 5 ∧ c.cmd = 2 then s1.setUe (c.f 0 24) { u with posts := u.posts.filter (fun p => p.cmd != c.id) } else s1
      .next (s2.completed c.core (eThread k) 3 16 (hdrScope c.hdr) (hdrKd c.hdr) (hdrId c.hdr) (c1.record .counterOverflow 0 0))
    else .next σ

/-- The event ENGINE_OCCUPANCY_END (R106): the occupancy of command k passes at this C-cycle; its slot is free from the next on. -/
def execEngineOccupancyEnd (k : Nat) (σ : State) : Res :=
  match σ.ecmd k with
  | none => .next σ
  | some c => if c.started ∧ c.occupying then .next (σ.setEcmd { c with ending := true }) else .next σ

/-- The fault of a command in service, if it meets one now: the state, the command, the cause and its G: address. -/
def State.serviceFault (s : State) (c : ECmd) : Option (State × ECmd × Cause × Nat) :=
  if c.cls = 1 then
    (s.gatherFault (s.eServer c) c.gather c.work).map (fun f => (f.1, { c with work := f.2.1 }, f.2.2.1, f.2.2.2))
  else (s.workFault (s.eServer c) c.work).map (fun f => (f.1, c, f.2.1, f.2.2))

/-- The event ENGINE_SERVICE_FAULT (R118, R307): command k meets a fault in service. -/
def execEngineServiceFault (k : Nat) (σ : State) : Res :=
  match σ.ecmd k with
  | none => .next σ
  | some c0 =>
    let c := σ.regather c0
    if !c.started ∨ c.delivered ∨ c.dead ∨ (if c.cls = 1 then c.step ≠ 0 else !σ.servable c c.cls c.cmd) then .next σ
    else
      match σ.serviceFault c with
      | none => .next σ
      | some (s, c1, cause, a) => .next (s.eFault c1 cause a)

end Sys2Proof.Machine
end

