-- ==== Sys2Proof/Machine/Graph.lean ====
section
/-! DEFINITION. The scheduler's graph (R26–R28, R79–R83, R276–R289): node entries, jobs and their failures, arenas,
successor blocks, readiness, and the shapes that fit. -/

namespace Sys2Proof.Machine

open Sys2Proof

/-! ### Nodes and jobs -/

def State.nodeAt (s : State) (n : Nat) : Option Node := (s.nodes.find? (fun e => e.1 == n)).map (·.2)
def State.setNode (s : State) (n : Nat) (x : Node) : State := { s with nodes := Tab.put s.nodes n x }

def jobKey (p j : Nat) : Nat := p * 65536 + j
def State.jobAt (s : State) (p j : Nat) : Job := Tab.get ⟨0, 0, false⟩ s.jobs (jobKey p j)
def State.setJob (s : State) (p j : Nat) (x : Job) : State := { s with jobs := Tab.set ⟨0, 0, false⟩ s.jobs (jobKey p j) x }

/-- Adds to a job's nodes on this package. -/
def State.countNode (s : State) (p j : Nat) : State := s.setJob p j { s.jobAt p j with count := (s.jobAt p j).count + 1 }

/-- Adds to a job's unacknowledged packets (R28, R281). -/
def State.countSent (s : State) (p j : Nat) : State := s.setJob p j { s.jobAt p j with sent := (s.jobAt p j).sent + 1 }

/-- A node whose tasks may still run or start. -/
def NSt.pending : NSt → Bool
  | .waiting | .ready | .allocating | .placing => true
  | _ => false

/-- Effective priority (R25). -/
def Node.prio (n : Node) : Nat := min 7 (recPrio n.record + n.age)

/-! ### Queue slots (R283–R285) -/

def QSlot.empty : QSlot := ⟨0, 0, false, false, false, false, false, none⟩
def State.qslot (s : State) (i : Nat) : QSlot := Tab.get QSlot.empty s.qslots i
def State.setQslot (s : State) (i : Nat) (x : QSlot) : State := { s with qslots := Tab.set QSlot.empty s.qslots i x }

def State.qid (s : State) (i : Nat) : Nat := s.regF (qsCfg i) 0 12
def State.qPart (s : State) (i : Nat) : Nat := s.qid i / 128
def State.qValid (s : State) (i : Nat) : Bool := s.regF (qsCfg i) 23 1 == 1
def State.qJob (s : State) (i : Nat) : Nat := s.regF (qsCfg i) 24 16

/-- The bound slots that name a job. -/
def State.slotsOf (s : State) (p j : Nat) : List Nat :=
  (List.range 256).filter (fun i => s.qValid i && s.qPart i == p && s.qJob i == j)

/-- Reads `n` bytes at an offset of a slot's queue. -/
def State.qRead (s : State) (i off n : Nat) : MRes :=
  let b := (s.reg (qsBase i)).toNat
  let va := fld b 0 56 + off
  if fld b 63 1 = 1 then s.hostAcc (Agent.outside (numCores + 2) i) (s.qPart i) va n .load else s.gRead (Agent.outside (numCores + 2) i) (s.qPart i) va n 0

/-- Writes bytes at an offset of a slot's queue. -/
def State.qWrite (s : State) (i off : Nat) (d : List Byte) : MRes :=
  let b := (s.reg (qsBase i)).toNat
  let va := fld b 0 56 + off
  if fld b 63 1 = 1 then s.hostAcc (Agent.outside (numCores + 2) i) (s.qPart i) va d.length (.store d) else s.gWrite (Agent.outside (numCores + 2) i) (s.qPart i) va 0 d

/-- Reads HEAD of a slot's queue if it has not been read since the bind; a read that faults sets ERR. -/
def State.learnHead (s : State) (i : Nat) : State :=
  if (s.qslot i).known then s
  else
    match s.qRead i 0 8 with
    | .ok s bs =>
      let h := leNat (bs.take 4)
      (s.setQslot i { s.qslot i with head := h, known := true }).setRegF (qsStat i) 0 32 h
    | .fault s _ => s.setRegF (qsStat i) 32 1 1
    | .wait s => s

/-- A slot's DONE write (R285): F and the slot's own HEAD. It ends the failure of the job; one that faults stays due. -/
def State.writeDone (s0 : State) (i : Nat) : State :=
  let s := s0.learnHead i
  let q := s.qslot i
  let v := (if q.failedSince then 2 ^ 63 else 0) + q.head % 2 ^ 32
  if !q.known then s.setQslot i { q with doneDue := true }
  else
    match s.qWrite i 16 (leBytes 8 v) with
    | .ok s _ =>
      let p := s.qPart i
      let j := s.qJob i
      (s.setQslot i { s.qslot i with failedSince := false, doneDue := false }).setJob p j { s.jobAt p j with failed := false }
    | .fault s _ => s.setQslot i { s.qslot i with doneDue := true }
    | .wait s => s.setQslot i { s.qslot i with doneDue := true }

/-- A job's count on this package has reached 0 (R28, R285): a job of one package writes DONE at once; for a job of
several, the writes are due when every package's count is 0. -/
def State.checkZero (s : State) (p j : Nat) : State :=
  let x := s.jobAt p j
  if x.count + x.sent ≠ 0 then s
  else if (s.others p).isEmpty then (s.slotsOf p j).foldl State.writeDone s
  else (s.slotsOf p j).foldl (fun s i => s.setQslot i { s.qslot i with doneDue := true }) s

/-! ### Arenas (R79–R83) -/

def Arena.none : Arena := ⟨0, false, 0, [], []⟩
def State.arenaSlot (s : State) (p k : Nat) : Arena := Tab.get Arena.none s.arenas (64 * p + k)
def State.setArena (s : State) (p k : Nat) (a : Arena) : State := { s with arenas := Tab.set Arena.none s.arenas (64 * p + k) a }

/-- Device pages, in 64 KiB, of an arena. -/
def State.arenaPages (s : State) (p : Nat) (a : Arena) : List Nat :=
  a.pages.map (fun g => ((s.reg (xltBase p a.tier)).toNat + g) / 2 ^ 16)

/-- The death of an arena (R82): its tiles leave the L2 without write-back, fills in flight are discarded, translations of
its window are shot down, and its pages are free. -/
def State.killArena (s : State) (p k : Nat) : State :=
  let a := s.arenaSlot p k
  let pages := s.arenaPages p a
  { s.setArena p k { a with live := false, pages := [], holders := [] } with
    past := s.past.filter (fun q => !pages.contains (q.loc / 2 ^ 16))
    l2 := s.l2.filter (fun t => !pages.contains (t.tile / 64))
    l2b := s.l2b.filter (fun e => !pages.contains (e.1 / 2 ^ 16))
    fills := s.fills.filter (fun f => !pages.contains (f.tile / 64))
    tlb := s.tlb.filter (fun t => !(t.part == p && s.inWindow p t.va && fld t.va 36 16 == k * 1024 + a.gen)) }

/-- Ends a node's hold on its arenas (R27); an arena whose last holder it was dies. -/
def State.releaseHolds (s : State) (p n : Nat) : State :=
  (List.range 64).foldl (fun s k =>
    let a := s.arenaSlot p k
    if a.live ∧ a.holders.contains n then
      let h := a.holders.filter (· != n)
      if h.isEmpty then s.killArena p k else s.setArena p k { a with holders := h }
    else s) s

/-- Makes a node hold the arena of a handle, if it is live. -/
def State.holdArena (s : State) (p n h : Nat) : State :=
  let k := fld h 10 6
  let a := s.arenaSlot p k
  if (s.arenaOf p h).isSome ∧ !a.holders.contains n then s.setArena p k { a with holders := a.holders ++ [n] } else s

/-! ### Failure (R285, Table 16.6) -/

/-- Logs a failure in SCH_FLOG. -/
def State.logFail (s : State) (p j cause n : Nat) : State :=
  let s1 := s.orReg schEvt 2
  if s1.flog.length < 64 then
    { s1 with flog := s1.flog ++ [BitVec.ofNat 64
      (p % 32 * 2 ^ 59 + cause * 2 ^ 54 + j % 65536 * 2 ^ 32 + n / 65536 % 4 * 2 ^ 16 + n % 65536)] }
  else s1.orReg schEvt 4

/-- Removes a node entry: its holds end and its count is subtracted. -/
def State.dropNode (s : State) (n : Nat) : State :=
  match s.nodeAt n with
  | none => s
  | some x =>
    let s1 := s.releaseHolds x.part n
    let b := s1.jobAt x.part x.job
    { s1.setJob x.part x.job { b with count := b.count - 1 } with
      nodes := s1.nodes.del n
      contribs := s1.contribs.filter (fun c => c.inst != x.inst) }

/-- Marks a job failed with a cause, logged for node n (R285): its pending nodes are discarded. -/
def State.failJob (s : State) (p j cause n : Nat) : State :=
  let s1 := (s.logFail p j cause n).setJob p j { s.jobAt p j with failed := true }
  let s2 := (s1.slotsOf p j).foldl (fun s i => s.setQslot i { s.qslot i with failedSince := true }) s1
  let gone := (s2.nodes.filter (fun e => e.2.part == p && e.2.job == j && e.2.st.pending)).map (·.1)
  (gone.foldl State.dropNode s2).checkZero p j

/-! ### Shapes that fit (R21, R279 check 6) -/

/-- One past the last level of a list with a domain in a set. -/
def lastDom (ok : Nat → Bool) (ls : List Nat) : Option Nat :=
  ((List.range ls.length).filter (fun i => ok (levDom (ls.getD i 0)))).getLast?.map (· + 1)

/-- The levels whose indices a group of tasks must share to lie within one instance of a domain, by the domains `dom` and
the scopes `scope` that imply it. -/
def bindAt (dom scope : Nat → Bool) (ls : List Nat) : Nat :=
  let ss := (List.range ls.length).filter (fun i => scope (levScope (ls.getD i 0)))
  let ds := (List.range 7).filterMap (fun d => if dom d then lastDom (· == d) ls else none)
  (ss ++ ds).foldl min ls.length

/-- Groups of tasks bound to one cluster that cluster `cl` can hold, from its usable cores. -/
def clusterCap (ls : List Nat) (free : List Nat) (cl : Nat) : Nat :=
  let k := bindAt (fun d => decide (d ≤ 2)) (· == 2) ls
  let g := prodCounts (ls.drop k)
  let own := free.filter (fun v => clusterOf v == cl)
  let cap :=
    match lastDom (· == 1) ls with
    | none => own.length / g
    | some q =>
      let c := prodCounts (ls.drop q)
      let quads := (List.range 12).filter (fun i => decide (c ≤ (own.filter (fun v => v % 48 / 4 == i)).length))
      quads.length / (g / c)
  if (lastDom (· == 2) ls).isSome then min 1 cap else cap

/-- Groups of tasks bound to one comb that a comb can hold. -/
def combCap (ls : List Nat) (free : List Nat) (comb : Nat) : Nat :=
  let k := bindAt (fun d => decide (d ≤ 3)) (fun x => x == 2 || x == 4) ls
  let j := bindAt (fun d => decide (d ≤ 2)) (· == 2) ls
  let m := prodCounts ((ls.take j).drop k)
  let n := ((List.range 12).map (fun i => clusterCap ls free (comb * 12 + i))).foldl (· + ·) 0
  if (lastDom (· == 3) ls).isSome then min 1 (n / m) else n / m

/-- The domain that is one instance of a scope. -/
def scopeDom (c : Nat) : Nat := match c with | 2 => 2 | 3 => 4 | 4 => 3 | 5 => 4 | _ => 7

/-- Whether some placement can meet the scopes and the domains of a shape at once: a level that spreads its tasks over
several instances of its domain stands under no scope that one such instance holds (R21; log entry 49). -/
def coherent (ls : List Nat) : Bool :=
  (List.range ls.length).all (fun i =>
    decide (levCount (ls.getD i 0) ≤ 1) ||
      (ls.take (i + 1)).all (fun w => decide (levDom (ls.getD i 0) < scopeDom (levScope w))))

/-- Whether a gang of a shape fits a set of cores under R21. -/
def fits (ls : List Nat) (free : List Nat) : Bool :=
  let k := bindAt (fun d => decide (d ≤ 3)) (fun x => x == 2 || x == 4) ls
  decide (prodCounts (ls.take k) ≤ ((List.range 4).map (combCap ls free)).foldl (· + ·) 0)

/-- The cores of a partition's clusters as laid out. -/
def State.ownCores (s : State) (p : Nat) : List Nat := (List.range numCores).filter (fun v => s.owner (clusterOf v) == some p)

/-! ### The launch record at readiness (R276, R279) -/

/-- Reads a launch record, 16 bytes at a time: a fault, or a host range, makes it unreadable. -/
def State.readRecGo (p : Nat) : List Nat → State → List Byte → State × Option (List Byte)
  | [], s, acc => (s, some acc)
  | a :: r, s, acc =>
    match s.translate (numCores + 2) p a .read 16 with
    | .error _ => (s, none)
    | .ok x =>
      if x.host then (s, none)
      else
        match ((s.walked p (s.xlatTiles (numCores + 2) p a .read)).cache (numCores + 2) x).devRead p x.pa 16 (appliedPol x.cmax 0) with
        | .ok s bs => State.readRecGo p r s (acc ++ bs)
        | .fault s _ => (s, none)
        | .wait s => (s, none)

/-- The 24 words of the record at an address. -/
def State.readRec (s : State) (p lrec : Nat) : State × Option Rec :=
  match State.readRecGo p ((List.range 12).map (fun i => lrec + 16 * i)) s [] with
  | (s, none) => (s, none)
  | (s, some bs) => (s, some ((List.range 24).map (fun i => BitVec.ofNat 64 (leNat ((bs.drop (8 * i)).take 8)))))

/-- Pages that a record declares in a tier. -/
def recPages (r : Rec) (tier : Nat) : Nat :=
  ((recArenas r).filter (fun a => a.2.1 == tier)).foldl (fun n a => n + a.1) 0

/-- The first failing check of Table 16.3 after readability, or the arena set over four (R26): its cause; 0 when all
pass. A shape with more gangs than the job's package list has packages is too large (log entry 52). -/
def State.recCheck (s : State) (p lrec : Nat) (passed : List Nat) (r : Rec) : Nat :=
  if recF r 0 48 16 ≠ 0x5356 ∨ recF r 0 40 8 ≠ 1 then 2
  else if !recFieldsOk r ∨ lrec % 64 ≠ 0 then 3
  else if !shapeOk (recLevels r) (s.pkgs p).length then 4
  else if (BitVec.ofNat 64 (recFeat r) &&& ~~~(s.reg schFeat)) ≠ 0 then 5
  else if !coherent (recLevels r) ∨ !fits (gangLevels r) (s.ownCores p) ∨ max 1 (s.pkgs p).length < recGangs r then 6
  else if (Config.pool p 0).2 < recPages r 0 ∨ (Config.pool p 1).2 < recPages r 1 then 11
  else if 4 < recNar r + passed.length then 7
  else 0

/-- A node becomes ready (R276, R278, R279): its record is read and checked, and it goes to Allocating or Placing. The
home entry of a node that spans packages sends the ready packets (R281). -/
def State.makeReady (s : State) (n : Nat) : State :=
  match s.nodeAt n with
  | none => s
  | some x =>
    let s1 := { s.setNode n { x with st := .ready, order := s.readyNo } with readyNo := s.readyNo + 1 }
    match s1.readRec x.part x.lrec with
    | (s2, none) => s2.failJob x.part x.job 1 n
    | (s20, some r) =>
      let s2 := s20.listRead x.part
      let c := s2.recCheck x.part x.lrec x.passed r
      if c ≠ 0 then s2.failJob x.part x.job c n
      else
        let far := if x.home ∧ spansPackages r then s2.others x.part else []
        let s3 := s2.setNode n
          { x with
            st := if recNar r = 0 then .placing else .allocating
            order := s.readyNo
            record := r
            arenas := if recNar r = 0 then x.passed else []
            packages := far.length + 1 }
        far.foldl (fun s q => (s.countSent x.part x.job).relaySend q x.part (.ready x.job x.lrec x.inst)) s3

/-! ### Successor blocks (R26, R169, R280) -/

def blkF (b : BitVec 256) (lo n : Nat) : Nat := fld b.toNat lo n
def blkLrec (b : BitVec 256) : Nat := blkF b 0 64
def blkKey (b : BitVec 256) : Nat := blkF b 64 32
def blkCount (b : BitVec 256) : Nat := blkF b 96 16
def blkHandles (b : BitVec 256) : List Nat :=
  ((List.range 4).map (fun i => blkF b (128 + 16 * i) 16)).filter (· != 0)

/-- The checks of a block (R169, R283): its failure cause, 0 when none; `set` holds the handles it may pass. -/
def blkCheck (b : BitVec 256) (set : List Nat) : Nat :=
  if blkF b 192 64 ≠ 0 ∨ blkF b 112 16 ≠ 0 ∨ blkLrec b / 2 ^ 56 ≠ 0 then 3
  else if blkCount b = 0 then 9
  else if (blkHandles b).any (fun h => !set.contains h) then 10
  else 0

/-- The lowest free entry of a comb. -/
def State.freeEntry (s : State) (comb : Nat) : Option Nat :=
  (List.range (min 65536 (s.nodes.length + 1))).find? (fun i => (s.nodeAt (comb * 65536 + i)).isNone) |>.map
    (fun i => comb * 65536 + i)

/-- The entry for a new node: its home comb, then the combs after it (R280). -/
def State.newEntry (s : State) (comb : Nat) : Option Nat :=
  (List.range 4).findSome? (fun i => s.freeEntry ((comb + i) % 4))

/-- A new node in Waiting. -/
def Node.fresh (p j lrec key count inst pkg comb : Nat) (home : Bool) : Node where
  st := .waiting
  job := j
  part := p
  lrec := lrec
  key := key
  count := count
  left := count
  passed := []
  arenas := []
  record := []
  order := 0
  age := 0
  zeroing := []
  cores := []
  done := []
  packages := 1
  home := home
  inst := inst
  pkg := pkg
  replayed := []
  after := []
  preds := []
  comb := comb

/-- The home package of a key (R280). -/
def State.homePkg (s : State) (p key : Nat) : Nat :=
  let ps := s.pkgs p
  if key = 0 ∨ ps.length ≤ 1 then s.self else ps.getD (key / 2 ^ 16 % ps.length) s.self

/-- The handles of a block are added to a node's set, which then holds their arenas. -/
def State.passHandles (s : State) (n : Nat) (hs : List Nat) : State :=
  hs.foldl (fun s h =>
    match s.nodeAt n with
    | none => s
    | some x =>
      if x.passed.contains h then s
      else (s.setNode n { x with passed := x.passed ++ [h] }).holdArena x.part n h) s

/-- Whether the journal holds a change of a partition's ranges (R319, code 7). -/
def State.rangeChanging (s : State) (p : Nat) : Bool :=
  s.regF prtJrnl 0 2 != 0 &&
    (s.reg (prtRange p 0) != s.reg (prtActRange p 0) || s.reg (prtRange p 1) != s.reg (prtActRange p 1))

/-- Nodes that stayed in Waiting with their counter at 0 while the journal held their partition's ranges become ready. -/
def State.wakeHeld (s : State) : State :=
  ((s.nodes.filter (fun e => e.2.st == .waiting && e.2.left == 0 && !s.rangeChanging e.2.part)).map (·.1)).foldl
    State.makeReady s

/-- A block reaches its node: its handles are added, and its counter falls by 1 (R26, steps 4 and 5). The task of the core
that handed it over completes before the node is placed (R97). -/
def State.applyTo (s : State) (p j n : Nat) (b : BitVec 256) (core : Option Nat) : State :=
  let s1 := s.passHandles n (blkHandles b)
  match s1.nodeAt n with
  | none => s1
  | some x =>
    if 4 < x.passed.length then s1.failJob p j 7 n
    else
      let s2 := s1.setNode n
        { x with
          left := x.left - 1
          after := match core with | some v => x.after ++ [v] | none => x.after
          preds := match core with | some v => x.preds ++ [(s1.core v).seed] | none => x.preds }
      if x.left ≤ 1 ∧ !s2.rangeChanging p then s2.makeReady n else s2

/-- A block is applied on this package (R26, R280). -/
def State.applyHere (s : State) (p j comb : Nat) (b : BitVec 256) (pkg : Nat) (core : Option Nat) : State :=
  let key := blkKey b
  let live := s.nodes.find? (fun e =>
    e.2.part == p && e.2.job == j && e.2.st == .waiting && e.2.home && e.2.key == key && key != 0)
  match live with
  | some (n, x) =>
    if x.lrec ≠ blkLrec b ∨ x.count ≠ blkCount b then s.failJob p j 8 n else s.applyTo p j n b core
  | none =>
    let c := if key = 0 then comb else key % 4
    match s.newEntry c with
    | none => s.failJob p j 12 0
    | some n =>
      let x := Node.fresh p j (blkLrec b) key (if key = 0 then 1 else blkCount b) (s.self * 2 ^ 64 + s.fresh) pkg c true
      let s1 := ({ s with fresh := s.fresh + 1 }.setNode n x).countNode p j
      s1.applyTo p j n b core

/-- A successor block reaches the scheduler (R26, R28, R280): it is checked, and applied here or sent to the home of its
key. The blocks of a failed job create nothing. DESIGN CHOICE (log entry 80): a failure that no node of its own stands behind
shows comb 0 and node 0 in SCH_FLOG. -/
def State.applySucc (s : State) (x : Succ) : State :=
  let node := match x.core with | some v => (match (s.core v).task with | some t => t.node | none => 0) | none => 0
  let c := blkCheck x.block x.set
  if (s.jobAt x.part x.job).failed then s
  else if c ≠ 0 then s.failJob x.part x.job c node
  else
    let s := s.listRead x.part
    let home := s.homePkg x.part (blkKey x.block)
    if home = s.self then s.applyHere x.part x.job x.comb x.block s.self x.core
    else (s.countSent x.part x.job).relaySend home x.part (.enqueue x.job x.block)

end Sys2Proof.Machine
end

