-- ==== Sys2Proof/Machine/Schedule.lean ====
section
/-! DEFINITION. Allocation, placement and completion (R16, R17, R22, R23, R25–R30, R86, R277–R292) and their events. -/

namespace Sys2Proof.Machine

open Sys2Proof

/-! ### Allocation (R286, R287) -/

/-- The arena slots of a partition that a new arena may take, lowest first (R80, R287). -/
def State.openSlots (s : State) (p : Nat) : List Nat :=
  (List.range 64).filter (fun k => let a := s.arenaSlot p k; !a.live && decide (a.gen < 1023))

/-- The free pages of a partition's pool in a tier, from a freely chosen one on. -/
def State.freePages (s : State) (p tier : Nat) : List Nat :=
  let (lo, n) := Config.pool p tier
  let used := (List.range 64).flatMap (fun k => let a := s.arenaSlot p k; if a.live && a.tier == tier then a.pages else [])
  let ps := ((List.range n).map (fun i => (lo + i) * 2 ^ 16)).filter (fun g => !used.contains g)
  let k := Config.freeNat 7 s.tick % (ps.length + 1)
  ps.drop k ++ ps.take k

/-- Whether the pages that a node declares are all free. -/
def State.pagesFree (s : State) (x : Node) : Bool :=
  [0, 1].all (fun t => decide (recPages x.record t ≤ (s.freePages x.part t).length))

/-- Whether the arena slots that a node needs are free. -/
def State.slotsFree (s : State) (x : Node) : Bool := decide (recNar x.record ≤ (s.openSlots x.part).length)

/-- Whether node a is taken before node b: by effective priority, then in ready order (R25, R286). -/
def Node.ahead (a b : Node) : Bool := decide (b.prio < a.prio) || (a.prio == b.prio && decide (a.order < b.order))

/-- Whether node a lacks free pages in a tier in which node b declares pages. -/
def State.shortFor (s : State) (a b : Node) : Bool :=
  [0, 1].any (fun t => decide ((s.freePages a.part t).length < recPages a.record t) && recPages b.record t != 0)

/-- The nodes of a partition that wait for their arenas. -/
def State.waiting (s : State) (p : Nat) : Tab Node :=
  s.nodes.filter (fun e => e.2.part == p && e.2.st == .allocating && e.2.arenas.isEmpty)

/-- Whether a node of higher effective priority waits for arena slots, or for pages of a tier of node x, and so holds it
back (R286, R287). -/
def State.outranked (s : State) (x : Node) : Bool :=
  (s.waiting x.part).any (fun e => decide (x.prio < e.2.prio) && (!s.slotsFree e.2 || s.shortFor e.2 x))

/-- Whether node x is kept from being allocated: a node of higher priority waits for what it would take, or a node ahead of
it can be allocated itself (R286). -/
def State.heldBack (s : State) (n : Nat) (x : Node) : Bool :=
  s.outranked x ||
    (s.waiting x.part).any (fun e =>
      e.1 != n && e.2.ahead x && s.slotsFree e.2 && s.pagesFree e.2 && !s.outranked e.2)

/-- Births of a node's arenas, in declaration order: each takes the lowest open slot and the next free pages. -/
def State.birth (p n : Nat) : List (Nat × Nat × Bool) → State → State
  | [], s => s
  | (pages, tier, z) :: r, s =>
    match s.openSlots p, s.nodeAt n with
    | k :: _, some x =>
      let g := (s.arenaSlot p k).gen + 1
      let h := k * 1024 + g
      State.birth p n r ((s.setArena p k ⟨g, true, tier, (s.freePages p tier).take pages, [n]⟩).setNode n
        { x with arenas := x.arenas ++ [h], zeroing := if z then x.zeroing ++ [h] else x.zeroing })
    | _, _ => s

/-- The event ARENA_ALLOCATE (R286, R287): node n's arenas receive slots and pages as a whole. Where no slot can become
free, its job fails with cause 16. -/
def execArenaAllocate (n : Nat) (σ : State) : Res :=
  match σ.nodeAt n with
  | none => .next σ
  | some x =>
    if x.st ≠ .allocating ∨ !x.arenas.isEmpty ∨ σ.heldBack n x then .next σ
    else if !σ.slotsFree x then
      (if (List.range 64).all (fun k => !(σ.arenaSlot x.part k).live) then .next (σ.failJob x.part x.job 16 n) else .next σ)
    else if !σ.pagesFree x then .next σ
    else
      let s1 := State.birth x.part n (recArenas x.record) σ
      match s1.nodeAt n with
      | none => .next s1
      | some y =>
        .next (s1.setNode n
          { y with
            arenas := y.arenas ++ x.passed.filter (fun h => !y.arenas.contains h)
            st := if y.zeroing.isEmpty then .placing else .allocating })

/-- Writes zeros to a tile whole and seals it (R286). -/
def State.zeroTile (s : State) (p tile : Nat) : State := (s.dropTile tile).devMerge p (1024 * tile) (List.replicate 1024 0)

/-- Zero-fills the arena of a handle. -/
def State.zeroArena (s : State) (p h : Nat) : State :=
  (s.arenaPages p (s.arenaSlot p (fld h 10 6))).foldl (fun s g =>
    (List.range 64).foldl (fun s i => s.zeroTile p (64 * g + i)) s) s

/-- The event ARENA_ZERO_FILL_DONE (R286): the last tile of node n's zero-filled arenas is sealed. -/
def execArenaZeroFillDone (n : Nat) (σ : State) : Res :=
  match σ.nodeAt n with
  | none => .next σ
  | some x =>
    if x.st ≠ .allocating ∨ x.zeroing.isEmpty then .next σ
    else
      let s1 := x.zeroing.foldl (fun s h => s.zeroArena x.part h) σ
      .next (s1.setNode n { x with st := .placing, zeroing := [] })

/-! ### Placement (R21–R25, R288) -/

/-- Whether core v of partition p is free (R288): its cluster is the partition's, is not scrubbing, accepts placements and
keeps its owner, and no gang holds the core. -/
def State.freeCore (s : State) (p v : Nat) : Bool :=
  let cl := clusterOf v
  s.owner cl == some p && !s.scrub.contains cl && !s.mgmt.closed.contains cl && !s.changing cl &&
    (s.core v).st == .idle && s.nodes.all (fun e => !e.2.cores.contains v)

def State.freeCores (s : State) (p : Nat) : List Nat := (List.range numCores).filter (s.freeCore p)

/-- Cuts a list into pieces of `n`. -/
def chunksGo (n : Nat) : Nat → List Nat → List (List Nat)
  | 0, _ => []
  | fuel + 1, l => match l with | [] => [] | a :: r => ((a :: r).take n) :: chunksGo n fuel ((a :: r).drop n)

def chunks (n : Nat) (l : List Nat) : List (List Nat) := chunksGo n l.length l

/-- Whether a function is constant on a list. -/
def sameOn (f : Nat → Nat) (l : List Nat) : Bool :=
  match l with | [] => true | a :: r => r.all (fun b => f b == f a)

/-- Whether the pieces of a list lie in distinct instances. -/
def apart (f : Nat → Nat) : List (List Nat) → Bool
  | (a :: _) :: (b :: y) :: r => f a != f b && apart f ((b :: y) :: r)
  | _ => true

/-- Instance of a domain, and of a scope, that a core lies in. -/
def domOf (d v : Nat) : Nat := match d with | 0 => v | 1 => v / 4 | 2 => v / 48 | 3 => v / 576 | _ => 0
def scopeOf (c v : Nat) : Nat := match c with | 2 => v / 48 | 4 => v / 576 | _ => 0

/-- Strictly rising. -/
def rising : List Nat → Bool
  | a :: b :: r => decide (a < b) && rising (b :: r)
  | _ => true

/-- Whether cores, in the order of the task indices, place a gang of a shape by R21: in rising order over the whole gang (DEDUCED,
log entry 79; R288 can be read of each instance of a domain), each group of a
domain's levels within one instance of its own, each group of a scope within one instance. -/
def validPlace (ls cs : List Nat) : Bool :=
  cs.length == prodCounts ls && rising cs &&
    (List.range 4).all (fun d =>
      match lastDom (· == d) ls with
      | none => true
      | some k =>
        let gs := chunks (prodCounts (ls.drop k)) cs
        gs.all (sameOn (domOf d)) && apart (domOf d) gs) &&
    (List.range ls.length).all (fun i =>
      (chunks (prodCounts (ls.drop i)) cs).all (sameOn (scopeOf (levScope (ls.getD i 0)))))

/-- The level indices of a task (R22). -/
def indicesOf : List Nat → Nat → List Nat
  | [], _ => []
  | w :: ws, t => t / prodCounts ws % levCount w :: indicesOf ws t

/-- The task that core v runs as number j of its gang (R8, R22, R277). -/
def Node.taskOn (x : Node) (n : Nat) (cs : List Nat) (budget base j v : Nat) : Task where
  node := n
  part := x.part
  taskid := base + j
  idx := let is := indicesOf (recLevels x.record) (base + j); is ++ List.replicate (8 - is.length) 0
  coreid := v % 48
  clusterid := v / 48 % 12
  combid := v / 576
  gang := cs
  loop := (List.range 4).map (recLoop x.record)
  trip := recTrip x.record
  handler := if recHv x.record = 1 then some (recHandler x.record) else none
  dstep0 := BitVec.ofNat 8 (if recDstep x.record = 0 then 37 else recDstep x.record)
  dphase0 := BitVec.ofNat 8 (recDphase x.record)
  rank := j
  budget := budget
  had := 0
  hran := 0
  hfrom := 0

/-- The state of a core at the first C-cycle of a task (R16, R277): what the launch record preloads, zeros where R16 gives
them, and undefined contents elsewhere. `seedS` numbers the undefined contents of S. DESIGN CHOICE (log entry 77): the four loop buffers
hold nothing at the start of a task; the instruction cache stays as it is. -/
def Core.begin (c : Core) (t : Task) (r : Rec) (now : Now) (seed seedS : Nat) : Core :=
  let u (i : Nat) : BitVec 128 := Config.undefReg seed i
  let c0 : Core :=
    { Core.reset with
      st := .placed
      before := .running
      task := some t
      cycFrom := now
      nextId := c.nextId
      s := Vector.ofFn fun i => (u i.val).setWidth 64
      q := (u 32).setWidth 8
      dphase := t.dphase0
      dphNext := none
      dstep := t.dstep0
      dstNext := none
      b := Vector.ofFn fun i => (u (33 + i.val)).setWidth 64
      g := Vector.ofFn fun i => (u (49 + i.val)).setWidth 64
      x := Vector.ofFn fun i => (u (65 + i.val)).setWidth 64
      p := Vector.ofFn fun i => u (81 + i.val)
      vgov := (u 97).setWidth 4
      vbase := if recF r 0 12 1 = 1 then BitVec.ofNat 10 (recF r 0 2 10) else (u 98).setWidth 10
      e := Vector.ofFn fun i => Config.undefRow seed (1024 + i.val)
      seed := seed
      seedS := seedS
      bufS := c.bufS
      icache := c.icache }
  [Stream.C, .L, .M, .V].foldl (fun c st => c.enterPhase st 0) c0

/-- The reservation of a core (R16, R70): the meeting row of S is zeroed, the rest of it is undefined. -/
def Core.reserve (c : Core) (seedS : Nat) : Core :=
  ({ c with bufS := [], seedS := seedS }).setBytes .S 0 (List.replicate 256 0)

/-- The event of the completion of core v's task, or with `kind` of its start, by the scheduler (R97). -/
def State.taskEv (s : State) (v : Nat) (kind : EvKind) : Ev := { s.event v (2 ^ 20) 0 16 with kind := kind }

/-- Core v begins a task: its buffers hold nothing that a party has written. -/
def State.beginTask (s : State) (v : Nat) (t : Task) (r : Rec) (preds : List Nat) : State :=
  let s1 : State :=
    { s.setCore v (((s.core v).reserve s.fresh).begin t r s.now s.fresh s.fresh) with fresh := s.fresh + 1 }
  (s1.settlePast (bufLoc v .W 0) (bufLoc (v + 1) .W 0 - bufLoc v .W 0)).note (s1.taskEv v (.start preds))

/-- Reserves and starts the cores of a gang. -/
def State.startGang (s : State) (n : Nat) (x : Node) (cs : List Nat) : State :=
  let budget := s.regF (schBudget x.part) 0 13
  let base := if spansPackages x.record then s.pkgIndex x.part * gangTasks x.record else 0
  let s1 := s.setNode n { x with st := .running, cores := cs, done := [] }
  ((List.range cs.length).zip cs).foldl (fun s (jv : Nat × Nat) =>
    s.beginTask jv.2 (x.taskOn n cs budget base jv.1 jv.2) x.record x.preds) s1

/-! ### Completion (R17, R27) -/

/-- A node completes (R27): its holds and leases end, its entry goes, and its job's count falls. The home entry of a node
that spans packages tells the others. -/
def State.nodeComplete (s : State) (n : Nat) : State :=
  match s.nodeAt n with
  | none => s
  | some x =>
    let es := (s.engines.filter (fun e => e.2.leases.contains (.node n))).map (·.1)
    let s1 := es.foldl (fun s e => s.endLease (.node n) e) s
    let far := if x.home ∧ spansPackages x.record then s1.others x.part else []
    let s2 := far.foldl (fun s q => s.relaySend q x.part (.gangComplete x.job x.inst)) s1
    (s2.dropNode n).checkZero x.part x.job

/-- A package's report to the home entry of node n that its gang is complete. -/
def State.gangReport (s : State) (n : Nat) : State :=
  match s.nodeAt n with
  | none => s
  | some x => if x.packages ≤ 1 then s.nodeComplete n else s.setNode n { x with packages := x.packages - 1 }

/-- A gang's last task has completed: its cores are free, and it is reported (R281, R288). -/
def State.gangDone (s : State) (n : Nat) : State :=
  match s.nodeAt n with
  | none => s
  | some x =>
    let s1 := x.cores.foldl (fun s v => s.setCore v { s.core v with st := .idle }) s
    let s2 := s1.setNode n { x with cores := [], done := [] }
    if x.home then s2.gangReport n else s2.relaySend x.pkg x.part (.gangComplete x.job x.inst)

/-- Pre-emption is done once every core of the partition is free or parked (R291). -/
def State.preCheck (s : State) (p : Nat) : State :=
  if s.regF (schPre p) 0 2 = 1 ∧ (s.ownCores p).all (fun v => (s.core v).st == .idle || (s.core v).st == .parked) then
    (s.setRegF (schPre p) 1 1 1).orReg schEvt 8
  else s

/-- Nothing of core v waits for a host page any more: a response that comes later is discarded (R301, R315). -/
def State.leaveReqs (s : State) (v : Nat) : State :=
  let mine (w : Nat × Nat × Bool) : Bool :=
    w.1 == v || w.1 == numCores + 64 + v || (w.1 == numCores && s.ecmds.any (fun c => c.id == w.2.1 && c.core == v))
  { s with preq := s.preq.map (fun r => { r with who := r.who.filter (fun w => !mine w) }) }

/-- The task of core v completes: tokens are discarded, its marks cleared (R17, R109). What it has written is seen by every
task that follows it (R26, R97). -/
def State.finishTask (s0 : State) (v : Nat) : State :=
  let s := (s0.leaveReqs v).note (s0.taskEv v .done)
  match (s.core v).task with
  | none => s
  | some t =>
    let c := s.core v
    let c1 : Core :=
      { c with
        st := .complete, task := none, succ := [], exitStep := 0, inHandler := false, hstop := false, ret := []
        waitw := none, heldW := none, returning := false, engReq := none, lcmds := [], mq := [], drains := [], acc := [], fl := [], slog := []
        fences := []
        tq := Vector.replicate 16 [], causes := [], settled := false, framed := false, frameHeld := false, pages := []
        strm := Vector.replicate 4 Strm.reset }
    let s1 : State :=
      { (s.setCore v c1).clearAllMarks v with
        colls := s.colls.filter (fun e => e.1 != v)
        nodes := s.nodes.map (fun e => (e.1, { e.2 with after := e.2.after.filter (· != v) })) }
    match s1.nodeAt t.node with
    | none => s1.setCore v { c1 with st := .idle }
    | some x =>
      let x1 := { x with done := x.done ++ [v] }
      let s2 := s1.setNode t.node x1
      (if x1.done.length = x1.cores.length then s2.gangDone t.node else s2).preCheck t.part

/-- Step 1 of R17: L, M and V have ended, with what they issued and pushed; an abandoned stream counts as ended (R271). -/
def Core.allEnded (c : Core) : Bool :=
  [Stream.C, .L, .M, .V].all (fun st => (c.str st).ended && ((c.str st).hold.isEmpty || (c.str st).gone)) &&
    c.mq.isEmpty && c.drains.isEmpty

/-- A task whose four loop records are all empty has nothing to issue: it exits from Placed (R15, R17; log entry 54). -/
def Core.nothing (c : Core) : Bool := c.st == .placed && [Stream.C, .L, .M, .V].all (fun st => (c.str st).ended)

/-- Step 2 of R17: every copy and engine command has completed, every notify write and access has been made, and the side
log is empty. -/
def State.exitDrained (s : State) (v : Nat) : Bool :=
  let c := s.core v
  c.lcmds.isEmpty && c.acc.isEmpty && c.slog.isEmpty && c.fl.isEmpty &&
    s.ecmds.all (fun e => e.core != v || (e.delivered && e.work.dsts.isEmpty)) && s.ereqs.all (fun e => e.core != v)

/-- The event TASK_COMPLETION (R17): the exit of core v moves on: its streams end, it drains, its successor blocks go to
the scheduler, and, once these have been applied, its task completes. -/
def execTaskCompletion (v : Nat) (σ0 : State) : Res :=
  let c0 := σ0.core v
  let c := if c0.nothing then c0.start σ0.now else c0
  let σ := if c0.nothing then σ0.setCore v c else σ0
  match c.st, c.task with
  | .exiting, some t =>
    if c.exitStep ≤ 2 then
      if !c.allEnded then .next σ
      else if !σ.exitDrained v then .next (σ.setCore v { c with exitStep := 2 })
      else
        match σ.nodeAt t.node with
        | none => .next (σ.finishTask v)
        | some x =>
          let bs := (List.range c.succ.length).zip c.succ |>.map (fun (e : Nat × BitVec 256) =>
            ({ job := x.job, part := t.part, block := e.2, set := x.arenas, comb := combOf v, core := some v,
               seq := σ.fresh + e.1 } : Succ))
          let s1 := { σ.setCore v { c with exitStep := 3, succ := [] } with
            succs := σ.succs ++ bs, fresh := σ.fresh + bs.length }
          .next (if bs.isEmpty then s1.finishTask v else s1)
    else if σ.succs.any (fun b => b.core == some v) then .next σ
    else .next (σ.finishTask v)
  | _, _ => .next σ

/-- The event SUCCESSOR_APPLY (R26, R282): the scheduler applies block k of those it holds; in which order is left
open. -/
def execSuccessorApply (k : Nat) (σ : State) : Res :=
  match σ.succs[k]? with
  | none => .next σ
  | some b => .next ({ σ with succs := σ.succs.filter (fun x => x.seq != b.seq) }.applySucc b)

/-! ### Placing a gang -/

/-- Whether a node at effective priority 7 that became ready before x does not fit the free cores, and so holds placement
against it (R25). -/
def State.severed (s : State) (free : List Nat) (x : Node) : Bool :=
  s.nodes.any (fun e =>
    e.2.part == x.part && e.2.st == .placing && e.2.prio == 7 && decide (e.2.order < x.order) &&
      !fits (gangLevels e.2.record) free)

/-- Whether node x is kept from being placed: a node at priority 7 holds placement, or a node ahead of it can be placed
itself (R25, R288). -/
def State.placeHeld (s : State) (n : Nat) (x : Node) : Bool :=
  let free := s.freeCores x.part
  s.severed free x ||
    s.nodes.any (fun e =>
      e.1 != n && e.2.part == x.part && e.2.st == .placing && e.2.after.isEmpty && e.2.ahead x &&
        fits (gangLevels e.2.record) free && !s.severed free e.2)

/-- Whether the scheduler places nodes of a partition now (R290, R291, R343). -/
def State.places (s : State) (p : Nat) : Bool :=
  s.regF schCtrl 0 1 == 1 && s.regF (schPre p) 0 1 == 0 && Tab.get Tdi.unlocked s.tdi p != .error

/-- The event GANG_PLACE (R23, R25, R97, R288): the scheduler reserves free cores, any that R21 permits, for node n's gang,
once the tasks that named it have completed, and starts its tasks. A package past the gangs of the shape runs no task of it
(log entry 52). -/
def execGangPlace (n : Nat) (σ : State) : Res :=
  match σ.nodeAt n with
  | none => .next σ
  | some x =>
    if x.st ≠ .placing ∨ !x.after.isEmpty ∨ !σ.places x.part ∨ σ.placeHeld n x then .next σ
    else if spansPackages x.record ∧ recGangs x.record ≤ σ.pkgIndex x.part then
      .next ((σ.setNode n { x with st := .running }).gangDone n)
    else
      let cs := Config.place σ.tick
      if cs.all (σ.freeCore x.part) ∧ validPlace (gangLevels x.record) cs then .next (σ.startGang n x cs) else .next σ

/-- The event AGEING_INTERVAL (R25): an ageing interval passes for node n. -/
def execAgeingInterval (n : Nat) (σ : State) : Res :=
  match σ.nodeAt n with
  | none => .next σ
  | some x =>
    match x.st with
    | .ready | .allocating | .placing => .next (σ.setNode n { x with age := x.age + 1 })
    | _ => .next σ

/-- Calendar slots of a budget: 1,000 to the microsecond of calendar time, whatever the stretch factor, which lengthens both
alike (R29, R325). -/
def budgetSlots (us : Nat) : Nat := 1000 * us

/-- Calendar slots of its budget that a task has used: those in which it ran, and those of its handlers (R29, R271). -/
def Core.used (c : Core) (t : Task) (slot : Nat) : Nat :=
  c.spent slot + t.hran + (if c.inHandler ∧ !c.hstop then slot - t.hfrom else 0)

/-- The event TASK_OVERRUN (R29): the budget of core v's task is spent, and the task parks; the budget runs while a handler
runs (R271). -/
def execTaskOverrun (v : Nat) (σ : State) : Res :=
  let c := σ.core v
  match c.task with
  | none => .next σ
  | some t =>
    if (c.st = .running ∨ c.st = .exiting ∨ (c.inHandler ∧ !c.hstop)) ∧
        t.had + budgetSlots t.budget ≤ c.used t σ.slot then
      .next (σ.setCore v ({ c with task := some { t with had := c.used t σ.slot } }.park σ.now
        { cause := .overrun, orig := 7 }))
    else .next σ

/-! ### Packets of other packages (R28, R281) -/

/-- Removes packet k from the inbox. -/
def State.dropMsg (s : State) (k : Nat) : State := { s with inbox := s.inbox.eraseIdx k }

/-- The message of inbox packet k with its package and partition, once it is the oldest of that pair: packets of one pair perform
in the order in which they were sent (R346). -/
def State.taken (s : State) (k : Nat) : Option (Nat × Nat × Msg) :=
  match s.inbox[k]? with
  | none => none
  | some (g, p, m) => if (s.inbox.take k).any (fun e => e.1 == g && e.2.1 == p) then none else some (g, p, m)

/-- The event ENQUEUE_PACKET (R28): inbox packet k, a successor homed here, is applied and acknowledged. -/
def execEnqueuePacket (k : Nat) (σ : State) : Res :=
  match σ.taken k with
  | some (q, p, .enqueue j b) =>
    let s1 := σ.dropMsg k
    let s2 := if (s1.jobAt p j).failed then s1 else s1.applyHere p j 0 b q none
    .next (s2.relaySend q p (.enqueueAck j))
  | _ => .next σ

/-- The event ENQUEUE_ACK (R28): inbox packet k acknowledges a packet that this package sent. -/
def execEnqueueAck (k : Nat) (σ : State) : Res :=
  match σ.taken k with
  | some (_, p, .enqueueAck j) =>
    let s1 := σ.dropMsg k
    let b := s1.jobAt p j
    .next ((s1.setJob p j { b with sent := b.sent - 1 }).checkZero p j)
  | _ => .next σ

/-- The event READY_PACKET (R281): inbox packet k makes this package's entry of a node, which checks, allocates and places
its own gang. DESIGN CHOICE (log entry 81): the entry is made on comb 0, or on the next that has room. -/
def execReadyPacket (k : Nat) (σ : State) : Res :=
  match σ.taken k with
  | some (q, p, .ready j lrec inst) =>
    let s1 := σ.dropMsg k
    let s2 :=
      match s1.newEntry 0 with
      | none => s1.failJob p j 12 0
      | some n =>
        let s3 := (s1.setNode n { Node.fresh p j lrec 0 1 inst q 0 false with left := 0 }).countNode p j
        if s3.rangeChanging p then s3 else s3.makeReady n
    .next (s2.relaySend q p (.enqueueAck j))
  | _ => .next σ

/-- The event GANG_COMPLETE_REPORT (R281): inbox packet k reports a gang complete to the home entry, or tells this package
that the node is complete. -/
def execGangCompleteReport (k : Nat) (σ : State) : Res :=
  match σ.taken k with
  | some (_, p, .gangComplete j inst) =>
    let s1 := σ.dropMsg k
    match s1.nodes.find? (fun e => e.2.part == p && e.2.job == j && e.2.inst == inst) with
    | none => .next s1
    | some (n, x) => if x.home then .next (s1.gangReport n) else .next (s1.nodeComplete n)
  | _ => .next σ

end Sys2Proof.Machine
end

