-- ==== Sys2Proof/Machine/Fault.lean ====
section
/-! DEFINITION. Parking and resumption (R18, R19, R271, R302–R307, R312, R313, R372): the fault frame and its images, the
handler's entry, fault records and their queue, and the commands of FLT_P_CMD. -/

namespace Sys2Proof.Machine

open Sys2Proof

/-! ### Causes and routes (R19, R303) -/

/-- Inserts a cause record by rank, behind those of its rank. -/
def causeInsert (r : CauseRec) : List CauseRec → List CauseRec
  | [] => [r]
  | x :: xs => if r.cause.code < x.cause.code then r :: x :: xs else x :: causeInsert r xs

/-- Cause records in rank order, at most 16 (R372). -/
def Core.ranked (c : Core) : List CauseRec := (c.causes.foldl (fun l r => causeInsert r l) []).take 16

/-- The primary cause's code (R19). -/
def Core.primary (c : Core) : Nat := match c.ranked with | r :: _ => r.cause.code | [] => 0

/-- The faulting address of the primary cause. -/
def Core.primaryAddr (c : Core) : Nat := match c.ranked with | r :: _ => r.addr | [] => 0

/-- The route over every cause recorded (R303, R271). -/
def Core.routeOf (c : Core) : Route :=
  if c.causes.any (fun r => r.cause.route == .software) ∨ c.inHandler then .software
  else if c.causes.any (fun r => r.cause.route == .handler) then
    (if c.task.any (fun t => t.handler.isSome) ∧ c.ret.length < 8 then .handler else .software)
  else .automatic

/-! ### The frame (R304, R372, Tables 17.4, 17.9–17.11) -/

/-- A cause record (Table 17.9). -/
def CauseRec.bytes (r : CauseRec) : List Byte :=
  leBytes 8 (r.cause.code + r.orig * 2 ^ 8 + (if r.rel then 2 ^ 11 else 0) + (if r.del then 2 ^ 12 else 0) +
    r.det % 2 ^ 16 * 2 ^ 16 + r.doff % 2 ^ 18 * 2 ^ 32) ++
    leBytes 8 (if r.orig = 7 then 0 else r.word) ++ leBytes 8 r.addr ++ leBytes 8 r.mask

/-- The offset that a stream's record shows: the word of an access that faulted and stands in the stream's block, else the
next word to issue. -/
def Core.offImage (c : Core) (st : Stream) : Nat :=
  let r := c.str st
  match c.acc.find? (fun a => a.st == st && a.stuck) with
  | some a =>
    if r.blk.addr ≤ a.word ∧ a.word < r.blk.addr + 2 * r.blk.len then (a.word - r.blk.addr) / 2 else r.off
  | none => r.off

/-- A stream record (Table 17.10). -/
def Core.streamBytes (c : Core) (st : Stream) : List Byte :=
  let r := c.str st
  leBytes 8 (r.blk.addr % 2 ^ 56) ++ leBytes 8 (r.blk.run % 2 ^ 32 + r.blk.n % 2 ^ 32 * 2 ^ 32) ++
    leBytes 8 (c.offImage st % 2 ^ 10 + r.phase % 4 * 2 ^ 10 + r.blk.stg % 8 * 2 ^ 12 + (if r.ended then 2 ^ 15 else 0) +
      (if st = .C then c.ret.length % 16 * 2 ^ 16 else 0)) ++ leBytes 8 0

/-- The first 64 bytes (Table 17.4). DESIGN CHOICE: %taskid, node index and %cyc stand at +8, +16 and +24, 8 bytes each (log
entry 83). -/
def Core.headerBytes (c : Core) (clock : Nat) : List Byte :=
  let ex := c.before == .exiting
  let t := match c.task with | some t => (t.taskid, t.node) | none => (0, 0)
  leBytes 8 (0x4646 * 2 ^ 48 + 2 ^ 40 + c.primary % 64 * 2 ^ 32 + c.ranked.length * 2 ^ 27 + c.routeOf.code * 2 ^ 25 +
    (if c.inHandler then 2 ^ 24 else 0) + (if ex then 2 ^ 23 + c.exitStep % 4 * 2 ^ 21 else 0)) ++
    leBytes 8 t.1 ++ leBytes 8 t.2 ++ leBytes 8 (c.cyc clock) ++ List.replicate 32 0

/-- The cause-record area. -/
def Core.causeBytes (c : Core) : List Byte :=
  c.ranked.flatMap CauseRec.bytes ++ List.replicate (512 - 32 * c.ranked.length) 0

/-- A return-stack entry. -/
def Ret.bytes (r : Ret) : List Byte := leBytes 8 r.blk.addr ++ leBytes 8 (r.off % 2 ^ 10 + r.blk.run % 2 ^ 32 * 2 ^ 32)

/-- The pairs of the token area, in its order. -/
def tokenPairs : List (Stream × Stream) :=
  [(.C, .L), (.C, .M), (.C, .V), (.L, .C), (.L, .M), (.L, .V), (.M, .C), (.M, .L), (.M, .V), (.V, .C), (.V, .L), (.V, .M)]

/-- A token queue's area. -/
def queueBytes (q : List (BitVec 32)) : List Byte :=
  leBytes 4 q.length ++ (List.range 8).flatMap (fun i => leBytes 4 (q.getD i 0).toNat)

/-- An area of the frame whose contents Table 17.4 names and whose layout it leaves open (log entry 12). -/
def areaBytes (contents : List Nat) (n : Nat) : List Byte := (List.range n).map (Config.areaByte contents)

/-- The side log: head, entry count, entries per class. -/
def Core.logBytes (c : Core) : List Byte :=
  areaBytes ((match c.slog with | e :: _ => e.acc.id | [] => 0) :: c.slog.length ::
    (List.range 16).map (fun k => (c.slog.filter (fun e => e.acc.cls == k)).length)) 32

/-- A word of code as its encoding gives it (R127). -/
def codeWord (i : Instr) : Nat := match encode i with | some e => e.word | none => 0

/-- The number of an L command among the kinds of command. -/
def LOp.code : LOp → Nat
  | .cp => 0 | .cpw => 1 | .cpl => 2 | .cpr => 3 | .cpm => 4 | .cvcp => 5 | .pfBulk => 6 | .pfRel => 7 | .lgath => 8 | .lscat => 9
  | .lfill => 10

/-- The `mma` in progress: word, descriptor and scale words, bA and bB values, next group. -/
def Core.mmaBytes (c : Core) : List Byte :=
  areaBytes
    (match c.mq with
     | e :: _ =>
       (match e.op with
        | .mma i _ _ _ _ _ bA bB desc scale _ _ => [1, e.addr, codeWord i, desc.toNat, scale.toNat, bA, bB, e.next]
        | _ => [0])
     | [] => [0]) 64

/-- The drains: word, row word, %dphase at T0, next row, rows written. -/
def Core.drainBytes (c : Core) : List Byte :=
  (List.range 2).flatMap (fun i =>
    areaBytes
      (match c.drains[i]? with
       | some d => [1, d.addr, codeWord d.word, d.rw.toNat, d.dph.toNat, d.next, d.next - d.pend.length]
       | none => [0]) 32)

/-- A loading of the epilogue's rows is never in progress: it takes one step. -/
def eloadBytes : List Byte := areaBytes [0] 16

/-- The L commands in flight: issue order, opcode, state, events occurred, mask index, and the command word with its fields. -/
def Core.lBytes (c : Core) : List Byte :=
  let gs := c.lcmds.filter LCmd.isGath
  (List.range 32).flatMap (fun i =>
    areaBytes
      (match c.lcmds[i]? with
       | some l =>
         [1, l.id, l.op.code, l.addr, codeWord l.word, (match l.faulted with | some f => f.code | none => 0), if l.released then 1 else 0,
           if l.delivered then 1 else 0, if l.notified then 1 else 0,
           (match gs.findIdx? (fun g => g.id == l.id) with | some j => j + 1 | none => 0), l.dims, l.cls, l.scope, l.pol, l.rnd,
           if l.nf then 1 else 0, if l.sat then 1 else 0]
       | none => [0]) 24)

/-- The frame of a core. -/
def Core.frame (c : Core) (clock : Nat) : List Byte :=
  c.headerBytes clock ++ c.causeBytes ++ [Stream.C, .L, .M, .V].flatMap c.streamBytes ++
    (List.finRange 32).flatMap (fun i => leBytes 8 (c.getS (BitVec.ofNat 5 i.val)).toNat) ++
    (leBytes 1 c.q.toNat ++ leBytes 1 c.sflags.toNat ++ leBytes 1 c.dphLast.toNat ++ leBytes 1 c.vgov.toNat ++
      leBytes 1 c.rot.toNat ++ leBytes 2 c.vbase.toNat ++ leBytes 1 c.dstLast.toNat ++ List.replicate 8 0) ++
    ((c.ret.reverse.take 8).flatMap Ret.bytes ++ List.replicate (128 - 16 * min 8 c.ret.length) 0) ++
    c.b.toList.flatMap (fun x => leBytes 8 x.toNat) ++ c.g.toList.flatMap (fun x => leBytes 8 x.toNat) ++
    c.x.toList.flatMap (fun x => leBytes 8 x.toNat) ++ c.p.toList.flatMap (fun x => leBytes 16 x.toNat) ++
    c.vflags.toList.flatMap (fun x => leBytes 16 x.toNat) ++ c.k.toList.flatMap (fun x => leBytes 4 x.toNat) ++
    (c.ovf.toList.flatMap (fun x => leBytes 4 x.toNat) ++ c.streak.toList.flatMap (fun x => leBytes 1 x.toNat) ++ [0, 0]) ++
    c.logBytes ++ tokenPairs.flatMap (fun e => queueBytes (c.queue e.1 e.2)) ++
    (c.mmaBytes ++ c.drainBytes ++ eloadBytes ++ c.lBytes) ++
    (((c.lcmds.filter LCmd.isGath).take 8).flatMap (fun l => leBytes 32 l.work.mask) ++
      List.replicate (256 - 32 * min 8 (c.lcmds.filter LCmd.isGath).length) 0) ++
    leBytes 8 (c.dty.toList.zip (List.range 8) |>.foldl (fun a e => a + e.1.code * 4 ^ e.2) 0) ++ List.replicate 296 0

/-- Tier of the frame area. -/
def State.frameTier (s : State) (p : Nat) : Nat := s.regF (fltFbase p) 0 1

/-- Writes bytes into the frame of core v from an offset, within one tile at a time; whether every write performed. -/
def State.writeFrameAt (s : State) (p v off : Nat) (bs : List Byte) : State × Bool :=
  match s.relWrite p (s.frameAddr p v + off) (s.frameTier p) bs with
  | .ok s _ => (s, true)
  | .fault s _ => (s, false)
  | .wait s => (s, false)

/-- Writes the four tiles of a frame. -/
def State.writeFrame (s : State) (p v : Nat) : State × Bool :=
  let bs := (s.core v).frame s.clock
  (List.range 4).foldl (fun (a : State × Bool) i =>
    if a.2 then a.1.writeFrameAt p v (1024 * i) (part bs (1024 * i) 1024) else a) (s, true)

/-- Reads the frame of core v. -/
def State.readFrame (s : State) (p v : Nat) : Option (List Byte) :=
  let r := (List.range 4).foldl (fun (a : State × Option (List Byte)) i =>
    match a with
    | (s, some acc) =>
      (match s.relRead p (s.frameAddr p v + 1024 * i) (s.frameTier p) 1024 with
       | .ok s bs => (s, some (acc ++ bs))
       | .fault s _ => (s, none)
       | .wait s => (s, none))
    | x => x) (s, some [])
  r.2

/-- Counter images updated in place (R304): the increments since the images were last written are added to them. -/
def State.syncCounters (s : State) (p v : Nat) : State :=
  (List.finRange 64).foldl (fun s i =>
    let c := s.core v
    let d := c.k[i].toNat - c.kimg[i].toNat
    if d = 0 then s
    else
      let a := s.frameAddr p v + 0x720 + 4 * i.val
      match s.relRead p a (s.frameTier p) 4 with
      | .ok s bs =>
        let x := min (leNat bs % 2 ^ 24 + d) (2 ^ 24 - 1)
        let s1 := (s.writeFrameAt p v (0x720 + 4 * i.val) (leBytes 4 x)).1
        s1.setCore v { s1.core v with kimg := (s1.core v).kimg.set i.val (s1.core v).k[i] }
      | .fault s _ => s
      | .wait s => s) s

/-! ### Parking -/

/-- What must settle on core v before the frame is written (R238, R304, R312): no access may perform (one that has faulted, or
that waits behind one or behind the side log, is held), V's accesses to buffers have, no engine decision is due, the rows that
have entered the epilogue are written, the array stands at a group's boundary, and the translated elements of a gather or
scatter that has parked the core have performed, other commands of the C-cycle having marked theirs. -/
def State.quiet (s : State) (v : Nat) : Bool :=
  let c := s.core v
  c.acc.all (fun a => !s.mayPerform v a && !(a.st == .V && decide (16 ≤ a.cls))) && c.engReq.isNone &&
    c.drains.all (fun d => d.pend.isEmpty) && c.mq.all (fun e => e.part.isNone) &&
    c.lcmds.all (fun l => !l.isGath || l.todo == 0 || (l.todo != s.clock + 1 && s.performed (s.partOf v) l.work l.elSize)) &&
    s.ecmds.all (fun e => e.core != v || e.cls != 1 || e.step == 0 || s.performed (s.partOf v) e.work (gthSize e.desc))

/-- C enters the task's handler as by a call (R271): one return-stack entry saves its position. A `waitw` that waited keeps
watching its word, and waits again when the handler has ended (R163). -/
def Core.enterHandler (c : Core) (now : Now) : Core :=
  match c.task with
  | none => c
  | some t =>
    let r := c.str .C
    { c with
      ret := ⟨r.blk, r.off, true⟩ :: c.ret
      inHandler := true
      hstop := false
      hid := c.nextId
      waitw := none
      heldW := c.waitw
      task := some { t with hfrom := now.slot } }.setStr .C
        { r with blk := Block.entering (t.handler.getD 0) false true, off := 0, ended := false }

/-- The images of a frame that has been written whole reflect the counters and flags as they stand (R304). -/
def Core.imaged (c : Core) : Core := { c with kimg := c.k, sflate := 0 }

/-- A frame that has been written, whole or for a further cause: its record is posted, and C enters the handler when the route
says so. -/
def State.framed (s : State) (v : Nat) (whole : Bool) : State :=
  let c := if whole then (s.core v).imaged else s.core v
  let s1 := s.post (s.faultRec v c.primary 0 c.routeOf.code c.primaryAddr)
  let c1 : Core := { c with settled := true, framed := true, frameHeld := false, route := c.routeOf }
  s1.setCore v (if c.routeOf = .handler then c1.enterHandler s.now else c1)

/-- Whether a parked core has a frame to write: causes that no frame shows yet. -/
def Core.unsettled (c : Core) : Bool := c.st == .parked && !c.settled && !c.frameHeld && !c.causes.isEmpty

/-- Rewrites the header and the cause records of a frame for a further cause, and the entries and masks of the L commands, which the
cause may come from (R305, R312). -/
def State.rewriteFrame (s : State) (p v : Nat) : State × Bool :=
  let c := s.core v
  let (s1, ok) := s.writeFrameAt p v 0 (c.headerBytes s.clock ++ c.causeBytes)
  [(0xAD0, 0x130), (0xC00, 0x2D0)].foldl
    (fun (a : State × Bool) x => if a.2 then a.1.writeFrameAt p v x.1 (part (c.frame s.clock) x.1 x.2) else a) (s1, ok)

/-- The event CORE_PARK (R19, R271, R304, R305): parked core v, once settled, writes its frame, or rewrites the header and
the cause records for a further cause, and posts the fault record. A frame write that faults is held (FWF). Once the frame
stands, the counter images follow the counters. -/
def execCorePark (v : Nat) (σ : State) : Res :=
  let c := σ.core v
  let p := σ.partOf v
  if c.unsettled then
    if !σ.quiet v then .next σ
    else
      let s0 := (σ.clearAllMarks v).logHeld v (match c.ranked with | r :: _ => r.cause | [] => .illegal)
      let again := c.framed && !c.inHandler
      let (s1, ok) :=
        if again then s0.rewriteFrame p v else s0.writeFrame p v
      if ok then .next ((s1.framed v (!again)).preCheck p)
      else .next (((s1.setCore v { s1.core v with frameHeld := true }).orReg (fltEvt p) 2).preCheck p)
  else if c.st = .parked ∧ c.framed ∧ (!c.inHandler ∨ c.hstop) then .next (σ.syncCounters p v)
  else .next σ

/-! ### Fault records (R305, Table 17.5) -/

/-- Records in a partition's ring, and its size. -/
def State.ringUsed (s : State) (p : Nat) : Nat := (s.regF (fltQcfg p) 32 16 + 2 ^ 16 - s.regF (fltQcfg p) 16 16) % 2 ^ 16
def State.ringSize (s : State) (p : Nat) : Nat :=
  let n := s.regF (fltQcfg p) 0 5
  if n < 4 then 0 else if n = 16 then 2 ^ 16 - 1 else 2 ^ n

/-- Writes the oldest waiting record of a partition into its ring; a full ring or a fault keeps it waiting. -/
def State.writeRecord (s : State) (p : Nat) : State :=
  match s.fq.find? (fun r => r.part == p) with
  | none => s
  | some r =>
    if s.ringSize p ≤ s.ringUsed p then { s with fqStop := p :: s.fqStop }.orReg (fltEvt p) 1
    else
      let b := (s.reg (fltQbase p)).toNat
      let tail := s.regF (fltQcfg p) 32 16
      let bs := r.words.flatMap (fun w => leBytes 8 w.toNat) ++ List.replicate 32 0
      match s.relWrite p (fld b 6 46 * 64 + 64 * (tail % 2 ^ s.regF (fltQcfg p) 0 5)) (fld b 0 1) bs with
      | .ok s1 _ =>
        { s1.setRegF (fltQcfg p) 32 16 (tail + 1) with fq := s1.fq.erase r, out := .interrupt p :: s1.out }
      | .fault s1 _ => { s1 with fqStop := p :: s1.fqStop }.orReg (fltEvt p) 0x10
      | .wait s1 => s1

/-- The event FAULT_RECORD_WRITE (R305): the oldest waiting record of partition p is written to its ring, and the function's
interrupt is signalled. -/
def execFaultRecordWrite (p : Nat) (σ : State) : Res :=
  if p < 32 ∧ !σ.fqStop.contains p then .next (σ.writeRecord p) else .next σ

/-- The event FAULT_QUEUE_WRITE (R305, R310, R343): FLT_P_QBASE, or FLT_P_QCFG when `c`, is written; the waiting records are
tried again. -/
def execFaultQueueWrite (p : Nat) (c : Bool) (x : BitVec 64) (σ : State) : Res :=
  let v := x.toNat
  if 32 ≤ p ∨ !σ.barOpen then .next σ
  else
    let again (s : State) : State := { s with fqStop := s.fqStop.filter (· != p) }
    if c then
      if fld v 0 5 < 4 ∨ 16 < fld v 0 5 then .next (σ.orReg (fltEvt p) 8)
      else
        .next (again (σ.setReg (fltQcfg p)
          (BitVec.ofNat 64 (fld v 0 5 + fld v 16 16 * 2 ^ 16 + σ.regF (fltQcfg p) 32 16 * 2 ^ 32))))
    else if σ.locked p then .next (σ.orReg hstEvt 2)
    else .next (again (σ.setReg (fltQbase p) (x &&& 0x000FFFFFFFFFFFC1)))

/-! ### Resumption (R306, R307, R313) -/

/-- A field of a frame. -/
def frameN (f : List Byte) (off n : Nat) : Nat := leNat (part f off n)

/-- A block of core v as an image gives it: the core's own block where the address is unchanged; else its header is read again,
and a word that is no header is entered as one (R131, R306). One that stands above others on the return stack is taken for
called (log entry 15). -/
def State.loadBlock (s : State) (v p : Nat) (old : Block) (addr run n stg : Nat) (called : Bool) : Block :=
  if old.addr = addr then { old with run := run, n := n, stg := stg, runs := if old.len = 0 then 0 else runsOf n stg }
  else
    let h := s.fetchHalf v p addr
    if h.bad.isNone ∧ fld h.half.toNat 10 6 = 63 then
      let l := s.fetchHalf v p (addr + 2)
      ⟨addr, fld h.half.toNat 0 10, fld l.half.toNat 15 1 == 1, stg, n, runsOf n stg, run, false, called⟩
    else Block.entering addr false called

/-- A stream as its image gives it. An unedited position keeps the core's own, and its faulted accesses try again; an edited
one drops them. -/
def State.loadStream (s : State) (v p : Nat) (c : Core) (st : Stream) (f : List Byte) : Core :=
  let o := 0x240 + 32 * st.ix
  if part f o 24 = part (c.streamBytes st) 0 24 then c
  else
    let r := c.str st
    let w := frameN f (o + 16) 8
    let b := s.loadBlock v p r.blk (frameN f o 8 % 2 ^ 56) (frameN f (o + 8) 4) (frameN f (o + 12) 4) (fld w 12 3)
      (st == .C && fld w 16 4 != 0)
    let gone (g : Nat) : Bool := c.acc.any (fun a => a.grp == g && a.st == st && a.stuck)
    { c with
      acc := c.acc.filter (fun a => !gone a.grp)
      fl := c.fl.filter (fun g => !gone g.grp) }.setStr st
        { r with blk := b, off := fld w 0 10, phase := fld w 10 2, ended := fld w 15 1 == 1 }

/-- The return stack as its images give it, newest first. -/
def State.loadRet (s : State) (v p : Nat) (c : Core) (f : List Byte) : List Ret :=
  let depth := min 8 (fld (frameN f 0x250 8) 16 4)
  let old := c.ret.reverse
  ((List.range depth).map (fun i =>
    let a := frameN f (0x3D0 + 16 * i) 8
    let w := frameN f (0x3D8 + 16 * i) 8
    match old[i]? with
    | some e =>
      if e.blk.addr = a then (⟨{ e.blk with run := w / 2 ^ 32 }, fld w 0 10, e.handler⟩ : Ret)
      else ⟨s.loadBlock v p e.blk a (w / 2 ^ 32) 1 0 (i != 0), fld w 0 10, false⟩
    | none => ⟨s.loadBlock v p (Block.entering 0 false false) a (w / 2 ^ 32) 1 0 (i != 0), fld w 0 10, false⟩)).reverse

/-- A core with the register, predicate, flag, counter, token, drain-type and stream images of a frame (R306); the flags that its
commands have raised since it was written stay raised (R186). -/
def State.loadFrame (s : State) (v p : Nat) (c0 : Core) (f : List Byte) : Core :=
  let c : Core := { [Stream.C, .L, .M, .V].foldl (fun c st => s.loadStream v p c st f) c0 with ret := s.loadRet v p c0 f }
  let c1 : Core :=
    { c with
      s := Vector.ofFn fun i => BitVec.ofNat 64 (frameN f (0x2C0 + 8 * i.val) 8)
      q := BitVec.ofNat 8 (frameN f 0x3C0 1)
      sflags := BitVec.ofNat 5 (frameN f 0x3C1 1) ||| c.sflate
      dphase := BitVec.ofNat 8 (frameN f 0x3C2 1)
      dphNext := none
      vgov := BitVec.ofNat 4 (frameN f 0x3C3 1)
      rot := BitVec.ofNat 5 (frameN f 0x3C4 1)
      vbase := BitVec.ofNat 10 (frameN f 0x3C5 2)
      dstep := BitVec.ofNat 8 (frameN f 0x3C7 1)
      dstNext := none
      b := Vector.ofFn fun i => BitVec.ofNat 64 (frameN f (0x450 + 8 * i.val) 8)
      g := Vector.ofFn fun i => BitVec.ofNat 64 (frameN f (0x4D0 + 8 * i.val) 8)
      x := Vector.ofFn fun i => BitVec.ofNat 64 (frameN f (0x550 + 8 * i.val) 8)
      p := Vector.ofFn fun i => BitVec.ofNat 128 (frameN f (0x5D0 + 16 * i.val) 16)
      vflags := Vector.ofFn fun i => BitVec.ofNat 128 (frameN f (0x6D0 + 16 * i.val) 16)
      k := Vector.ofFn fun i => BitVec.ofNat 24 (frameN f (0x720 + 4 * i.val) 3)
      ovf := Vector.ofFn fun i => BitVec.ofNat 32 (frameN f (0x820 + 4 * i.val) 4)
      streak := Vector.ofFn fun i => BitVec.ofNat 4 (frameN f (0x868 + i.val) 1)
      dty := Vector.ofFn fun i => DType.ofCode (fld (frameN f 0xED0 8) (2 * i.val) 2) }
  ((List.range 12).zip tokenPairs).foldl (fun c (e : Nat × Stream × Stream) =>
    let o := 0x890 + 36 * e.1
    c.setQueue e.2.1 e.2.2 ((List.range (min 8 (frameN f o 4))).map (fun i => BitVec.ofNat 32 (frameN f (o + 4 + 4 * i) 4)))) c1

/-- Whether system software may resume, abandon or rewrite core v of partition p: it is parked (R306; log entry 34). -/
def State.commandable (s : State) (p v : Nat) : Bool := (s.core v).st == .parked && (s.core v).task.isSome && s.partOf v == p

/-- A command that names no core it may act on (R306). -/
def State.badCommand (s : State) (p : Nat) : State := s.orReg (fltEvt p) 4

/-- A core that system software resumes goes on: in its handler, where a fault of it has stopped it, else as it was before it
parked (R306). -/
def Core.commanded (now : Now) (c : Core) : Core :=
  if c.inHandler && c.hstop then Core.replayAll now { c with causes := [], settled := true, frameHeld := false, pages := [] }
  else c.resume now

/-- The event CORE_RESUME (R306): FLT_P_CMD action 0. The images of the frame are loaded, and the core returns to what it
did before it parked: its streams, or its handler. A frame that is held, or is yet to be written, is not loaded; one that cannot be
read is refused. A core that is on its way back already goes on. -/
def execCoreResume (p v : Nat) (σ : State) : Res :=
  if !σ.barOpen ∨ 32 ≤ p then .next σ
  else if !σ.commandable p v then .next (σ.badCommand p)
  else
    let c := σ.core v
    if c.returning then .next σ
    else if c.frameHeld ∨ !c.framed then .next (σ.setCore v (c.commanded σ.now))
    else
      let s1 := σ.syncCounters p v
      match s1.readFrame p v with
      | none => .next (s1.badCommand p)
      | some f => .next (s1.setCore v ((s1.loadFrame v p (s1.core v) f).commanded s1.now))

/-- What a core's commands in flight leave behind when it is abandoned: each granule that they could write may have been
written (R116, R306). -/
def State.dropCommands (s : State) (v : Nat) : State :=
  let c := s.core v
  let s1 := c.lcmds.foldl (fun s l => (s.landSome (s.lServer v l) l.work).1) s
  let mine := s1.ecmds.filter (fun e => e.core == v)
  let s2 := mine.foldl (fun s e => s.endCommand e false) s1
  (mine.map (·.eng)).foldl State.mayDoze { s2 with ereqs := s2.ereqs.filter (fun e => e.core != v) }

/-- The event CORE_ABANDON (R306): FLT_P_CMD action 1. The core's commands end, its side log is discarded, and its task
completes with the node failed (cause 13). -/
def execCoreAbandon (p v : Nat) (σ : State) : Res :=
  if !σ.barOpen ∨ 32 ≤ p then .next σ
  else if !σ.commandable p v then .next (σ.badCommand p)
  else
    match (σ.core v).task with
    | none => .next σ
    | some t =>
      let s1 := σ.dropCommands v
      let s2 := match s1.nodeAt t.node with | some x => s1.failJob p x.job 13 t.node | none => s1
      .next (s2.finishTask v)

/-- The event FRAME_REWRITE (R304, R306): FLT_P_CMD action 3 writes the frame again; a frame that was held is then
recorded. -/
def execFrameRewrite (p v : Nat) (σ : State) : Res :=
  if !σ.barOpen ∨ 32 ≤ p then .next σ
  else if !σ.commandable p v then .next (σ.badCommand p)
  else
    let c := σ.core v
    let (s1, ok) := σ.writeFrame p v
    if !ok then .next ((s1.setCore v { s1.core v with frameHeld := true }).orReg (fltEvt p) 2)
    else if c.frameHeld then .next (s1.framed v true)
    else .next (s1.setCore v (s1.core v).imaged)

/-- The event AUTO_RESUME (R303, R313): every host page that core v waits on is answered and translated, its frame and
record are written, and no cause routes elsewhere: it resumes, with a record of KIND 2. -/
def execAutoResume (v : Nat) (σ : State) : Res :=
  let c := σ.core v
  let p := σ.partOf v
  if c.st = .parked ∧ c.settled ∧ !c.frameHeld ∧ !c.inHandler ∧ c.routeOf = .automatic ∧ !c.causes.isEmpty ∧
      c.pages.all (fun a => !σ.preq.any (fun r => r.part == p && r.page == a)) ∧
      !σ.fq.any (fun r => r.part == p && fld (r.words.getD 0 0).toNat 37 12 == v) then
    let s1 := σ.post (σ.faultRec v c.primary 2 0 c.primaryAddr)
    .next (s1.setCore v (c.resume σ.now))
  else .next σ

end Sys2Proof.Machine
end

