-- ==== Sys2Proof/Machine/Invalidate.lean ====
section
/-! DEFINITION. Invalidations (R299), host translations and page requests (R300, R301, R342), and tile fills (R75, R77). -/

namespace Sys2Proof.Machine

open Sys2Proof

/-! ### Invalidation (R299) -/

/-- The state without the cached translations of a partition that overlap `n` bytes from `va`; `host` takes host
translations only. -/
def State.shoot (s : State) (p va n : Nat) (host : Bool) : State :=
  { s with tlb := s.tlb.filter (fun t => !(t.part == p && (!host || t.host) && decide (t.va < va + n ∧ va < t.va + t.size))) }

/-- Bytes that a SIZE code of XLT_P_INV names; code 3 is every address. -/
def invSize (z : Nat) : Nat := match z with | 0 => 2 ^ 16 | 1 => 2 ^ 21 | 2 => 2 ^ 29 | _ => 2 ^ 56

/-- The event TLB_INVALIDATE (R299, R343): XLT_P_INV of partition p is written; without GO it does nothing. -/
def execTlbInvalidate (p : Nat) (x : BitVec 64) (σ : State) : Res :=
  let v := x.toNat
  if 32 ≤ p ∨ !σ.barOpen then .next σ
  else if σ.locked p then .next (σ.orReg hstEvt 2)
  else if fld v 63 1 = 0 then .next σ
  else
    let z := fld v 60 2
    let s1 := σ.shoot p (if z = 3 then 0 else fld v 16 40 * 2 ^ 16) (invSize z) (fld v 62 1 == 1)
    .next ({ s1 with invs := s1.invs ++ [(p, false)] }.setReg (xltInvst p) 0)

/-- Whether a command still holds a translation that it has made and not yet used. -/
def Work.holdsOld (w : Work) : Bool := (w.srcs ++ w.dsts).any (fun g => g.phys.isSome)

/-- Whether a command of a partition still holds a translation that it has made and not yet used; a bulk prefetch has used one
once the tile is there. -/
def State.usesOld (s : State) (p : Nat) : Bool :=
  s.cores.any (fun e => s.partOf e.1 == p && e.2.lcmds.any (fun l => l.work.holdsOld || !l.tiles.isEmpty)) ||
    s.ecmds.any (fun c => s.partOf c.core == p && c.work.holdsOld)

/-- The event INVALIDATE_DONE (R299, R301): every access that used a removed translation of partition p has performed; the
oldest invalidation of the partition is done. -/
def execInvalidateDone (p : Nat) (σ : State) : Res :=
  match σ.invs.find? (fun e => e.1 == p) with
  | none => .next σ
  | some e =>
    if σ.usesOld p then .next σ
    else
      let s1 := { σ with invs := σ.invs.erase e }
      if e.2 then .next { s1 with out := .invalidated p :: s1.out }
      else .next (if s1.invs.contains (p, false) then s1 else s1.setReg (xltInvst p) 1)

/-- The event ATS_INVALIDATION (R301): the host removes its translations of `z` bytes from G: address a of partition p. -/
def execAtsInvalidation (p a z : Nat) (σ : State) : Res :=
  let s1 := σ.shoot p a z true
  .next { s1 with invs := s1.invs ++ [(p, true)] }

/-! ### Host translations (R300) -/

/-- The state without a request. -/
def State.dropReq (s : State) (p a : Nat) : State := { s with preq := s.preq.filter (fun r => !(r.part == p && r.page == a)) }

/-- The state with a request at another stage. -/
def State.setStage (s : State) (p a stage : Nat) : State :=
  { s with preq := s.preq.map (fun r => if r.part = p ∧ r.page = a then { r with stage := stage } else r) }

/-- A page request arises: it joins the end of its function's queue (R300). -/
def State.queueReq (s : State) (q : PageReq) : State :=
  let s1 := s.dropReq q.part q.page
  { s1 with preq := s1.preq ++ [{ q with stage := 2 }] }

/-- Whether something that asked for a page of partition p still waits for it: its access, command, log entry or fetch is
there (R301). A placement of a packet that the request has turned away may come again (R350). -/
def State.awaits (s : State) (p : Nat) (w : Nat × Nat × Bool) : Bool :=
  if w.1 < numCores then
    let c := s.core w.1
    s.partOf w.1 == p && (c.acc.any (fun a => a.id == w.2.1) || (c.lcmd w.2.1).isSome || c.slog.any (fun e => e.acc.id == w.2.1))
  else if w.1 = numCores then (s.ecmd w.2.1).isSome
  else if w.1 < numCores + 64 then true
  else (s.core (w.1 - (numCores + 64))).task.isSome && s.partOf (w.1 - (numCores + 64)) == p

/-- Page requests of a function that are outstanding. -/
def State.outstanding (s : State) (p : Nat) : Nat := (s.preq.filter (fun r => r.part == p && r.stage == 1)).length

/-- LIMIT of a function. -/
def State.prqLimit (s : State) (p : Nat) : Nat := s.regF (xltPrq p) 0 9

/-- Sends queued page requests, in the order in which they arose, while fewer than LIMIT are outstanding; `fuel` bounds them. -/
def State.sendQueued (p : Nat) : Nat → State → State
  | 0, s => s
  | n + 1, s =>
    if s.prqLimit p ≤ s.outstanding p ∨ s.regF (hstPri p) 0 1 = 0 ∨ !s.atsOn p then s
    else
      match s.preq.find? (fun r => r.part == p && r.stage == 2) with
      | none => s
      | some r => State.sendQueued p n { s.setStage p r.page 1 with out := .pageRequest p (s.pasid p) r.page :: s.out }

/-- A command of core v that waits on page a is refused. A copy faults where it first reaches the page; of a gather or scatter
the elements that lie there are marked, and once it has parked the core a further cause is recorded. -/
def State.refuseL (s : State) (v a : Nat) (l0 : LCmd) : State :=
  let l := l0.retry
  if l.isGath then
    let (w, low) := l.work.refused l.elSize a
    match low with
    | none => s
    | some (_, x) =>
      let l1 := { l with work := w }
      if l.todo ≠ 0 then (s.setCore v ((s.core v).setLcmd l1)).park v (l.record .hostRefused x)
      else
        let (s1, l2) := s.lStop v l1
        s1.setCore v ((s1.core v).setLcmd l2)
  else if l.faulted.isSome then s.park v (l.record .hostRefused (firstIn a l.reach))
  else s.lFault v l .hostRefused (firstIn a l.reach)

/-- An engine command that waits on page a is refused. -/
def State.refuseE (s : State) (a : Nat) (c : ECmd) : State :=
  if c.cls = 1 then
    let (w, low) := c.work.refused (gthSize c.desc) a
    match low with
    | none => s
    | some (_, x) =>
      let c1 := { c with work := w }
      if c.step = 1 then (s.setEcmd c1).park c.core (c.record .hostRefused x w.mask) else s.eStop c1
  else (s.setEcmd { c with faulted := true, ending := true }).park c.core (c.record .hostRefused (firstIn a c.reach) 0)

/-- The stream of core v whose next word waits for its code on page a is refused, once the word would issue (R131): at once, or, where
the word waits for its token, as the loop buffer then holds it. -/
def State.refuseCode (s : State) (v a : Nat) (st : Stream) : State :=
  let c := s.core v
  let r := c.str st
  let waits (i : Nat) : Bool := pageOf (r.pc + 2 * i) == a && (s.halfAt v st (r.off + i)).bad == some .hostOutstanding
  if r.ended ∨ !(waits 0 ∨ waits 1) ∨ !(c.canIssue st ∨ c.st = .parked) then s
  else if !waits 0 ∧ c.popWaits st (popOf (s.halfAt v st r.off).half) then
    (if r.current then s.setCore v (c.setStr st { r with lb := r.lb.set (r.off + 1) (some ⟨some .hostRefused, 0⟩) }) else s)
  else s.park v (c.recOf st .hostRefused (r.pc + (if waits 0 then 0 else 2)))

/-- What waits on a page is refused (R301): it faults "host page refused" at once. A core that has parked to wait for the page of a
logged access, which a replay has found missing, records the cause (R303, R305). -/
def State.refuse (s : State) (a : Nat) (w : Nat × Nat × Bool) : State :=
  if w.1 < numCores then
    let c := s.core w.1
    match c.acc.find? (fun x => x.id == w.2.1), c.lcmd w.2.1, c.slog.find? (fun e => e.acc.id == w.2.1) with
    | some x, _, _ => s.accFault w.1 x .hostRefused
    | none, some l, _ => s.refuseL w.1 a l
    | none, none, some e =>
      let s1 := s.setCore w.1
        { c with slog := c.slog.map (fun x => if x.acc.id = e.acc.id then { x with cause := .hostRefused } else x) }
      if c.st = .parked ∧ c.pages.contains a then s1.park w.1 (e.acc.record .hostRefused) else s1
    | none, none, none => s
  else if w.1 = numCores then (match s.ecmd w.2.1 with | some c => s.refuseE a c | none => s)
  else if w.1 < numCores + 64 then s
  else [Stream.C, .L, .M, .V].foldl (fun s st => s.refuseCode (w.1 - (numCores + 64)) a st) s

/-- Every waiter of a page is refused, and the request ends. -/
def State.refuseAll (s : State) (r : PageReq) : State :=
  (r.who.filter (s.awaits r.part)).foldl (fun s w => s.refuse r.page w) (s.dropReq r.part r.page)

/-- The device's leaf at a host address: the bytes of its page, and whether it may be written and executed. -/
def State.leafAt (s : State) (p va : Nat) : Option (Nat × Bool × Bool) :=
  let root := (s.reg (xltRoot p)).toNat
  match s.walk p va levels (fld root 17 35 * 2 ^ 17) (fld root 1 1) with
  | .ok (l, e) => if fld e 4 1 = 1 then some (2 ^ l.page, fld e 2 1 == 1, fld e 3 1 == 1) else none
  | .error _ => none

/-- A reply's translation is cached for what asked for it, with the lesser of the reply's size and the leaf's page size and
with the permissions that both give (R300). -/
def State.cacheHost (s : State) (p a : Nat) (r : AtsReply) (leaf : Nat × Bool × Bool) (w : Nat × Nat × Bool) : State :=
  let n := max (2 ^ 16) (min r.size leaf.1)
  s.cache w.1 ⟨true, a, 0, ⟨0, p, a / n * n, n, true, 0, 0, 0, 0, false, r.read, r.write && leaf.2.1, leaf.2.2, 0⟩⟩

/-- The event ATS_RESPONSE (R300, R313, R342): the host answers the translation request for page a of partition p. What the
reply grants is cached, and those whose permission it grants go on. A missing translation or permission sends a page request,
or faults those that wait for it when PRI is disabled. A reply that nothing waits for is discarded. -/
def execAtsResponse (p a : Nat) (r : AtsReply) (σ : State) : Res :=
  match σ.preq.find? (fun q => q.part == p && q.page == a && q.stage == 0) with
  | none => .next σ
  | some q0 =>
    let q := { q0 with who := q0.who.filter (σ.awaits p) }
    let left := q.who.filter (fun w => !(r.present && (if w.2.2 then r.write else r.read)))
    match σ.leafAt p a with
    | none => .next (σ.dropReq p a)
    | some leaf =>
      let s1 := if r.present then q.who.foldl (fun s w => s.cacheHost p a r leaf w) σ else σ
      if left.isEmpty then .next (s1.dropReq p a)
      else if s1.regF (hstPri p) 0 1 = 0 then .next (s1.refuseAll { q with who := left })
      else .next (State.sendQueued p (s1.preq.length + 1) (s1.queueReq { q with who := left }))

/-- The side-log entries of a host page become due (R302). -/
def State.dueLog (s : State) (p a : Nat) : State :=
  { s with cores := s.cores.map (fun e =>
      if s.partOf e.1 = p then
        (e.1,
          { e.2 with
            slog := e.2.slog.map (fun x =>
              if x.acc.space = .G ∧ pageOf x.acc.addr = a then { x with due := true } else x) })
      else e) }

/-- The event PAGE_RESPONSE (R301, R342): the host answers the page request for page a of partition p. A response for a page that
nothing waits for any more is discarded. A Success sends no request while ATSEN is 0: what waits is refused (R310). -/
def execPageResponse (p a : Nat) (c : PageCode) (σ : State) : Res :=
  match σ.preq.find? (fun q => q.part == p && q.page == a && q.stage == 1) with
  | none => .next σ
  | some q =>
    match c with
    | .success =>
      if !q.who.any (σ.awaits p) then .next (State.sendQueued p σ.preq.length (σ.dropReq p a))
      else if !σ.atsOn p then .next (σ.refuseAll q)
      else
      let s1 := { σ.setStage p a 0 with out := .ats p (σ.pasid p) a :: σ.out }.dueLog p a
      .next (State.sendQueued p s1.preq.length s1)
    | .invalid => let s1 := σ.refuseAll q; .next (State.sendQueued p s1.preq.length s1)
    | .failure =>
      let queued := σ.preq.filter (fun r => r.part == p && r.stage == 2)
      .next ((queued.foldl State.refuseAll (σ.refuseAll q)).setRegF (hstPri p) 0 1 0)

/-- The event PRI_ENABLE (R342): HST_PRI.EN of partition p is written 1; ignored while requests are outstanding. -/
def execPriEnable (p : Nat) (σ : State) : Res :=
  .next (σ.bar (
    if 32 ≤ p then σ
    else if σ.outstanding p ≠ 0 then σ.orReg hstEvt 1
    else State.sendQueued p σ.preq.length (σ.setRegF (hstPri p) 0 1 1)))

/-! ### Fills (R75, R77) -/

/-- The bulk prefetches of every core that wait for a tile, with its place in their range. -/
def State.fillWaiters (s : State) (t : Nat) : List (Nat × LCmd × Nat) :=
  s.cores.flatMap (fun e =>
    (e.2.lcmds.filter (fun l => !l.delivered)).filterMap (fun l =>
      (l.tiles.find? (fun x => x.2 == t)).map (fun x => (e.1, l, x.1))))

/-- The event TILE_FILL (R75, R77): the fill of tile t arrives and is verified against its record. It becomes resident, or
is a cap failure of all that waits for it. A tile that verifies counts as having been resident for its prefetches also where no
way of its set can be taken for it (log entry 68). -/
def execTileFill (t : Nat) (σ : State) : Res :=
  match σ.fills.find? (fun f => f.tile == t) with
  | none => .next σ
  | some f =>
    let s0 := State.settle { σ with fills := σ.fills.filter (fun g => g.tile != t) } t
    let ws := s0.fillWaiters t
    if s0.verifies t then
      let s1 := if s0.resident t then s0 else (s0.capFetch t).allocate f.part t f.retain
      .next (ws.foldl (fun s w =>
        s.setCore w.1 ((s.core w.1).setLcmd { w.2.1 with tiles := w.2.1.tiles.filter (fun x => x.2 != t) })) s1)
    else
      .next (ws.foldl (fun s w => s.lFault w.1 w.2.1 .capFailure ((w.2.1.tileRange.1 + w.2.2) * 1024)) (s0.fillFails t))

end Sys2Proof.Machine
end

