-- ==== Sys2Proof/Machine/Queue.lean ====
section
/-! DEFINITION. Host queues and notify writes (R283–R285, R340), the failure log (R293), pre-emption (R291) and the reset of
arena slots (R289). -/

namespace Sys2Proof.Machine

open Sys2Proof

/-- Register and bit of a queue in SCH_PEND. -/
def pendReg (q : Nat) : Nat := schPend + 8 * (q / 64)
def State.pending (s : State) (q : Nat) : Bool := s.regF (pendReg q) (q % 64) 1 == 1

/-- The slot bound to a queue. -/
def State.boundSlot (s : State) (q : Nat) : Option Nat := (List.range 256).find? (fun i => s.qValid i && s.qid i == q)

/-- A queue has a notify that no slot has served: its bit of SCH_PEND is set (R284, R285). -/
def State.setPending (s : State) (q : Nat) : State := (s.setRegF (pendReg q) (q % 64) 1 1).orReg schEvt 1

/-- The event NOTIFY (R284, R340): a write of value `i` to the notify register of partition p's virtual function. -/
def execNotify (p i : Nat) (σ : State) : Res :=
  let q := 128 * p + i
  if !σ.barOpen ∨ 32 ≤ p then .next σ
  else if 128 ≤ i then .next (σ.orReg schEvt 0x20)
  else
    match σ.boundSlot q with
    | some k => .next (σ.setQslot k { σ.qslot k with due := true })
    | none => .next (σ.setPending q)

/-- SCH_QS_STAT.ERR of a slot. -/
def State.qErr (s : State) (i : Nat) : Bool := s.regF (qsStat i) 32 1 == 1
def State.setErr (s : State) (i : Nat) : State := s.setRegF (qsStat i) 32 1 1

/-- Whether a DONE write that is due may be made: this package's count is 0, and the other packages' counts are 0 too,
which is left open here. -/
def State.mayDone (s : State) (i : Nat) : Bool :=
  let x := s.jobAt (s.qPart i) (s.qJob i)
  (s.others (s.qPart i)).isEmpty || (x.count + x.sent == 0 && Config.freeNat 6 s.tick % 2 == 1)

/-- Writes a slot's HEAD. -/
def State.writeHead (s : State) (i : Nat) : State :=
  match s.qWrite i 0 (leBytes 8 (s.qslot i).head) with
  | .ok s _ => s.setQslot i { s.qslot i with headDue := false }
  | .fault s _ => s.setErr i
  | .wait s => s

/-- Reads the header of a slot's queue: HEAD once after the bind, and TAIL. -/
def State.readHeader (s0 : State) (i : Nat) : State :=
  let s := s0.learnHead i
  if !(s.qslot i).known then s
  else
    match s.qRead i 8 8 with
    | .ok s bs => s.setQslot i { s.qslot i with tail := leNat (bs.take 4), due := false }
    | .fault s _ => s.setErr i
    | .wait s => s

/-- Consumes the next entry of a slot's queue: one node creation. -/
def State.consume (s : State) (i : Nat) : State :=
  let n := s.regF (qsCfg i) 12 5
  match s.qRead i (64 + 32 * ((s.qslot i).head % 2 ^ n)) 32 with
  | .ok s bs =>
    let q := s.qslot i
    let h := (q.head + 1) % 2 ^ 32
    ((s.setQslot i { q with head := h, headDue := true }).setRegF (qsStat i) 0 32 h).applySucc
      { job := s.qJob i, part := s.qPart i, block := BitVec.ofNat 256 (leNat bs), set := [], comb := 0, core := none, seq := 0 }
  | .fault s _ => s.setErr i
  | .wait s => s

/-- Binds a slot to the queue that a value of SCH_QS_CFG names (R285): a pending notify is served at once, and stays pending
while the partition's TDI is in ERROR (R343). DESIGN CHOICE: SCH_QS_STAT stays as it was, its ERR and its count (log entry 82). -/
def State.bindSlot (s : State) (i : Nat) (x : BitVec 64) : State :=
  let q := fld x.toNat 0 12
  let s1 := s.setReg (qsCfg i) x
  let now := s1.pending q && Tab.get Tdi.unlocked s1.tdi (q / 128) != .error
  let s2 := s1.setQslot i
    { QSlot.empty with failedSince := (s1.jobAt (q / 128) (fld x.toNat 24 16)).failed, due := now }
  if now then s2.setRegF (pendReg q) (q % 64) 1 0 else s2

/-- A slot leaves its queue: SCH_QS_CFG takes the value written, which may bind it to another queue; a queue that another
slot serves by then is ignored with BADW. A notify that the slot has yet to serve stays pending. -/
def State.leaveQueue (s : State) (i : Nat) (x : BitVec 64) : State :=
  let s0 := (s.setRegF (qsCfg i) 23 1 0).setQslot i QSlot.empty
  let s1 := if (s.qslot i).due then s0.setPending (s.qid i) else s0
  if fld x.toNat 23 1 = 0 then s1.setReg (qsCfg i) x
  else if (s1.boundSlot (fld x.toNat 0 12)).isSome then s1.orReg schEvt 0x40
  else s1.bindSlot i x

/-- A slot whose unbind waits for HEAD (R285): it leaves its queue once HEAD has been written. -/
def State.unbindOn (s : State) (i : Nat) (x : BitVec 64) : State :=
  if (s.qslot i).headDue then
    (if s.qErr i then s
     else
       let s1 := s.writeHead i
       if (s1.qslot i).headDue then s1 else s1.leaveQueue i x)
  else s.leaveQueue i x

/-- A slot serves the notify that stayed pending for its queue while its partition's TDI was in ERROR (R343). -/
def State.servePending (s : State) (i : Nat) : State :=
  let q := s.qid i
  (s.setQslot i { s.qslot i with due := true }).setRegF (pendReg q) (q % 64) 1 0

/-- The event QUEUE_CONSUME (R284, R285): slot i makes the DONE write that is due, ends its binding, reads TAIL, consumes an
entry, or writes HEAD after the last. -/
def execQueueConsume (i : Nat) (σ : State) : Res :=
  let q := σ.qslot i
  let p := σ.qPart i
  if !σ.qValid i ∨ Tab.get Tdi.unlocked σ.tdi p = Tdi.error then .next σ
  else if q.doneDue ∧ σ.mayDone i then .next (σ.writeDone i)
  else if let some x := q.leaving then .next (σ.unbindOn i x)
  else if σ.pending (σ.qid i) then .next (σ.servePending i)
  else if σ.qErr i ∨ (σ.jobAt p (σ.qJob i)).failed then .next σ
  else if q.due then .next (σ.readHeader i)
  else if q.known ∧ q.head ≠ q.tail then .next (σ.consume i)
  else if q.headDue then .next (σ.writeHead i)
  else .next σ

/-- The bits of SCH_QS_CFG; the others are reserved (R5). -/
def cfgMask : BitVec 64 := 0xFFFFC1FFFF

/-- A value of SCH_QS_CFG within its range. -/
def cfgOk (x : Nat) : Bool := decide (4 ≤ fld x 12 5 ∧ fld x 12 5 ≤ 16)

/-- Ends the binding of a slot in favour of a value of SCH_QS_CFG: at once, or when HEAD has been written (R285). -/
def State.unbind (s : State) (i : Nat) (x : BitVec 64) : State :=
  State.unbindOn (s.setQslot i { s.qslot i with leaving := some x }) i x

/-- The event QUEUE_BIND (R285): SCH_QS_CFG of slot i is written with V = 1. A queue that another slot serves is ignored with
BADW. A slot that serves another queue is unbound first, which PRE = 1 refuses. -/
def execQueueBind (i : Nat) (x0 : BitVec 64) (σ : State) : Res :=
  let x := x0 &&& cfgMask
  let v := x.toNat
  let q := fld v 0 12
  if !σ.barOpen then .next σ
  else if 256 ≤ i ∨ !cfgOk v ∨ fld v 23 1 = 0 ∨ (σ.boundSlot q).any (· != i) then .next (σ.orReg schEvt 0x40)
  else if !σ.qValid i then .next (σ.bindSlot i x)
  else if σ.qid i = q ∧ (σ.qslot i).leaving = none then .next (σ.setReg (qsCfg i) x)
  else if σ.regF (qsCfg i) 22 1 = 1 then .next (σ.orReg schEvt 0x10)
  else .next (σ.unbind i x)

/-- The event QUEUE_UNBIND (R285): SCH_QS_CFG of slot i is written with V = 0, its other fields as they stand; PRE = 1 refuses it. -/
def execQueueUnbind (i : Nat) (σ : State) : Res :=
  if !σ.barOpen ∨ !σ.qValid i then .next σ
  else if σ.regF (qsCfg i) 22 1 = 1 then .next (σ.orReg schEvt 0x10)
  else .next (σ.unbind i (σ.reg (qsCfg i) &&& ~~~0x800000))

/-- The event QUEUE_ERR_CLEAR (R284): clearing SCH_QS_STAT.ERR of slot i retries the read. -/
def execQueueErrClear (i : Nat) (σ : State) : Res := .next (σ.bar (σ.setRegF (qsStat i) 32 1 0))

/-- The event FLOG_READ (R293): a read of SCH_FLOG removes the oldest entry. -/
def execFlogRead (σ : State) : Res :=
  .next (σ.bar { σ with
    flog := σ.flog.drop 1
    out := .report 0x0018 (match σ.flog with | x :: _ => x.toNat | [] => 0) :: σ.out })

/-- The event PREEMPT_REQUEST (R291): SCH_P_PRE.REQ = 1 stops placement for partition p. -/
def execPreemptRequest (p : Nat) (σ : State) : Res :=
  .next (σ.bar (if p < 32 then (σ.setReg (schPre p) 1).preCheck p else σ))

/-- The event PREEMPT_RESUME (R291): SCH_P_PRE.REQ = 0 resumes placement. -/
def execPreemptResume (p : Nat) (σ : State) : Res :=
  .next (σ.bar (if p < 32 then σ.setReg (schPre p) 0 else σ))

/-- The event ARENA_SLOT_RESET (R289): SCH_P_ARST.GO returns every arena slot of partition p to generation 0 when the
partition has no node; otherwise REJ is set. -/
def execArenaSlotReset (p : Nat) (σ : State) : Res :=
  .next (σ.bar (
    if 32 ≤ p then σ
    else if σ.nodes.any (fun e => e.2.part == p) then σ.orReg (schArst p) 2
    else { σ with arenas := σ.arenas.filter (fun e => e.1 / 64 != p) }))

end Sys2Proof.Machine
end

