-- ==== Sys2Proof/Machine/Layout.lean ====
section
/-! DEFINITION. Partitions and their layout (R317–R321), the calendar (R322–R325), way quotas (R326), rekey sweeps and
resealed pages (R335, R336), and the events that only time shows (R211, R292). -/

namespace Sys2Proof.Machine

open Sys2Proof

/-! ### The staged layout -/

/-- One past the last data unit of a tier (R318). -/
def tierEnd (t : Nat) : Nat := if t = 0 then 2015 else 4030

/-- First device address of a tier. -/
def tierBase (t : Nat) : Nat := if t = 0 then 0 else lpBase

/-- Whether the base-and-bound range of a partition lies in a range of units (R318); an empty one always does. -/
def xltIn (base bound t : Nat) (r : Nat × Nat) : Bool :=
  bound == 0 || decide (tierBase t + r.1 * 2 ^ 29 ≤ base ∧ base + bound ≤ tierBase t + r.2 * 2 ^ 29)

/-- The cores of a cluster. -/
def clusterCores (c : Nat) : List Nat := (List.range 48).map (fun i => 48 * c + i)

/-- Whether a cluster holds a task, a parked core, or an engine that is not asleep (Table 19.2, code 2). -/
def State.clusterBusy (s : State) (c : Nat) : Bool :=
  (clusterCores c).any (fun v => (s.core v).st != .idle) ||
    s.engines.any (fun e => !clsComb (engCls e.1) && engCluster e.1 == c && e.2.wake != .asleep)

/-- Whether two ranges share a unit; an empty one shares none (R318). -/
def rangesMeet (a b : Nat × Nat) : Bool := decide (max a.1 b.1 < min a.2 b.2)

/-- Code 3 of Table 19.2 for a partition. -/
def State.rangeBad (s : State) (p : Nat) : Bool :=
  [0, 1].any (fun t =>
    let r := s.stagedRange p t
    decide (r.2 < r.1) || decide (tierEnd t < r.2) || (t == 0 && r.1 == 0 && decide (0 < r.2)) ||
      (decide (r.1 < r.2) && !s.stagedLive p) ||
      (List.range 32).any (fun q => q != p && rangesMeet r (s.stagedRange q t)))

/-- A malformed entry of table k (R322). -/
def State.slotBad (s : State) (k e : Nat) : Bool :=
  fld e 5 1 == 1 ||
    (if fld e 6 1 = 1 then k != 1 || e / 128 == 0 || e % 32 != 0 else e / 128 == 1 && !s.stagedLive (e % 32))

/-- Code 5 of Table 19.2: the slot, or the partition, that fails first. -/
def State.slotFail (s : State) : Option Nat :=
  (List.range 4).findSome? (fun comb =>
    ((List.range 4).findSome? (fun k => (List.range 512).find? (fun i => s.slotBad k (s.stagedSlot comb k i)))).or
      (if ((List.range 512).filter (fun i => fld (s.stagedSlot comb 1 i) 6 1 == 1)).length < 32 then some 0
       else
        (List.range 32).find? (fun p =>
          (s.stagedLive p && !(s.stagedOwns comb 0 p && s.stagedOwns comb 1 p)) ||
            (s.engines.any (fun e => clsComb (engCls e.1) && engComb e.1 == comb && e.2.leases.any (fun l => s.lesseePart l == p)) &&
              !s.stagedOwns comb 2 p))))

/-- The first failing check of Table 19.2, with the index it names; code 0 when none fails. -/
def State.prepareCode (s : State) : Nat × Nat :=
  let parts := List.range 32
  let find (f : Nat → Bool) : Option Nat := parts.find? f
  if s.regF prtJrnl 0 2 ≠ 0 then (1, 0)
  else
    match find (fun p => s.sweeping p && s.partChanges p) with
    | some p => (1, p)
    | none =>
      match (List.range 48).find? (fun c => s.ownerChanges c && s.clusterBusy c) with
      | some c => (2, c)
      | none =>
        match find (fun p => s.locked p && s.partChanges p) with
        | some p => (2, p)
        | none =>
          match find s.rangeBad with
          | some p => (3, p)
          | none =>
            match find (fun p => [0, 1].any (fun t =>
                !xltIn (s.reg (xltBase p t)).toNat (s.reg (xltBound p t)).toNat t (s.stagedRange p t))) with
            | some p => (4, p)
            | none =>
              match s.slotFail with
              | some i => (5, i)
              | none =>
                match (List.range 4).find? (fun c =>
                    decide (20 < (parts.map (fun p => s.regF (prtWfloor p) (5 * c) 5)).foldl (· + ·) 0)) with
                | some c => (6, c)
                | none =>
                  match find (fun p => (s.rangeChanges p 0 || s.rangeChanges p 1) && s.nodes.any (fun e => e.2.part == p)) with
                  | some p => (7, p)
                  | none => (0, 0)

/-! ### The journal (R320) -/

/-- The event LAYOUT_PREPARE (R319): PRT_CTRL.PREP. -/
def execLayoutPrepare (σ : State) : Res :=
  .next (σ.bar (
    let (code, ix) := σ.prepareCode
    let s1 := σ.setReg prtCst (BitVec.ofNat 64 (code + ix % 256 * 256))
    if code = 0 then s1.setRegF prtJrnl 0 2 1 else s1))

/-- The event LAYOUT_APPLY_REQUEST (R320): PRT_CTRL.APPLY. -/
def execLayoutApplyRequest (σ : State) : Res :=
  .next (σ.bar (if σ.journal = 1 then σ.setRegF prtJrnl 0 2 2 else σ))

/-- The event LAYOUT_ABORT (R320): PRT_CTRL.ABORT. -/
def execLayoutAbort (σ : State) : Res :=
  .next (σ.bar (if σ.journal = 1 then (σ.setRegF prtJrnl 0 2 0).wakeHeld else σ))

/-- Copies a block of registers. -/
def State.copyRegs (s : State) (src dst n : Nat) : State :=
  (List.range n).foldl (fun s i => s.setReg (dst + 8 * i) (s.reg (src + 8 * i))) s

/-- The staged copy becomes the active one, or (`back`) is reloaded from it (R318, R320). -/
def State.copyLayout (s : State) (back : Bool) : State :=
  let cp (s : State) (staged active n : Nat) : State := if back then s.copyRegs active staged n else s.copyRegs staged active n
  let s1 := cp s prtClOwn prtClAct 6
  let s2 := (List.range 32).foldl (fun s p =>
    cp (cp (cp s (prtRange p 0) (prtActRange p 0) 1) (prtRange p 1) (prtActRange p 1) 1) (prtWfloor p) (prtActWfloor p) 1) s1
  (List.range 4).foldl (fun s c => (List.range 4).foldl (fun s k => cp s (calStaged c k) (calActive c k) 64) s) s2

/-- The event MP_RESET (R320, R362): the management processor alone is reset: a prepared journal returns to IDLE with the
staged copy reloaded. -/
def execMpReset (σ : State) : Res :=
  .next (if σ.journal = 1 then ((σ.copyLayout true).setRegF prtJrnl 0 2 0).wakeHeld else σ)

/-! ### Way quotas (R326) -/

/-- Hits of a partition in a comb at LRU depth `w`. -/
def State.gain (s : State) (comb p w : Nat) : Nat := Tab.get 0 s.monitor ((comb * 32 + p) * 32 + w)

/-- The partition with the largest gain, the lowest on a tie. -/
def bestGain (g : Nat → Nat) : List Nat → Option Nat
  | [] => none
  | p :: r => match bestGain g r with | none => some p | some q => if g p < g q then some q else some p

/-- The loop of R326; `fuel` is the number of ways. -/
def quotaLoop (s : State) (comb : Nat) (live : List Nat) : Nat → List (Nat × Nat) → List (Nat × Nat)
  | 0, q => q
  | n + 1, q =>
    if 20 ≤ (q.map (·.2)).foldl (· + ·) 0 then q
    else
      let of (p : Nat) : Nat := ((q.find? (fun e => e.1 == p)).map (·.2)).getD 0
      match bestGain (fun p => s.gain comb p (of p + 1)) live with
      | none => q
      | some p => quotaLoop s comb live n (q.map (fun e => if e.1 = p then (p, e.2 + 1) else e))

/-- The quotas of a comb. -/
def State.quotas (s : State) (comb : Nat) : List (Nat × Nat) :=
  let live := (List.range 32).filter s.liveP
  quotaLoop s comb live 20 (live.map (fun p => (p, s.regF (prtActWfloor p) (5 * comb) 5)))

/-- Stages the quotas of a comb, as the monitors give them, for the next lap. -/
def State.stageQuotas (s : State) (comb : Nat) : State :=
  let qs := s.quotas comb
  (List.range 32).foldl (fun s p =>
    let x := (Tab.get (s.reg (prtWays p)) s.quotaNext p).toNat
    let v := ((qs.find? (fun e => e.1 == p)).map (·.2)).getD 0
    { s with quotaNext := Tab.put s.quotaNext p (BitVec.ofNat 64 (x - fld x (5 * comb) 5 * 2 ^ (5 * comb) + v * 2 ^ (5 * comb))) }) s

/-- Clears the monitors of a comb. -/
def State.clearMonitors (s : State) (comb : Nat) : State := { s with monitor := s.monitor.filter (fun e => e.1 / 1024 != comb) }

/-- The event QUOTA_INTERVAL (R326): the interval ends, and comb c recomputes its quotas. -/
def execQuotaInterval (c : Nat) (σ : State) : Res := .next (if c < 4 then (σ.stageQuotas c).clearMonitors c else σ)

/-- Whether the quotas in force of a comb are quotas of its live partitions: none below its floor, 20 in all, and none of another
(R317, R326). -/
def State.quotasFit (s : State) (comb : Nat) : Bool :=
  let q (p : Nat) : Nat := s.regF (prtWays p) (5 * comb) 5
  ((List.range 32).map q).foldl (· + ·) 0 == 20 &&
    (List.range 32).all (fun p => if s.liveP p then decide (s.regF (prtActWfloor p) (5 * comb) 5 ≤ q p) else q p == 0)

/-- Quotas that are due take effect. -/
def State.applyQuotas (s : State) : State :=
  { s.quotaNext.foldl (fun s e => s.setReg (prtWays e.1) e.2) s with quotaNext := [] }

/-! ### The apply (R321) -/

/-- The runs of pages of a tier whose owner is a partition's and was not before the apply. -/
def newRuns (t : Nat) (p : Nat) (now was : Nat × Nat) : List (Nat × Nat × Nat) :=
  let pg (u : Nat) : Nat := (tierBase t + u * 2 ^ 29) / 2 ^ 16
  let run (a b : Nat) : List (Nat × Nat × Nat) := if a < b then [(pg a, pg b, p)] else []
  if was.2 ≤ was.1 then run now.1 now.2 else run now.1 (min now.2 was.1) ++ run (max now.1 was.2) now.2

/-- Inserts a run in address order. -/
def runInsert (x : Nat × Nat × Nat) : List (Nat × Nat × Nat) → List (Nat × Nat × Nat)
  | [] => [x]
  | y :: r => if x.1 < y.1 then x :: y :: r else y :: runInsert x r

/-- A run cut at the bounds of the 512 MiB units. -/
def cutUnits (r : Nat × Nat × Nat) : List (Nat × Nat × Nat) :=
  (List.range (r.2.1 / 8192 + 1 - r.1 / 8192)).filterMap (fun i =>
    let u := r.1 / 8192 + i
    let lo := max r.1 (8192 * u)
    let hi := min r.2.1 (8192 * (u + 1))
    if lo < hi then some (lo, hi, r.2.2) else none)

/-- Whether the pages of a run within one unit still have the owner it names. -/
def State.keepRuns (s : State) (r : Nat × Nat × Nat) : Bool := s.ownerOf (r.1 * 2 ^ 16) == some r.2.2

/-- The apply of a layout at a lap boundary (R321): copies become active; the translations of partitions whose ranges
changed go; tiles of pages that leave their owner are dropped; keys are made and lost; clusters whose owner changed are to
be scrubbed and moved pages sealed afresh. Quotas stay, but in a comb where they no longer fit the live partitions and their floors:
DESIGN CHOICE (log entry 85), those of R326 from the monitors as they stand take effect there at once. -/
def State.applyLayout (s : State) : State :=
  let changed := (List.range 48).filter s.ownerChanges
  let moved := (List.range 32).filter (fun p => s.rangeChanges p 0 || s.rangeChanges p 1)
  let wasLive := (List.range 32).filter s.liveP
  let was := fun (p t : Nat) => s.actRange p t
  let s1 := s.copyLayout false
  let runs := (List.range 32).flatMap (fun p => [0, 1].flatMap (fun t => newRuns t p (s1.actRange p t) (was p t)))
  let s2 : State :=
    { s1 with
      tlb := s1.tlb.filter (fun t => !moved.contains t.part)
      l2 := s1.l2.filter (fun t => s1.ownerOf (1024 * t.tile) == s.ownerOf (1024 * t.tile))
      l2b := s1.l2b.filter (fun e => s1.ownerOf e.1 == s.ownerOf e.1)
      fails := s1.fails.filter (fun t => s1.ownerOf (1024 * t) == s.ownerOf (1024 * t))
      scrub := s1.scrub ++ changed.filter (fun c => !s1.scrub.contains c)
      reseal := runs.foldl (fun l r => runInsert r l) ((s1.reseal.flatMap cutUnits).filter s1.keepRuns) }
  let s3 := (List.range 32).foldl (fun s p =>
    if s.liveP p ∧ !wasLive.contains p then { s with keyNo := s.keyNo + 1, keys := Tab.set 0 s.keys p (s.keyNo + 1) }
    else if !s.liveP p ∧ wasLive.contains p then { s with keys := Tab.set 0 s.keys p 0 }
    else s) s2
  let s4 := ((List.range 4).filter (fun c => !s3.quotasFit c)).foldl State.stageQuotas s3
  let gen := s4.regF prtJrnl 16 16
  let s5 := ((s4.applyQuotas.setReg prtJrnl (BitVec.ofNat 64 ((gen + 1) % 65536 * 65536))).orReg prtEvt 1)
  (if s5.scrub.isEmpty ∧ s5.reseal.isEmpty then s5.orReg prtEvt 4 else s5).wakeHeld

/-- Another stretch factor and C-clock: what has passed of the present slot stays passed (R325). -/
def State.retime (s : State) (f cclk : Nat) : State :=
  { s with stretch := f, cclk := cclk, slotFrac := s.slotFrac * (f * cclk) / (s.stretch * s.cclk) }

/-- The event LAP_BOUNDARY (R320, R323, R325, R326): once the 512 slots of a calendar lap have passed, the next begins: the
stretch factor, the quotas and a pending apply take effect. -/
def execLapBoundary (σ : State) : Res :=
  if σ.slot < 512 * (σ.lap + 1) then .next σ
  else
    let f := σ.regF calStretch 0 7
    let s1 := { σ with lap := σ.lap + 1 }.retime f (max σ.cclk ((1400 * 16 + f - 1) / f))
    let s2 := s1.applyQuotas
    .next (if s2.journal = 2 then s2.applyLayout else s2)

/-- The event CLUSTER_SCRUB_DONE (R321): the scrub of cluster c ends: buffers zero, instruction caches, TLBs and loop buffers
invalid, and engine state gone. -/
def execClusterScrubDone (c : Nat) (σ : State) : Res :=
  if !σ.scrub.contains c then .next σ
  else
    let s1 := (clusterCores c).foldl (fun s v => s.setCore v { Core.reset with nextId := (s.core v).nextId }) σ
    let s2 := (clusterCores c).foldl State.clearAllMarks s1
    .next (State.scrubCheck { s2 with
      tlb := s2.tlb.filter (fun t => t.holder != numCores + 1 + c && !(clusterCores c).contains t.holder)
      engines := s2.engines.filter (fun e => clsComb (engCls e.1) || engCluster e.1 != c)
      scrub := s2.scrub.filter (· != c) })

/-- The event PAGE_RESEAL (R336): the page at device address a, the lowest that is due, is sealed afresh. -/
def execPageReseal (a : Nat) (σ : State) : Res :=
  match σ.reseal with
  | (lo, _, _) :: _ => if lo = a / 2 ^ 16 then .next (σ.resealPage lo) else .next σ
  | [] => .next σ

/-! ### Rekey (R335) -/

/-- The event REKEY_REQUEST (R335): CAP_P_KCTL.REKEY of partition p. One that the journal bars is ignored like one during a sweep
(R319; log entry 84). -/
def execRekeyRequest (p : Nat) (σ : State) : Res :=
  .next (σ.bar (
    if 32 ≤ p ∨ !σ.liveP p then σ else if σ.sweeping p ∨ σ.sweepBarred p then σ.orReg capEvt 8
    else σ.startSweep p true))

/-- The end of a sweep: the old key is destroyed, and pinned tiles may be written back again. -/
def State.endSweep (s : State) (p new : Nat) : State :=
  (({ s with
    keys := Tab.set 0 s.keys p new
    sweep := s.sweep.del p
    l2 := s.l2.map (fun (t : L2Tile) => if t.part = p then { t with pinned := false } else t) }.setRegF (capSweep p) 0 1 0).orReg capEvt 1)

/-- The first tile and one past the last of a partition's range of a tier. -/
def State.tileSpan (s : State) (p t : Nat) : Nat × Nat :=
  let r := s.actRange p t
  (tierBase t / 1024 + r.1 * 2 ^ 19, tierBase t / 1024 + r.2 * 2 ^ 19)

/-- The event REKEY_SWEEP_TILE (R335): the sweep of partition p takes its next tile: read, verified, sealed under the new
key with version 0, and written back; past the last tile of both tiers it ends. A tile that does not verify is passed, and leaves
the failure table like any other (R334). -/
def execRekeySweepTile (p : Nat) (σ : State) : Res :=
  match σ.sweep.find? (fun e => e.1 == p) with
  | none => .next σ
  | some (_, t, next, new) =>
    let (_, hi) := σ.tileSpan p t
    if hi ≤ next then
      if t = 0 then .next { σ with sweep := Tab.put σ.sweep p (1, (σ.tileSpan p 1).1, new) } else .next (σ.endSweep p new)
    else
      let s1 := σ.settle next
      let k := Tab.get 0 s1.keys p
      let s2 :=
        if (s1.sealOf next).key = k ∧ k ≠ 0 ∧ !s1.dramErr next ∧ s1.capOk next then
          ((s1.capFetch next).sealMem next new 0 p).capWrite next
        else s1.tagFail next
      .next ({ s2 with
        fails := s2.fails.filter (· != next)
        sweep := Tab.put s2.sweep p (t, next + 1, new) }.setReg (capPtr p t) (BitVec.ofNat 64 ((next + 1) * 1024)))

/-- The event CAP_FLOG_READ (R334): a read of CAP_FLOG removes the oldest failure. -/
def execCapFlogRead (σ : State) : Res :=
  .next (σ.bar { σ with
    capFlog := σ.capFlog.drop 1
    out := .report 0xF808 (match σ.capFlog with | x :: _ => x.toNat | [] => 0) :: σ.out })

/-! ### Slips (R324) -/

/-- Clears the slip counters of a partition that a mask names. -/
def State.clearSlips (s : State) (p mask : Nat) : State :=
  (List.range 4).foldl (fun s k => if fld mask k 1 = 1 then s.setRegF (calSlip p + 8 * (k / 2)) (32 * (k % 2)) 32 0 else s) s

/-- The event SLIP_CLEAR (R324): CAL_P_SLIPCLR of partition p is written; which counters it names is left open here. -/
def execSlipClear (p : Nat) (σ : State) : Res :=
  .next (σ.bar (if p < 32 then σ.clearSlips p (Config.freeNat 9 σ.tick) else σ))

/-! ### Events of time alone -/

/-- The event C_CLOCK_CHANGE (R325): the power controller sets the C-clock to f MHz, from 1,400 × 16 / f in force up to
1,400. -/
def execCClockChange (f : Nat) (σ : State) : Res :=
  .next (if 1400 * 16 ≤ f * σ.stretch ∧ f ≤ 1400 then σ.retime σ.stretch f else σ)

/-- The event PORT_STARVATION_FREEZE (R292): the timetables on a buffer's port stand still for a C-cycle; no offset and no
result changes. -/
def execPortStarvationFreeze (_b : Buf) (σ : State) : Res := .next σ

/-- The event REFRESH (R211, R324): a refresh takes a maintenance slot, and the timetables that it intrudes on freeze whole;
no result changes. -/
def execRefresh (_i : Nat) (σ : State) : Res := .next σ

end Sys2Proof.Machine
end

