-- ==== Sys2Proof/Machine/LoadAlu.lean ====
section
/-! DEFINITION. The address ALU of the L stream (R177, R178). -/

namespace Sys2Proof.Machine

open Sys2Proof

/-- `badd` (R178): b[d] := a + b. -/
def execBadd (tk : Tok) (d : BitVec 4) (a : BitVec 4) (b : BitVec 4) (σ : State) : Res :=
  lOp σ (.badd tk d a b) tk (fun c => c.setB d (c.getB a + c.getB b))

/-- `bsub` (R178): b[d] := a − b. -/
def execBsub (tk : Tok) (d : BitVec 4) (a : BitVec 4) (b : BitVec 4) (σ : State) : Res :=
  lOp σ (.bsub tk d a b) tk (fun c => c.setB d (c.getB a - c.getB b))

/-- `band` (R178): b[d] := a AND b. -/
def execBand (tk : Tok) (d : BitVec 4) (a : BitVec 4) (b : BitVec 4) (σ : State) : Res :=
  lOp σ (.band tk d a b) tk (fun c => c.setB d (c.getB a &&& c.getB b))

/-- `bor` (R178): b[d] := a OR b. -/
def execBor (tk : Tok) (d : BitVec 4) (a : BitVec 4) (b : BitVec 4) (σ : State) : Res :=
  lOp σ (.bor tk d a b) tk (fun c => c.setB d (c.getB a ||| c.getB b))

/-- `bxor` (R178): b[d] := a XOR b. -/
def execBxor (tk : Tok) (d : BitVec 4) (a : BitVec 4) (b : BitVec 4) (σ : State) : Res :=
  lOp σ (.bxor tk d a b) tk (fun c => c.setB d (c.getB a ^^^ c.getB b))

/-- `bsll` (R178): b[d] := a shifted left by b[5:0]. -/
def execBsll (tk : Tok) (d : BitVec 4) (a : BitVec 4) (b : BitVec 4) (σ : State) : Res :=
  lOp σ (.bsll tk d a b) tk (fun c => c.setB d (c.getB a <<< ((c.getB b).toNat % 64)))

/-- `bsrl` (R178): b[d] := a shifted right by b[5:0], logically. -/
def execBsrl (tk : Tok) (d : BitVec 4) (a : BitVec 4) (b : BitVec 4) (σ : State) : Res :=
  lOp σ (.bsrl tk d a b) tk (fun c => c.setB d (c.getB a >>> ((c.getB b).toNat % 64)))

/-- `bmul` (R178): b[d] := bits [63:0] of a × b. -/
def execBmul (tk : Tok) (d : BitVec 4) (a : BitVec 4) (b : BitVec 4) (σ : State) : Res :=
  lOp σ (.bmul tk d a b) tk (fun c => c.setB d (c.getB a * c.getB b))

/-- `baddi` (R178): b[d] := a + SignExtend(imm). -/
def execBaddi (tk : Tok) (d : BitVec 4) (a : BitVec 4) (i : BitVec 14) (σ : State) : Res :=
  lOp σ (.baddi tk d a i) tk (fun c => c.setB d (c.getB a + i.signExtend 64))

/-- `bli` (R178): b[d] := SignExtend(imm). -/
def execBli (tk : Tok) (d : BitVec 4) (i : BitVec 16) (σ : State) : Res :=
  lOp σ (.bli tk d i) tk (fun c => c.setB d (i.signExtend 64))

/-- `blis` (R178): b[d] := (b[d] << 16) OR imm. -/
def execBlis (tk : Tok) (d : BitVec 4) (i : BitVec 16) (σ : State) : Res :=
  lOp σ (.blis tk d i) tk (fun c => c.setB d ((c.getB d <<< 16) ||| i.setWidth 64))

/-- Compact `bmov` (R178): b[d] := a. -/
def execBmov (d : BitVec 4) (a : BitVec 4) (σ : State) : Res :=
  issue σ .L (.bmov d a) Tok.none 1 (fun σ _ => onCore σ (fun c => c.setB d (c.getB a)))

/-- Compact `baddc` (R178): b[d] := b[d] + SignExtend(imm). -/
def execBaddc (d : BitVec 4) (i : BitVec 6) (σ : State) : Res :=
  issue σ .L (.baddc d i) Tok.none 1 (fun σ _ => onCore σ (fun c => c.setB d (c.getB d + i.signExtend 64)))

end Sys2Proof.Machine
end

