-- ==== Sys2Proof/Machine/Network.lean ====
section
/-! DEFINITION. Host, Relay and Ethernet (chapter 20): TDI states, packets of other packages and their acknowledgements,
link errors, connections and windows, and the packets, acknowledgements and timers of the Ultra Ethernet transport. -/

namespace Sys2Proof.Machine

open Sys2Proof

/-! ### TDI states (R343) -/

/-- The event TDI_STATE_CHANGE (R343): the TDI of partition p's function enters a state. In ERROR every access that waits on
the host faults "host page refused". A partition that the journal is about to change is not locked (R319, code 2; log entry 84). -/
def execTdiStateChange (p : Nat) (t : Tdi) (σ : State) : Res :=
  if 32 ≤ p ∨ ((t = .locked ∨ t = .run) ∧ σ.journal ≠ 0 ∧ σ.partChanges p) then .next σ
  else
    let s1 := { σ with tdi := Tab.set Tdi.unlocked σ.tdi p t }
    .next (if t = .error then (s1.preq.filter (fun r => r.part == p)).foldl State.refuseAll s1 else s1)

/-! ### Relay (R344–R347) -/

/-- Bytes of the payload of a message, or of the reply that it asks for (R344). -/
def Msg.payload : Msg → Nat
  | .store _ d => d.length
  | .load _ n => n
  | .amo _ _ n _ _ => n
  | .reply _ d => d.length
  | .collective _ _ _ _ _ _ _ _ d => d.length
  | _ => 0

/-- Whether a packet of package g for partition p that has been accepted has still to perform. -/
def State.undone (s : State) (g p : Nat) : Bool := s.inbox.any (fun e => e.1 == g && e.2.1 == p)

/-- What a received packet for partition p does here, and the reply that it asks for: `none` when it cannot perform now. A
message for the scheduler performs when the scheduler takes it; another waits for those before it (R346). -/
def State.perform (s : State) (g p : Nat) (m : Msg) : Option (State × Option Msg) :=
  let who := Agent.outside (numCores + 3) g
  let done (r : MRes) (f : List Byte → Option Msg) : Option (State × Option Msg) :=
    match r with
    | .ok s bs => some (s, f bs)
    | .fault _ _ => none
    | .wait _ => none
  match m with
  | .enqueue _ _ | .enqueueAck _ | .ready _ _ _ | .gangComplete _ _ =>
    some ({ s with inbox := s.inbox ++ [(g, p, m)] }, none)
  | .store a d => if s.undone g p then none else done (s.gWrite who p a 0 d) (fun _ => none)
  | .load a n => if s.undone g p then none else done (s.gRead who p a n 0) (fun bs => some (.reply a bs))
  | .amo a op n v w => if s.undone g p then none else done (s.gAcc who p a n 0 (.amo op n v w) false) (fun bs => some (.reply a bs))
  | .redf a bf r d v => if s.undone g p then none else done (s.gAcc who p a 4 0 (.redf bf r d v) false) (fun _ => none)
  | .reply _ _ => some (s, none)
  | .collective i tag n seq task shape off total d =>
    if s.undone g p then none else some (s.addContrib ⟨i, tag, n, seq, task, shape, d, total⟩ off, none)

/-- Acknowledges a packet. -/
def State.relayAcked (s : State) (g p n : Nat) : State := { s with out := .relayAck g p n :: s.out }

/-- The event RELAY_PACKET_RECEIVE (R344, R346): packet n of package g for partition p arrives, in a LINK slot of the partition
(R323). Only the next number is accepted; a duplicate is acknowledged and discarded, one ahead of a gap discarded. -/
def execRelayPacketReceive (g p n : Nat) (m : Msg) (σ : State) : Res :=
  let r := σ.pair g p
  if !σ.linkServes g p ∨ 2048 < m.payload then .next σ
  else if n < r.nextRx then .next (σ.relayAcked g p n)
  else if r.nextRx < n then .next σ
  else
    match σ.perform g p m with
    | none => .next σ
    | some (s1, reply) =>
      let s2 := (s1.setPair g p { s1.pair g p with nextRx := n + 1 }).relayAcked g p n
      .next (match reply with | some a => s2.relaySend g p a | none => s2)

/-- The event RELAY_ACK (R346): package g acknowledges packet n for partition p. -/
def execRelayAck (g p n : Nat) (σ : State) : Res :=
  let r := σ.pair g p
  .next (σ.setPair g p { r with unacked := r.unacked.filter (fun u => u.num != n) })

/-- The jobs of this package that live: partition and job. -/
def State.liveJobs (s : State) : List (Nat × Nat) :=
  (s.jobs.filter (fun e => e.2.count + e.2.sent != 0)).map (fun e => (e.1 / 65536, e.1 % 65536))

/-- Package g is unreachable (R346): the jobs that span it and this package fail with cause 15. -/
def State.unreachable (s : State) (g : Nat) : State :=
  let js := s.liveJobs.filter (fun j => (s.others j.1).contains g)
  js.foldl (fun s j => s.failJob j.1 j.2 15 0) (s.orReg lnkEvt 1)

/-- The event RELAY_RTO (R346): RTO passes with packet n to package g for partition p unacknowledged since it was sent: it is
resent, in a slot of its partition (R323); after 16 resends the destination is unreachable. -/
def execRelayRto (g p n : Nat) (σ : State) : Res :=
  let r := σ.pair g p
  match r.unacked.find? (fun u => u.num == n) with
  | none => .next σ
  | some x =>
    if r.unreachable ∨ x.waits then .next σ
    else if 16 ≤ x.resent then .next ((σ.setPair g p { r with unreachable := true }).unreachable g)
    else
      .next ((σ.setPair g p { r with
        unacked := r.unacked.map (fun u => if u.num = n then { u with resent := u.resent + 1, waits := true } else u) }).relayOut g p)

/-! ### Links (R324, R345, R346) -/

/-- Ports of the LINK class: 16 Relay links, and a comb-bridge port of each comb (R322, R344; log entry 14). -/
def linkPorts : Nat := 20

/-- The event FLIT_CRC_ERROR (R346): a flit of port i fails its check and is resent; the slots that this takes are lost
(R324): the present one, and as many further ones as the opaque choice says. -/
def execFlitCrcError (i : Nat) (σ : State) : Res :=
  if linkPorts ≤ i then .next σ
  else .next ((σ.setLink i { σ.link i with retries := (σ.link i).retries + 1 }).linkTakes i (Config.freeNat 11 σ.tick))

/-- The event LINK_RETRAIN (R346): port i retrains; its replay buffer is kept, and every slot until the retrain ends is lost. -/
def execLinkRetrain (i : Nat) (σ : State) : Res :=
  if linkPorts ≤ i then .next σ
  else
    let s1 := σ.linkTakes i 0
    .next (s1.setLink i { s1.link i with retraining := true, retrains := (σ.link i).retrains + 1 })

/-- A retrain of a port has ended: the slot in which it ends is its last. -/
def State.retrained (s : State) (i : Nat) (up : Bool) : State :=
  s.setLink i { s.link i with up := up, retraining := false, busy := max (s.link i).busy (s.slot + 1) }

/-- The event RETRAIN_TIMEOUT (R346): a retrain of port i fails or outlasts RTMAX; the packets partly sent or received on it
are dropped, and stay with their senders until acknowledged, and every route that takes the link fails over. -/
def execRetrainTimeout (i : Nat) (σ : State) : Res :=
  if linkPorts ≤ i ∨ !(σ.link i).retraining then .next σ
  else .next { σ.retrained i false with failed := σ.failed ++ [i] }

/-- The event LINK_RETRAIN_SUCCESS (R346): a retrain of port i succeeds, and the replay goes on. -/
def execLinkRetrainSuccess (i : Nat) (σ : State) : Res :=
  if linkPorts ≤ i ∨ !(σ.link i).retraining then .next σ else .next (σ.retrained i true)

/-! ### Connections and windows (R349, R353) -/

/-- The index that LNK_UE_IDX names: `win` for a window. -/
def State.ueIndex (s : State) (win : Bool) : Option Nat :=
  let x := (s.reg lnkUeIdx).toNat
  if (fld x 15 1 == 1) = win then some (fld x 0 (if win then 12 else 14)) else none

/-- The commands of a connection that have not delivered. -/
def State.connCmds (s : State) (n : Nat) : List ECmd :=
  s.ecmds.filter (fun c => c.cls == 5 && c.f 0 24 == n && !c.delivered)

/-- Ends the commands of a connection without parking their cores (R353). -/
def State.endConn (s : State) (n : Nat) : State :=
  let cs := s.connCmds n
  (cs.map (·.eng)).foldl State.mayDoze (cs.foldl (fun s c => s.endCommand c false) s)

/-- A connection's entry, with fresh transport state. -/
def State.setConn (s : State) (n : Nat) (x : BitVec 128) : State :=
  { s with ueConn := Tab.set 0 s.ueConn n x, ueState := Tab.set UeConn.fresh s.ueState n UeConn.fresh }

/-- Closes a connection. -/
def State.closeConn (s : State) (n : Nat) (x : BitVec 128) : State := (s.endConn n).setConn n x

/-- A write of LNK_UE_CONN for connection n; its zero bits are reserved (R5). -/
def State.writeConn (s : State) (n : Nat) (x0 : BitVec 128) : State :=
  let v := x0.toNat / 2 ^ 40 * 2 ^ 40
  let x := BitVec.ofNat 128 v
  let st := fld v 40 2
  if 2 ≤ st ∨ fld v 48 2 = 3 ∨ (st = 1 ∧ fld (s.conn n) 40 2 = 1) then s.orReg lnkEvt 4
  else if st = 0 ∧ fld (s.conn n) 40 2 ≠ 0 then s.closeConn n x
  else s.setConn n x

/-- The event UE_CONN_OPEN (R349, R353): system software writes the entry of connection i, which LNK_UE_IDX names. -/
def execUeConnOpen (i : Nat) (x : BitVec 128) (σ : State) : Res :=
  .next (σ.bar (if σ.ueIndex false = some i then σ.writeConn i x else σ))

/-- The event UE_CONN_CLOSE (R353): system software closes connection i: ST of its entry is written 0. -/
def execUeConnClose (i : Nat) (σ : State) : Res :=
  let x := σ.conn i
  .next (σ.bar (
    if σ.ueIndex false = some i ∧ fld x 40 2 ≠ 0 then σ.closeConn i (BitVec.ofNat 128 (x - fld x 40 2 * 2 ^ 40)) else σ))

/-- The event UE_WINDOW_WRITE (R349, Table 20.4): system software writes the entry of window i; its zero bit is reserved (R5). -/
def execUeWindowWrite (i : Nat) (x : BitVec 128) (σ : State) : Res :=
  let v := x.toNat
  .next (σ.bar (
    if σ.ueIndex true ≠ some i then σ
    else if fld v 0 1 = 1 ∧ fld v 8 32 = 0 then σ.orReg lnkEvt 4
    else { σ with ueWin := Tab.set 0 σ.ueWin i (x &&& ~~~2#128) }))

/-- A connection enters error (R350): its commands never deliver, and LNK_EVT.UECERR is set. -/
def State.connError (s : State) (n : Nat) : State :=
  let x := s.conn n
  let ids := (s.connCmds n).map (·.id)
  State.orReg
    { s with
      ueConn := Tab.set 0 s.ueConn n (BitVec.ofNat 128 (x - fld x 40 2 * 2 ^ 40 + 2 ^ 41))
      ueState := Tab.set UeConn.fresh s.ueState n { s.ue n with unacked := [], posts := [] }
      ecmds := s.ecmds.map (fun c => if ids.contains c.id then { c with dead := true } else c) } lnkEvt 2

/-- Whether the present slot lets the network engines serve a connection: its partition owns it in the ENG table of a comb, and no
rule says which comb's engines serve a connection (R322, R323; log entry 86). -/
def State.ueServes (s : State) (n : Nat) : Bool :=
  [0, 1, 2, 3].any (fun comb => s.slotOwner comb 2 (s.slot % 512) == some (connPart (s.conn n)))

/-! ### The receiver (R350) -/

/-- The acknowledgement of a connection: C, and bit i for packet C + 1 + i. -/
def UeConn.bitmap (u : UeConn) : BitVec 64 :=
  BitVec.ofNat 64 ((List.range 64).foldl (fun a i => if u.rxDone.contains (u.rxBase + 1 + i) then a + 2 ^ i else a) 0)

/-- Sends an acknowledgement. -/
def State.ueAck (s : State) (n : Nat) : State := { s with out := .ueAck n (s.ue n).rxBase (s.ue n).bitmap :: s.out }

/-- C moves past the packets that have performed; `fuel` bounds the moves. -/
def UeConn.slide : Nat → UeConn → UeConn
  | 0, u => u
  | k + 1, u =>
    if u.rxDone.contains u.rxBase then
      UeConn.slide k { u with rxDone := u.rxDone.filter (· != u.rxBase), rxBase := u.rxBase + 1 }
    else u

/-- A packet has been accepted: the next one is expected (R350). -/
def UeConn.accepted (u : UeConn) (seq : Nat) : UeConn := { u with rxNext := max u.rxNext (seq + 1) }

/-- A packet whose bytes have performed. -/
def UeConn.received (u : UeConn) (seq : Nat) : UeConn :=
  UeConn.slide (u.rxDone.length + 1) { u.accepted seq with rxDone := seq :: u.rxDone }

/-- Where a packet is placed. -/
inductive Spot where
  | at (addr : Nat) (post : Option UePost)
  | drop
  | error

/-- Whether the command of a post may still write: it has not ended. -/
def State.postLives (s : State) (q : UePost) : Bool := s.ecmds.any (fun c => c.id == q.cmd && !c.dead)

/-- The placement address of a packet (R350): the window that its key names, or the post that its message binds. -/
def State.placeOf (s : State) (n : Nat) (k : UePacket) : Spot :=
  let p := connPart (s.conn n)
  if k.write then
    match s.ueWin.find? (fun e => fld e.2.toNat 0 1 == 1 && fld e.2.toNat 96 32 == k.tag && fld e.2.toNat 3 5 == p) with
    | none => .error
    | some (_, w) =>
      if fld w.toNat 2 1 = 0 ∨ fld w.toNat 8 32 < k.off + k.data.length then .error else .at (fld w.toNat 40 56 + k.off) none
  else
    let u := s.ue n
    match u.posts.find? (fun q => q.msg == some k.msg) with
    | some q => if q.cap < k.off + k.data.length then .error else if s.postLives q then .at (q.addr + k.off) (some q) else .drop
    | none =>
      if k.msg ≠ u.bound then .drop
      else
        match u.posts.find? (fun q => q.msg.isNone && q.tag == k.tag && s.postLives q) with
        | none => .drop
        | some q => if q.cap < max k.total (k.off + k.data.length) then .error else .at (q.addr + k.off) (some q)

/-- Translates the granules of a placement; none when one of them cannot be placed now. -/
def State.placeRuns (n p : Nat) : List Grain → State → List Grain → State × Option (List Grain)
  | [], s, gs => (s, some gs)
  | g :: r, s, gs =>
    match s.prepare (numCores + 1, n) p g.addr g.n .write g.whole with
    | .ok s x => State.placeRuns n p r s (gs ++ [{ g with phys := some x.place }])
    | .fault s _ => (s, none)
    | .wait s => (s, none)

/-- The bytes that a placement writes to a granule. -/
def UePacket.bytes (k : UePacket) (g : Grain) : Option (List Byte) := some (part k.data g.pos g.n)

/-- The writes of a placement on connection n, as the owning partition's: granules to be written, of those that are left. -/
def State.writePlaced (n p : Nat) (k : UePacket) : List Grain → State → List Grain → State × List Grain
  | [], s, ds => (s, ds)
  | g :: gs, s, ds =>
    if !ds.contains g then State.writePlaced n p k gs s ds
    else
      match s.landing k.bytes ds g with
      | none => State.writePlaced n p k gs s ds
      | some (h, d, whole, rest) =>
        match h.phys with
        | none => State.writePlaced n p k gs s rest
        | some t =>
          match s.writeTo (Agent.outside (numCores + 1) n) p h.addr 0 t d whole with
          | .ok s _ => State.writePlaced n p k gs s rest
          | .fault s _ => State.writePlaced n p k gs s ds
          | .wait s => State.writePlaced n p k gs s ds

/-- Binds a message to a post, with its first packet. -/
def UeConn.bind (u : UeConn) (q : UePost) (k : UePacket) : UeConn :=
  if q.msg.isSome then u
  else
    { u with
      bound := u.bound + 1
      posts := u.posts.map (fun x => if x.cmd = q.cmd then { x with msg := some k.msg, total := k.total } else x) }

/-- Counts the bytes of a packet that have performed. -/
def UeConn.count (u : UeConn) (q : UePost) (n : Nat) : UeConn :=
  { u with posts := u.posts.map (fun x => if x.cmd = q.cmd then { x with got := x.got + n } else x) }

/-- The event UE_PACKET_RECEIVE (R350): a packet arrives on connection c. It is translated whole before any of its bytes is
placed; some granules land now, and the packet has performed, and is acknowledged, when all have; on an ordered connection the next may be
accepted before that (R351). A packet of the collective
engines adds to a contribution (R352; log entry 67). -/
def execUePacketReceive (c : Nat) (k : UePacket) (σ : State) : Res :=
  let u := σ.ue c
  let p := connPart (σ.conn c)
  if !connOpen (σ.conn c) ∨ !σ.ueServes c then .next σ
  else if k.seq < u.rxBase ∨ u.rxDone.contains k.seq then .next (σ.ueAck c)
  else if connRod (σ.conn c) ∧ u.rxNext < k.seq then .next σ
  else if 2 ^ 14 ≤ c then
    let s1 := σ.addContrib k.contrib k.off
    .next ((s1.setUe c (u.received k.seq)).ueAck c)
  else
    match σ.placeOf c k with
    | .drop => .next σ
    | .error => .next (σ.connError c)
    | .at a q =>
      match State.placeRuns c p (rowGrains .G true [(a, k.data.length)]) σ [] with
      | (s1, none) => .next s1
      | (s1, some gs) =>
        let (s2, later) := State.writePlaced c p k (chosen s1.tick gs 0).1 (s1.setUe c ((s1.ue c).accepted k.seq)) gs
        let s3 := match q with | some q => s2.setUe c ((s2.ue c).bind q k) | none => s2
        if later.isEmpty then
          let u1 := match q with | some q => (s3.ue c).count q k.data.length | none => s3.ue c
          .next ((s3.setUe c (u1.received k.seq)).ueAck c)
        else .next s3

/-! ### The sender (R350) -/

/-- Whether an acknowledgement covers a packet. -/
def acked (n : Nat) (b : BitVec 64) (seq : Nat) : Bool :=
  decide (seq < n) || (decide (n < seq ∧ seq ≤ n + 64) && b.getLsbD (seq - n - 1))

/-- The event UE_ACK_RECEIVE (R350): an acknowledgement with C = n and bitmap b arrives on connection c. The packets it
covers are done; a packet below one that it shows received starts its reorder timer, once. -/
def execUeAckReceive (c n : Nat) (b : BitVec 64) (σ : State) : Res :=
  if !connOpen (σ.conn c) ∨ !σ.ueServes c then .next σ
  else
    let u := σ.ue c
    let gap (seq : Nat) : Bool := (List.range 64).any (fun i => b.getLsbD i && decide (seq < n + 1 + i))
    .next (σ.setUe c
      { u with
        unacked := (u.unacked.filter (fun x => !acked n b x.pkt.seq)).map (fun x =>
          if gap x.pkt.seq ∧ !x.timer then { x with timer := true, running := true } else x) })

/-- Resends packets of connection c; one that has been resent 16 times puts the connection in error. -/
def State.resend (s : State) (c : Nat) : List Nat → State
  | [] => s
  | q :: r =>
    if !connOpen (s.conn c) then s
    else
      let u := s.ue c
      match u.unacked.find? (fun x => x.pkt.seq == q) with
      | none => s.resend c r
      | some x =>
        if 16 ≤ x.resent then s.connError c
        else
          State.resend
            { s.setUe c
                { u with unacked := u.unacked.map (fun y => if y.pkt.seq = q then { y with resent := y.resent + 1 } else y) } with
              out := .ue c x.pkt :: s.out } c r

/-- The packets to resend when packet n is due: RUD that packet, ROD from the first unacknowledged one. -/
def State.resendFrom (s : State) (c n : Nat) : State :=
  s.resend c (if connRod (s.conn c) then (s.ue c).unacked.map (·.pkt.seq) else [n])

/-- The event UE_REORDER_TIMEOUT (R350): REORD has passed since an acknowledgement showed a gap at packet n. -/
def execUeReorderTimeout (c n : Nat) (σ : State) : Res :=
  let u := σ.ue c
  if connOpen (σ.conn c) ∧ σ.ueServes c ∧ u.unacked.any (fun x => x.pkt.seq == n && x.running) then
    .next (State.resendFrom
      (σ.setUe c { u with unacked := u.unacked.map (fun x => if x.pkt.seq = n then { x with running := false } else x) }) c n)
  else .next σ

/-- The event UE_RTO (R350): packet n of connection c has been unacknowledged for RTO since it was last sent. -/
def execUeRto (c n : Nat) (σ : State) : Res :=
  if connOpen (σ.conn c) ∧ σ.ueServes c ∧ (σ.ue c).unacked.any (fun x => x.pkt.seq == n) then .next (σ.resendFrom c n)
  else .next σ

end Sys2Proof.Machine
end

