-- ==== Sys2Proof/Machine/Manage.lean ====
section
/-! DEFINITION. Bring-up and firmware (R359–R361), the management processor's watchdog (R362), attestation (R364), and errors,
spares and replay (R366–R368). -/

namespace Sys2Proof.Machine

open Sys2Proof

/-! ### Management registers -/

/-- Sets bits of MGT_RAS_EVT. -/
def State.ras (s : State) (m : BitVec 64) : State := s.orReg mgtRasEvt m

/-- Phase of the cold reset. -/
def State.phase (s : State) : Nat := s.regF mgtStat 0 3
def State.setPhase (s : State) (n : Nat) : State := s.setRegF mgtStat 0 3 n

/-- Retired cores of a cluster, and retired slices of a comb (R367). -/
def State.retiredIn (s : State) (cl : Nat) : Nat := (s.mgmt.retired.filter (fun v => clusterOf v == cl)).length
def State.slicesIn (s : State) (comb : Nat) : Nat := (s.mgmt.slices.filter (fun e => e.1 == comb)).length

/-- MGT_STAT.REPLACE is set, and its event raised. -/
def State.askReplace (s : State) : State := (s.setRegF mgtStat 5 1 1).ras 0x10

/-- Whether a spare pool is empty or a cluster accepts no placement (R367). -/
def State.spent (s : State) : Bool :=
  !s.mgmt.closed.isEmpty || (List.range 48).any (fun c => decide (2 ≤ s.retiredIn c)) ||
    (List.range 4).any (fun c => decide (4 ≤ s.slicesIn c))

def State.replaceCheck (s : State) : State := if s.spent then s.askReplace else s

/-! ### Cold reset (R359, Table 22.1) -/

/-- Whether the boot ROM accepts an image: a security version is 32 bits of its header (R360). -/
def State.accepts (s : State) (m : Image) : Bool :=
  m.ecdsaOk && m.lmsOk && decide (m.version < 2 ^ 32) && decide (s.mgmt.minVersion ≤ m.version)

/-- The image that the boot ROM chooses, and whether it is slot B's: the slot of the last successful boot first (R360), unless
the other slot has been written since (R361; log entry 69). -/
def State.chooseImage (s : State) : Option (Image × Bool) :=
  let a := s.mgmt.imageA.filter s.accepts |>.map (·, false)
  let b := s.mgmt.imageB.filter s.accepts |>.map (·, true)
  if s.mgmt.lastB != s.mgmt.newImage then b.or a else a.or b

/-- Phase 1: the image runs, or RECOV is set. A newly written image has then been tried. -/
def State.bootRom (s : State) : State :=
  match s.chooseImage with
  | some (m, b) =>
    { (s.setPhase 1).setRegF mgtStat 4 1 (if b then 1 else 0) with
      mgmt := { s.mgmt with running := some m, runningB := b, newImage := false } }
  | none => { (s.setPhase 1).setRegF mgtStat 3 1 1 with mgmt := { s.mgmt with running := none, newImage := false } }

/-- Phase 0: everything but flash, fuses, the spare map, DRAM and what lies outside the device starts anew. -/
def State.powerGood (s : State) : State :=
  { State.reset with
    tick := s.tick
    turn := s.turn
    fresh := s.fresh
    keyNo := s.keyNo
    mem := s.mem
    dramBad := s.dramBad
    hostMem := s.hostMem
    mgmt := { s.mgmt with running := none, runningB := false, wdtFrom := 0, ceTimes := [] }
    out := s.out }

/-- The event COLD_RESET (R359): the next phase of a cold reset is reached; at phase 5, or in recovery, a cold reset begins
anew. Phase 2 generates the device key and zeroes SRAM; phase 3 resets the cap records and the on-die roots; phase 4 starts
the firmware; phase 5 opens BAR0. -/
def execColdReset (σ : State) : Res :=
  .next (
    match σ.phase with
    | 0 => σ.bootRom
    | 1 =>
      if σ.mgmt.running.isSome then State.replaceCheck { σ.setPhase 2 with keyNo := σ.keyNo + 1, devKey := σ.keyNo + 1 }
      else σ.powerGood
    | 2 => { σ.setPhase 3 with seals := [], fails := [], failing := [], capBlk := [], capCache := [] }
    | 3 => { σ.setPhase 4 with mgmt := { σ.mgmt with wdtFrom := 0 } }
    | 4 =>
      { σ.setPhase 5 with
        clock := 0
        slot := 0
        slotFrac := 0
        lap := 0
        links := σ.links.map (fun e => (e.1, { e.2 with busy := 0 }))
        mgmt := { σ.mgmt with lastB := σ.mgmt.runningB, wdtFrom := 0 } }
    | _ => σ.powerGood)

/-- Puts an image into a flash slot. -/
def Mgmt.store (m : Mgmt) (b : Bool) (i : Image) : Mgmt := if b then { m with imageB := some i } else { m with imageA := some i }

/-- The event FIRMWARE_UPLOAD (R360, R361): an image is uploaded. At phase 5 it goes to the inactive slot, for the next cold
reset. In recovery it runs if the boot ROM accepts it; the slot it takes is left open. -/
def execFirmwareUpload (m : Image) (σ : State) : Res :=
  .next (
    if σ.phase = 5 then { σ with mgmt := { σ.mgmt.store (!σ.mgmt.runningB) m with newImage := true } }
    else if σ.phase = 1 ∧ σ.regF mgtStat 3 1 = 1 ∧ σ.accepts m then
      let b := Config.freeNat 14 σ.tick % 2 == 1
      { (σ.setRegF mgtStat 3 1 0).setRegF mgtStat 4 1 (if b then 1 else 0) with
        mgmt := { σ.mgmt.store b m with running := some m, runningB := b } }
    else σ)

/-- The event FIRMWARE_COMMIT (R361): the firmware writes MGT_FWCMT: the fused minimum rises to the running version. -/
def execFirmwareCommit (σ : State) : Res :=
  .next (σ.bar (
    match σ.mgmt.running with
    | none => σ
    | some m => { σ with mgmt := { σ.mgmt with minVersion := max σ.mgmt.minVersion m.version } }))

/-! ### The watchdog (R362) -/

/-- The event WATCHDOG_KICK (R362): KICK is written, and the watchdog starts anew. -/
def execWatchdogKick (σ : State) : Res := .next (σ.bar { σ with mgmt := { σ.mgmt with wdtFrom := σ.clock } })

/-- The fewest C-cycles of a millisecond: at the longest stretch (R325). -/
def msCycles : Nat := 350000

/-- The event WATCHDOG_EXPIRY (R362, R320): PERIOD passes without a kick: the management processor alone is reset. -/
def execWatchdogExpiry (σ : State) : Res :=
  if σ.phase < 4 ∨ σ.clock < σ.mgmt.wdtFrom + msCycles * σ.regF mgtWdt 0 16 then .next σ
  else
    match execMpReset σ with
    | .next s => .next { s.ras 0x20 with mgmt := { s.mgmt with wdtFrom := s.clock } }
    | r => r

/-! ### Attestation (R364) -/

def Spdm.fresh : Spdm := ⟨false, false, false, 0⟩
def State.spdmOf (s : State) (f : Nat) : Spdm := Tab.get Spdm.fresh s.spdm f
def State.setSpdm (s : State) (f : Nat) (x : Spdm) : State := { s with spdm := Tab.set Spdm.fresh s.spdm f x }

/-- The content of a measurement (Table 22.2); a digest stands as a number. The spare map is the number of retired cores, the
cores that they presented, and the comb and place of each retired slice. -/
def State.measure (s : State) (i : Nat) : Option (List Nat) :=
  match i with
  | 1 => some [Config.freeNat 15 0]
  | 2 => some [(match s.mgmt.running with | some m => m.digest | none => 0), if s.mgmt.runningB then 1 else 0]
  | 3 => some [(match s.mgmt.running with | some m => m.version | none => 0), s.mgmt.minVersion]
  | 4 =>
    some ((List.range 48).map (fun c => s.regByte (prtClAct + c)) ++
      (List.range 32).flatMap (fun p => [0, 1].map (fun t => (s.reg (prtActRange p t)).toNat)) ++
      (List.range 32).map (fun p => (s.reg (prtActWfloor p)).toNat) ++
      (List.range 4).flatMap (fun c => (List.range 4).flatMap (fun k => (List.range 512).map (fun i => s.regByte (calActive c k + i)))) ++
      [s.regF prtJrnl 16 16])
  | 5 => some [(s.reg schFeat).toNat]
  | 6 => some (s.mgmt.retired.length :: s.mgmt.retired ++ s.mgmt.slices.flatMap (fun e => [e.1, e.2]))
  | _ => none

/-- Answers a request of function f (0 the physical function, p + 1 the function of partition p). Function, version or state
that the device does not serve is refused. -/
def State.answer (s : State) (f : Nat) (x : SpdmReq) (req : Nat) (ok : Bool) (content : Option (List Nat)) (st : Spdm) : State :=
  if 33 ≤ f ∨ !s.barOpen then s
  else if ok ∧ (x.version = 0x12 ∨ x.version = 0x13) ∧ content.isSome then
    { s.setSpdm f st with out := .spdm f req content :: s.out }
  else { s with out := .spdm f req none :: s.out }

/-- The event GET_VERSION (R364): versions 1.2 and 1.3; the exchange starts anew. -/
def execGetVersion (f : Nat) (x : SpdmReq) (σ : State) : Res :=
  .next (σ.answer f { x with version := 0x12 } 0x84 true (some [0x12, 0x13]) { Spdm.fresh with version := true })

/-- The event GET_CAPABILITIES (R364). -/
def execGetCapabilities (f : Nat) (x : SpdmReq) (σ : State) : Res :=
  let v := σ.spdmOf f
  .next (σ.answer f x 0xE1 v.version (some []) { v with caps := true })

/-- The event NEGOTIATE_ALGORITHMS (R364): ECDSA P-384 and SHA-384 only. -/
def execNegotiateAlgorithms (f : Nat) (x : SpdmReq) (σ : State) : Res :=
  let v := σ.spdmOf f
  .next (σ.answer f x 0xE3 (v.caps && x.p384 && x.sha384) (some []) { v with algs := true })

/-- The event GET_DIGESTS (R364). -/
def execGetDigests (f : Nat) (x : SpdmReq) (σ : State) : Res :=
  let v := σ.spdmOf f
  .next (σ.answer f x 0x81 v.algs (some [Config.freeNat 15 1]) v)

/-- The event GET_CERTIFICATE (R364). -/
def execGetCertificate (f : Nat) (x : SpdmReq) (σ : State) : Res :=
  let v := σ.spdmOf f
  .next (σ.answer f x 0x82 v.algs (some [Config.freeNat 15 (2 + x.param)]) v)

/-- The event CHALLENGE (R364): signed with the identity key. -/
def execChallenge (f : Nat) (x : SpdmReq) (σ : State) : Res :=
  let v := σ.spdmOf f
  .next (σ.answer f x 0x83 v.algs (some [Config.freeNat 18 σ.tick]) v)

/-- The event GET_MEASUREMENTS (R364, Table 22.2): an index that is not listed is absent. -/
def execGetMeasurements (f : Nat) (x : SpdmReq) (σ : State) : Res :=
  let v := σ.spdmOf f
  .next (σ.answer f x 0xE0 v.algs (σ.measure x.param) v)

/-- The event KEY_EXCHANGE (R364): a session is opened. -/
def execKeyExchange (f : Nat) (x : SpdmReq) (σ : State) : Res :=
  let v := σ.spdmOf f
  .next (σ.answer f x 0xE4 v.algs (some [Config.freeNat 18 σ.tick]) { v with sessions := v.sessions + 1 })

/-! ### Corrected errors (R366, R367) -/

/-- C-cycles of an hour at the least and at the most (R1, R325). -/
def hourMin : Nat := msCycles * 3600000
def hourMax : Nat := 1400000 * 3600000

/-- The event ECC_CORRECTED (R366, R367): an error is corrected. MGT_RAS_CE advances, saturating; more than MGT_CEMAX in an
hour ask for replacement. Whether corrections between the least and the most cycles of an hour count is left open. -/
def execEccCorrected (σ : State) : Res :=
  let ts := σ.clock :: σ.mgmt.ceTimes.filter (fun t => decide (σ.clock ≤ t + hourMax))
  let max' := (σ.reg mgtCemax).toNat
  let sure := decide (max' < (ts.filter (fun t => decide (σ.clock ≤ t + hourMin))).length)
  let may := decide (max' < ts.length) && Config.freeNat 19 σ.tick % 2 == 1
  let s1 := { σ.setReg mgtRasCe (BitVec.ofNat 64 (min ((σ.reg mgtRasCe).toNat + 1) (2 ^ 32 - 1))) with
    mgmt := { σ.mgmt with ceTimes := ts } }
  .next (if sure || may then s1.askReplace else s1)

/-! ### Uncorrectable errors (R366–R368) -/

/-- A dirty tile is lost (R366): every live job of its owner fails with cause 14. -/
def State.loseTile (s : State) (t : Nat) : State :=
  let js : List (Nat × Nat) := match s.ownerOf (1024 * t) with | none => [] | some p => s.liveJobs.filter (fun j => j.1 == p)
  js.foldl (fun s j => s.failJob j.1 j.2 14 0) ((s.dropTile t).ras 2)

/-- Whether the task of core v, whose core has just been retired, may be replayed (R368). -/
def State.replays (s : State) (v : Nat) (t : Task) (x : Node) : Bool :=
  fld (recFeat x.record) 5 1 == 1 && !x.replayed.contains t.taskid && decide (s.retiredIn (clusterOf v) ≤ 2)

/-- Replays the task of core v on a spare core (R368): afresh from its loop record, its budget restarted. Nothing that the
failed attempt waited for is left, nor what it gave to a collective; its accesses come before the replay's for all. -/
def State.replay (s : State) (v : Nat) (t : Task) (x : Node) : State :=
  let s1 := (((s.dropCommands v).clearAllMarks v).leaveReqs v).note (s.taskEv v .done)
  let s2 := s1.setNode t.node { x with replayed := x.replayed ++ [t.taskid] }
  let t1 : Task := { t with had := 0, hran := 0, hfrom := 0 }
  { s2.beginTask v t1 x.record ((s.core v).seed :: x.preds) with
    colls := s2.colls.filter (fun e => e.1 != v)
    contribs := s2.contribs.filter (fun e => e.inst != x.inst || e.task != t.taskid) }

/-- A core is retired (R366, R367): its task is replayed, or abandoned with its job failed (cause 14). -/
def State.retireCore (s : State) (v : Nat) : State :=
  let cl := clusterOf v
  let s1 : State := { s.ras 1 with mgmt := { s.mgmt with retired := s.mgmt.retired ++ [v] } }
  let s2 : State :=
    if s1.retiredIn cl ≤ 2 then s1.ras 4
    else { s1 with mgmt := { s1.mgmt with closed := if s1.mgmt.closed.contains cl then s1.mgmt.closed else s1.mgmt.closed ++ [cl] } }
  let s3 := s2.replaceCheck
  match (s3.core v).task with
  | none => s3
  | some t =>
    match s3.nodeAt t.node with
    | none => (s3.dropCommands v).finishTask v
    | some x =>
      if s3.replays v t x then s3.replay v t x
      else ((s3.dropCommands v).failJob t.part x.job 14 t.node).finishTask v

/-- A slice of a comb that it has not lost: which one fails is left open. -/
def State.someSlice (s : State) (comb : Nat) : Nat :=
  let left := (List.range slicesPerComb).filter (fun i => !(s.lostSlices comb).contains i)
  left.getD (Config.freeNat 17 s.tick % left.length) 0

/-- A slice is retired (R367): replaced by a spare of its comb; from the fifth on, its tiles are written back and its addresses
rehomed. -/
def State.retireSlice (s : State) (comb : Nat) : State :=
  let k := s.someSlice comb
  let keep (s : State) : State := { s with mgmt := { s.mgmt with slices := s.mgmt.slices ++ [(comb, k)] } }
  let s2 :=
    if s.slicesIn comb < 4 then (keep s).ras 8
    else
      let ts := (s.l2.filter (fun t => (s.home t.tile).1 == comb && (s.home t.tile).2.1 == k)).map (·.tile)
      keep (ts.foldl State.bypassed s)
  s2.replaceCheck

/-- The event UNCORRECTABLE_ERROR (R366): an error that ECC cannot correct, by the place where it is found. -/
def execUncorrectableError (u : UePlace) (σ : State) : Res :=
  .next (
    match u with
    | .dramRead t => if σ.dramBad.contains t then σ else { σ with dramBad := σ.dramBad ++ [t] }
    | .l2Clean t =>
      if σ.l2.any (fun x => x.tile == t && !x.dirty) then
        let s1 := σ.dropTile t
        if s1.verifies t then σ else s1.fillFails t
      else σ
    | .l2Dirty t => if σ.l2.any (fun x => x.tile == t && x.dirty) then σ.loseTile t else σ
    | .core v => if v < numCores then σ.retireCore v else σ
    | .l2Slice c => if c < 4 then σ.retireSlice c else σ)

end Sys2Proof.Machine
end

