-- ==== Sys2Proof/Machine/Epilogue.lean ====
section
/-! DEFINITION. The epilogue processor (R144, R208–R210): the checks of a program and its effect on one row. -/

namespace Sys2Proof.Machine

open Sys2Proof

/-- A field of a micro-instruction (Table 6.12). -/
def mf (w : BitVec 32) (lo n : Nat) : Nat := fld w.toNat lo n

/-- Formats that `ewr` accepts (Table 6.13). -/
def ewrFmtOk (f : Nat) : Bool := decide (f ≤ 9) || decide (18 ≤ f ∧ f ≤ 25)

/-- The checks of one micro-instruction (R144): unused fields zero, RND and FMT legal. -/
def microOk (w : BitVec 32) : Bool :=
  let ed := mf w 25 3
  let ea := mf w 22 3
  let eb := mf w 19 3
  let rnd := mf w 16 3
  let sf := mf w 10 6
  let imm := mf w 0 10
  match mf w 28 4 with
  | 0 => mf w 0 28 == 0
  | 1 => mf w 0 25 == 0
  | 2 | 3 | 4 | 5 => mf w 0 16 == 0 && decide (rnd ≤ 5)
  | 6 | 7 => mf w 0 19 == 0
  | 8 | 14 => mf w 0 22 == 0
  | 9 => eb == 0 && mf w 0 16 == 0 && decide (rnd ≤ 4)
  | 10 => eb == 0 && mf w 0 16 == 0 && decide (rnd ≤ 5)
  | 11 | 12 | 13 => ea == 0 && eb == 0 && rnd == 0 && sf == 0
  | _ =>
    ed == 0 && eb == 0 && imm == 0 && decide (rnd ≤ 5) && ewrFmtOk (mf w 10 5) && !(rnd == 5 && mf w 10 5 == 0)

/-- A program that may be loaded (R210): every micro-instruction passes, and exactly one is an `ewr`. -/
def programOk (p : List (BitVec 32)) : Bool := p.all microOk && (p.filter (fun w => mf w 28 4 == 15)).length == 1

/-- Whether a micro-instruction rounds with RDI (R210). -/
def usesRdi (w : BitVec 32) : Bool :=
  mf w 16 3 == 5 && (match mf w 28 4 with | 2 => true | 3 => true | 4 => true | 5 => true | 10 => true | 15 => true | _ => false)

/-- The format of a program's `ewr`. -/
def ewrFmt (p : List (BitVec 32)) : EF :=
  match p.find? (fun w => mf w 28 4 == 15) with
  | some w => (EF.ofCode (mf w 10 5)).getD .f64
  | none => .f64

/-- Lanes and lane width of a tile row by drain type (R193, R208). -/
def DType.lanes (t : DType) : Nat := match t with | .f64 => 32 | _ => 64
def DType.width (t : DType) : Nat := match t with | .f64 => 64 | _ => 32

/-- The working state of a row: the e-registers and the row written. -/
structure Epi where
  e : Vector Row 8
  out : List Byte

/-- e[n]. -/
def Epi.get (s : Epi) (n : Nat) : Row := if h : n < 8 then s.e[n] else 0

/-- Sets e[n] lane by lane. -/
def Epi.set (s : Epi) (t : DType) (n : Nat) (f : Nat → Nat) : Epi :=
  if h : n < 8 then { s with e := s.e.set n (rowBuild 0 t.width t.lanes f) h } else s

/-- `erelu`: a NaN gives the canonical NaN. -/
def relu (f : FFmt) (x : Nat) : Nat :=
  let v := f.decode x
  if v.isNan then f.nan else if v.isZero || v.neg then 0 else x

/-- `eabs`. -/
def fabs (f : FFmt) (x : Nat) : Nat := if (f.decode x).isNan then f.nan else x % 2 ^ (f.eb + f.fb)

/-- One micro-instruction on row i of a tile (Table 9.5). -/
def Epi.micro (c : Core) (t : DType) (i : Nat) (dph : BitVec 8) (row : Row) (s : Epi) (w : BitVec 32) : Epi :=
  let f64 := t == .f64
  let f := laneFmt f64
  let ed := mf w 25 3
  let a := s.get (mf w 22 3)
  let b := s.get (mf w 19 3)
  let d := s.get ed
  let mode (j : Nat) : Rnd := Rnd.ofCode (mf w 16 3) (dither dph i j)
  let lane (r : Row) (j : Nat) : Nat := rowElem r t.width j
  let ar (op : FOp) : Epi := s.set t ed (fun j => (op.run f (mode j) (lane a j) (lane b j) (lane d j)).1)
  let imm := mf w 0 10
  match mf w 28 4 with
  | 0 => s
  | 1 => s.set t ed (fun j => if t = .i32 then (convert .i32 .f32 .rne false (lane row j)).1 else lane row j)
  | 2 => ar .add
  | 3 => ar .sub
  | 4 => ar .mul
  | 5 => ar .fma
  | 6 => s.set t ed (fun j => (fminmax f false (lane a j) (lane b j)).1)
  | 7 => s.set t ed (fun j => (fminmax f true (lane a j) (lane b j)).1)
  | 8 => s.set t ed (fun j => relu f (lane a j))
  | 9 => s.set t ed (fun j => (specialRun .exp2 f64 (mf w 16 3) (lane a j)).1)
  | 10 => s.set t ed (fun j => (FOp.rcp.run f (mode j) (lane a j) 0 0).1)
  | 11 => s.set t ed (fun j => lane (rowOfBytes (c.bytes .W (256 * imm) 256)) j)
  | 12 => s.set t ed (fun j => lane (rowOfBytes (c.bytes .S (256 * imm) 256)) j)
  | 13 =>
    let x := leNat (c.bytes .S (4 * imm) 4)
    s.set t ed (fun _ => if f64 then (convert .f32 .f64 .rne false x).1 else x)
  | 14 => s.set t ed (fun j => fabs f (lane a j))
  | _ =>
    let df := (EF.ofCode (mf w 10 5)).getD .f64
    let src : EF := if f64 then .f64 else .f32
    let x (j : Nat) : Nat := (convert src df (mode j) (mf w 15 1 == 1) (lane a j)).1
    let n := (List.range t.lanes).foldl (fun n j => n + x j % 2 ^ df.width * 2 ^ (df.width * j)) 0
    { s with out := leBytes (t.lanes * df.width / 8) n }

/-- A program on row i of a tile: every e-register starts at +0 (R208). -/
def runProgram (c : Core) (t : DType) (i : Nat) (dph : BitVec 8) (row : Row) (p : List (BitVec 32)) : Epi :=
  p.foldl (Epi.micro c t i dph row) ⟨Vector.replicate 8 0, []⟩

/-- Bytes of one destination row of a drain (R205). -/
def drainLen (t : DType) (prog : Option (List (BitVec 32))) : Nat :=
  match prog with | none => 256 | some p => t.lanes * (ewrFmt p).width / 8

end Sys2Proof.Machine
end

