-- ==== Sys2Proof/Machine/Matrix.lean ====
section
/-! DEFINITION. The matrix stream (R193–R211): descriptors and their checks, `mma` and `mmat`, tile clear and load, drains
and `eload`; and the events at which M instructions finish and drains run. -/

namespace Sys2Proof.Machine

open Sys2Proof

/-! ### Descriptors (Tables 9.1, 9.2) -/

def desAfmt (d : BitVec 64) : Nat := fld d.toNat 59 5
def desBfmt (d : BitVec 64) : Nat := fld d.toNat 54 5
def desAcc (d : BitVec 64) : Nat := fld d.toNat 52 2
def desK (d : BitVec 64) : Nat := fld d.toNat 40 12
def desPa (d : BitVec 64) : Nat := fld d.toNat 24 16
def desPb (d : BitVec 64) : Nat := fld d.toNat 8 16
def sclAsc (z : BitVec 64) : Nat := fld z.toNat 45 19
def sclBsc (z : BitVec 64) : Nat := fld z.toNat 26 19
def sclAsp (z : BitVec 64) : Nat := fld z.toNat 13 13
def sclBsp (z : BitVec 64) : Nat := fld z.toNat 0 13

/-- Columns of a tile by class (R197). -/
def MCls.cols : MCls → Nat
  | .f64 => 32
  | _ => 64

/-- The accumulator of a class (Table 2.4), as the drain type of R193. -/
def MCls.dty : MCls → DType
  | .f64 => .f64
  | .int => .i32
  | _ => .f32

/-- Offset t of the block scales behind a scale panel's start (R195). -/
def scaleSkip (f : EF) : Nat := if f = .sfp4 then 4 else 0

/-- The formats of an `mma` (R197), each 0–23. -/
def mmaFmts (fmt : Nat) (d : BitVec 64) : Option (EF × EF) :=
  let a := if fmt = 31 then desAfmt d else fmt
  let b := if fmt = 31 then desBfmt d else fmt
  if 23 < a ∨ 23 < b then none
  else
    match EF.ofCode a, EF.ofCode b with
    | some x, some y => some (x, y)
    | _, _ => none

/-- The legality of rs in a class (R197, R199); rs 0b110 and 0b111 are refused before. -/
def rsOk (cls : MCls) (rs : Nat) : Bool :=
  match cls with
  | .int => decide (rs < 2)
  | .f64 => decide (rs ≤ 4)
  | _ => decide (rs ≤ 5)

/-- Whether a scale panel is well placed (R195, R199): `rows` rows of the scales of K elements in a buffer. -/
def scaleOk (f : EF) (b : Buf) (base pitch rows k : Nat) : Bool :=
  !f.scaled ||
    (base % 4 == 0 && (f.scaleKind != .fp16 || pitch % 2 == 0) &&
      decide (base + scaleSkip f + (rows - 1) * pitch + (k + 31) / 32 * f.scaleSize ≤ b.size))

/-- The checks of an `mma` at issue (R199): its formats and class, or its fault. -/
def Core.mmaCheck (c : Core) (trans : Bool) (a b : BitVec 4) (g : BitVec 3) (fmt rs : Nat) : Except Cause (EF × EF × MCls) :=
  let d := c.getG (g.setWidth 4)
  let z := c.getG (g.setWidth 4 + 8)
  match mmaFmts fmt d with
  | none => .error .illegal
  | some (fa, fb) =>
    match mclass fa fb with
    | none => .error .illegal
    | some cls =>
      let k := desK d
      let n := cls.cols
      let oa := (c.getB a).toNat
      let ob := (c.getB b).toNat
      if desAcc d ≠ cls.dty.code ∨ k = 0 ∨ fld d.toNat 0 8 ≠ 0 ∨ desPa d % 16 ≠ 0 ∨ desPb d % 16 ≠ 0 ∨ !rsOk cls rs then
        .error .illegal
      else if 2 ^ 19 ≤ oa ∨ 2 ^ 19 ≤ ob ∨ oa % 16 ≠ 0 ∨ ob % 16 ≠ 0 ∨
          Buf.A.size < oa + 127 * desPa d + packedSize fa k ∨
          Buf.W.size < ob + (if trans then (n - 1) * desPb d + packedSize fb k else (k - 1) * desPb d + packedSize fb n) ∨
          !scaleOk fa .A (sclAsc z) (sclAsp z) 128 k ∨ !scaleOk fb .W (sclBsc z) (sclBsp z) n k then .error .addressing
      else .ok (fa, fb, cls)
where
  /-- Bytes that `n` packed elements reach (R38). -/
  packedSize (f : EF) (n : Nat) : Nat := (n * f.width + 7) / 8

/-! ### mma and mmat (R198) -/

/-- The operands of one `mma` in progress. -/
structure Mma where
  trans : Bool
  tile : Nat
  fa : EF
  fb : EF
  cls : MCls
  oa : Nat
  ob : Nat
  d : BitVec 64
  z : BitVec 64
  rs : Nat
  dph : BitVec 8

/-- Element k of row i of the A panel, expanded. -/
def Mma.ea (m : Mma) (c : Core) (i k : Nat) : Val :=
  let e := packedAt (c.byte .A) (m.oa + i * desPa m.d) m.fa.width k
  let s := leNat (c.bytes .A (sclAsc m.z + scaleSkip m.fa + i * sclAsp m.z + k / 32 * m.fa.scaleSize) m.fa.scaleSize)
  m.fa.expand e (if m.fa.scaled then s else 0)

/-- B[k][j], expanded. -/
def Mma.eb (m : Mma) (c : Core) (j k : Nat) : Val :=
  let e :=
    if m.trans then packedAt (c.byte .W) (m.ob + j * desPb m.d) m.fb.width k
    else packedAt (c.byte .W) (m.ob + k * desPb m.d) m.fb.width j
  let s := leNat (c.bytes .W (sclBsc m.z + scaleSkip m.fb + j * sclBsp m.z + k / 32 * m.fb.scaleSize) m.fb.scaleSize)
  m.fb.expand e (if m.fb.scaled then s else 0)

/-- A tensor scale (R195): the FP32 at the panel's start for SFP4, else 1. -/
def tensorScale (c : Core) (f : EF) (b : Buf) (base : Nat) : Val :=
  if f = .sfp4 then fmt32.decode (leNat (c.bytes b base 4)) else .fin false 1 1

/-- The k of group g. -/
def groupKs (size k g : Nat) : List Nat := (List.range size).filterMap (fun i => if g * size + i < k then some (g * size + i) else none)

/-- The integer of an exact value that is one. -/
def Val.toInt (v : Val) : Int :=
  match v with | .fin s n d => if s then -((n / d : Nat) : Int) else (n / d : Nat) | _ => 0

/-- The group term of R198: one exact sum of products. -/
def Mma.term (m : Mma) (c : Core) (i j : Nat) (ks : List Nat) : Val :=
  let ps := ks.map (fun k => ((m.ea c i k).mul (m.eb c j k)).1)
  match m.cls with
  | .f64 => ps.headD (.zero false)
  | .int => .ofInt (ps.foldl (fun a p => a + p.toInt) 0)
  | cls => alignSum cls.align (m.rs == 3) ps

/-- One group applied to an element (R45, R46, R48). -/
def Mma.apply (m : Mma) (c : Core) (i j : Nat) (x : Nat) (ks : List Nat) : Nat :=
  let t := m.term c i j ks
  match m.cls with
  | .int =>
    let y := sgn 32 x + t.toInt
    low 32 (if m.rs = 1 then clampInt (-(2 ^ 31), 2 ^ 31 - 1) y else y)
  | cls =>
    accStep (if cls = .f64 then fmt64 else fmt32) (Rnd.ofCode m.rs (dither m.dph i j)) x t
      (tensorScale c m.fa .A (sclAsc m.z)) (tensorScale c m.fb .W (sclBsc m.z))

/-- The groups of an `mma` (R45). -/
def Mma.groups (m : Mma) : Nat := (desK m.d + m.cls.group - 1) / m.cls.group

/-- One group applied to an element. -/
def Mma.step (m : Mma) (c : Core) (g i j x : Nat) : Nat := m.apply c i j x (groupKs m.cls.group (desK m.d) g)

/-- The tile with `f` of row, column and element at the elements that `sel` names: `n` elements of `w` bits a row. -/
def Core.mapTile (c : Core) (tile w n : Nat) (sel : Nat → Nat → Bool) (f : Nat → Nat → Nat → Nat) : Core :=
  (List.range 128).foldl (fun r i =>
    let old := r.row (128 * tile + i)
    r.setRow (128 * tile + i) (rowBuild old w n (fun j => if sel i j then f i j (rowElem old w j) else rowElem old w j))) c

/-! ### Issue -/

/-- Whether a drain has yet to read the last row of a tile (R205). -/
def Core.draining (c : Core) (tile : Nat) : Bool :=
  c.drains.any (fun d => d.tile == tile && decide (d.next < 128))

/-- An M instruction that finishes later: it joins the M queue. -/
def enqueueM (σ : State) (tk : Tok) (op : MOp) (f : Core → Core) : Eff :=
  .late (σ.setCore σ.turn.core ((f σ.cur).enqueue op tk.push 0))

/-- Sets the drain type of a tile. -/
def Core.setDty (c : Core) (t : BitVec 3) (ty : DType) : Core := { c with dty := c.dty.set t.toNat ty t.isLt }
def Core.getDty (c : Core) (t : BitVec 3) : DType := c.dty[t.toNat]'t.isLt

/-- `mma` and `mmat` at issue (R193, R197, R199). -/
def issueMma (σ : State) (i : Instr) (tk : Tok) (trans : Bool) (t : BitVec 3) (a b : BitVec 4) (g : BitVec 3) (f : BitVec 5)
    (r : BitVec 3) : Eff :=
  let c := σ.cur
  if c.draining t.toNat then .wait
  else
    match c.mmaCheck trans a b g f.toNat r.toNat with
    | .error e => .fault e 0
    | .ok (fa, fb, cls) =>
      enqueueM σ tk
        (.mma i trans t.toNat fa fb cls (c.getB a).toNat (c.getB b).toNat (c.getG (g.setWidth 4))
          (c.getG (g.setWidth 4 + 8)) r.toNat c.dphase)
        (fun c => c.setDty t cls.dty)

/-- `mma` (R198). -/
def execMma (tk : Tok) (t : BitVec 3) (a b : BitVec 4) (g : BitVec 3) (f : BitVec 5) (r : BitVec 3) (σ : State) : Res :=
  issue σ .M (.mma tk t a b g f r) tk 2 (fun σ _ => issueMma σ (.mma tk t a b g f r) tk false t a b g f r)

/-- `mmat` (R198). -/
def execMmat (tk : Tok) (t : BitVec 3) (a b : BitVec 4) (g : BitVec 3) (f : BitVec 5) (r : BitVec 3) (σ : State) : Res :=
  issue σ .M (.mmat tk t a b g f r) tk 2 (fun σ _ => issueMma σ (.mmat tk t a b g f r) tk true t a b g f r)

/-- `tclr` (R203). -/
def execTclr (tk : Tok) (t : BitVec 3) (σ : State) : Res :=
  issue σ .M (.tclr tk t) tk 2 (fun σ _ => if σ.cur.draining t.toNat then .wait else enqueueM σ tk (.tclr t.toNat) id)

/-- Compact `tclr` (R203). -/
def execTclrCompact (t : BitVec 3) (σ : State) : Res :=
  issue σ .M (.tclrCompact t) Tok.none 1 (fun σ _ =>
    if σ.cur.draining t.toNat then .wait else enqueueM σ Tok.none (.tclr t.toNat) id)

/-- A row word (Table 9.4) within its limits: its must-be-zero bits, OFF and PITCH multiples of 16. -/
def rowWordOk (w : BitVec 64) : Bool :=
  fld w.toNat 40 24 == 0 && fld w.toNat 19 1 == 0 && fld w.toNat 20 20 % 16 == 0 && fld w.toNat 0 19 % 16 == 0

/-- One past the last byte of the 128 rows of `n` bytes that a row word places. -/
def rowWordEnd (w : BitVec 64) (n : Nat) : Nat := fld w.toNat 0 19 + 127 * fld w.toNat 20 20 + n

/-- `tld` at issue (R203). -/
def issueTld (σ : State) (tk : Tok) (t : BitVec 3) (b : BitVec 4) (buf : Buf) : Eff :=
  let w := σ.cur.getB b
  if σ.cur.draining t.toNat then .wait
  else if !rowWordOk w ∨ buf.size < rowWordEnd w 256 then .fault .addressing 0
  else enqueueM σ tk (.tld t.toNat buf (fld w.toNat 0 19) (fld w.toNat 20 20)) id

/-- `tld` from A: (R203). -/
def execTldA (tk : Tok) (t : BitVec 3) (b : BitVec 4) (σ : State) : Res :=
  issue σ .M (.tldA tk t b) tk 2 (fun σ _ => issueTld σ tk t b .A)

/-- `tld` from W: (R203). -/
def execTldW (tk : Tok) (t : BitVec 3) (b : BitVec 4) (σ : State) : Res :=
  issue σ .M (.tldW tk t b) tk 2 (fun σ _ => issueTld σ tk t b .W)

/-- The destination buffer of a drain (Table 6.10). -/
def drainBuf (d : BitVec 2) : Buf := match d.toNat with | 0 => .A | 1 => .W | _ => .S

/-- The program of a slot. -/
def Core.slot (c : Core) (n : BitVec 3) : Option (List (BitVec 32)) := c.slots[n.toNat]'n.isLt

/-- The fork of a drain: it follows the buffer accesses of M (R89, kind 7). -/
def State.dForkEv (s : State) (v id : Nat) : Ev := { s.event v 2 (4 * id) 16 with kind := .fork (dThread id) }

/-- `drain` (R204, R205): the third drain in flight waits; the program and the drain type are read at issue. The drain's thread
begins here (R94), and its hand-over finishes in the order of M (R201). -/
def execDrain (tk : Tok) (t : BitVec 3) (b : BitVec 4) (d : BitVec 2) (r : BitVec 3) (e : BitVec 1) (k : BitVec 6)
    (i : BitVec 3) (σ : State) : Res :=
  issue σ .M (.drain tk t b d r e k i) tk 2 (fun σ _ =>
    let c := σ.cur
    let w := c.getB b
    let ty := c.getDty t
    let prog := if e = 1 then c.slot r else none
    if 2 ≤ c.drains.length then .wait
    else if e = 1 ∧ (prog.isNone ∨ (ty = .f64 ∧ (prog.getD []).any usesRdi)) then .fault .illegal 0
    else if !rowWordOk w ∨ (drainBuf d).size < rowWordEnd w (drainLen ty prog) then .fault .addressing 0
    else
      enqueueM (σ.note (σ.dForkEv σ.turn.core c.nextId)) tk (.drain c.nextId) (fun c =>
        { c with
          nextId := c.nextId + 1
          drains := c.drains ++
            [⟨c.nextId, t.toNat, ty, drainBuf d, fld w.toNat 0 19, fld w.toNat 20 20, prog, if e = 1 then some r.toNat else none,
              k.toNat, i.toNat, w, (c.str .M).pc, .drain tk t b d r e k i, false, 0, 0, none, [], false⟩] }))

/-- Whether a drain in flight uses a slot and has not written row 127 (R210). -/
def Core.slotBusy (c : Core) (n : Nat) : Bool :=
  c.drains.any (fun d => d.slot == some n && (decide (d.next < 128) || !d.pend.isEmpty))

/-- What M reads of the buffers of core v with the instruction of place `id` in program order: buffer accesses, of no class. -/
def State.mAgent (s : State) (v id : Nat) : Agent := ⟨(v, id), none, some (s.event v 2 (4 * id + 1) 16)⟩

/-- `eload` (R210): it reads the micro-instructions at issue. -/
def execEload (tk : Tok) (r : BitVec 3) (b : BitVec 4) (n : BitVec 5) (u : BitVec 1) (σ : State) : Res :=
  issue σ .M (.eload tk r b n u) tk 2 (fun σ _ =>
    let c := σ.cur
    let buf : Buf := if u = 0 then .W else .S
    let off := (c.getB b).toNat
    if c.slotBusy r.toNat then .wait
    else if off % 4 ≠ 0 ∨ buf.size < off + 4 * (n.toNat + 1) then .fault .addressing 0
    else
      let (σ1, w) := σ.view (σ.mAgent σ.turn.core c.nextId) σ.turn.core [(buf, off, 4 * (n.toNat + 1))]
      let p := (List.range (n.toNat + 1)).map (fun i => BitVec.ofNat 32 (leNat (w.bytes buf (off + 4 * i) 4)))
      if !programOk p then .fault .illegal 0
      else finishIn σ1 tk 0 (fun c => { c with slots := c.slots.set r.toNat (some p) r.isLt }))

/-- `gli` (R196). -/
def execGli (tk : Tok) (d : BitVec 4) (i : BitVec 16) (σ : State) : Res :=
  issue σ .M (.gli tk d i) tk 2 (fun σ _ => finishIn σ tk 0 (fun c => c.setG d (i.signExtend 64)))

/-- `glis` (R196). -/
def execGlis (tk : Tok) (d : BitVec 4) (i : BitVec 16) (σ : State) : Res :=
  issue σ .M (.glis tk d i) tk 2 (fun σ _ => finishIn σ tk 0 (fun c => c.setG d ((c.getG d <<< 16) ||| i.setWidth 64)))

/-! ### Finishing (R201) -/

/-- The groups of an M instruction that writes a tile: those of an `mma`, and one for `tclr` and `tld`. -/
def MOp.groups : MOp → Nat
  | .mma _ tr t fa fb cls oa ob d z rs dph => Mma.groups ⟨tr, t, fa, fb, cls, oa, ob, d, z, rs, dph⟩
  | .tclr _ => 1
  | .tld _ _ _ _ => 1
  | _ => 0

/-- Whether a `tclr` or `tld` writes the 32-bit elements of its tile in pairs: 8 bytes at a time on an FP64 tile (R65). -/
def MOp.pairs (op : MOp) (c : Core) : Bool :=
  match op with
  | .tclr t => if h : t < 8 then c.dty[t] == .f64 else false
  | .tld t _ _ _ => if h : t < 8 then c.dty[t] == .f64 else false
  | _ => false

/-- Bytes of packed elements `i` to `i + n − 1` of a panel row at an offset. -/
def packedRange (b : Buf) (base w i n : Nat) : Buf × Nat × Nat := (b, base + i * w / 8, ((i + n) * w + 7) / 8 - i * w / 8)

/-- The ranges of A and W that group g of an `mma` reads: the elements of its panels, and their scales (R195, R198). -/
def Mma.reads (m : Mma) (g : Nat) : List (Buf × Nat × Nat) :=
  let lo := g * m.cls.group
  let n := min m.cls.group (desK m.d - lo)
  let cols := m.cls.cols
  let scales (f : EF) (b : Buf) (base pitch rows : Nat) : List (Buf × Nat × Nat) :=
    if f.scaled then
      (if f = .sfp4 then [(b, base, 4)] else []) ++
        (List.range rows).map (fun i =>
          (b, base + scaleSkip f + i * pitch + lo / 32 * f.scaleSize, ((lo + n + 31) / 32 - lo / 32) * f.scaleSize))
    else []
  (List.range 128).map (fun i => packedRange .A (m.oa + i * desPa m.d) m.fa.width lo n) ++
    (if m.trans then (List.range cols).map (fun j => packedRange .W (m.ob + j * desPb m.d) m.fb.width lo n)
     else (List.range n).map (fun k => packedRange .W (m.ob + (lo + k) * desPb m.d) m.fb.width 0 cols)) ++
    scales m.fa .A (sclAsc m.z) (sclAsp m.z) 128 ++ scales m.fb .W (sclBsc m.z) (sclBsp m.z) cols

/-- The ranges of buffers that group g of an M instruction reads. -/
def MOp.reads (op : MOp) (g : Nat) : List (Buf × Nat × Nat) :=
  match op with
  | .mma _ tr t fa fb cls oa ob d z rs dph => Mma.reads ⟨tr, t, fa, fb, cls, oa, ob, d, z, rs, dph⟩ g
  | .tld _ buf off pitch => (List.range 128).map (fun i => (buf, off + i * pitch, 256))
  | _ => []

/-- Group g of an M instruction, applied to the elements that `sel` names (R202), its panels read from `w`. An element of a panel
is read when the group of its product is applied. -/
def MOp.step (op : MOp) (g : Nat) (sel : Nat → Nat → Bool) (w c : Core) : Core :=
  match op with
  | .mma _ tr t fa fb cls oa ob d z rs dph =>
    c.mapTile t cls.dty.width cls.cols sel (Mma.step ⟨tr, t, fa, fb, cls, oa, ob, d, z, rs, dph⟩ w g)
  | .tclr t => c.mapTile t 32 64 sel (fun _ _ _ => 0)
  | .tld t buf off pitch =>
    c.mapTile t 32 64 sel (fun i j _ => rowElem (rowOfBytes (w.bytes buf (off + i * pitch) 256)) 32 j)
  | _ => c

/-- Whether element (i, j) of a tile belongs to a part of it (log entry 47). -/
def inPart (part : Nat × Bool) (i j : Nat) : Bool := part.1.testBit (64 * i + if part.2 then j / 2 else j)

/-- An M instruction in progress: its next group reaches a free part of the tile first and then the rest, its panels read from
`w`; none when every group has been applied. -/
def MEntry.progress (e : MEntry) (free : Nat) (w c : Core) : Option (MEntry × Core) :=
  if e.next < e.op.groups then
    match e.part with
    | none => some ({ e with part := some (free, e.op.pairs c) }, e.op.step e.next (inPart (free, e.op.pairs c)) w c)
    | some m => some ({ e with next := e.next + 1, part := none }, e.op.step e.next (fun i j => !inPart m i j) w c)
  else none

/-- What an M instruction does at its finish, every group of it applied: an increment is a release of M, made once what
precedes it has performed (R93). -/
def MEntry.effect (e : MEntry) (c : Core) : Core :=
  match e.op with
  | .kinc k n => c.hold .M (.inc (BitVec.ofNat 6 k) n { cause := .counterOverflow, orig := 2, word := e.addr })
  | _ => c

/-- Whether the core runs (R211: parked instructions are held). -/
def Core.runs (c : Core) : Bool := c.st == .running || c.st == .exiting

/-- The event M_FINISH (R201, R202): the oldest M instruction of core v moves on to its finish. While groups of it remain,
the next is applied to a part of the tile, or to the rest; then it finishes, and its push takes place. A parked core stops
at a group's boundary (R304). -/
def execMFinish (v : Nat) (σ : State) : Res :=
  let c := σ.core v
  match c.mq with
  | [] => .next σ
  | e :: r =>
    if c.runs ∨ (c.st = .parked ∧ e.part.isSome) then
      let (σ1, w) := σ.view (σ.mAgent v e.id) v (if e.next < e.op.groups then e.op.reads e.next else [])
      match e.progress (Config.freeNat 20 σ.tick) w c with
      | some (e1, c1) => .next (σ1.setCore v { c1 with mq := e1 :: r })
      | none => .next ((σ.setCore v ((e.effect { c with mq := r }).push .M e.push e.payload)).flushAt v)
    else .next σ

/-! ### Drains (R205–R207) -/

/-- Whether an M instruction writes a tile. -/
def MOp.writes (op : MOp) (tile : Nat) : Bool :=
  match op with
  | .mma _ _ t _ _ _ _ _ _ _ _ _ => t == tile
  | .tclr t => t == tile
  | .tld t _ _ _ => t == tile
  | _ => false

/-- Whether a drain may start: every earlier M instruction that writes its tile has finished (R206). -/
def Core.drainReady (c : Core) (d : Drain) : Bool :=
  !((c.mq.takeWhile (fun e => e.op != .drain d.id)).any (fun e => e.op.writes d.tile)) ||
    !c.mq.any (fun e => e.op == .drain d.id)

/-- The first drain that has not started, when it may and the one before it has left the epilogue processor. -/
def Core.startFirst (c : Core) : List Drain → List Drain
  | [] => []
  | d :: r =>
    if !d.started then (if c.drainReady d then { d with started := true, dph := c.dphase } else d) :: r
    else if d.next = 128 ∧ d.pend.isEmpty then d :: c.startFirst r
    else d :: r

/-- The event DRAIN_START (R206, R207): the next drain of core v reaches T0 and reads %dphase. -/
def execDrainStart (v : Nat) (σ : State) : Res :=
  let c := σ.core v
  if c.runs then .next (σ.setCore v { c with drains := c.startFirst c.drains }) else .next σ

/-- The bytes of a row of a drain, and the e-registers that its program leaves; rows and words that the program loads are read
from `c`. -/
def Drain.rowBytes (d : Drain) (c : Core) (i : Nat) (row : Row) : List Byte × Vector Row 8 :=
  match d.prog with
  | none => (leBytes 256 row.toNat, c.e)
  | some p =>
    let r := runProgram c d.ty i d.dph row p
    (r.out, r.e)

/-- Bytes of a unit of a drain's rows (R65): 8 on an FP64 tile, else 4. -/
def Drain.unit (d : Drain) : Nat := if d.ty = .f64 then 8 else 4

/-- The units of a destination row, by their offsets in it. -/
def Drain.units (d : Drain) (bs : List Byte) : List (Nat × List Byte) :=
  (List.range (bs.length / d.unit)).map (fun i => (d.unit * i, part bs (d.unit * i) d.unit))

/-- A row of a tile whose units that `mask` names are those of `old`. -/
def Drain.merge (d : Drain) (old : Row) (mask : Nat) (now : Row) : Row :=
  rowBuild 0 (8 * d.unit) (256 / d.unit) (fun j => rowElem (if mask.testBit j then old else now) (8 * d.unit) j)

/-- The ranges of buffers that a drain's program loads. -/
def Drain.loads (d : Drain) : List (Buf × Nat × Nat) :=
  (d.prog.getD []).filterMap (fun w =>
    match mf w 28 4 with
    | 11 => some (.W, 256 * mf w 0 10, 256)
    | 12 => some (.S, 256 * mf w 0 10, 256)
    | 13 => some (.S, 4 * mf w 0 10, 4)
    | _ => none)

/-- The event of a drain's accesses: its reads precede its writes, and its increment follows them (R94, R205). -/
def State.dAgent (s : State) (v : Nat) (d : Drain) (po : Nat) : Agent := ⟨(v, d.id), none, some (s.event v (dThread d.id) po 16)⟩

/-- The next row of a drain enters: some of its units are read, and then the others (R65); it is computed from both. -/
def State.drainEnter (s : State) (v : Nat) (d : Drain) : State × Drain :=
  let c := s.core v
  let row := c.row (128 * d.tile + d.next)
  match d.got with
  | none => (s, { d with got := some (row, Config.freeNat 30 s.tick) })
  | some (old, m) =>
    let (s1, w) := s.view (s.dAgent v d 0) v d.loads
    let (bs, e) := d.rowBytes w d.next (d.merge old m row)
    (s1.setCore v { s1.core v with e := e }, { d with next := d.next + 1, got := none, pend := d.pend ++ [d.units bs] })

/-- %dphase advances by the step, unless `mtsr` writes it in the same C-cycle; the new value stands from the next C-cycle on
(R54, R207). -/
def Core.advanceDph (c : Core) : Core :=
  match c.dphNext with
  | some (_, true) => c
  | some (x, false) => { c with dphNext := some (x + c.dstep, false) }
  | none => { c with dphNext := some (c.dphase + c.dstep, false) }

/-- The oldest row of a drain that has entered is written: some of its units, and then the others (R65); after row 127, %dphase
advances (R207). -/
def State.drainWrite (s : State) (v : Nat) (d : Drain) : State × Drain :=
  match d.pend with
  | [] => (s, d)
  | us :: r =>
    let i := d.next - d.pend.length
    let (now, left) := if d.half then (us, []) else chosen s.tick us 0
    let s1 := now.foldl (fun s u => (s.bufAcc (s.dAgent v d 2) v d.dst (d.off + i * d.pitch + u.1) u.2.length (.store u.2)).1) s
    if left.isEmpty then
      (if i = 127 then s1.setCore v (s1.core v).advanceDph else s1, { d with pend := r, half := false })
    else (s1, { d with pend := left :: r, half := true })

/-- A drain goes on: its next row enters, and the row that entered 24 rows before is written (R206). When the core is parked no
further row enters, and the rows that have entered are written (R304). -/
def State.drainOn (s : State) (v : Nat) (d : Drain) : State × Drain :=
  if (s.core v).runs ∧ d.next < 128 ∧ d.pend.length < 25 then s.drainEnter v d
  else s.drainWrite v (if (s.core v).runs then d else { d with got := none })

/-- The drain that runs: the first that has started and not written its last row. -/
def Core.draining1 (c : Core) : Option Drain := c.drains.find? (fun d => d.started && !(decide (d.next = 128) && d.pend.isEmpty))

/-- The event DRAIN_ROW (R206): the drain that runs on core v goes on. -/
def execDrainRow (v : Nat) (σ : State) : Res :=
  match (σ.core v).draining1 with
  | none => .next σ
  | some d =>
    let (s1, d1) := σ.drainOn v d
    let c := s1.core v
    .next (s1.setCore v { c with drains := c.drains.map (fun x => if x.id = d.id then d1 else x) })

/-- The event DRAIN_DELIVERED (R205): the oldest drain of core v has written row 127; its increment takes place, the delivered
event of its thread, a release at core scope. It comes after the C-cycle in which %dphase advances. -/
def execDrainDelivered (v : Nat) (σ : State) : Res :=
  let c := σ.core v
  match c.drains with
  | [] => .next σ
  | d :: r =>
    if d.next = 128 ∧ d.pend.isEmpty ∧ c.dphNext.isNone ∧ c.mayComplete σ.clock d.inc then
      .next ((σ.setCore v { c with drains := r }).completed v (dThread d.id) 3 16 1 d.k d.inc
        { cause := .counterOverflow, orig := 5, del := true, word := d.addr })
    else .next σ

end Sys2Proof.Machine
end

