-- ==== Sys2Proof/Machine/SysRegs.lean ====
section
/-! DEFINITION. Writes of the system registers (R293, R310, R338, R353, R370): who may write each, the ranges, and what a
write does; and what a read of a register returns. -/

namespace Sys2Proof.Machine

open Sys2Proof

/-! ### What every block shares -/

/-- Sets the BADW bit of the block that a register lies in. -/
def State.badW (s : State) (o : Nat) : State :=
  if o < 0x8000 then s.orReg schEvt 0x40
  else if o < 0xA000 then s.orReg (fltEvt (o % 0x1000 / 0x80)) 8
  else if o < 0xC000 then s.orReg prtEvt 2
  else if o < 0xD000 then s.orReg hstEvt 1
  else if o < 0xE000 then s.orReg lnkEvt 4
  else if o < 0xF000 then s.orReg lseEvt 2
  else if o < 0x10000 then s.orReg capEvt 8
  else if o < 0x20000 then s.orReg lseEvt 2
  else s.ras 0x40

/-- A write within its range takes effect; another is ignored with BADW. -/
def State.checked (s : State) (o : Nat) (ok : Bool) (t : State) : State := if ok then t else s.badW o

/-- A write of a plain register. -/
def State.plain (s : State) (o x : Nat) (ok : Bool) : State := s.checked o ok (s.setReg o (BitVec.ofNat 64 x))

/-- A write of a register whose bits are cleared by ones. -/
def State.w1c (s : State) (o : Nat) (x : BitVec 64) : State := s.setReg o (s.reg o &&& ~~~x)

/-- The bits of a register with reserved bits that a write can set: a nonzero value written to another is ignored (R5). -/
def regMask (o : Nat) : BitVec 64 :=
  if 0x1000 ≤ o ∧ o < 0x5000 then (if o % 0x40 = 0 then 0x80FFFFFFFFFFFFFF else if o % 0x40 = 8 then cfgMask else BitVec.allOnes 64)
  else if 0x8000 ≤ o ∧ o < 0x9000 then
    (if o % 0x80 = 0 then 0x000FFFFFFFFE0003 else if o % 0x80 = 8 then 0x3FFFFFF else BitVec.allOnes 64)
  else if 0x9000 ≤ o ∧ o < 0xA000 then
    (if o % 0x80 = 0 then 0x000FFFFFFFFFF001 else if o % 0x80 = 0x28 then 0x3F else BitVec.allOnes 64)
  else if prtClOwn ≤ o ∧ o < prtClOwn + 48 then 0x9F
  else if 0xB000 ≤ o ∧ o < 0xB800 then (if o % 0x40 < 0x10 then 0xFFFFFFFF else 0xFFFFF)
  else if o = hstCap then 1
  else if o = lnkPkgid then 0x3FFFF
  else if o = lnkRlyCfg ∨ o = lnkUeCfg then 0xFFFFFFFF
  else if 0xD200 ≤ o ∧ o < 0xD400 then (if o % 0x10 = 0 then 0x000FFFFFFFFFFFFD else BitVec.allOnes 64)
  else if o = lnkUeIdx then 0xBFFF
  else if 0xE400 ≤ o ∧ o < 0xE800 then
    (if o % 0x20 = 0x10 then 0x3FFFF else if o % 0x20 = 0x18 then 0xFFFFFF else BitVec.allOnes 64)
  else BitVec.allOnes 64

/-- Whether a value lies between bounds. -/
def within (lo hi x : Nat) : Bool := decide (lo ≤ x ∧ x ≤ hi)

/-! ### The scheduler (Tables 16.4, 16.5) -/

/-- A write of SCH_QS_CFG. -/
def State.writeCfg (s : State) (i : Nat) (x : BitVec 64) : Res :=
  let v := x.toNat
  if fld v 23 1 = 1 then execQueueBind i x s
  else if !cfgOk v then .next (s.badW schCtrl)
  else if !s.qValid i then .next (s.setReg (qsCfg i) x)
  else if s.regF (qsCfg i) 22 1 = 1 then execQueueUnbind i s
  else .next (s.unbind i x)

/-- A write below 0x8000. -/
def State.writeSch (s : State) (o : Nat) (x : BitVec 64) : Res :=
  let v := x.toNat
  if o = schCtrl then .next (s.setReg o (x &&& 1))
  else if o = schFeat then
    .next (s.plain o v ((x &&& ~~~(s.reg mgtFeatDev)) == 0 && (List.range 32).all (fun p => !s.liveP p)))
  else if o = schEvt then .next (s.w1c o x)
  else if 0x100 ≤ o ∧ o < 0x300 then .next (s.w1c o x)
  else if 0x1000 ≤ o ∧ o < 0x5000 then
    let i := (o - 0x1000) / 0x40
    match o % 0x40 with
    | 0 => .next (s.setReg o x)
    | 8 => s.writeCfg i x
    | 0x10 => if fld v 32 1 = 1 then execQueueErrClear i s else .next s
    | _ => .next s
  else if 0x5000 ≤ o ∧ o < 0x5800 then
    let p := (o - 0x5000) / 0x40
    match o % 0x40 with
    | 0 => .next (s.plain o v (within 50 5000 v))
    | 8 => .next (s.plain o v (within 1 1000 v))
    | 0x10 => if v % 2 = 1 then execPreemptRequest p s else execPreemptResume p s
    | 0x18 =>
      let s1 := s.w1c o (x &&& 2)
      if v % 2 = 1 then execArenaSlotReset p s1 else .next s1
    | _ => .next s
  else .next s

/-! ### Translation and faults (Tables 17.7, 17.8) -/

/-- Whether a base and bound lie where R318 and R319 allow them. -/
def State.rangeOk (s : State) (p t base bound : Nat) : Bool :=
  base % 2 ^ 16 == 0 && bound % 2 ^ 16 == 0 && xltIn base bound t (s.actRange p t) &&
    (s.journal == 0 || xltIn base bound t (s.stagedRange p t))

/-- A write of an XLT_P register of partition p. -/
def State.writeXlt (s : State) (p o : Nat) (x : BitVec 64) : Res :=
  let v := x.toNat
  let base (t : Nat) : Nat := (s.reg (xltBase p t)).toNat
  let bound (t : Nat) : Nat := (s.reg (xltBound p t)).toNat
  if s.locked p then .next (s.orReg hstEvt 2)
  else
    match o % 0x80 with
    | 0x00 => .next (s.setReg o x)
    | 0x08 =>
      .next (s.plain o v (fld v 0 4 == s.asel p ||
        !(s.arenas.any (fun e => e.1 / 64 == p && e.2.live) || s.nodes.any (fun e => e.2.part == p))))
    | 0x10 => .next (s.plain o v (s.rangeOk p 0 v (bound 0)))
    | 0x18 => .next (s.plain o v (s.rangeOk p 0 (base 0) v))
    | 0x20 => .next (s.plain o v (s.rangeOk p 1 v (bound 1)))
    | 0x28 => .next (s.plain o v (s.rangeOk p 1 (base 1) v))
    | 0x30 => execTlbInvalidate p x s
    | 0x40 =>
      .next (s.checked o (within 1 256 (fld v 0 9)) (State.sendQueued p s.preq.length (s.setReg o (BitVec.ofNat 64 (fld v 0 9)))))
    | _ => .next s

/-- A write of FLT_P_CMD (R306, Table 17.8). -/
def State.faultCmd (s : State) (p v : Nat) : Res :=
  if fld v 15 1 = 0 then .next s
  else
    match fld v 12 3 with
    | 0 => execCoreResume p (fld v 0 12) s
    | 1 => execCoreAbandon p (fld v 0 12) s
    | 2 => execSideLogKick p (fld v 0 12) s
    | 3 => execFrameRewrite p (fld v 0 12) s
    | _ => .next (s.badCommand p)

/-- A write of a FLT_P register of partition p. -/
def State.writeFlt (s : State) (p o : Nat) (x : BitVec 64) : Res :=
  let v := x.toNat
  match o % 0x80 with
  | 0x00 => if s.locked p then .next (s.orReg hstEvt 2) else .next (s.setReg o x)
  | 0x08 => execFaultQueueWrite p false x s
  | 0x10 => execFaultQueueWrite p true x s
  | 0x18 => s.faultCmd p v
  | 0x20 => .next (s.w1c o x)
  | 0x28 => .next (s.plain o v (decide (v ≤ 35)))
  | _ => .next s

/-! ### Partitions and the calendar (Tables 19.7, 19.8) -/

/-- A write of PRT_CTRL: its commands in the order of their bits. -/
def State.layoutCmd (s : State) (v : Nat) : State :=
  let run (b : Nat) (f : State → Res) (s : State) : State :=
    if fld v b 1 = 1 then (match f s with | .next t => t | _ => s) else s
  run 2 execLayoutAbort (run 1 execLayoutApplyRequest (run 0 execLayoutPrepare s))

/-- A write to the staged copy: ignored with BADW while the journal is not IDLE (R319). -/
def State.staged (s : State) (o : Nat) (ok : Bool) (t : State) : State := s.checked o (s.journal == 0 && ok) t

/-- A write of the management processor to a register of Tables 19.7 and 19.8. -/
def State.writeLayout (s : State) (o : Nat) (x : BitVec 64) : State :=
  let v := x.toNat
  let b := v % 256
  let (lo, hi) := rangeOf x
  if o = prtCtrl then s.layoutCmd v
  else if prtClOwn ≤ o ∧ o < prtClOwn + 48 then s.staged o true (s.setRegByte o b)
  else if 0xB000 ≤ o ∧ o < 0xB800 then
    match o % 0x40 with
    | 0x00 => s.staged o (lo == hi || within 1 2015 lo && within 1 2015 hi) (s.setReg o x)
    | 0x08 => s.staged o (decide (lo ≤ 4030 ∧ hi ≤ 4030)) (s.setReg o x)
    | 0x10 => s.staged o ((List.range 4).all (fun c => decide (fld v (5 * c) 5 ≤ 20))) (s.setReg o x)
    | _ => s
  else if 0x10000 ≤ o ∧ o < 0x14000 ∧ o % 0x1000 < 0x800 then s.staged o true (s.setRegByte o b)
  else s

/-! ### Leases (Table 19.9) -/

/-- A write of LSE_CMD (R329). -/
def State.leaseCmd (s : State) (v : Nat) : Res :=
  let e := fld v 0 16
  let p := fld v 16 5
  if fld v 31 1 = 0 then .next s
  else
    match fld v 21 3 with
    | 0 => execStandingLeaseGrant e p s
    | 1 => execStandingLeaseEnd e p s
    | 2 => execEngineRecall e s
    | _ => .next (s.orReg lseEvt 2)

/-- A write of system software to 0xE000–0xEFFF. -/
def State.writeLse (s : State) (o : Nat) (x : BitVec 64) : Res :=
  let v := x.toNat
  if o = lseSwcap then execLseSwcapWrite x s
  else if o = lseCmd then s.leaseCmd v
  else if o = lseEvt then .next (s.w1c o x)
  else if 0xE400 ≤ o ∧ o < 0xE800 then
    if s.locked ((o - 0xE400) / 0x20) then .next (s.orReg hstEvt 2)
    else
      match o % 0x20 with
      | 0x00 => .next (s.plain o v (decide (v ≤ 4000)))
      | 0x08 => .next s
      | 0x10 => .next (s.plain o v ((List.range 6).all (fun k => decide (fld v (3 * k) 3 < clsSlots k))))
      | _ => .next (s.plain o v ((List.range 6).all (fun k => decide (1 ≤ fld v (4 * k) 4))))
  else .next s

/-! ### Links (Table 20.7) -/

/-- Whether a partition has a live job that spans packages. -/
def State.spanningJob (s : State) (p : Nat) : Bool := !(s.others p).isEmpty && s.liveJobs.any (fun j => j.1 == p)

/-- A write of system software to 0xD000–0xDFFF; the entries of connections and windows have events of their own. -/
def State.writeLnk (s : State) (o : Nat) (x : BitVec 64) : State :=
  let v := x.toNat
  if o = lnkPkgid then s.setReg o x
  else if o = lnkRlyCfg then s.plain o v (decide (1 ≤ fld v 0 16 ∧ 1 ≤ fld v 16 16))
  else if o = lnkUeCfg then s.plain o v (within 1 1000 (fld v 0 16) && decide (10 ≤ fld v 16 16))
  else if o = lnkEvt then s.w1c o x
  else if 0xD200 ≤ o ∧ o < 0xD400 then
    let p := (o - 0xD200) / 0x10
    if o % 0x10 = 0 then s.plain o v (!s.spanningJob p)
    else s.plain o v (within 1 65536 v && !s.spanningJob p)
  else if o = lnkUeIdx then
    s.plain o v (fld v 15 1 == 0 || decide (fld v 0 14 < 4096))
  else s

/-! ### The event REGISTER_WRITE -/

/-- A write by system software. -/
def State.writeSoft (s : State) (o : Nat) (x : BitVec 64) : Res :=
  let v := x.toNat
  if o < 0x8000 then s.writeSch o x
  else if o < 0x9000 then s.writeXlt ((o - 0x8000) / 0x80) o x
  else if o < 0xA000 then s.writeFlt ((o - 0x9000) / 0x80) o x
  else if o = prtEvt then .next (s.w1c o x)
  else if o = prtQint then .next (s.plain o v (within 100 100000 v))
  else if o = hstCap then .next (s.setReg o x)
  else if o = hstEvt then .next (s.w1c o x)
  else if 0xC100 ≤ o ∧ o < 0xC300 ∧ o % 0x10 = 0 then
    (if v % 2 = 1 then execPriEnable ((o - 0xC100) / 0x10) s else .next (s.setRegF o 0 1 0))
  else if 0xD000 ≤ o ∧ o < 0xE000 then .next (s.writeLnk o x)
  else if 0xE000 ≤ o ∧ o < 0xF000 then s.writeLse o x
  else if 0xF000 ≤ o ∧ o < 0xF800 ∧ o % 0x40 = 0 then
    (if v % 2 = 1 then execRekeyRequest ((o - 0xF000) / 0x40) s else .next s)
  else if o = capEvt then .next (s.w1c o x)
  else if o = calStretch then .next (s.plain o v (within 16 64 v))
  else if 0x14100 ≤ o ∧ o < 0x14500 ∧ o % 0x20 = 0x10 then .next (s.clearSlips ((o - 0x14100) / 0x20) (v % 16))
  else if o = mgtRasEvt then .next (s.w1c o x)
  else if o = mgtCemax then .next (s.plain o v (within 1 65535 v))
  else .next s

/-- A write by the management processor: the registers marked †. -/
def State.writeMgmt (s : State) (o : Nat) (x : BitVec 64) : Res :=
  let v := x.toNat
  if o = mgtFwcmt then (if v % 2 = 1 then execFirmwareCommit s else .next s)
  else if o = mgtWdt then
    (if !within 1 60000 (fld v 0 16) then .next (s.badW o)
     else if fld v 31 1 = 1 then execWatchdogKick (s.setReg o (BitVec.ofNat 64 (fld v 0 16)))
     else .next (s.setReg o (BitVec.ofNat 64 (fld v 0 16))))
  else .next (s.writeLayout o x)

/-- The event REGISTER_WRITE (R293, R310, R338, R353, R370): a write of `x` to the register at BAR0 offset `o`. A register
that the writer may not write, and an offset that holds none, is left alone. The byte tables are written by byte. The power
controller writes its cap and stretches the calendar (R363). -/
def execRegisterWrite (o : Nat) (x0 : BitVec 64) (w : Writer) (σ : State) : Res :=
  if !σ.barOpen ∨ (w ≠ .management ∧ o % 8 ≠ 0) then .next σ
  else
    let x := x0 &&& regMask o
    match w with
    | .software => σ.writeSoft o x
    | .management => σ.writeMgmt o x
    | .power =>
      if o = lsePccap then execLsePccapWrite x σ
      else if o = calStretch then .next (σ.plain o x.toNat (within 16 64 x.toNat))
      else .next σ
    | .function => .next σ

/-! ### Reads -/

/-- Cores parked with a task of partition p. -/
def State.parkedOf (s : State) (p : Nat) : List Nat :=
  (s.cores.filter (fun e => e.2.st == .parked && s.partOf e.1 == p)).map (·.1)

/-- Nodes of a partition in states that satisfy a test. -/
def State.nodesIn (s : State) (p : Nat) (f : NSt → Bool) : Nat := (s.nodes.filter (fun e => e.2.part == p && f e.2.st)).length

/-- A counter's field of `n` bits; past its width the spec does not say what it shows (log entry 5). -/
def State.counterField (s : State) (n v : Nat) : Nat := if v < 2 ^ n then v else Config.freeNat 13 s.tick % 2 ^ n

/-- The entry of a connection or window that LNK_UE_IDX names (R353); one of the other kind reads as zero (log entry 38). -/
def State.ueEntry (s : State) (win : Bool) : BitVec 128 :=
  match s.ueIndex win with
  | none => 0
  | some i => Tab.get 0 (if win then s.ueWin else s.ueConn) i

/-- Whether an offset lies in one of the byte tables of the layout and the calendar. -/
def inByteTable (o : Nat) : Bool :=
  decide (prtClOwn ≤ o ∧ o < prtClOwn + 48) || decide (prtClAct ≤ o ∧ o < prtClAct + 48) || decide (0x10000 ≤ o ∧ o < 0x14000)

/-- What a read of the register at offset `o` returns: the stored value, or what a read-only register shows. A byte of a byte table
reads with those that follow it in its 64-bit word. -/
def State.regRead (s : State) (o : Nat) : BitVec 64 :=
  if o = mgtStat then s.reg o
  else if !s.barOpen then 0
  else if inByteTable o then s.reg (o / 8 * 8) >>> (8 * (o % 8))
  else if o = schFlog then s.flog.headD 0
  else if o = capFlogR then s.capFlog.headD 0
  else if o = prtClstat then BitVec.ofNat 64 ((List.range 48).foldl (fun a c => if s.scrub.contains c then a + 2 ^ c else a) 0)
  else if o = lseUsed then BitVec.ofNat 64 s.leaseUsed
  else if o = mgtSpare then BitVec.ofNat 64 (s.counterField 8 s.mgmt.retired.length + s.counterField 8 s.mgmt.slices.length * 256)
  else if o = mgtFwver then
    BitVec.ofNat 64 ((match s.mgmt.running with | some m => m.version | none => 0) % 2 ^ 32 + s.mgmt.minVersion % 2 ^ 32 * 2 ^ 32)
  else if 0x5000 ≤ o ∧ o < 0x5800 ∧ o % 0x40 = 0x20 then
    let p := (o - 0x5000) / 0x40
    BitVec.ofNat 64 (s.counterField 16 (s.nodesIn p (fun t => t == .ready || t == .allocating || t == .placing)) +
      s.counterField 16 (s.nodesIn p (· == .running)) * 2 ^ 32)
  else if 0x8000 ≤ o ∧ o < 0x9000 ∧ o % 0x80 = 0x40 then
    let p := (o - 0x8000) / 0x80
    BitVec.ofNat 64 (s.prqLimit p + s.outstanding p * 2 ^ 16 +
      s.counterField 9 (s.preq.filter (fun r => r.part == p && r.stage == 2)).length * 2 ^ 32)
  else if 0x9000 ≤ o ∧ o < 0xA000 ∧ o % 0x80 = 0x30 then
    let p := (o - 0x9000) / 0x80
    BitVec.ofNat 64 ((s.parkedOf p).foldl
      (fun a v => if v / 64 = s.regF (fltPksel p) 0 6 then a + 2 ^ (v % 64) else a) 0)
  else if 0xB000 ≤ o ∧ o < 0xB800 ∧ o % 0x40 = 0x38 then (if s.liveP ((o - 0xB000) / 0x40) then 1 else 0)
  else if 0xC100 ≤ o ∧ o < 0xC300 ∧ o % 0x10 = 0 then
    let p := (o - 0xC100) / 0x10
    BitVec.ofNat 64 (s.regF o 0 1 + s.outstanding p * 2 ^ 16)
  else if 0xD100 ≤ o ∧ o < 0xD180 ∧ o % 8 = 0 then
    let l := s.link ((o - 0xD100) / 8)
    BitVec.ofNat 64 ((if l.up then 1 else 0) + s.counterField 16 l.retrains * 2 ^ 16 + s.counterField 32 l.retries * 2 ^ 32)
  else if o = lnkUeConn ∨ o = lnkUeConn + 8 then ((s.ueEntry false) >>> (8 * (o - lnkUeConn))).setWidth 64
  else if o = lnkUeWin ∨ o = lnkUeWin + 8 then ((s.ueEntry true) >>> (8 * (o - lnkUeWin))).setWidth 64
  else if 0xE400 ≤ o ∧ o < 0xE800 ∧ o % 0x20 = 8 then BitVec.ofNat 64 (s.leaseUsedBy ((o - 0xE400) / 0x20))
  else if 0xF000 ≤ o ∧ o < 0xF800 ∧ o % 0x40 = 0x20 then
    BitVec.ofNat 64 (s.l2.filter (fun t => t.part == (o - 0xF000) / 0x40 && t.pinned)).length
  else s.reg o

/-- What a reader of BAR0 is shown: the physical function its registers; of a virtual function's BAR0, which holds HST_NOTIFY
alone, every offset reads zero (R340). -/
def State.regReadBy (s : State) (o : Nat) (w : Writer) : BitVec 64 := if w = .function then 0 else s.regRead o

end Sys2Proof.Machine
end

