-- ==== Sys2Proof/Machine/VectorOps.lean ====
section
/-! DEFINITION. Lanes of the V stream (R67, R212–R215): governed lane maps with their flags, predicate writes, and the
arithmetic, compare, conversion, quantisation and reduction of rows. -/

namespace Sys2Proof.Machine

open Sys2Proof

/-! ### Lanes -/

/-- Lane `i` of `s` bytes of an X row. -/
def Core.lane (c : Core) (row s i : Nat) : Nat := rowElem (c.row row) (8 * s) i

/-- The result of each lane of `n`, none where the governing predicate disables it (R214). -/
def Core.laneMap (c : Core) (s n : Nat) (gov : Bool) (f : Nat → Nat × Fl) : List (Option (Nat × Fl)) :=
  (List.range n).map (fun i => if !gov || c.enabled i s then some (f i) else none)

/-- The flags of lanes. -/
def laneFlags (rs : List (Option (Nat × Fl))) : List Fl := rs.map (fun r => match r with | some x => x.2 | none => flNone)

/-- A row with the results in elements of `w` bits; a disabled element keeps its bits. -/
def mergeLanes (old : Row) (w : Nat) (rs : List (Option (Nat × Fl))) : Row :=
  rowBuild old w rs.length (fun i => match rs.getD i none with | some x => x.1 | none => rowElem old w i)

/-- Writes lane results to row d and records their flags (R215). -/
def Core.putLanes (c : Core) (d w : Nat) (nf : Bool) (rs : List (Option (Nat × Fl))) : Core :=
  (c.setRow d (mergeLanes (c.row d) w rs)).raiseV nf (laneFlags rs)

/-- A governed instruction on every lane of `s` bytes of row d. -/
def Core.mapLanes (c : Core) (d s : Nat) (nf : Bool) (f : Nat → Nat × Fl) : Core :=
  c.putLanes d (8 * s) nf (c.laneMap s (256 / s) true f)

/-- A mode with the dither of lane i of a row (R53). -/
def Core.vmode (c : Core) (rc d i : Nat) : Rnd := Rnd.ofCode rc (dither c.dphase d i)

/-! ### Arithmetic (R217, R218) -/

/-- A rounding float operation on rows; c is lane i of vd. -/
def Core.vfloat (c : Core) (op : FOp) (f : FFmt) (s d a b rc : Nat) (nf : Bool) : Core :=
  c.mapLanes d s nf (fun i => op.run f (c.vmode rc d i) (c.lane a s i) (c.lane b s i) (c.lane d s i))

/-- `vmin` (lo) and `vmax`. -/
def Core.vminmax (c : Core) (lo : Bool) (f : FFmt) (s d a b : Nat) (nf : Bool) : Core :=
  c.mapLanes d s nf (fun i => fminmax f lo (c.lane a s i) (c.lane b s i))

/-- An exact integer operation on lanes of `s` bytes: modulo 2^(8 s), or clamped with sat (R218). -/
def Core.vint (c : Core) (op : Int → Int → Int) (s d a b : Nat) (sat : Bool) : Core :=
  let w := 8 * s
  c.mapLanes d s true (fun i =>
    let x := op (sgn w (c.lane a s i)) (sgn w (c.lane b s i))
    (low w (if sat then clampInt (-((2 ^ (w - 1) : Nat) : Int), (2 ^ (w - 1) : Nat) - 1) x else x), flNone))

/-- An operation on the 32-bit lanes as unsigned numbers. -/
def Core.vbit (c : Core) (op : Nat → Nat → Nat) (d a b : Nat) : Core :=
  c.mapLanes d 4 true (fun i => (op (c.lane a 4 i) (c.lane b 4 i) % 2 ^ 32, flNone))

/-! ### Predicates (R213) -/

/-- 128 bits from a function. -/
def bits128 (f : Nat → Bool) : BitVec 128 :=
  BitVec.ofNat 128 ((List.range 128).foldl (fun a u => if f u then a + 2 ^ u else a) 0)

/-- Writes lane conditions to a predicate: every bit of an enabled lane, the others kept. -/
def Core.putPred (c : Core) (p : BitVec 4) (s : Nat) (rs : List (Option (Bool × Fl))) : Core :=
  let old := c.getP p
  c.setP p (bits128 (fun u => match rs.getD (2 * u / s) none with | some x => x.1 | none => old.getLsbD u))

/-- The lane size of a type code (R219). -/
def typeSize (t : Nat) : Nat := match t with | 1 => 8 | 2 => 2 | 3 => 2 | 6 => 2 | _ => 4

/-- The float format of a type code. -/
def typeFmt (t : Nat) : Option FFmt :=
  match t with | 0 => some fmt32 | 1 => some fmt64 | 2 => some fmt16 | 3 => some fmtBf16 | _ => none

/-- An integer lane read in its type: UINT32 is unsigned. -/
def typeInt (t : Nat) (x : Nat) : Int := if t = 5 then (x : Int) else sgn (8 * typeSize t) x

/-- The condition of `vcmp` on two lanes (R219). -/
def vcond (t cond a b : Nat) : Bool × Fl :=
  match typeFmt t with
  | some f => fcond f cond a b
  | none =>
    (match cond with
     | 0 => decide (a = b)
     | 1 => decide (a ≠ b)
     | 2 => decide (typeInt t a < typeInt t b)
     | 3 => decide (typeInt t b ≤ typeInt t a)
     | 4 => decide (a < b)
     | _ => decide (b ≤ a), flNone)

/-- `vcmp` (R219). -/
def Core.vcmp (c : Core) (p : BitVec 4) (cond t a b : Nat) (nf : Bool) : Core :=
  let s := typeSize t
  let rs := (List.range (256 / s)).map (fun i =>
    if c.enabled i s then some (vcond t cond (c.lane a s i) (c.lane b s i)) else none)
  (c.putPred p s rs).raiseV nf (rs.map (fun r => match r with | some x => x.2 | none => flNone))

/-! ### Moves (R220) -/

/-- Rebuilds row d unit by unit of two bytes. -/
def Core.mapUnits (c : Core) (d : Nat) (f : Nat → Nat) : Core := c.setRow d (rowBuild (c.row d) 16 128 f)

/-! ### Special functions (R221) -/

/-- A special function on lanes: type 1 is FP64. -/
def Core.vspecial (c : Core) (fn : SpecialFn) (t d a rc : Nat) (nf : Bool) : Core :=
  let s := typeSize t
  c.mapLanes d s nf (fun i => specialRun fn (t == 1) rc (c.lane a s i))

/-- `vsqrt` and `vrcp`, correctly rounded. -/
def Core.vexact (c : Core) (op : FOp) (t d a rc : Nat) (nf : Bool) : Core :=
  let s := typeSize t
  c.mapLanes d s nf (fun i => op.run (laneFmt (t == 1)) (c.vmode rc d i) (c.lane a s i) 0 0)

/-! ### Conversions (R223–R226) -/

/-- `vcvt`: `h` is the hub, `out` runs from the hub to fmt. -/
def Core.vcvt (c : Core) (h f : EF) (out : Bool) (d a rc : Nat) (sat nf : Bool) : Core :=
  let s := h.width / 8
  let n := 256 / s
  if out then
    c.putLanes d f.width nf (c.laneMap s n true (fun i => convert h f (c.vmode rc d i) sat (c.lane a s i)))
  else
    c.putLanes d h.width nf (c.laneMap s n true (fun i =>
      convert f h (c.vmode rc d i) sat (rowElem (c.row a) f.width i)))

/-- Offset of the block scales in a packed row (Table 10.7). -/
def scaleOff (f : EF) : Nat := 8 * f.width + (if f = .sfp4 then 4 else 0)

/-- The tensor scale of an SFP4 row; 1 for every other format. -/
def rowTensor (f : EF) (r : Row) : Val := if f = .sfp4 then fmt32.decode (rowElem r 32 8) else .fin false 1 1

/-- Whether `vquant` treats a tensor scale as invalid (R226). -/
def tensorBad (v : Val) : Bool :=
  match v with | .nan _ => true | .inf _ => true | _ => v.isZero || v.neg

/-- Replaces byte `j` of a row. -/
def rowSetByte (r : Row) (j : Nat) (b : Nat) : Row := rowBuild r 8 256 (fun i => if i = j then b % 256 else rowElem r 8 i)

/-- Writes a block scale of `z` bytes. -/
def rowSetScale (r : Row) (off z code : Nat) : Row :=
  if z = 2 then rowSetByte (rowSetByte r off code) (off + 1) (code / 256) else rowSetByte r off code

/-- `vquant` (R226): two blocks of 32 lanes. -/
def Core.vquant (c : Core) (f : EF) (d a rc : Nat) (nf : Bool) : Core :=
  let old := c.row d
  let t := rowTensor f old
  let blk (k : Nat) : Nat × List (Nat × Fl) :=
    quantBlock f (tensorBad t) t ((List.range 32).map (fun i =>
      (fmt32.decode (c.lane a 4 (32 * k + i)), c.vmode rc d (32 * k + i))))
  let b0 := blk 0
  let b1 := blk 1
  let els := b0.2 ++ b1.2
  let z := f.scaleSize
  let r := rowBuild old f.width 64 (fun i => (els.getD i (0, 0)).1)
  (c.setRow d (rowSetScale (rowSetScale r (scaleOff f) z b0.1) (scaleOff f + z) z b1.1)).raiseV nf (els.map (·.2))

/-- `vexpand` (R226). -/
def Core.vexpand (c : Core) (f : EF) (d a rc : Nat) (nf : Bool) : Core :=
  let src := c.row a
  let t := rowTensor f src
  let z := f.scaleSize
  c.putLanes d 32 nf (c.laneMap 4 64 false (fun i =>
    let sc := rowElem src (8 * z) ((scaleOff f) / z + i / 32)
    let (x, fl0) := f.expandFl (rowElem src f.width i) sc
    let (v, fl) := x.mul t
    let (r, fl') := fmt32.round (c.vmode rc d i) false v
    (r, fl0 ||| fl ||| fl')))

/-! ### Reductions (R227) -/

/-- The result of a reduction with no enabled lane. -/
def redEmpty (kind t : Nat) : Nat :=
  match kind, typeFmt t with
  | 0, _ => 0
  | 1, some f => f.pack true f.infCode
  | _, some f => f.pack false f.infCode
  | 1, none => if t = 5 then 0 else 2 ^ (8 * typeSize t - 1)
  | _, none => if t = 5 then 2 ^ 32 - 1 else 2 ^ (8 * typeSize t - 1) - 1

/-- One step of a reduction: kind 0 sum, 1 maximum, 2 minimum. -/
def redStep (kind t : Nat) (mode : Rnd) (r x : Nat) : Nat × Fl :=
  match kind, typeFmt t with
  | 0, some f => FOp.add.run f mode r x 0
  | 0, none => ((r + x) % 2 ^ (8 * typeSize t), flNone)
  | 1, some f => fminmax f false r x
  | _, some f => fminmax f true r x
  | 1, none => (if typeInt t r < typeInt t x then x else r, flNone)
  | _, none => (if typeInt t x < typeInt t r then x else r, flNone)

/-- The reduction of lanes in order. -/
def redLanes (kind t : Nat) (mode : Rnd) (xs : List Nat) : Nat × Fl :=
  match xs with
  | [] => (redEmpty kind t, flNone)
  | x :: r => r.foldl (fun a y => let (z, f) := redStep kind t mode a.1 y; (z, a.2 ||| f)) (x, flNone)

/-- `vrsum`, `vrmax`, `vrmin`: the enabled lanes in increasing index, into lane 0. -/
def Core.vreduce (c : Core) (kind t d a rc : Nat) (nf : Bool) : Core :=
  let s := typeSize t
  let xs := ((List.range (256 / s)).filter (fun i => c.enabled i s)).map (fun i => c.lane a s i)
  let (r, fl) := redLanes kind t (c.vmode rc d 0) xs
  (c.setRow d (rowBuild (c.row d) (8 * s) 1 (fun _ => r))).raiseV nf [fl]

/-! ### Permutes (R228) -/

/-- Lane size of a size code (R228, R232). -/
def laneSize (z : BitVec 2) : Nat := 2 * 2 ^ z.toNat

/-- A governed permute: lane i of vd is lane `f i` of va. -/
def Core.permute (c : Core) (s d a : Nat) (f : Nat → Nat) : Core :=
  c.mapLanes d s true (fun i => (c.lane a s (f i), flNone))

end Sys2Proof.Machine
end

