-- ==== Sys2Proof/Machine/VectorAlu.lean ====
section
/-! DEFINITION. Vector arithmetic, compares, moves, special functions, conversions, quantisation, reductions and permutes
(R217–R228). Each maps its registers at issue (R66, R141) and reads every source before it writes. -/

namespace Sys2Proof.Machine

open Sys2Proof

/-! ### Float arithmetic (R217) -/

/-- `vadd.f32` (R217). -/
def execVaddF32 (tk : Tok) (d : BitVec 5) (a : BitVec 5) (b : BitVec 5) (r : BitVec 3) (n : BitVec 1) (w : BitVec 1) (σ : State) : Res :=
  vOp σ (.vaddF32 tk d a b r n w) tk (fun c => [c.vr w d, c.vr w a, c.vr w b])
    (fun c => c.vfloat .add fmt32 4 (c.vr w d) (c.vr w a) (c.vr w b) r.toNat (n == 1))

/-- `vsub.f32` (R217). -/
def execVsubF32 (tk : Tok) (d : BitVec 5) (a : BitVec 5) (b : BitVec 5) (r : BitVec 3) (n : BitVec 1) (w : BitVec 1) (σ : State) : Res :=
  vOp σ (.vsubF32 tk d a b r n w) tk (fun c => [c.vr w d, c.vr w a, c.vr w b])
    (fun c => c.vfloat .sub fmt32 4 (c.vr w d) (c.vr w a) (c.vr w b) r.toNat (n == 1))

/-- `vmul.f32` (R217). -/
def execVmulF32 (tk : Tok) (d : BitVec 5) (a : BitVec 5) (b : BitVec 5) (r : BitVec 3) (n : BitVec 1) (w : BitVec 1) (σ : State) : Res :=
  vOp σ (.vmulF32 tk d a b r n w) tk (fun c => [c.vr w d, c.vr w a, c.vr w b])
    (fun c => c.vfloat .mul fmt32 4 (c.vr w d) (c.vr w a) (c.vr w b) r.toNat (n == 1))

/-- `vfma.f32` (R217). -/
def execVfmaF32 (tk : Tok) (d : BitVec 5) (a : BitVec 5) (b : BitVec 5) (r : BitVec 3) (n : BitVec 1) (w : BitVec 1) (σ : State) : Res :=
  vOp σ (.vfmaF32 tk d a b r n w) tk (fun c => [c.vr w d, c.vr w a, c.vr w b])
    (fun c => c.vfloat .fma fmt32 4 (c.vr w d) (c.vr w a) (c.vr w b) r.toNat (n == 1))

/-- `vdiv.f32` (R217). -/
def execVdivF32 (tk : Tok) (d : BitVec 5) (a : BitVec 5) (b : BitVec 5) (r : BitVec 3) (n : BitVec 1) (w : BitVec 1) (σ : State) : Res :=
  vOp σ (.vdivF32 tk d a b r n w) tk (fun c => [c.vr w d, c.vr w a, c.vr w b])
    (fun c => c.vfloat .div fmt32 4 (c.vr w d) (c.vr w a) (c.vr w b) r.toNat (n == 1))

/-- `vmin.f32` (R217, R154). -/
def execVminF32 (tk : Tok) (d : BitVec 5) (a : BitVec 5) (b : BitVec 5) (n : BitVec 1) (w : BitVec 1) (σ : State) : Res :=
  vOp σ (.vminF32 tk d a b n w) tk (fun c => [c.vr w d, c.vr w a, c.vr w b])
    (fun c => c.vminmax true fmt32 4 (c.vr w d) (c.vr w a) (c.vr w b) (n == 1))

/-- `vmax.f32` (R217, R154). -/
def execVmaxF32 (tk : Tok) (d : BitVec 5) (a : BitVec 5) (b : BitVec 5) (n : BitVec 1) (w : BitVec 1) (σ : State) : Res :=
  vOp σ (.vmaxF32 tk d a b n w) tk (fun c => [c.vr w d, c.vr w a, c.vr w b])
    (fun c => c.vminmax false fmt32 4 (c.vr w d) (c.vr w a) (c.vr w b) (n == 1))

/-- `vadd.f64` (R217). -/
def execVaddF64 (tk : Tok) (d : BitVec 5) (a : BitVec 5) (b : BitVec 5) (r : BitVec 3) (n : BitVec 1) (w : BitVec 1) (σ : State) : Res :=
  vOp σ (.vaddF64 tk d a b r n w) tk (fun c => [c.vr w d, c.vr w a, c.vr w b])
    (fun c => c.vfloat .add fmt64 8 (c.vr w d) (c.vr w a) (c.vr w b) r.toNat (n == 1))

/-- `vsub.f64` (R217). -/
def execVsubF64 (tk : Tok) (d : BitVec 5) (a : BitVec 5) (b : BitVec 5) (r : BitVec 3) (n : BitVec 1) (w : BitVec 1) (σ : State) : Res :=
  vOp σ (.vsubF64 tk d a b r n w) tk (fun c => [c.vr w d, c.vr w a, c.vr w b])
    (fun c => c.vfloat .sub fmt64 8 (c.vr w d) (c.vr w a) (c.vr w b) r.toNat (n == 1))

/-- `vmul.f64` (R217). -/
def execVmulF64 (tk : Tok) (d : BitVec 5) (a : BitVec 5) (b : BitVec 5) (r : BitVec 3) (n : BitVec 1) (w : BitVec 1) (σ : State) : Res :=
  vOp σ (.vmulF64 tk d a b r n w) tk (fun c => [c.vr w d, c.vr w a, c.vr w b])
    (fun c => c.vfloat .mul fmt64 8 (c.vr w d) (c.vr w a) (c.vr w b) r.toNat (n == 1))

/-- `vfma.f64` (R217). -/
def execVfmaF64 (tk : Tok) (d : BitVec 5) (a : BitVec 5) (b : BitVec 5) (r : BitVec 3) (n : BitVec 1) (w : BitVec 1) (σ : State) : Res :=
  vOp σ (.vfmaF64 tk d a b r n w) tk (fun c => [c.vr w d, c.vr w a, c.vr w b])
    (fun c => c.vfloat .fma fmt64 8 (c.vr w d) (c.vr w a) (c.vr w b) r.toNat (n == 1))

/-- `vdiv.f64` (R217). -/
def execVdivF64 (tk : Tok) (d : BitVec 5) (a : BitVec 5) (b : BitVec 5) (r : BitVec 3) (n : BitVec 1) (w : BitVec 1) (σ : State) : Res :=
  vOp σ (.vdivF64 tk d a b r n w) tk (fun c => [c.vr w d, c.vr w a, c.vr w b])
    (fun c => c.vfloat .div fmt64 8 (c.vr w d) (c.vr w a) (c.vr w b) r.toNat (n == 1))

/-- `vmin.f64` (R217, R154). -/
def execVminF64 (tk : Tok) (d : BitVec 5) (a : BitVec 5) (b : BitVec 5) (n : BitVec 1) (w : BitVec 1) (σ : State) : Res :=
  vOp σ (.vminF64 tk d a b n w) tk (fun c => [c.vr w d, c.vr w a, c.vr w b])
    (fun c => c.vminmax true fmt64 8 (c.vr w d) (c.vr w a) (c.vr w b) (n == 1))

/-- `vmax.f64` (R217, R154). -/
def execVmaxF64 (tk : Tok) (d : BitVec 5) (a : BitVec 5) (b : BitVec 5) (n : BitVec 1) (w : BitVec 1) (σ : State) : Res :=
  vOp σ (.vmaxF64 tk d a b n w) tk (fun c => [c.vr w d, c.vr w a, c.vr w b])
    (fun c => c.vminmax false fmt64 8 (c.vr w d) (c.vr w a) (c.vr w b) (n == 1))

/-- `vadd.f16` (R217). -/
def execVaddF16 (tk : Tok) (d : BitVec 5) (a : BitVec 5) (b : BitVec 5) (r : BitVec 3) (n : BitVec 1) (w : BitVec 1) (σ : State) : Res :=
  vOp σ (.vaddF16 tk d a b r n w) tk (fun c => [c.vr w d, c.vr w a, c.vr w b])
    (fun c => c.vfloat .add fmt16 2 (c.vr w d) (c.vr w a) (c.vr w b) r.toNat (n == 1))

/-- `vsub.f16` (R217). -/
def execVsubF16 (tk : Tok) (d : BitVec 5) (a : BitVec 5) (b : BitVec 5) (r : BitVec 3) (n : BitVec 1) (w : BitVec 1) (σ : State) : Res :=
  vOp σ (.vsubF16 tk d a b r n w) tk (fun c => [c.vr w d, c.vr w a, c.vr w b])
    (fun c => c.vfloat .sub fmt16 2 (c.vr w d) (c.vr w a) (c.vr w b) r.toNat (n == 1))

/-- `vmul.f16` (R217). -/
def execVmulF16 (tk : Tok) (d : BitVec 5) (a : BitVec 5) (b : BitVec 5) (r : BitVec 3) (n : BitVec 1) (w : BitVec 1) (σ : State) : Res :=
  vOp σ (.vmulF16 tk d a b r n w) tk (fun c => [c.vr w d, c.vr w a, c.vr w b])
    (fun c => c.vfloat .mul fmt16 2 (c.vr w d) (c.vr w a) (c.vr w b) r.toNat (n == 1))

/-- `vfma.f16` (R217). -/
def execVfmaF16 (tk : Tok) (d : BitVec 5) (a : BitVec 5) (b : BitVec 5) (r : BitVec 3) (n : BitVec 1) (w : BitVec 1) (σ : State) : Res :=
  vOp σ (.vfmaF16 tk d a b r n w) tk (fun c => [c.vr w d, c.vr w a, c.vr w b])
    (fun c => c.vfloat .fma fmt16 2 (c.vr w d) (c.vr w a) (c.vr w b) r.toNat (n == 1))

/-- `vdiv.f16` (R217). -/
def execVdivF16 (tk : Tok) (d : BitVec 5) (a : BitVec 5) (b : BitVec 5) (r : BitVec 3) (n : BitVec 1) (w : BitVec 1) (σ : State) : Res :=
  vOp σ (.vdivF16 tk d a b r n w) tk (fun c => [c.vr w d, c.vr w a, c.vr w b])
    (fun c => c.vfloat .div fmt16 2 (c.vr w d) (c.vr w a) (c.vr w b) r.toNat (n == 1))

/-- `vmin.f16` (R217, R154). -/
def execVminF16 (tk : Tok) (d : BitVec 5) (a : BitVec 5) (b : BitVec 5) (n : BitVec 1) (w : BitVec 1) (σ : State) : Res :=
  vOp σ (.vminF16 tk d a b n w) tk (fun c => [c.vr w d, c.vr w a, c.vr w b])
    (fun c => c.vminmax true fmt16 2 (c.vr w d) (c.vr w a) (c.vr w b) (n == 1))

/-- `vmax.f16` (R217, R154). -/
def execVmaxF16 (tk : Tok) (d : BitVec 5) (a : BitVec 5) (b : BitVec 5) (n : BitVec 1) (w : BitVec 1) (σ : State) : Res :=
  vOp σ (.vmaxF16 tk d a b n w) tk (fun c => [c.vr w d, c.vr w a, c.vr w b])
    (fun c => c.vminmax false fmt16 2 (c.vr w d) (c.vr w a) (c.vr w b) (n == 1))

/-- `vadd.bf16` (R217). -/
def execVaddBf16 (tk : Tok) (d : BitVec 5) (a : BitVec 5) (b : BitVec 5) (r : BitVec 3) (n : BitVec 1) (w : BitVec 1) (σ : State) : Res :=
  vOp σ (.vaddBf16 tk d a b r n w) tk (fun c => [c.vr w d, c.vr w a, c.vr w b])
    (fun c => c.vfloat .add fmtBf16 2 (c.vr w d) (c.vr w a) (c.vr w b) r.toNat (n == 1))

/-- `vsub.bf16` (R217). -/
def execVsubBf16 (tk : Tok) (d : BitVec 5) (a : BitVec 5) (b : BitVec 5) (r : BitVec 3) (n : BitVec 1) (w : BitVec 1) (σ : State) : Res :=
  vOp σ (.vsubBf16 tk d a b r n w) tk (fun c => [c.vr w d, c.vr w a, c.vr w b])
    (fun c => c.vfloat .sub fmtBf16 2 (c.vr w d) (c.vr w a) (c.vr w b) r.toNat (n == 1))

/-- `vmul.bf16` (R217). -/
def execVmulBf16 (tk : Tok) (d : BitVec 5) (a : BitVec 5) (b : BitVec 5) (r : BitVec 3) (n : BitVec 1) (w : BitVec 1) (σ : State) : Res :=
  vOp σ (.vmulBf16 tk d a b r n w) tk (fun c => [c.vr w d, c.vr w a, c.vr w b])
    (fun c => c.vfloat .mul fmtBf16 2 (c.vr w d) (c.vr w a) (c.vr w b) r.toNat (n == 1))

/-- `vfma.bf16` (R217). -/
def execVfmaBf16 (tk : Tok) (d : BitVec 5) (a : BitVec 5) (b : BitVec 5) (r : BitVec 3) (n : BitVec 1) (w : BitVec 1) (σ : State) : Res :=
  vOp σ (.vfmaBf16 tk d a b r n w) tk (fun c => [c.vr w d, c.vr w a, c.vr w b])
    (fun c => c.vfloat .fma fmtBf16 2 (c.vr w d) (c.vr w a) (c.vr w b) r.toNat (n == 1))

/-- `vdiv.bf16` (R217). -/
def execVdivBf16 (tk : Tok) (d : BitVec 5) (a : BitVec 5) (b : BitVec 5) (r : BitVec 3) (n : BitVec 1) (w : BitVec 1) (σ : State) : Res :=
  vOp σ (.vdivBf16 tk d a b r n w) tk (fun c => [c.vr w d, c.vr w a, c.vr w b])
    (fun c => c.vfloat .div fmtBf16 2 (c.vr w d) (c.vr w a) (c.vr w b) r.toNat (n == 1))

/-- `vmin.bf16` (R217, R154). -/
def execVminBf16 (tk : Tok) (d : BitVec 5) (a : BitVec 5) (b : BitVec 5) (n : BitVec 1) (w : BitVec 1) (σ : State) : Res :=
  vOp σ (.vminBf16 tk d a b n w) tk (fun c => [c.vr w d, c.vr w a, c.vr w b])
    (fun c => c.vminmax true fmtBf16 2 (c.vr w d) (c.vr w a) (c.vr w b) (n == 1))

/-- `vmax.bf16` (R217, R154). -/
def execVmaxBf16 (tk : Tok) (d : BitVec 5) (a : BitVec 5) (b : BitVec 5) (n : BitVec 1) (w : BitVec 1) (σ : State) : Res :=
  vOp σ (.vmaxBf16 tk d a b n w) tk (fun c => [c.vr w d, c.vr w a, c.vr w b])
    (fun c => c.vminmax false fmtBf16 2 (c.vr w d) (c.vr w a) (c.vr w b) (n == 1))

/-! ### Integer arithmetic (R218) -/

/-- `vadd.i32` (R218). -/
def execVaddI32 (tk : Tok) (d : BitVec 5) (a : BitVec 5) (b : BitVec 5) (s : BitVec 1) (w : BitVec 1) (σ : State) : Res :=
  vOp σ (.vaddI32 tk d a b s w) tk (fun c => [c.vr w d, c.vr w a, c.vr w b])
    (fun c => c.vint (· + ·) 4 (c.vr w d) (c.vr w a) (c.vr w b) (s == 1))

/-- `vsub.i32` (R218). -/
def execVsubI32 (tk : Tok) (d : BitVec 5) (a : BitVec 5) (b : BitVec 5) (s : BitVec 1) (w : BitVec 1) (σ : State) : Res :=
  vOp σ (.vsubI32 tk d a b s w) tk (fun c => [c.vr w d, c.vr w a, c.vr w b])
    (fun c => c.vint (· - ·) 4 (c.vr w d) (c.vr w a) (c.vr w b) (s == 1))

/-- `vmul.i32` (R218). -/
def execVmulI32 (tk : Tok) (d : BitVec 5) (a : BitVec 5) (b : BitVec 5) (s : BitVec 1) (w : BitVec 1) (σ : State) : Res :=
  vOp σ (.vmulI32 tk d a b s w) tk (fun c => [c.vr w d, c.vr w a, c.vr w b])
    (fun c => c.vint (· * ·) 4 (c.vr w d) (c.vr w a) (c.vr w b) (s == 1))

/-- `vadd.i16` (R218). -/
def execVaddI16 (tk : Tok) (d : BitVec 5) (a : BitVec 5) (b : BitVec 5) (s : BitVec 1) (w : BitVec 1) (σ : State) : Res :=
  vOp σ (.vaddI16 tk d a b s w) tk (fun c => [c.vr w d, c.vr w a, c.vr w b])
    (fun c => c.vint (· + ·) 2 (c.vr w d) (c.vr w a) (c.vr w b) (s == 1))

/-- `vsub.i16` (R218). -/
def execVsubI16 (tk : Tok) (d : BitVec 5) (a : BitVec 5) (b : BitVec 5) (s : BitVec 1) (w : BitVec 1) (σ : State) : Res :=
  vOp σ (.vsubI16 tk d a b s w) tk (fun c => [c.vr w d, c.vr w a, c.vr w b])
    (fun c => c.vint (· - ·) 2 (c.vr w d) (c.vr w a) (c.vr w b) (s == 1))

/-- `vmul.i16` (R218). -/
def execVmulI16 (tk : Tok) (d : BitVec 5) (a : BitVec 5) (b : BitVec 5) (s : BitVec 1) (w : BitVec 1) (σ : State) : Res :=
  vOp σ (.vmulI16 tk d a b s w) tk (fun c => [c.vr w d, c.vr w a, c.vr w b])
    (fun c => c.vint (· * ·) 2 (c.vr w d) (c.vr w a) (c.vr w b) (s == 1))

/-- `vmulh.i32`: bits [63:32] of the signed product (R218). -/
def execVmulhI32 (tk : Tok) (d : BitVec 5) (a : BitVec 5) (b : BitVec 5) (w : BitVec 1) (σ : State) : Res :=
  vOp σ (.vmulhI32 tk d a b w) tk (fun c => [c.vr w d, c.vr w a, c.vr w b])
    (fun c => c.vint (fun x y => x * y / 2 ^ 32) 4 (c.vr w d) (c.vr w a) (c.vr w b) false)

/-- `vand`: a AND b (R218). -/
def execVand (tk : Tok) (d : BitVec 5) (a : BitVec 5) (b : BitVec 5) (w : BitVec 1) (σ : State) : Res :=
  vOp σ (.vand tk d a b w) tk (fun c => [c.vr w d, c.vr w a, c.vr w b])
    (fun c => c.vbit (fun x y => x &&& y) (c.vr w d) (c.vr w a) (c.vr w b))

/-- `vor`: a OR b (R218). -/
def execVor (tk : Tok) (d : BitVec 5) (a : BitVec 5) (b : BitVec 5) (w : BitVec 1) (σ : State) : Res :=
  vOp σ (.vor tk d a b w) tk (fun c => [c.vr w d, c.vr w a, c.vr w b])
    (fun c => c.vbit (fun x y => x ||| y) (c.vr w d) (c.vr w a) (c.vr w b))

/-- `vxor`: a XOR b (R218). -/
def execVxor (tk : Tok) (d : BitVec 5) (a : BitVec 5) (b : BitVec 5) (w : BitVec 1) (σ : State) : Res :=
  vOp σ (.vxor tk d a b w) tk (fun c => [c.vr w d, c.vr w a, c.vr w b])
    (fun c => c.vbit (fun x y => x ^^^ y) (c.vr w d) (c.vr w a) (c.vr w b))

/-- `vandn`: a AND NOT b (R218). -/
def execVandn (tk : Tok) (d : BitVec 5) (a : BitVec 5) (b : BitVec 5) (w : BitVec 1) (σ : State) : Res :=
  vOp σ (.vandn tk d a b w) tk (fun c => [c.vr w d, c.vr w a, c.vr w b])
    (fun c => c.vbit (fun x y => x &&& (2 ^ 32 - 1 - y)) (c.vr w d) (c.vr w a) (c.vr w b))

/-- `vsll`: a shifted left by b[4:0] (R218). -/
def execVsll (tk : Tok) (d : BitVec 5) (a : BitVec 5) (b : BitVec 5) (w : BitVec 1) (σ : State) : Res :=
  vOp σ (.vsll tk d a b w) tk (fun c => [c.vr w d, c.vr w a, c.vr w b])
    (fun c => c.vbit (fun x y => x <<< (y % 32)) (c.vr w d) (c.vr w a) (c.vr w b))

/-- `vsrl`: a shifted right by b[4:0] (R218). -/
def execVsrl (tk : Tok) (d : BitVec 5) (a : BitVec 5) (b : BitVec 5) (w : BitVec 1) (σ : State) : Res :=
  vOp σ (.vsrl tk d a b w) tk (fun c => [c.vr w d, c.vr w a, c.vr w b])
    (fun c => c.vbit (fun x y => x >>> (y % 32)) (c.vr w d) (c.vr w a) (c.vr w b))

/-- `vsra`: a shifted right arithmetically by b[4:0] (R218). -/
def execVsra (tk : Tok) (d : BitVec 5) (a : BitVec 5) (b : BitVec 5) (w : BitVec 1) (σ : State) : Res :=
  vOp σ (.vsra tk d a b w) tk (fun c => [c.vr w d, c.vr w a, c.vr w b])
    (fun c => c.vbit (fun x y => low 32 (sgn 32 x / 2 ^ (y % 32))) (c.vr w d) (c.vr w a) (c.vr w b))

/-! ### Compare, move, select, broadcast (R219, R220) -/

/-- `vcmp` (R219). -/
def execVcmp (tk : Tok) (q : BitVec 4) (k : BitVec 3) (a : BitVec 5) (b : BitVec 5) (t : BitVec 3) (n : BitVec 1) (w : BitVec 1) (σ : State) : Res :=
  vOp σ (.vcmp tk q k a b t n w) tk (fun c => [c.vr w a, c.vr w b])
    (fun c => c.vcmp q k.toNat t.toNat (c.vr w a) (c.vr w b) (n == 1))

/-- `vmov`: by unit of two bytes (R220). -/
def execVmov (tk : Tok) (d : BitVec 5) (a : BitVec 5) (w : BitVec 1) (σ : State) : Res :=
  vOp σ (.vmov tk d a w) tk (fun c => [c.vr w d, c.vr w a])
    (fun c => c.mapUnits (c.vr w d) (fun u => if c.enabled u 2 then c.lane (c.vr w a) 2 u else c.lane (c.vr w d) 2 u))

/-- `vsel`: the governing predicate selects each unit (R220). -/
def execVsel (tk : Tok) (d : BitVec 5) (a : BitVec 5) (b : BitVec 5) (w : BitVec 1) (σ : State) : Res :=
  vOp σ (.vsel tk d a b w) tk (fun c => [c.vr w d, c.vr w a, c.vr w b])
    (fun c => c.mapUnits (c.vr w d) (fun u => if c.enabled u 2 then c.lane (c.vr w a) 2 u else c.lane (c.vr w b) 2 u))

/-- `vbcast`: byte j is byte j mod 8 of the x-register (R220). -/
def execVbcast (tk : Tok) (d : BitVec 5) (x : BitVec 4) (w : BitVec 1) (σ : State) : Res :=
  vOp σ (.vbcast tk d x w) tk (fun c => [c.vr w d])
    (fun c => c.mapUnits (c.vr w d) (fun u =>
      if c.enabled u 2 then fld (c.getX x).toNat (16 * (u % 4)) 16 else c.lane (c.vr w d) 2 u))

/-! ### Special functions (R221) -/

/-- `vsqrt`, correctly rounded (R221). -/
def execVsqrt (tk : Tok) (t : BitVec 2) (d : BitVec 5) (a : BitVec 5) (r : BitVec 3) (n : BitVec 1) (w : BitVec 1) (σ : State) : Res :=
  vOp σ (.vsqrt tk t d a r n w) tk (fun c => [c.vr w d, c.vr w a])
    (fun c => c.vexact .sqrt t.toNat (c.vr w d) (c.vr w a) r.toNat (n == 1))

/-- `vrcp`, correctly rounded (R221). -/
def execVrcp (tk : Tok) (t : BitVec 2) (d : BitVec 5) (a : BitVec 5) (r : BitVec 3) (n : BitVec 1) (w : BitVec 1) (σ : State) : Res :=
  vOp σ (.vrcp tk t d a r n w) tk (fun c => [c.vr w d, c.vr w a])
    (fun c => c.vexact .rcp t.toNat (c.vr w d) (c.vr w a) r.toNat (n == 1))

/-- `vrsqrt` within its bound (R221, R222). -/
def execVrsqrt (tk : Tok) (t : BitVec 2) (d : BitVec 5) (a : BitVec 5) (r : BitVec 3) (n : BitVec 1) (w : BitVec 1) (σ : State) : Res :=
  vOp σ (.vrsqrt tk t d a r n w) tk (fun c => [c.vr w d, c.vr w a])
    (fun c => c.vspecial .rsqrt t.toNat (c.vr w d) (c.vr w a) r.toNat (n == 1))

/-- `vexp2` within its bound (R221, R222). -/
def execVexp2 (tk : Tok) (t : BitVec 2) (d : BitVec 5) (a : BitVec 5) (r : BitVec 3) (n : BitVec 1) (w : BitVec 1) (σ : State) : Res :=
  vOp σ (.vexp2 tk t d a r n w) tk (fun c => [c.vr w d, c.vr w a])
    (fun c => c.vspecial .exp2 t.toNat (c.vr w d) (c.vr w a) r.toNat (n == 1))

/-- `vlog2` within its bound (R221, R222). -/
def execVlog2 (tk : Tok) (t : BitVec 2) (d : BitVec 5) (a : BitVec 5) (r : BitVec 3) (n : BitVec 1) (w : BitVec 1) (σ : State) : Res :=
  vOp σ (.vlog2 tk t d a r n w) tk (fun c => [c.vr w d, c.vr w a])
    (fun c => c.vspecial .log2 t.toNat (c.vr w d) (c.vr w a) r.toNat (n == 1))

/-- `vexp` within its bound (R221, R222). -/
def execVexp (tk : Tok) (t : BitVec 2) (d : BitVec 5) (a : BitVec 5) (r : BitVec 3) (n : BitVec 1) (w : BitVec 1) (σ : State) : Res :=
  vOp σ (.vexp tk t d a r n w) tk (fun c => [c.vr w d, c.vr w a])
    (fun c => c.vspecial .exp t.toNat (c.vr w d) (c.vr w a) r.toNat (n == 1))

/-- `vln` within its bound (R221, R222). -/
def execVln (tk : Tok) (t : BitVec 2) (d : BitVec 5) (a : BitVec 5) (r : BitVec 3) (n : BitVec 1) (w : BitVec 1) (σ : State) : Res :=
  vOp σ (.vln tk t d a r n w) tk (fun c => [c.vr w d, c.vr w a])
    (fun c => c.vspecial .ln t.toNat (c.vr w d) (c.vr w a) r.toNat (n == 1))

/-- `vsin` within its bound (R221, R222). -/
def execVsin (tk : Tok) (t : BitVec 2) (d : BitVec 5) (a : BitVec 5) (r : BitVec 3) (n : BitVec 1) (w : BitVec 1) (σ : State) : Res :=
  vOp σ (.vsin tk t d a r n w) tk (fun c => [c.vr w d, c.vr w a])
    (fun c => c.vspecial .sin t.toNat (c.vr w d) (c.vr w a) r.toNat (n == 1))

/-- `vcos` within its bound (R221, R222). -/
def execVcos (tk : Tok) (t : BitVec 2) (d : BitVec 5) (a : BitVec 5) (r : BitVec 3) (n : BitVec 1) (w : BitVec 1) (σ : State) : Res :=
  vOp σ (.vcos tk t d a r n w) tk (fun c => [c.vr w d, c.vr w a])
    (fun c => c.vspecial .cos t.toNat (c.vr w d) (c.vr w a) r.toNat (n == 1))

/-- `vtanh` within its bound (R221, R222). -/
def execVtanh (tk : Tok) (t : BitVec 2) (d : BitVec 5) (a : BitVec 5) (r : BitVec 3) (n : BitVec 1) (w : BitVec 1) (σ : State) : Res :=
  vOp σ (.vtanh tk t d a r n w) tk (fun c => [c.vr w d, c.vr w a])
    (fun c => c.vspecial .tanh t.toNat (c.vr w d) (c.vr w a) r.toNat (n == 1))

/-- `verf` within its bound (R221, R222). -/
def execVerf (tk : Tok) (t : BitVec 2) (d : BitVec 5) (a : BitVec 5) (r : BitVec 3) (n : BitVec 1) (w : BitVec 1) (σ : State) : Res :=
  vOp σ (.verf tk t d a r n w) tk (fun c => [c.vr w d, c.vr w a])
    (fun c => c.vspecial .erf t.toNat (c.vr w d) (c.vr w a) r.toNat (n == 1))

/-! ### Conversions and quantisation (R223–R226) -/

/-- The format of a field of a V word that R223 or R225 accepts. -/
def vfmt (f : BitVec 5) : EF := (EF.ofCode f.toNat).getD .f64

/-- `vcvt` through the F32 hub (R223, R224): e = 0 from the hub. -/
def execVcvtF32 (tk : Tok) (f : BitVec 5) (e : BitVec 1) (d : BitVec 5) (a : BitVec 5) (r : BitVec 3) (n : BitVec 1) (s : BitVec 1) (w : BitVec 1) (σ : State) : Res :=
  vOp σ (.vcvtF32 tk f e d a r n s w) tk (fun c => [c.vr w d, c.vr w a])
    (fun c => c.vcvt .f32 (vfmt f) (e == 0) (c.vr w d) (c.vr w a) r.toNat (s == 1) (n == 1))

/-- `vcvt` through the F64 hub (R223, R224): e = 0 from the hub. -/
def execVcvtF64 (tk : Tok) (f : BitVec 5) (e : BitVec 1) (d : BitVec 5) (a : BitVec 5) (r : BitVec 3) (n : BitVec 1) (s : BitVec 1) (w : BitVec 1) (σ : State) : Res :=
  vOp σ (.vcvtF64 tk f e d a r n s w) tk (fun c => [c.vr w d, c.vr w a])
    (fun c => c.vcvt .f64 (vfmt f) (e == 0) (c.vr w d) (c.vr w a) r.toNat (s == 1) (n == 1))

/-- `vcvt` through the I32 hub (R223, R224): e = 0 from the hub. -/
def execVcvtI32 (tk : Tok) (f : BitVec 5) (e : BitVec 1) (d : BitVec 5) (a : BitVec 5) (r : BitVec 3) (n : BitVec 1) (s : BitVec 1) (w : BitVec 1) (σ : State) : Res :=
  vOp σ (.vcvtI32 tk f e d a r n s w) tk (fun c => [c.vr w d, c.vr w a])
    (fun c => c.vcvt .i32 (vfmt f) (e == 0) (c.vr w d) (c.vr w a) r.toNat (s == 1) (n == 1))

/-- `vquant` (R225, R226). -/
def execVquant (tk : Tok) (f : BitVec 5) (d : BitVec 5) (a : BitVec 5) (r : BitVec 3) (n : BitVec 1) (w : BitVec 1) (σ : State) : Res :=
  vOp σ (.vquant tk f d a r n w) tk (fun c => [c.vr w d, c.vr w a])
    (fun c => c.vquant (vfmt f) (c.vr w d) (c.vr w a) r.toNat (n == 1))

/-- `vexpand` (R225, R226). -/
def execVexpand (tk : Tok) (f : BitVec 5) (d : BitVec 5) (a : BitVec 5) (r : BitVec 3) (n : BitVec 1) (w : BitVec 1) (σ : State) : Res :=
  vOp σ (.vexpand tk f d a r n w) tk (fun c => [c.vr w d, c.vr w a])
    (fun c => c.vexpand (vfmt f) (c.vr w d) (c.vr w a) r.toNat (n == 1))

/-! ### Reductions (R227) -/

/-- `vrsum` (R227). -/
def execVrsum (tk : Tok) (t : BitVec 3) (d : BitVec 5) (a : BitVec 5) (r : BitVec 3) (n : BitVec 1) (w : BitVec 1) (σ : State) : Res :=
  vOp σ (.vrsum tk t d a r n w) tk (fun c => [c.vr w d, c.vr w a])
    (fun c => c.vreduce 0 t.toNat (c.vr w d) (c.vr w a) r.toNat (n == 1))

/-- `vrmax` (R227). -/
def execVrmax (tk : Tok) (t : BitVec 3) (d : BitVec 5) (a : BitVec 5) (r : BitVec 3) (n : BitVec 1) (w : BitVec 1) (σ : State) : Res :=
  vOp σ (.vrmax tk t d a r n w) tk (fun c => [c.vr w d, c.vr w a])
    (fun c => c.vreduce 1 t.toNat (c.vr w d) (c.vr w a) r.toNat (n == 1))

/-- `vrmin` (R227). -/
def execVrmin (tk : Tok) (t : BitVec 3) (d : BitVec 5) (a : BitVec 5) (r : BitVec 3) (n : BitVec 1) (w : BitVec 1) (σ : State) : Res :=
  vOp σ (.vrmin tk t d a r n w) tk (fun c => [c.vr w d, c.vr w a])
    (fun c => c.vreduce 2 t.toNat (c.vr w d) (c.vr w a) r.toNat (n == 1))

/-! ### Permutes (R228) -/

/-- `vbcl` (R228). -/
def execVbcl (tk : Tok) (z : BitVec 2) (d : BitVec 5) (a : BitVec 5) (w : BitVec 1) (i : BitVec 7) (σ : State) : Res :=
  vOp σ (.vbcl tk z d a w i) tk (fun c => [c.vr w d, c.vr w a])
    (fun c => c.permute (laneSize z) (c.vr w d) (c.vr w a) (fun _ => i.toNat))

/-- `vrotl` (R228). -/
def execVrotl (tk : Tok) (z : BitVec 2) (d : BitVec 5) (a : BitVec 5) (w : BitVec 1) (i : BitVec 7) (σ : State) : Res :=
  vOp σ (.vrotl tk z d a w i) tk (fun c => [c.vr w d, c.vr w a])
    (fun c => c.permute (laneSize z) (c.vr w d) (c.vr w a) (fun j => (j + i.toNat) % (256 / laneSize z)))

/-- `vshuf` (R228). -/
def execVshuf (tk : Tok) (z : BitVec 2) (d : BitVec 5) (a : BitVec 5) (w : BitVec 1) (b : BitVec 5) (σ : State) : Res :=
  vOp σ (.vshuf tk z d a w b) tk (fun c => [c.vr w d, c.vr w a, c.vr w b])
    (fun c => c.permute (laneSize z) (c.vr w d) (c.vr w a) (fun j => c.lane (c.vr w b) (laneSize z) j % (256 / laneSize z)))

/-- `vzip` (R228). -/
def execVzip (tk : Tok) (z : BitVec 2) (d : BitVec 5) (a : BitVec 5) (w : BitVec 1) (σ : State) : Res :=
  vOp σ (.vzip tk z d a w) tk (fun c => [c.vr w d, c.vr w a])
    (fun c => c.permute (laneSize z) (c.vr w d) (c.vr w a) (fun j => if j % 2 = 0 then j / 2 else 256 / laneSize z / 2 + (j - 1) / 2))

end Sys2Proof.Machine
end

