-- ==== Sys2Proof/Machine/VectorMem.lean ====
section
/-! DEFINITION. Vector loads, stores, gathers and scatters (R229–R232). -/

namespace Sys2Proof.Machine

open Sys2Proof

/-! ### Rows and buffers (R229) -/

/-- The buffer of `vldr` and `vstr`. -/
def rowBuf (u : BitVec 2) : Buf := match u.toNat with | 0 => .A | 1 => .W | _ => .S

/-- The address check of R229: bits [63:19] zero, a multiple of 16, the whole row inside the buffer. -/
def rowAddrOk (b : Buf) (x : Reg) : Bool := x.toNat % 16 == 0 && decide (x.toNat / 2 ^ 19 = 0 ∧ x.toNat + 256 ≤ b.size)

/-- The space of a buffer as the moving core's V stream names it. -/
def bufSpace (σ : State) (b : Buf) : Space := if b = .S then .S σ.turn.core else .B b

/-- Hands over a row load: its push takes place when every access has returned (Table 10.2). -/
def vload (σ : State) (r : Except (Cause × Nat) (List Spec)) (row c s l : Nat) (push : BitVec 2) : Eff :=
  match r with
  | .error (f, a) => .fault f a
  | .ok sp => if sp.isEmpty then .go σ 0 else σ.sendLoad .V sp c s l (.vrow row) push

/-- Hands over a row store. -/
def vstore (σ : State) (r : Except (Cause × Nat) (List Spec)) (c s l : Nat) (push : BitVec 2) : Eff :=
  match r with
  | .error (f, a) => .fault f a
  | .ok sp => if sp.isEmpty then .go σ 0 else σ.sendStore .V sp c s l push

/-- The enabled accesses of a row of `n`-byte accesses. -/
def Core.accessesOf (c : Core) (n : Nat) : List Nat := (List.range (256 / n)).filter (fun j => c.enabled j n)

/-- Bytes of access j of a row. -/
def rowPart (r : Row) (n j : Nat) : AccKind := .store (leBytes n (rowElem r (8 * n) j))

/-- The enabled units of a buffer row at an offset: each is a buffer access of 2 bytes, and has no class (R65, R84, R87). -/
def State.unitRow (σ : State) (b : Buf) (off : Nat) (kind : Nat → AccKind) : List Spec :=
  (σ.cur.accessesOf 2).map (fun j => ⟨bufSpace σ b, off + 2 * j, 2, 2 * j, kind j⟩)

/-- `vldr` (R229): the enabled units of vd. -/
def execVldr (tk : Tok) (u : BitVec 2) (x : BitVec 4) (d : BitVec 5) (w : BitVec 1) (σ : State) : Res :=
  issue σ .V (.vldr tk u x d w) tk 2 (fun σ _ =>
    let c := σ.cur
    let b := rowBuf u
    let a := c.getX x
    if c.rowBusy [c.vr w d] then .wait
    else if !rowAddrOk b a then .fault .addressing 0
    else vload σ (.ok (σ.unitRow b a.toNat (fun _ => .load))) (c.vr w d) 16 0 0 tk.push)

/-- `vstr` (R229): a store to W: is an access-list fault, the lower rank of R303 where the address is bad too. -/
def execVstr (tk : Tok) (u : BitVec 2) (x : BitVec 4) (d : BitVec 5) (w : BitVec 1) (σ : State) : Res :=
  issue σ .V (.vstr tk u x d w) tk 2 (fun σ _ =>
    let c := σ.cur
    let b := rowBuf u
    let a := c.getX x
    if c.rowBusy [c.vr w d] then .wait
    else if b = .W then .fault .accessList 0
    else if !rowAddrOk b a then .fault .addressing 0
    else vstore σ (.ok (σ.unitRow b a.toNat (rowPart (c.row (c.vr w d)) 2))) 16 0 0 tk.push)

/-! ### Global rows (R230, R231) -/

/-- The accesses of `vld` and `vst` on G:, or the fault of the lowest rank that one of them raises (R4, R230, R231). -/
def State.gRow (σ : State) (x : Reg) (n : Nat) (kind : Nat → AccKind) : Except (Cause × Nat) (List Spec) :=
  let js := σ.cur.accessesOf n
  match js.find? (fun j => decide (2 ^ 56 < x.toNat + j * n + n)) with
  | some j => .error (.addressing, x.toNat + j * n)
  | none =>
    match js.find? (fun j =>
        σ.outlived (σ.partOf σ.turn.core) (x.toNat + j * n) || σ.outlived (σ.partOf σ.turn.core) (x.toNat + j * n + n - 1)) with
    | some j => .error (.outlived, x.toNat + j * n)
    | none => .ok (js.map (fun j => ⟨.G, x.toNat + j * n, n, j * n, kind j⟩))

/-- The accesses of `vld` and `vst` on SG: (R68, R230). -/
def State.sgRow (σ : State) (x : Reg) (n : Nat) (kind : Nat → AccKind) : Except (Cause × Nat) (List Spec) :=
  let js := σ.cur.accessesOf n
  if js.isEmpty then .ok []
  else
    match σ.cur.sgTarget σ.turn.core x with
    | none => .error (.accessList, 0)
    | some (w, off) =>
      if js.any (fun j => decide (0x40000 < off + j * n + n)) then .error (.addressing, 0)
      else .ok (js.map (fun j => ⟨.S w, off + j * n, n, j * n, kind j⟩))

/-- `vld` on G: (R230). -/
def execVldG (tk : Tok) (z : BitVec 2) (x : BitVec 4) (d : BitVec 5) (c : BitVec 4) (s : BitVec 3) (l : BitVec 2)
    (w : BitVec 1) (σ : State) : Res :=
  issue σ .V (.vldG tk z x d c s l w) tk 2 (fun σ _ =>
    let row := σ.cur.vr w d
    if σ.cur.rowBusy [row] ∨ σ.cur.barred .V c.toNat then .wait
    else vload σ (σ.gRow (σ.cur.getX x) (4 * 2 ^ z.toNat) (fun _ => .load)) row c.toNat s.toNat l.toNat tk.push)

/-- `vst` on G: (R230). -/
def execVstG (tk : Tok) (z : BitVec 2) (x : BitVec 4) (d : BitVec 5) (c : BitVec 4) (s : BitVec 3) (l : BitVec 2)
    (w : BitVec 1) (σ : State) : Res :=
  issue σ .V (.vstG tk z x d c s l w) tk 2 (fun σ _ =>
    let row := σ.cur.vr w d
    let n := 4 * 2 ^ z.toNat
    if σ.cur.rowBusy [row] ∨ σ.cur.barred .V c.toNat then .wait
    else vstore σ (σ.gRow (σ.cur.getX x) n (rowPart (σ.cur.row row) n)) c.toNat s.toNat l.toNat tk.push)

/-- `vld` on SG: (R230). -/
def execVldSg (tk : Tok) (z : BitVec 2) (x : BitVec 4) (d : BitVec 5) (c : BitVec 4) (s : BitVec 3) (w : BitVec 1)
    (σ : State) : Res :=
  issue σ .V (.vldSg tk z x d c s w) tk 2 (fun σ _ =>
    let row := σ.cur.vr w d
    if σ.cur.rowBusy [row] ∨ σ.cur.barred .V c.toNat then .wait
    else vload σ (σ.sgRow (σ.cur.getX x) (4 * 2 ^ z.toNat) (fun _ => .load)) row c.toNat s.toNat 0 tk.push)

/-- `vst` on SG: (R230). -/
def execVstSg (tk : Tok) (z : BitVec 2) (x : BitVec 4) (d : BitVec 5) (c : BitVec 4) (s : BitVec 3) (w : BitVec 1)
    (σ : State) : Res :=
  issue σ .V (.vstSg tk z x d c s w) tk 2 (fun σ _ =>
    let row := σ.cur.vr w d
    let n := 4 * 2 ^ z.toNat
    if σ.cur.rowBusy [row] ∨ σ.cur.barred .V c.toNat then .wait
    else vstore σ (σ.sgRow (σ.cur.getX x) n (rowPart (σ.cur.row row) n)) c.toNat s.toNat 0 tk.push)

/-! ### Buffer gathers and scatters (R232) -/

/-- The buffer of `vgath` and `vscat`. -/
def gathBuf (u : BitVec 1) : Buf := if u = 0 then .A else .W

/-- The offset of the element of lane i. -/
def Core.elemOff (c : Core) (x : Reg) (vi s i : Nat) : Nat := x.toNat + c.lane vi s i * s

/-- The address check of R232. -/
def Core.gathOk (c : Core) (b : Buf) (x : Reg) (vi s : Nat) : Bool :=
  decide (x.toNat / 2 ^ 19 = 0) && x.toNat % s == 0 &&
    (List.range (256 / s)).all (fun i => !c.enabled i s || decide (c.elemOff x vi s i + s ≤ b.size))

/-- `vgath` (R232). -/
def execVgath (tk : Tok) (z : BitVec 2) (u : BitVec 1) (d i : BitVec 5) (x : BitVec 4) (w : BitVec 1) (σ : State) : Res :=
  issue σ .V (.vgath tk z u d i x w) tk 2 (fun σ _ =>
    let c := σ.cur
    let s := laneSize z
    let vi := c.vr w i
    let a := c.getX x
    if c.rowBusy [c.vr w d, vi] then .wait
    else if !c.gathOk (gathBuf u) a vi s then .fault .addressing 0
    else
      vload σ (.ok ((c.accessesOf s).map (fun j => ⟨bufSpace σ (gathBuf u), c.elemOff a vi s j, s, s * j, .load⟩)))
        (c.vr w d) 16 0 0 tk.push)

/-- The enabled lanes of a scatter whose element no higher enabled lane names too. -/
def Core.topLanes (c : Core) (x : Reg) (vi s : Nat) : List Nat :=
  (c.accessesOf s).filter (fun i => !(c.accessesOf s).any (fun j => decide (i < j) && c.elemOff x vi s j == c.elemOff x vi s i))

/-- `vscat` (R232): a scatter to W: is an access-list fault. -/
def execVscat (tk : Tok) (z : BitVec 2) (u : BitVec 1) (d i : BitVec 5) (x : BitVec 4) (w : BitVec 1) (σ : State) : Res :=
  issue σ .V (.vscat tk z u d i x w) tk 2 (fun σ _ =>
    let c := σ.cur
    let s := laneSize z
    let vi := c.vr w i
    let a := c.getX x
    if c.rowBusy [c.vr w d, vi] then .wait
    else if u = 1 then .fault .accessList 0
    else if !c.gathOk .A a vi s then .fault .addressing 0
    else
      vstore σ
        (.ok ((c.topLanes a vi s).map (fun j => ⟨.B .A, c.elemOff a vi s j, s, s * j, rowPart (c.row (c.vr w d)) s j⟩)))
        16 0 0 tk.push)

end Sys2Proof.Machine
end

