-- ==== Sys2Proof/Machine/VectorScalar.lean ====
section
/-! DEFINITION. Predicates, x-registers, fences, flags and special registers of the V stream (R233–R237, R143). -/

namespace Sys2Proof.Machine

open Sys2Proof

/-- `pand` on all 128 bits (R233). -/
def execPand (tk : Tok) (d : BitVec 4) (a : BitVec 4) (b : BitVec 4) (σ : State) : Res :=
  vOp σ (.pand tk d a b) tk (fun _ => [])
    (fun c => c.setP d (c.getP a &&& c.getP b))

/-- `por` on all 128 bits (R233). -/
def execPor (tk : Tok) (d : BitVec 4) (a : BitVec 4) (b : BitVec 4) (σ : State) : Res :=
  vOp σ (.por tk d a b) tk (fun _ => [])
    (fun c => c.setP d (c.getP a ||| c.getP b))

/-- `pxor` on all 128 bits (R233). -/
def execPxor (tk : Tok) (d : BitVec 4) (a : BitVec 4) (b : BitVec 4) (σ : State) : Res :=
  vOp σ (.pxor tk d a b) tk (fun _ => [])
    (fun c => c.setP d (c.getP a ^^^ c.getP b))

/-- `pandn` on all 128 bits (R233). -/
def execPandn (tk : Tok) (d : BitVec 4) (a : BitVec 4) (b : BitVec 4) (σ : State) : Res :=
  vOp σ (.pandn tk d a b) tk (fun _ => [])
    (fun c => c.setP d (c.getP a &&& ~~~c.getP b))

/-- `pnot` on all 128 bits (R233). -/
def execPnot (tk : Tok) (d : BitVec 4) (a : BitVec 4) (σ : State) : Res :=
  vOp σ (.pnot tk d a) tk (fun _ => [])
    (fun c => c.setP d (~~~c.getP a))

/-- `pset` on all 128 bits (R233). -/
def execPset (tk : Tok) (d : BitVec 4) (σ : State) : Res :=
  vOp σ (.pset tk d) tk (fun _ => [])
    (fun c => c.setP d (BitVec.allOnes 128))

/-- `pclr` on all 128 bits (R233). -/
def execPclr (tk : Tok) (d : BitVec 4) (σ : State) : Res :=
  vOp σ (.pclr tk d) tk (fun _ => [])
    (fun c => c.setP d (0))

/-- `xli`: x[d] := SignExtend(imm) (R234). -/
def execXli (tk : Tok) (d : BitVec 4) (i : BitVec 16) (σ : State) : Res :=
  vOp σ (.xli tk d i) tk (fun _ => [])
    (fun c => c.setX d (i.signExtend 64))

/-- `xlis`: x[d] := (x[d] << 16) OR imm (R234). -/
def execXlis (tk : Tok) (d : BitVec 4) (i : BitVec 16) (σ : State) : Res :=
  vOp σ (.xlis tk d i) tk (fun _ => [])
    (fun c => c.setX d ((c.getX d <<< 16) ||| i.setWidth 64))

/-- `xadd`: x[d] := a + b (R234). -/
def execXadd (tk : Tok) (d : BitVec 4) (a : BitVec 4) (b : BitVec 4) (σ : State) : Res :=
  vOp σ (.xadd tk d a b) tk (fun _ => [])
    (fun c => c.setX d (c.getX a + c.getX b))

/-- `xsub`: x[d] := a − b (R234). -/
def execXsub (tk : Tok) (d : BitVec 4) (a : BitVec 4) (b : BitVec 4) (σ : State) : Res :=
  vOp σ (.xsub tk d a b) tk (fun _ => [])
    (fun c => c.setX d (c.getX a - c.getX b))

/-- `xand`: x[d] := a AND b (R234). -/
def execXand (tk : Tok) (d : BitVec 4) (a : BitVec 4) (b : BitVec 4) (σ : State) : Res :=
  vOp σ (.xand tk d a b) tk (fun _ => [])
    (fun c => c.setX d (c.getX a &&& c.getX b))

/-- `xor_x`: x[d] := a OR b (R234). -/
def execXorX (tk : Tok) (d : BitVec 4) (a : BitVec 4) (b : BitVec 4) (σ : State) : Res :=
  vOp σ (.xorX tk d a b) tk (fun _ => [])
    (fun c => c.setX d (c.getX a ||| c.getX b))

/-- `xxor`: x[d] := a XOR b (R234). -/
def execXxor (tk : Tok) (d : BitVec 4) (a : BitVec 4) (b : BitVec 4) (σ : State) : Res :=
  vOp σ (.xxor tk d a b) tk (fun _ => [])
    (fun c => c.setX d (c.getX a ^^^ c.getX b))

/-- `xsll`: x[d] := a shifted left by b[5:0] (R234). -/
def execXsll (tk : Tok) (d : BitVec 4) (a : BitVec 4) (b : BitVec 4) (σ : State) : Res :=
  vOp σ (.xsll tk d a b) tk (fun _ => [])
    (fun c => c.setX d (c.getX a <<< ((c.getX b).toNat % 64)))

/-- `xsrl`: x[d] := a shifted right by b[5:0] (R234). -/
def execXsrl (tk : Tok) (d : BitVec 4) (a : BitVec 4) (b : BitVec 4) (σ : State) : Res :=
  vOp σ (.xsrl tk d a b) tk (fun _ => [])
    (fun c => c.setX d (c.getX a >>> ((c.getX b).toNat % 64)))

/-- `xmul`: x[d] := bits [63:0] of a × b (R234). -/
def execXmul (tk : Tok) (d : BitVec 4) (a : BitVec 4) (b : BitVec 4) (σ : State) : Res :=
  vOp σ (.xmul tk d a b) tk (fun _ => [])
    (fun c => c.setX d (c.getX a * c.getX b))

/-- `vfence` (R235, R92). -/
def execVfence (tk : Tok) (m : BitVec 16) (s : BitVec 3) (σ : State) : Res :=
  issue σ .V (.vfence tk m s) tk 2 (fun σ _ => .go (σ.fenced .V m s) 0)

/-- The mask of a flag. -/
def Core.vflag (c : Core) (f : BitVec 3) : BitVec 128 := if h : f.toNat < 5 then c.vflags[f.toNat] else 0

/-- `vflrd` (R236): the mask goes to bytes 0–15 of vd. -/
def execVflrd (tk : Tok) (d : BitVec 5) (f : BitVec 3) (w : BitVec 1) (σ : State) : Res :=
  vOp σ (.vflrd tk d f w) tk (fun c => [c.vr w d])
    (fun c => c.setRow (c.vr w d) (rowBuild (c.row (c.vr w d)) 128 1 (fun _ => (c.vflag f).toNat)))

/-- `vflclr` (R236). -/
def execVflclr (tk : Tok) (f : BitVec 3) (σ : State) : Res :=
  vOp σ (.vflclr tk f) tk (fun _ => [])
    (fun c => c.clearV f.toNat)

/-- `vbase.w` (R237). -/
def execVbaseW (tk : Tok) (x : BitVec 4) (σ : State) : Res :=
  vOp σ (.vbaseW tk x) tk (fun _ => [])
    (fun c => { c with vbase := (c.getX x).setWidth 10 })

/-- `vbase.r` (R237). -/
def execVbaseR (tk : Tok) (x : BitVec 4) (σ : State) : Res :=
  vOp σ (.vbaseR tk x) tk (fun _ => [])
    (fun c => c.setX x (c.vbase.setWidth 64))

/-- `vrot.w` (R237). -/
def execVrotW (tk : Tok) (x : BitVec 4) (σ : State) : Res :=
  vOp σ (.vrotW tk x) tk (fun _ => [])
    (fun c => { c with rot := (c.getX x).setWidth 5 })

/-- `vrot.r` (R237). -/
def execVrotR (tk : Tok) (x : BitVec 4) (σ : State) : Res :=
  vOp σ (.vrotR tk x) tk (fun _ => [])
    (fun c => c.setX x (c.rot.setWidth 64))

/-- Compact `vgov` (R143). -/
def execVgov (p : BitVec 4) (σ : State) : Res :=
  issue σ .V (.vgov p) Tok.none 1 (fun σ _ => onCore σ (fun c => { c with vgov := p }))

end Sys2Proof.Machine
end

