-- ==== Sys2Proof/Machine/Dispatch.lean ====
section
/-! DEFINITION. The dispatch: one arm per instruction and event. -/

namespace Sys2Proof.Machine

open Sys2Proof

def exec (i : Instr) (s : State) : Host.Outcome State Fault Refusal :=
  match i with
  | .add tk d a b => Sys2Proof.Machine.execAdd tk d a b s
  | .sub tk d a b => Sys2Proof.Machine.execSub tk d a b s
  | .and tk d a b => Sys2Proof.Machine.execAnd tk d a b s
  | .or tk d a b => Sys2Proof.Machine.execOr tk d a b s
  | .xor tk d a b => Sys2Proof.Machine.execXor tk d a b s
  | .andn tk d a b => Sys2Proof.Machine.execAndn tk d a b s
  | .sll tk d a b => Sys2Proof.Machine.execSll tk d a b s
  | .srl tk d a b => Sys2Proof.Machine.execSrl tk d a b s
  | .sra tk d a b => Sys2Proof.Machine.execSra tk d a b s
  | .mul tk d a b => Sys2Proof.Machine.execMul tk d a b s
  | .mulh tk d a b => Sys2Proof.Machine.execMulh tk d a b s
  | .mulhu tk d a b => Sys2Proof.Machine.execMulhu tk d a b s
  | .div tk d a b => Sys2Proof.Machine.execDiv tk d a b s
  | .divu tk d a b => Sys2Proof.Machine.execDivu tk d a b s
  | .rem tk d a b => Sys2Proof.Machine.execRem tk d a b s
  | .remu tk d a b => Sys2Proof.Machine.execRemu tk d a b s
  | .min tk d a b => Sys2Proof.Machine.execMin tk d a b s
  | .max tk d a b => Sys2Proof.Machine.execMax tk d a b s
  | .minu tk d a b => Sys2Proof.Machine.execMinu tk d a b s
  | .maxu tk d a b => Sys2Proof.Machine.execMaxu tk d a b s
  | .clz tk d a => Sys2Proof.Machine.execClz tk d a s
  | .popc tk d a => Sys2Proof.Machine.execPopc tk d a s
  | .addi tk d a im => Sys2Proof.Machine.execAddi tk d a im s
  | .andi tk d a im => Sys2Proof.Machine.execAndi tk d a im s
  | .ori tk d a im => Sys2Proof.Machine.execOri tk d a im s
  | .xori tk d a im => Sys2Proof.Machine.execXori tk d a im s
  | .slli tk d a sc => Sys2Proof.Machine.execSlli tk d a sc s
  | .srli tk d a sc => Sys2Proof.Machine.execSrli tk d a sc s
  | .srai tk d a sc => Sys2Proof.Machine.execSrai tk d a sc s
  | .li tk d im => Sys2Proof.Machine.execLi tk d im s
  | .lis tk d im => Sys2Proof.Machine.execLis tk d im s
  | .cmp tk q c a b k n => Sys2Proof.Machine.execCmp tk q c a b k n s
  | .cmpi tk q c a im => Sys2Proof.Machine.execCmpi tk q c a im s
  | .qand tk d a b => Sys2Proof.Machine.execQand tk d a b s
  | .qor tk d a b => Sys2Proof.Machine.execQor tk d a b s
  | .qxor tk d a b => Sys2Proof.Machine.execQxor tk d a b s
  | .qandn tk d a b => Sys2Proof.Machine.execQandn tk d a b s
  | .qnot tk d a => Sys2Proof.Machine.execQnot tk d a s
  | .qset tk d => Sys2Proof.Machine.execQset tk d s
  | .qclr tk d => Sys2Proof.Machine.execQclr tk d s
  | .ld tk d a c sc l z => Sys2Proof.Machine.execLd tk d a c sc l z s
  | .st tk d a c sc l z => Sys2Proof.Machine.execSt tk d a c sc l z s
  | .ldl tk d a c sc e z => Sys2Proof.Machine.execLdl tk d a c sc e z s
  | .stl tk d a c sc e z => Sys2Proof.Machine.execStl tk d a c sc e z s
  | .amoG tk d a c sc o z => Sys2Proof.Machine.execAmoG tk d a c sc o z s
  | .amoS tk d a c sc o z => Sys2Proof.Machine.execAmoS tk d a c sc o z s
  | .amoSg tk d a c sc o z => Sys2Proof.Machine.execAmoSg tk d a c sc o z s
  | .redf tk b a c sc r t => Sys2Proof.Machine.execRedf tk b a c sc r t s
  | .faddF64 tk d a b r n => Sys2Proof.Machine.execFaddF64 tk d a b r n s
  | .fsubF64 tk d a b r n => Sys2Proof.Machine.execFsubF64 tk d a b r n s
  | .fmulF64 tk d a b r n => Sys2Proof.Machine.execFmulF64 tk d a b r n s
  | .fdivF64 tk d a b r n => Sys2Proof.Machine.execFdivF64 tk d a b r n s
  | .fminF64 tk d a b n => Sys2Proof.Machine.execFminF64 tk d a b n s
  | .fmaxF64 tk d a b n => Sys2Proof.Machine.execFmaxF64 tk d a b n s
  | .fsqrtF64 tk d a r n => Sys2Proof.Machine.execFsqrtF64 tk d a r n s
  | .ffmaF64 tk d a b r n => Sys2Proof.Machine.execFfmaF64 tk d a b r n s
  | .faddF32 tk d a b r n => Sys2Proof.Machine.execFaddF32 tk d a b r n s
  | .fsubF32 tk d a b r n => Sys2Proof.Machine.execFsubF32 tk d a b r n s
  | .fmulF32 tk d a b r n => Sys2Proof.Machine.execFmulF32 tk d a b r n s
  | .fdivF32 tk d a b r n => Sys2Proof.Machine.execFdivF32 tk d a b r n s
  | .fminF32 tk d a b n => Sys2Proof.Machine.execFminF32 tk d a b n s
  | .fmaxF32 tk d a b n => Sys2Proof.Machine.execFmaxF32 tk d a b n s
  | .fsqrtF32 tk d a r n => Sys2Proof.Machine.execFsqrtF32 tk d a r n s
  | .ffmaF32 tk d a b r n => Sys2Proof.Machine.execFfmaF32 tk d a b r n s
  | .cvt tk d a sc t r n u => Sys2Proof.Machine.execCvt tk d a sc t r n u s
  | .bq tk q o => Sys2Proof.Machine.execBq tk q o s
  | .bnq tk q o => Sys2Proof.Machine.execBnq tk q o s
  | .j tk o => Sys2Proof.Machine.execJ tk o s
  | .call tk o => Sys2Proof.Machine.execCall tk o s
  | .jmpr tk a => Sys2Proof.Machine.execJmpr tk a s
  | .callr tk a => Sys2Proof.Machine.execCallr tk a s
  | .ret tk => Sys2Proof.Machine.execRet tk s
  | .ifence tk => Sys2Proof.Machine.execIfence tk s
  | .fence tk m sc => Sys2Proof.Machine.execFence tk m sc s
  | .waitw tk b a k sc c => Sys2Proof.Machine.execWaitw tk b a k sc c s
  | .exit p a n => Sys2Proof.Machine.execExit p a n s
  | .arenaH tk d im => Sys2Proof.Machine.execArenaH tk d im s
  | .arenaA tk d im a => Sys2Proof.Machine.execArenaA tk d im a s
  | .engage tk q d a b => Sys2Proof.Machine.execEngage tk q d a b s
  | .lease tk q d a => Sys2Proof.Machine.execLease tk q d a s
  | .unlease tk q a => Sys2Proof.Machine.execUnlease tk q a s
  | .mfsr tk d sc => Sys2Proof.Machine.execMfsr tk d sc s
  | .mtsr tk a sc => Sys2Proof.Machine.execMtsr tk a sc s
  | .trap p c => Sys2Proof.Machine.execTrap p c s
  | .brk p c => Sys2Proof.Machine.execBrk p c s
  | .take tk r => Sys2Proof.Machine.execTake tk r s
  | .give tk r => Sys2Proof.Machine.execGive tk r s
  | .nopToken tk => Sys2Proof.Machine.execNopToken tk s
  | .kset tk k im => Sys2Proof.Machine.execKset tk k im s
  | .kinc tk k im => Sys2Proof.Machine.execKinc tk k im s
  | .kwge tk k im => Sys2Proof.Machine.execKwge tk k im s
  | .kwgs tk k im => Sys2Proof.Machine.execKwgs tk k im s
  | .kwlt tk k im => Sys2Proof.Machine.execKwlt tk k im s
  | .kread tk k d => Sys2Proof.Machine.execKread tk k d s
  | .kincr tk k sc => Sys2Proof.Machine.execKincr tk k sc s
  | .blockHeader l r sc g n => Sys2Proof.Machine.execBlockHeader l r sc g n s
  | .nop => Sys2Proof.Machine.execNop s
  | .mov d a => Sys2Proof.Machine.execMov d a s
  | .addc d im => Sys2Proof.Machine.execAddc d im s
  | .lic d im => Sys2Proof.Machine.execLic d im s
  | .kincCompact k im => Sys2Proof.Machine.execKincCompact k im s
  | .cp1d tk g c sc l => Sys2Proof.Machine.execCp1d tk g c sc l s
  | .cp2d tk g c sc l => Sys2Proof.Machine.execCp2d tk g c sc l s
  | .cp3d tk g c sc l => Sys2Proof.Machine.execCp3d tk g c sc l s
  | .cpw1d tk g c sc l => Sys2Proof.Machine.execCpw1d tk g c sc l s
  | .cpw2d tk g c sc l => Sys2Proof.Machine.execCpw2d tk g c sc l s
  | .cpw3d tk g c sc l => Sys2Proof.Machine.execCpw3d tk g c sc l s
  | .cpl tk g c sc => Sys2Proof.Machine.execCpl tk g c sc s
  | .cpr tk g c sc => Sys2Proof.Machine.execCpr tk g c sc s
  | .cpm tk g c sc => Sys2Proof.Machine.execCpm tk g c sc s
  | .cvcp tk g c sc l r n u => Sys2Proof.Machine.execCvcp tk g c sc l r n u s
  | .pfBulk tk g c sc l => Sys2Proof.Machine.execPfBulk tk g c sc l s
  | .pfRel tk g c sc => Sys2Proof.Machine.execPfRel tk g c sc s
  | .lgath tk g c sc l => Sys2Proof.Machine.execLgath tk g c sc l s
  | .lscat tk g c sc l => Sys2Proof.Machine.execLscat tk g c sc l s
  | .lfill tk g c sc l => Sys2Proof.Machine.execLfill tk g c sc l s
  | .badd tk d a b => Sys2Proof.Machine.execBadd tk d a b s
  | .bsub tk d a b => Sys2Proof.Machine.execBsub tk d a b s
  | .band tk d a b => Sys2Proof.Machine.execBand tk d a b s
  | .bor tk d a b => Sys2Proof.Machine.execBor tk d a b s
  | .bxor tk d a b => Sys2Proof.Machine.execBxor tk d a b s
  | .bsll tk d a b => Sys2Proof.Machine.execBsll tk d a b s
  | .bsrl tk d a b => Sys2Proof.Machine.execBsrl tk d a b s
  | .bmul tk d a b => Sys2Proof.Machine.execBmul tk d a b s
  | .baddi tk d a im => Sys2Proof.Machine.execBaddi tk d a im s
  | .bli tk d im => Sys2Proof.Machine.execBli tk d im s
  | .blis tk d im => Sys2Proof.Machine.execBlis tk d im s
  | .bmov d a => Sys2Proof.Machine.execBmov d a s
  | .baddc d im => Sys2Proof.Machine.execBaddc d im s
  | .mma tk t a b g f r => Sys2Proof.Machine.execMma tk t a b g f r s
  | .mmat tk t a b g f r => Sys2Proof.Machine.execMmat tk t a b g f r s
  | .tclr tk t => Sys2Proof.Machine.execTclr tk t s
  | .tldA tk t b => Sys2Proof.Machine.execTldA tk t b s
  | .tldW tk t b => Sys2Proof.Machine.execTldW tk t b s
  | .drain tk t b d r e k im => Sys2Proof.Machine.execDrain tk t b d r e k im s
  | .eload tk r b n u => Sys2Proof.Machine.execEload tk r b n u s
  | .gli tk d im => Sys2Proof.Machine.execGli tk d im s
  | .glis tk d im => Sys2Proof.Machine.execGlis tk d im s
  | .tclrCompact t => Sys2Proof.Machine.execTclrCompact t s
  | .vaddF32 tk d a b r n w => Sys2Proof.Machine.execVaddF32 tk d a b r n w s
  | .vsubF32 tk d a b r n w => Sys2Proof.Machine.execVsubF32 tk d a b r n w s
  | .vmulF32 tk d a b r n w => Sys2Proof.Machine.execVmulF32 tk d a b r n w s
  | .vfmaF32 tk d a b r n w => Sys2Proof.Machine.execVfmaF32 tk d a b r n w s
  | .vminF32 tk d a b n w => Sys2Proof.Machine.execVminF32 tk d a b n w s
  | .vmaxF32 tk d a b n w => Sys2Proof.Machine.execVmaxF32 tk d a b n w s
  | .vdivF32 tk d a b r n w => Sys2Proof.Machine.execVdivF32 tk d a b r n w s
  | .vaddF64 tk d a b r n w => Sys2Proof.Machine.execVaddF64 tk d a b r n w s
  | .vsubF64 tk d a b r n w => Sys2Proof.Machine.execVsubF64 tk d a b r n w s
  | .vmulF64 tk d a b r n w => Sys2Proof.Machine.execVmulF64 tk d a b r n w s
  | .vfmaF64 tk d a b r n w => Sys2Proof.Machine.execVfmaF64 tk d a b r n w s
  | .vminF64 tk d a b n w => Sys2Proof.Machine.execVminF64 tk d a b n w s
  | .vmaxF64 tk d a b n w => Sys2Proof.Machine.execVmaxF64 tk d a b n w s
  | .vdivF64 tk d a b r n w => Sys2Proof.Machine.execVdivF64 tk d a b r n w s
  | .vaddF16 tk d a b r n w => Sys2Proof.Machine.execVaddF16 tk d a b r n w s
  | .vsubF16 tk d a b r n w => Sys2Proof.Machine.execVsubF16 tk d a b r n w s
  | .vmulF16 tk d a b r n w => Sys2Proof.Machine.execVmulF16 tk d a b r n w s
  | .vfmaF16 tk d a b r n w => Sys2Proof.Machine.execVfmaF16 tk d a b r n w s
  | .vminF16 tk d a b n w => Sys2Proof.Machine.execVminF16 tk d a b n w s
  | .vmaxF16 tk d a b n w => Sys2Proof.Machine.execVmaxF16 tk d a b n w s
  | .vdivF16 tk d a b r n w => Sys2Proof.Machine.execVdivF16 tk d a b r n w s
  | .vaddBf16 tk d a b r n w => Sys2Proof.Machine.execVaddBf16 tk d a b r n w s
  | .vsubBf16 tk d a b r n w => Sys2Proof.Machine.execVsubBf16 tk d a b r n w s
  | .vmulBf16 tk d a b r n w => Sys2Proof.Machine.execVmulBf16 tk d a b r n w s
  | .vfmaBf16 tk d a b r n w => Sys2Proof.Machine.execVfmaBf16 tk d a b r n w s
  | .vminBf16 tk d a b n w => Sys2Proof.Machine.execVminBf16 tk d a b n w s
  | .vmaxBf16 tk d a b n w => Sys2Proof.Machine.execVmaxBf16 tk d a b n w s
  | .vdivBf16 tk d a b r n w => Sys2Proof.Machine.execVdivBf16 tk d a b r n w s
  | .vaddI32 tk d a b sc w => Sys2Proof.Machine.execVaddI32 tk d a b sc w s
  | .vsubI32 tk d a b sc w => Sys2Proof.Machine.execVsubI32 tk d a b sc w s
  | .vmulI32 tk d a b sc w => Sys2Proof.Machine.execVmulI32 tk d a b sc w s
  | .vmulhI32 tk d a b w => Sys2Proof.Machine.execVmulhI32 tk d a b w s
  | .vand tk d a b w => Sys2Proof.Machine.execVand tk d a b w s
  | .vor tk d a b w => Sys2Proof.Machine.execVor tk d a b w s
  | .vxor tk d a b w => Sys2Proof.Machine.execVxor tk d a b w s
  | .vandn tk d a b w => Sys2Proof.Machine.execVandn tk d a b w s
  | .vsll tk d a b w => Sys2Proof.Machine.execVsll tk d a b w s
  | .vsrl tk d a b w => Sys2Proof.Machine.execVsrl tk d a b w s
  | .vsra tk d a b w => Sys2Proof.Machine.execVsra tk d a b w s
  | .vaddI16 tk d a b sc w => Sys2Proof.Machine.execVaddI16 tk d a b sc w s
  | .vsubI16 tk d a b sc w => Sys2Proof.Machine.execVsubI16 tk d a b sc w s
  | .vmulI16 tk d a b sc w => Sys2Proof.Machine.execVmulI16 tk d a b sc w s
  | .vcmp tk q c a b t n w => Sys2Proof.Machine.execVcmp tk q c a b t n w s
  | .vmov tk d a w => Sys2Proof.Machine.execVmov tk d a w s
  | .vsel tk d a b w => Sys2Proof.Machine.execVsel tk d a b w s
  | .vbcast tk d x w => Sys2Proof.Machine.execVbcast tk d x w s
  | .vsqrt tk t d a r n w => Sys2Proof.Machine.execVsqrt tk t d a r n w s
  | .vrsqrt tk t d a r n w => Sys2Proof.Machine.execVrsqrt tk t d a r n w s
  | .vexp2 tk t d a r n w => Sys2Proof.Machine.execVexp2 tk t d a r n w s
  | .vlog2 tk t d a r n w => Sys2Proof.Machine.execVlog2 tk t d a r n w s
  | .vexp tk t d a r n w => Sys2Proof.Machine.execVexp tk t d a r n w s
  | .vln tk t d a r n w => Sys2Proof.Machine.execVln tk t d a r n w s
  | .vsin tk t d a r n w => Sys2Proof.Machine.execVsin tk t d a r n w s
  | .vcos tk t d a r n w => Sys2Proof.Machine.execVcos tk t d a r n w s
  | .vtanh tk t d a r n w => Sys2Proof.Machine.execVtanh tk t d a r n w s
  | .verf tk t d a r n w => Sys2Proof.Machine.execVerf tk t d a r n w s
  | .vrcp tk t d a r n w => Sys2Proof.Machine.execVrcp tk t d a r n w s
  | .vcvtF32 tk f e d a r n sc w => Sys2Proof.Machine.execVcvtF32 tk f e d a r n sc w s
  | .vcvtF64 tk f e d a r n sc w => Sys2Proof.Machine.execVcvtF64 tk f e d a r n sc w s
  | .vcvtI32 tk f e d a r n sc w => Sys2Proof.Machine.execVcvtI32 tk f e d a r n sc w s
  | .vquant tk f d a r n w => Sys2Proof.Machine.execVquant tk f d a r n w s
  | .vexpand tk f d a r n w => Sys2Proof.Machine.execVexpand tk f d a r n w s
  | .vrsum tk t d a r n w => Sys2Proof.Machine.execVrsum tk t d a r n w s
  | .vrmax tk t d a r n w => Sys2Proof.Machine.execVrmax tk t d a r n w s
  | .vrmin tk t d a r n w => Sys2Proof.Machine.execVrmin tk t d a r n w s
  | .vbcl tk z d a w im => Sys2Proof.Machine.execVbcl tk z d a w im s
  | .vrotl tk z d a w im => Sys2Proof.Machine.execVrotl tk z d a w im s
  | .vshuf tk z d a w b => Sys2Proof.Machine.execVshuf tk z d a w b s
  | .vzip tk z d a w => Sys2Proof.Machine.execVzip tk z d a w s
  | .vldr tk u x d w => Sys2Proof.Machine.execVldr tk u x d w s
  | .vstr tk u x d w => Sys2Proof.Machine.execVstr tk u x d w s
  | .vldG tk z x d c sc l w => Sys2Proof.Machine.execVldG tk z x d c sc l w s
  | .vstG tk z x d c sc l w => Sys2Proof.Machine.execVstG tk z x d c sc l w s
  | .vldSg tk z x d c sc w => Sys2Proof.Machine.execVldSg tk z x d c sc w s
  | .vstSg tk z x d c sc w => Sys2Proof.Machine.execVstSg tk z x d c sc w s
  | .vgath tk z u d im x w => Sys2Proof.Machine.execVgath tk z u d im x w s
  | .vscat tk z u d im x w => Sys2Proof.Machine.execVscat tk z u d im x w s
  | .pand tk d a b => Sys2Proof.Machine.execPand tk d a b s
  | .por tk d a b => Sys2Proof.Machine.execPor tk d a b s
  | .pxor tk d a b => Sys2Proof.Machine.execPxor tk d a b s
  | .pandn tk d a b => Sys2Proof.Machine.execPandn tk d a b s
  | .pnot tk d a => Sys2Proof.Machine.execPnot tk d a s
  | .pset tk d => Sys2Proof.Machine.execPset tk d s
  | .pclr tk d => Sys2Proof.Machine.execPclr tk d s
  | .xli tk d im => Sys2Proof.Machine.execXli tk d im s
  | .xlis tk d im => Sys2Proof.Machine.execXlis tk d im s
  | .xadd tk d a b => Sys2Proof.Machine.execXadd tk d a b s
  | .xsub tk d a b => Sys2Proof.Machine.execXsub tk d a b s
  | .xand tk d a b => Sys2Proof.Machine.execXand tk d a b s
  | .xorX tk d a b => Sys2Proof.Machine.execXorX tk d a b s
  | .xxor tk d a b => Sys2Proof.Machine.execXxor tk d a b s
  | .xsll tk d a b => Sys2Proof.Machine.execXsll tk d a b s
  | .xsrl tk d a b => Sys2Proof.Machine.execXsrl tk d a b s
  | .xmul tk d a b => Sys2Proof.Machine.execXmul tk d a b s
  | .vfence tk m sc => Sys2Proof.Machine.execVfence tk m sc s
  | .vflrd tk d f w => Sys2Proof.Machine.execVflrd tk d f w s
  | .vflclr tk f => Sys2Proof.Machine.execVflclr tk f s
  | .vbaseW tk x => Sys2Proof.Machine.execVbaseW tk x s
  | .vbaseR tk x => Sys2Proof.Machine.execVbaseR tk x s
  | .vrotW tk x => Sys2Proof.Machine.execVrotW tk x s
  | .vrotR tk x => Sys2Proof.Machine.execVrotR tk x s
  | .vgov p => Sys2Proof.Machine.execVgov p s
  | .blockRunEnd v st => Sys2Proof.Machine.execBlockRunEnd v st s
  | .accessPerform v k => Sys2Proof.Machine.execAccessPerform v k s
  | .lCmdSourceReleased v k => Sys2Proof.Machine.execLCmdSourceReleased v k s
  | .lCmdDelivered v k => Sys2Proof.Machine.execLCmdDelivered v k s
  | .notifyWrite v k => Sys2Proof.Machine.execNotifyWrite v k s
  | .lCmdServiceFault v k => Sys2Proof.Machine.execLCmdServiceFault v k s
  | .mFinish v => Sys2Proof.Machine.execMFinish v s
  | .drainStart v => Sys2Proof.Machine.execDrainStart v s
  | .drainRow v => Sys2Proof.Machine.execDrainRow v s
  | .drainDelivered v => Sys2Proof.Machine.execDrainDelivered v s
  | .portStarvationFreeze b => Sys2Proof.Machine.execPortStarvationFreeze b s
  | .combEngineDecision v => Sys2Proof.Machine.execCombEngineDecision v s
  | .rowMax k => Sys2Proof.Machine.execRowMax k s
  | .rowExps k => Sys2Proof.Machine.execRowExps k s
  | .rowScale k => Sys2Proof.Machine.execRowScale k s
  | .rowAll k => Sys2Proof.Machine.execRowAll k s
  | .gthGet k => Sys2Proof.Machine.execGthGet k s
  | .gthPut k => Sys2Proof.Machine.execGthPut k s
  | .selTop k => Sys2Proof.Machine.execSelTop k s
  | .selPack k => Sys2Proof.Machine.execSelPack k s
  | .xfmTr k => Sys2Proof.Machine.execXfmTr k s
  | .colSum k => Sys2Proof.Machine.execColSum k s
  | .colBcast k => Sys2Proof.Machine.execColBcast k s
  | .colCat k => Sys2Proof.Machine.execColCat k s
  | .netSend k => Sys2Proof.Machine.execNetSend k s
  | .netWrite k => Sys2Proof.Machine.execNetWrite k s
  | .netPost k => Sys2Proof.Machine.execNetPost k s
  | .engineReleasedEvent k => Sys2Proof.Machine.execEngineReleasedEvent k s
  | .engineDeliveredEvent k => Sys2Proof.Machine.execEngineDeliveredEvent k s
  | .engineOccupancyEnd k => Sys2Proof.Machine.execEngineOccupancyEnd k s
  | .engineWakeDone e => Sys2Proof.Machine.execEngineWakeDone e s
  | .engineServiceFault k => Sys2Proof.Machine.execEngineServiceFault k s
  | .holdCreate e => Sys2Proof.Machine.execHoldCreate e s
  | .holdLapse e => Sys2Proof.Machine.execHoldLapse e s
  | .standingLeaseGrant e p => Sys2Proof.Machine.execStandingLeaseGrant e p s
  | .standingLeaseEnd e p => Sys2Proof.Machine.execStandingLeaseEnd e p s
  | .engineRecall e => Sys2Proof.Machine.execEngineRecall e s
  | .lsePccapWrite x => Sys2Proof.Machine.execLsePccapWrite x s
  | .lseSwcapWrite x => Sys2Proof.Machine.execLseSwcapWrite x s
  | .taskCompletion v => Sys2Proof.Machine.execTaskCompletion v s
  | .successorApply k => Sys2Proof.Machine.execSuccessorApply k s
  | .enqueuePacket k => Sys2Proof.Machine.execEnqueuePacket k s
  | .enqueueAck k => Sys2Proof.Machine.execEnqueueAck k s
  | .readyPacket k => Sys2Proof.Machine.execReadyPacket k s
  | .gangCompleteReport k => Sys2Proof.Machine.execGangCompleteReport k s
  | .arenaAllocate n => Sys2Proof.Machine.execArenaAllocate n s
  | .arenaZeroFillDone n => Sys2Proof.Machine.execArenaZeroFillDone n s
  | .gangPlace n => Sys2Proof.Machine.execGangPlace n s
  | .ageingInterval n => Sys2Proof.Machine.execAgeingInterval n s
  | .taskOverrun v => Sys2Proof.Machine.execTaskOverrun v s
  | .notify p im => Sys2Proof.Machine.execNotify p im s
  | .queueConsume im => Sys2Proof.Machine.execQueueConsume im s
  | .queueBind im x => Sys2Proof.Machine.execQueueBind im x s
  | .queueUnbind im => Sys2Proof.Machine.execQueueUnbind im s
  | .queueErrClear im => Sys2Proof.Machine.execQueueErrClear im s
  | .flogRead => Sys2Proof.Machine.execFlogRead s
  | .preemptRequest p => Sys2Proof.Machine.execPreemptRequest p s
  | .preemptResume p => Sys2Proof.Machine.execPreemptResume p s
  | .arenaSlotReset p => Sys2Proof.Machine.execArenaSlotReset p s
  | .registerWrite o x w => Sys2Proof.Machine.execRegisterWrite o x w s
  | .corePark v => Sys2Proof.Machine.execCorePark v s
  | .faultRecordWrite p => Sys2Proof.Machine.execFaultRecordWrite p s
  | .faultQueueWrite p c x => Sys2Proof.Machine.execFaultQueueWrite p c x s
  | .coreResume p v => Sys2Proof.Machine.execCoreResume p v s
  | .coreAbandon p v => Sys2Proof.Machine.execCoreAbandon p v s
  | .sideLogKick p v => Sys2Proof.Machine.execSideLogKick p v s
  | .frameRewrite p v => Sys2Proof.Machine.execFrameRewrite p v s
  | .sideLogReplay v k => Sys2Proof.Machine.execSideLogReplay v k s
  | .autoResume v => Sys2Proof.Machine.execAutoResume v s
  | .tlbInvalidate p x => Sys2Proof.Machine.execTlbInvalidate p x s
  | .invalidateDone p => Sys2Proof.Machine.execInvalidateDone p s
  | .atsResponse p a r => Sys2Proof.Machine.execAtsResponse p a r s
  | .pageResponse p a c => Sys2Proof.Machine.execPageResponse p a c s
  | .atsInvalidation p a z => Sys2Proof.Machine.execAtsInvalidation p a z s
  | .tileFill t => Sys2Proof.Machine.execTileFill t s
  | .layoutPrepare => Sys2Proof.Machine.execLayoutPrepare s
  | .layoutApplyRequest => Sys2Proof.Machine.execLayoutApplyRequest s
  | .layoutAbort => Sys2Proof.Machine.execLayoutAbort s
  | .lapBoundary => Sys2Proof.Machine.execLapBoundary s
  | .clusterScrubDone c => Sys2Proof.Machine.execClusterScrubDone c s
  | .pageReseal a => Sys2Proof.Machine.execPageReseal a s
  | .quotaInterval c => Sys2Proof.Machine.execQuotaInterval c s
  | .mpReset => Sys2Proof.Machine.execMpReset s
  | .rekeyRequest p => Sys2Proof.Machine.execRekeyRequest p s
  | .rekeySweepTile p => Sys2Proof.Machine.execRekeySweepTile p s
  | .capFlogRead => Sys2Proof.Machine.execCapFlogRead s
  | .slipClear p => Sys2Proof.Machine.execSlipClear p s
  | .priEnable p => Sys2Proof.Machine.execPriEnable p s
  | .tdiStateChange p t => Sys2Proof.Machine.execTdiStateChange p t s
  | .getVersion f x => Sys2Proof.Machine.execGetVersion f x s
  | .getCapabilities f x => Sys2Proof.Machine.execGetCapabilities f x s
  | .negotiateAlgorithms f x => Sys2Proof.Machine.execNegotiateAlgorithms f x s
  | .getDigests f x => Sys2Proof.Machine.execGetDigests f x s
  | .getCertificate f x => Sys2Proof.Machine.execGetCertificate f x s
  | .challenge f x => Sys2Proof.Machine.execChallenge f x s
  | .getMeasurements f x => Sys2Proof.Machine.execGetMeasurements f x s
  | .keyExchange f x => Sys2Proof.Machine.execKeyExchange f x s
  | .relayPacketReceive g p n m => Sys2Proof.Machine.execRelayPacketReceive g p n m s
  | .relayAck g p n => Sys2Proof.Machine.execRelayAck g p n s
  | .relayRto g p n => Sys2Proof.Machine.execRelayRto g p n s
  | .flitCrcError im => Sys2Proof.Machine.execFlitCrcError im s
  | .linkRetrain im => Sys2Proof.Machine.execLinkRetrain im s
  | .retrainTimeout im => Sys2Proof.Machine.execRetrainTimeout im s
  | .uePacketReceive c u => Sys2Proof.Machine.execUePacketReceive c u s
  | .ueAckReceive c n b => Sys2Proof.Machine.execUeAckReceive c n b s
  | .ueReorderTimeout c n => Sys2Proof.Machine.execUeReorderTimeout c n s
  | .ueRto c n => Sys2Proof.Machine.execUeRto c n s
  | .ueConnOpen im x => Sys2Proof.Machine.execUeConnOpen im x s
  | .ueConnClose im => Sys2Proof.Machine.execUeConnClose im s
  | .ueWindowWrite im x => Sys2Proof.Machine.execUeWindowWrite im x s
  | .coldReset => Sys2Proof.Machine.execColdReset s
  | .firmwareUpload m => Sys2Proof.Machine.execFirmwareUpload m s
  | .firmwareCommit => Sys2Proof.Machine.execFirmwareCommit s
  | .watchdogKick => Sys2Proof.Machine.execWatchdogKick s
  | .watchdogExpiry => Sys2Proof.Machine.execWatchdogExpiry s
  | .eccCorrected => Sys2Proof.Machine.execEccCorrected s
  | .uncorrectableError u => Sys2Proof.Machine.execUncorrectableError u s
  | .linkRetrainSuccess im => Sys2Proof.Machine.execLinkRetrainSuccess im s
  | .cClockChange f => Sys2Proof.Machine.execCClockChange f s
  | .refresh im => Sys2Proof.Machine.execRefresh im s

end Sys2Proof.Machine
end

