-- ==== Sys2Proof/Machine/Fetch.lean ====
section
/-! DEFINITION. Fetching the next word of a stream (R126, R131), and placing one where the next step fetches it. -/

namespace Sys2Proof.Machine

open Sys2Proof

/-- The device events: instructions that no stream's code encodes. -/
def isEvent (i : Instr) : Bool :=
  match i with
  | .blockRunEnd _ _ => true
  | .accessPerform _ _ => true
  | .lCmdSourceReleased _ _ => true
  | .lCmdDelivered _ _ => true
  | .notifyWrite _ _ => true
  | .lCmdServiceFault _ _ => true
  | .mFinish _ => true
  | .drainStart _ => true
  | .drainRow _ => true
  | .drainDelivered _ => true
  | .portStarvationFreeze _ => true
  | .combEngineDecision _ => true
  | .rowMax _ => true
  | .rowExps _ => true
  | .rowScale _ => true
  | .rowAll _ => true
  | .gthGet _ => true
  | .gthPut _ => true
  | .selTop _ => true
  | .selPack _ => true
  | .xfmTr _ => true
  | .colSum _ => true
  | .colBcast _ => true
  | .colCat _ => true
  | .netSend _ => true
  | .netWrite _ => true
  | .netPost _ => true
  | .engineReleasedEvent _ => true
  | .engineDeliveredEvent _ => true
  | .engineOccupancyEnd _ => true
  | .engineWakeDone _ => true
  | .engineServiceFault _ => true
  | .holdCreate _ => true
  | .holdLapse _ => true
  | .standingLeaseGrant _ _ => true
  | .standingLeaseEnd _ _ => true
  | .engineRecall _ => true
  | .lsePccapWrite _ => true
  | .lseSwcapWrite _ => true
  | .taskCompletion _ => true
  | .successorApply _ => true
  | .enqueuePacket _ => true
  | .enqueueAck _ => true
  | .readyPacket _ => true
  | .gangCompleteReport _ => true
  | .arenaAllocate _ => true
  | .arenaZeroFillDone _ => true
  | .gangPlace _ => true
  | .ageingInterval _ => true
  | .taskOverrun _ => true
  | .notify _ _ => true
  | .queueConsume _ => true
  | .queueBind _ _ => true
  | .queueUnbind _ => true
  | .queueErrClear _ => true
  | .flogRead => true
  | .preemptRequest _ => true
  | .preemptResume _ => true
  | .arenaSlotReset _ => true
  | .registerWrite _ _ _ => true
  | .corePark _ => true
  | .faultRecordWrite _ => true
  | .faultQueueWrite _ _ _ => true
  | .coreResume _ _ => true
  | .coreAbandon _ _ => true
  | .sideLogKick _ _ => true
  | .frameRewrite _ _ => true
  | .sideLogReplay _ _ => true
  | .autoResume _ => true
  | .tlbInvalidate _ _ => true
  | .invalidateDone _ => true
  | .atsResponse _ _ _ => true
  | .pageResponse _ _ _ => true
  | .atsInvalidation _ _ _ => true
  | .tileFill _ => true
  | .layoutPrepare => true
  | .layoutApplyRequest => true
  | .layoutAbort => true
  | .lapBoundary => true
  | .clusterScrubDone _ => true
  | .pageReseal _ => true
  | .quotaInterval _ => true
  | .mpReset => true
  | .rekeyRequest _ => true
  | .rekeySweepTile _ => true
  | .capFlogRead => true
  | .slipClear _ => true
  | .priEnable _ => true
  | .tdiStateChange _ _ => true
  | .getVersion _ _ => true
  | .getCapabilities _ _ => true
  | .negotiateAlgorithms _ _ => true
  | .getDigests _ _ => true
  | .getCertificate _ _ => true
  | .challenge _ _ => true
  | .getMeasurements _ _ => true
  | .keyExchange _ _ => true
  | .relayPacketReceive _ _ _ _ => true
  | .relayAck _ _ _ => true
  | .relayRto _ _ _ => true
  | .flitCrcError _ => true
  | .linkRetrain _ => true
  | .retrainTimeout _ => true
  | .uePacketReceive _ _ => true
  | .ueAckReceive _ _ _ => true
  | .ueReorderTimeout _ _ => true
  | .ueRto _ _ => true
  | .ueConnOpen _ _ => true
  | .ueConnClose _ => true
  | .ueWindowWrite _ _ => true
  | .coldReset => true
  | .firmwareUpload _ => true
  | .firmwareCommit => true
  | .watchdogKick => true
  | .watchdogExpiry => true
  | .eccCorrected => true
  | .uncorrectableError _ => true
  | .linkRetrainSuccess _ => true
  | .cClockChange _ => true
  | .refresh _ => true
  | _ => false

/-- What a stream does next. -/
inductive Fetch where
  | idle                        -- it does not move
  | runEnd                      -- it stands at the end of its block
  | bad (c : Cause) (o : Nat) (pop : BitVec 2)  -- its next word faults when it would issue: the halfword that has faulted, and its POP
  | word (i : Instr)

/-- Reads the halfword at offset `o` of the moving stream's block as a word that would issue does: one that is not in the loop
buffer is fetched, and one that is missing there is put into it (R131). -/
def State.readHalf (σ : State) (o : Nat) : State × Fetched :=
  let v := σ.turn.core
  let st := σ.turn.st
  let r := σ.cur.str st
  let f := σ.halfAt v st o
  if r.holds o ∨ !σ.cur.canIssue st then (σ, f)
  else
    let s1 := σ.fillHalf v (σ.partOf v) (r.blk.addr + 2 * o)
    if r.current ∧ o < r.lb.length ∧ f.bad.isNone then
      (s1.setCore v ((s1.core v).setStr st { (s1.core v).str st with lb := r.lb.set o (some f) }), f)
    else (s1, f)

/-- What a word of a stream is: one that does not decode, that runs past the block's end (R128), or that is no header where a
block is entered (R12), is an illegal instruction. -/
def wordOf (st : Stream) (len off : Nat) (h h2 : Fetched) : Fetch :=
  match h.bad with
  | some f => .bad f 0 0
  | none =>
    if h.half.toNat < 2 ^ 15 then
      (match decodeCompact st h.half.toNat with
       | some i => if len = 0 then .bad .illegal 0 0 else .word i
       | none => .bad .illegal 0 0)
    else
      let pop := popOf h.half
      if len ≠ 0 ∧ len ≤ off + 1 then .bad .illegal 0 pop
      else
        match h2.bad with
        | some f => .bad f 1 pop
        | none =>
          match decodeWord st (h.half.toNat * 2 ^ 16 + h2.half.toNat) with
          | some (.blockHeader l ro s g n) => .word (.blockHeader l ro s g n)
          | some i => if len = 0 then .bad .illegal 0 pop else .word i
          | none => .bad .illegal 0 pop

/-- The next of a stream of the moving core: the word at its offset, from the loop buffer or from memory. -/
def State.fetchNext (σ : State) : State × Fetch :=
  let c := σ.cur
  let st := σ.turn.st
  let r := c.str st
  if c.task.isNone || !c.moves st || r.ended then (σ, .idle)
  else if r.blk.len ≠ 0 ∧ r.blk.len ≤ r.off then (σ, .runEnd)
  else
    let (s1, h) := σ.readHalf r.off
    if h.bad.isSome ∨ h.half.toNat < 2 ^ 15 ∨ (r.blk.len ≠ 0 ∧ r.blk.len ≤ r.off + 1) then
      (s1, wordOf st r.blk.len r.off h h)
    else
      let (s2, h2) := s1.readHalf (r.off + 1)
      (s2, wordOf st r.blk.len r.off h h2)

/-- A fault of the next word, raised when it would issue, its token there (R11, R131, R146): its record names the halfword that
has faulted (R372). A word whose page has been asked for waits for the reply (R300). -/
def State.fetchFault (σ : State) (f : Cause) (o : Nat) (pop : BitVec 2) : State :=
  let c := σ.cur
  let v := σ.turn.core
  let st := σ.turn.st
  let a := (c.str st).pc + 2 * o
  if !c.canIssue st ∨ c.popWaits st pop then σ
  else if f = .hostOutstanding ∧ σ.preq.any (fun r => r.part == σ.partOf v && r.page == pageOf a && r.stage == 0) then σ
  else σ.setCore v (((σ.core v).waitOn (pagesOf f a)).park σ.now (c.recOf st f (if f = .illegal then 0 else a)))

/-- Host memory after what the host writes beside a step (log entry 7). -/
def hostWrites (m : Tab Byte) : Option (Nat × List Byte) → Tab Byte
  | none => m
  | some (a, bs) => (bs.foldl (fun (e : Tab Byte × Nat) b => (Tab.set 0 e.1 e.2 b, e.2 + 1)) (m, a)).1

/-- C-cycles pass, and with them calendar slots: 1,000 to the microsecond, stretched by f (R105, R323, R325). At the edge of a
C-cycle %dphase and %dstep take what the one before has left them (R54, R174), and slots of engines become free (R106). -/
def State.pass (σ : State) (cycles : Nat) : State :=
  let n := σ.slotFrac + 16000 * cycles
  let d := σ.stretch * σ.cclk
  let s1 : State := { σ with clock := σ.clock + cycles, slot := σ.slot + n / d, slotFrac := n % d }
  if cycles = 0 then s1
  else State.endSlots { s1 with cores := s1.cores.map (fun (e : Nat × Core) => (e.1, e.2.newCycle)) }

/-- The model's clock after a step: its number, the C-cycles it took, who moves next, and what the host wrote beside it
(log entries 1, 2, 7). The links and the holds of the engines follow the time (R110, R323). -/
def State.tickOn (σ : State) : State :=
  let s1 := ((σ.pass (Config.elapsed σ.tick)).slotOn σ.slot).holdsDue
  { s1 with
    tick := σ.tick + 1
    turn := Config.pick σ.tick
    hostMem := hostWrites σ.hostMem (Config.hostWrite σ.tick) }

/-- A task for `withFetchWord`: one core, one loop record. -/
def Task.probe : Task := ⟨0, 0, 0, [0], 0, 0, 0, [0], [[0, 4096, 0], [0, 4096, 0], [0, 4096, 0], [0, 4096, 0]], 1, none, 37, 0, 0, 500, 0, 0, 0⟩

/-- The loop buffer with the halfwords of a word at the place where the stream stands. -/
def Strm.probe (hs : List Half) (header : Bool) : Strm where
  ended := false
  phase := 1
  blk := ⟨4096, if header then 0 else 256, false, 0, 1, 1, 0, false, false⟩
  off := if header then 0 else 2
  lb := (if header then hs else [0, 0] ++ hs).map (fun h => some ⟨none, h⟩)
  lbAddr := 4096
  lbOk := true
  hold := []
  last := 0
  gone := false

/-- The halfwords of a table word in the order of their addresses: bits [31:16] of a 32-bit word lie first (R126). -/
def tableHalves (nbits w : Nat) : List Half :=
  if nbits ≤ 16 then [BitVec.ofNat 16 w, 0] else [BitVec.ofNat 16 (w / 2 ^ 16), BitVec.ofNat 16 w]

/-- The state in which the next step fetches a table word as an instruction of stream `st` of core 0 (log entry 6). -/
def State.probe (σ : State) (st : Stream) (hs : List Half) (header : Bool) : State :=
  { σ with
    turn := ⟨0, st, none⟩ }.setCore 0
      ({ σ.core 0 with st := .running, task := some Task.probe }.setStr st (Strm.probe hs header))

end Sys2Proof.Machine
end

