-- ==== Sys2Proof/Machine/Step.lean ====
section
/-! DEFINITION. One step of the device: the event that is due, or the next word of the stream whose turn it is; then
the clock moves on and the next agent is picked. -/

namespace Sys2Proof.Machine

open Sys2Proof

/-- What a stream's turn does once the releases that its core still holds are made: it issues its next word, or ends a run. -/
def stepStream (s : State) : Host.Outcome State Fault Refusal :=
  match s.fetchNext with
  | (t, .idle) => .next t
  | (t, .runEnd) => exec (.blockRunEnd t.turn.core t.turn.st) t
  | (t, .bad c o p) => .next (t.fetchFault c o p)
  | (t, .word i) => exec i t

/-- The step before the clock moves on. -/
def stepCore (s : State) : Host.Outcome State Fault Refusal :=
  match s.turn.ev with
  | some i => if isEvent i then exec i s else .next s
  | none => stepStream (s.flushAt s.turn.core)

/-- One step. -/
def step (s : State) : Host.Outcome State Fault Refusal :=
  match stepCore s with
  | .next t => .next t.tickOn
  | .fault f => .fault f
  | .refused r => .refused r

/-- The state in which the next step fetches and runs the table word `w`. -/
def State.withFetchWord (s : State) (nbits w : Nat) : State :=
  match streamOf nbits w with
  | some (st, .blockHeader _ _ _ _ _) => s.probe st (tableHalves nbits w) true
  | some (st, _) => s.probe st (tableHalves nbits w) false
  | none => s.probe .C (tableHalves nbits w) false

end Sys2Proof.Machine
end

