-- ==== Sys2Proof/Safety.lean ====
section
/-! DEFINITION. What claims about the device speak of: a run that does not stop, the canonical form of memory, the
registers that the spec hard-wires, and the bound that the spec sets to the special functions (R221). -/

namespace Sys2Proof

open Sys2Proof.Machine

/-! ### Tokens of a word -/

/-- The tokens that a word names (R127, R133); a compact form and a header name none, `exit`, `trap` and `brk` only a pop
(R149). -/
def Instr.tok (i : Instr) : Tok :=
  match i with
  | .ret tk | .ifence tk | .nopToken tk => tk
  | .qset tk _ | .qclr tk _ | .j tk _ | .call tk _ | .jmpr tk _ | .callr tk _ | .take tk _ | .give tk _ | .tclr tk _ |
    .pset tk _ | .pclr tk _ | .vflclr tk _ | .vbaseW tk _ | .vbaseR tk _ | .vrotW tk _ | .vrotR tk _ => tk
  | .clz tk _ _ | .popc tk _ _ | .li tk _ _ | .lis tk _ _ | .qnot tk _ _ | .bq tk _ _ | .bnq tk _ _ | .fence tk _ _ |
    .arenaH tk _ _ | .unlease tk _ _ | .mfsr tk _ _ | .mtsr tk _ _ | .kset tk _ _ | .kinc tk _ _ | .kwge tk _ _ |
    .kwgs tk _ _ | .kwlt tk _ _ | .kread tk _ _ | .kincr tk _ _ | .bli tk _ _ | .blis tk _ _ | .tldA tk _ _ |
    .tldW tk _ _ | .gli tk _ _ | .glis tk _ _ | .pnot tk _ _ | .xli tk _ _ | .xlis tk _ _ | .vfence tk _ _ => tk
  | .add tk _ _ _ | .sub tk _ _ _ | .and tk _ _ _ | .or tk _ _ _ | .xor tk _ _ _ | .andn tk _ _ _ | .sll tk _ _ _ |
    .srl tk _ _ _ | .sra tk _ _ _ | .mul tk _ _ _ | .mulh tk _ _ _ | .mulhu tk _ _ _ | .div tk _ _ _ |
    .divu tk _ _ _ | .rem tk _ _ _ | .remu tk _ _ _ | .min tk _ _ _ | .max tk _ _ _ | .minu tk _ _ _ |
    .maxu tk _ _ _ | .addi tk _ _ _ | .andi tk _ _ _ | .ori tk _ _ _ | .xori tk _ _ _ | .slli tk _ _ _ |
    .srli tk _ _ _ | .srai tk _ _ _ | .qand tk _ _ _ | .qor tk _ _ _ | .qxor tk _ _ _ | .qandn tk _ _ _ |
    .arenaA tk _ _ _ | .lease tk _ _ _ | .cpl tk _ _ _ | .cpr tk _ _ _ | .cpm tk _ _ _ | .pfRel tk _ _ _ |
    .badd tk _ _ _ | .bsub tk _ _ _ | .band tk _ _ _ | .bor tk _ _ _ | .bxor tk _ _ _ | .bsll tk _ _ _ |
    .bsrl tk _ _ _ | .bmul tk _ _ _ | .baddi tk _ _ _ | .vmov tk _ _ _ | .vbcast tk _ _ _ | .pand tk _ _ _ |
    .por tk _ _ _ | .pxor tk _ _ _ | .pandn tk _ _ _ | .xadd tk _ _ _ | .xsub tk _ _ _ | .xand tk _ _ _ |
    .xorX tk _ _ _ | .xxor tk _ _ _ | .xsll tk _ _ _ | .xsrl tk _ _ _ | .xmul tk _ _ _ | .vflrd tk _ _ _ => tk
  | .cmpi tk _ _ _ _ | .fminF64 tk _ _ _ _ | .fmaxF64 tk _ _ _ _ | .fsqrtF64 tk _ _ _ _ | .fminF32 tk _ _ _ _ |
    .fmaxF32 tk _ _ _ _ | .fsqrtF32 tk _ _ _ _ | .engage tk _ _ _ _ | .cp1d tk _ _ _ _ | .cp2d tk _ _ _ _ |
    .cp3d tk _ _ _ _ | .cpw1d tk _ _ _ _ | .cpw2d tk _ _ _ _ | .cpw3d tk _ _ _ _ | .pfBulk tk _ _ _ _ |
    .lgath tk _ _ _ _ | .lscat tk _ _ _ _ | .lfill tk _ _ _ _ | .eload tk _ _ _ _ | .vmulhI32 tk _ _ _ _ |
    .vand tk _ _ _ _ | .vor tk _ _ _ _ | .vxor tk _ _ _ _ | .vandn tk _ _ _ _ | .vsll tk _ _ _ _ | .vsrl tk _ _ _ _ |
    .vsra tk _ _ _ _ | .vsel tk _ _ _ _ | .vzip tk _ _ _ _ | .vldr tk _ _ _ _ | .vstr tk _ _ _ _ => tk
  | .faddF64 tk _ _ _ _ _ | .fsubF64 tk _ _ _ _ _ | .fmulF64 tk _ _ _ _ _ | .fdivF64 tk _ _ _ _ _ |
    .ffmaF64 tk _ _ _ _ _ | .faddF32 tk _ _ _ _ _ | .fsubF32 tk _ _ _ _ _ | .fmulF32 tk _ _ _ _ _ |
    .fdivF32 tk _ _ _ _ _ | .ffmaF32 tk _ _ _ _ _ | .waitw tk _ _ _ _ _ | .vminF32 tk _ _ _ _ _ |
    .vmaxF32 tk _ _ _ _ _ | .vminF64 tk _ _ _ _ _ | .vmaxF64 tk _ _ _ _ _ | .vminF16 tk _ _ _ _ _ |
    .vmaxF16 tk _ _ _ _ _ | .vminBf16 tk _ _ _ _ _ | .vmaxBf16 tk _ _ _ _ _ | .vaddI32 tk _ _ _ _ _ |
    .vsubI32 tk _ _ _ _ _ | .vmulI32 tk _ _ _ _ _ | .vaddI16 tk _ _ _ _ _ | .vsubI16 tk _ _ _ _ _ |
    .vmulI16 tk _ _ _ _ _ | .vbcl tk _ _ _ _ _ | .vrotl tk _ _ _ _ _ | .vshuf tk _ _ _ _ _ => tk
  | .cmp tk _ _ _ _ _ _ | .ld tk _ _ _ _ _ _ | .st tk _ _ _ _ _ _ | .ldl tk _ _ _ _ _ _ | .stl tk _ _ _ _ _ _ |
    .amoG tk _ _ _ _ _ _ | .amoS tk _ _ _ _ _ _ | .amoSg tk _ _ _ _ _ _ | .redf tk _ _ _ _ _ _ | .mma tk _ _ _ _ _ _ |
    .mmat tk _ _ _ _ _ _ | .vaddF32 tk _ _ _ _ _ _ | .vsubF32 tk _ _ _ _ _ _ | .vmulF32 tk _ _ _ _ _ _ |
    .vfmaF32 tk _ _ _ _ _ _ | .vdivF32 tk _ _ _ _ _ _ | .vaddF64 tk _ _ _ _ _ _ | .vsubF64 tk _ _ _ _ _ _ |
    .vmulF64 tk _ _ _ _ _ _ | .vfmaF64 tk _ _ _ _ _ _ | .vdivF64 tk _ _ _ _ _ _ | .vaddF16 tk _ _ _ _ _ _ |
    .vsubF16 tk _ _ _ _ _ _ | .vmulF16 tk _ _ _ _ _ _ | .vfmaF16 tk _ _ _ _ _ _ | .vdivF16 tk _ _ _ _ _ _ |
    .vaddBf16 tk _ _ _ _ _ _ | .vsubBf16 tk _ _ _ _ _ _ | .vmulBf16 tk _ _ _ _ _ _ | .vfmaBf16 tk _ _ _ _ _ _ |
    .vdivBf16 tk _ _ _ _ _ _ | .vsqrt tk _ _ _ _ _ _ | .vrsqrt tk _ _ _ _ _ _ | .vexp2 tk _ _ _ _ _ _ |
    .vlog2 tk _ _ _ _ _ _ | .vexp tk _ _ _ _ _ _ | .vln tk _ _ _ _ _ _ | .vsin tk _ _ _ _ _ _ | .vcos tk _ _ _ _ _ _ |
    .vtanh tk _ _ _ _ _ _ | .verf tk _ _ _ _ _ _ | .vrcp tk _ _ _ _ _ _ | .vquant tk _ _ _ _ _ _ |
    .vexpand tk _ _ _ _ _ _ | .vrsum tk _ _ _ _ _ _ | .vrmax tk _ _ _ _ _ _ | .vrmin tk _ _ _ _ _ _ |
    .vldSg tk _ _ _ _ _ _ | .vstSg tk _ _ _ _ _ _ | .vgath tk _ _ _ _ _ _ | .vscat tk _ _ _ _ _ _ => tk
  | .cvt tk _ _ _ _ _ _ _ | .cvcp tk _ _ _ _ _ _ _ | .drain tk _ _ _ _ _ _ _ | .vcmp tk _ _ _ _ _ _ _ |
    .vldG tk _ _ _ _ _ _ _ | .vstG tk _ _ _ _ _ _ _ => tk
  | .vcvtF32 tk _ _ _ _ _ _ _ _ | .vcvtF64 tk _ _ _ _ _ _ _ _ | .vcvtI32 tk _ _ _ _ _ _ _ _ => tk
  | .exit p _ _ | .trap p _ | .brk p _ => ⟨p, 0⟩
  | _ => Tok.none

/-- The register of a word of C that writes one s register and no flag: integer arithmetic, constants, and the reads of
counters, special registers and arenas (Tables 7.3, 7.8, 7.10, R151, R171, R176). -/
def Instr.intDest (i : Instr) : Option (BitVec 5) :=
  match i with
  | .mov d _ | .addc d _ | .lic d _ => some d
  | .clz _ d _ | .popc _ d _ | .li _ d _ | .lis _ d _ | .arenaH _ d _ | .mfsr _ d _ => some d
  | .kread _ _ d => some d
  | .add _ d _ _ | .sub _ d _ _ | .and _ d _ _ | .or _ d _ _ | .xor _ d _ _ | .andn _ d _ _ | .sll _ d _ _ |
    .srl _ d _ _ | .sra _ d _ _ | .mul _ d _ _ | .mulh _ d _ _ | .mulhu _ d _ _ | .div _ d _ _ | .divu _ d _ _ |
    .rem _ d _ _ | .remu _ d _ _ | .min _ d _ _ | .max _ d _ _ | .minu _ d _ _ | .maxu _ d _ _ | .addi _ d _ _ |
    .andi _ d _ _ | .ori _ d _ _ | .xori _ d _ _ | .slli _ d _ _ | .srli _ d _ _ | .srai _ d _ _ | .arenaA _ d _ _ => some d
  | _ => none

/-- The register of a float word of C, which may also set %sflags (R154, R155). -/
def Instr.floatDest (i : Instr) : Option (BitVec 5) :=
  match i with
  | .fminF64 _ d _ _ _ | .fmaxF64 _ d _ _ _ | .fsqrtF64 _ d _ _ _ | .fminF32 _ d _ _ _ | .fmaxF32 _ d _ _ _ |
    .fsqrtF32 _ d _ _ _ => some d
  | .faddF64 _ d _ _ _ _ | .fsubF64 _ d _ _ _ _ | .fmulF64 _ d _ _ _ _ | .fdivF64 _ d _ _ _ _ | .ffmaF64 _ d _ _ _ _ |
    .faddF32 _ d _ _ _ _ | .fsubF32 _ d _ _ _ _ | .fmulF32 _ d _ _ _ _ | .fdivF32 _ d _ _ _ _ | .ffmaF32 _ d _ _ _ _ => some d
  | .cvt _ d _ _ _ _ _ _ => some d
  | _ => none

/-- The register of an arithmetic word of L (R178). -/
def Instr.bDest (i : Instr) : Option (BitVec 4) :=
  match i with
  | .bmov d _ | .baddc d _ => some d
  | .bli _ d _ | .blis _ d _ => some d
  | .badd _ d _ _ | .bsub _ d _ _ | .band _ d _ _ | .bor _ d _ _ | .bxor _ d _ _ | .bsll _ d _ _ | .bsrl _ d _ _ |
    .bmul _ d _ _ | .baddi _ d _ _ => some d
  | _ => none

/-- The register of an x arithmetic word of V (R234). -/
def Instr.xDest (i : Instr) : Option (BitVec 4) :=
  match i with
  | .xli _ d _ | .xlis _ d _ => some d
  | .xadd _ d _ _ | .xsub _ d _ _ | .xand _ d _ _ | .xorX _ d _ _ | .xxor _ d _ _ | .xsll _ d _ _ | .xsrl _ d _ _ |
    .xmul _ d _ _ => some d
  | _ => none

/-- The bank bit and vector register of a word of V that writes one row (R217, R218, R220–R229, R232, R236). -/
def Instr.vDest (i : Instr) : Option (BitVec 1 × BitVec 5) :=
  match i with
  | .vmov _ d _ w | .vbcast _ d _ w | .vflrd _ d _ w => some (w, d)
  | .vmulhI32 _ d _ _ w | .vand _ d _ _ w | .vor _ d _ _ w | .vxor _ d _ _ w | .vandn _ d _ _ w | .vsll _ d _ _ w |
    .vsrl _ d _ _ w | .vsra _ d _ _ w | .vsel _ d _ _ w => some (w, d)
  | .vzip _ _ d _ w => some (w, d)
  | .vldr _ _ _ d w => some (w, d)
  | .vminF32 _ d _ _ _ w | .vmaxF32 _ d _ _ _ w | .vminF64 _ d _ _ _ w | .vmaxF64 _ d _ _ _ w | .vminF16 _ d _ _ _ w |
    .vmaxF16 _ d _ _ _ w | .vminBf16 _ d _ _ _ w | .vmaxBf16 _ d _ _ _ w | .vaddI32 _ d _ _ _ w |
    .vsubI32 _ d _ _ _ w | .vmulI32 _ d _ _ _ w | .vaddI16 _ d _ _ _ w | .vsubI16 _ d _ _ _ w | .vmulI16 _ d _ _ _ w => some (w, d)
  | .vbcl _ _ d _ w _ | .vrotl _ _ d _ w _ | .vshuf _ _ d _ w _ => some (w, d)
  | .vaddF32 _ d _ _ _ _ w | .vsubF32 _ d _ _ _ _ w | .vmulF32 _ d _ _ _ _ w | .vfmaF32 _ d _ _ _ _ w |
    .vdivF32 _ d _ _ _ _ w | .vaddF64 _ d _ _ _ _ w | .vsubF64 _ d _ _ _ _ w | .vmulF64 _ d _ _ _ _ w |
    .vfmaF64 _ d _ _ _ _ w | .vdivF64 _ d _ _ _ _ w | .vaddF16 _ d _ _ _ _ w | .vsubF16 _ d _ _ _ _ w |
    .vmulF16 _ d _ _ _ _ w | .vfmaF16 _ d _ _ _ _ w | .vdivF16 _ d _ _ _ _ w | .vaddBf16 _ d _ _ _ _ w |
    .vsubBf16 _ d _ _ _ _ w | .vmulBf16 _ d _ _ _ _ w | .vfmaBf16 _ d _ _ _ _ w | .vdivBf16 _ d _ _ _ _ w => some (w, d)
  | .vsqrt _ _ d _ _ _ w | .vrsqrt _ _ d _ _ _ w | .vexp2 _ _ d _ _ _ w | .vlog2 _ _ d _ _ _ w | .vexp _ _ d _ _ _ w |
    .vln _ _ d _ _ _ w | .vsin _ _ d _ _ _ w | .vcos _ _ d _ _ _ w | .vtanh _ _ d _ _ _ w | .verf _ _ d _ _ _ w |
    .vrcp _ _ d _ _ _ w | .vquant _ _ d _ _ _ w | .vexpand _ _ d _ _ _ w | .vrsum _ _ d _ _ _ w |
    .vrmax _ _ d _ _ _ w | .vrmin _ _ d _ _ _ w => some (w, d)
  | .vgath _ _ _ d _ _ w => some (w, d)
  | .vcvtF32 _ _ _ d _ _ _ _ w | .vcvtF64 _ _ _ d _ _ _ _ w | .vcvtI32 _ _ _ d _ _ _ _ w => some (w, d)
  | _ => none

end Sys2Proof

namespace Sys2Proof.Machine

open Sys2Proof

/-! ### Safe runs -/

/-- A step that gives a next state. -/
def SafeStep (s : State) : Prop := ∃ t, step s = .next t

/-- The state after `n` steps, none of which stops. -/
inductive Reaches : Nat → State → State → Prop where
  | refl (s : State) : Reaches 0 s s
  | next {n : Nat} {s t u : State} (h : step s = .next t) (r : Reaches n t u) : Reaches (n + 1) s u

/-- A run is safe when no step of it stops. -/
def SafeRun (s : State) : Prop := ∀ n t, Reaches n s t → SafeStep t

/-! ### Canonical memory -/

/-- The canonical form of a memory of bytes: addresses strictly rising, and no byte that an unlisted address reads as. -/
def Memory.wf (m : Tab Byte) : Bool := Tab.wf (fun _ => 0) m

/-- The canonical form of the device's memory and of host memory; the dirty bytes of the L2 stand in rising order. -/
def State.memWf (s : State) : Bool := Memory.wf s.mem && Memory.wf s.hostMem && s.l2b.sorted

/-- Every dirty byte of the L2 lies in a tile that is resident and dirty. -/
def State.dirtyOk (s : State) : Bool :=
  s.l2b.all (fun e => match s.l2.find? (fun t => t.tile == e.1 / 1024) with | some t => t.dirty | none => false)

/-! ### Issuing: what a word asks for, and what it leaves (R11, R13) -/

/-- The state from which a word takes effect and the payload it has popped; none while its pop queue is empty (R13), or a
release of its stream is pending, which the pop, an acquire, waits for (R89), or the token is C's and an `mtsr` before its push
has yet to take effect (R174). -/
def State.popped (s : State) (st : Stream) (tk : Tok) : Option (State × BitVec 32) :=
  match peer st tk.pop with
  | none => some (s, 0)
  | some p =>
    match s.cur.queue p st with
    | [] => none
    | x :: r =>
      if s.cur.released st ∧ (p ≠ .C ∨ !s.cur.srDue) then
        some ((s.setCore s.turn.core (s.cur.setQueue p st r)).note (s.popEv s.turn.core p st r.length), x)
      else none

/-- A word of stream `st` issues: the stream may issue, the word keeps the rules of R146, and its pop takes place, which
leaves `s1` and the payload `x`. -/
structure Issues (s : State) (st : Stream) (i : Instr) (tk : Tok) (s1 : State) (x : BitVec 32) : Prop where
  can : s.cur.canIssue st = true
  wf : i.wf st = true
  pop : s.popped st tk = some (s1, x)

/-- What issuing and finishing a word do to a core beside its effect: the task runs, the stream moves on by `hw` halfwords,
and its push of payload `x` is due. -/
def Core.finished (c : Core) (now : Now) (st : Stream) (hw : Nat) (push : BitVec 2) (x : BitVec 32) : Core :=
  ((c.start now).advance st hw).push st push x

/-- What issuing a word that finishes later does to a core beside its effect. -/
def Core.begun (c : Core) (now : Now) (st : Stream) (hw : Nat) : Core := (c.start now).advance st hw

/-- The moving core is replaced; nothing else changes. -/
def State.withCur (s : State) (c : Core) : State := s.setCore s.turn.core c

/-- The moving core is replaced, and makes the releases that it holds and may make. -/
def State.moved (s : State) (c : Core) : State := (s.withCur c).flushAt s.turn.core

/-- A word that finishes as it issues. Whenever it issues and is ready, the next state differs from the state after the
pop in the moving core alone, which is `eff` of what it was, with the word finished; then the releases due are made. -/
def Does (st : Stream) (hw : Nat) (tk : Tok) (i : Instr) (ready : Core → Bool) (eff : Core → Core) : Prop :=
  ∀ s s1 x, Issues s st i tk s1 x → ready s1.cur = true →
    exec i s = .next (s1.moved ((eff s1.cur).finished s.now st hw tk.push 0))

/-- A word that issues and finishes later. Whenever it issues and is ready, the next state differs from the state after
the pop in the moving core alone, which is `eff` of what it was, with the word begun; then the releases due are made. -/
def Begins (st : Stream) (hw : Nat) (tk : Tok) (i : Instr) (ready : State → Bool) (eff : State → Core) : Prop :=
  ∀ s s1 x, Issues s st i tk s1 x → ready s1 = true →
    exec i s = .next (s1.moved ((eff s1).begun s.now st hw))

/-- A word that takes a fault as it would issue (R18): the moving core parks with the cause, and nothing is popped. -/
def Faults (st : Stream) (tk : Tok) (i : Instr) (when : State → Bool) (cause : Cause) (addr : State → Nat) : Prop :=
  ∀ s s1 x, Issues s st i tk s1 x → when s1 = true →
    exec i s = .next (s.park s.turn.core (s.cur.recOf st cause (addr s1)))

/-- A word that waits: nothing changes, and it is tried again. -/
def Waits (st : Stream) (tk : Tok) (i : Instr) (when : State → Bool) : Prop :=
  ∀ s s1 x, Issues s st i tk s1 x → when s1 = true → exec i s = .next s

/-- A word that finishes as it issues, where the effect or the payload needs more than the moving core: `ready` and `eff`
speak of the state after the pop and of the payload popped. -/
def Finishes (st : Stream) (hw : Nat) (tk : Tok) (i : Instr) (ready : State → Bool) (eff : State → BitVec 32 → Core)
    (payload : State → BitVec 32) : Prop :=
  ∀ s s1 x, Issues s st i tk s1 x → ready s1 = true →
    exec i s = .next (s1.moved ((eff s1 x).finished s.now st hw tk.push (payload s1)))

/-- A word that finishes as it issues, and whose effect is an acquire or a fence that the model notes: the next state differs
from the state after the pop in that note and in the moving core, which is `eff` of the state; then the releases due are made. -/
def Observes (st : Stream) (hw : Nat) (tk : Tok) (i : Instr) (ready : State → Bool) (ev : State → Ev) (eff : State → Core) : Prop :=
  ∀ s s1 x, Issues s st i tk s1 x → ready s1 = true →
    exec i s = .next ((s1.note (ev s1)).moved ((eff s1).finished s.now st hw tk.push 0))

/-- Whether a test of counter k by the moving stream takes place now: its turn in the C-cycle has come (R168), its stream holds
no release that it waits for (R89, kind 5), and commands whose increment it observes have landed (R95). -/
def State.mayTest (s : State) (k : BitVec 6) : Bool :=
  s.cur.kTurn s.clock s.turn.st.kStep && s.cur.released s.turn.st && s.joins k.toNat

/-! ### Frames -/

/-- What the words of a core's streams compute with: the register files, the special registers, the counters, the buffers
and the return stack. Program counters, tokens and what is in flight stand outside. -/
structure Files where
  s : Vector Reg 32
  q : BitVec 8
  sflags : BitVec 5
  dphase : BitVec 8
  dstep : BitVec 8
  dphNext : Option (BitVec 8 × Bool)
  dstNext : Option (BitVec 8)
  ovf : Vector (BitVec 32) 18
  streak : Vector (BitVec 4) 6
  b : Vector Reg 16
  g : Vector Reg 16
  dty : Vector DType 8
  slots : Vector (Option (List (BitVec 32))) 8
  e : Vector Row 8
  x : Vector Reg 16
  p : Vector (BitVec 128) 16
  vbase : BitVec 10
  rot : BitVec 5
  vgov : BitVec 4
  vflags : Vector (BitVec 128) 5
  k : Vector (BitVec 24) 64
  bufW : Tab Byte
  bufA : Tab Byte
  bufS : Tab Byte
  bufX : Tab Row
  seed : Nat
  seedS : Nat
  ret : List Ret

/-- The files of a core. -/
def Core.files (c : Core) : Files where
  s := c.s
  q := c.q
  sflags := c.sflags
  dphase := c.dphase
  dstep := c.dstep
  dphNext := c.dphNext
  dstNext := c.dstNext
  ovf := c.ovf
  streak := c.streak
  b := c.b
  g := c.g
  dty := c.dty
  slots := c.slots
  e := c.e
  x := c.x
  p := c.p
  vbase := c.vbase
  rot := c.rot
  vgov := c.vgov
  vflags := c.vflags
  k := c.k
  bufW := c.bufW
  bufA := c.bufA
  bufS := c.bufS
  bufX := c.bufX
  seed := c.seed
  seedS := c.seedS
  ret := c.ret

/-- Whether a stream of a core holds an increment, or a write of a counter, that it has still to make (R168). -/
def Core.owesInc (c : Core) : Bool :=
  [Stream.C, .L, .M, .V].any (fun st => (c.str st).hold.any (fun h => match h.act with | .push _ _ => false | _ => true))

/-- The X rows of a core stand in rising order. Every write of a row keeps this. -/
def Core.rowsOk (c : Core) : Bool := c.bufX.sorted

/-! ### Transfers (R132, R165) -/

/-- A code address: even, bits [63:56] zero (R165). -/
def codeAddr (t : Nat) : Bool := t % 2 == 0 && decide (t / 2 ^ 56 = 0)

/-- Whether a target lies within C's current block, past its header's address (R132, R164). -/
def Core.inBlock (c : Core) (t : Nat) : Bool :=
  codeAddr t && decide ((c.str .C).blk.addr < t ∧ t < (c.str .C).blk.addr + 2 * (c.str .C).blk.len)

/-- Whether a target is the header of a block to enter: outside the current block, or its own header (R132, R164). -/
def State.atHeader (s : State) (t : Nat) : Bool :=
  codeAddr t && !s.cur.inBlock t && !s.notHeader s.turn.core (s.partOf s.turn.core) t

/-- Whether a target may be called: a header, wherever it lies (R165). -/
def State.callable (s : State) (t : Nat) : Bool := codeAddr t && !s.notHeader s.turn.core (s.partOf s.turn.core) t

/-- Issue moves within the current block. -/
def Core.movedTo (c : Core) (t : Nat) : Core :=
  c.setStr .C { c.str .C with off := (t - (c.str .C).blk.addr) / 2 }

/-- The current block ends, and the block at a header is entered. -/
def Core.enteredAt (c : Core) (t : Nat) : Core :=
  c.setStr .C { c.str .C with blk := Block.entering t false false, off := 0, last := 0 }

/-- A call: the block, the offset after the call and the run index are saved, and the block at a header is entered. -/
def Core.calledAt (c : Core) (t : Nat) : Core :=
  { c with ret := ⟨(c.str .C).blk, (c.str .C).off + 2, false⟩ :: c.ret }.setStr .C
    { c.str .C with blk := Block.entering t false true, off := 0, last := 0 }

/-! ### M words -/

/-- The core with one more instruction in the M queue (R201). -/
def Core.queuedM (c : Core) (op : MOp) (tk : Tok) (payload : BitVec 32) : Core :=
  { c with mq := c.mq ++ [⟨c.nextId, op, tk.push, payload, (c.str .M).pc, 0, none⟩], nextId := c.nextId + 1 }

/-! ### L commands -/

/-- The command that a word of L makes from its group. -/
def LForm.command (f : LForm) (i : Instr) (c : Core) (tk : Tok) (x : BitVec 32) : LCmd :=
  f.make i c (if tk.pop = 0 then none else some x)

/-- Whether a command may be handed over: there is room (R183, R304) and every check of Table 8.6 passes. -/
def State.acceptsL (s : State) (l : LCmd) : Bool :=
  decide (s.cur.lcmds.length < 32) && (!l.isGath || decide ((s.cur.lcmds.filter LCmd.isGath).length < 8)) &&
    (l.check s s.turn.core).isNone

/-- The moving core with a command handed over, all that it has to do before it. -/
def State.withCmd (s : State) (l : LCmd) : Core :=
  { s.cur with lcmds := s.cur.lcmds ++ [{ l with work := l.plan s s.turn.core }], nextId := s.cur.nextId + 1 }

/-! ### The special functions (R221, Table 10.4) -/

/-- A finite value as a real number. -/
def Val.IsReal (v : Val) (r : ℝ) : Prop :=
  match v with
  | .fin neg n d => d ≠ 0 ∧ r * d = (if neg then -1 else 1) * n
  | .root n d => d ≠ 0 ∧ 0 ≤ r ∧ r * r * d = n
  | _ => False

/-- `y` is the exact result of a special function at `x`. -/
def ExactSpecial (fn : SpecialFn) (x y : ℝ) : Prop :=
  match fn with
  | .rsqrt => y * Real.sqrt x = 1
  | .exp2 => y = (2 : ℝ) ^ x
  | .log2 => (2 : ℝ) ^ y = x
  | .exp => y = Real.exp x
  | .ln => y = Real.log x
  | .sin => y = Real.sin x
  | .cos => y = Real.cos x
  | .tanh => y = Real.tanh x
  | .erf => y * Real.sqrt Real.pi = 2 * ∫ t in (0 : ℝ)..x, Real.exp (-(t * t))

/-- The bound of Table 10.4, in ulp. -/
def ulpBound (fn : SpecialFn) : ℝ :=
  match fn with
  | .rsqrt | .exp2 | .log2 => 1
  | _ => 2

/-- The exponent e of R51 of an exact nonzero value. -/
def IsExp (f : FFmt) (y : ℝ) (e : ℤ) : Prop :=
  f.emin ≤ e ∧ |y| < (2 : ℝ) ^ (e + 1) ∧ ((2 : ℝ) ^ e ≤ |y| ∨ e = f.emin)

/-- On the side of the exact value that the mode names. -/
def OnSide (mode : Rnd) (r y : ℝ) : Prop :=
  match mode with
  | .rtz => |r| ≤ |y|
  | .rup => y ≤ r
  | .rdn => r ≤ y
  | _ => True

/-- The code that a special function returns for an operand code whose result is not representable. -/
def specialCode (fn : SpecialFn) (f64 : Bool) (rc x : Nat) : Nat := (approx fn f64 rc x).1

/-- What R221 says, over the reals, of the value that is returned where the exact result is not representable: within the
bound, on the side that the mode names; a sine or cosine of a large operand lies in −1 to 1. The step takes the free value only
where `allows` finds so; a claim over the reals takes this as a hypothesis (log entry 4). -/
def SpecialWithin : Prop :=
  ∀ (fn : SpecialFn) (f64 : Bool) (rc x e : Nat) (a y r : ℝ) (k : ℤ),
    e = specialCode fn f64 rc x → ((laneFmt f64).decode x).IsReal a → ExactSpecial fn a y →
    ((laneFmt f64).decode e).IsReal r → IsExp (laneFmt f64) y k →
    if (fn = .sin ∨ fn = .cos) ∧ 2 ^ 20 * Real.pi < |a| then -1 ≤ r ∧ r ≤ 1
    else |r - y| ≤ ulpBound fn * (2 : ℝ) ^ (k - (laneFmt f64).p + 1) ∧ OnSide (Rnd.ofCode rc 0) r y

end Sys2Proof.Machine
end

