-- ==== Sys2Proof/Certificates/Slice0/Obligations.lean ====
section
/-! DEFINITION. The statements of this row for the provers, in the words of the spec's rules. -/

open Sys2Proof Sys2Proof.Machine

/-- The words that the spec writes out decode to the instructions they stand for. Words of the four streams whose bits
the spec writes out decode to the instructions that the text beside them names, with every operand as written. C:
`ffma.f64` (R154), `add` (R150), `engage` (R172), `fence` (R161), `mfsr` (R174), `trap` (R175), `arena.a` (R171),
`exit` (R169), `give` (R166), `waitw` (R163), `stl` and `ld` (R157), `lease` and `unlease` (R173). M: `tclr`, both
forms, `tld.a` (R203), `eload` (R210), `mma` and `mmat` (R127), `drain` and `gli` (R196). V: `pand` (R233), `xli` and
`xadd` (R234), `vfence` (R235), `vflrd` (R236), `vbase` (R237), `vsel` and `vbcast` (R220), `vadd.i32` (R218),
`vfma.f32` (R217), `vexp2` (R221), `vcvt` twice (R223), `vquant` (R226), `vrotl` (R228), `vldr` (R229), `vst` (R230),
`vgath` (R232). L: `badd` and `baddi` (R178), `cp` in two dimensions and `cp.r` (R184), `cvcp` (R186), `pf` (R187),
`lgath` (R188). A block header (R128) decodes in every stream. (R127, R128, 06_words_blocks_encoding.md,
07_control_stream.md, 08_load_stream.md, 09_matrix_stream_epilogue.md, 10_vector_stream.md.) -/
def Obligations.WordsDecodeAsWritten : Prop :=
  (decodeWord .C 0xC80E84C7 = some (.ffmaF64 ⟨0, 0⟩ 7 8 9 4 0)) ∧
  (decodeWord .C 0x80003214 = some (.add ⟨0, 0⟩ 3 4 5)) ∧
  (decodeWord .C 0xEC0994C0 = some (.engage ⟨0, 0⟩ 1 6 10 12)) ∧
  (decodeWord .C 0xE03FFFF0 = some (.fence ⟨0, 0⟩ 0xFFFF 6)) ∧
  (decodeWord .C 0xF0018128 = some (.mfsr ⟨0, 0⟩ 3 0x025)) ∧
  (decodeWord .C 0xF0200042 = some (.trap 0 0x0042)) ∧
  (decodeWord .C 0xE810D200 = some (.arenaA ⟨0, 0⟩ 3 1 4)) ∧
  (decodeWord .C 0xE8051000 = some (.exit 0 20 2)) ∧
  (decodeWord .C 0xF4528000 = some (.give ⟨0, 1⟩ 5)) ∧
  (decodeWord .M 0x88280000 = some (.tclr ⟨0, 0⟩ 5)) ∧
  (decodeCompact .M 0x0405 = some (.tclrCompact 5)) ∧
  (decodeWord .M 0x88012000 = some (.tldA ⟨0, 0⟩ 0 2)) ∧
  (decodeWord .M 0x90130E00 = some (.eload ⟨0, 0⟩ 2 6 3 1)) ∧
  (decodeWord .V 0xE408D000 = some (.pand ⟨0, 0⟩ 2 3 4)) ∧
  (decodeWord .V 0xE8080200 = some (.xli ⟨0, 0⟩ 2 0x100)) ∧
  (decodeWord .V 0xEC00CD00 = some (.xadd ⟨0, 0⟩ 3 3 4)) ∧
  (decodeWord .V 0xF0000016 = some (.vfence ⟨0, 0⟩ 2 6)) ∧
  (decodeWord .V 0xF0098200 = some (.vflrd ⟨0, 0⟩ 6 4 0)) ∧
  (decodeWord .V 0xF0180400 = some (.vbaseW ⟨0, 0⟩ 1)) ∧
  (decodeWord .V 0xB41190A0 = some (.vsel ⟨0, 0⟩ 3 4 5 0)) ∧
  (decodeWord .V 0xB4218040 = some (.vbcast ⟨0, 0⟩ 3 2 0)) ∧
  (decodeWord .C 0xE40C5240 = some (.waitw ⟨0, 0⟩ 6 5 2 2 0)) ∧
  (decodeWord .C 0xB408A24A = some (.stl ⟨0, 0⟩ 4 10 2 2 1 2)) ∧
  (decodeWord .C 0xA8C89342 = some (.ld ⟨0, 3⟩ 4 9 3 2 0 2)) ∧
  (decodeWord .C 0xEC11DA04 = some (.lease ⟨0, 0⟩ 2 7 13)) ∧
  (decodeWord .C 0xEC181A08 = some (.unlease ⟨0, 0⟩ 3 13)) ∧
  (decodeWord .M 0x8209A020 = some (.mma ⟨2, 0⟩ 1 3 4 0 4 0)) ∧
  (decodeWord .M 0x86DAB2FD = some (.mmat ⟨2, 3⟩ 3 5 6 2 31 5)) ∧
  (decodeWord .M 0x8C1BCA49 = some (.drain ⟨0, 0⟩ 3 7 2 2 1 9 1)) ∧
  (decodeWord .M 0x940C2468 = some (.gli ⟨0, 0⟩ 3 0x1234)) ∧
  (decodeWord .L 0x900048C0 = some (.badd ⟨0, 0⟩ 1 2 3)) ∧
  (decodeWord .L 0x94154100 = some (.baddi ⟨0, 0⟩ 5 5 256)) ∧
  (decodeWord .L 0x80812080 = some (.cp2d ⟨0, 2⟩ 0 1 1 0)) ∧
  (decodeWord .L 0x80224380 = some (.cpr ⟨0, 0⟩ 2 2 2)) ∧
  (decodeWord .L 0x84300040 = some (.cvcp ⟨0, 0⟩ 3 0 0 0 0 0 1)) ∧
  (decodeWord .L 0x88101000 = some (.pfBulk ⟨0, 0⟩ 1 0 0 2)) ∧
  (decodeWord .L 0x8C010000 = some (.lgath ⟨0, 0⟩ 0 1 0 0)) ∧
  (decodeWord .V 0xA00190A2 = some (.vaddI32 ⟨0, 0⟩ 3 4 5 1 0)) ∧
  (decodeWord .V 0x803C0E20 = some (.vfmaF32 ⟨0, 0⟩ 24 3 17 0 0 0)) ∧
  (decodeWord .V 0xB8041880 = some (.vexp2 ⟨0, 0⟩ 0 6 4 0 0 0)) ∧
  (decodeWord .V 0xBC083100 = some (.vcvtF32 ⟨0, 0⟩ 4 0 6 4 0 0 0 0)) ∧
  (decodeWord .V 0xBC0B2180 = some (.vcvtF32 ⟨0, 0⟩ 5 1 4 6 0 0 0 0)) ∧
  (decodeWord .V 0xC8147200 = some (.vquant ⟨0, 0⟩ 10 7 4 0 0 0)) ∧
  (decodeWord .V 0xD014A501 = some (.vrotl ⟨0, 0⟩ 1 5 5 0 1)) ∧
  (decodeWord .V 0xD4009200 = some (.vldr ⟨0, 0⟩ 0 2 9 0)) ∧
  (decodeWord .V 0xD8310C40 = some (.vstG ⟨0, 0⟩ 2 2 3 1 0 0 0)) ∧
  (decodeWord .V 0xE008E830 = some (.vgath ⟨0, 0⟩ 1 0 7 8 3 0)) ∧
  (∀ st : Stream, decodeWord st 0xFC0CB805 = some (.blockHeader 12 1 3 1 5))

/-- Decoding the bytes of an encoded instruction gives the instruction back. For every instruction of the four
streams, with every operand at every value, and every stream that has it: the bytes of its encoding, followed by any
bytes, decode in that stream to the instruction itself and leave the bytes that follow. (R126, R127, R128, R145.) -/
def Obligations.DecodingUndoesEncoding : Prop :=
  ∀ (i : Instr) (st : Stream) (rest : List Byte), st ∈ i.homes → decode st (encodeBytes i ++ rest) = .ok (i, rest)

/-- A step in which no event is due runs the word at the stream's place. In every state in which no device event is
due, the releases that the moving core holds and may make are made (R13). Where its stream then stands at a word, the
step is that word's exec, and then the clock moves on. The word is the one whose bits stand at the stream's offset:
the compact form of the first halfword, or the 32-bit word of the first two (R126), the second read after the first.
When the clock moves on, the step number, the clock, the next turn and what the host writes beside the step are the
model's own choice (log entries 1, 2, 7). (R11, R126, R131.) -/
def Obligations.StepRunsTheFetchedWord : Prop :=
  ∀ (s t : State) (i : Instr), s.turn.ev = none → (s.flushAt s.turn.core).fetchNext = (t, .word i) →
    (∀ u, exec i t = .next u → step s = .next u.tickOn) ∧
    (let s0 := s.flushAt s.turn.core
     let r := s0.cur.str s.turn.st
     let s1 := (s0.readHalf r.off).1
     decodeHalves s.turn.st (s0.halfAt s.turn.core s.turn.st r.off).half
       (s1.halfAt s.turn.core s.turn.st (r.off + 1)).half = some i)

/-- A step takes the event that is due, ends a block, or parks at a word that cannot issue. A due device event runs as
its exec, then the clock moves on (the order is the model's choice, log entry 1). A stream that stands at the end of
its block takes BLOCK_RUN_END (R129). A word that cannot be fetched or does not decode parks the core when it would
issue (R131, R146): an illegal instruction with no address, any other cause but that of a host page still outstanding
with the address of the halfword whose fetch faulted (R372). While the queue that its first halfword names as POP is
empty, or its stream may not issue, it waits (R11). (R11, R12, R129, R131, R146, R372.) -/
def Obligations.StepTakesDueEvents : Prop :=
  ∀ (s : State),
    (∀ i t, s.turn.ev = some i → isEvent i = true → exec i s = .next t → step s = .next t.tickOn) ∧
    (∀ u t, s.turn.ev = none → (s.flushAt s.turn.core).fetchNext = (u, .runEnd) →
      exec (.blockRunEnd s.turn.core s.turn.st) u = .next t → step s = .next t.tickOn) ∧
    (∀ u c o pop, s.turn.ev = none → (s.flushAt s.turn.core).fetchNext = (u, .bad c o pop) →
      (u.cur.canIssue s.turn.st = true → u.cur.popWaits s.turn.st pop = false → c ≠ .hostOutstanding →
        step s = .next (u.park s.turn.core
          (u.cur.recOf s.turn.st c (if c = .illegal then 0 else (u.cur.str s.turn.st).pc + 2 * o))).tickOn) ∧
      (u.cur.canIssue s.turn.st = false ∨ u.cur.popWaits s.turn.st pop = true → step s = .next u.tickOn)) ∧
    (∀ (st : Stream) (len off : Nat) (h h2 : Fetched), h.bad = none → 2 ^ 15 ≤ h.half.toNat → 0 < len → off + 1 < len →
      (∀ f, h2.bad = some f → wordOf st len off h h2 = .bad f 1 (popOf h.half)) ∧
      (h2.bad = none → decodeWord st (h.half.toNat * 2 ^ 16 + h2.half.toNat) = none →
        wordOf st len off h h2 = .bad .illegal 0 (popOf h.half)) ∧
      (h.half.toNat / 2 ^ 10 % 32 ≠ 31 → popOf h.half = BitVec.ofNat 2 (h.half.toNat / 2 ^ 8 % 4)))

/-- After reset the registers, memories and cores are as the spec gives them. Every system register holds the value
that the Reset column of its table gives (Tables 16.4, 16.5, 17.7, 17.8, 19.7 to 19.10, 20.6, 20.7, 22.4): the
registers listed, by offset and for each of the 32 partitions, hold the values listed, and the register at every other
offset holds 0. Until phase 5 a read of each shows zero (R359). Every cluster is without an owner, no core has a task
(R359), every buffer of every core is zero (R359), no translation is cached, no engine is awake, no node or job
exists, no link is up, and the cap records are gone. (R293, R299, R310, R326, R338, R353, R359, R370.) -/
def Obligations.ResetMatchesTheTables : Prop :=
  (∀ named : List (Nat × BitVec 64),
    named = [(0xA020, 1000), (0xD008, 0x00640014), (0xD010, 0x00320002), (0xE000, 4000), (0xE008, 4000), (0x14000, 16),
        (0x20018, 0x3F), (0x20020, 0x03E8), (0x20040, 1000)] ++
      (List.range 32).flatMap (fun p => [(0x5000 + 0x40 * p, 500), (0x5008 + 0x40 * p, 50), (0x8008 + 0x80 * p, 0xF),
        (0x8038 + 0x80 * p, 1), (0x8040 + 0x80 * p, 32), (0xC100 + 0x10 * p, 1), (0xD208 + 0x10 * p, 1),
        (0xE410 + 0x20 * p, 0x9249), (0xE418 + 0x20 * p, 0x444444)]) →
    (∀ e ∈ named, State.reset.reg e.1 = e.2) ∧ (∀ o, (∀ e ∈ named, e.1 ≠ o) → State.reset.reg o = 0)) ∧
  (∀ o, State.reset.regRead o = 0) ∧
  (prtQint = 0xA020 ∧ lnkRlyCfg = 0xD008 ∧ lnkUeCfg = 0xD010 ∧ lsePccap = 0xE000 ∧ lseSwcap = 0xE008 ∧ calStretch = 0x14000 ∧
    mgtFeatDev = 0x20018 ∧ mgtWdt = 0x20020 ∧ mgtCemax = 0x20040 ∧
    ∀ p, schBudget p = 0x5000 + 0x40 * p ∧ schAge p = 0x5008 + 0x40 * p ∧ xltCfg p = 0x8008 + 0x80 * p ∧
      xltInvst p = 0x8038 + 0x80 * p ∧ xltPrq p = 0x8040 + 0x80 * p ∧ hstPri p = 0xC100 + 0x10 * p ∧
      lnkPlen p = 0xD208 + 0x10 * p ∧ lseRes p = 0xE410 + 0x20 * p ∧ lseK p = 0xE418 + 0x20 * p) ∧
  (∀ p, State.reset.liveP p = false) ∧ (∀ i, (State.reset.link i).up = false) ∧
  (∀ v, (State.reset.core v).st = .idle ∧ (State.reset.core v).task = none ∧
    ∀ b a, (State.reset.core v).byte b a = 0) ∧
  State.reset.tlb = [] ∧ State.reset.nodes = [] ∧ State.reset.jobs = [] ∧ State.reset.engines = [] ∧
  State.reset.seals = [] ∧ State.reset.ecmds = []

/-- Memory has its canonical form after reset; that it lists nothing is the model's choice. The memories of the device
and of the host hold, after reset, only entries in rising order, none of which is what an unlisted address reads as:
nothing at all. The spec gives neither memory contents at reset (R359): that device memory and host memory list
nothing, and so read as zero bytes, is the model's choice (log entries 13 and 44), and the canonical form is the
model's own. That no dirty byte stands in the L2 follows from the SRAMs written with zeros (R359). (R359.) -/
def Obligations.ResetMemoryIsCanonical : Prop :=
  State.reset.memWf = true ∧ State.reset.mem = [] ∧ State.reset.hostMem = [] ∧ State.reset.l2b = []

/-- Every step keeps the canonical form of memory. From every state in which the device's memory, the host's memory
and the dirty bytes of the L2 have their canonical form, a step that answers a next state answers one in which they
have it too: whatever instruction runs, whatever event is taken. The canonical form, and what an unlisted byte reads
as, are the model's own (log entry 44). (R71, R73, R75, R126.) -/
def Obligations.StepsKeepMemoryCanonical : Prop :=
  ∀ (s t : State), s.memWf = true → step s = .next t → t.memWf = true

/-- A word that breaks R146 parks its core when it would issue; a word that cannot pop waits. For every instruction of
the four streams whose stream may issue: while its pop queue is empty, or its stream holds a release that the pop, an
acquire, waits for (R13, R89), it waits, and the whole state stays as it is. Once it can pop, a word that breaks a
rule of R146 pops nothing: it still waits for what else an issue waits for, or it parks the core with cause 1 recorded
for that stream and word. Parking pops and pushes no token, moves no stream, and changes no register, counter, flag or
access. A word that writes one s, b or x register or one row waits for nothing more while no access is pending, and
then parks. (R11, R13, R18, R89, R143, R146.) -/
def Obligations.IllegalWordsParkAndEmptyPopsWait : Prop :=
  (∀ (s : State) (i : Instr), s.turn.st ∈ i.homes → s.cur.canIssue s.turn.st = true →
    s.popped s.turn.st i.tok = none → exec i s = .next s) ∧
  (∀ (s s1 : State) (x : BitVec 32) (i : Instr), s.turn.st ∈ i.homes → s.cur.canIssue s.turn.st = true →
    i.wf s.turn.st = false → s.popped s.turn.st i.tok = some (s1, x) →
    let parked := s.park s.turn.core (s.cur.recOf s.turn.st .illegal 0)
    (exec i s = .next s ∨ exec i s = .next parked) ∧
    (i.intDest.isSome || i.floatDest.isSome || i.bDest.isSome || i.xDest.isSome || i.vDest.isSome → s.cur.fl = [] →
      s.cur.acc = [] → exec i s = .next parked)) ∧
  (∀ (c : Core) (now : Now) (r : CauseRec), (c.park now r).files = c.files ∧ (c.park now r).tq = c.tq ∧
    (c.park now r).strm = c.strm ∧ (c.park now r).acc = c.acc)

/-- A word of a stream changes its own core and nothing else of the device. Frame of every instruction of the four
streams except block headers (which also fetch their block), `engage`, `lease`, `unlease` and `exit`: when it answers
a next state, only the moving core differs, beside the notes that the model keeps of what each party has done (log
entry 56). Every byte of device memory, of the L2 and of host memory, every system register, every engine, node and
link, and every other core are as before; loads, stores and commands reach memory only at their later events. (R11,
R15, R84, R88.) -/
def Obligations.WordsChangeOneCoreOnly : Prop :=
  ∀ (s t : State) (i : Instr), s.turn.st ∈ i.homes →
    (∀ l r g m n, i ≠ .blockHeader l r g m n) →
    (∀ tk q d a b, i ≠ .engage tk q d a b) → (∀ tk q d a, i ≠ .lease tk q d a) → (∀ tk q a, i ≠ .unlease tk q a) →
    (∀ p a n, i ≠ .exit p a n) →
    exec i s = .next t →
    t = { s with cores := t.cores, hist := t.hist } ∧
      (s.cores.sorted = true → ∀ v, v ≠ s.turn.core → t.core v = s.core v)

/-- Finishing a word moves its stream on, makes its push, and leaves every register as it is. What issue adds to a
word's own effect (the task starts, the stream moves on by the word's halfwords, the push falls due) changes no
register file, special register, counter, buffer or return stack, no token queue, and no other stream's place (R13,
R149). The push is then held behind what the stream holds. The push that heads what a stream holds is made as soon as
what precedes it has performed (R92) and the queue to the peer holds fewer than 8 tokens: the payload stands at the
back of that queue. While the queue holds 8, the payload waits with the stream, and the core stays as it is. Making
the releases of a core changes nothing else of the device, beside the model's notes of what parties have done (log
entry 56), and nothing at all where its streams hold none. (R13, R92, R93, R149.) -/
def Obligations.FinishingMovesOnAndPushes : Prop :=
  (∀ (c : Core) (now : Now) (st : Stream) (hw : Nat) (push : BitVec 2) (x : BitVec 32),
    (c.finished now st hw push x).files = c.files ∧ (c.begun now st hw).files = c.files ∧
    (c.finished now st hw push x).tq = c.tq ∧
    ((c.finished now st hw push x).str st).off = (c.str st).off + hw ∧
    ((c.finished now st hw push x).str st).blk = (c.str st).blk ∧
    (∀ st', st' ≠ st → ((c.finished now st hw push x).str st').off = (c.str st').off ∧
      ((c.finished now st hw push x).str st').blk = (c.str st').blk)) ∧
  (∀ (c : Core) (st p : Stream) (code : BitVec 2) (x : BitVec 32), peer st code = some p →
    ((c.push st code x).str st).hold = (c.str st).hold ++ [⟨c.nextId, .push p x⟩] ∧ (c.push st code x).tq = c.tq) ∧
  (∀ (s : State) (v : Nat) (st p : Stream) (n : Nat) (x : BitVec 32), ((s.core v).str st).hold = [⟨n, .push p x⟩] →
    (((s.core v).queue st p).length < 8 → (s.core v).releasable st n = true → s.landed v = true →
      ((s.flushStr v st).core v).queue st p = (s.core v).queue st p ++ [x] ∧
      (((s.flushStr v st).core v).str st).hold = [] ∧
      (∀ st' q, (st', q) ≠ (st, p) → ((s.flushStr v st).core v).queue st' q = (s.core v).queue st' q) ∧
      ((s.flushStr v st).core v).files = (s.core v).files) ∧
    (8 ≤ ((s.core v).queue st p).length → (s.flushStr v st).core v = s.core v)) ∧
  (∀ (s : State) (v : Nat), s.flushAt v = { s with cores := (s.flushAt v).cores, hist := (s.flushAt v).hist } ∧
    ((∀ st, ((s.core v).str st).hold = []) → s.flushAt v = s))

/-- POP and PUSH codes name the peers of Table 6.4. In every stream the code 0b00 names no peer, and the codes 0b01,
0b10 and 0b11 name the three other streams, in the order C, L, M, V: every code is assigned in every stream. (R133.)
-/
def Obligations.PeerCodesOfTheStreams : Prop :=
  (∀ st, peer st 0 = none) ∧
  (peer .C 1 = some .L ∧ peer .C 2 = some .M ∧ peer .C 3 = some .V) ∧
  (peer .L 1 = some .C ∧ peer .L 2 = some .M ∧ peer .L 3 = some .V) ∧
  (peer .M 1 = some .C ∧ peer .M 2 = some .L ∧ peer .M 3 = some .V) ∧
  (peer .V 1 = some .C ∧ peer .V 2 = some .L ∧ peer .V 3 = some .M)

/-- Integer words of C complete with the values of Table 7.3. Every register form, immediate form and compact integer
form of C (`add` to `maxu`, `clz`, `popc`, `addi` to `srai`, `li`, `lis`, `mov`, `addc`, `lic`) answers a next state
whenever it issues and no register it names awaits a value: s[d] holds the value of Table 7.3, R151 or R176 and
nothing else of the core changes but what finishing changes. s0 is covered: reading it gives 0, and a result for it is
discarded, so that writing it changes nothing at all; after a write of any other register it reads as what was written
and every other register as before, and the same holds of the q registers, q0 among them. Products are taken in full
width, quotients truncate toward zero, and division by zero and the overflowing quotient give the values of the table.
(R148, R149, R150, R151, R176.) -/
def Obligations.ControlIntegerArithmetic : Prop :=
  (∀ (tk : Tok) (d a b : BitVec 5), ∀ e ∈ ([
      (.add tk d a b, fun x y => x + y), (.sub tk d a b, fun x y => x - y),
      (.and tk d a b, fun x y => x &&& y), (.or tk d a b, fun x y => x ||| y), (.xor tk d a b, fun x y => x ^^^ y),
      (.andn tk d a b, fun x y => x &&& ~~~y),
      (.sll tk d a b, fun x y => x <<< (y.toNat % 64)), (.srl tk d a b, fun x y => x >>> (y.toNat % 64)),
      (.sra tk d a b, fun x y => x.sshiftRight (y.toNat % 64)),
      (.mul tk d a b, fun x y => BitVec.ofNat 64 (x.toNat * y.toNat)),
      (.mulh tk d a b, fun x y => BitVec.ofInt 64 (x.toInt * y.toInt / 2 ^ 64)),
      (.mulhu tk d a b, fun x y => BitVec.ofNat 64 (x.toNat * y.toNat / 2 ^ 64)),
      (.div tk d a b, fun x y => if y = 0 then 0xFFFFFFFFFFFFFFFF else BitVec.ofInt 64 (x.toInt.tdiv y.toInt)),
      (.divu tk d a b, fun x y => if y = 0 then 0xFFFFFFFFFFFFFFFF else BitVec.ofNat 64 (x.toNat / y.toNat)),
      (.rem tk d a b, fun x y => if y = 0 then x else x - y * BitVec.ofInt 64 (x.toInt.tdiv y.toInt)),
      (.remu tk d a b, fun x y => if y = 0 then x else x - y * BitVec.ofNat 64 (x.toNat / y.toNat)),
      (.min tk d a b, fun x y => if x.toInt < y.toInt then x else y),
      (.max tk d a b, fun x y => if x.toInt < y.toInt then y else x),
      (.minu tk d a b, fun x y => if x.toNat < y.toNat then x else y),
      (.maxu tk d a b, fun x y => if x.toNat < y.toNat then y else x)] : List (Instr × (Reg → Reg → Reg))),
    Does .C 2 tk e.1 (fun c => !c.sBusy [d, a, b]) (fun c => c.setS d (e.2 (c.getS a) (c.getS b)))) ∧
  (∀ (tk : Tok) (d a : BitVec 5) (i : BitVec 12) (n : BitVec 6), ∀ e ∈ ([
      (.clz tk d a, aluClz), (.popc tk d a, aluPopc),
      (.addi tk d a i, fun x => x + i.signExtend 64), (.andi tk d a i, fun x => x &&& i.signExtend 64),
      (.ori tk d a i, fun x => x ||| i.signExtend 64), (.xori tk d a i, fun x => x ^^^ i.signExtend 64),
      (.slli tk d a n, fun x => x <<< n.toNat), (.srli tk d a n, fun x => x >>> n.toNat),
      (.srai tk d a n, fun x => x.sshiftRight n.toNat)] : List (Instr × (Reg → Reg))),
    Does .C 2 tk e.1 (fun c => !c.sBusy [d, a]) (fun c => c.setS d (e.2 (c.getS a)))) ∧
  (∀ (tk : Tok) (d : BitVec 5) (i : BitVec 16),
    Does .C 2 tk (.li tk d i) (fun c => !c.sBusy [d]) (fun c => c.setS d (i.signExtend 64)) ∧
    Does .C 2 tk (.lis tk d i) (fun c => !c.sBusy [d]) (fun c => c.setS d ((c.getS d <<< 16) ||| i.setWidth 64))) ∧
  (∀ (d a i : BitVec 5),
    Does .C 1 Tok.none (.mov d a) (fun c => !c.sBusy [d, a]) (fun c => c.setS d (c.getS a)) ∧
    Does .C 1 Tok.none (.addc d i) (fun c => !c.sBusy [d]) (fun c => c.setS d (c.getS d + i.signExtend 64)) ∧
    Does .C 1 Tok.none (.lic d i) (fun c => !c.sBusy [d]) (fun c => c.setS d (i.signExtend 64))) ∧
  (∀ c : Core, c.getS 0 = 0 ∧ ∀ v, c.setS 0 v = c) ∧
  (∀ (c : Core) (d r : BitVec 5) (v : Reg), d ≠ 0 → (c.setS d v).getS r = if r = d then v else c.getS r) ∧
  (∀ (c : Core) (d r : BitVec 3) (v : Bool), (c.setQ d v).getQ r = if r = d then v else c.getQ r) ∧
  (∀ (c : Core) (d : BitVec 5) (v : Reg), (c.setS d v).files = { c.files with s := (c.setS d v).s }) ∧
  (∀ (c : Core) (d : BitVec 3) (v : Bool), (c.setQ d v).files = { c.files with q := (c.setQ d v).q })

/-- Bit counts count, and quotient and remainder give the dividend back. For a nonzero value, the bit at 63 minus the
result of `clz` is one and every higher bit is zero; `clz` of 0 is 64. `popc` of a value and of its complement add up
to 64, `popc` of 0 is 0, and setting a bit that is zero adds 1 (Table 7.3). For every divisor but 0, the dividend is
the divisor times the quotient plus the remainder modulo 2^64, signed and unsigned; the unsigned remainder is below
the divisor, and the signed one is smaller in magnitude than the divisor and has the sign of the dividend or is 0.
Divided by −1, the least value gives itself with remainder 0 (Table 7.3). (R150.) -/
def Obligations.CountsQuotientsAndRemainders : Prop :=
  (∀ x : Reg, x ≠ 0 → (aluClz x).toNat < 64 ∧ x.getLsbD (63 - (aluClz x).toNat) = true ∧
    ∀ j, 63 - (aluClz x).toNat < j → x.getLsbD j = false) ∧
  aluClz 0 = 64 ∧ aluPopc 0 = 0 ∧
  (∀ x : Reg, (aluPopc x).toNat + (aluPopc (~~~x)).toNat = 64) ∧
  (∀ (x : Reg) (j : Nat), j < 64 → x.getLsbD j = false → aluPopc (x ||| (1 <<< j)) = aluPopc x + 1) ∧
  (∀ x y : Reg, y ≠ 0 →
    x = y * aluDiv x y + aluRem x y ∧ x = y * aluDivu x y + aluRemu x y ∧ (aluRemu x y).toNat < y.toNat ∧
    (aluRem x y).toInt.natAbs < y.toInt.natAbs ∧ (0 ≤ (aluRem x y).toInt ∨ x.toInt < 0) ∧
    ((aluRem x y).toInt ≤ 0 ∨ 0 < x.toInt)) ∧
  (∀ x : Reg, aluDiv x 0 = 0xFFFFFFFFFFFFFFFF ∧ aluRem x 0 = x) ∧
  aluDiv 0x8000000000000000 0xFFFFFFFFFFFFFFFF = 0x8000000000000000 ∧ aluRem 0x8000000000000000 0xFFFFFFFFFFFFFFFF = 0

/-- Compares and predicate operations of C complete as Tables 7.4 and R153 give. `cmp` and `cmpi` write the
condition's truth to q[d], for integers as in Table 7.4, for floats with the invalid flag that the compare raises
unless `.nf`; `qand`, `qor`, `qxor`, `qandn`, `qnot`, `qset` and `qclr` write the bit of R153. Each answers a next
state whenever it issues and the s registers it reads await no value. (R148, R149, R152, R153.) -/
def Obligations.ControlComparesAndPredicates : Prop :=
  (∀ (tk : Tok) (q c : BitVec 3) (a b : BitVec 5) (n : BitVec 1),
    Does .C 2 tk (.cmp tk q c a b 0 n) (fun k => !k.sBusy [a, b]) (fun k => k.setQ q (icond c.toNat (k.getS a) (k.getS b))) ∧
    Does .C 2 tk (.cmp tk q c a b 1 n) (fun k => !k.sBusy [a, b]) (fun k =>
      let r := fcond fmt64 c.toNat (k.getS a).toNat (k.getS b).toNat
      (k.setQ q r.1).raiseS (n == 1) r.2) ∧
    Does .C 2 tk (.cmp tk q c a b 2 n) (fun k => !k.sBusy [a, b]) (fun k =>
      let r := fcond fmt32 c.toNat ((k.getS a).toNat % 2 ^ 32) ((k.getS b).toNat % 2 ^ 32)
      (k.setQ q r.1).raiseS (n == 1) r.2)) ∧
  (∀ (tk : Tok) (q c : BitVec 3) (a : BitVec 5) (i : BitVec 11),
    Does .C 2 tk (.cmpi tk q c a i) (fun k => !k.sBusy [a])
      (fun k => k.setQ q (icond c.toNat (k.getS a) (i.signExtend 64)))) ∧
  (∀ x y : Reg, icond 0 x y = decide (x = y) ∧ icond 1 x y = decide (x ≠ y) ∧ icond 2 x y = decide (x.toInt < y.toInt) ∧
    icond 3 x y = decide (y.toInt ≤ x.toInt) ∧ icond 4 x y = decide (x.toNat < y.toNat) ∧
    icond 5 x y = decide (y.toNat ≤ x.toNat)) ∧
  (∀ (tk : Tok) (d a b : BitVec 3), ∀ e ∈ ([
      (.qand tk d a b, fun c => c.getQ a && c.getQ b), (.qor tk d a b, fun c => c.getQ a || c.getQ b),
      (.qxor tk d a b, fun c => c.getQ a != c.getQ b), (.qandn tk d a b, fun c => c.getQ a && !c.getQ b),
      (.qnot tk d a, fun c => !c.getQ a), (.qset tk d, fun _ => true), (.qclr tk d, fun _ => false)]
      : List (Instr × (Core → Bool))),
    Does .C 2 tk e.1 (fun _ => true) (fun c => c.setQ d (e.2 c)))

/-- Scalar float words of C complete with one rounding of the exact value. Every scalar float word (FP64 on whole
registers, FP32 on the low 32 bits with the result zero-extended) and `cvt` answers a next state whenever it issues
and no register it names awaits a value: s[d] holds the operation's result in the word's rounding mode, and its flags
are ORed into %sflags unless `.nf` (R60, R61). Under RDI the dither value is Dither(0, 0). (R53, R60, R61, R149, R154,
R155.) -/
def Obligations.ControlFloatArithmetic : Prop :=
  (∀ (tk : Tok) (d a b : BitVec 5) (r : BitVec 3) (n : BitVec 1), ∀ e ∈ ([
      (.faddF64 tk d a b r n, fmt64, .add), (.fsubF64 tk d a b r n, fmt64, .sub), (.fmulF64 tk d a b r n, fmt64, .mul),
      (.fdivF64 tk d a b r n, fmt64, .div), (.ffmaF64 tk d a b r n, fmt64, .fma),
      (.faddF32 tk d a b r n, fmt32, .add), (.fsubF32 tk d a b r n, fmt32, .sub), (.fmulF32 tk d a b r n, fmt32, .mul),
      (.fdivF32 tk d a b r n, fmt32, .div), (.ffmaF32 tk d a b r n, fmt32, .fma)] : List (Instr × FFmt × FOp)),
    Does .C 2 tk e.1 (fun c => !c.sBusy [d, a, b]) (fun c =>
      let m := 2 ^ (e.2.1.eb + e.2.1.fb + 1)
      let x := e.2.2.run e.2.1 (Rnd.ofCode r.toNat (dither c.dphase 0 0)) ((c.getS a).toNat % m) ((c.getS b).toNat % m)
        ((c.getS d).toNat % m)
      (c.setS d (BitVec.ofNat 64 x.1)).raiseS (n == 1) x.2)) ∧
  (∀ (tk : Tok) (d a : BitVec 5) (r : BitVec 3) (n : BitVec 1), ∀ e ∈ ([
      (.fsqrtF64 tk d a r n, fmt64), (.fsqrtF32 tk d a r n, fmt32)] : List (Instr × FFmt)),
    Does .C 2 tk e.1 (fun c => !c.sBusy [d, a]) (fun c => c.fop e.2 .sqrt r n d a a)) ∧
  (∀ (tk : Tok) (d a b : BitVec 5) (n : BitVec 1), ∀ e ∈ ([
      (.fminF64 tk d a b n, fmt64, true), (.fmaxF64 tk d a b n, fmt64, false),
      (.fminF32 tk d a b n, fmt32, true), (.fmaxF32 tk d a b n, fmt32, false)] : List (Instr × FFmt × Bool)),
    Does .C 2 tk e.1 (fun c => !c.sBusy [d, a, b]) (fun c =>
      let m := 2 ^ (e.2.1.eb + e.2.1.fb + 1)
      let x := fminmax e.2.1 e.2.2 ((c.getS a).toNat % m) ((c.getS b).toNat % m)
      (c.setS d (BitVec.ofNat 64 x.1)).raiseS (n == 1) x.2)) ∧
  (∀ (tk : Tok) (d a : BitVec 5) (s t r : BitVec 3) (n u : BitVec 1),
    Does .C 2 tk (.cvt tk d a s t r n u) (fun c => !c.sBusy [d, a]) (fun c =>
      let x := convert (EF.ofCvt s.toNat) (EF.ofCvt t.toNat) (Rnd.ofCode r.toNat (dither c.dphase 0 0)) (u == 1)
        ((c.getS a).toNat % 2 ^ (EF.ofCvt s.toNat).width)
      (c.setS d (if t = 2 then (BitVec.ofNat 32 x.1).signExtend 64 else BitVec.ofNat 64 x.1)).raiseS (n == 1) x.2))

/-- Reads and writes of special registers, counters and arenas complete. `mfsr` writes the zero-extended value of
every register of Table 7.10, `mtsr` the low bits of a register to each writable one and to nothing else (flags raised
in the same C-cycle survive a write of %sflags, R61; %dphase and %dstep take theirs from the next C-cycle on, R174,
R207), `kread` the zero-extended counter once its turn in the C-cycle has come (R168), `arena.h` the handle at an
index of the arena set or 0, and `arena.a` the window address or 0 (R171). Each answers a next state whenever it
issues and its register awaits no value. (R61, R149, R167, R168, R171, R174, R207.) -/
def Obligations.ControlSpecialRegisters : Prop :=
  (∀ (tk : Tok) (d : BitVec 5) (n : BitVec 12), ∀ s s1 x, Issues s .C (.mfsr tk d n) tk s1 x → s1.cur.sBusy [d] = false →
    exec (.mfsr tk d n) s = .next (s1.moved ((s1.cur.setS d (s.srRead n.toNat)).finished s.now .C 2 tk.push 0))) ∧
  (∀ (s : State) (t : Task), s.cur.task = some t →
    s.srRead 0 = BitVec.ofNat 64 t.taskid ∧ (∀ j : Fin 8, s.srRead (1 + j.val) = BitVec.ofNat 64 (t.idx.getD j.val 0)) ∧
    s.srRead 0x009 = BitVec.ofNat 64 t.coreid ∧ s.srRead 0x00A = BitVec.ofNat 64 t.clusterid ∧
    s.srRead 0x00B = BitVec.ofNat 64 t.combid) ∧
  (∀ s : State, s.srRead 0x010 = s.cur.sflags.setWidth 64 ∧ s.srRead 0x011 = s.cur.dphase.setWidth 64 ∧
    s.srRead 0x012 = BitVec.ofNat 64 (s.cur.cyc s.clock) ∧ s.srRead 0x013 = s.cur.dstep.setWidth 64 ∧
    (∀ j : Fin 18, s.srRead (0x020 + j.val) = (s.cur.ovf[j.val]'j.isLt).setWidth 64) ∧
    (∀ j : Fin 6, s.srRead (0x040 + j.val) = BitVec.ofNat 64 (s.busyBits s.turn.core j.val)) ∧
    (∀ j : Fin 6, s.srRead (0x048 + j.val) = BitVec.ofNat 64 (s.cur.streakOf j.val))) ∧
  (∀ (tk : Tok) (a : BitVec 5) (n : BitVec 12),
    Finishes .C 2 tk (.mtsr tk a n) (fun σ => !σ.cur.sBusy [a]) (fun σ _ => σ.cur.srWrite σ.clock n.toNat (σ.cur.getS a))
      (fun _ => 0)) ∧
  (∀ (c : Core) (clk : Nat) (x : Reg), (c.raisedAt ≠ clk → c.srWrite clk 0x010 x = { c with sflags := x.setWidth 5 }) ∧
    (c.raisedAt = clk → c.srWrite clk 0x010 x = { c with sflags := x.setWidth 5 ||| c.raised }) ∧
    c.srWrite clk 0x011 x = { c with dphNext := some (x.setWidth 8, true) } ∧
    c.srWrite clk 0x013 x = { c with dstNext := some (x.setWidth 8) } ∧
    (c.srWrite clk 0x011 x).newCycle.dphase = x.setWidth 8 ∧ (c.srWrite clk 0x013 x).newCycle.dstep = x.setWidth 8 ∧
    (c.srWrite clk 0x011 x).newCycle.dstep = c.newCycle.dstep ∧ (c.srWrite clk 0x013 x).newCycle.dphase = c.newCycle.dphase ∧
    (c.dphNext = none → c.dstNext = none → c.newCycle = c) ∧
    (∀ j : Fin 18, c.srWrite clk (0x020 + j.val) x = { c with ovf := c.ovf.set j.val (x.setWidth 32) j.isLt })) ∧
  (∀ (tk : Tok) (k : BitVec 6) (d : BitVec 5),
    Observes .C 2 tk (.kread tk k d) (fun σ => σ.turn.st == .C && !σ.cur.sBusy [d] && σ.mayTest k) (fun σ => σ.obsEv k)
      (fun σ => (σ.cur.setS d ((σ.cur.getK k).setWidth 64)).kMark σ.clock 2)) ∧
  (∀ (tk : Tok) (d : BitVec 5) (i : BitVec 2) (a : BitVec 5), ∀ s s1 x,
    (Issues s .C (.arenaH tk d i) tk s1 x → s1.cur.sBusy [d] = false →
      exec (.arenaH tk d i) s =
        .next (s1.moved ((s1.cur.setS d (BitVec.ofNat 64 (s.handleAt i.toNat))).finished s.now .C 2 tk.push 0))) ∧
    (Issues s .C (.arenaA tk d i a) tk s1 x → s1.cur.sBusy [d, a] = false →
      exec (.arenaA tk d i a) s =
        .next (s1.moved ((s1.cur.setS d (if s.handleAt i.toNat = 0 then 0 else BitVec.ofNat 64
          (s.asel (s.partOf s.turn.core) * 2 ^ 52 + s.handleAt i.toNat * 2 ^ 36 + (s1.cur.getS a).toNat % 2 ^ 36))).finished
            s.now .C 2 tk.push 0))))

/-- C loads and atomics that pass their checks are handed to the memory system. `ld`, `ldl` and `amo` in their three
spaces answer a next state whenever they issue, no register they name awaits a value and their address passes the
checks of R156, R157, R159, R68 and R81: their bytes are split into granule accesses that carry the word's class,
scope and policy, and their destination, the size's width and its extension wait with them. Nothing performs and no
register changes yet; the push waits too (Table 7.2). While a register it names awaits a value, or a fence keeps its
class from issuing (R92, R161), it waits. (R86, R87, R92, R149, R156, R157, R159, R161.) -/
def Obligations.ControlLoadsAndAtomics : Prop :=
  (∀ (tk : Tok) (d a : BitVec 5) (c : BitVec 4) (s : BitVec 3) (l : BitVec 2) (z : BitVec 3),
    Begins .C 2 tk (.ld tk d a c s l z)
      (fun σ => !σ.cur.sBusy (a :: dataRegs z d) && !σ.cur.barred .C c.toNat && (σ.gCheck (σ.cur.getS a) (sizeBytes z)).isNone)
      (fun σ => σ.cur.launch .C [⟨.G, (σ.cur.getS a).toNat, sizeBytes z, 0, .load⟩] c.toNat s.toNat l.toNat
        (loadDest z d) true tk.push)) ∧
  (∀ (tk : Tok) (d a : BitVec 5) (c : BitVec 4) (s : BitVec 3) (e : BitVec 2) (z : BitVec 3) (σ σ1 : State) (x : BitVec 32)
      (sp : Space) (off : Nat),
    Issues σ .C (.ldl tk d a c s e z) tk σ1 x → σ1.cur.sBusy (a :: dataRegs z d) = false →
    σ1.cur.barred .C c.toNat = false → σ1.sPlace e (σ1.cur.getS a) (sizeBytes z) = .ok (sp, off) →
    exec (.ldl tk d a c s e z) σ = .next (σ1.moved ((σ1.cur.launch .C [⟨sp, off, sizeBytes z, 0, .load⟩] c.toNat s.toNat 0
      (loadDest z d) true tk.push).begun σ.now .C 2))) ∧
  (∀ (tk : Tok) (d a : BitVec 5) (c : BitVec 4) (s : BitVec 3) (o : BitVec 4) (z : BitVec 1),
    Begins .C 2 tk (.amoG tk d a c s o z)
      (fun σ => !σ.cur.sBusy (a :: amoRegs o d) && !σ.cur.barred .C c.toNat &&
        decide ((σ.cur.getS a).toNat % amoBytes o z = 0) && (σ.gCheck (σ.cur.getS a) (amoBytes o z)).isNone)
      (fun σ => σ.cur.launch .C [⟨.G, (σ.cur.getS a).toNat, amoBytes o z, 0, σ.cur.amoKind o z d⟩] c.toNat s.toNat 0
        (amoDest o z d) true tk.push)) ∧
  (∀ (tk : Tok) (d a : BitVec 5) (c : BitVec 4) (s : BitVec 3) (o : BitVec 4) (z : BitVec 1) (σ σ1 : State) (x : BitVec 32)
      (sp : Space) (off : Nat), ∀ e ∈ ([(.amoS tk d a c s o z, 0), (.amoSg tk d a c s o z, 1)] : List (Instr × BitVec 2)),
    Issues σ .C e.1 tk σ1 x → σ1.cur.sBusy (a :: amoRegs o d) = false → σ1.cur.barred .C c.toNat = false →
    σ1.sPlace e.2 (σ1.cur.getS a) (amoBytes o z) = .ok (sp, off) → off % amoBytes o z = 0 →
    exec e.1 σ = .next (σ1.moved ((σ1.cur.launch .C [⟨sp, off, amoBytes o z, 0, σ1.cur.amoKind o z d⟩] c.toNat s.toNat 0
      (amoDest o z d) true tk.push).begun σ.now .C 2))) ∧
  (∀ (tk : Tok) (d a : BitVec 5) (c o : BitVec 4) (s z : BitVec 3) (l : BitVec 2) (w : BitVec 1),
    ∀ e ∈ ([(.ld tk d a c s l z, a :: dataRegs z d), (.ldl tk d a c s l z, a :: dataRegs z d), (.amoG tk d a c s o w, a :: amoRegs o d),
        (.amoS tk d a c s o w, a :: amoRegs o d), (.amoSg tk d a c s o w, a :: amoRegs o d)] : List (Instr × List (BitVec 5))),
      Waits .C tk e.1 (fun σ => σ.cur.sBusy e.2 || σ.cur.barred .C c.toNat)) ∧
  (∀ (c : Core) (st : Stream) (k : Nat), c.barred st k = true ↔
    ∃ f ∈ c.fences, f.st = st ∧ fld f.mask k 1 = 1 ∧ c.fenceWaits f = true)

/-- C stores and `redf` that pass their checks leave the stream. `st`, `stl` and `redf` answer a next state whenever
they issue, no register they name awaits a value and their address passes its checks: the bytes of the register (or of
the pair) are handed over as granule stores. A plain one has finished, its push made; a release finishes, and pushes,
only when it has performed (R149, R92). No register changes. While a register it names awaits a value, or a fence
keeps its class from issuing (R92, R161), it waits. That a plain store has finished once it is handed over is the
model's reading (log entry 19). (R87, R92, R149, R156, R157, R160, R161.) -/
def Obligations.ControlStoresAndReductions : Prop :=
  ∀ (tk : Tok) (d a : BitVec 5) (c : BitVec 4) (s : BitVec 3) (l : BitVec 2) (z r : BitVec 3) (t : BitVec 1),
    (∀ e ∈ ([
        (.st tk d a c s l z, a :: dataRegs z d, l.toNat, fun σ =>
          if (σ.gCheck (σ.cur.getS a) (sizeBytes z)).isSome then none
          else some (⟨.G, (σ.cur.getS a).toNat, sizeBytes z, 0, .store (σ.cur.storeData z d)⟩ : Spec)),
        (.stl tk d a c s l z, a :: dataRegs z d, 0, fun σ =>
          match σ.sPlace l (σ.cur.getS a) (sizeBytes z) with
          | .ok (sp, off) => some ⟨sp, off, sizeBytes z, 0, .store (σ.cur.storeData z d)⟩
          | .error _ => none),
        (.redf tk d a c s r t, [a, d], 0, fun σ =>
          if (σ.gCheck (σ.cur.getS a) 4).isSome ∨ (σ.cur.getS a).toNat % 4 ≠ 0 then none
          else some ⟨.G, (σ.cur.getS a).toNat, 4, 0,
            .redf (t == 1) r.toNat (dither σ.cur.dphase 0 0) ((σ.cur.getS d).toNat % 2 ^ 32)⟩)]
        : List (Instr × List (BitVec 5) × Nat × (State → Option Spec))),
      Waits .C tk e.1 (fun σ => σ.cur.sBusy e.2.1 || σ.cur.barred .C c.toNat) ∧
      ∀ σ σ1 x sp, Issues σ .C e.1 tk σ1 x → σ1.cur.sBusy e.2.1 = false → σ1.cur.barred .C c.toNat = false →
        e.2.2.2 σ1 = some sp →
        (s = 0 → exec e.1 σ = .next (σ1.moved
          ((σ1.cur.launch .C [sp] c.toNat s.toNat e.2.2.1 .nothing false tk.push).finished σ.now .C 2 tk.push 0))) ∧
        (s ≠ 0 → exec e.1 σ = .next (σ1.moved
          ((σ1.cur.launch .C [sp] c.toNat s.toNat e.2.2.1 .nothing true tk.push).begun σ.now .C 2))))

/-- A C access with a bad address parks the core, and nothing performs. A load, store, atomic or reduction of C on G:
with a nonzero bit in [63:56], or with a byte past 0xFF_FFFF_FFFF_FFFF, is an addressing fault; one whose first or
last byte lies in an arena window of a handle that is not live an outlived reference; an atomic or `redf` that is not
aligned is an addressing fault, whatever its space. On S: an offset with bits [63:18] or a byte past 0x3_FFFF is an
addressing fault. An SG: address that R68 refuses is an access-list fault, and an SG: access with a byte past 0x3_FFFF
of its scratchpad an addressing fault. Each parks the core with that cause for stream C at that word, and nothing else
changes (Table 7.6). (R4, R68, R81, R156, R157, R158, R159, R160.) -/
def Obligations.ControlAddressFaults : Prop :=
  (∀ (tk : Tok) (d a : BitVec 5) (c o : BitVec 4) (s r : BitVec 3) (l : BitVec 2) (z : BitVec 3) (w t : BitVec 1),
    ∀ e ∈ ([(.ld tk d a c s l z, a :: dataRegs z d, sizeBytes z, 1), (.st tk d a c s l z, a :: dataRegs z d, sizeBytes z, 1),
        (.amoG tk d a c s o w, a :: amoRegs o d, amoBytes o w, amoBytes o w), (.redf tk d a c s r t, [a, d], 4, 4)]
        : List (Instr × List (BitVec 5) × Nat × Nat)),
      Faults .C tk e.1 (fun σ => !σ.cur.sBusy e.2.1 && !σ.cur.barred .C c.toNat &&
        decide (2 ^ 56 < (σ.cur.getS a).toNat + e.2.2.1 ∨ (σ.cur.getS a).toNat % e.2.2.2 ≠ 0))
        .addressing (fun σ => (σ.cur.getS a).toNat) ∧
      Faults .C tk e.1 (fun σ => !σ.cur.sBusy e.2.1 && !σ.cur.barred .C c.toNat &&
        decide ((σ.cur.getS a).toNat + e.2.2.1 ≤ 2 ^ 56 ∧ (σ.cur.getS a).toNat % e.2.2.2 = 0) &&
        (σ.outlived (σ.partOf σ.turn.core) (σ.cur.getS a).toNat ||
          σ.outlived (σ.partOf σ.turn.core) ((σ.cur.getS a).toNat + e.2.2.1 - 1)))
        .outlived (fun σ => (σ.cur.getS a).toNat)) ∧
  (∀ (tk : Tok) (d a : BitVec 5) (c o : BitVec 4) (s : BitVec 3) (z : BitVec 3) (w : BitVec 1),
    ∀ e ∈ ([(.ldl tk d a c s 0 z, .ldl tk d a c s 1 z, a :: dataRegs z d, sizeBytes z, 1),
        (.stl tk d a c s 0 z, .stl tk d a c s 1 z, a :: dataRegs z d, sizeBytes z, 1),
        (.amoS tk d a c s o w, .amoSg tk d a c s o w, a :: amoRegs o d, amoBytes o w, amoBytes o w)]
        : List (Instr × Instr × List (BitVec 5) × Nat × Nat)),
      Faults .C tk e.1 (fun σ => !σ.cur.sBusy e.2.2.1 && !σ.cur.barred .C c.toNat &&
        decide (0x40000 < (σ.cur.getS a).toNat + e.2.2.2.1 ∨ (σ.cur.getS a).toNat % e.2.2.2.2 ≠ 0)) .addressing (fun _ => 0) ∧
      Faults .C tk e.2.1 (fun σ => !σ.cur.sBusy e.2.2.1 && !σ.cur.barred .C c.toNat && (σ.cur.sgTarget σ.turn.core (σ.cur.getS a)).isNone)
        .accessList (fun _ => 0) ∧
      Faults .C tk e.2.1 (fun σ => !σ.cur.sBusy e.2.2.1 && !σ.cur.barred .C c.toNat &&
        (match σ.cur.sgTarget σ.turn.core (σ.cur.getS a) with
         | some (_, off) => decide (0x40000 < off + e.2.2.2.1 ∨ off % e.2.2.2.2 ≠ 0)
         | none => false)) .addressing (fun _ => 0))

/-- Fences and waits of C finish when what they wait for has happened. `fence` finishes whenever it issues; from then
on an access of C in a class of its mask waits while an earlier access of C in one of these classes, side log
included, has not performed (R92), and an access in no class of its mask passes it; one that waits for nothing is gone
at once. `ifence` finishes whenever it issues and every earlier access of C has performed, and leaves the instruction
cache empty and all four loop buffers stale; until then it waits. `waitw` on an aligned word of S that it may read
(R89) finishes as it issues when the condition holds; otherwise it stays armed with the word, the condition and the
comparand, and finishes, with its push, once a write has met the condition: each write that overlaps the word is
tested. While a fence keeps its class from issuing, it waits. A `waitw` address that is not aligned or lies past S is
an addressing fault. What the model notes of a fence or a wait is its own record (log entry 56). (R89, R92, R131,
R149, R161, R162, R163.) -/
def Obligations.ControlFencesAndWaits : Prop :=
  (∀ (tk : Tok) (m : BitVec 16) (s : BitVec 3),
    ∀ (σ s1 : State) (x : BitVec 32) (f : Fence), Issues σ .C (.fence tk m s) tk s1 x → f = ⟨s1.cur.nextId, .C, m.toNat⟩ →
      exec (.fence tk m s) σ = .next ((if s1.cur.fenceWaits f then s1.record (s1.fenceEv .C m s) else s1.note (s1.fenceEv .C m s)).moved
        ((s1.cur.fencedBy f).finished σ.now .C 2 tk.push 0))) ∧
  (∀ (c : Core) (f g : Fence), (g ∈ (c.fencedBy f).fences ↔ (g ∈ c.fences ∨ g = f) ∧ c.fenceWaits g = true) ∧
    c.fencedBy f = { c with fences := (c.fencedBy f).fences }) ∧
  (∀ (v : Nat) (c : Core) (a : Acc) (f : Fence),
    (f ∈ c.fences → f.st = a.st → f.id ≤ a.id → fld f.mask a.cls 1 = 1 → c.fenceWaits f = true → c.mayPerform v a = false) ∧
    ((∀ f ∈ c.fences, f.st = a.st → fld f.mask a.cls 1 = 0) → c.mayPerform v a = { c with fences := [] }.mayPerform v a) ∧
    (c.fenceWaits f = true ↔
      (∃ b ∈ c.acc, b.st = f.st ∧ b.id < f.id ∧ fld f.mask b.cls 1 = 1 ∧ c.holds b = false) ∨
      (∃ e ∈ c.slog, e.acc.st = f.st ∧ e.acc.id < f.id ∧ fld f.mask e.acc.cls 1 = 1))) ∧
  (∀ tk : Tok,
    Observes .C 2 tk (.ifence tk) (fun σ => σ.cur.drained .C) (fun σ => σ.ifenceEv)
      (fun σ => σ.cur.refetched σ.tick (σ.partOf σ.turn.core)) ∧
    Waits .C tk (.ifence tk) (fun σ => !σ.cur.drained .C)) ∧
  (∀ (tick p : Nat) (c : Core) (st : Stream), (c.refetched tick p).icache = [] ∧
    ((c.refetched tick p).str st).lbOk = false ∧ ((c.refetched tick p).str st).blk = (c.str st).blk ∧
    (c.refetched tick p).files = c.files) ∧
  (∀ (tk : Tok) (b a : BitVec 5) (k : BitVec 4) (s w : BitVec 3) (ready holds : State → Bool) (off : State → Nat),
    (∀ σ, off σ = (σ.cur.getS a).toNat) →
    (∀ σ, ready σ = (!σ.cur.sBusy [a, b] && !σ.cur.barred .C k.toNat &&
      σ.cur.mayPerform σ.turn.core (σ.cur.atIssue σ.turn.core (off σ) 4 k.toNat s.toNat))) →
    (∀ σ, holds σ = waitCond w.toNat (σ.cur.sWord (off σ)) ((σ.cur.getS b).setWidth 32)) →
    Observes .C 0 tk (.waitw tk b a k s w) (fun σ => ready σ && decide (off σ < 0x40000 ∧ off σ % 4 = 0) && holds σ)
      (fun σ => σ.waitEv σ.turn.core (off σ) k.toNat s.toNat σ.cur.nextId) (fun σ => σ.cur.advance .C 2) ∧
    Waits .C tk (.waitw tk b a k s w) (fun σ => !ready σ) ∧
    Begins .C 0 tk (.waitw tk b a k s w) (fun σ => ready σ && decide (off σ < 0x40000 ∧ off σ % 4 = 0) && !holds σ)
      (fun σ => { σ.cur with
        waitw := some ⟨off σ, w.toNat, (σ.cur.getS b).setWidth 32, tk.push, false, k.toNat, s.toNat, σ.cur.nextId⟩
        nextId := σ.cur.nextId + 1 }) ∧
    Faults .C tk (.waitw tk b a k s w) (fun σ => ready σ && decide (0x40000 ≤ off σ ∨ off σ % 4 ≠ 0)) .addressing (fun _ => 0) ∧
    (∀ (σ : State) (r : WaitW), σ.cur.waitw = some r → σ.cur.moves .C = true →
      exec (.waitw tk b a k s w) σ = .next (if r.met then
        σ.moved (({ σ.cur with waitw := none }.advance .C 2).push .C r.push 0) else σ))) ∧
  (∀ (c : Core) (off : Nat) (d : List Byte) (r : WaitW), c.waitw = some r → (c.writeS off d).waitw =
    some (if meets off d.length r.addr 4 && waitCond r.cond ((c.setBytes .S off d).sWord r.addr) r.cmp then { r with met := true } else r)) ∧
  (∀ w x : BitVec 32, waitCond 0 w x = decide (w = x) ∧ waitCond 1 w x = decide (w ≠ x) ∧
    waitCond 2 w x = decide (x.toNat ≤ w.toNat) ∧ waitCond 3 w x = decide (w.toNat < x.toNat))

/-- Branches, jumps, calls and returns of C move issue as the block rules say. A taken `bq`, `bnq`, `j` or `jmpr`
whose target lies within the current block moves issue there; one whose target is a header outside it (or its own
header) ends the block and enters that one; any other target, an odd one, or one with bits [63:56] nonzero, is an
illegal instruction. An untaken `bq` or `bnq` moves on by 2 halfwords. `call` and `callr` to a header save the block
and the offset after the call and enter it; to anything else, or 9 deep, they are an illegal instruction. `ret`
returns to the newest entry; with none it is an illegal instruction. Direct targets are the word's address plus 2
times the signed offset. That a direct branch faults where its target is no header is the model's reading (log entry
15). (R132, R149, R164, R165.) -/
def Obligations.BranchesAndCalls : Prop :=
  (∀ (tk : Tok) (q : BitVec 3) (o : BitVec 18) (w : BitVec 21) (a : BitVec 5),
    ∀ e ∈ ([
        (.bq tk q o, fun σ => σ.cur.getQ q, fun σ => σ.target o.toInt),
        (.bnq tk q o, fun σ => !σ.cur.getQ q, fun σ => σ.target o.toInt),
        (.j tk w, fun _ => true, fun σ => σ.target w.toInt),
        (.jmpr tk a, fun σ => !σ.cur.sBusy [a], fun σ => (σ.cur.getS a).toNat)]
        : List (Instr × (State → Bool) × (State → Nat))),
      Finishes .C 0 tk e.1 (fun σ => e.2.1 σ && σ.cur.inBlock (e.2.2 σ)) (fun σ _ => σ.cur.movedTo (e.2.2 σ)) (fun _ => 0) ∧
      Finishes .C 0 tk e.1 (fun σ => e.2.1 σ && σ.atHeader (e.2.2 σ)) (fun σ _ => σ.cur.enteredAt (e.2.2 σ)) (fun _ => 0) ∧
      Faults .C tk e.1 (fun σ => e.2.1 σ && !σ.cur.inBlock (e.2.2 σ) && !σ.atHeader (e.2.2 σ)) .illegal (fun _ => 0)) ∧
  (∀ (tk : Tok) (q : BitVec 3) (o : BitVec 18),
    Does .C 0 tk (.bq tk q o) (fun c => !c.getQ q) (fun c => c.advance .C 2) ∧
    Does .C 0 tk (.bnq tk q o) (fun c => c.getQ q) (fun c => c.advance .C 2)) ∧
  (∀ (tk : Tok) (w : BitVec 21) (a : BitVec 5),
    ∀ e ∈ ([(.call tk w, fun _ => true, fun σ => σ.target w.toInt),
        (.callr tk a, fun σ => !σ.cur.sBusy [a], fun σ => (σ.cur.getS a).toNat)]
        : List (Instr × (State → Bool) × (State → Nat))),
      Finishes .C 0 tk e.1 (fun σ => e.2.1 σ && σ.callable (e.2.2 σ) && decide (σ.cur.ret.length < 8))
        (fun σ _ => σ.cur.calledAt (e.2.2 σ)) (fun _ => 0) ∧
      Faults .C tk e.1 (fun σ => e.2.1 σ && (!σ.callable (e.2.2 σ) || decide (8 ≤ σ.cur.ret.length))) .illegal (fun _ => 0)) ∧
  (∀ tk : Tok,
    Finishes .C 0 tk (.ret tk) (fun σ => !σ.cur.ret.isEmpty) (fun σ _ => σ.cur.popRet σ.now) (fun _ => 0) ∧
    Faults .C tk (.ret tk) (fun σ => σ.cur.ret.isEmpty) .illegal (fun _ => 0)) ∧
  (∀ (σ : State) (o : Int), σ.target o = (((σ.cur.str .C).pc + 2 * o) % 2 ^ 64).toNat) ∧
  (∀ (c : Core) (t : Nat) (now : Now) (e : Ret) (r : List Ret), c.ret = e :: r → e.handler = false →
    (c.popRet now).ret = r ∧ ((c.popRet now).str .C).blk = e.blk ∧ ((c.popRet now).str .C).off = e.off ∧
    (c.calledAt t).ret = ⟨(c.str .C).blk, (c.str .C).off + 2, false⟩ :: c.ret ∧ ((c.calledAt t).str .C).blk.addr = t)

/-- A block header fixes the block, its repeats and stage predicates; at its end a block starts its next run or is
left. A header that issues where its stream enters a block (in C, once its count register awaits no value) reads its
repeat count n: the trip count for the loop record's kernel, else the immediate or bits [31:0] of the register. The
block runs 0 times for n = 0, else n times, or n + STG − 1 with stages. With runs it stands at run 0, 2 halfwords past
the header, the loop buffer filled when the block fits it; in V with stages the predicates 8 to 15 are cleared and the
first stage is written. With none the block ends at once. More than one run of a block of more than 256 halfwords is
an illegal instruction, and so is a header met inside a body (the model's reading, log entry 15). BLOCK_RUN_END at the
end of the block: with runs left, the run index moves on by 1 and the stream stands 2 halfwords past the header; in a
rotating block %rot moves on by 1 modulo 32; in V with stages the new run's predicate is written (R130). After the
last run a called block of C returns; any other block ends its phase: the loop record's next phase that is not empty
is entered, or the stream has ended (R15). C's phase that ends with saved entries on the return stack is an illegal
instruction (R165; recorded at its last word, log entry 55); C that ends without `exit` behaves as at an `exit` with
no successors (R17). (R12, R15, R17, R128, R129, R130, R131, R132, R165.) -/
def Obligations.BlocksOpenRunAndEnd : Prop :=
  (∀ (st : Stream) (l : BitVec 10) (r : BitVec 1) (s : BitVec 3) (g : BitVec 1) (n : BitVec 11)
      (cnt : State → Nat) (entered : State → Core),
    (∀ σ, cnt σ = σ.cur.repCount st ((σ.cur.str st).blk.byRec && (σ.cur.str st).off == 0) g n) →
    (∀ σ, entered σ =
      (let q := σ.cur.str st
       let c := ((σ.opened st l).core σ.turn.core).setStr st
        { σ.loadLoop σ.turn.core (σ.partOf σ.turn.core) q.pc l.toNat q with
          blk := ⟨q.pc, l.toNat, r == 1, s.toNat, cnt σ, runsOf (cnt σ) s.toNat, 0, q.blk.byRec && q.off == 0, q.blk.called⟩
          off := 2
          last := 0 }
       if st = .V ∧ s ≠ 0 then c.clearStages.stageWrite 0 (cnt σ) else c)) →
    (∀ σ, Issues σ st (.blockHeader l r s g n) Tok.none σ 0 → σ.turn.st = st → (σ.cur.str st).blk.len = 0 →
      ¬(st = .C ∧ g = 1 ∧ σ.cur.sBusy [n.setWidth 5] = true) → (runsOf (cnt σ) s.toNat ≤ 1 ∨ l.toNat ≤ 256) →
      exec (.blockHeader l r s g n) σ = .next ((σ.opened st l).moved
        ((if runsOf (cnt σ) s.toNat = 0 then (entered σ).endBlock σ.now st else entered σ).finished σ.now st 0 0 0))) ∧
    Faults st Tok.none (.blockHeader l r s g n)
      (fun σ => σ.turn.st == st && (σ.cur.str st).blk.len == 0 && !(st == .C && g == 1 && σ.cur.sBusy [n.setWidth 5]) &&
        decide (1 < runsOf (cnt σ) s.toNat ∧ 256 < l.toNat)) .illegal (fun _ => 0) ∧
    Faults st Tok.none (.blockHeader l r s g n) (fun σ => σ.turn.st == st && (σ.cur.str st).blk.len != 0) .illegal
      (fun _ => 0)) ∧
  (∀ (c : Core) (st : Stream) (t : Task) (g : BitVec 1) (n : BitVec 11),
    (c.task = some t → c.repCount st true g n = t.trip) ∧ c.repCount st false 0 n = n.toNat ∧
    c.repCount st false 1 n = (c.getR st (n.setWidth 5)).toNat % 2 ^ 32) ∧
  (∀ n stg : Nat, runsOf 0 stg = 0 ∧ (n ≠ 0 → runsOf n 0 = n) ∧ (n ≠ 0 → stg ≠ 0 → runsOf n stg = n + stg - 1)) ∧
  (∀ (c : Core) (i n : Nat), (c.clearStages.stageWrite i n).getP 8 = if i < n then BitVec.allOnes 128 else 0) ∧
  (∀ (c : Core) (j : Fin 16), c.clearStages.p[j] = if j.val < 8 then c.p[j] else 0) ∧
  (∀ (σ : State) (v p addr len : Nat) (r : Strm), r.lbAddr ≠ addr ∨ r.lbOk = false → len ≤ 256 →
    (σ.loadLoop v p addr len r).lb = σ.fetchBlock v p addr len ∧ (σ.loadLoop v p addr len r).lbOk = true ∧
    (σ.loadLoop v p addr len r).lbAddr = addr) ∧
  (∀ (s : State) (v : Nat) (st : Stream), (s.core v).canIssue st = true → ((s.core v).str st).blk.len ≠ 0 →
    ((s.core v).str st).blk.len ≤ ((s.core v).str st).off →
    exec (.blockRunEnd v st) s = .next ((s.setCore v ((s.core v).endRun s.now st)).flushAt v)) ∧
  (∀ (c : Core) (st : Stream) (now : Now), (c.str st).blk.run + 1 < (c.str st).blk.runs →
    ((c.endRun now st).str st).blk = { (c.str st).blk with run := (c.str st).blk.run + 1 } ∧
    ((c.endRun now st).str st).off = 2 ∧
    (c.endRun now st).rot = (if (c.str st).blk.rot then c.rot + 1 else c.rot) ∧
    (st = .V → (c.str st).blk.stg ≠ 0 →
      (c.endRun now st).getP 8 = if (c.str st).blk.run + 1 < (c.str st).blk.n then BitVec.allOnes 128 else 0)) ∧
  (∀ (c : Core) (st : Stream) (now : Now), (c.str st).blk.runs ≤ (c.str st).blk.run + 1 →
    (st = .C → (c.str .C).blk.called = true → c.endRun now st = c.popRet now) ∧
    (st = .C → (c.str .C).blk.called = false → c.ret ≠ [] → ∀ d, d = c.setStr .C { c.str .C with off := (c.str .C).last } →
      c.endRun now st = d.park now (d.recOf .C .illegal 0)) ∧
    (st = .C → (c.str .C).blk.called = false → c.ret = [] →
      c.endRun now st = (c.enterPhase .C ((c.str .C).phase + 1)).implicitExit) ∧
    (st ≠ .C → c.endRun now st = c.enterPhase st ((c.str st).phase + 1))) ∧
  (∀ c : Core, ((c.str .C).ended = true → c.st = .running →
      c.implicitExit = { c with st := .exiting, succ := [], exitStep := 1 }) ∧
    ((c.str .C).ended = false → c.implicitExit = c)) ∧
  (∀ (c : Core) (st : Stream) (ph : Nat), ph ≤ 2 → c.phaseAddr st ph ≠ 0 →
    ((c.enterPhase st ph).str st).blk = Block.entering (c.phaseAddr st ph) (ph == 1) false ∧
    ((c.enterPhase st ph).str st).off = 0 ∧ ((c.enterPhase st ph).str st).phase = ph) ∧
  (∀ (c : Core) (st : Stream) (ph : Nat), ph ≤ 2 → c.phaseAddr st ph = 0 → c.enterPhase st ph = c.enterPhase st (ph + 1)) ∧
  (∀ (c : Core) (st : Stream), ((c.enterPhase st 3).str st).ended = true)

/-- `take`, `give` and `nop` complete in every stream. `take` writes the payload it popped, zero-extended, to a
register of its stream's file; `give` pushes the low 32 bits of one; `nop` only pops and pushes. In C, L and V each
finishes whenever it issues (in C, once its register awaits no value). In M, whose words finish in order, each enters
the M queue with its push, `take` writing its register as it issues. The compact `nop` finishes in every stream and
does nothing. (R13, R134, R176, R201.) -/
def Obligations.TokenWordsMoveTokens : Prop :=
  (∀ (st : Stream) (tk : Tok) (r : BitVec 5), st ≠ .M →
    Finishes st 2 tk (.take tk r) (fun σ => σ.turn.st == st && !(st == .C && σ.cur.sBusy [r]))
      (fun σ x => σ.cur.setR st r (x.setWidth 64)) (fun _ => 0) ∧
    Finishes st 2 tk (.give tk r) (fun σ => σ.turn.st == st && !(st == .C && σ.cur.sBusy [r]))
      (fun σ _ => σ.cur) (fun σ => (σ.cur.getR st r).setWidth 32) ∧
    Finishes st 2 tk (.nopToken tk) (fun σ => σ.turn.st == st) (fun σ _ => σ.cur) (fun _ => 0)) ∧
  (∀ (tk : Tok) (r : BitVec 5) (s s1 : State) (x : BitVec 32), s.turn.st = .M →
    (Issues s .M (.take tk r) tk s1 x → exec (.take tk r) s =
      .next (s1.moved (((s1.cur.setG (r.setWidth 4) (x.setWidth 64)).queuedM .token tk 0).begun s.now .M 2))) ∧
    (Issues s .M (.give tk r) tk s1 x → exec (.give tk r) s =
      .next (s1.moved ((s1.cur.queuedM .token tk ((s1.cur.getG (r.setWidth 4)).setWidth 32)).begun s.now .M 2))) ∧
    (Issues s .M (.nopToken tk) tk s1 x → exec (.nopToken tk) s =
      .next (s1.moved ((s1.cur.queuedM .token tk 0).begun s.now .M 2)))) ∧
  (∀ st : Stream, Finishes st 1 Tok.none .nop (fun σ => σ.turn.st == st) (fun σ _ => σ.cur) (fun _ => 0))

/-- Counter words set, raise and test the counters; a raise past the top saturates. `kset` (C) holds a write of a
counter, and `kinc` (every stream), `kincr` and the compact `kinc` (C) hold a raise, a release each, which is made
once what precedes it in the stream has performed and its turn has come; in M it falls due when the word finishes.
`kwge` finishes while the counter is at least the threshold, `kwgs` then takes the threshold off in the same step, and
`kwlt` finishes while it is below, each at its stream's turn; otherwise each leaves the state as it is. A raise whose
sum fits 24 bits gives the sum; any other leaves all ones and parks the core with cause 4: the raises that one C-cycle
brings to a counter make one record. No other counter changes. (R14, R89, R93, R166, R167, R168, R176, R201, R372.) -/
def Obligations.CounterWordsCount : Prop :=
  (∀ (tk : Tok) (k : BitVec 6) (i : BitVec 13) (r : BitVec 5) (n : BitVec 4),
    Does .C 2 tk (.kset tk k i) (fun _ => true) (fun c => c.hold .C (.set k (i.setWidth 24))) ∧
    Does .C 2 tk (.kincr tk k r) (fun c => !c.sBusy [r])
      (fun c => c.hold .C (.inc k ((c.getS r).toNat % 2 ^ 24) (c.recOf .C .counterOverflow 0))) ∧
    Finishes .C 1 Tok.none (.kincCompact k n) (fun σ => σ.turn.st == .C)
      (fun σ _ => σ.cur.hold .C (.inc k n.toNat (σ.cur.recOf .C .counterOverflow 0))) (fun _ => 0)) ∧
  (∀ (st : Stream) (tk : Tok) (k : BitVec 6) (i : BitVec 13), st ≠ .M →
    Finishes st 2 tk (.kinc tk k i) (fun σ => σ.turn.st == st)
      (fun σ _ => σ.cur.hold st (.inc k i.toNat (σ.cur.recOf st .counterOverflow 0))) (fun _ => 0) ∧
    Observes st 2 tk (.kwge tk k i) (fun σ => σ.turn.st == st && σ.mayTest k && decide (i.toNat ≤ (σ.cur.getK k).toNat))
      (fun σ => σ.obsEv k) (fun σ => σ.cur.kMark σ.clock st.kStep) ∧
    Observes st 2 tk (.kwgs tk k i) (fun σ => σ.turn.st == st && σ.mayTest k && decide (i.toNat ≤ (σ.cur.getK k).toNat))
      (fun σ => σ.obsEv k) (fun σ => (σ.cur.setK k (σ.cur.getK k - i.setWidth 24)).kMark σ.clock st.kStep) ∧
    Observes st 2 tk (.kwlt tk k i) (fun σ => σ.turn.st == st && σ.mayTest k && decide ((σ.cur.getK k).toNat < i.toNat))
      (fun σ => σ.obsEv k) (fun σ => σ.cur.kMark σ.clock st.kStep)) ∧
  (∀ (tk : Tok) (k : BitVec 6) (i : BitVec 13),
    Begins .M 2 tk (.kinc tk k i) (fun σ => σ.turn.st == .M) (fun σ => σ.cur.queuedM (.kinc k.toNat i.toNat) tk 0) ∧
    (∀ s s1 x, s.turn.st = .M → s1.mayTest k = true →
      (Issues s .M (.kwge tk k i) tk s1 x → i.toNat ≤ (s1.cur.getK k).toNat → exec (.kwge tk k i) s =
        .next ((s1.note (s1.obsEv k)).moved (((s1.cur.kMark s.clock 4).queuedM .token tk 0).begun s.now .M 2))) ∧
      (Issues s .M (.kwgs tk k i) tk s1 x → i.toNat ≤ (s1.cur.getK k).toNat → exec (.kwgs tk k i) s =
        .next ((s1.note (s1.obsEv k)).moved
          ((((s1.cur.setK k (s1.cur.getK k - i.setWidth 24)).kMark s.clock 4).queuedM .token tk 0).begun s.now .M 2))) ∧
      (Issues s .M (.kwlt tk k i) tk s1 x → (s1.cur.getK k).toNat < i.toNat → exec (.kwlt tk k i) s =
        .next ((s1.note (s1.obsEv k)).moved (((s1.cur.kMark s.clock 4).queuedM .token tk 0).begun s.now .M 2))))) ∧
  (∀ (tk : Tok) (k : BitVec 6) (i : BitVec 13) (s : State),
    ((s.cur.getK k).toNat < i.toNat → exec (.kwge tk k i) s = .next s ∧ exec (.kwgs tk k i) s = .next s) ∧
    (i.toNat ≤ (s.cur.getK k).toNat → exec (.kwlt tk k i) s = .next s)) ∧
  (∀ (s : State) (v : Nat) (st : Stream) (a n : Nat) (k : BitVec 6) (r : CauseRec),
    ((s.core v).str st).hold = [⟨a, .inc k n r⟩] → (s.core v).releasable st a = true → s.landed v = true →
    (s.core v).kTurn s.clock 1 = true →
    ((s.flushStr v st).core v).k = ((s.core v).incK s.now k n r).k ∧ (((s.flushStr v st).core v).str st).hold = []) ∧
  (∀ (s : State) (v : Nat) (st : Stream) (a : Nat) (k : BitVec 6) (x : BitVec 24),
    ((s.core v).str st).hold = [⟨a, .set k x⟩] →
    ((s.core v).releasable st a = true → s.landed v = true → (s.core v).kTurn s.clock 0 = true →
      ((s.flushStr v st).core v).getK k = x ∧ (∀ j, j ≠ k → ((s.flushStr v st).core v).getK j = (s.core v).getK j) ∧
      (((s.flushStr v st).core v).str st).hold = []) ∧
    ((s.core v).releasable st a = false ∨ (s.core v).kTurn s.clock 0 = false → (s.flushStr v st).core v = s.core v)) ∧
  (∀ (c : Core) (now : Now) (n : Nat) (k : BitVec 6) (r : CauseRec),
    (∀ j, j ≠ k → (c.incK now k n r).getK j = c.getK j) ∧
    ((c.getK k).toNat + n < 2 ^ 24 → ((c.incK now k n r).getK k).toNat = (c.getK k).toNat + n ∧
      (c.incK now k n r).st = c.st ∧ (c.incK now k n r).causes = c.causes) ∧
    (2 ^ 24 ≤ (c.getK k).toNat + n → (c.incK now k n r).getK k = 0xFFFFFF ∧
      ((c.kMark now.clk 1).kOver.contains k.toNat = false → c.st = .running →
        (c.incK now k n r).st = .parked ∧
          ∃ x : CauseRec, x.cause = .counterOverflow ∧ (c.incK now k n r).causes = c.causes ++ [x]) ∧
      ((c.kMark now.clk 1).kOver.contains k.toNat = true → (c.incK now k n r).causes.length = c.causes.length)))

/-- `exit` begins the end of a task; `trap` and `brk` park its core. `exit` with no successors, or with successor
blocks at a multiple of 32 within S that it may read (R89), makes the task Exiting with those blocks read, discards
the return stack and ends C, once its register awaits no value; every other register, buffer and counter stays, and so
do memory and the system registers. A block address that is not a multiple of 32 or runs past S is an addressing
fault. `trap` and `brk` park the core with causes 14 and 15, the code recorded and the saved position the following
word. What an `exit` in a handler abandons beside this is the model's reading (log entry 17). (R16, R17, R18, R89,
R149, R169, R175, R305.) -/
def Obligations.ExitTrapAndBreak : Prop :=
  (∀ (p : BitVec 2) (a : BitVec 5) (n : BitVec 3) (s s1 : State) (x : BitVec 32),
    Issues s .C (.exit p a n) ⟨p, 0⟩ s1 x → s1.cur.sBusy [a] = false →
    (n = 0 ∨ ((s1.cur.getS a).toNat % 32 = 0 ∧ (s1.cur.getS a).toNat + 32 * n.toNat ≤ 0x40000 ∧
      s1.cur.mayPerform s1.turn.core (s1.cur.atIssue s1.turn.core (s1.cur.getS a).toNat (32 * n.toNat) 0 0) = true)) →
    exec (.exit p a n) s = .next
      (let t := s1.exitNow ((List.range n.toNat).map (fun i => s1.cur.block ((s1.cur.getS a).toNat + 32 * i)))
       t.moved (t.cur.begun s.now .C 2))) ∧
  (∀ (s : State) (bs : List (BitVec 256)), let t := s.exitNow bs
    t.cur.st = .exiting ∧ t.cur.exitStep = 1 ∧ (t.cur.str .C).ended = true ∧ t.cur.succ = bs ∧ t.cur.inHandler = false ∧
    t.cur.files = { s.cur.files with ret := [] } ∧ t.turn = s.turn ∧ t.mem = s.mem ∧ t.l2b = s.l2b ∧ t.hostMem = s.hostMem ∧
    t.regs = s.regs) ∧
  (∀ (p : BitVec 2) (a : BitVec 5) (n : BitVec 3),
    Faults .C ⟨p, 0⟩ (.exit p a n) (fun σ => !σ.cur.sBusy [a] && decide (n ≠ 0) &&
      decide ((σ.cur.getS a).toNat % 32 ≠ 0 ∨ 0x40000 < (σ.cur.getS a).toNat + 32 * n.toNat)) .addressing (fun _ => 0)) ∧
  (∀ (p : BitVec 2) (k : BitVec 16), ∀ e ∈ ([(.trap p k, .trap, 14), (.brk p k, .breakpoint, 15)] : List (Instr × Cause × Nat)),
    e.2.1.code = e.2.2 ∧
    Begins .C 2 ⟨p, 0⟩ e.1 (fun _ => true) (fun σ =>
      (σ.cur.start σ.now).park σ.now { (σ.cur.start σ.now).recOf .C e.2.1 0 with det := k.toNat })) ∧
  (∀ (c : Core) (now : Now) (r : CauseRec), c.st = .running ∨ c.st = .exiting →
    (c.park now r).st = .parked ∧ (c.park now r).causes = c.causes ++ [r] ∧ (c.park now r).files = c.files)

/-- `engage`, `lease` and `unlease` complete with their outcome. `engage` reads its header, descriptor and baton list
at issue, once every classed access of C has performed. For an engine of its cluster, or a comb engine whose ENG table
gives its partition no entry, it is decided at once in its place of the rotating order (R105); for another comb engine
it stays pending until COMB_ENGINE_DECISION decides it at a slot of its partition and makes its push. A decision
writes the result word of Table 5.3 to s[d] and the admission to q[qd]. The first entry that admits gives POS, ENG,
HLD and q = 1, adds exactly one command, for that engine, and sets the streak to 0; the codes of the entries before it
stand in RS0 to RS2. A list of which every entry refuses adds no command: its codes stand in RS0 to RS3, q = 0,
`first` rises by 1, `alt` by the later refusals, `list` by 1, and the streak by 1 up to 15; an engine that refuses a
marked request as busy or reserve has the core in its marked set. A list with a malformed entry, or with none, gives
malformed and counts `list` alone, and so does a check that fails (R118), whose code stands in RS0. An entry is
foreign, asleep, admitted, busy or reserve as Admit of R103 says. `lease` writes the granted entry and the code of
Table 5.7 and sets q for codes 0 and 1; `unlease` ends the node's lease on a named engine and tells in q whether there
was one. No memory changes. (R103, R104, R105, R107, R109, R110, R115, R118, R172, R173, R323.) -/
def Obligations.EngineRequestsAreDecided : Prop :=
  (∀ (tk : Tok) (q : BitVec 3) (d a b : BitVec 5) (s s1 s2 : State) (x : BitVec 32) (r : EReq),
    Issues s .C (.engage tk q d a b) tk s1 x → s1.cur.sBusy [a, a + 1, b, d] = false → s1.cur.drained .C = true →
    s2 = (s1.descRead s.turn.core (s1.cur.getS a) (s1.cur.getS (a + 1))).1 →
    r = { core := s.turn.core, q := q, d := d, hdr := s1.cur.getS a, doff := s1.cur.getS (a + 1),
          desc := (s1.descRead s.turn.core (s1.cur.getS a) (s1.cur.getS (a + 1))).2, list := s1.cur.getS b,
          marked := decide (hdrCls (s1.cur.getS a) < 6 ∧ s1.kOf (s1.partOf s.turn.core) (hdrCls (s1.cur.getS a)) ≤
            s1.cur.streakOf (hdrCls (s1.cur.getS a))),
          check := s2.checkCommand s.turn.core (s1.cur.getS a) (s1.cur.getS (a + 1))
            (s1.descRead s.turn.core (s1.cur.getS a) (s1.cur.getS (a + 1))).2,
          push := tk.push, word := (s1.cur.str .C).pc } →
    (clsComb (hdrCls r.hdr) = false ∨ s1.ownsEng (s1.partOf s.turn.core) (combOf s.turn.core) = false →
      (s1.engTurn s.turn.core (hdrCls r.hdr) r.list = true →
        exec (.engage tk q d a b) s = .next (((s2.engage r).setCore s.turn.core
          (({ (s2.engage r).core s.turn.core with nextId := s1.cur.nextId + 1 }).finished s.now .C 2 tk.push 0)).flushAt s.turn.core)) ∧
      (s1.engTurn s.turn.core (hdrCls r.hdr) r.list = false → exec (.engage tk q d a b) s = .next s)) ∧
    (clsComb (hdrCls r.hdr) = true → s1.ownsEng (s1.partOf s.turn.core) (combOf s.turn.core) = true →
      exec (.engage tk q d a b) s = .next ({ s2.setCore s.turn.core
          ({ s1.cur with engReq := some (0, q.toNat, d.toNat), nextId := s1.cur.nextId + 1 }.begun s.now .C 2)
        with ereqs := s1.ereqs ++ [r] }.flushAt s.turn.core))) ∧
  (∀ (s : State) (v : Nat) (h o : BitVec 64),
    (s.descRead v h o).1 = { s with hist := (s.descRead v h o).1.hist } ∧
    (0x40000 ≤ o.toNat ∨ o.toNat % 32 ≠ 0 → s.descRead v h o = (s, 0)) ∧
    (o.toNat < 0x40000 → o.toNat % 32 = 0 → s.past = [] → s.descRead v h o = (s, (s.core v).block o.toNat))) ∧
  (∀ (s : State) (v : Nat) (r : EReq), s.ereqs.find? (fun e => e.core == v) = some r →
    (s.slotOwner (combOf v) 2 (s.slot % 512) = some (s.partOf v) → s.engTurn v (hdrCls r.hdr) r.list = true →
      exec (.combEngineDecision v) s = .next
        (let t := { s with ereqs := s.ereqs.filter (fun e => e.core != v) }.engage r
         (t.setCore v ({ t.core v with engReq := none }.push .C r.push 0)).flushAt v)) ∧
    (s.slotOwner (combOf v) 2 (s.slot % 512) ≠ some (s.partOf v) ∨ s.engTurn v (hdrCls r.hdr) r.list = false →
      exec (.combEngineDecision v) s = .next s)) ∧
  (∀ (s : State) (r : EReq), (s.engage r).mem = s.mem ∧ (s.engage r).l2b = s.l2b ∧ (s.engage r).regs = s.regs) ∧
  (∀ (s t : State) (r : EReq) (c d : Core) (cls : Nat) (out : Nat → Nat → Prop) (good : Nat → Bool) (code : Nat → Nat × Bool),
    t = s.engage r → c = s.core r.core → d = t.core r.core → cls = hdrCls r.hdr → cls < 6 →
    (∀ j, good j = (fld (entryAt r.list j) 15 1 == 1 && fld (entryAt r.list j) 12 3 == cls && fld (entryAt r.list j) 4 8 == 0)) →
    (∀ j, code j = s.admitCode r.core cls (entryAt r.list j) j r.marked) →
    (∀ k n, out k n ↔ (d.ovf.toList.getD (3 * cls + k) 0).toNat = min ((c.ovf.toList.getD (3 * cls + k) 0).toNat + n) (2 ^ 32 - 1)) →
    (5 ≤ r.check → d.getS r.d = (if r.d = 0 then 0 else BitVec.ofNat 64 (r.check + if r.marked then 2 ^ 15 else 0)) ∧
      d.getQ r.q = false ∧ t.ecmds = s.ecmds ∧ out 0 0 ∧ out 1 0 ∧ out 2 1 ∧ d.streakOf cls = c.streakOf cls) ∧
    (r.check = 0 → s.engines.sorted = true → ∀ ks : List Nat, ks.length ≤ 4 →
      (∀ j < ks.length, good j = true ∧ (code j).1 = ks.getD j 0 ∧ ks.getD j 0 ≠ 0) →
      (ks.length < 4 → good ks.length = true → (code ks.length).1 = 0 →
        d.getS r.d = (if r.d = 0 then 0 else BitVec.ofNat 64 (ks.getD 0 0 + 8 * ks.getD 1 0 + 64 * ks.getD 2 0 +
          ks.length * 2 ^ 12 + (if (code ks.length).2 then 2 ^ 14 else 0) + (if r.marked then 2 ^ 15 else 0) +
          entryAt r.list ks.length * 2 ^ 16)) ∧
        d.getQ r.q = true ∧ d.streakOf cls = 0 ∧ out 0 (if ks = [] then 0 else 1) ∧ out 1 (ks.length - 1) ∧ out 2 0 ∧
        (∀ e, e = engId r.core cls (fld (entryAt r.list ks.length) 0 4) →
          ((code ks.length).2 = true → (t.engine e).holds = dropHold r.core (s.engine e).holds) ∧
          ∃ x : ECmd, t.ecmds = s.ecmds ++ [x] ∧ x.eng = e ∧ x.core = r.core ∧ x.hdr = r.hdr ∧ x.desc = r.desc ∧
            x.entry = entryAt r.list ks.length ∧ x.occupying = true ∧ x.released = false ∧ x.delivered = false)) ∧
      (ks ≠ [] → (ks.length = 4 ∨ fld (entryAt r.list ks.length) 15 1 = 0) →
        d.getS r.d = (if r.d = 0 then 0 else BitVec.ofNat 64 (ks.getD 0 0 + 8 * ks.getD 1 0 + 64 * ks.getD 2 0 + 512 * ks.getD 3 0 +
          if r.marked then 2 ^ 15 else 0)) ∧
        d.getQ r.q = false ∧ t.ecmds = s.ecmds ∧ out 0 1 ∧ out 1 (ks.length - 1) ∧ out 2 1 ∧
        d.streakOf cls = min (c.streakOf cls + 1) 15 ∧
        (r.marked = true → ∀ j < ks.length, ks.getD j 0 = 1 ∨ ks.getD j 0 = 2 →
          r.core ∈ (t.engine (engId r.core cls (fld (entryAt r.list j) 0 4))).marked)) ∧
      ((ks.length < 4 ∧ fld (entryAt r.list ks.length) 15 1 = 1 ∧ good ks.length = false) ∨
          (ks = [] ∧ fld (entryAt r.list 0) 15 1 = 0) →
        d.getS r.d = (if r.d = 0 then 0 else BitVec.ofNat 64 (6 + if r.marked then 2 ^ 15 else 0)) ∧
        d.getQ r.q = false ∧ t.ecmds = s.ecmds ∧ out 0 0 ∧ out 1 0 ∧ out 2 1 ∧ d.streakOf cls = c.streakOf cls))) ∧
  (∀ (s : State) (v cls ent pos e : Nat) (m : Bool), e = engId v cls (fld ent 0 4) →
    (clsCount cls ≤ fld ent 0 4 ∨
        (clsComb cls = true ∧ (s.leasesEng (s.partOf v) e = false ∨ s.ownsEng (s.partOf v) (combOf v) = false)) →
      (s.admitCode v cls ent pos m).1 = 4) ∧
    (fld ent 0 4 < clsCount cls →
        (clsComb cls = true → s.leasesEng (s.partOf v) e = true ∧ s.ownsEng (s.partOf v) (combOf v) = true) →
      ((s.engine e).leases = [] → s.justEnded e = false → (s.admitCode v cls ent pos m).1 = 3) ∧
      ((s.engine e).leases ≠ [] →
        (m = true → (∃ h ∈ (s.engine e).holds, h.core = v) → s.admitCode v cls ent pos m = (0, true)) ∧
        ((m = false ∨ ∀ h ∈ (s.engine e).holds, h.core ≠ v) →
          (pos = 0 → 1 ≤ s.freeSlots e → s.admitCode v cls ent pos m = (0, false)) ∧
          (0 < pos → s.reserve (s.partOf v) cls < s.freeSlots e → s.admitCode v cls ent pos m = (0, false)) ∧
          (s.freeSlots e = 0 → s.admitCode v cls ent pos m = (1, false)) ∧
          (0 < pos → s.freeSlots e ≠ 0 → s.freeSlots e ≤ s.reserve (s.partOf v) cls →
            s.admitCode v cls ent pos m = (2, false)))))) ∧
  (∀ (tk : Tok) (q : BitVec 3) (d a : BitVec 5) (s s1 : State) (x : BitVec 32),
    (Issues s .C (.lease tk q d a) tk s1 x → s1.cur.sBusy [d, a] = false →
      ∃ t, exec (.lease tk q d a) s = .next t ∧
        (let l := s1.lease s.turn.core (s1.cur.getS a)
         t.cur.getQ q = decide (l.2.1 ≤ 1) ∧ (d ≠ 0 → t.cur.getS d = BitVec.ofNat 64 (l.2.2 * 2 ^ 16 + l.2.1)) ∧
         t.engines = l.1.engines ∧ t.mem = s.mem ∧ t.regs = s.regs)) ∧
    (Issues s .C (.unlease tk q a) tk s1 x → s1.cur.sBusy [a] = false →
      ∃ t, exec (.unlease tk q a) s = .next t ∧ t.mem = s.mem ∧ t.regs = s.regs ∧
        (let w := (s1.cur.getS a).toNat
         let e := engId s.turn.core (fld w 12 3) (fld w 0 4)
         let n := match s1.cur.task with | some k => k.node | none => 0
         t.cur.getQ q = (w / 2 ^ 15 == 1 && fld w 4 1 == 0 && decide (fld w 12 3 < 6) && fld w 5 7 == 0 &&
            (s1.engine e).leases.contains (.node n)) ∧
         (t.cur.getQ q = true → t.engines = (s1.endLease (.node n) e).engines) ∧
         (t.cur.getQ q = false → t.engines = s1.engines))))

/-- Address arithmetic of L completes with the values of its table. Every arithmetic word of L, its constants and its
compact forms answer a next state whenever they issue: b[d] holds the sum, difference, bitwise result, shift by bits
[5:0], low product, sign-extended constant or shifted-in constant, modulo 2^64, and nothing else of the core changes
but what finishing changes. (R149, R177, R178.) -/
def Obligations.LoadStreamArithmetic : Prop :=
  (∀ (tk : Tok) (d a b : BitVec 4) (j : BitVec 14) (i : BitVec 16), ∀ e ∈ ([
      (.badd tk d a b, fun c => c.getB a + c.getB b), (.bsub tk d a b, fun c => c.getB a - c.getB b),
      (.band tk d a b, fun c => c.getB a &&& c.getB b), (.bor tk d a b, fun c => c.getB a ||| c.getB b),
      (.bxor tk d a b, fun c => c.getB a ^^^ c.getB b),
      (.bsll tk d a b, fun c => c.getB a <<< ((c.getB b).toNat % 64)),
      (.bsrl tk d a b, fun c => c.getB a >>> ((c.getB b).toNat % 64)),
      (.bmul tk d a b, fun c => BitVec.ofNat 64 ((c.getB a).toNat * (c.getB b).toNat)),
      (.baddi tk d a j, fun c => c.getB a + j.signExtend 64), (.bli tk d i, fun _ => i.signExtend 64),
      (.blis tk d i, fun c => (c.getB d <<< 16) ||| i.setWidth 64)] : List (Instr × (Core → Reg))),
    Does .L 2 tk e.1 (fun _ => true) (fun c => c.setB d (e.2 c))) ∧
  (∀ (d a : BitVec 4) (i : BitVec 6),
    Does .L 1 Tok.none (.bmov d a) (fun _ => true) (fun c => c.setB d (c.getB a)) ∧
    Does .L 1 Tok.none (.baddc d i) (fun _ => true) (fun c => c.setB d (c.getB d + i.signExtend 64))) ∧
  (∀ (c : Core) (d r : BitVec 4) (v : Reg), (c.setB d v).getB r = (if r = d then v else c.getB r) ∧
    (c.setB d v).files = { c.files with b := (c.setB d v).b })

/-- A command word of L whose checks pass hands its command over. Every command word of L (`cp`, `cpw` in three
layouts, `cpl`, `cpr`, `cpm`, `cvcp`, `pf.bulk`, `pf.rel`, `lgath`, `lscat`, `lfill`) answers a next state whenever it
issues, fewer than 32 commands (and, for a gather or scatter, fewer than 8 of those) are in flight, and the checks of
Table 8.6 pass: one command is added, which holds the group words as they are at issue, the class, scope and policy of
the word, the word itself, and the payload that it popped. The word has finished; no event of the command has
occurred, and its engine thread begins (R94; the note of its fork is the model's record, log entry 56). A command that
fails a check parks the core with the cause of the first check it fails, and none is added. A command that passes has
a source and a destination word of the spaces that Table 8.2 gives it with their must-be-zero bits zero, every byte it
names within its space, a shape in its range, no overlap of the bytes it reads and writes, only buffers that Table 3.2
gives to L, and no address of an arena that is not live. A `cvcp` to FP64 under RDI is an illegal instruction before
everything else; a command that is refused as an addressing fault comes before an access-list fault. That a notify
word is none of the bytes of the overlap check is the model's reading (log entry 64). (R67, R68, R81, R177, R180,
R183, R184, R186, R187, R188, R189, R304.) -/
def Obligations.LoadCommandsAreHandedOver : Prop :=
  (∀ (tk : Tok) (g : BitVec 2) (c : BitVec 4) (s : BitVec 3) (l : BitVec 2) (r : BitVec 3) (n u : BitVec 1), ∀ e ∈ ([
      (.cp1d tk g c s l, { op := .cp, dims := 1, g := g, c := c, s := s, l := l }),
      (.cp2d tk g c s l, { op := .cp, dims := 2, g := g, c := c, s := s, l := l }),
      (.cp3d tk g c s l, { op := .cp, dims := 3, g := g, c := c, s := s, l := l }),
      (.cpw1d tk g c s l, { op := .cpw, dims := 1, g := g, c := c, s := s, l := l }),
      (.cpw2d tk g c s l, { op := .cpw, dims := 2, g := g, c := c, s := s, l := l }),
      (.cpw3d tk g c s l, { op := .cpw, dims := 3, g := g, c := c, s := s, l := l }),
      (.cpl tk g c s, { op := .cpl, dims := 2, g := g, c := c, s := s }),
      (.cpr tk g c s, { op := .cpr, g := g, c := c, s := s }),
      (.cpm tk g c s, { op := .cpm, g := g, c := c, s := s }),
      (.cvcp tk g c s l r n u, { op := .cvcp, g := g, c := c, s := s, l := l, r := r, n := n, u := u }),
      (.pfBulk tk g c s l, { op := .pfBulk, g := g, c := c, s := s, l := l }),
      (.pfRel tk g c s, { op := .pfRel, g := g, c := c, s := s }),
      (.lgath tk g c s l, { op := .lgath, g := g, c := c, s := s, l := l }),
      (.lscat tk g c s l, { op := .lscat, g := g, c := c, s := s, l := l }),
      (.lfill tk g c s l, { op := .lfill, g := g, c := c, s := s, l := l })] : List (Instr × LForm)),
    ∀ (σ σ1 : State) (x : BitVec 32) (m : LCmd), Issues σ .L e.1 tk σ1 x → m = e.2.command e.1 σ1.cur tk x →
      (σ1.acceptsL m = true → exec e.1 σ = .next ((σ1.note (σ1.lForkEv σ1.turn.core m)).moved ((σ1.withCmd m).finished σ.now .L 2 tk.push 0))) ∧
      (∀ k a, m.check σ1 σ.turn.core = some (k, a) → σ1.cur.lcmds.length < 32 →
        (m.isGath = true → (σ1.cur.lcmds.filter LCmd.isGath).length < 8) →
        exec e.1 σ = .next (σ.park σ.turn.core (σ.cur.recOf .L k a)))) ∧
  (∀ (f : LForm) (i : Instr) (c : Core) (tk : Tok) (x : BitVec 32),
    let m := f.command i c tk x
    let w (i : Nat) : BitVec 64 := c.getB (BitVec.ofNat 4 (4 * f.g.toNat + i))
    m.dst = w 0 ∧ m.src = w 1 ∧ m.shape = w 2 ∧ m.comp = w 3 ∧ (f.dims = 3 → m.plane = w 4) ∧
    m.payload = (if tk.pop = 0 then none else some x) ∧ m.word = i ∧ m.released = false ∧ m.delivered = false ∧
    m.id = c.nextId) ∧
  (∀ (s : State) (m : LCmd), (s.withCmd m).files = s.cur.files) ∧
  (∀ (m : LCmd) (s : State) (v : Nat), m.check s v = none →
    m.op.dstNeed.ok m.dst = true ∧ m.op.srcNeed.ok m.src = true ∧ m.shapeOk = true ∧ m.alignOk = true ∧
    m.overlaps (s.core v) v = false ∧
    (m.op.srcNeed.isBuf m.src = true → (bufOf m.src = .W ∨ bufOf m.src = .S) ∧
      ∀ r ∈ m.srcRows, r.1 + r.2 ≤ (bufOf m.src).size) ∧
    (m.op.dstNeed.isBuf m.dst = true → bufOf m.dst ≠ .X ∧ ∀ r ∈ m.dstRows, r.1 + r.2 ≤ (bufOf m.dst).size) ∧
    (m.op.srcNeed.isG m.src = true → ∀ r ∈ m.srcRows, r.1 + r.2 ≤ 2 ^ 56) ∧
    (m.op.dstNeed.isG m.dst = true → ∀ r ∈ m.dstRows, r.1 + r.2 ≤ 2 ^ 56) ∧
    (m.op.dstNeed = .sg → ∀ r ∈ m.dstRows, r.1 + r.2 ≤ 0x40000) ∧ (∀ t ∈ m.targets (s.core v) v, t ≠ none) ∧
    (m.op.srcNeed.isG m.src = true → ∀ r ∈ m.srcRows, s.outlived (s.partOf v) r.1 = false ∧
      s.outlived (s.partOf v) (r.1 + r.2 - 1) = false) ∧
    (m.op.dstNeed.isG m.dst = true → ∀ r ∈ m.dstRows, s.outlived (s.partOf v) r.1 = false ∧
      s.outlived (s.partOf v) (r.1 + r.2 - 1) = false)) ∧
  (∀ (m : LCmd) (s : State) (v : Nat),
    (m.op = .cvcp → m.rnd = 5 → m.dfmt = 0 → m.check s v = some (.illegal, 0)) ∧
    (¬(m.op = .cvcp ∧ m.rnd = 5 ∧ m.dfmt = 0) → m.addressingOk (s.core v) v = false →
      m.check s v = some (.addressing, 0)) ∧
    (¬(m.op = .cvcp ∧ m.rnd = 5 ∧ m.dfmt = 0) → m.addressingOk (s.core v) v = true →
      m.accessOk (s.core v) v = false → m.check s v = some (.accessList, 0)))

/-- Words of M join the M queue with the operands they have at issue. `mma`, `mmat`, `tclr` (both forms), `tld` from
A: and W:, `drain`, `eload`, `gli` and `glis` answer a next state whenever they issue, the tile (or the slot) they
name is not in use by a drain, and their operands pass the checks of R199, R203, R204 and R210. The instruction joins
the M queue with its push; a `drain`, fewer than 2 being in flight, joins the drains too with what it has read; `mma`
sets its tile's drain type, `eload` its slot and `gli` and `glis` their g register as they issue; a drain's thread
begins (R94; the note of its fork and of what `eload` reads is the model's record, log entry 56). While a drain has
yet to read its tile, a third drain finds two in flight, or a drain uses its slot, a word waits. An `mma` that fails a
check of R199 parks the core with that check's cause. (R149, R193, R194, R196, R197, R199, R201, R203, R204, R205,
R210.) -/
def Obligations.MatrixWordsJoinTheirQueue : Prop :=
  (∀ (tk : Tok) (t : BitVec 3) (a b : BitVec 4) (g : BitVec 3) (f : BitVec 5) (r : BitVec 3),
    ∀ e ∈ ([(.mma tk t a b g f r, false), (.mmat tk t a b g f r, true)] : List (Instr × Bool)),
    ∀ (σ σ1 : State) (x : BitVec 32), Issues σ .M e.1 tk σ1 x → σ1.cur.draining t.toNat = false →
      (∀ fa fb k, σ1.cur.mmaCheck e.2 a b g f.toNat r.toNat = .ok (fa, fb, k) →
        exec e.1 σ = .next (σ1.moved (((σ1.cur.setDty t k.dty).queuedM
          (.mma e.1 e.2 t.toNat fa fb k (σ1.cur.getB a).toNat (σ1.cur.getB b).toNat (σ1.cur.getG (g.setWidth 4))
            (σ1.cur.getG (g.setWidth 4 + 8)) r.toNat σ1.cur.dphase) tk 0).begun σ.now .M 2))) ∧
      (∀ c, σ1.cur.mmaCheck e.2 a b g f.toNat r.toNat = .error c →
        exec e.1 σ = .next (σ.park σ.turn.core (σ.cur.recOf .M c 0)))) ∧
  (∀ (tk : Tok) (t : BitVec 3) (b : BitVec 4),
    Begins .M 2 tk (.tclr tk t) (fun σ => !σ.cur.draining t.toNat) (fun σ => σ.cur.queuedM (.tclr t.toNat) tk 0) ∧
    Begins .M 1 Tok.none (.tclrCompact t) (fun σ => !σ.cur.draining t.toNat)
      (fun σ => σ.cur.queuedM (.tclr t.toNat) Tok.none 0) ∧
    (∀ (a c : BitVec 4) (g : BitVec 3) (f : BitVec 5) (r : BitVec 3),
      ∀ e ∈ [.mma tk t a c g f r, .mmat tk t a c g f r, .tclr tk t, .tldA tk t b, .tldW tk t b],
        Waits .M tk e (fun σ => σ.cur.draining t.toNat)) ∧
    ∀ e ∈ ([(.tldA tk t b, .A), (.tldW tk t b, .W)] : List (Instr × Buf)),
      Begins .M 2 tk e.1 (fun σ => !σ.cur.draining t.toNat && rowWordOk (σ.cur.getB b) &&
          decide (rowWordEnd (σ.cur.getB b) 256 ≤ e.2.size))
        (fun σ => σ.cur.queuedM (.tld t.toNat e.2 (fld (σ.cur.getB b).toNat 0 19) (fld (σ.cur.getB b).toNat 20 20)) tk 0) ∧
      Faults .M tk e.1 (fun σ => !σ.cur.draining t.toNat &&
        (!rowWordOk (σ.cur.getB b) || decide (e.2.size < rowWordEnd (σ.cur.getB b) 256))) .addressing (fun _ => 0)) ∧
  (∀ (tk : Tok) (t : BitVec 3) (b : BitVec 4) (d : BitVec 2) (r : BitVec 3) (e : BitVec 1) (k : BitVec 6) (i : BitVec 3)
      (prog : State → Option (List (BitVec 32))),
    (∀ σ, prog σ = if e = 1 then σ.cur.slot r else none) →
    Waits .M tk (.drain tk t b d r e k i) (fun σ => decide (2 ≤ σ.cur.drains.length)) ∧
    ∀ (σ s1 : State) (x : BitVec 32) (c : Core), Issues σ .M (.drain tk t b d r e k i) tk s1 x → c = s1.cur → c.drains.length < 2 →
      (e = 1 → (prog s1).isSome ∧ (c.getDty t = .f64 → ((prog s1).getD []).any usesRdi = false)) →
      rowWordOk (c.getB b) = true → rowWordEnd (c.getB b) (drainLen (c.getDty t) (prog s1)) ≤ (drainBuf d).size →
      exec (.drain tk t b d r e k i) σ = .next ((s1.note (s1.dForkEv σ.turn.core c.nextId)).moved ((Core.queuedM { c with
          nextId := c.nextId + 1
          drains := c.drains ++ [
            { id := c.nextId, tile := t.toNat, ty := c.getDty t, dst := drainBuf d,
              off := fld (c.getB b).toNat 0 19, pitch := fld (c.getB b).toNat 20 20, prog := prog s1,
              slot := if e = 1 then some r.toNat else none, k := k.toNat, inc := i.toNat, rw := c.getB b,
              addr := (c.str .M).pc, word := .drain tk t b d r e k i, started := false, dph := 0, next := 0, got := none,
              pend := [], half := false }] }
        (.drain c.nextId) tk 0).begun σ.now .M 2))) ∧
  (∀ (tk : Tok) (r : BitVec 3) (b : BitVec 4) (n : BitVec 5) (u : BitVec 1) (σ s1 s2 : State) (x : BitVec 32) (c w : Core)
      (buf : Buf) (off : Nat) (p : List (BitVec 32)),
    Issues σ .M (.eload tk r b n u) tk s1 x → σ.turn.st = .M → c = s1.cur → buf = (if u = 0 then .W else .S) →
    off = (c.getB b).toNat → (s2, w) = s1.view (s1.mAgent σ.turn.core c.nextId) σ.turn.core [(buf, off, 4 * (n.toNat + 1))] →
    p = (List.range (n.toNat + 1)).map (fun i => BitVec.ofNat 32 (leNat (w.bytes buf (off + 4 * i) 4))) →
    (c.slotBusy r.toNat = true → exec (.eload tk r b n u) σ = .next σ) ∧
    (c.slotBusy r.toNat = false → off % 4 = 0 → off + 4 * (n.toNat + 1) ≤ buf.size →
      (programOk p = true → exec (.eload tk r b n u) σ = .next
        (s2.moved (({ c with slots := c.slots.set r.toNat (some p) r.isLt }.queuedM .token tk 0).begun σ.now .M 2))) ∧
      (programOk p = false → exec (.eload tk r b n u) σ = .next (σ.park σ.turn.core (σ.cur.recOf .M .illegal 0))))) ∧
  (∀ (s : State) (ag : Agent) (v : Nat) (rs : List (Buf × Nat × Nat)),
    (s.view ag v rs).1 = { s with hist := (s.view ag v rs).1.hist } ∧ (s.past = [] → s.view ag v rs = (s, s.core v))) ∧
  (∀ (tk : Tok) (d : BitVec 4) (i : BitVec 16),
    Begins .M 2 tk (.gli tk d i) (fun σ => σ.turn.st == .M)
      (fun σ => (σ.cur.setG d (i.signExtend 64)).queuedM .token tk 0) ∧
    Begins .M 2 tk (.glis tk d i) (fun σ => σ.turn.st == .M)
      (fun σ => (σ.cur.setG d ((σ.cur.getG d <<< 16) ||| i.setWidth 64)).queuedM .token tk 0))

/-- When an M instruction finishes, its tile holds the result. M_FINISH moves the oldest M instruction of a core on.
While groups of it remain (those of K for an `mma`, one for `tclr` and `tld`), the next group is applied to a part of
the tile, and then to the rest; each application takes an element to the next value of R198, from the value that the
tile holds then. So after all groups of an `mma` or `mmat` in rising order element (i, j) is the element before with
every group applied to it; after `tclr` the tile is zero; after `tld` row i is the 256 bytes of its buffer at OFF + i
× PITCH. The panels are read as the group is applied (what M then sees of the writes of others is the model's record,
log entry 56). Rows of X outside the tile, and W, A and S, stay as they are. With no group left the instruction
finishes: its push is made and the instructions behind it move up. A parked core completes a group that has begun and
stops at its boundary. Which part comes first is left open (log entry 47). (R38, R66, R193, R198, R201, R202, R203,
R211.) -/
def Obligations.TilesHoldTheirResults : Prop :=
  (∀ (s : State) (v : Nat) (e : MEntry) (r : List MEntry), (s.core v).mq = e :: r →
    ((s.core v).runs = true → e.op.groups ≤ e.next → exec (.mFinish v) s = .next ((s.setCore v
      ((e.effect { s.core v with mq := r }).push .M e.push e.payload)).flushAt v)) ∧
    (∀ (u : State) (w : Core), (u, w) = s.view (s.mAgent v e.id) v (e.op.reads e.next) → e.next < e.op.groups →
      ((s.core v).runs = true → e.part = none → ∃ f : Nat × Bool, exec (.mFinish v) s = .next
        (u.setCore v { e.op.step e.next (inPart f) w (s.core v) with mq := { e with part := some f } :: r })) ∧
      (∀ f, (s.core v).runs = true ∨ (s.core v).st = .parked → e.part = some f →
        exec (.mFinish v) s = .next (u.setCore v { e.op.step e.next (fun i j => !inPart f i j) w (s.core v) with
          mq := { e with next := e.next + 1, part := none } :: r }))) ∧
    ((s.core v).runs = false → e.part = none → exec (.mFinish v) s = .next s)) ∧
  (∀ (c : Core) (w : Nat → Core) (n : Instr) (m : Mma) (op : MOp) (sel : Nat → Nat → Bool) (g i j : Nat), c.rowsOk = true →
    i < 128 → j < m.cls.cols →
    op = .mma n m.trans m.tile m.fa m.fb m.cls m.oa m.ob m.d m.z m.rs m.dph →
    op.groups = m.groups ∧
    rowElem ((op.step g sel (w g) c).row (128 * m.tile + i)) m.cls.dty.width j =
      (if sel i j then m.step (w g) g i j (rowElem (c.row (128 * m.tile + i)) m.cls.dty.width j) % 2 ^ m.cls.dty.width
       else rowElem (c.row (128 * m.tile + i)) m.cls.dty.width j) ∧
    rowElem (((List.range m.groups).foldl (fun c g => op.step g (fun i j => !sel i j) (w g) (op.step g sel (w g) c)) c).row
        (128 * m.tile + i)) m.cls.dty.width j =
      (List.range m.groups).foldl (fun x g => m.step (w g) g i j x % 2 ^ m.cls.dty.width)
        (rowElem (c.row (128 * m.tile + i)) m.cls.dty.width j)) ∧
  (∀ (c w : Core) (op : MOp) (sel : Nat → Nat → Bool) (g t n : Nat), c.rowsOk = true →
    (n < 128 * t ∨ 128 * t + 128 ≤ n) →
    (op = .tclr t ∨ (∃ b off pitch, op = .tld t b off pitch) ∨
      ∃ i tr fa fb cls oa ob d z rs dph, op = .mma i tr t fa fb cls oa ob d z rs dph) →
    (op.step g sel w c).row n = c.row n ∧ (op.step g sel w c).bufW = c.bufW ∧ (op.step g sel w c).bufA = c.bufA ∧
    (op.step g sel w c).bufS = c.bufS) ∧
  (∀ (op : MOp) (c w : Core) (sel : Nat → Nat → Bool) (t i : Nat), c.rowsOk = true → i < 128 →
    (op = .tclr t → (op.step 0 (fun i j => !sel i j) w (op.step 0 sel w c)).row (128 * t + i) = 0) ∧
    (∀ b off pitch, op = .tld t b off pitch →
      (op.step 0 (fun i j => !sel i j) w (op.step 0 sel w c)).row (128 * t + i) =
        rowOfBytes (w.bytes b (off + i * pitch) 256)))

/-- Drains enter row by row, write row by row, and deliver after the last. DRAIN_START lets the first waiting drain
reach its start once the one before it has written its last row and every earlier M instruction that writes its tile
has finished (R206), and it reads %dphase there. At DRAIN_ROW the drain that runs goes on. Of a running core, while
fewer than 25 rows have entered and wait, its next row enters: some of the row's units are read, and then the others
(R65, a free choice), and its bytes are computed as its program says; else the oldest row that has entered is written,
some of its units first and then the others. Of a parked core no further row enters and the rows that have entered are
written (R304). Row i is written at OFF + i × PITCH of the destination. After row 127 %dphase moves on by the step,
modulo 256, from the next C-cycle on, unless an `mtsr` writes it in the same one (R54, R207). DRAIN_DELIVERED then
takes the drain away, and its counter increment takes place, the delivered event of its own thread (R94, R205). One
DRAIN_ROW stands for one C-cycle of the drain, and when it comes is left open (log entries 2 and 8). (R54, R65, R94,
R204, R205, R206, R207, R304.) -/
def Obligations.DrainsWriteTheirRows : Prop :=
  (∀ (s : State) (v : Nat), (s.core v).runs = true →
    exec (.drainStart v) s = .next (s.setCore v { s.core v with drains := (s.core v).startFirst (s.core v).drains })) ∧
  (∀ (c : Core) (d : Drain) (r : List Drain), d.started = false →
    (c.drainReady d = true → c.startFirst (d :: r) = { d with started := true, dph := c.dphase } :: r) ∧
    (c.drainReady d = false → c.startFirst (d :: r) = d :: r)) ∧
  (∀ (c : Core) (d : Drain), ((∀ e ∈ c.mq, e.op.writes d.tile = false) → c.drainReady d = true) ∧
    (∀ e x pre mid post, c.mq = pre ++ e :: mid ++ x :: post → e.op.writes d.tile = true → x.op = .drain d.id →
      (∀ y ∈ pre ++ e :: mid, y.op ≠ .drain d.id) → c.drainReady d = false)) ∧
  (∀ (s : State) (v : Nat), ((s.core v).draining1 = none → exec (.drainRow v) s = .next s) ∧
    ∀ d t e, (s.core v).draining1 = some d → (t, e) = s.drainOn v d →
      d ∈ (s.core v).drains ∧ d.started = true ∧ ¬(d.next = 128 ∧ d.pend = []) ∧
      exec (.drainRow v) s = .next (t.setCore v
        { t.core v with drains := (t.core v).drains.map (fun x => if x.id = d.id then e else x) })) ∧
  (∀ (s : State) (v : Nat) (d : Drain), (s.core v).runs = true → d.next < 128 → d.pend.length < 25 →
    (d.got = none → ∃ m, s.drainOn v d = (s, { d with got := some ((s.core v).row (128 * d.tile + d.next), m) })) ∧
    (∀ old m u w r, d.got = some (old, m) → (u, w) = s.view (s.dAgent v d 0) v d.loads →
      r = d.rowBytes w d.next (d.merge old m ((s.core v).row (128 * d.tile + d.next))) →
      s.drainOn v d = (u.setCore v { u.core v with e := r.2 },
        { d with next := d.next + 1, got := none, pend := d.pend ++ [d.units r.1] }))) ∧
  (∀ (d : Drain) (old now : Row) (m j : Nat), j < 256 / d.unit → rowElem (d.merge old m now) (8 * d.unit) j =
    rowElem (if m.testBit j then old else now) (8 * d.unit) j) ∧
  (∀ (d : Drain) (bs : List Byte), bs.length % d.unit = 0 → (d.units bs).flatMap (·.2) = bs ∧
    (d.units bs).map (·.1) = (List.range (bs.length / d.unit)).map (d.unit * ·)) ∧
  (∀ (d : Drain) (c : Core) (i : Nat) (row : Row), d.prog = none → d.rowBytes c i row = (leBytes 256 row.toNat, c.e)) ∧
  (∀ (s : State) (v : Nat) (d : Drain) (us : List (Nat × List Byte)) (r : List (List (Nat × List Byte))), d.pend = us :: r →
    (s.core v).runs = false ∨ d.next = 128 ∨ 25 ≤ d.pend.length →
    ∃ now left, (now ++ left).Perm us ∧ (d.half = true → left = []) ∧
      (s.drainOn v d).1.core v =
        (if left = [] ∧ d.next - d.pend.length = 127 then Core.advanceDph else id)
          (now.foldl (fun c u => c.writeBuf d.dst (d.off + (d.next - d.pend.length) * d.pitch + u.1) u.2) (s.core v)) ∧
      (s.drainOn v d).2 = { d with
        got := if (s.core v).runs then d.got else none
        pend := if left = [] then r else left :: r
        half := decide (left ≠ []) }) ∧
  (∀ c : Core, (c.dphNext = none → c.advanceDph.newCycle.dphase = c.dphase + c.dstep ∧ c.advanceDph.dphase = c.dphase) ∧
    (∀ x, c.dphNext = some (x, true) → c.advanceDph = c)) ∧
  (∀ (s : State) (v : Nat) (d : Drain) (r : List Drain), (s.core v).drains = d :: r → d.next = 128 → d.pend = [] →
    (s.core v).dphNext = none → (s.core v).mayComplete s.clock d.inc = true →
    exec (.drainDelivered v) s = .next ((s.setCore v { s.core v with drains := r }).completed v (dThread d.id) 3
      16 1 d.k d.inc { cause := .counterOverflow, orig := 5, del := true, word := d.addr })) ∧
  (∀ (s : State) (v th po cls scope k n : Nat) (x : CauseRec), (∀ st, ((s.core v).str st).hold = []) →
    ((s.completed v th po cls scope k n x).core v).k = (if n = 0 then (s.core v).k
      else ((s.core v).incK s.now (BitVec.ofNat 6 k) n x).k))

/-- Vector float words complete lane by lane with one rounding. Every float word of V, in its four formats, answers a
next state whenever it issues and no row it names awaits a load. Each enabled lane of vd holds the operation of the
lanes of va and vb (and, for a fused multiply and add, of vd before) in the word's rounding mode, under RDI with the
dither value of that row and lane, and the lane's flags are recorded unless `.nf`; a disabled lane keeps its bits
(R214, R215, R217). `vmin` and `vmax` follow R154. (R53, R141, R149, R154, R214, R215, R217.) -/
def Obligations.VectorFloatArithmetic : Prop :=
  (∀ (tk : Tok) (d a b : BitVec 5) (r : BitVec 3) (n w : BitVec 1), ∀ e ∈ ([
      (.vaddF32 tk d a b r n w, .add, fmt32, 4),
      (.vsubF32 tk d a b r n w, .sub, fmt32, 4),
      (.vmulF32 tk d a b r n w, .mul, fmt32, 4),
      (.vfmaF32 tk d a b r n w, .fma, fmt32, 4),
      (.vdivF32 tk d a b r n w, .div, fmt32, 4),
      (.vaddF64 tk d a b r n w, .add, fmt64, 8),
      (.vsubF64 tk d a b r n w, .sub, fmt64, 8),
      (.vmulF64 tk d a b r n w, .mul, fmt64, 8),
      (.vfmaF64 tk d a b r n w, .fma, fmt64, 8),
      (.vdivF64 tk d a b r n w, .div, fmt64, 8),
      (.vaddF16 tk d a b r n w, .add, fmt16, 2),
      (.vsubF16 tk d a b r n w, .sub, fmt16, 2),
      (.vmulF16 tk d a b r n w, .mul, fmt16, 2),
      (.vfmaF16 tk d a b r n w, .fma, fmt16, 2),
      (.vdivF16 tk d a b r n w, .div, fmt16, 2),
      (.vaddBf16 tk d a b r n w, .add, fmtBf16, 2),
      (.vsubBf16 tk d a b r n w, .sub, fmtBf16, 2),
      (.vmulBf16 tk d a b r n w, .mul, fmtBf16, 2),
      (.vfmaBf16 tk d a b r n w, .fma, fmtBf16, 2),
      (.vdivBf16 tk d a b r n w, .div, fmtBf16, 2)] : List (Instr × FOp × FFmt × Nat)),
    Does .V 2 tk e.1 (fun c => !c.rowBusy [c.vr w d, c.vr w a, c.vr w b]) (fun c =>
      c.mapLanes (c.vr w d) e.2.2.2 (n == 1) (fun i =>
        e.2.1.run e.2.2.1 (Rnd.ofCode r.toNat (dither c.dphase (c.vr w d) i)) (c.lane (c.vr w a) e.2.2.2 i)
          (c.lane (c.vr w b) e.2.2.2 i) (c.lane (c.vr w d) e.2.2.2 i)))) ∧
  (∀ (tk : Tok) (d a b : BitVec 5) (n w : BitVec 1), ∀ e ∈ ([
      (.vminF32 tk d a b n w, true, fmt32, 4),
      (.vmaxF32 tk d a b n w, false, fmt32, 4),
      (.vminF64 tk d a b n w, true, fmt64, 8),
      (.vmaxF64 tk d a b n w, false, fmt64, 8),
      (.vminF16 tk d a b n w, true, fmt16, 2),
      (.vmaxF16 tk d a b n w, false, fmt16, 2),
      (.vminBf16 tk d a b n w, true, fmtBf16, 2),
      (.vmaxBf16 tk d a b n w, false, fmtBf16, 2)] : List (Instr × Bool × FFmt × Nat)),
    Does .V 2 tk e.1 (fun c => !c.rowBusy [c.vr w d, c.vr w a, c.vr w b]) (fun c =>
      c.mapLanes (c.vr w d) e.2.2.2 (n == 1) (fun i =>
        fminmax e.2.2.1 e.2.1 (c.lane (c.vr w a) e.2.2.2 i) (c.lane (c.vr w b) e.2.2.2 i))))

/-- Vector integer and bitwise words complete lane by lane. Every integer and bitwise word of V answers a next state
whenever it issues and no row it names awaits a load: each enabled lane of vd holds the exact result of the signed
lanes modulo 2^(8 s), or clamped to the lane's range with sat; the high half of the signed product; the bitwise result
of the 32-bit lanes; or the shift by bits [4:0]. No flag is recorded. Disabled lanes keep their bits (R214, R218).
(R141, R149, R214, R218.) -/
def Obligations.VectorIntegerArithmetic : Prop :=
  (∀ (tk : Tok) (d a b : BitVec 5) (s w : BitVec 1), ∀ e ∈ ([
      (.vaddI32 tk d a b s w, fun x y => x + y, 4),
      (.vsubI32 tk d a b s w, fun x y => x - y, 4),
      (.vmulI32 tk d a b s w, fun x y => x * y, 4),
      (.vaddI16 tk d a b s w, fun x y => x + y, 2),
      (.vsubI16 tk d a b s w, fun x y => x - y, 2),
      (.vmulI16 tk d a b s w, fun x y => x * y, 2)] : List (Instr × (Int → Int → Int) × Nat)),
    Does .V 2 tk e.1 (fun c => !c.rowBusy [c.vr w d, c.vr w a, c.vr w b]) (fun c =>
      c.mapLanes (c.vr w d) e.2.2 true (fun i =>
        let x := e.2.1 (sgn (8 * e.2.2) (c.lane (c.vr w a) e.2.2 i)) (sgn (8 * e.2.2) (c.lane (c.vr w b) e.2.2 i))
        (low (8 * e.2.2) (if s = 1 then max (-2 ^ (8 * e.2.2 - 1)) (min (2 ^ (8 * e.2.2 - 1) - 1) x) else x), flNone)))) ∧
  (∀ (tk : Tok) (d a b : BitVec 5) (w : BitVec 1), ∀ e ∈ ([
      (.vand tk d a b w, fun x y => x &&& y),
      (.vor tk d a b w, fun x y => x ||| y),
      (.vxor tk d a b w, fun x y => x ^^^ y),
      (.vandn tk d a b w, fun x y => x &&& ~~~y),
      (.vsll tk d a b w, fun x y => x <<< (y.toNat % 32)),
      (.vsrl tk d a b w, fun x y => x >>> (y.toNat % 32)),
      (.vsra tk d a b w, fun x y => x.sshiftRight (y.toNat % 32)),
      (.vmulhI32 tk d a b w, fun x y => BitVec.ofInt 32 (x.toInt * y.toInt / 2 ^ 32))]
      : List (Instr × (BitVec 32 → BitVec 32 → BitVec 32))),
    Does .V 2 tk e.1 (fun c => !c.rowBusy [c.vr w d, c.vr w a, c.vr w b]) (fun c =>
      c.mapLanes (c.vr w d) 4 true (fun i =>
        ((e.2 (BitVec.ofNat 32 (c.lane (c.vr w a) 4 i)) (BitVec.ofNat 32 (c.lane (c.vr w b) 4 i))).toNat, flNone))))

/-- Vector compares, moves, selects and broadcasts complete. `vcmp` writes, for each enabled lane, the condition of
R219 to every bit of that lane in the predicate, keeps the other bits, and records the invalid flag that a float
compare raises unless `.nf`; a write to p0 is discarded. `vmov`, `vsel` and `vbcast` work on units of two bytes: an
enabled unit of vd takes the unit of va, or of the 64-bit x-register repeated; a disabled one keeps its bits, or, for
`vsel`, takes the unit of vb. Each answers a next state whenever it issues and no row it names awaits a load. (R141,
R143, R149, R213, R214, R215, R219, R220.) -/
def Obligations.VectorComparesAndMoves : Prop :=
  (∀ (tk : Tok) (p : BitVec 4) (k t : BitVec 3) (a b : BitVec 5) (n w : BitVec 1),
    Does .V 2 tk (.vcmp tk p k a b t n w) (fun c => !c.rowBusy [c.vr w a, c.vr w b])
      (fun c => c.vcmp p k.toNat t.toNat (c.vr w a) (c.vr w b) (n == 1))) ∧
  (∀ (c : Core) (p : BitVec 4) (k t a b u : Nat) (nf : Bool), p ≠ 0 → u < 128 →
    ((c.vcmp p k t a b nf).getP p).getLsbD u =
      (let s := typeSize t
       if c.enabled (2 * u / s) s then (vcond t k (c.lane a s (2 * u / s)) (c.lane b s (2 * u / s))).1
       else (c.getP p).getLsbD u)) ∧
  (∀ (x y : Nat), x < 2 ^ 32 → y < 2 ^ 32 →
    (vcond 4 0 x y).1 = decide (x = y) ∧ (vcond 4 2 x y).1 = decide (sgn 32 x < sgn 32 y) ∧
    (vcond 5 2 x y).1 = decide (x < y) ∧ (vcond 4 4 x y).1 = decide (x < y)) ∧
  (∀ (tk : Tok) (d a b : BitVec 5) (x : BitVec 4) (w : BitVec 1),
    Does .V 2 tk (.vmov tk d a w) (fun c => !c.rowBusy [c.vr w d, c.vr w a]) (fun c => c.mapUnits (c.vr w d) (fun u =>
      if c.enabled u 2 then c.lane (c.vr w a) 2 u else c.lane (c.vr w d) 2 u)) ∧
    Does .V 2 tk (.vsel tk d a b w) (fun c => !c.rowBusy [c.vr w d, c.vr w a, c.vr w b]) (fun c =>
      c.mapUnits (c.vr w d) (fun u => if c.enabled u 2 then c.lane (c.vr w a) 2 u else c.lane (c.vr w b) 2 u)) ∧
    Does .V 2 tk (.vbcast tk d x w) (fun c => !c.rowBusy [c.vr w d]) (fun c => c.mapUnits (c.vr w d) (fun u =>
      if c.enabled u 2 then fld (c.getX x).toNat (16 * (u % 4)) 16 else c.lane (c.vr w d) 2 u))) ∧
  (∀ (c : Core) (d : Nat) (f : Nat → Nat) (u : Nat), c.rowsOk = true → u < 128 →
    (c.mapUnits d f).lane d 2 u = f u % 2 ^ 16)

/-- Special functions complete in every lane, with the results of Table 10.5 for special operands. `vsqrt` and `vrcp`
complete with the correctly rounded square root and reciprocal, the nine other functions with the result of Table 10.5
for a special operand, the exact result where it is representable, and otherwise the free value of the model where it
lies within the bound of Table 10.4 (R221 allows any such value; that the model takes a free one, and how it judges
the bound, are the model's own, log entry 4). The special operands (R222): exp2 and exp of a zero are 1, of plus
infinity plus infinity, of minus infinity 0; rsqrt of a zero is the infinity of its sign with the divide-by-zero flag,
of plus infinity 0; log2 and ln of a zero are minus infinity with that flag, of plus infinity plus infinity, of 1 are
0; sin and cos of an infinity are NaN with the invalid flag, sin of a zero is that zero, cos of one is 1; tanh and erf
of a zero are that zero, of an infinity 1 with its sign; rsqrt, log2 and ln of a negative number are NaN with the
invalid flag; any other NaN gives the canonical NaN, with that flag when it is signalling. exp2 of an integer past the
exponent range overflows with OF and NX. (R53, R55, R57, R149, R214, R215, R221, R222.) -/
def Obligations.VectorSpecialFunctions : Prop :=
  (∀ (tk : Tok) (t : BitVec 2) (d a : BitVec 5) (r : BitVec 3) (n w : BitVec 1), ∀ e ∈ ([
      (.vsqrt tk t d a r n w, .sqrt), (.vrcp tk t d a r n w, .rcp)] : List (Instr × FOp)),
    Does .V 2 tk e.1 (fun c => !c.rowBusy [c.vr w d, c.vr w a]) (fun c =>
      c.mapLanes (c.vr w d) (typeSize t.toNat) (n == 1) (fun i =>
        e.2.run (laneFmt (t.toNat == 1)) (Rnd.ofCode r.toNat (dither c.dphase (c.vr w d) i))
          (c.lane (c.vr w a) (typeSize t.toNat) i) 0 0))) ∧
  (∀ (tk : Tok) (t : BitVec 2) (d a : BitVec 5) (r : BitVec 3) (n w : BitVec 1), ∀ e ∈ ([
      (.vrsqrt tk t d a r n w, .rsqrt),
      (.vexp2 tk t d a r n w, .exp2),
      (.vlog2 tk t d a r n w, .log2),
      (.vexp tk t d a r n w, .exp),
      (.vln tk t d a r n w, .ln),
      (.vsin tk t d a r n w, .sin),
      (.vcos tk t d a r n w, .cos),
      (.vtanh tk t d a r n w, .tanh),
      (.verf tk t d a r n w, .erf)] : List (Instr × SpecialFn)),
    Does .V 2 tk e.1 (fun c => !c.rowBusy [c.vr w d, c.vr w a]) (fun c =>
      c.mapLanes (c.vr w d) (typeSize t.toNat) (n == 1) (fun i =>
        specialRun e.2 (t.toNat == 1) r.toNat (c.lane (c.vr w a) (typeSize t.toNat) i)))) ∧
  (∀ (fn : SpecialFn) (f64 : Bool) (rc x : Nat), ((laneFmt f64).decode x).isZero = true →
    let neg := ((laneFmt f64).decode x).neg
    let one := (laneFmt f64).bias * 2 ^ (laneFmt f64).fb
    (fn = .exp2 ∨ fn = .exp ∨ fn = .cos → specialRun fn f64 rc x = (one, flNone)) ∧
    (fn = .sin ∨ fn = .tanh ∨ fn = .erf → specialRun fn f64 rc x = ((laneFmt f64).pack neg 0, flNone)) ∧
    (fn = .log2 ∨ fn = .ln → specialRun fn f64 rc x = ((laneFmt f64).pack true (laneFmt f64).infCode, flDZ)) ∧
    (fn = .rsqrt → specialRun fn f64 rc x = ((laneFmt f64).pack neg (laneFmt f64).infCode, flDZ))) ∧
  (∀ (fn : SpecialFn) (f64 : Bool) (rc x : Nat) (neg : Bool), (laneFmt f64).decode x = .inf neg →
    (fn = .exp2 ∨ fn = .exp → specialRun fn f64 rc x = (if neg then 0 else (laneFmt f64).infCode, flNone)) ∧
    (fn = .rsqrt → neg = false → specialRun fn f64 rc x = (0, flNone)) ∧
    (fn = .log2 ∨ fn = .ln → neg = false → specialRun fn f64 rc x = ((laneFmt f64).infCode, flNone)) ∧
    (fn = .sin ∨ fn = .cos → specialRun fn f64 rc x = ((laneFmt f64).nan, flNV)) ∧
    (fn = .tanh ∨ fn = .erf →
      specialRun fn f64 rc x = ((laneFmt f64).pack neg ((laneFmt f64).bias * 2 ^ (laneFmt f64).fb), flNone))) ∧
  (∀ (f64 : Bool) (rc : Nat), let one := (laneFmt f64).bias * 2 ^ (laneFmt f64).fb
    specialRun .ln f64 rc one = (0, flNone) ∧ specialRun .log2 f64 rc one = (0, flNone)) ∧
  (∀ (f64 : Bool) (rc x : Nat) (n : Int), ((laneFmt f64).decode x).int? = some n → 2 ^ ((laneFmt f64).eb - 1) ≤ n →
    (specialRun .exp2 f64 rc x).2 = flOF ||| flNX) ∧
  (∀ (fn : SpecialFn) (f64 : Bool) (rc x : Nat) (sig : Bool), (laneFmt f64).decode x = .nan sig →
    specialRun fn f64 rc x = ((laneFmt f64).nan, if sig then flNV else flNone)) ∧
  (∀ (f64 : Bool) (rc x : Nat), ∀ fn ∈ ([.rsqrt, .log2, .ln] : List SpecialFn),
    ((laneFmt f64).decode x).neg = true → ((laneFmt f64).decode x).isZero = false →
    (∀ sig, (laneFmt f64).decode x ≠ .nan sig) → specialRun fn f64 rc x = ((laneFmt f64).nan, flNV))

/-- Conversions, quantisation and expansion complete. `vcvt` between a hub and a format (R223, R224) converts every
enabled lane of the hub's size: from the hub, element i of the packed row of the format takes the converted lane i; to
the hub, lane i takes the converted element i. `vquant` writes the two scaled blocks of 32 lanes with their scales
(R226) and `vexpand` every lane of the packed row times its scales. Each answers a next state whenever it issues and
no row it names awaits a load; flags are recorded unless `.nf`. That the elements of a block whose scale is 0 record
no flag is the model's reading (log entry 24). (R53, R141, R149, R214, R215, R223, R224, R225, R226.) -/
def Obligations.VectorConversions : Prop :=
  (∀ (tk : Tok) (f : BitVec 5) (d a : BitVec 5) (r : BitVec 3) (n s w : BitVec 1), ∀ e ∈ ([
      (fun o => .vcvtF32 tk f o d a r n s w, .f32), (fun o => .vcvtF64 tk f o d a r n s w, .f64),
      (fun o => .vcvtI32 tk f o d a r n s w, .i32)] : List ((BitVec 1 → Instr) × EF)),
    Does .V 2 tk (e.1 0) (fun c => !c.rowBusy [c.vr w d, c.vr w a]) (fun c =>
      c.putLanes (c.vr w d) (vfmt f).width (n == 1) ((List.range (256 / (e.2.width / 8))).map (fun i =>
        if c.enabled i (e.2.width / 8) then some (convert e.2 (vfmt f)
          (Rnd.ofCode r.toNat (dither c.dphase (c.vr w d) i)) (s == 1) (c.lane (c.vr w a) (e.2.width / 8) i)) else none))) ∧
    Does .V 2 tk (e.1 1) (fun c => !c.rowBusy [c.vr w d, c.vr w a]) (fun c =>
      c.putLanes (c.vr w d) e.2.width (n == 1) ((List.range (256 / (e.2.width / 8))).map (fun i =>
        if c.enabled i (e.2.width / 8) then some (convert (vfmt f) e.2
          (Rnd.ofCode r.toNat (dither c.dphase (c.vr w d) i)) (s == 1) (rowElem (c.row (c.vr w a)) (vfmt f).width i))
        else none)))) ∧
  (∀ (tk : Tok) (f : BitVec 5) (d a : BitVec 5) (r : BitVec 3) (n w : BitVec 1),
    Does .V 2 tk (.vquant tk f d a r n w) (fun c => !c.rowBusy [c.vr w d, c.vr w a])
      (fun c => c.vquant (vfmt f) (c.vr w d) (c.vr w a) r.toNat (n == 1)) ∧
    Does .V 2 tk (.vexpand tk f d a r n w) (fun c => !c.rowBusy [c.vr w d, c.vr w a]) (fun c =>
      c.putLanes (c.vr w d) 32 (n == 1) ((List.range 64).map (fun i =>
        let src := c.row (c.vr w a)
        let g := vfmt f
        let e := g.expandFl (rowElem src g.width i) (rowElem src (8 * g.scaleSize) (scaleOff g / g.scaleSize + i / 32))
        let x := e.1.mul (rowTensor g src)
        let y := fmt32.round (Rnd.ofCode r.toNat (dither c.dphase (c.vr w d) i)) false x.1
        some (y.1, e.2 ||| x.2 ||| y.2))))) ∧
  (∀ (c : Core) (f : EF) (d a rc k i : Nat) (nf : Bool), c.rowsOk = true → f.scaled = true → k < 2 → i < 32 →
    let q := quantBlock f (tensorBad (rowTensor f (c.row d))) (rowTensor f (c.row d)) ((List.range 32).map (fun j =>
      (fmt32.decode (c.lane a 4 (32 * k + j)), Rnd.ofCode rc (dither c.dphase d (32 * k + j)))))
    rowElem ((c.vquant f d a rc nf).row d) f.width (32 * k + i) = (q.2.getD i (0, 0)).1 % 2 ^ f.width ∧
    rowElem ((c.vquant f d a rc nf).row d) (8 * f.scaleSize) (scaleOff f / f.scaleSize + k) = q.1 % 2 ^ (8 * f.scaleSize))

/-- Reductions and permutes complete. `vrsum`, `vrmax` and `vrmin` combine the enabled lanes in increasing index
(R227) and write the result to lane 0 of vd whether or not that lane is enabled; with no lane enabled they write the
neutral value; the flags go to lane 0. `vbcl`, `vrotl`, `vshuf` and `vzip` write to each enabled lane of vd the lane
of va that R228 names. Each answers a next state whenever it issues and no row it names awaits a load. (R141, R149,
R214, R215, R227, R228.) -/
def Obligations.VectorReductionsAndPermutes : Prop :=
  (∀ (tk : Tok) (t : BitVec 3) (d a : BitVec 5) (r : BitVec 3) (n w : BitVec 1), ∀ e ∈ ([
      (.vrsum tk t d a r n w, 0), (.vrmax tk t d a r n w, 1), (.vrmin tk t d a r n w, 2)] : List (Instr × Nat)),
    Does .V 2 tk e.1 (fun c => !c.rowBusy [c.vr w d, c.vr w a]) (fun c =>
      let s := typeSize t.toNat
      let y := redLanes e.2 t.toNat (Rnd.ofCode r.toNat (dither c.dphase (c.vr w d) 0))
        (((List.range (256 / s)).filter (fun i => c.enabled i s)).map (fun i => c.lane (c.vr w a) s i))
      (c.setRow (c.vr w d) (rowBuild (c.row (c.vr w d)) (8 * s) 1 (fun _ => y.1))).raiseV (n == 1) [y.2])) ∧
  (∀ (mode : Rnd) (xs : List Nat) (x : Nat), x < 2 ^ 32 → (∀ y ∈ xs, y < 2 ^ 32) →
    redLanes 0 4 mode [] = (0, flNone) ∧ redLanes 1 4 mode [] = (2 ^ 31, flNone) ∧
    redLanes 2 4 mode [] = (2 ^ 31 - 1, flNone) ∧ redLanes 1 5 mode [] = (0, flNone) ∧
    redLanes 2 5 mode [] = (2 ^ 32 - 1, flNone) ∧
    redLanes 0 4 mode (x :: xs) = ((x + xs.sum) % 2 ^ 32, flNone) ∧
    (∀ y ∈ x :: xs, y ≤ (redLanes 1 5 mode (x :: xs)).1 ∧ (redLanes 2 5 mode (x :: xs)).1 ≤ y) ∧
    (redLanes 1 5 mode (x :: xs)).1 ∈ x :: xs ∧ (redLanes 2 5 mode (x :: xs)).1 ∈ x :: xs) ∧
  (∀ (tk : Tok) (z : BitVec 2) (d a b : BitVec 5) (w : BitVec 1) (i : BitVec 7), ∀ e ∈ ([
      (.vbcl tk z d a w i, [d, a], fun _ _ => i.toNat),
      (.vrotl tk z d a w i, [d, a], fun _ j => (j + i.toNat) % (256 / laneSize z)),
      (.vshuf tk z d a w b, [d, a, b], fun c j => c.lane (c.vr w b) (laneSize z) j % (256 / laneSize z)),
      (.vzip tk z d a w, [d, a], fun _ j => if j % 2 = 0 then j / 2 else 256 / laneSize z / 2 + j / 2)]
      : List (Instr × List (BitVec 5) × (Core → Nat → Nat))),
    Does .V 2 tk e.1 (fun c => !c.rowBusy (e.2.1.map (c.vr w))) (fun c =>
      c.mapLanes (c.vr w d) (laneSize z) true (fun j => (c.lane (c.vr w a) (laneSize z) (e.2.2 c j), flNone))))

/-- Predicate, x-register, flag, window and fence words of V complete. Predicate words combine all 128 bits, x words
compute modulo 2^64, `vflrd` puts a flag's lane mask into bytes 0 to 15 of vd and `vflclr` clears it, `vbase` and
`vrot` write and read the window's base (10 bits) and rotation (5 bits), the compact `vgov` names the governing
predicate, and `vfence` orders the accesses of V in the classes of its mask (R92). Each answers a next state whenever
it issues. p0 reads as all ones and discards writes. (R141, R143, R149, R212, R213, R233, R234, R235, R236, R237.) -/
def Obligations.VectorPredicatesAndScalars : Prop :=
  (∀ (tk : Tok) (d a b : BitVec 4), ∀ e ∈ ([
      (.pand tk d a b, fun c => c.getP a &&& c.getP b), (.por tk d a b, fun c => c.getP a ||| c.getP b),
      (.pxor tk d a b, fun c => c.getP a ^^^ c.getP b), (.pandn tk d a b, fun c => c.getP a &&& ~~~(c.getP b)),
      (.pnot tk d a, fun c => ~~~(c.getP a)), (.pset tk d, fun _ => BitVec.allOnes 128), (.pclr tk d, fun _ => 0)]
      : List (Instr × (Core → BitVec 128))),
    Does .V 2 tk e.1 (fun c => !c.rowBusy []) (fun c => c.setP d (e.2 c))) ∧
  (∀ (tk : Tok) (d a b : BitVec 4) (i : BitVec 16), ∀ e ∈ ([
      (.xadd tk d a b, fun c => c.getX a + c.getX b),
      (.xsub tk d a b, fun c => c.getX a - c.getX b),
      (.xand tk d a b, fun c => c.getX a &&& c.getX b),
      (.xorX tk d a b, fun c => c.getX a ||| c.getX b),
      (.xxor tk d a b, fun c => c.getX a ^^^ c.getX b),
      (.xsll tk d a b, fun c => c.getX a <<< ((c.getX b).toNat % 64)),
      (.xsrl tk d a b, fun c => c.getX a >>> ((c.getX b).toNat % 64)),
      (.xmul tk d a b, fun c => BitVec.ofNat 64 ((c.getX a).toNat * (c.getX b).toNat)),
      (.xli tk d i, fun _ => i.signExtend 64), (.xlis tk d i, fun c => (c.getX d <<< 16) ||| i.setWidth 64),
      (.vbaseR tk d, fun c => c.vbase.setWidth 64), (.vrotR tk d, fun c => c.rot.setWidth 64)] : List (Instr × (Core → Reg))),
    Does .V 2 tk e.1 (fun c => !c.rowBusy []) (fun c => c.setX d (e.2 c))) ∧
  (∀ (tk : Tok) (x p : BitVec 4) (f : BitVec 3) (d : BitVec 5) (w : BitVec 1) (m : BitVec 16) (s : BitVec 3),
    Does .V 2 tk (.vbaseW tk x) (fun c => !c.rowBusy []) (fun c => { c with vbase := (c.getX x).setWidth 10 }) ∧
    Does .V 2 tk (.vrotW tk x) (fun c => !c.rowBusy []) (fun c => { c with rot := (c.getX x).setWidth 5 }) ∧
    Does .V 1 Tok.none (.vgov p) (fun _ => true) (fun c => { c with vgov := p }) ∧
    Does .V 2 tk (.vflclr tk f) (fun c => !c.rowBusy []) (fun c => c.clearV f.toNat) ∧
    Does .V 2 tk (.vflrd tk d f w) (fun c => !c.rowBusy [c.vr w d])
      (fun c => c.setRow (c.vr w d) (rowBuild (c.row (c.vr w d)) 128 1 (fun _ => (c.vflag f).toNat))) ∧
    ∀ (σ s1 : State) (y : BitVec 32) (g : Fence), Issues σ .V (.vfence tk m s) tk s1 y → g = ⟨s1.cur.nextId, .V, m.toNat⟩ →
      exec (.vfence tk m s) σ = .next ((if s1.cur.fenceWaits g then s1.record (s1.fenceEv .V m s) else s1.note (s1.fenceEv .V m s)).moved
        ((s1.cur.fencedBy g).finished σ.now .V 2 tk.push 0))) ∧
  (∀ (c : Core) (d r : BitVec 4) (v : BitVec 128) (y : Reg), c.getP 0 = BitVec.allOnes 128 ∧ c.setP 0 v = c ∧
    (d ≠ 0 → (c.setP d v).getP r = if r = d then v else c.getP r) ∧
    (c.setX d y).getX r = (if r = d then y else c.getX r)) ∧
  (∀ c : Core, c.rowBusy [] = false)

/-- Row loads, stores, gathers and scatters on buffers are handed over unit by unit. `vldr` and `vgath` read a buffer
of the core for the enabled units or lanes of vd; `vstr` and `vscat` write the enabled units or lanes of a row to A:
or S:, where two lanes of a scatter name one element the higher. They complete whenever they issue, the rows they name
await no load and no access of V to them is pending, and the address passes R229 or R232: one access for each enabled
unit of 2 bytes, or lane, without a class, which performs at its own moment (R84, R87, R89). A load has begun, and its
row waits; a store has finished. With nothing enabled the word finishes. A bad address is an addressing fault, a store
or scatter to W: an access-list fault, and nothing is accessed. That a store or scatter to W: is refused before its
address is looked at is the model's reading (log entry 23). (R67, R84, R87, R89, R141, R149, R214, R229, R232.) -/
def Obligations.VectorBufferAccess : Prop :=
  (∀ (tk : Tok) (u : BitVec 2) (v : BitVec 1) (x : BitVec 4) (d i : BitVec 5) (z : BitVec 2) (w : BitVec 1),
    ∀ e ∈ ([
        (.vldr tk u x d w, fun σ => [σ.cur.vr w d], fun σ => rowAddrOk (rowBuf u) (σ.cur.getX x),
          fun σ => σ.unitRow (rowBuf u) (σ.cur.getX x).toNat (fun _ => .load)),
        (.vgath tk z v d i x w, fun σ => [σ.cur.vr w d, σ.cur.vr w i],
          fun σ => σ.cur.gathOk (gathBuf v) (σ.cur.getX x) (σ.cur.vr w i) (laneSize z),
          fun σ => (σ.cur.accessesOf (laneSize z)).map (fun j => ⟨bufSpace σ (gathBuf v),
            (σ.cur.getX x).toNat + σ.cur.lane (σ.cur.vr w i) (laneSize z) j * laneSize z, laneSize z, laneSize z * j, .load⟩))]
        : List (Instr × (State → List Nat) × (State → Bool) × (State → List Spec))),
      ∀ (σ σ1 : State) (y : BitVec 32), Issues σ .V e.1 tk σ1 y → σ1.cur.rowBusy (e.2.1 σ1) = false →
        (e.2.2.1 σ1 = true → exec e.1 σ = .next (σ1.moved (
          if e.2.2.2 σ1 = [] then σ1.cur.finished σ.now .V 2 tk.push 0
          else (σ1.cur.launch .V (e.2.2.2 σ1) 16 0 0 (.vrow (σ1.cur.vr w d)) true tk.push).begun σ.now .V 2))) ∧
        (e.2.2.1 σ1 = false → exec e.1 σ = .next (σ.park σ.turn.core (σ.cur.recOf .V .addressing 0)))) ∧
  (∀ (tk : Tok) (u : BitVec 2) (v : BitVec 1) (x : BitVec 4) (d i : BitVec 5) (z : BitVec 2) (w : BitVec 1),
    ∀ e ∈ ([
        (.vstr tk u x d w, fun σ => [σ.cur.vr w d], decide (rowBuf u ≠ .W), fun σ => rowAddrOk (rowBuf u) (σ.cur.getX x),
          fun σ => σ.unitRow (rowBuf u) (σ.cur.getX x).toNat
            (fun j => .store (leBytes 2 (rowElem (σ.cur.row (σ.cur.vr w d)) 16 j)))),
        (.vscat tk z v d i x w, fun σ => [σ.cur.vr w d, σ.cur.vr w i], decide (v = 0),
          fun σ => σ.cur.gathOk .A (σ.cur.getX x) (σ.cur.vr w i) (laneSize z),
          fun σ => (σ.cur.topLanes (σ.cur.getX x) (σ.cur.vr w i) (laneSize z)).map (fun j => ⟨.B .A,
            (σ.cur.getX x).toNat + σ.cur.lane (σ.cur.vr w i) (laneSize z) j * laneSize z, laneSize z, laneSize z * j,
            .store (leBytes (laneSize z) (rowElem (σ.cur.row (σ.cur.vr w d)) (8 * laneSize z) j))⟩))]
        : List (Instr × (State → List Nat) × Bool × (State → Bool) × (State → List Spec))),
      ∀ (σ σ1 : State) (y : BitVec 32), Issues σ .V e.1 tk σ1 y → σ1.cur.rowBusy (e.2.1 σ1) = false →
        (e.2.2.1 = true → e.2.2.2.1 σ1 = true → exec e.1 σ = .next (σ1.moved (
          if e.2.2.2.2 σ1 = [] then σ1.cur.finished σ.now .V 2 tk.push 0
          else (σ1.cur.launch .V (e.2.2.2.2 σ1) 16 0 0 .nothing false tk.push).finished σ.now .V 2 tk.push 0))) ∧
        (e.2.2.1 = true → e.2.2.2.1 σ1 = false → exec e.1 σ = .next (σ.park σ.turn.core (σ.cur.recOf .V .addressing 0))) ∧
        (e.2.2.1 = false → exec e.1 σ = .next (σ.park σ.turn.core (σ.cur.recOf .V .accessList 0)))) ∧
  (∀ (b : Buf) (x : Reg), rowAddrOk b x = true ↔ x.toNat % 16 = 0 ∧ x.toNat + 256 ≤ b.size) ∧
  (∀ (c : Core) (b : Buf) (x : Reg) (vi s : Nat), c.gathOk b x vi s = true ↔ x.toNat < 2 ^ 19 ∧ x.toNat % s = 0 ∧
    ∀ j, j < 256 / s → c.enabled j s = true → x.toNat + c.lane vi s j * s + s ≤ b.size) ∧
  (∀ (σ : State) (b : Buf) (off : Nat) (k : Nat → AccKind), σ.unitRow b off k =
    ((List.range 128).filter (fun j => σ.cur.enabled j 2)).map (fun j =>
      ⟨if b = .S then .S σ.turn.core else .B b, off + 2 * j, 2, 2 * j, k j⟩)) ∧
  (∀ (c : Core) (x : Reg) (vi s j : Nat), j ∈ c.topLanes x vi s ↔ j < 256 / s ∧ c.enabled j s = true ∧
    ∀ m, m < 256 / s → c.enabled m s = true → j < m → c.lane vi s m * s ≠ c.lane vi s j * s)

/-- Row loads and stores on G: and SG: are handed over access by access. `vld` and `vst` on G: and SG: complete
whenever they issue, their row awaits no load, and every access they make is well placed: for each enabled access of
4, 8 or 16 bytes the granules of its bytes are handed to the memory system with the word's class, scope and policy. A
load has begun, and its row waits; a plain store has finished; a release finishes when it has performed. With no
access enabled the word finishes and nothing is accessed. The accesses are well placed exactly when, on G:, each
enabled one ends at or below 2^56 and lies, first byte and last, in no arena window of a handle that is not live; on
SG:, when R68 allows the address and each ends within its scratchpad. Else the core parks with the cause of lowest
rank: addressing, at the first access past 2^56; else outlived, at the first such access; on SG: access list, else
addressing. While its row awaits a load, or a fence keeps its class from issuing, the word waits. That a plain store
has finished once it is handed over is the model's reading (log entry 19). (R4, R68, R81, R87, R92, R141, R149, R214,
R230, R231, R303.) -/
def Obligations.VectorGlobalAccess : Prop :=
  (∀ (tk : Tok) (z : BitVec 2) (x : BitVec 4) (d : BitVec 5) (c : BitVec 4) (s : BitVec 3) (l : BitVec 2) (w : BitVec 1),
    ∀ e ∈ ([
        (.vldG tk z x d c s l w, l.toNat, fun σ => σ.gRow (σ.cur.getX x) (4 * 2 ^ z.toNat) (fun _ => .load)),
        (.vldSg tk z x d c s w, 0, fun σ => σ.sgRow (σ.cur.getX x) (4 * 2 ^ z.toNat) (fun _ => .load))]
        : List (Instr × Nat × (State → Except (Cause × Nat) (List Spec)))),
      ∀ (σ σ1 : State) (y : BitVec 32), Issues σ .V e.1 tk σ1 y → σ1.cur.rowBusy [σ1.cur.vr w d] = false →
        σ1.cur.barred .V c.toNat = false →
        (∀ sp, e.2.2 σ1 = .ok sp → exec e.1 σ = .next (σ1.moved (
          if sp = [] then σ1.cur.finished σ.now .V 2 tk.push 0
          else (σ1.cur.launch .V sp c.toNat s.toNat e.2.1 (.vrow (σ1.cur.vr w d)) true tk.push).begun σ.now .V 2))) ∧
        (∀ f a, e.2.2 σ1 = .error (f, a) → exec e.1 σ = .next (σ.park σ.turn.core (σ.cur.recOf .V f a)))) ∧
  (∀ (tk : Tok) (z : BitVec 2) (x : BitVec 4) (d : BitVec 5) (c : BitVec 4) (s : BitVec 3) (l : BitVec 2) (w : BitVec 1),
    ∀ e ∈ ([
        (.vstG tk z x d c s l w, l.toNat, fun σ => σ.gRow (σ.cur.getX x) (4 * 2 ^ z.toNat) (fun j =>
          .store (leBytes (4 * 2 ^ z.toNat) (rowElem (σ.cur.row (σ.cur.vr w d)) (8 * (4 * 2 ^ z.toNat)) j)))),
        (.vstSg tk z x d c s w, 0, fun σ => σ.sgRow (σ.cur.getX x) (4 * 2 ^ z.toNat) (fun j =>
          .store (leBytes (4 * 2 ^ z.toNat) (rowElem (σ.cur.row (σ.cur.vr w d)) (8 * (4 * 2 ^ z.toNat)) j))))]
        : List (Instr × Nat × (State → Except (Cause × Nat) (List Spec)))),
      ∀ (σ σ1 : State) (y : BitVec 32), Issues σ .V e.1 tk σ1 y → σ1.cur.rowBusy [σ1.cur.vr w d] = false →
        σ1.cur.barred .V c.toNat = false →
        (∀ sp, e.2.2 σ1 = .ok sp → exec e.1 σ = .next (σ1.moved (
          if sp = [] then σ1.cur.finished σ.now .V 2 tk.push 0
          else if s = 0 then
            (σ1.cur.launch .V sp c.toNat s.toNat e.2.1 .nothing false tk.push).finished σ.now .V 2 tk.push 0
          else (σ1.cur.launch .V sp c.toNat s.toNat e.2.1 .nothing true tk.push).begun σ.now .V 2))) ∧
        (∀ f a, e.2.2 σ1 = .error (f, a) → exec e.1 σ = .next (σ.park σ.turn.core (σ.cur.recOf .V f a)))) ∧
  (∀ (tk : Tok) (z l : BitVec 2) (x c : BitVec 4) (d : BitVec 5) (s : BitVec 3) (w : BitVec 1),
    ∀ e ∈ [.vldG tk z x d c s l w, .vstG tk z x d c s l w, .vldSg tk z x d c s w, .vstSg tk z x d c s w],
      Waits .V tk e (fun σ => σ.cur.rowBusy [σ.cur.vr w d] || σ.cur.barred .V c.toNat)) ∧
  (∀ (σ : State) (x : Reg) (n : Nat) (k : Nat → AccKind) (js : List Nat) (past dead : Nat → Prop), js = σ.cur.accessesOf n →
    (∀ j, past j ↔ 2 ^ 56 < x.toNat + j * n + n) →
    (∀ j, dead j ↔ σ.outlived (σ.partOf σ.turn.core) (x.toNat + j * n) = true ∨
      σ.outlived (σ.partOf σ.turn.core) (x.toNat + j * n + n - 1) = true) →
    ((∀ j ∈ js, ¬past j ∧ ¬dead j) → σ.gRow x n k = .ok (js.map (fun j => ⟨.G, x.toNat + j * n, n, j * n, k j⟩))) ∧
    (∀ j ∈ js, past j → (∀ i ∈ js, i < j → ¬past i) → σ.gRow x n k = .error (.addressing, x.toNat + j * n)) ∧
    (∀ j ∈ js, (∀ i ∈ js, ¬past i) → dead j → (∀ i ∈ js, i < j → ¬dead i) →
      σ.gRow x n k = .error (.outlived, x.toNat + j * n)) ∧
    (js = [] → σ.sgRow x n k = .ok []) ∧
    (js ≠ [] → σ.cur.sgTarget σ.turn.core x = none → σ.sgRow x n k = .error (.accessList, 0)) ∧
    (∀ w off, js ≠ [] → σ.cur.sgTarget σ.turn.core x = some (w, off) →
      ((∀ j ∈ js, off + j * n + n ≤ 0x40000) →
        σ.sgRow x n k = .ok (js.map (fun j => ⟨.S w, off + j * n, n, j * n, k j⟩))) ∧
      ((∃ j ∈ js, 0x40000 < off + j * n + n) → σ.sgRow x n k = .error (.addressing, 0))) ∧
    ((∃ sp, σ.gRow x n k = .ok sp) ↔ ∀ j ∈ js, ¬past j ∧ ¬dead j) ∧
    ((∃ sp, σ.sgRow x n k = .ok sp) ↔ js = [] ∨ ∃ w off, σ.cur.sgTarget σ.turn.core x = some (w, off) ∧
      ∀ j ∈ js, off + j * n + n ≤ 0x40000)) ∧
  (∀ (c : Core) (n j : Nat), j ∈ c.accessesOf n ↔ j < 256 / n ∧ c.enabled j n = true)

/-- Lane maps change the enabled lanes and record their flags, and the row window keeps registers apart. After a
governed instruction on lanes of 1, 2, 4 or 8 bytes, lane i of the destination row holds its result when Enabled(i, s)
is 1 and its old bits when it is 0; each flag of an enabled lane is ORed into bit i of that flag's mask unless `.nf`,
and no other bit of a mask changes. Every other row, and every other part of the core's files, stays as it is. For
every base and rotation, v0 to v31 stand at the base and v32 to v63 at 32 past it, rotated, modulo 1024 (R66); two
names never share a row, and every row is below 1024. A field names its register by the bank bit (R141). p0 to p7
stand in place and p8 to p15 are rotated, and two names never share a predicate. A row that has been written reads
back, and every other row as before, while the rows stand in rising order, which a write keeps and reset has. (R66,
R141, R213, R214, R215, R218.) -/
def Obligations.LanesAndRowsOfTheVectorFile : Prop :=
  (∀ (c : Core) (d s i : Nat) (nf : Bool) (f : Nat → Nat × Fl), c.rowsOk = true → s ∈ [1, 2, 4, 8] → i < 256 / s →
    (c.mapLanes d s nf f).lane d s i = if c.enabled i s then (f i).1 % 2 ^ (8 * s) else c.lane d s i) ∧
  (∀ (c : Core) (d s r : Nat) (nf : Bool) (f : Nat → Nat × Fl), c.rowsOk = true → r ≠ d →
    (c.mapLanes d s nf f).row r = c.row r) ∧
  (∀ (c : Core) (d s i : Nat) (nf : Bool) (f : Nat → Nat × Fl) (j : Fin 5), s ∈ [2, 4, 8] → i < 128 →
    ((c.mapLanes d s nf f).vflags[j]).getLsbD i =
      ((c.vflags[j]).getLsbD i ||
        (!nf && decide (i < 256 / s) && c.enabled i s && (f i).2.getLsbD j.val))) ∧
  (∀ (c : Core) (d s : Nat) (nf : Bool) (f : Nat → Nat × Fl),
    (c.mapLanes d s nf f).files = { c.files with
      bufX := (c.mapLanes d s nf f).bufX
      vflags := (c.mapLanes d s nf f).vflags }) ∧
  (∀ (c : Core) (i s : Nat), c.enabled i s = (c.getP c.vgov).getLsbD (i * s / 2)) ∧
  (∀ (c : Core) (n : Nat), (n ≤ 31 → c.vrow n = (c.vbase.toNat + n) % 1024) ∧
    (32 ≤ n → n ≤ 63 → c.vrow n = (c.vbase.toNat + 32 + (n - 32 + c.rot.toNat) % 32) % 1024) ∧ c.vrow n < 1024) ∧
  (∀ (c : Core) (n m : Nat), n < 64 → m < 64 → c.vrow n = c.vrow m → n = m) ∧
  (∀ (b : BitVec 1) (f : BitVec 5), vreg b f < 64 ∧ (f.toNat ≤ 15 → vreg b f = 16 * b.toNat + f.toNat) ∧
    (16 ≤ f.toNat → vreg b f = 32 + 16 * b.toNat + f.toNat - 16)) ∧
  (∀ (c : Core) (n m : BitVec 4), (n.toNat ≤ 7 → (c.pphys n).val = n.toNat) ∧
    (8 ≤ n.toNat → (c.pphys n).val = 8 + (n.toNat - 8 + c.rot.toNat) % 8) ∧ (c.pphys n = c.pphys m → n = m)) ∧
  (∀ (c : Core) (d r : Nat) (v : Row), c.rowsOk = true →
    (c.setRow d v).row r = (if r = d then v else c.row r) ∧ (c.setRow d v).rowsOk = true) ∧
  Core.reset.rowsOk = true

/-- A scalar word of C, L or V changes its destination register and nothing else. Frame of the arithmetic words: when
a word that writes one s, b or x register answers a next state, every register of the core is as before but that one
(and, for a float word of C, %sflags): every other register of the file, every predicate, special register, counter,
buffer and the return stack. A write to s0 changes nothing. That holds however the word ends: it completes, it waits,
or it parks the core. A counter changes only where the core held increments or writes of counters of earlier words
(R168), which it may make beside this one. The rest of the device is the subject of the frame of one core. (R60, R148,
R149, R177, R178, R212, R234.) -/
def Obligations.ScalarWordsWriteOneRegister : Prop :=
  (∀ (s t : State) (i : Instr) (d : BitVec 5), i.intDest = some d → exec i s = .next t →
    t.cur.files = { s.cur.files with s := t.cur.s, k := t.cur.k } ∧ (s.cur.owesInc = false → t.cur.k = s.cur.k) ∧ (∀ r, r ≠ d → t.cur.getS r = s.cur.getS r) ∧ t.cur.getS 0 = 0) ∧
  (∀ (s t : State) (i : Instr) (d : BitVec 5), i.floatDest = some d → exec i s = .next t →
    t.cur.files = { s.cur.files with s := t.cur.s, sflags := t.cur.sflags, k := t.cur.k } ∧ (s.cur.owesInc = false → t.cur.k = s.cur.k) ∧
    (∀ r, r ≠ d → t.cur.getS r = s.cur.getS r) ∧ (∀ j, s.cur.sflags.getLsbD j = true → t.cur.sflags.getLsbD j = true)) ∧
  (∀ (s t : State) (i : Instr) (d : BitVec 4), i.bDest = some d → exec i s = .next t →
    t.cur.files = { s.cur.files with b := t.cur.b, k := t.cur.k } ∧ (s.cur.owesInc = false → t.cur.k = s.cur.k) ∧ ∀ r, r ≠ d → t.cur.getB r = s.cur.getB r) ∧
  (∀ (s t : State) (i : Instr) (d : BitVec 4), i.xDest = some d → exec i s = .next t →
    t.cur.files = { s.cur.files with x := t.cur.x, k := t.cur.k } ∧ (s.cur.owesInc = false → t.cur.k = s.cur.k) ∧ ∀ r, r ≠ d → t.cur.getX r = s.cur.getX r)

/-- A vector word that writes a row changes that row and the flag masks, and nothing else. Frame of the 71 words of V
that write one row, row loads and gathers from buffers among them: when such a word answers a next state, every row
but the one its destination field names under the bank bit, the window and the rotation is as before, and so is every
register, predicate, special register and other buffer of the core; only the flag masks of %vflags may have bits set
(R215), and none is cleared. A counter changes only where the core held increments or writes of counters of earlier
words, made beside this one. That holds however the word ends: it completes, it waits, or it parks the core. (R66,
R141, R212, R214, R215.) -/
def Obligations.VectorWordsWriteOneRow : Prop :=
  ∀ (s t : State) (i : Instr) (w : BitVec 1) (d : BitVec 5), i.vDest = some (w, d) → exec i s = .next t →
    t.cur.files = { s.cur.files with bufX := t.cur.bufX, vflags := t.cur.vflags, k := t.cur.k } ∧
    (s.cur.owesInc = false → t.cur.k = s.cur.k) ∧
    (s.cur.rowsOk = true → t.cur.rowsOk = true ∧ ∀ r, r ≠ s.cur.vr w d → t.cur.row r = s.cur.row r) ∧
    (∀ (j : Fin 5) (u : Nat), (s.cur.vflags[j]).getLsbD u = true → (t.cur.vflags[j]).getLsbD u = true)

/-- A busy bit is 1 exactly when an `engage` of that engine would be refused so. For a core, a class and an engine
index of it: bit i of the class's %busy register, as `mfsr` reads it, is 1 exactly when an `engage` of that core in
that state, whose baton list names engine i as entry 0 and no other, with the marking that the core's streak gives, is
refused with busy (1), asleep (3) or foreign (4). The read takes effect on the destination register alone: it reserves
nothing, and no engine, hold, mark or command changes. (R108.) -/
def Obligations.BusyBitsForetellEngage : Prop :=
  (∀ (s : State) (v cls i : Nat) (r : EReq), cls < 6 → i < clsCount cls → r.core = v → hdrCls r.hdr = cls → r.check = 0 →
    r.marked = decide (s.kOf (s.partOf v) cls ≤ (s.core v).streakOf cls) →
    r.list = BitVec.ofNat 64 (2 ^ 15 + cls * 2 ^ 12 + i) → r.d ≠ 0 →
    ((s.busyBits v cls).testBit i = true ↔
      (((s.engage r).core v).getS r.d).toNat % 8 = 1 ∨ (((s.engage r).core v).getS r.d).toNat % 8 = 3 ∨
      (((s.engage r).core v).getS r.d).toNat % 8 = 4)) ∧
  (∀ (s s1 : State) (tk : Tok) (d : BitVec 5) (cls : Nat) (x : BitVec 32), cls < 6 →
    Issues s .C (.mfsr tk d (BitVec.ofNat 12 (0x040 + cls))) tk s1 x → s1.cur.sBusy [d] = false → d ≠ 0 →
    ∃ t, exec (.mfsr tk d (BitVec.ofNat 12 (0x040 + cls))) s = .next t ∧
      t.cur.getS d = BitVec.ofNat 64 (s.busyBits s.turn.core cls) ∧ t.engines = s.engines ∧ t.ecmds = s.ecmds ∧
      t.ereqs = s.ereqs)

/-- NaNs and infinities go to the formats without a NaN as R56 says. A NaN of any float format converted to FP6
(both), FP4, TERN2 or an integer format gives the code of +0 and raises invalid, in every mode, with and without
`.sat`. An infinity converted to FP6 or FP4 gives the largest finite value of its sign and raises inexact alone. An
infinity converted to FP8 E4M3 gives the NaN of its sign (0x7F or 0xFF) without `.sat`, and 448 of its sign (0x7E or
0xFE) with it; both raise inexact alone. (R56.) -/
def Obligations.FormatsWithoutNan : Prop :=
  (∀ (src dst : EF) (mode : Rnd) (sat sig : Bool) (c : Nat), src.ffmt.isSome = true → src.decode c = .nan sig →
    dst ∈ ([.e3m2, .e2m3, .e2m1, .tern2, .i4, .ui4, .i8, .ui8, .i16, .i32, .ui32, .i64, .ui64] : List EF) →
    convert src dst mode sat c = (0, flNV)) ∧
  (∀ (src : EF) (mode : Rnd) (sat neg : Bool) (c : Nat), src.ffmt.isSome = true → src.decode c = .inf neg →
    convert src .e3m2 mode sat c = (if neg then 0x3F else 0x1F, flNX) ∧
    convert src .e2m3 mode sat c = (if neg then 0x3F else 0x1F, flNX) ∧
    convert src .e2m1 mode sat c = (if neg then 0xF else 0x7, flNX) ∧
    convert src .e4m3 mode false c = (if neg then 0xFF else 0x7F, flNX) ∧
    convert src .e4m3 mode true c = (if neg then 0xFE else 0x7E, flNX))

/-- In the INT class each group adds its exact sum to the accumulator once. For a pair of formats of the INT class, an
element of the tile takes the groups of 32 of K in rising order. At each group the exact integer sum of the group's
exact products is added to the INT32 accumulator once: modulo 2^32 without `.sat`, clamped to the INT32 range after
each group with it. The result is a function of the data alone, whatever the placement or timing. (R46.) -/
def Obligations.IntegerGroupsAreExact : Prop :=
  (∀ (m : Mma) (c : Core) (i j x : Nat) (ks : List Nat), m.cls = .int → mclass m.fa m.fb = some .int →
    m.apply c i j x ks =
      (let y : Int := sgn 32 x + (ks.map (fun k => Val.toInt (m.ea c i k) * Val.toInt (m.eb c j k))).sum
       low 32 (if m.rs = 1 then max (-2 ^ 31) (min (2 ^ 31 - 1) y) else y))) ∧
  (∀ (m : Mma) (c : Core) (i j x : Nat), m.cls = .int →
    (List.range m.groups).foldl (fun a g => m.step c g i j a) x = (List.range ((desK m.d + 31) / 32)).foldl (fun a g =>
      m.apply c i j a ((List.range 32).filterMap (fun n => if g * 32 + n < desK m.d then some (g * 32 + n) else none))) x) ∧
  (∀ (m : Mma) (c : Core) (i k : Nat), mclass m.fa m.fb = some .int →
    ∃ e : Int, m.ea c i k = Val.ofInt e ∧ Val.toInt (m.ea c i k) = e)

/-- A fault parks a task that runs, with its cause recorded; a parked core records further causes. Parking moves a
Placed, Running or Exiting task to Parked (Table 1.5), remembers the state held before, stops %cyc, and adds the cause
record after those already there; a core already Parked only adds the record, and one with no task (idle or complete)
does not change. No register, buffer, counter or token changes. A core whose side log is empty returns at its
resumption to the state held before, with no cause left, no access faulted, and %cyc running on; the end of a handler
also restores the `waitw` that waited when the handler was entered. A core with a side log stays Parked, its log
entries due, until they have replayed (R306). The primary cause is the one of lowest rank, and codes, which are the
ranks, are those of Table 17.3. That a Placed task parks as one that has begun to run, Running or, where C's loop
record is empty, Exiting, is the model's choice (log entries 16 and 54). (R18, R19, R303, R305, R306.) -/
def Obligations.ParkingRecordsItsCause : Prop :=
  (∀ (c : Core) (now : Now) (r : CauseRec),
    (c.st = .placed ∨ c.st = .running ∨ c.st = .exiting →
      (c.park now r).st = .parked ∧
      (c.park now r).before = (if c.st = .placed then (if (c.str .C).ended then .exiting else .running) else c.st) ∧
      (c.park now r).parkedAt = now.clk) ∧
    (c.st ≠ .idle → c.st ≠ .complete → (c.park now r).st = .parked ∧ (c.park now r).causes = c.causes ++ [r]) ∧
    (c.st = .idle ∨ c.st = .complete → c.park now r = c) ∧
    (c.park now r).files = c.files ∧ (c.park now r).tq = c.tq ∧ (c.park now r).strm = c.strm ∧
    (c.park now r).acc = c.acc ∧ (c.park now r).lcmds = c.lcmds ∧ (c.park now r).slog = c.slog ∧
    (c.st = .running ∨ c.st = .exiting → ∀ later, (c.park now r).cyc later = c.cyc now.clk)) ∧
  (∀ (c : Core) (now : Now), c.slog = [] →
    (c.resume now).st = c.before ∧ (c.resume now).causes = [] ∧ (c.resume now).files = c.files ∧
    (c.resume now).inHandler = false ∧ (c.resume now).cycFrom = now ∧ (c.resume now).heldW = none ∧
    (c.resume now).waitw = (if c.inHandler then c.heldW else c.waitw) ∧ (∀ a ∈ (c.resume now).acc, a.stuck = false) ∧
    (∀ l ∈ (c.resume now).lcmds, l.faulted = none)) ∧
  (∀ (c : Core) (now : Now), c.slog ≠ [] →
    (c.resume now).st = c.st ∧ (c.resume now).returning = true ∧ (c.resume now).causes = [] ∧
    (c.resume now).slog = c.slog.map (fun e => { e with due := true }) ∧ (c.resume now).files = c.files ∧
    (c.resume now).before = c.before) ∧
  (∀ c : Core, c.causes ≠ [] →
    (∃ r ∈ c.causes, r.cause.code = c.primary) ∧ ∀ r ∈ c.causes, c.primary ≤ r.cause.code) ∧
  (∀ k : Cause, ∀ e ∈ ([(.illegal, 1), (.accessList, 2), (.addressing, 3), (.counterOverflow, 4), (.translation, 5),
      (.protection, 6), (.bound, 7), (.hostRefused, 8), (.hostOutstanding, 9), (.capFailure, 10), (.outlived, 11),
      (.leaseRecalled, 12), (.overrun, 13), (.trap, 14), (.breakpoint, 15)] : List (Cause × Nat)),
    k = e.1 → k.code = e.2)

/-- A pending access that may perform does so at its ordering point, and what it returns reaches its destination.
ACCESS_PERFORM of a pending access that nothing earlier must precede (R89): a scratchpad access reads and writes at
the owning core's port, a buffer access in its buffer, an access to G: is translated and reaches its bytes. Then it is
retired; one that faults goes to the side log or parks its core. With an earlier entry of its class from another word
in its stream's log, a store follows into the log (R98) and a load waits. SIDE_LOG_REPLAY performs an entry that may
replay and removes it; SIDE_LOG_KICK makes every entry due. In a buffer a load returns the bytes that it finds, but
for bytes of writes that its party need not see yet (R90; log entry 56); a store writes its bytes, an atomic returns
the old value and writes the new one. Retiring the last access of a word writes its destination from the bytes
returned, s[d] sign- or zero-extended, a pair of s registers, or the bytes of an X row that its lanes name, and makes
its push; an earlier one only keeps its bytes. Buffers answer accesses one at a time, which allows more orders than
the spec's ports (log entry 2). That a plain store has finished before it performs, and how followers leave the log,
are the model's readings (log entries 19 and 50). (R69, R88, R89, R91, R98, R149, R156, R159, R231, R302.) -/
def Obligations.AccessesPerformAtTheirPoint : Prop :=
  (∀ (s : State) (v k : Nat) (a : Acc), (s.core v).acc.find? (fun b => b.id == k) = some a → s.mayPerform v a = true →
    ((s.core v).slog.find? (fun e => e.acc.st == a.st && e.acc.cls == a.cls && e.acc.grp != a.grp && decide (e.acc.id < a.id)) = none →
      s.pastEnd v a = false → exec (.accessPerform v k) s = .next (s.performAcc v a)) ∧
    (∀ e, (s.core v).slog.find? (fun e => e.acc.st == a.st && e.acc.cls == a.cls && e.acc.grp != a.grp && decide (e.acc.id < a.id)) =
        some e →
      exec (.accessPerform v k) s = .next (if a.logs then s.accFault v a e.cause else s))) ∧
  (∀ (s : State) (v : Nat) (a : Acc),
    (∀ w t bs, a.space = .S w → s.bufAcc (s.agentOf v a) w .S a.addr a.n a.kind = (t, bs) →
      s.performAcc v a = t.retire v a bs) ∧
    (∀ b t bs, a.space = .B b → s.bufAcc (s.agentOf v a) v b a.addr a.n a.kind = (t, bs) →
      s.performAcc v a = t.retire v a bs) ∧
    (a.space = .G →
      (∀ t bs, s.gAcc (s.agentOf v a) (s.partOf v) a.addr a.n a.pol a.kind false = .ok t bs →
        s.performAcc v a = t.retire v a bs) ∧
      (∀ t c, s.gAcc (s.agentOf v a) (s.partOf v) a.addr a.n a.pol a.kind false = .fault t c →
        s.performAcc v a = t.accFault v a c))) ∧
  (∀ (s : State) (v k : Nat) (e : SideEntry), (s.core v).slog[k]? = some e → (s.core v).mayReplay v k e = true →
    (e.acc.isRelease = true → s.landed v = true) → e.acc.space = .G →
    ∀ t bs, s.gAcc (s.agentOf v e.acc) (s.partOf v) e.acc.addr e.acc.n e.acc.pol e.acc.kind false = .ok t bs →
      exec (.sideLogReplay v k) s = .next (t.replayed v e.acc) ∧
      ∀ x ∈ ((t.replayed v e.acc).core v).slog, x.acc.id ≠ e.acc.id) ∧
  (∀ (s : State) (p v : Nat), (s.core v).task.isSome = true → s.partOf v = p →
    exec (.sideLogKick p v) s = .next (s.setCore v
      { s.core v with slog := (s.core v).slog.map (fun e => { e with due := true }) })) ∧
  (∀ (s t : State) (ag : Agent) (v : Nat) (b : Buf) (off n : Nat) (k : AccKind) (bs old : List Byte),
    old = (s.core v).bytes b off n → s.bufAcc ag v b off n k = (t, bs) →
    t.core v = (match k.newBytes n old with | none => s.core v | some d => (s.core v).writeBuf b off d) ∧
    (k ≠ .load → bs = k.returns old) ∧ (k = .load → b = .X ∨ ag.ev = none ∨ s.past = [] → bs = old ∧ t = s) ∧
    (k = .load → bs.length = n ∧ ∀ i, i < n → bs.getD i 0 = old.getD i 0 ∨ ∃ q ∈ s.past, q.loc ≤ bufLoc v b off + i ∧
      bufLoc v b off + i < q.loc + q.old.length ∧ bs.getD i 0 = q.old.getD (bufLoc v b off + i - q.loc) 0) ∧
    t.mem = s.mem ∧ t.l2b = s.l2b ∧ t.hostMem = s.hostMem ∧ t.regs = s.regs) ∧
  (∀ (n op v w : Nat) (d old : List Byte), AccKind.newBytes .load n old = none ∧
    AccKind.newBytes (.store d) n old = some d ∧ AccKind.returns (.store d) old = [] ∧
    AccKind.newBytes (.amo op n v w) n old = some (leBytes n (amoOp op n (leNat old) v w)) ∧
    AccKind.returns (.amo op n v w) old = old) ∧
  (∀ (n x v w : Nat), amoOp 0 n x v w = v ∧ amoOp 1 n x v w = (x + v) % 2 ^ (8 * n) ∧ amoOp 7 n x v w = min x v ∧
    amoOp 8 n x v w = max x v ∧ amoOp 9 n x v w = if x = v then w else x) ∧
  (∀ (c : Core) (a : Acc) (bs : List Byte), (∀ b ∈ (c.retire a bs).acc, b.id ≠ a.id) ∧
    ∀ f, c.fl.find? (fun f => f.grp == a.grp) = some f →
      let got := f.got ++ (List.range bs.length).zipWith (fun i b => (a.pos + i, b)) bs
      let c1 : Core := { c with acc := c.acc.filter (fun b => b.id != a.id), slog := c.slog.filter (fun e => e.acc.id != a.id) }
      ((∀ b ∈ c1.acc, b.grp ≠ a.grp) → (∀ e ∈ c1.slog, e.acc.grp ≠ a.grp) →
        c.retire a bs =
          (({ c1 with fl := c1.fl.filter (fun g => g.grp != a.grp) } : Core).deposit { f with got := got }).push f.st f.push 0) ∧
      ((∃ b ∈ c1.acc, b.grp = a.grp) →
        (c.retire a bs).files = c.files ∧ (c.retire a bs).strm = c.strm ∧
        { f with got := got } ∈ (c.retire a bs).fl)) ∧
  (∀ (c : Core) (f : Flight) (bs : List Byte) (d : Nat), f.got = addressed 0 bs → d ≠ 0 → d < 32 →
    (∀ n signed, f.dest = .sreg d n signed → bs.length = n →
      (c.deposit f).getS (BitVec.ofNat 5 d) =
        (if signed then BitVec.ofInt 64 (sgn (8 * n) (leNat bs)) else BitVec.ofNat 64 (leNat bs))) ∧
    (f.dest = .spair d → d < 31 → bs.length = 16 →
      (c.deposit f).getS (BitVec.ofNat 5 d) = BitVec.ofNat 64 (leNat (bs.take 8)) ∧
      (c.deposit f).getS (BitVec.ofNat 5 (d + 1)) = BitVec.ofNat 64 (leNat (bs.drop 8)))) ∧
  (∀ (c : Core) (f : Flight) (r i : Nat), f.dest = .vrow r → c.rowsOk = true → i < 256 →
    rowByte ((c.deposit f).row r) i =
      (match f.got.find? (fun e => e.1 == i) with | some e => e.2 | none => rowByte (c.row r) i) ∧
    ∀ q, q ≠ r → (c.deposit f).row q = c.row q)

/-- The L2 keeps dirty bytes in dirty tiles alone, through every access, write-back and displacement. An invariant of
the L2 that the frame of memory accesses rests on: every dirty byte lies in a tile that is resident and dirty. Reset
has it; an access to device memory, a command's read or write of a translated granule, the reaching of a tile with the
displacement it makes, a bypass, a write-back and an allocation keep it. What the L2 holds beside its bytes, tiles of
at most the quota in a set and their order, is the subject of other statements. (R71, R73, R76, R327.) -/
def Obligations.DirtyBytesLieInDirtyTiles : Prop :=
  State.reset.dirtyOk = true ∧
  (∀ (s t : State) (ag : Agent) (p va n pol : Nat) (k : AccKind) (whole : Bool) (bs : List Byte), s.dirtyOk = true →
    (∀ x, s.translate ag.who.1 p va k.xkind n = .ok x → x.host = false → x.pa % 1024 + n ≤ 1024) →
    (∀ old d, k.newBytes n old = some d → d.length ≤ n) →
    s.gAcc ag p va n pol k whole = .ok t bs → t.dirtyOk = true) ∧
  (∀ (s t : State) (ag : Agent) (p va n pol : Nat) (pl : Place) (bs : List Byte), s.dirtyOk = true →
    s.readAt ag p va n pol pl = .ok t bs → t.dirtyOk = true) ∧
  (∀ (s t : State) (ag : Agent) (p va pol : Nat) (pl : Place) (d bs : List Byte) (whole : Bool), s.dirtyOk = true →
    pl.pa % 1024 + d.length ≤ 1024 → s.writeTo ag p va pol pl d whole = .ok t bs → t.dirtyOk = true) ∧
  (∀ (s : State) (tile p : Nat) (retain : Bool), s.dirtyOk = true →
    (s.writeBack tile).dirtyOk = true ∧ (s.bypassed tile).dirtyOk = true ∧ (s.resealPage tile).dirtyOk = true ∧
    (s.resident tile = false → (s.allocate p tile retain).dirtyOk = true))

/-- An access to device memory writes the bytes of its granule, returns the bytes it found, and touches no other byte.
Frame of every access to device memory, whatever its policy and whatever tile it displaces, as the device's bytes are
read (dirty bytes of the L2 over memory): an access of n bytes of one tile that answers, where the page does not wait
to be sealed afresh, leaves there the bytes that it writes, and leaves every other byte of device memory and all of
host memory as they are; an atomic returns the bytes that it found, and a load them too, but for bytes of writes that
its party need not see yet (R90), where it may return those before the write. A command's write of a translated
granule has the same frame. A write-back of a tile leaves every byte of device memory as it reads. The granules of an
access partition its bytes, each aligned to its size of 1, 2, 4, 8 or 16 (R87). The premise that dirty bytes lie in
dirty tiles is the invariant stated beside this one. Which writes a load may miss is the model's choice within R90
(log entry 56). (R38, R71, R73, R76, R87, R91, R327.) -/
def Obligations.StoresReachTheirBytes : Prop :=
  (∀ (s t : State) (ag : Agent) (p va n pol : Nat) (k : AccKind) (whole : Bool) (x : Xlat) (bs : List Byte),
    s.memWf = true → s.dirtyOk = true → s.resealing (x.pa / 1024) = false → s.translate ag.who.1 p va k.xkind n = .ok x → x.host = false →
    x.pa % 1024 + n ≤ 1024 → (∀ d, k.newBytes n (s.devBytes x.pa n) = some d → d.length = n) →
    s.gAcc ag p va n pol k whole = .ok t bs →
    (k ≠ .load → bs = k.returns (s.devBytes x.pa n)) ∧
    (k = .load → bs.length = n ∧ ∀ i, i < n → bs.getD i 0 = s.devByte (x.pa + i) ∨
      ∃ q ∈ s.past, q.loc ≤ x.pa + i ∧ x.pa + i < q.loc + q.old.length ∧ bs.getD i 0 = q.old.getD (x.pa + i - q.loc) 0) ∧
    t.devBytes x.pa n = (k.newBytes n (s.devBytes x.pa n)).getD (s.devBytes x.pa n) ∧
    (∀ a, a < x.pa ∨ x.pa + n ≤ a → t.devByte a = s.devByte a) ∧ t.hostMem = s.hostMem) ∧
  (∀ (s t : State) (ag : Agent) (p va pol : Nat) (pl : Place) (d bs : List Byte) (whole : Bool),
    s.memWf = true → s.dirtyOk = true → s.resealing (pl.pa / 1024) = false → pl.host = false → pl.pa % 1024 + d.length ≤ 1024 →
    s.writeTo ag p va pol pl d whole = .ok t bs →
    t.devBytes pl.pa d.length = d ∧ (∀ a, a < pl.pa ∨ pl.pa + d.length ≤ a → t.devByte a = s.devByte a) ∧
    t.hostMem = s.hostMem) ∧
  (∀ (s : State) (tile a : Nat), s.memWf = true → (s.writeBack tile).devByte a = s.devByte a) ∧
  (∀ (a n : Nat), ((granules a n).map (fun g => g.2.1)).sum = n) ∧
  (∀ (a n b m p : Nat), (b, m, p) ∈ granules a n →
    m ∈ [1, 2, 4, 8, 16] ∧ b % m = 0 ∧ b = a + p ∧ p + m ≤ n) ∧
  (∀ (a n : Nat), n ∈ [1, 2, 4, 8, 16] → a % n = 0 → granules a n = [(a, n, 0)])

/-- L commands go on granule by granule, release their source, deliver, notify, and fault as R95 and R190 say.
L_CMD_SOURCE_RELEASED of a command lets some of its granules translate, be read and land; once its source has been
read and every G: address translated, and in the turn of an increment (R168), it is released and KS is incremented by
IS. L_CMD_DELIVERED does the same and, once every granule has performed that its scope asks for, delivers: a
conversion's flags are recorded and KD is incremented by ID; a delivered command lands what its narrow scope left due.
A bulk prefetch or release reaches its tiles there. NOTIFY_WRITE writes the notify word at one of the cores that it is
still due at, in any order. A command that meets a fault before its release, or the death of an arena after it (R83),
parks its core with the cause, to be issued again at the resumption; marked elements of a gather do so together. A
granule read puts its bytes at its place in the command's data, one left over stays due, and none is due that was not;
a copy writes at each place what it has read there, a fill its payload in every word. What a granule of host memory
asks of a delivery scope is the model's reading (log entry 57). Which granules go on at an event is left open, and
that a prefetch reaches a resident tile as a hit is the model's reading (log entries 5, 21 and 66). (R83, R94, R95,
R96, R168, R182, R184, R186, R187, R189, R190, R312.) -/
def Obligations.LoadCommandEventsRunTheirCourse : Prop :=
  (∀ (s : State) (v k : Nat) (l : LCmd), (s.core v).lcmd k = some l → l.released = false → l.releases = true →
    (l.faulted = none ∨ l.isGath = true) → ∀ t m, s.lOn v l = (t, m) →
    (m.mayRelease = true → m.faulted = none → (t.core v).mayComplete t.clock l.incS = true →
      exec (.lCmdSourceReleased v k) s = .next ((t.putLcmd v { m with released := true }).completed v (lThread l.id) 1 16 l.scope
        l.ks l.incS ({ m with released := true }.record .counterOverflow 0))) ∧
    (m.mayRelease = false → exec (.lCmdSourceReleased v k) s = .next (t.putLcmd v m))) ∧
  (∀ (s : State) (v k : Nat) (l : LCmd), (s.core v).lcmd k = some l → l.faulted = none →
    (l.releases = true → l.released = true) →
    (l.delivered = false → l.op ≠ .pfBulk → l.op ≠ .pfRel → ∀ t m, s.lOn v l = (t, m) →
      (m.arrived = true → m.faulted = none → (t.core v).mayComplete t.clock l.incD = true →
        exec (.lCmdDelivered v k) s = .next (t.deliver v m)) ∧
      (m.arrived = false → exec (.lCmdDelivered v k) s = .next (t.putLcmd v m))) ∧
    (l.delivered = true → ∀ t w, s.landSome (s.lServer v l) l.work = (t, w) →
      exec (.lCmdDelivered v k) s = .next (t.putLcmd v { l with work := w })) ∧
    (l.delivered = false → l.op = .pfBulk ∨ l.op = .pfRel → ∀ t m, s.tilesOn v l false = (t, m, none) →
      (m.tilesDone = true → (t.core v).mayComplete t.clock l.incD = true →
        exec (.lCmdDelivered v k) s = .next (t.deliver v m)) ∧
      (m.tilesDone = false → exec (.lCmdDelivered v k) s = .next (t.putLcmd v m)))) ∧
  (∀ (s : State) (v : Nat) (l : LCmd), s.deliver v l =
    (let c := (s.core v).setLcmd { l with delivered := true }
     (s.setCore v (if l.op = .cvcp then c.raiseCmd s.clock l.nf l.flags else c)).completed v (lThread l.id) 3 16 l.scope l.kd
      l.incD ({ l with delivered := true }.record .counterOverflow 0))) ∧
  (∀ (s : State) (v k : Nat) (l : LCmd), (s.core v).lcmd k = some l → l.mayNotify = true → s.notifyDue v l ≠ [] →
    ∃ w ∈ s.notifyDue v l, ∃ ag m, m = { l with told := w :: l.told } ∧
      exec (.notifyWrite v k) s = .next ((s.sPort ag w (4 * l.nidx) 4 (.store (leBytes 4 l.notifyWord))).1.putLcmd v
        { m with notified := (s.notifyDue v m).isEmpty })) ∧
  (∀ (s : State) (v w : Nat) (l : LCmd), w ∈ s.notifyDue v l ↔
    (if l.op = .cpr ∨ l.op = .cpm then some w ∈ l.targets (s.core v) v else w = v) ∧ w ∉ l.told) ∧
  (∀ (s : State) (v k : Nat) (l : LCmd), (s.core v).lcmd k = some l → l.delivered = false → l.faulted = none →
    (∀ t m c a, l.op = .pfBulk ∨ l.op = .pfRel → s.tilesOn v l true = (t, m, some (some c, a)) →
      exec (.lCmdServiceFault v k) s = .next (t.lFault v m c a)) ∧
    (∀ t w c a, l.isGath = true → s.gatherFault (s.lServer v l) l.gather l.retry.work = some (t, w, c, a) →
      exec (.lCmdServiceFault v k) s = .next (t.lMark v { l with work := w } c a).1) ∧
    (∀ t c a, l.isGath = false → l.op ≠ .pfBulk → l.op ≠ .pfRel → l.released = false ∨ c = .outlived → s.workFault (s.lServer v l) l.work = some (t, c, a) →
      exec (.lCmdServiceFault v k) s = .next (t.lFault v l c a))) ∧
  (∀ (s : State) (sv : Server) (w : Work),
    (∀ g ∈ w.srcs, (∃ h ∈ (s.workOn sv w).2.srcs, h.pos = g.pos ∧ h.n = g.n ∧ h.addr = g.addr ∧ h.space = g.space) ∨
      ∀ i, i < g.n → ∃ b, (g.pos + i, b) ∈ (s.workOn sv w).2.got) ∧
    (∀ e ∈ w.got, e ∈ (s.workOn sv w).2.got) ∧
    (∀ h ∈ (s.workOn sv w).2.dsts, ∃ g ∈ w.dsts, h.pos = g.pos ∧ h.n = g.n ∧ h.addr = g.addr ∧ h.space = g.space)) ∧
  (∀ (l : LCmd) (s : State) (v : Nat) (w : Work) (g : Grain), l.op ∈ [LOp.cp, .cpw, .cpl] →
    l.bytes w g = w.data g.pos g.n ∧
    l.plan s v = { Work.idle with
      srcs := rowGrains (sideSpace (l.op.srcNeed.isG l.src) l.src) false l.srcRows
      dsts := rowGrains (sideSpace (l.op.dstNeed.isG l.dst) l.dst) true l.dstRows } ∧
    l.srcRows.map (·.2) = l.dstRows.map (·.2)) ∧
  (∀ (l : LCmd) (w : Work) (g : Grain) (y : BitVec 32), l.op = .lfill → l.payload = some y → g.n = 4 →
    l.bytes w g = some (leBytes 4 y.toNat)) ∧
  (∀ (now : Now) (k n : Nat) (r : CauseRec) (c : Core), c.complete now k 0 r = c ∧
    (n ≠ 0 → c.complete now k n r = c.incK now (BitVec.ofNat 6 k) n r))

/-- Engine commands in service compute what their tables say. Each service event of a started command that is not
delivered, ended or held, in a slot that its engine serves it in: a row event enters a phase of a row, or computes one
whose reads are made (R120): the maximum of the widened lanes to STATS + 8j (the canonical NaN if a lane is NaN); the
exponentials of the lanes less the maximum, their sum in lane order at + 4, and the special cases of the maximum; the
quotients by the sum, +0 where it is 0. Its row and statistics are due first, and what it writes is due after. A
gather reads its elements, and a scatter writes them, as they translate; select reads its source and writes the K
first of the list in falling order (equal ones by lower index, the zeros equal, a NaN below every number) with their
indices, or the packed elements and their count; a transform moves element (a, b) of its source to place (b, a); a
collective first hands over its contribution and, once the P contributions of its instance are there and agree, writes
its result, taken in rank order; a network command sends its packets or posts its buffer. Granules land in any order
(R96). That phase 3 reads the sum at + 4, and which row comes next, are the model's choices (log entries 65 and 2).
Which granules go on is left open, what a collective does with contributions past P, and the connection that carries
them, are the model's choices (log entries 5, 21, 26 and 67). (R94, R96, R106, R120, R121, R122, R123, R124, R125,
R350.) -/
def Obligations.EngineCommandsCompute : Prop :=
  (∀ (s : State) (k : Nat) (c : ECmd), s.ecmd k = some c →
    (∀ e ∈ ([(.rowMax k, 0), (.rowExps k, 1), (.rowScale k, 2), (.rowAll k, 3)] : List (Instr × Nat)),
      s.servable c 0 e.2 = true → ∀ t w, s.moveOn (s.eServer c) c.work = (t, w) →
      (oneOf t.tick 28 (w.idx.filter w.rowReady) = none → exec e.1 s = .next (t.setEcmd { c with work := w })) ∧
      (∀ j phase, 1 ≤ phase → phase ≤ 3 → j < 64 →
        (oneOf t.tick 28 (w.idx.filter w.rowReady) = some (4 * j + phase) →
          exec e.1 s = .next (t.setEcmd (ECmd.rowEnter { c with work := w } j phase))) ∧
        (oneOf t.tick 28 (w.idx.filter w.rowReady) = some (2 ^ 20 + 4 * j + phase) →
          exec e.1 s = .next (t.setEcmd (ECmd.rowOn { c with work := w } j phase))))) ∧
    (∀ e ∈ ([(.gthGet k, 0), (.gthPut k, 1)] : List (Instr × Nat)), c.cls = 1 → c.cmd = e.2 → c.started = true →
      c.delivered = false → ∀ c1 t w, s.regather c = c1 → s.gatherOn (s.eServer c1) c1.gather c1.work false = (t, w) →
      exec e.1 s = .next (t.eStop { c1 with work := w })) ∧
    (∀ e ∈ ([(.selTop k, 0), (.selPack k, 1)] : List (Instr × Nat)), s.servable c 2 e.2 = true →
      ∀ t w, s.workOn (s.eServer c) c.work = (t, w) →
      (∀ d, c.step = 0 → w.srcs = [] → w.data 0 (4 * c.f 128 13 * (e.2 + 1)) = some d → exec e.1 s = .next (t.setEcmd
        (ECmd.computed { c with work := w } (.S c.core) ((ECmd.selected { c with work := w } d).map (fun (r : Nat × List Nat) => (r.1, r.2.flatMap (leBytes 4)))) 1))) ∧
      (c.step ≠ 0 ∨ w.srcs ≠ [] → exec e.1 s = .next (t.setEcmd { c with work := w }))) ∧
    (s.servable c 3 0 = true → ∀ t w, s.workOn (s.eServer c) c.work = (t, w) →
      exec (.xfmTr k) s = .next (t.setEcmd { c with work := w })) ∧
    (∀ e ∈ ([(.colSum k, 0), (.colBcast k, 1), (.colCat k, 2)] : List (Instr × Nat)), s.servable c 4 e.2 = true →
      ∀ t w, s.workOn (s.eServer c) c.work = (t, w) →
      (∀ d, c.step = 0 → w.srcs = [] → w.data 0 (c.f 192 17) = some d →
        exec e.1 s = .next ((t.contribute c d).setEcmd { c with step := 1, work := Work.idle })) ∧
      (c.step = 1 → c.f 16 16 ≤ (t.contribsOf c).length → (∀ x ∈ t.contribsOf c, x.shape = c.shape) →
        exec e.1 s = .next (t.setEcmd (ECmd.computed { c with work := w } .G
          [(c.f 128 56, c.colResult ((byRank ((t.contribsOf c).take (c.f 16 16))).map (fun (x : Contrib) => x.data)))] 2)))) ∧
    (∀ e ∈ ([(.netSend k, 0), (.netWrite k, 1)] : List (Instr × Nat)), s.servable c 5 e.2 = true →
      connOpen (s.conn (c.f 0 24)) = true → ∀ t w d, s.workOn (s.eServer c) c.work = (t, w) → c.step = 0 → w.srcs = [] →
      w.data 0 (c.f 96 17) = some d → exec e.1 s = .next
        ((t.ueSend (c.f 0 24) c.id (e.2 == 0) (packets (connPay (t.conn (c.f 0 24)))
          (if e.2 = 0 then (t.ue (c.f 0 24)).nextMsg else 0) (e.2 == 1) (c.f 192 32) (c.f 128 64) d)).setEcmd
          { c with step := 1, work := Work.idle })) ∧
    (s.servable c 5 2 = true → c.step = 0 → connOpen (s.conn (c.f 0 24)) = true → exec (.netPost k) s = .next
      ((s.setUe (c.f 0 24) { s.ue (c.f 0 24) with posts := (s.ue (c.f 0 24)).posts ++
        [⟨c.id, c.f 192 32, c.f 96 17, c.core, c.f 32 56, none, 0, 0⟩] }).setEcmd { c with step := 1 }))) ∧
  (∀ (t : State) (c : ECmd), c.work.stops = false ∨ c.step ≠ 0 → t.eStop c = t.setEcmd c) ∧
  (∀ (d : ECmd) (j phase : Nat),
    (d.rowEnter j phase).work.idx = d.work.idx.erase (4 * j + phase) ++ [2 ^ 20 + 4 * j + phase] ∧
    (d.rowEnter j phase).work.srcs = d.work.srcs ++
      grainsAt (.B (if d.f 20 1 = 1 then .A else .X)) (256 * (d.f 0 11 + j)) 256 (rowPos j) units4 ++
      (if phase = 1 then []
       else grainsAt (.S d.core) (d.f 32 18 + 8 * j + (if phase = 2 then 0 else 4)) 4 (rowPos j + 512) granules)) ∧
  (∀ (w : Work) (j phase : Nat), 1 ≤ phase → phase ≤ 3 → j < 64 →
    (w.rowReady (4 * j + phase) = true ↔
      (∀ g ∈ w.dsts, g.pos / 1024 ≠ j) ∧ ∀ g ∈ w.srcs, g.pos / 1024 ≠ 2 ^ 20 + j) ∧
    w.rowReady (2 ^ 20 + 4 * j + phase) = w.rowReady (4 * j + phase)) ∧
  (∀ (d : ECmd) (j phase : Nat) (row stat : List Byte) (x : Row) (n : Nat), d.work.data (rowPos j) 256 = some row →
    d.work.data (rowPos j + 512) 4 = some stat ∨ phase = 1 ∧ stat = [] ∧ d.work.data (rowPos j + 512) 4 = none →
    rowOfBytes row = x → leNat stat = n →
    (d.rowOn j phase).work.dsts =
      d.work.dsts ++ (d.rowPhase j phase x n).flatMap (fun o => grainsAt o.1 o.2.1 o.2.2.2.length o.2.2.1 o.1.cut)) ∧
  (∀ (c : ECmd) (j : Nat) (x : Row) (stat : Nat) (b : Space), b = .B (if c.f 20 1 = 1 then .A else .X) →
    c.rowPhase j 1 x stat = [(.S c.core, c.f 32 18 + 8 * j, 1024 * j + 512, leBytes 4 (rowMax (rowWide (c.f 18 2) x)))] ∧
    (∀ es sum, rowExp stat (rowWide (c.f 18 2) x) = (es, sum) → c.rowPhase j 2 x stat =
      [(b, 256 * (c.f 0 11 + j), 1024 * j, (List.range 256).map (rowByte (rowSet (c.f 18 2) x
         (es.map (fun e => ((rowFmt (c.f 18 2)).round .rne false (fmt32.decode e)).1))))),
       (.S c.core, c.f 32 18 + 8 * j + 4, 1024 * j + 516, leBytes 4 sum)]) ∧
    c.rowPhase j 3 x stat =
      [(b, 256 * (c.f 0 11 + j), 1024 * j,
        (List.range 256).map (rowByte (rowSet (c.f 18 2) x (rowQuot (c.f 18 2) stat (rowWide (c.f 18 2) x)))))]) ∧
  (∀ (m : Nat) (xs : List Nat),
    ((∃ x ∈ xs, (fmt32.decode x).isNan = true) → rowMax xs = fmt32.nan) ∧
    ((fmt32.decode m).isNan = true ∨ fmt32.decode m = .inf false →
      rowExp m xs = (xs.map (fun _ => fmt32.nan), fmt32.nan)) ∧
    (fmt32.decode m = .inf true → rowExp m xs = (xs.map (fun _ => 0), 0)) ∧
    ((fmt32.decode m).isNan = false → (∀ b, fmt32.decode m ≠ .inf b) → ∃ es, rowExp m xs =
        (es, es.foldl (fun s e => (FOp.add.run fmt32 .rne s e 0).1) 0) ∧ es.length = xs.length ∧
      ∀ i, i < xs.length →
        es.getD i 0 = (specialRun .exp false 0 (FOp.sub.run fmt32 .rne (xs.getD i 0) m 0).1).1)) ∧
  (∀ (ty s : Nat) (es : List Nat), (rowQuot ty s es).length = es.length ∧ ∀ i, i < es.length →
    (rowQuot ty s es).getD i 0 = if (fmt32.decode s).isZero then 0
      else ((rowFmt ty).round .rne false ((fmt32.decode (es.getD i 0)).div (fmt32.decode s)).1).1) ∧
  (∀ (c : ECmd) (w : Work) (a b : Nat), a < c.f 64 8 → b < c.f 64 8 →
    c.turnedBytes w ((b * c.f 64 8 + a) * 2 ^ c.f 72 2) (2 ^ c.f 72 2) =
      w.data ((a * c.f 64 8 + b) * 2 ^ c.f 72 2) (2 ^ c.f 72 2)) ∧
  (∀ xs : List (Nat × Nat), (selSort xs).Perm xs ∧ (xs.Pairwise (fun a b => a.2 < b.2) →
    (selSort xs).Pairwise (fun a b => selAbove b.1 a.1 = false ∧ (selAbove a.1 b.1 = true ∨ a.2 < b.2)))) ∧
  (∀ a b : Nat,
    ((fmt32.decode a).isNan = true → selAbove a b = false) ∧
    ((fmt32.decode a).isNan = false → (fmt32.decode b).isNan = true → selAbove a b = true) ∧
    ((fmt32.decode a).isNan = false → (fmt32.decode b).isNan = false →
      selAbove a b = (fmt32.decode b).lt (fmt32.decode a))) ∧
  (∀ (c : ECmd) (d : List Byte) (xs ms : List Nat), (wordsOf d).take (c.f 128 13) = xs → (wordsOf d).drop (c.f 128 13) = ms →
    (c.cmd = 0 → ∀ top, (selSort (xs.zip (List.range xs.length))).take (c.f 160 7) = top →
      c.selected d = [(c.f 32 18, top.map (fun (e : Nat × Nat) => e.1)), (c.f 64 18, top.map (fun (e : Nat × Nat) => e.2))]) ∧
    (c.cmd ≠ 0 → ∀ ys, ((xs.zip ms).filter (fun (e : Nat × Nat) => e.2 != 0)).map (fun (e : Nat × Nat) => e.1) = ys →
      c.selected d = [(c.f 32 18, ys), (c.f 64 18, [ys.length])])) ∧
  (∀ xs : List Contrib, (byRank xs).Perm xs ∧ (byRank xs).Pairwise (fun a b => a.task ≤ b.task)) ∧
  (∀ (tick i : Nat) (w : List Grain), ((chosen tick w i).1 ++ (chosen tick w i).2).Perm w)

/-- Engine commands release, deliver and leave their slots; engines wake, hold, are leased and are recalled. A started
command's occupancy ends (its slot free from the next C-cycle on); its released event (KS incremented by IS) and
delivered event (KD incremented by ID) come then or later (R371), when its source has been read and when it has
performed; a net.post releases at once. A fault in service parks the core that issued it. ENGINE_WAKE_DONE makes a
waking engine awake and starts its commands; once in a lap, before the requests of its C-cycle, a hold goes to the
next marked core and moves the pointer past it; a hold that has lasted a lap frees its slot and clears the core's
marks of the class. A standing lease is granted or refused with a code in LSE_CRES, ends, and a recall of an awake
engine ends every lease and undelivered command on it. After a recall no command of the engine occupies a slot or
awaits completion. A pool cap up to 4,000 LU is stored, a higher one sets BADW, and engines are recalled until usage
fits; of two engines of one group and grant time the lower identity goes first, which is the model's choice (log entry
63). What a narrow delivery scope leaves out is the model's reading (log entry 57). (R94, R106, R110, R113, R114,
R115, R116, R118, R307, R328, R330, R371.) -/
def Obligations.EnginesServeAndSleep : Prop :=
  (∀ (s : State) (k : Nat) (c : ECmd), s.ecmd k = some c → c.started = true →
    (c.releases = true → c.released = false → c.dead = false → c.sourceRead = true →
      (c.passed = true ∨ c.cls = 5 ∧ c.cmd = 2) → (s.core c.core).mayComplete s.clock (hdrIs c.hdr) = true → exec (.engineReleasedEvent k) s = .next
      ((s.setEcmd { c with released := true }).completed c.core (eThread k) 1 16 (hdrScope c.hdr) (hdrKs c.hdr) (hdrIs c.hdr)
        ({ c with released := true }.record .counterOverflow 0 0))) ∧
    (c.delivered = false → c.dead = false → (c.released = true ∨ c.releases = false) → c.passed = true →
      s.eArrived c = true → ¬ (c.cls = 5 ∧ c.cmd = 2) → (s.core c.core).mayComplete s.clock (hdrId c.hdr) = true →
      exec (.engineDeliveredEvent k) s = .next
        ((s.setEcmd { c with delivered := true }).completed c.core (eThread k) 3 16 (hdrScope c.hdr) (hdrKd c.hdr) (hdrId c.hdr)
          ({ c with delivered := true }.record .counterOverflow 0 0))) ∧
    (c.delivered = false → c.dead = false → c.released = true → c.passed = true → s.eArrived c = true → c.cls = 5 → c.cmd = 2 →
      (s.core c.core).mayComplete s.clock (hdrId c.hdr) = true → ∀ u, (s.setEcmd { c with delivered := true }).ue (c.f 0 24) = u →
      exec (.engineDeliveredEvent k) s = .next
        (((s.setEcmd { c with delivered := true }).setUe (c.f 0 24) { u with posts := u.posts.filter (fun p => p.cmd != c.id) }).completed
          c.core (eThread k) 3 16 (hdrScope c.hdr) (hdrKd c.hdr) (hdrId c.hdr)
          ({ c with delivered := true }.record .counterOverflow 0 0))) ∧
    (c.delivered = false → c.passed = false → exec (.engineDeliveredEvent k) s = .next s) ∧
    (c.delivered = true → ∀ t w, s.landSome (s.eServer c) c.work = (t, w) →
      exec (.engineDeliveredEvent k) s = .next ((t.setEcmd { c with work := w }).flushAt c.core)) ∧
    (c.occupying = true → exec (.engineOccupancyEnd k) s = .next (s.setEcmd { c with ending := true })) ∧
    (∀ t m cause a, c.cls ≠ 1 → s.servable c c.cls c.cmd = true → s.serviceFault c = some (t, m, cause, a) →
      (t.core c.core).st = .running → ∃ u, exec (.engineServiceFault k) s = .next u ∧ (u.core c.core).st = .parked ∧
        (u.core c.core).causes = (t.core c.core).causes ++ [m.record cause a m.work.mask])) ∧
  (∀ (s : State) (e : Nat), (s.engine e).wake = .waking → ∃ t, exec (.engineWakeDone e) s = .next t ∧
    (t.engine e).wake = .awake ∧ (t.engine e).leases = (s.engine e).leases ∧ ∀ c ∈ t.ecmds, c.eng = e → c.started = true) ∧
  (∀ (s : State) (e v : Nat), engExists e = true → (s.engine e).wake = .awake → (s.engine e).heldLap ≠ s.slot / 512 + 1 →
    1 ≤ s.freeSlots e → s.engFresh e = true →
    nextMarked (domBase e) (domSize e) (s.engine e).ptr (s.engine e).marked = some v →
    exec (.holdCreate e) s = .next (s.setEngine e { s.engine e with
      ptr := (v - domBase e + 1) % domSize e, holds := (s.engine e).holds ++ [⟨v, s.slot⟩],
      heldLap := s.slot / 512 + 1 })) ∧
  (∀ (s : State) (e : Nat) (h : Hold) (r : List Hold), (s.engine e).holds = h :: r → exec (.holdLapse e) s = .next
    (if h.made + 512 ≤ s.slot then (s.setEngine e { s.engine e with holds := r }).clearMarks h.core (engCls e) else s)) ∧
  (∀ (s : State) (e p : Nat), s.barOpen = true →
    (e / 2 ^ 16 ≠ 0 ∨ 6 ≤ engCls e → exec (.standingLeaseGrant e p) s = .next (s.setReg lseCres 13)) ∧
    (engExists e = true → clsComb (engCls e) = false → s.owner (engCluster e) = some p → s.changing (engCluster e) = false →
      (s.engine e).leases.contains (.standing p) = false → engCls e < 6 → exec (.standingLeaseGrant e p) s = .next
        ((s.grantLease p (.standing p) e).1.setReg lseCres (BitVec.ofNat 64 (8 + (s.grantLease p (.standing p) e).2)))) ∧
    exec (.standingLeaseEnd e p) s = .next (s.endLease (.standing p) e) ∧
    (s.engFresh e = true → exec (.engineRecall e) s = .next (s.recall e))) ∧
  (∀ (s : State) (e : Nat), (s.engine e).wake ≠ .asleep → s.engines.sorted = true →
    ((s.recall e).engine e).leases = [] ∧ ((s.recall e).engine e).wake = .asleep ∧
    ∀ c ∈ (s.recall e).ecmds, c.eng = e → c.delivered = true ∧ c.occupying = false) ∧
  (∀ (s : State) (x : BitVec 64), s.barOpen = true → s.capTurn = true →
    (x.toNat ≤ 4000 →
      exec (.lsePccapWrite x) s = .next (State.fitPool (s.engines.length + 1) (s.setReg lsePccap x)) ∧
      exec (.lseSwcapWrite x) s = .next (State.fitPool (s.engines.length + 1) (s.setReg lseSwcap x))) ∧
    (4000 < x.toNat → exec (.lsePccapWrite x) s = .next (s.orReg lseEvt 2) ∧
      exec (.lseSwcapWrite x) s = .next (s.orReg lseEvt 2)))

/-- Nodes are allocated, age, are placed as gangs, and complete; successors and packets reach their nodes.
ARENA_ALLOCATE gives a node that nothing holds back its arenas as a whole, or fails its job with cause 16 when no slot
can become free; ARENA_ZERO_FILL_DONE lets it leave Allocating; AGEING_INTERVAL adds one interval to a node that
waits. GANG_PLACE, once every task that named the node has completed, starts the whole gang on free cores in rising
order, or leaves everything; each core then runs the task of its index. TASK_COMPLETION drains an exiting core, hands
its successors over with the node's arena set, and completes the task when they have been applied; a placed task with
nothing to issue first begins to exit (log entry 54). When the last task of a node of one gang has completed, its
cores are idle and the node completes: its hold on arenas and its leases end, its entry goes, and its job's count
falls by 1 (R27). TASK_OVERRUN parks a task that has run for its budget. SUCCESSOR_APPLY, ENQUEUE_PACKET
(acknowledged), ENQUEUE_ACK (1 off the count), READY_PACKET and GANG_COMPLETE_REPORT apply what they carry, in the
order in which a package sent it for a partition. ARENA_SLOT_RESET returns every slot of a partition without nodes to
generation 0, and otherwise sets REJ. Which free cores and pages are chosen is left open (log entries 5 and 11); a
shape with more gangs than packages fails as too large, and a package past them runs no task of it (log entry 52). The
instance of a node that spans packages, the order of applying and completing, the slots of a budget, and the operands
of the events are the model's readings (log entries 28, 29, 33 and 46). (R17, R21, R22, R25, R26, R27, R28, R29, R281,
R286, R288, R289.) -/
def Obligations.NodesBecomeTasksAndComplete : Prop :=
  (∀ (s : State) (n : Nat) (x : Node), s.nodeAt n = some x →
    (x.st = .allocating → x.arenas = [] → s.heldBack n x = false →
      (s.slotsFree x = false → (∀ k < 64, (s.arenaSlot x.part k).live = false) →
        exec (.arenaAllocate n) s = .next (s.failJob x.part x.job 16 n)) ∧
      (s.slotsFree x = true → ∀ y, (State.birth x.part n (recArenas x.record) s).nodeAt n = some y →
        exec (.arenaAllocate n) s = .next (if s.pagesFree x then
          (State.birth x.part n (recArenas x.record) s).setNode n
            { y with arenas := y.arenas ++ x.passed.filter (fun h => !y.arenas.contains h)
                     st := if y.zeroing.isEmpty then .placing else .allocating }
          else s))) ∧
    (x.st = .allocating → x.zeroing ≠ [] → exec (.arenaZeroFillDone n) s = .next
      ((x.zeroing.foldl (fun s h => s.zeroArena x.part h) s).setNode n { x with st := .placing, zeroing := [] })) ∧
    (x.st ∈ [.ready, .allocating, .placing] →
      exec (.ageingInterval n) s = .next (s.setNode n { x with age := x.age + 1 }))) ∧
  (∀ (s : State) (n : Nat) (x : Node), s.nodeAt n = some x → x.st = .placing → x.after = [] → s.places x.part = true →
    s.placeHeld n x = false →
    (spansPackages x.record = true → recGangs x.record ≤ s.pkgIndex x.part →
      exec (.gangPlace n) s = .next ((s.setNode n { x with st := .running }).gangDone n)) ∧
    (spansPackages x.record = false ∨ s.pkgIndex x.part < recGangs x.record → exec (.gangPlace n) s = .next
      (if (Config.place s.tick).all (s.freeCore x.part) ∧ validPlace (gangLevels x.record) (Config.place s.tick) then
        s.startGang n x (Config.place s.tick) else s))) ∧
  (∀ (s : State) (p lrec : Nat) (passed : List Nat) (r : Rec), recF r 0 48 16 = 0x5356 → recF r 0 40 8 = 1 →
    recFieldsOk r = true → lrec % 64 = 0 → shapeOk (recLevels r) (s.pkgs p).length = true →
    (BitVec.ofNat 64 (recFeat r) &&& ~~~(s.reg schFeat)) = 0 → max 1 (s.pkgs p).length < recGangs r →
    s.recCheck p lrec passed r = 6) ∧
  (∀ (ls cs : List Nat), validPlace ls cs = true → cs.length = prodCounts ls ∧ cs.Pairwise (· < ·)) ∧
  (∀ (s : State) (n : Nat) (x : Node) (cs : List Nat) (j v : Nat), cs.Nodup → cs[j]? = some v →
    ∃ t, ((s.startGang n x cs).core v).task = some t ∧ t.node = n ∧ t.part = x.part ∧ t.rank = j ∧ t.gang = cs ∧
      t.idx.length = max 8 (recLevels x.record).length ∧
      (spansPackages x.record = false → t.taskid = j ∧ t.idx.take (recLevels x.record).length =
        indicesOf (recLevels x.record) j)) ∧
  (∀ (ws : List Nat) (t : Nat), t < prodCounts ws →
    ((indicesOf ws t).zip ws).foldl (fun a e => a * levCount e.2 + e.1) 0 = t) ∧
  (∀ (s : State) (v : Nat) (t : Task), (s.core v).st = .exiting → (s.core v).task = some t →
    ((s.core v).exitStep ≤ 2 → (s.core v).allEnded = true →
      (s.exitDrained v = false → exec (.taskCompletion v) s = .next (s.setCore v { s.core v with exitStep := 2 })) ∧
      (s.exitDrained v = true → ∀ x, s.nodeAt t.node = some x →
        ((s.core v).succ = [] → exec (.taskCompletion v) s =
          .next ((s.setCore v { s.core v with exitStep := 3 }).finishTask v)) ∧
        ((s.core v).succ ≠ [] → ∃ u, exec (.taskCompletion v) s = .next u ∧ (u.core v).exitStep = 3 ∧
          u.succs.map (·.block) = s.succs.map (·.block) ++ (s.core v).succ ∧
          ∀ b ∈ u.succs, b ∈ s.succs ∨ (b.core = some v ∧ b.set = x.arenas ∧ b.job = x.job ∧ b.part = t.part)))) ∧
    ((s.core v).exitStep = 3 → s.succs.any (fun b => b.core == some v) = false →
      exec (.taskCompletion v) s = .next (s.finishTask v))) ∧
  (∀ (s : State) (v : Nat) (t : Task) (x : Node), (s.core v).task = some t → s.nodeAt t.node = some x →
    x.done.length + 1 < x.cores.length → (s.finishTask v).nodeAt t.node =
      some { x with done := x.done ++ [v], after := x.after.filter (· != v) } ∧
      ((s.finishTask v).core v).st = .complete ∧ ((s.finishTask v).core v).task = none) ∧
  (∀ (s : State) (v : Nat) (t : Task) (x : Node), (s.core v).task = some t → s.nodeAt t.node = some x →
    x.done.length + 1 = x.cores.length → x.home = true → x.packages ≤ 1 → s.nodes.sorted = true →
    (s.finishTask v).nodeAt t.node = none ∧ ∀ w ∈ x.cores, ((s.finishTask v).core w).st = .idle) ∧
  (∀ (s : State) (n : Nat) (x : Node), s.nodeAt n = some x → s.nodes.sorted = true → s.engines.sorted = true →
    s.jobs.sorted = true → s.arenas.sorted = true →
    (s.nodeComplete n).nodeAt n = none ∧ (∀ e, ((s.nodeComplete n).engine e).leases.contains (.node n) = false) ∧
    ((s.nodeComplete n).jobAt x.part x.job).count = (s.jobAt x.part x.job).count - 1 ∧
    ∀ k, k < 64 → ((s.nodeComplete n).arenaSlot x.part k).live = true →
      ((s.nodeComplete n).arenaSlot x.part k).holders.contains n = false) ∧
  (∀ (s : State) (v : Nat) (t : Task), (s.core v).task = some t → (s.core v).st = .running →
    t.had + 1000 * t.budget ≤ (s.core v).used t s.slot → exec (.taskOverrun v) s = .next
      (s.setCore v ({ s.core v with task := some { t with had := (s.core v).used t s.slot } }.park s.now
        { cause := .overrun, orig := 7 }))) ∧
  (∀ (s : State) (k : Nat) (e : Nat × Nat × Msg), s.taken k = some e → s.inbox[k]? = some e ∧
    ∀ x ∈ s.inbox.take k, x.1 ≠ e.1 ∨ x.2.1 ≠ e.2.1) ∧
  (∀ (s : State) (v : Nat), (s.core v).nothing = true → exec (.taskCompletion v) s =
    exec (.taskCompletion v) (s.setCore v ((s.core v).start s.now))) ∧
  (∀ (s : State) (k : Nat) (b : Succ), s.succs[k]? = some b → exec (.successorApply k) s = .next
    ({ s with succs := s.succs.filter (fun x => x.seq != b.seq) }.applySucc b)) ∧
  (∀ (s : State) (b : Succ), ((s.jobAt b.part b.job).failed = true → s.applySucc b = s) ∧
    ((s.jobAt b.part b.job).failed = false → blkCheck b.block b.set = 0 → ∀ t, s.listRead b.part = t →
      (t.homePkg b.part (blkKey b.block) = t.self →
        s.applySucc b = t.applyHere b.part b.job b.comb b.block t.self b.core) ∧
      (∀ h, t.homePkg b.part (blkKey b.block) = h → h ≠ t.self →
        s.applySucc b = (t.countSent b.part b.job).relaySend h b.part (.enqueue b.job b.block)))) ∧
  (∀ (s : State) (k q p j : Nat) (b : BitVec 256), s.taken k = some (q, p, .enqueue j b) →
    exec (.enqueuePacket k) s = .next ((if ((s.dropMsg k).jobAt p j).failed then s.dropMsg k
      else (s.dropMsg k).applyHere p j 0 b q none).relaySend q p (.enqueueAck j))) ∧
  (∀ (s : State) (k q p j : Nat), s.taken k = some (q, p, .enqueueAck j) →
    exec (.enqueueAck k) s = .next (((s.dropMsg k).setJob p j
      { s.jobAt p j with sent := (s.jobAt p j).sent - 1 }).checkZero p j)) ∧
  (∀ (s : State) (k q p j r i n : Nat), s.taken k = some (q, p, .ready j r i) →
    (s.dropMsg k).newEntry 0 = some n → s.rangeChanging p = false → exec (.readyPacket k) s = .next
      (((((s.dropMsg k).setNode n { Node.fresh p j r 0 1 i q 0 false with left := 0 }).countNode p j).makeReady n).relaySend
        q p (.enqueueAck j))) ∧
  (∀ (s : State) (k q p j i : Nat), s.taken k = some (q, p, .gangComplete j i) →
    (∀ n x, s.nodes.find? (fun e => e.2.part == p && e.2.job == j && e.2.inst == i) = some (n, x) →
      exec (.gangCompleteReport k) s = .next (if x.home then (s.dropMsg k).gangReport n else (s.dropMsg k).nodeComplete n)) ∧
    (s.nodes.find? (fun e => e.2.part == p && e.2.job == j && e.2.inst == i) = none →
      exec (.gangCompleteReport k) s = .next (s.dropMsg k))) ∧
  (∀ (s : State) (p : Nat), s.barOpen = true → p < 32 →
    exec (.arenaSlotReset p) s = .next (if s.nodes.any (fun e => e.2.part == p) then s.orReg (schArst p) 2
      else { s with arenas := s.arenas.filter (fun e => e.1 / 64 != p) })) ∧
  (∀ (s : State) (p k : Nat), k < 64 → s.barOpen = true → p < 32 → s.nodes.any (fun e => e.2.part == p) = false →
    s.arenas.sorted = true → ∃ u, exec (.arenaSlotReset p) s = .next u ∧ u.arenaSlot p k = Arena.none)

/-- Notifies, queue slots, DONE writes, the failure log and pre-emption act as their rules say. NOTIFY discards a bad
value with BADNTF, makes a bound slot read TAIL, and otherwise sets the queue's pending bit. QUEUE_CONSUME makes a due
DONE write (F and HEAD), ends a binding once HEAD has been written, serves a pending bit, reads TAIL (and HEAD once),
consumes the entry at HEAD as one node creation, or writes HEAD after the last; a read that fails sets ERR, skips
nothing, and stops the slot until QUEUE_ERR_CLEAR. QUEUE_BIND binds a free slot, reserved bits ignored, and takes over
the pending bit; a queue that another slot serves, or a value out of range, sets BADW; PRE = 1 refuses an unbind with
BUSY, and V stays 1 while the write of HEAD fails. A slot that leaves its queue takes the value written, and a notify
that it has yet to serve sets the pending bit. FLOG_READ reports and removes the oldest entry. PREEMPT_REQUEST stops
placement and sets DONE once every core is idle or parked; PREEMPT_RESUME lets placement go on. A job whose count
reaches 0 writes DONE in each of its slots. (When the counts of other packages are 0 is left open: log entry 5.) When
HEAD is read, how a binding ends, how a failure stays on its package, and what clears DONE are the model's readings
(log entries 30, 31 and 32). (R30, R283, R284, R285, R291, R293, R340.) -/
def Obligations.HostQueuesAndPreemption : Prop :=
  (∀ (s : State) (p i : Nat), s.barOpen = true → p < 32 →
    (128 ≤ i → exec (.notify p i) s = .next (s.orReg schEvt 0x20)) ∧
    (i < 128 → (∀ k, s.boundSlot (128 * p + i) = some k →
        exec (.notify p i) s = .next (s.setQslot k { s.qslot k with due := true })) ∧
      (s.boundSlot (128 * p + i) = none → exec (.notify p i) s =
        .next ((s.setRegF (pendReg (128 * p + i)) ((128 * p + i) % 64) 1 1).orReg schEvt 1)))) ∧
  (∀ (s : State) (i : Nat), s.qValid i = true → Tab.get Tdi.unlocked s.tdi (s.qPart i) ≠ Tdi.error →
    ((s.qslot i).doneDue = true → s.others (s.qPart i) = [] →
      exec (.queueConsume i) s = .next (s.writeDone i)) ∧
    ((s.qslot i).doneDue = false →
      (∀ x, (s.qslot i).leaving = some x → exec (.queueConsume i) s = .next (s.unbindOn i x)) ∧
      ((s.qslot i).leaving = none → s.pending (s.qid i) = true → exec (.queueConsume i) s = .next (s.servePending i)) ∧
      ((s.qslot i).leaving = none → s.pending (s.qid i) = false →
        ((s.qErr i = true ∨ (s.jobAt (s.qPart i) (s.qJob i)).failed = true) → exec (.queueConsume i) s = .next s) ∧
        (s.qErr i = false → (s.jobAt (s.qPart i) (s.qJob i)).failed = false →
          ((s.qslot i).due = true → exec (.queueConsume i) s = .next (s.readHeader i)) ∧
          ((s.qslot i).due = false → (s.qslot i).known = true → (s.qslot i).head ≠ (s.qslot i).tail →
            exec (.queueConsume i) s = .next (s.consume i)) ∧
          ((s.qslot i).due = false → (s.qslot i).head = (s.qslot i).tail → (s.qslot i).headDue = true →
            exec (.queueConsume i) s = .next (s.writeHead i)))))) ∧
  (∀ (s t : State) (i : Nat) (bs : List Byte) (c : Cause),
    ((s.qslot i).known = false →
      (s.qRead i 0 8 = .ok t bs → s.learnHead i =
        (t.setQslot i { t.qslot i with head := leNat (bs.take 4), known := true }).setRegF (qsStat i) 0 32 (leNat (bs.take 4))) ∧
      (s.qRead i 0 8 = .fault t c → s.learnHead i = t.setErr i)) ∧
    ((s.qslot i).known = true →
      (s.qRead i 8 8 = .ok t bs → s.readHeader i = t.setQslot i { t.qslot i with tail := leNat (bs.take 4), due := false }) ∧
      (s.qRead i 8 8 = .fault t c → s.readHeader i = t.setErr i)) ∧
    (s.qRead i (64 + 32 * ((s.qslot i).head % 2 ^ s.regF (qsCfg i) 12 5)) 32 = .fault t c → s.consume i = t.setErr i) ∧
    (s.qRead i (64 + 32 * ((s.qslot i).head % 2 ^ s.regF (qsCfg i) 12 5)) 32 = .ok t bs →
      s.consume i = ((t.setQslot i { t.qslot i with head := ((t.qslot i).head + 1) % 2 ^ 32, headDue := true }).setRegF
        (qsStat i) 0 32 (((t.qslot i).head + 1) % 2 ^ 32)).applySucc
        ⟨t.qJob i, t.qPart i, BitVec.ofNat 256 (leNat bs), [], 0, none, 0⟩) ∧
    ((s.qslot i).known = true →
      s.qWrite i 16 (leBytes 8 ((if (s.qslot i).failedSince then 2 ^ 63 else 0) + (s.qslot i).head % 2 ^ 32)) = .ok t bs →
      t.qslots.sorted = true → ((s.writeDone i).qslot i).failedSince = false ∧ ((s.writeDone i).qslot i).doneDue = false)) ∧
  (∀ (s : State) (i : Nat) (x : BitVec 64), s.barOpen = true →
    (cfgOk (x &&& cfgMask).toNat = false ∨ (∃ k, s.boundSlot (fld (x &&& cfgMask).toNat 0 12) = some k ∧ k ≠ i) →
      exec (.queueBind i x) s = .next (s.orReg schEvt 0x40)) ∧
    (i < 256 → cfgOk (x &&& cfgMask).toNat = true → fld (x &&& cfgMask).toNat 23 1 = 1 →
      s.boundSlot (fld (x &&& cfgMask).toNat 0 12) = none →
      (s.qValid i = false → exec (.queueBind i x) s = .next (s.bindSlot i (x &&& cfgMask))) ∧
      (s.qValid i = true → s.qid i ≠ fld (x &&& cfgMask).toNat 0 12 → s.regF (qsCfg i) 22 1 = 0 →
        exec (.queueBind i x) s = .next (s.unbind i (x &&& cfgMask)))) ∧
    (Tab.get Tdi.unlocked s.tdi (fld x.toNat 0 12 / 128) ≠ Tdi.error →
      (s.setReg (qsCfg i) x).pending (fld x.toNat 0 12) = true → s.bindSlot i x =
        ((s.setReg (qsCfg i) x).setQslot i { QSlot.empty with
          failedSince := (s.jobAt (fld x.toNat 0 12 / 128) (fld x.toNat 24 16)).failed
          due := true }).setRegF (pendReg (fld x.toNat 0 12)) (fld x.toNat 0 12 % 64) 1 0) ∧
    (s.qValid i = true → (s.regF (qsCfg i) 22 1 = 1 → exec (.queueUnbind i) s = .next (s.orReg schEvt 0x10)) ∧
      (s.regF (qsCfg i) 22 1 ≠ 1 → exec (.queueUnbind i) s = .next (s.unbind i (s.reg (qsCfg i) &&& ~~~0x800000)))) ∧
    exec (.queueErrClear i) s = .next (s.setRegF (qsStat i) 32 1 0)) ∧
  (∀ (s t : State) (i : Nat) (x : BitVec 64), s.qslots.sorted = true → (s.qslot i).headDue = false → fld x.toNat 23 1 = 0 →
    ((s.setQslot i { s.qslot i with leaving := some x }).setRegF (qsCfg i) 23 1 0).setQslot i QSlot.empty = t →
    ((s.qslot i).due = false → s.unbind i x = t.setReg (qsCfg i) x) ∧
    ((s.qslot i).due = true → s.unbind i x =
      ((t.setRegF (pendReg (s.qid i)) (s.qid i % 64) 1 1).orReg schEvt 1).setReg (qsCfg i) x)) ∧
  (∀ (s t : State) (i : Nat) (x : BitVec 64) (bs : List Byte), (s.qslot i).headDue = true → s.qErr i = false →
    s.qWrite i 0 (leBytes 8 (s.qslot i).head) = .ok t bs → t.qslots.sorted = true →
    s.unbindOn i x = (t.setQslot i { t.qslot i with headDue := false }).leaveQueue i x) ∧
  (∀ (s t : State) (i : Nat) (x : BitVec 64) (c : Cause), (s.qslot i).headDue = true → s.qErr i = false →
    s.qWrite i 0 (leBytes 8 (s.qslot i).head) = .fault t c → (t.qslot i).headDue = true → s.unbindOn i x = t.setErr i) ∧
  (∀ s : State, s.barOpen = true → ∃ t, exec .flogRead s = .next t ∧ t.flog = s.flog.drop 1 ∧
    t.out = .report 0x0018 ((s.flog.head?.map (·.toNat)).getD 0) :: s.out) ∧
  (∀ (s : State) (p : Nat), s.barOpen = true → p < 32 →
    exec (.preemptRequest p) s = .next ((s.setReg (schPre p) 1).preCheck p) ∧
    exec (.preemptResume p) s = .next (s.setReg (schPre p) 0)) ∧
  (∀ (s : State) (p : Nat), (s.regF (schPre p) 0 1 = 1 → s.places p = false) ∧
    (s.regF (schPre p) 0 2 = 1 → (∀ v ∈ s.ownCores p, (s.core v).st = .idle ∨ (s.core v).st = .parked) →
      s.preCheck p = (s.setRegF (schPre p) 1 1 1).orReg schEvt 8) ∧
    (s.regF (schPre p) 0 2 = 1 → (∃ v ∈ s.ownCores p, (s.core v).st = .running) → s.preCheck p = s)) ∧
  (∀ (s : State) (p j : Nat), ((s.jobAt p j).count ≠ 0 → s.checkZero p j = s) ∧
    ((s.jobAt p j).count = 0 → (s.jobAt p j).sent = 0 → s.others p = [] →
      s.checkZero p j = (s.slotsOf p j).foldl State.writeDone s)) ∧
  (∀ (s : State) (p j c n : Nat), s.jobs.sorted = true → (s.jobAt p j).count ≠ 0 → p < 32 → j < 65536 →
    ((s.logFail p j c n).setJob p j { s.jobAt p j with failed := true }).jobAt p j =
      { s.jobAt p j with failed := true } ∧
    (s.flog.length < 64 → c < 32 → ∃ w, (s.logFail p j c n).flog = s.flog ++ [w] ∧ fld w.toNat 54 5 = c ∧
      fld w.toNat 59 5 = p ∧ fld w.toNat 32 16 = j) ∧
    (64 ≤ s.flog.length → (s.logFail p j c n).flog = s.flog))

/-- A parked core writes its frame and record, and resumes, is abandoned, or enters its handler by its route.
CORE_PARK of a parked core that has settled writes its frame, then posts the fault record and, on the handler route,
enters the handler as by a call; a frame write that faults is held with FWF. V's stores that wait behind a fault enter
the side log first (log entry 50). The cause records stand in rank order, the lowest first (R19). FAULT_RECORD_WRITE
writes the oldest record at the ring's tail and signals the interrupt, or leaves it waiting with QFULL; a write of
FLT_P_QBASE or FLT_P_QCFG tries it again. CORE_RESUME reloads the images, and the core returns to the state before
parking, or goes on in the handler that a fault has stopped; a frame that is held or yet to be written is not loaded,
and one that cannot be read sets BADC; CORE_ABANDON completes the task with the node failed (cause 13); FRAME_REWRITE
writes the frame again; each sets BADC for a core that is not parked with a task of the partition. A further cause
rewrites the header, the cause records and the entries and masks of the L commands. AUTO_RESUME resumes a core on the
automatic route once every page it waits on is answered, with a record of KIND 2. A frame has 4,096 bytes, with s from
0x2C0; an unedited stream image changes nothing. The open areas of a frame, further faults in a handler, what counts
as an unedited image, which cores a command may act on, the ring's indices, and when a core resumes by itself are the
model's readings (log entries 12, 17, 18, 34, 35 and 36). (R18, R19, R271, R303, R304, R305, R306, R313, R372.) -/
def Obligations.ParkedCoresWriteFramesAndResume : Prop :=
  (∀ (s : State) (v : Nat), (s.core v).unsettled = true → s.quiet v = true →
    let s0 := (s.clearAllMarks v).logHeld v (match (s.core v).ranked with | r :: _ => r.cause | [] => .illegal)
    ((s.core v).framed = false ∨ (s.core v).inHandler = true → ∀ t,
      (s0.writeFrame (s.partOf v) v = (t, true) →
        exec (.corePark v) s = .next ((t.framed v true).preCheck (s.partOf v))) ∧
      (s0.writeFrame (s.partOf v) v = (t, false) → exec (.corePark v) s = .next
        (((t.setCore v { t.core v with frameHeld := true }).orReg (fltEvt (s.partOf v)) 2).preCheck (s.partOf v)))) ∧
    ((s.core v).framed = true → (s.core v).inHandler = false → ∀ t,
      (s0.rewriteFrame (s.partOf v) v = (t, true) →
        exec (.corePark v) s = .next ((t.framed v false).preCheck (s.partOf v))) ∧
      (s0.rewriteFrame (s.partOf v) v = (t, false) → exec (.corePark v) s = .next
        (((t.setCore v { t.core v with frameHeld := true }).orReg (fltEvt (s.partOf v)) 2).preCheck (s.partOf v))))) ∧
  (∀ (s s1 s2 s3 : State) (p v : Nat) (c : Core), s.core v = c →
    s.writeFrameAt p v 0 (c.headerBytes s.clock ++ c.causeBytes) = (s1, true) →
    s1.writeFrameAt p v 0xAD0 (part (c.frame s.clock) 0xAD0 0x130) = (s2, true) →
    s2.writeFrameAt p v 0xC00 (part (c.frame s.clock) 0xC00 0x2D0) = (s3, true) →
    s.rewriteFrame p v = (s3, true)) ∧
  (∀ (s : State) (v : Nat), (s.core v).unsettled = true → s.quiet v = false → exec (.corePark v) s = .next s) ∧
  (∀ (s : State) (v : Nat) (w : Bool), (s.framed v w).fq = s.fq ++
      [s.faultRec v (s.core v).primary 0 (s.core v).routeOf.code (s.core v).primaryAddr] ∧
    ((s.framed v w).core v).framed = true ∧ ((s.framed v w).core v).settled = true ∧
    (w = true → ((s.framed v w).core v).kimg = (s.core v).k) ∧ (w = false → ((s.framed v w).core v).kimg = (s.core v).kimg) ∧
    (∀ t h, (s.core v).routeOf = .handler → (s.core v).task = some t → t.handler = some h →
      ((s.framed v w).core v).inHandler = true ∧ ((s.framed v w).core v).heldW = (s.core v).waitw ∧
      (((s.framed v w).core v).str .C).blk = Block.entering h false true ∧
      ((s.framed v w).core v).ret = ⟨((s.core v).str .C).blk, ((s.core v).str .C).off, true⟩ :: (s.core v).ret)) ∧
  (∀ c : Core, c.causes.length ≤ 16 → c.ranked.Perm c.causes ∧ c.ranked.Pairwise (fun a b => a.cause.code ≤ b.cause.code)) ∧
  (∀ c : Core, (c.inHandler = true → c.routeOf = .software) ∧
    ((∃ r ∈ c.causes, r.cause.route = .software) → c.routeOf = .software) ∧
    (c.inHandler = false → (∀ r ∈ c.causes, r.cause.route = .automatic) → c.routeOf = .automatic) ∧
    (c.inHandler = false → (∀ r ∈ c.causes, r.cause.route ≠ .software) → (∃ r ∈ c.causes, r.cause.route = .handler) →
      (∀ t, c.task = some t → t.handler = none) → c.routeOf = .software)) ∧
  (∀ (c : Core) (clock : Nat), (c.frame clock).length = 4096 ∧
    ∀ i < 32, part (c.frame clock) (0x2C0 + 8 * i) 8 = leBytes 8 (c.getS (BitVec.ofNat 5 i)).toNat) ∧
  (∀ (s : State) (v p : Nat) (c : Core) (st : Stream) (f : List Byte),
    part f (0x240 + 32 * st.ix) 24 = part (c.streamBytes st) 0 24 → s.loadStream v p c st f = c) ∧
  (∀ (s : State) (p : Nat), p < 32 → s.fqStop.contains p = false → exec (.faultRecordWrite p) s = .next (s.writeRecord p)) ∧
  (∀ (s : State) (p : Nat) (r : FaultRec), s.fq.find? (fun r => r.part == p) = some r →
    (s.ringSize p ≤ s.ringUsed p →
      s.writeRecord p = { s with fqStop := p :: s.fqStop }.orReg (fltEvt p) 1 ∧ (s.writeRecord p).fq = s.fq) ∧
    (s.ringUsed p < s.ringSize p → ∀ t bs, s.relWrite p
        (fld (s.reg (fltQbase p)).toNat 6 46 * 64 + 64 * (s.regF (fltQcfg p) 32 16 % 2 ^ s.regF (fltQcfg p) 0 5))
        (fld (s.reg (fltQbase p)).toNat 0 1) (r.words.flatMap (fun w => leBytes 8 w.toNat) ++ List.replicate 32 0) = .ok t bs →
      s.writeRecord p = { t.setRegF (fltQcfg p) 32 16 (s.regF (fltQcfg p) 32 16 + 1) with
        fq := t.fq.erase r
        out := .interrupt p :: t.out })) ∧
  (∀ (s : State) (p : Nat) (x : BitVec 64), s.barOpen = true → p < 32 →
    (fld x.toNat 0 5 < 4 ∨ 16 < fld x.toNat 0 5 → exec (.faultQueueWrite p true x) s = .next (s.orReg (fltEvt p) 8)) ∧
    (4 ≤ fld x.toNat 0 5 → fld x.toNat 0 5 ≤ 16 →
      ∃ t, exec (.faultQueueWrite p true x) s = .next t ∧ t.fqStop = s.fqStop.filter (· != p) ∧ t.fq = s.fq) ∧
    (s.locked p = true → exec (.faultQueueWrite p false x) s = .next (s.orReg hstEvt 2)) ∧
    (s.locked p = false → exec (.faultQueueWrite p false x) s = .next
      { s.setReg (fltQbase p) (x &&& 0x000FFFFFFFFFFFC1) with
        fqStop := s.fqStop.filter (· != p) })) ∧
  (∀ (s : State) (p v : Nat), s.barOpen = true → p < 32 →
    (s.commandable p v = false →
      exec (.coreResume p v) s = .next (s.orReg (fltEvt p) 4) ∧ exec (.coreAbandon p v) s = .next (s.orReg (fltEvt p) 4) ∧
      exec (.frameRewrite p v) s = .next (s.orReg (fltEvt p) 4)) ∧
    (s.commandable p v = true →
      ((s.core v).returning = true → exec (.coreResume p v) s = .next s) ∧
      ((s.core v).returning = false → (s.core v).frameHeld = true ∨ (s.core v).framed = false →
        exec (.coreResume p v) s = .next (s.setCore v ((s.core v).commanded s.now))) ∧
      ((s.core v).returning = false → (s.core v).frameHeld = false → (s.core v).framed = true → ∀ t, s.syncCounters p v = t →
        (∀ f, t.readFrame p v = some f →
          exec (.coreResume p v) s = .next (t.setCore v ((t.loadFrame v p (t.core v) f).commanded t.now))) ∧
        (t.readFrame p v = none → exec (.coreResume p v) s = .next (t.orReg (fltEvt p) 4))) ∧
      (∀ t x, (s.core v).task = some t → (s.dropCommands v).nodeAt t.node = some x → exec (.coreAbandon p v) s = .next
        (((s.dropCommands v).failJob p x.job 13 t.node).finishTask v)) ∧
      (∀ t, (s.writeFrame p v = (t, true) →
          ((s.core v).frameHeld = false → exec (.frameRewrite p v) s = .next (t.setCore v (t.core v).imaged)) ∧
          ((s.core v).frameHeld = true → exec (.frameRewrite p v) s = .next (t.framed v true))) ∧
        (s.writeFrame p v = (t, false) → exec (.frameRewrite p v) s = .next
          ((t.setCore v { t.core v with frameHeld := true }).orReg (fltEvt p) 2))))) ∧
  (∀ (s : State) (p v : Nat), s.commandable p v = true ↔
    (s.core v).st = .parked ∧ (s.core v).task.isSome = true ∧ s.partOf v = p) ∧
  (∀ (now : Now) (c : Core), (c.inHandler = false ∨ c.hstop = false → c.commanded now = c.resume now) ∧
    (c.inHandler = true → c.hstop = true → c.commanded now =
      Core.replayAll now { c with causes := [], settled := true, frameHeld := false, pages := [] })) ∧
  (∀ (s : State) (v p : Nat) (c : Core) (f : List Byte), (s.loadFrame v p c f).sflags =
      BitVec.ofNat 5 (frameN f 0x3C1 1) ||| c.sflate ∧
    (∀ i : Fin 64, (s.loadFrame v p c f).k[i] = BitVec.ofNat 24 (frameN f (0x720 + 4 * i.val) 3)) ∧
    (∀ i : Fin 32, (s.loadFrame v p c f).s[i] = BitVec.ofNat 64 (frameN f (0x2C0 + 8 * i.val) 8))) ∧
  (∀ (s : State) (v : Nat), (s.core v).st = .parked → (s.core v).settled = true → (s.core v).frameHeld = false →
    (s.core v).inHandler = false → (s.core v).routeOf = .automatic → (s.core v).causes ≠ [] →
    (∀ a ∈ (s.core v).pages, ∀ r ∈ s.preq, r.part = s.partOf v → r.page ≠ a) → s.fq = [] →
    exec (.autoResume v) s = .next ((s.post (s.faultRec v (s.core v).primary 2 0 (s.core v).primaryAddr)).setCore v
      ((s.core v).resume s.now)))

/-- Invalidations remove translations; host replies grant, request or refuse pages; fills verify or fail.
TLB_INVALIDATE with GO removes every cached translation of the partition that overlaps the named bytes (host ones
alone when HOST is set), keeps every other, and clears DONE; from a locked interface it sets LOCKW. INVALIDATE_DONE,
once no access still uses a removed translation, sets DONE, or answers the host's own invalidation. ATS_RESPONSE
caches a grant for those that wait, with the lesser of the sizes and the permissions that both give, and those whose
permission it grants go on; for the others a page request is queued and sent below LIMIT, or they are refused while
PRI is off. PAGE_RESPONSE Success sends a fresh translation request, with the function's PASID, while something awaits
it, and makes the page's side-log entries due, or refuses them while ATSEN is 0; Invalid Request refuses the page's
waiters; Response Failure refuses every queued page as well and clears HST_PRI.EN. A refused side-log entry takes
cause 8, which a core that has parked for its page records. PRI_ENABLE is ignored with BADW while requests are
outstanding. TILE_FILL of a tile that verifies makes it resident and serves its bulk prefetches; one that fails is a
cap failure, and nothing of it is allocated. That a tile which cannot be allocated counts as having been resident is
the model's choice (log entry 68). That an access waits for the reply and that what waits on one failed fill is left
open are the model's readings (log entries 20 and 22); so are the TLB of the engines and what makes room in a TLB (log
entry 58). (R75, R77, R82, R299, R300, R301, R302, R313, R334, R342, R343.) -/
def Obligations.TranslationsComeAndGo : Prop :=
  (∀ (s : State) (p : Nat) (x : BitVec 64), s.barOpen = true → p < 32 →
    (s.locked p = true → exec (.tlbInvalidate p x) s = .next (s.orReg hstEvt 2)) ∧
    (s.locked p = false → fld x.toNat 63 1 = 0 → exec (.tlbInvalidate p x) s = .next s) ∧
    (s.locked p = false → fld x.toNat 63 1 = 1 → ∃ t, exec (.tlbInvalidate p x) s = .next t ∧ t.reg (xltInvst p) = 0 ∧
      t.invs = s.invs ++ [(p, false)] ∧ (∀ e ∈ t.tlb, e ∈ s.tlb) ∧
      (fld x.toNat 60 2 = 3 → fld x.toNat 62 1 = 0 → ∀ e ∈ t.tlb, e.part = p → 2 ^ 56 ≤ e.va ∨ e.va + e.size = 0) ∧
      ∀ e ∈ s.tlb, e.part ≠ p → e ∈ t.tlb)) ∧
  (∀ (s : State) (p va n : Nat) (h : Bool) (e : Tlb), e ∈ (s.shoot p va n h).tlb ↔
    e ∈ s.tlb ∧ ¬(e.part = p ∧ (h = true → e.host = true) ∧ e.va < va + n ∧ va < e.va + e.size)) ∧
  (invSize 0 = 65536 ∧ invSize 1 = 2097152 ∧ invSize 2 = 536870912 ∧ invSize 3 = 2 ^ 56) ∧
  (∀ (s : State) (p : Nat) (b : Bool), s.invs.find? (fun e => e.1 == p) = some (p, b) →
    (s.usesOld p = true → exec (.invalidateDone p) s = .next s) ∧
    (s.usesOld p = false →
      (b = true → exec (.invalidateDone p) s =
        .next { s with invs := s.invs.erase (p, true), out := .invalidated p :: s.out }) ∧
      (b = false → (s.invs.erase (p, false)).contains (p, false) = false → exec (.invalidateDone p) s =
        .next ({ s with invs := s.invs.erase (p, false) }.setReg (xltInvst p) 1)))) ∧
  (∀ (s : State) (p a z : Nat), exec (.atsInvalidation p a z) s =
    .next { s.shoot p a z true with invs := (s.shoot p a z true).invs ++ [(p, true)] }) ∧
  (∀ (s : State) (p a : Nat) (r : AtsReply) (q0 : PageReq),
    s.preq.find? (fun q => q.part == p && q.page == a && q.stage == 0) = some q0 →
    let q : PageReq := { q0 with who := q0.who.filter (s.awaits p) }
    (s.leafAt p a = none → exec (.atsResponse p a r) s = .next (s.dropReq p a)) ∧
    ∀ leaf, s.leafAt p a = some leaf →
      let u := if r.present then q.who.foldl (fun s w => s.cacheHost p a r leaf w) s else s
      ((∀ w ∈ q.who, r.present = true ∧ (if w.2.2 then r.write else r.read) = true) →
        exec (.atsResponse p a r) s = .next (u.dropReq p a)) ∧
      ((∃ w ∈ q.who, r.present = false ∨ (if w.2.2 then r.write else r.read) = false) →
        let left := q.who.filter (fun w => !(r.present && (if w.2.2 then r.write else r.read)))
        exec (.atsResponse p a r) s = .next
          (if s.regF (hstPri p) 0 1 = 0 then u.refuseAll { q with who := left }
           else State.sendQueued p (s.preq.length + 1) (u.queueReq { q with who := left })))) ∧
  (∀ (s : State) (p a : Nat) (r : AtsReply) (leaf : Nat × Bool × Bool) (w : Nat × Nat × Bool),
    ∀ e ∈ (s.cacheHost p a r leaf w).tlb, e ∈ s.tlb ∨ (e.part = p ∧ e.host = true ∧ e.read = r.read ∧ e.write = (r.write && leaf.2.1) ∧ e.exec = leaf.2.2 ∧
      e.va ≤ a ∧ a < e.va + e.size ∧ (e.size ≤ r.size ∨ e.size = 2 ^ 16) ∧ (e.size ≤ leaf.1 ∨ e.size = 2 ^ 16))) ∧
  (∀ (s : State) (p n : Nat), s.prqLimit p ≤ s.outstanding p ∨ s.atsOn p = false → State.sendQueued p n s = s) ∧
  (∀ (s : State) (p n : Nat) (r : PageReq), s.outstanding p < s.prqLimit p → s.regF (hstPri p) 0 1 = 1 → s.atsOn p = true →
    s.preq.find? (fun r => r.part == p && r.stage == 2) = some r → State.sendQueued p (n + 1) s =
      State.sendQueued p n { s.setStage p r.page 1 with out := .pageRequest p (s.pasid p) r.page :: s.out }) ∧
  (∀ (s : State) (p : Nat), s.pasid p = if s.regF (xltCfg p) 24 1 = 1 then some (s.regF (xltCfg p) 4 20) else none) ∧
  (∀ (s : State) (p a : Nat) (q : PageReq), s.preq.find? (fun q => q.part == p && q.page == a && q.stage == 1) = some q →
    (q.who.any (s.awaits p) = true → s.atsOn p = true →
      exec (.pageResponse p a .success) s = .next (State.sendQueued p s.preq.length
        ({ s.setStage p a 0 with out := .ats p (s.pasid p) a :: s.out }.dueLog p a))) ∧
    (q.who.any (s.awaits p) = true → s.atsOn p = false → exec (.pageResponse p a .success) s = .next (s.refuseAll q)) ∧
    (q.who.any (s.awaits p) = false → exec (.pageResponse p a .success) s = .next
      (State.sendQueued p s.preq.length (s.dropReq p a))) ∧
    exec (.pageResponse p a .invalid) s = .next (State.sendQueued p (s.refuseAll q).preq.length (s.refuseAll q)) ∧
    exec (.pageResponse p a .failure) s = .next (((s.preq.filter (fun r => r.part == p && r.stage == 2)).foldl
      State.refuseAll (s.refuseAll q)).setRegF (hstPri p) 0 1 0)) ∧
  (∀ (s : State) (a v i : Nat) (b : Bool) (x : Acc), v < numCores → (s.core v).acc.find? (fun x => x.id == i) = some x →
    s.refuse a (v, i, b) = s.accFault v x .hostRefused) ∧
  (∀ (s t : State) (a v i : Nat) (b : Bool) (e : SideEntry), v < numCores → (s.core v).acc.find? (fun x => x.id == i) = none →
    (s.core v).lcmd i = none → (s.core v).slog.find? (fun e => e.acc.id == i) = some e →
    s.setCore v { s.core v with slog := (s.core v).slog.map (fun (x : SideEntry) =>
      if x.acc.id = e.acc.id then { x with cause := .hostRefused } else x) } = t →
    ((s.core v).st = .parked → (s.core v).pages.contains a = true →
      s.refuse a (v, i, b) = t.park v (e.acc.record .hostRefused)) ∧
    ((s.core v).st ≠ .parked ∨ (s.core v).pages.contains a = false → s.refuse a (v, i, b) = t)) ∧
  (∀ (s : State) (p : Nat), s.barOpen = true → p < 32 →
    exec (.priEnable p) s = .next (if s.outstanding p ≠ 0 then s.orReg hstEvt 1
      else State.sendQueued p s.preq.length (s.setRegF (hstPri p) 0 1 1))) ∧
  (∀ (s : State) (k : Nat) (f : Fill), s.fills.find? (fun f => f.tile == k) = some f → s.reseal = [] →
    (s.verifies k = true → s.resident k = false → s.victim f.part (s.home k) = none →
      ∃ t, exec (.tileFill k) s = .next t ∧ t.resident k = true ∧ t.mem = s.mem ∧ t.fills = s.fills.filter (fun g => g.tile != k)) ∧
    (s.verifies k = true → s.resident k = true → ∃ t, exec (.tileFill k) s = .next t ∧ t.l2 = s.l2 ∧ t.mem = s.mem) ∧
    (s.verifies k = false → s.fillWaiters k = [] →
      exec (.tileFill k) s = .next ({ s with fills := s.fills.filter (fun g => g.tile != k) }.fillFails k))) ∧
  (∀ (s : State) (k : Nat), (s.tagFail k).mem = s.mem ∧ (s.tagFail k).l2 = s.l2 ∧
    ∃ w, (s.tagFail k).capFlog = s.capFlog ++ [w])

/-- Layouts are prepared and applied, laps turn, quotas are shared, pages and keys are renewed. LAYOUT_PREPARE writes
the first failing code, and the journal is PREPARED when none fails; a layout that passes has no two ranges that meet,
changes no busy cluster, keeps 32 maintenance slots in each comb, and its floors sum to 20 at most. APPLY, ABORT and
MP_RESET move the journal as Table 19.3 says. LAP_BOUNDARY, once the 512 slots of a lap have passed, counts it, takes
the stretch factor, and makes the apply that is pending. QUOTA_INTERVAL gives each live partition its floor, and 20
ways in all. CLUSTER_SCRUB_DONE leaves the cluster's cores as at reset and no engine of it; PAGE_RESEAL leaves a page
of zeros and every other byte as it is. REKEY_REQUEST starts a sweep, which takes its tiles in order and changes no
byte; one that the journal bars is ignored with BADW (log entry 84). CAP_FLOG_READ removes the oldest failure.
C_CLOCK_CHANGE takes a frequency in its range; REFRESH and PORT_STARVATION_FREEZE change nothing; SLIP_CLEAR clears
slip counts (which ones is left open: log entry 5). The order of effects at a lap boundary is the model's reading (log
entry 37). (R211, R292, R319, R320, R321, R323, R324, R325, R326, R334, R335, R336.) -/
def Obligations.LayoutsLapsQuotasAndSweeps : Prop :=
  (∀ s : State, s.barOpen = true →
    exec .layoutPrepare s = .next
      (let u := s.setReg prtCst (BitVec.ofNat 64 (s.prepareCode.1 + s.prepareCode.2 % 256 * 256))
       if s.prepareCode.1 = 0 then u.setRegF prtJrnl 0 2 1 else u) ∧
    exec .layoutApplyRequest s = .next (if s.journal = 1 then s.setRegF prtJrnl 0 2 2 else s) ∧
    exec .layoutAbort s = .next (if s.journal = 1 then (s.setRegF prtJrnl 0 2 0).wakeHeld else s) ∧
    exec .mpReset s = .next (if s.journal = 1 then ((s.copyLayout true).setRegF prtJrnl 0 2 0).wakeHeld else s)) ∧
  (∀ s : State, (s.journal ≠ 0 → s.prepareCode = (1, 0)) ∧ (s.prepareCode.1 = 0 →
    (∀ p < 32, ∀ q < 32, p ≠ q → ∀ t ∈ [0, 1], rangesMeet (s.stagedRange p t) (s.stagedRange q t) = false) ∧
    (∀ c < 48, s.ownerChanges c = true → s.clusterBusy c = false) ∧
    (∀ c < 4, 32 ≤ ((List.range 512).filter (fun i => fld (s.stagedSlot c 1 i) 6 1 == 1)).length) ∧
    (∀ c < 4, ((List.range 32).map (fun p => s.regF (prtWfloor p) (5 * c) 5)).sum ≤ 20))) ∧
  (∀ s : State, s.slot < 512 * (s.lap + 1) → exec .lapBoundary s = .next s) ∧
  (∀ s : State, s.quotaNext = [] → 512 * (s.lap + 1) ≤ s.slot →
    ∃ u, u.lap = s.lap + 1 ∧ u.slot = s.slot ∧ u.stretch = s.regF calStretch 0 7 ∧ s.cclk ≤ u.cclk ∧ u.mem = s.mem ∧
      u.regs = s.regs ∧ u.cores = s.cores ∧ u.engines = s.engines ∧
      exec .lapBoundary s = .next (if s.journal = 2 then u.applyLayout else u)) ∧
  (∀ s : State, s.quotaNext.all (fun e => decide (e.1 < 32)) = true → s.journal ≠ 2 → 512 * (s.lap + 1) ≤ s.slot →
    ∃ t, exec .lapBoundary s = .next t ∧ t.quotaNext = [] ∧ t.lap = s.lap + 1) ∧
  (∀ (s : State) (c : Nat), c < 4 → exec (.quotaInterval c) s = .next ((s.stageQuotas c).clearMonitors c)) ∧
  (∀ (s : State) (c : Nat), (List.range 32).any s.liveP = true →
    (((List.range 32).filter s.liveP).map (fun p => s.regF (prtActWfloor p) (5 * c) 5)).sum ≤ 20 →
    ((s.quotas c).map (·.2)).sum = 20 ∧ (∀ e ∈ s.quotas c, s.liveP e.1 = true ∧ s.regF (prtActWfloor e.1) (5 * c) 5 ≤ e.2)) ∧
  (∀ (s : State) (c : Nat), s.scrub.contains c = true → ∃ t, exec (.clusterScrubDone c) s = .next t ∧ c ∉ t.scrub ∧
    (∀ e ∈ t.engines, clsComb (engCls e.1) = true ∨ engCluster e.1 ≠ c) ∧ ∀ v, clusterOf v = c → t.core v = { Core.reset with nextId := (s.core v).nextId }) ∧
  (∀ (s : State) (g hi p : Nat) (r : List (Nat × Nat × Nat)), s.reseal = (g, hi, p) :: r → g < hi →
    exec (.pageReseal (g * 2 ^ 16)) s = .next (s.resealPage g)) ∧
  (∀ (s : State) (g a : Nat), s.memWf = true → s.reseal.any (fun r => decide (r.1 ≤ g ∧ g < r.2.1)) = true →
    (s.resealPage g).devByte a = if a / 2 ^ 16 = g then 0 else s.devByte a) ∧
  (∀ (s : State) (p : Nat), s.barOpen = true → p < 32 → s.liveP p = true →
    exec (.rekeyRequest p) s = .next (if s.sweeping p || s.sweepBarred p then s.orReg capEvt 8 else s.startSweep p true)) ∧
  (∀ (s : State) (p : Nat), s.journal = 0 → s.sweepBarred p = false) ∧
  (∀ (s : State) (p t next new : Nat), s.sweep.find? (fun e => e.1 == p) = some (p, t, next, new) → s.reseal = [] →
    ((s.tileSpan p t).2 ≤ next → t = 0 →
      exec (.rekeySweepTile p) s = .next { s with sweep := Tab.put s.sweep p (1, (s.tileSpan p 1).1, new) }) ∧
    ((s.tileSpan p t).2 ≤ next → t ≠ 0 → exec (.rekeySweepTile p) s = .next (s.endSweep p new)) ∧
    (next < (s.tileSpan p t).2 → ∃ u, exec (.rekeySweepTile p) s = .next u ∧ u.mem = s.mem ∧ u.l2b = s.l2b ∧
      u.sweep = Tab.put s.sweep p (t, next + 1, new) ∧
      ((s.sealOf next).key = Tab.get 0 s.keys p → Tab.get 0 s.keys p ≠ 0 → s.dramErr next = false → s.capOk next = true → new ≠ 0 →
        (u.sealOf next).key = new ∧ (u.sealOf next).version = 0 ∧ next ∉ u.fails))) ∧
  (∀ s : State, s.barOpen = true → ∃ t, exec .capFlogRead s = .next t ∧ t.capFlog = s.capFlog.drop 1 ∧
    t.out = .report 0xF808 ((s.capFlog.head?.map (·.toNat)).getD 0) :: s.out) ∧
  (∀ (s : State) (p : Nat), s.barOpen = true → p < 32 →
    exec (.slipClear p) s = .next (s.clearSlips p (Config.freeNat 9 s.tick))) ∧
  (∀ (s : State) (f : Nat), 22400 ≤ f * s.stretch → f ≤ 1400 → exec (.cClockChange f) s = .next (s.retime s.stretch f)) ∧
  (∀ (s : State) (b : Buf) (i : Nat), exec (.portStarvationFreeze b) s = .next s ∧ exec (.refresh i) s = .next s)

/-- Relay and Ethernet packets are accepted once, acknowledged, kept until then and resent. RELAY_PACKET_RECEIVE, in a
LINK slot of the packet's partition, performs the next number of its pair, acknowledges it and sends the reply it asks
for; a duplicate is acknowledged and does nothing, one ahead of a gap or past 2,048 payload bytes is discarded. A
packet is sent, and resent, in a slot of its partition that no retry or retrain takes, and waits for it. RELAY_ACK
drops what it acknowledges; RELAY_RTO resends, and after 16 resends the destination is unreachable. A CRC error and a
retrain count and take LINK slots of the link's comb (log entry 14); a retrain ends with the link up, or, at its
timeout, down, and each route that takes the link moves on (log entry 61). TDI_STATE_CHANGE enters the state, but for
a lock that the journal bars (log entry 84); ERROR refuses what waits on the host. UE_PACKET_RECEIVE, in an ENG slot
of the connection's partition (log entry 86), places a packet whole or not at all, acknowledges it once it has
performed, and C moves past all that have; on ROD the next may be accepted before that. A connection in error delivers
nothing. UE_ACK_RECEIVE drops what it covers and starts reorder timers below a gap; UE_REORDER_TIMEOUT and UE_RTO
resend (RUD the packet, ROD all unacknowledged from the first). UE_CONN_OPEN, UE_CONN_CLOSE and UE_WINDOW_WRITE write
the entry that LNK_UE_IDX names, or set BADW. Contributions over Ethernet come on connections of their own, which is
the model's choice (log entry 67). Which granules of a packet land at an event, which of two windows is meant, and
what a remote access that cannot translate does are the model's choices (log entries 27, 39 and 51). (R323, R324,
R343, R344, R345, R346, R349, R350, R351, R353.) -/
def Obligations.LinksCarryPacketsOnce : Prop :=
  (∀ (s : State) (g p n : Nat) (m : Msg), s.linkServes g p = true → m.payload ≤ 2048 →
    (n < (s.pair g p).nextRx → exec (.relayPacketReceive g p n m) s = .next (s.relayAcked g p n)) ∧
    ((s.pair g p).nextRx < n → exec (.relayPacketReceive g p n m) s = .next s) ∧
    (n = (s.pair g p).nextRx → ∀ t a, s.perform g p m = some (t, a) → exec (.relayPacketReceive g p n m) s = .next
      (let u := (t.setPair g p { t.pair g p with nextRx := n + 1 }).relayAcked g p n
       match a with | some r => u.relaySend g p r | none => u))) ∧
  (∀ (s : State) (g p n : Nat) (m : Msg), s.linkServes g p = false ∨ 2048 < m.payload →
    exec (.relayPacketReceive g p n m) s = .next s) ∧
  (∀ (s : State) (g p j i : Nat) (b : BitVec 256), s.perform g p (.enqueue j b) =
      some ({ s with inbox := s.inbox ++ [(g, p, .enqueue j b)] }, none) ∧
    s.perform g p (.gangComplete j i) = some ({ s with inbox := s.inbox ++ [(g, p, .gangComplete j i)] }, none)) ∧
  (∀ (s t : State) (g p a n : Nat) (d bs : List Byte), s.undone g p = false →
    (s.gWrite (Agent.outside (numCores + 3) g) p a 0 d = .ok t bs → s.perform g p (.store a d) = some (t, none)) ∧
    (s.gRead (Agent.outside (numCores + 3) g) p a n 0 = .ok t bs → s.perform g p (.load a n) = some (t, some (.reply a bs)))) ∧
  (∀ (s : State) (g p i tag n sq task shape off total : Nat) (d : List Byte),
    (s.undone g p = true → s.perform g p (.collective i tag n sq task shape off total d) = none) ∧
    (s.undone g p = false → s.perform g p (.collective i tag n sq task shape off total d) =
      some (s.addContrib ⟨i, tag, n, sq, task, shape, d, total⟩ off, none))) ∧
  (∀ (s : State) (g p : Nat) (m : Msg), s.relaySend g p m = (s.setPair g p { s.pair g p with
      nextTx := (s.pair g p).nextTx + 1
      unacked := (s.pair g p).unacked ++ [⟨(s.pair g p).nextTx, m, 0, true⟩] }).relayOut g p ∧
    (s.linkServes g p = false → s.relayOut g p = s) ∧
    (s.linkServes g p = true → ∀ ws, (s.pair g p).unacked.filter (fun (u : RelaySent) => u.waits) = ws → ws ≠ [] →
      s.relayOut g p = { s.setPair g p { s.pair g p with
          unacked := (s.pair g p).unacked.map (fun (u : RelaySent) => { u with waits := false }) } with
        out := (ws.map (fun u => Output.relay g p u.num u.msg)).reverse ++ s.out }) ∧
    (s.linkServes g p = true ↔ (s.link (s.linkOf g)).retraining = false ∧ (s.link (s.linkOf g)).busy ≤ s.slot ∧
      s.slotOwner (linkComb (s.linkOf g)) 3 (s.slot % 512) = some p)) ∧
  (∀ (s : State) (g p n : Nat), exec (.relayAck g p n) s = .next (s.setPair g p
    { s.pair g p with unacked := (s.pair g p).unacked.filter (fun u => u.num != n) })) ∧
  (∀ (s : State) (g p n : Nat) (x : RelaySent), (s.pair g p).unacked.find? (fun u => u.num == n) = some x →
    (s.pair g p).unreachable = false →
    (x.waits = true → exec (.relayRto g p n) s = .next s) ∧
    (x.waits = false → 16 ≤ x.resent →
      exec (.relayRto g p n) s = .next ((s.setPair g p { s.pair g p with unreachable := true }).unreachable g)) ∧
    (x.waits = false → x.resent < 16 → exec (.relayRto g p n) s = .next ((s.setPair g p { s.pair g p with
      unacked := (s.pair g p).unacked.map (fun u => if u.num = n then { u with resent := u.resent + 1, waits := true } else u) }).relayOut
        g p))) ∧
  (∀ (s : State) (i : Nat), i < 20 →
    exec (.flitCrcError i) s = .next
      ((s.setLink i { s.link i with retries := (s.link i).retries + 1 }).linkTakes i (Config.freeNat 11 s.tick)) ∧
    (∀ t, s.linkTakes i 0 = t → exec (.linkRetrain i) s =
      .next (t.setLink i { t.link i with retraining := true, retrains := (s.link i).retrains + 1 })) ∧
    ((s.link i).retraining = true →
      exec (.retrainTimeout i) s = .next { s.setLink i { s.link i with
          up := false, retraining := false, busy := max (s.link i).busy (s.slot + 1) } with failed := s.failed ++ [i] } ∧
      exec (.linkRetrainSuccess i) s = .next (s.setLink i { s.link i with
        up := true, retraining := false, busy := max (s.link i).busy (s.slot + 1) }))) ∧
  (∀ (s : State) (i n : Nat), s.links.sorted = true →
    ((s.linkTakes i n).link i).busy = max (s.link i).busy (s.slot + 1 + n) ∧
    (((s.link i).retraining = true ∨ s.slot < (s.link i).busy) → (s.linkTakes i n).regs = s.regs) ∧
    ((s.link i).retraining = false → (s.link i).busy ≤ s.slot →
      (s.linkTakes i n).regs = (s.loseSlots (linkComb i) s.slot (s.slot + 1)).regs)) ∧
  (∀ (g i : Nat) (l : List Nat),
    (Config.route g (routeAt g l) % 16 = i → routeAt g (l ++ [i]) = routeAt g l + 1) ∧
    (Config.route g (routeAt g l) % 16 ≠ i → routeAt g (l ++ [i]) = routeAt g l)) ∧
  (∀ (s : State) (p : Nat) (t : Tdi), p < 32 →
    ((t = .locked ∨ t = .run) → s.journal ≠ 0 → s.partChanges p = true → exec (.tdiStateChange p t) s = .next s) ∧
    ((t ≠ .locked ∧ t ≠ .run) ∨ s.journal = 0 ∨ s.partChanges p = false → exec (.tdiStateChange p t) s = .next
      (let u := { s with tdi := Tab.set Tdi.unlocked s.tdi p t }
       if t = .error then (s.preq.filter (fun r => r.part == p)).foldl State.refuseAll u else u))) ∧
  (∀ (s : State) (p i : Nat), Tab.get Tdi.unlocked s.tdi p = .error → s.places p = false ∧
    (s.qPart i = p → exec (.queueConsume i) s = .next s)) ∧
  (∀ (s : State) (c n : Nat) (b : BitVec 64) (k : UePacket), connOpen (s.conn c) = false ∨ s.ueServes c = false →
    exec (.uePacketReceive c k) s = .next s ∧ exec (.ueAckReceive c n b) s = .next s ∧ exec (.ueRto c n) s = .next s ∧
    exec (.ueReorderTimeout c n) s = .next s) ∧
  (∀ (s : State) (c : Nat), s.ueServes c = true ↔
    ∃ comb, comb < 4 ∧ s.slotOwner comb 2 (s.slot % 512) = some (connPart (s.conn c))) ∧
  (∀ (s : State) (c : Nat) (k : UePacket), connOpen (s.conn c) = true → s.ueServes c = true → c < 2 ^ 14 →
    ((k.seq < (s.ue c).rxBase ∨ (s.ue c).rxDone.contains k.seq = true) →
      exec (.uePacketReceive c k) s = .next (s.ueAck c)) ∧
    ((s.ue c).rxBase ≤ k.seq → (s.ue c).rxNext < k.seq → (s.ue c).rxDone.contains k.seq = false → connRod (s.conn c) = true →
      exec (.uePacketReceive c k) s = .next s) ∧
    ((s.ue c).rxBase ≤ k.seq → (s.ue c).rxDone.contains k.seq = false →
      (connRod (s.conn c) = false ∨ k.seq ≤ (s.ue c).rxNext) →
      (s.placeOf c k = .error → exec (.uePacketReceive c k) s = .next (s.connError c)) ∧
      (s.placeOf c k = .drop → exec (.uePacketReceive c k) s = .next s) ∧
      (∀ a q t, s.placeOf c k = .at a q →
        State.placeRuns c (connPart (s.conn c)) (rowGrains .G true [(a, k.data.length)]) s [] = (t, none) →
        exec (.uePacketReceive c k) s = .next t) ∧
      (∀ a q t gs u ds, s.placeOf c k = .at a q →
        State.placeRuns c (connPart (s.conn c)) (rowGrains .G true [(a, k.data.length)]) s [] = (t, some gs) →
        State.writePlaced c (connPart (s.conn c)) k (chosen t.tick gs 0).1 (t.setUe c ((t.ue c).accepted k.seq)) gs = (u, ds) →
        exec (.uePacketReceive c k) s = .next
          (let w := match q with | some q => u.setUe c ((u.ue c).bind q k) | none => u
           let x := match q with | some q => (w.ue c).count q k.data.length | none => w.ue c
           if ds.isEmpty then (w.setUe c (x.received k.seq)).ueAck c else w)))) ∧
  (∀ (u : UeConn) (n : Nat), u.accepted n = { u with rxNext := max u.rxNext (n + 1) }) ∧
  (∀ (u : UeConn) (n : Nat), u.rxBase ≤ (u.received n).rxBase ∧ (u.received n).rxDone.contains (u.received n).rxBase = false ∧
    (∀ k, u.rxBase ≤ k → k < (u.received n).rxBase → k = n ∨ u.rxDone.contains k = true) ∧
    (∀ k, (u.received n).rxBase ≤ k → ((u.received n).rxDone.contains k = (k == n || u.rxDone.contains k)))) ∧
  (∀ (s : State) (c n : Nat) (b : BitVec 64), connOpen (s.conn c) = true → s.ueServes c = true →
    s.ueState.sorted = true →
    ∃ t, exec (.ueAckReceive c n b) s = .next t ∧
      (t.ue c).unacked.map (·.pkt) = ((s.ue c).unacked.map (·.pkt)).filter (fun x => !acked n b x.seq) ∧
      (∀ x ∈ (t.ue c).unacked, (∃ i < 64, b.getLsbD i = true ∧ x.pkt.seq < n + 1 + i) → x.timer = true)) ∧
  (∀ (n k : Nat) (b : BitVec 64), acked n b k = true ↔ k < n ∨ (∃ i < 64, k = n + 1 + i ∧ b.getLsbD i = true)) ∧
  (∀ (s : State) (c n : Nat) (x : UeSent), connOpen (s.conn c) = true → s.ueServes c = true →
    ((s.ue c).unacked.any (fun y => y.pkt.seq == n) = true → exec (.ueRto c n) s = .next (s.resendFrom c n)) ∧
    (x ∈ (s.ue c).unacked → x.pkt.seq = n → x.running = true → exec (.ueReorderTimeout c n) s = .next
      ((s.setUe c { s.ue c with unacked := (s.ue c).unacked.map (fun y =>
        if y.pkt.seq = n then { y with running := false } else y) }).resendFrom c n)) ∧
    (connRod (s.conn c) = false → (s.ue c).unacked.find? (fun y => y.pkt.seq == n) = some x →
      (x.resent < 16 → (s.resendFrom c n).out = .ue c x.pkt :: s.out) ∧
      (16 ≤ x.resent → s.resendFrom c n = s.connError c))) ∧
  (∀ (s : State) (i : Nat) (x : BitVec 128), s.barOpen = true →
    (s.ueIndex false = some i → exec (.ueConnOpen i x) s = .next (s.writeConn i x) ∧
      (fld (s.conn i) 40 2 ≠ 0 → exec (.ueConnClose i) s = .next (s.closeConn i
        (BitVec.ofNat 128 (s.conn i - fld (s.conn i) 40 2 * 2 ^ 40))))) ∧
    (s.ueIndex true = some i → exec (.ueWindowWrite i x) s = .next
      (if fld x.toNat 0 1 = 1 ∧ fld x.toNat 8 32 = 0 then s.orReg lnkEvt 4
       else { s with ueWin := Tab.set 0 s.ueWin i (x &&& ~~~2#128) })))

/-- Cold reset, firmware, watchdog, errors, attestation and register writes act as chapter 22 says. COLD_RESET goes
through the phases of Table 22.1: the image that the boot ROM accepts runs, else RECOV is set; phase 2 makes the
device key, phase 3 leaves no tile sealed; phase 5 opens BAR0. FIRMWARE_UPLOAD writes the inactive slot at phase 5,
which the next boot tries first (log entry 69); FIRMWARE_COMMIT raises the fused minimum to the running version;
WATCHDOG_KICK starts the watchdog anew; WATCHDOG_EXPIRY resets the management processor alone and sets WDT.
ECC_CORRECTED counts, saturating; UNCORRECTABLE_ERROR drops a clean tile, fails the jobs of a dirty tile's owner,
marks DRAM, retires a core or a slice. Each request of SPDM is answered by a device at phase 5 in versions 1.2 and 1.3
once the exchange has reached it, and refused otherwise (log entry 42); a signature or certificate is left open. Which
slice fails is left open (log entry 9). REGISTER_WRITE always completes, and reserved bits are ignored: a value in the
range of its register is stored, one outside it sets the BADW bit of the register's block; ones clear event bits; a
staged register is written while the journal is IDLE; and a virtual function writes nothing. How the phases follow one
another, the times of watchdog and errors, and the marks of DRAM errors are the model's readings (log entries 40 and
41); reserved bits are ignored (log entry 38). (R293, R310, R320, R331, R336, R338, R343, R353,
22_bringup_firmware_ras.md.) -/
def Obligations.TheDeviceBootsAndIsManaged : Prop :=
  (∀ s : State,
    (s.phase = 0 → exec .coldReset s = .next s.bootRom) ∧
    (s.phase = 1 → s.mgmt.running = none → exec .coldReset s = .next s.powerGood) ∧
    (s.phase = 1 → s.mgmt.running.isSome = true →
      exec .coldReset s = .next (State.replaceCheck { s.setPhase 2 with keyNo := s.keyNo + 1, devKey := s.keyNo + 1 })) ∧
    (s.phase = 2 → exec .coldReset s = .next { s.setPhase 3 with seals := [], fails := [], failing := [], capBlk := [], capCache := [] }) ∧
    (s.phase = 3 → exec .coldReset s = .next { s.setPhase 4 with mgmt := { s.mgmt with wdtFrom := 0 } }) ∧
    (s.phase = 4 → ∃ t, exec .coldReset s = .next t ∧ t.barOpen = true ∧ t.clock = 0 ∧ t.slot = 0 ∧ t.lap = 0 ∧
      (∀ i, (t.link i).busy = 0) ∧ t.mgmt.lastB = s.mgmt.runningB) ∧
    (s.phase = 5 → exec .coldReset s = .next s.powerGood)) ∧
  (∀ s : State, s.powerGood.mem = s.mem ∧ s.powerGood.hostMem = s.hostMem ∧ s.powerGood.mgmt.minVersion = s.mgmt.minVersion ∧
    s.powerGood.cores = [] ∧ s.powerGood.seals = [] ∧ s.powerGood.phase = 0) ∧
  (∀ (s : State) (m : Image) (b : Bool), (s.chooseImage = some (m, b) → s.accepts m = true ∧
      s.bootRom.mgmt.running = some m ∧ s.bootRom.mgmt.runningB = b) ∧
    (s.chooseImage = none ↔ s.mgmt.imageA.filter s.accepts = none ∧ s.mgmt.imageB.filter s.accepts = none) ∧
    (s.mgmt.newImage = true → (if s.mgmt.runningB then s.mgmt.imageA else s.mgmt.imageB) = some m → s.accepts m = true →
      s.mgmt.lastB = s.mgmt.runningB → s.chooseImage = some (m, !s.mgmt.runningB)) ∧
    (s.chooseImage = none → s.bootRom.mgmt.running = none ∧ s.bootRom.regF mgtStat 3 1 = 1) ∧
    (s.accepts m = true ↔ m.ecdsaOk = true ∧ m.lmsOk = true ∧ m.version < 2 ^ 32 ∧ s.mgmt.minVersion ≤ m.version)) ∧
  (∀ (s : State) (m : Image), s.phase = 5 →
    exec (.firmwareUpload m) s = .next { s with mgmt := { s.mgmt.store (!s.mgmt.runningB) m with newImage := true } }) ∧
  (∀ (s : State) (m : Image), s.barOpen = true → s.mgmt.running = some m → exec .firmwareCommit s =
    .next { s with mgmt := { s.mgmt with minVersion := max s.mgmt.minVersion m.version } }) ∧
  (∀ s : State, s.barOpen = true → exec .watchdogKick s = .next { s with mgmt := { s.mgmt with wdtFrom := s.clock } }) ∧
  (∀ s : State, 4 ≤ s.phase → s.mgmt.wdtFrom + 350000 * s.regF mgtWdt 0 16 ≤ s.clock → s.journal ≠ 1 →
    exec .watchdogExpiry s = .next { s.ras 0x20 with mgmt := { s.mgmt with wdtFrom := s.clock } }) ∧
  (∀ s : State, ∃ t, exec .eccCorrected s = .next t ∧ t.mem = s.mem ∧ t.mgmt.ceTimes.head? = some s.clock ∧
    t.reg mgtRasCe = BitVec.ofNat 64 (min ((s.reg mgtRasCe).toNat + 1) (2 ^ 32 - 1))) ∧
  (∀ (s : State) (n : Nat),
    (s.dramBad.contains n = false → exec (.uncorrectableError (.dramRead n)) s = .next { s with dramBad := s.dramBad ++ [n] }) ∧
    (s.l2.any (fun x => x.tile == n && !x.dirty) = true → (s.dropTile n).verifies n = false →
      exec (.uncorrectableError (.l2Clean n)) s = .next ((s.dropTile n).fillFails n)) ∧
    (s.l2.any (fun x => x.tile == n && x.dirty) = true →
      exec (.uncorrectableError (.l2Dirty n)) s = .next (s.loseTile n)) ∧
    (n < numCores → exec (.uncorrectableError (.core n)) s = .next (s.retireCore n)) ∧
    (n < 4 → exec (.uncorrectableError (.l2Slice n)) s = .next (s.retireSlice n)) ∧
    (s.ownerOf (1024 * n) = none → (s.loseTile n).resident n = false)) ∧
  (∀ (s : State) (v : Nat), (s.core v).task = none → (s.retireCore v).mgmt.retired = s.mgmt.retired ++ [v] ∧
    ((s.retireCore v).mgmt.closed.contains (clusterOf v) = true ↔
      s.mgmt.closed.contains (clusterOf v) = true ∨ 2 ≤ s.retiredIn (clusterOf v))) ∧
  (∀ (s : State) (f : Nat) (x : SpdmReq), f < 33 → s.barOpen = true → s.spdm.sorted = true →
    (∃ t, exec (.getVersion f x) s = .next t ∧ (t.spdmOf f).version = true ∧
      t.out = .spdm f 0x84 (some [0x12, 0x13]) :: s.out) ∧
    ((x.version = 0x12 ∨ x.version = 0x13) →
      ((s.spdmOf f).version = true → ∃ t, exec (.getCapabilities f x) s = .next t ∧ (t.spdmOf f).caps = true) ∧
      ((s.spdmOf f).caps = true → x.p384 = true → x.sha384 = true →
        ∃ t, exec (.negotiateAlgorithms f x) s = .next t ∧ (t.spdmOf f).algs = true) ∧
      ((s.spdmOf f).algs = true →
        (∀ e ∈ ([(.getDigests f x, 0x81), (.getCertificate f x, 0x82), (.challenge f x, 0x83), (.keyExchange f x, 0xE4)] :
            List (Instr × Nat)), ∃ t v, exec e.1 s = .next t ∧ t.out = .spdm f e.2 (some [v]) :: s.out) ∧
        (∃ t, exec (.getMeasurements f x) s = .next t ∧ t.out = .spdm f 0xE0 (s.measure x.param) :: s.out) ∧
        (∃ t, exec (.keyExchange f x) s = .next t ∧ (t.spdmOf f).sessions = (s.spdmOf f).sessions + 1))) ∧
    (∀ e ∈ ([(.getCapabilities f x, 0xE1, (s.spdmOf f).version),
        (.negotiateAlgorithms f x, 0xE3, (s.spdmOf f).caps && x.p384 && x.sha384), (.getDigests f x, 0x81, (s.spdmOf f).algs),
        (.getCertificate f x, 0x82, (s.spdmOf f).algs), (.challenge f x, 0x83, (s.spdmOf f).algs),
        (.getMeasurements f x, 0xE0, (s.spdmOf f).algs && (s.measure x.param).isSome),
        (.keyExchange f x, 0xE4, (s.spdmOf f).algs)] : List (Instr × Nat × Bool)),
      (x.version ≠ 0x12 ∧ x.version ≠ 0x13) ∨ e.2.2 = false →
      exec e.1 s = .next { s with out := .spdm f e.2.1 none :: s.out }) ∧
    (s.measure x.param = none ↔ x.param = 0 ∨ 6 < x.param)) ∧
  (∀ (s : State) (o : Nat) (x : BitVec 64) (w : Writer), (∃ t, exec (.registerWrite o x w) s = .next t) ∧
    (s.barOpen = false → exec (.registerWrite o x w) s = .next s) ∧ exec (.registerWrite o x .function) s = .next s) ∧
  (∀ (s : State) (o : Nat) (x : BitVec 64) (w : Writer),
    exec (.registerWrite o x w) s = exec (.registerWrite o (x &&& regMask o) w) s) ∧
  (∀ (s : State) (p : Nat) (x : BitVec 64) (v : Nat), s.barOpen = true → p < 32 → x.toNat = v →
    (∀ e ∈ ([(schBudget p, within 50 5000 v), (schAge p, within 1 1000 v), (fltPksel p, decide (v ≤ 35)),
        (schFeat, (x &&& ~~~(s.reg mgtFeatDev)) == 0 && (List.range 32).all (fun q => !s.liveP q)),
        (prtQint, within 100 100000 v), (lnkRlyCfg, decide (1 ≤ fld v 0 16) && decide (1 ≤ fld v 16 16)),
        (lnkUeCfg, within 1 1000 (fld v 0 16) && decide (10 ≤ fld v 16 16)),
        (lnkUeIdx, decide (fld v 15 1 = 0) || decide (fld v 0 14 < 4096)), (lnkPlbase p, !s.spanningJob p),
        (lnkPlen p, within 1 65536 v && !s.spanningJob p), (calStretch, within 16 64 v), (mgtCemax, within 1 65535 v)] :
        List (Nat × Bool)), x &&& regMask e.1 = x →
      exec (.registerWrite e.1 x .software) s = .next (if e.2 then s.setReg e.1 x else s.badW e.1)) ∧
    (s.locked p = false → ∀ e ∈ ([(lseBudget p, decide (v ≤ 4000)),
        (lseRes p, (List.range 6).all (fun k => decide (fld v (3 * k) 3 < clsSlots k))),
        (lseK p, (List.range 6).all (fun k => decide (1 ≤ fld v (4 * k) 4))),
        (xltBase p 0, s.rangeOk p 0 v (s.reg (xltBound p 0)).toNat), (xltBound p 0, s.rangeOk p 0 (s.reg (xltBase p 0)).toNat v),
        (xltBase p 1, s.rangeOk p 1 v (s.reg (xltBound p 1)).toNat), (xltBound p 1, s.rangeOk p 1 (s.reg (xltBase p 1)).toNat v)] :
        List (Nat × Bool)), x &&& regMask e.1 = x →
      exec (.registerWrite e.1 x .software) s = .next (if e.2 then s.setReg e.1 x else s.badW e.1)) ∧
    (s.locked p = true → ∀ o ∈ [lseBudget p, lsePUsed p, lseRes p, lseK p, xltRoot p, xltCfg p, xltBase p 0, xltBound p 0,
        xltBase p 1, xltBound p 1, xltInv p, xltPrq p, fltFbase p, fltQbase p],
      exec (.registerWrite o x .software) s = .next (s.orReg hstEvt 2)) ∧
    (∀ e ∈ ([(prtRange p 0, decide (fld v 0 16 = fld v 16 16) || (within 1 2015 (fld v 0 16) && within 1 2015 (fld v 16 16))),
        (prtRange p 1, decide (fld v 0 16 ≤ 4030) && decide (fld v 16 16 ≤ 4030)),
        (prtWfloor p, (List.range 4).all (fun c => decide (fld v (5 * c) 5 ≤ 20)))] : List (Nat × Bool)), x &&& regMask e.1 = x →
      exec (.registerWrite e.1 x .management) s = .next (if s.journal = 0 ∧ e.2 = true then s.setReg e.1 x else s.badW e.1)) ∧
    (within 1 60000 (fld v 0 16) = false → exec (.registerWrite mgtWdt x .management) s = .next (s.ras 0x40)) ∧
    (within 1 60000 (fld v 0 16) = true → fld v 31 1 = 0 → exec (.registerWrite mgtWdt x .management) s =
      .next (s.setReg mgtWdt (BitVec.ofNat 64 (fld v 0 16))))) ∧
  (∀ (s : State) (o : Nat), (o < 0x8000 → s.badW o = s.orReg schEvt 0x40) ∧
    (∀ p i, p < 32 → i < 0x80 → o = 0x8000 + 0x80 * p + i ∨ o = 0x9000 + 0x80 * p + i → s.badW o = s.orReg (fltEvt p) 8) ∧
    (0xA000 ≤ o → o < 0xC000 → s.badW o = s.orReg prtEvt 2) ∧ (0xC000 ≤ o → o < 0xD000 → s.badW o = s.orReg hstEvt 1) ∧
    (0xD000 ≤ o → o < 0xE000 → s.badW o = s.orReg lnkEvt 4) ∧ (0xE000 ≤ o → o < 0xF000 → s.badW o = s.orReg lseEvt 2) ∧
    (0xF000 ≤ o → o < 0x10000 → s.badW o = s.orReg capEvt 8) ∧ (0x10000 ≤ o → o < 0x20000 → s.badW o = s.orReg lseEvt 2) ∧
    (0x20000 ≤ o → s.badW o = s.ras 0x40)) ∧
  (∀ (s : State) (x : BitVec 64), s.barOpen = true →
    exec (.registerWrite calStretch x .software) s = .next (if 16 ≤ x.toNat ∧ x.toNat ≤ 64 then s.setReg calStretch x
      else s.orReg lseEvt 2) ∧
    exec (.registerWrite mgtCemax x .software) s = .next (if 1 ≤ x.toNat ∧ x.toNat ≤ 65535 then s.setReg mgtCemax x
      else s.ras 0x40) ∧
    exec (.registerWrite schCtrl x .software) s = .next (s.setReg schCtrl (x &&& 1)) ∧
    exec (.registerWrite lnkPkgid x .software) s = .next (s.setReg lnkPkgid (x &&& 0x3FFFF)) ∧
    (∀ r ∈ [schEvt, prtEvt, hstEvt, lnkEvt, lseEvt, capEvt, mgtRasEvt],
      exec (.registerWrite r x .software) s = .next (s.setReg r (s.reg r &&& ~~~x))) ∧
    exec (.registerWrite calStretch x .power) s = exec (.registerWrite calStretch x .software) s ∧
    exec (.registerWrite mgtCemax x .management) s = .next s ∧ exec (.registerWrite mgtFwcmt 1 .management) s = exec .firmwareCommit s)
end

