-- ==== Sys2Proof/Laws/Fields.lean ====
section
/-! SUPPORT. Words as sums of fields: a field of a sum of disjoint fields is the value put there. -/

namespace Sys2Proof

/-- A field of a word: its lowest bit, its width and its value. -/
structure Piece where
  lo : Nat
  n : Nat
  v : BitVec n

/-- The word made of fields. -/
def Piece.sum : List Piece → Nat
  | [] => 0
  | f :: fs => f.v.toNat * 2 ^ f.lo + Piece.sum fs

/-- The fields lie below bit `top`, each below the one before. -/
def Piece.falling : Nat → List Piece → Bool
  | _, [] => true
  | top, f :: fs => decide (f.lo + f.n ≤ top) && Piece.falling f.lo fs

/-- Every field of `w` reads as its value. -/
def Piece.Read (w : Nat) : List Piece → Prop
  | [] => True
  | ⟨lo, n, v⟩ :: fs => fld w lo n = v.toNat ∧ Piece.Read w fs

theorem Piece.sum_lt : ∀ (L : List Piece) (top : Nat), Piece.falling top L = true → Piece.sum L < 2 ^ top
  | [], top, _ => Nat.two_pow_pos top
  | ⟨lo, n, v⟩ :: fs, top, h => by
    simp only [Piece.falling, Bool.and_eq_true, decide_eq_true_eq] at h
    have h1 := Piece.sum_lt fs lo h.2
    have h2 : (v.toNat + 1) * 2 ^ lo ≤ 2 ^ n * 2 ^ lo := Nat.mul_le_mul_right _ v.isLt
    have h3 : 2 ^ n * 2 ^ lo ≤ 2 ^ top := by
      rw [← Nat.pow_add]; exact Nat.pow_le_pow_right (by decide) (by omega)
    rw [Nat.add_mul] at h2
    simp only [Piece.sum]; omega

/-- One field of a word. -/
theorem fld_mid (hi v r lo n : Nat) (hv : v < 2 ^ n) (hr : r < 2 ^ lo) :
    fld ((hi * 2 ^ n + v) * 2 ^ lo + r) lo n = v := by
  rw [fld, Nat.add_comm, Nat.add_mul_div_right _ _ (Nat.two_pow_pos lo), Nat.div_eq_of_lt hr, Nat.zero_add, Nat.add_comm,
    Nat.add_mul_mod_self_right, Nat.mod_eq_of_lt hv]

theorem Piece.read_above : ∀ (L : List Piece) (top hi : Nat), Piece.falling top L = true →
    Piece.Read (hi * 2 ^ top + Piece.sum L) L
  | [], _, _, _ => trivial
  | ⟨lo, n, v⟩ :: fs, top, hi, h => by
    simp only [Piece.falling, Bool.and_eq_true, decide_eq_true_eq] at h
    obtain ⟨r, rfl⟩ := Nat.exists_eq_add_of_le h.1
    have key : hi * 2 ^ (lo + n + r) + Piece.sum (⟨lo, n, v⟩ :: fs) =
        ((hi * 2 ^ r) * 2 ^ n + v.toNat) * 2 ^ lo + Piece.sum fs := by
      simp only [Piece.sum, Nat.pow_add]; ring
    rw [key]
    exact ⟨fld_mid _ _ _ _ _ v.isLt (Piece.sum_lt fs lo h.2), Piece.read_above fs lo _ h.2⟩

/-- The fields of the word that they make. -/
theorem Piece.read {w : Nat} (L : List Piece) (top : Nat) (hf : Piece.falling top L = true) (hw : w = Piece.sum L) :
    Piece.Read w L := by
  have := Piece.read_above L top 0 hf
  rwa [Nat.zero_mul, Nat.zero_add, ← hw] at this

theorem bits_of {n lo w : Nat} {x : BitVec n} (h : fld w lo n = x.toNat) : bits n lo w = x := by
  apply BitVec.eq_of_toNat_eq
  rw [bits, BitVec.toNat_ofNat]
  exact h

theorem tok_of {w : Nat} {t : Tok} (h : fld w 24 2 = t.pop.toNat) (h' : fld w 22 2 = t.push.toNat) : tok w = t := by
  rw [tok, bits_of h, bits_of h']

end Sys2Proof
end

