-- ==== Sys2Proof/Laws/Decode.lean ====
section
/-! SUPPORT. The decoders by major, and the bytes of a word: what a proof about decoding cites instead of unfolding the
maps. -/

namespace Sys2Proof

open Sys2Proof.Machine

/-- The instruction that a word of the maps stands for in a stream. -/
def Enc.decode (st : Stream) (e : Enc) : Option Instr :=
  if e.nbits = 16 then decodeCompact st e.word else decodeWord st e.word

theorem decodeC_32 {w : Nat} (h : fld w 26 6 = 32) : decodeC w = decodeC32 w := by
  rw [decodeC, h]; rfl

theorem decodeC_33 {w : Nat} (h : fld w 26 6 = 33) : decodeC w = some (.addi (tok w) (bits 5 17 w) (bits 5 12 w) (bits 12 0 w)) := by
  rw [decodeC, h]; rfl

theorem decodeC_34 {w : Nat} (h : fld w 26 6 = 34) : decodeC w = some (.andi (tok w) (bits 5 17 w) (bits 5 12 w) (bits 12 0 w)) := by
  rw [decodeC, h]; rfl

theorem decodeC_35 {w : Nat} (h : fld w 26 6 = 35) : decodeC w = some (.ori (tok w) (bits 5 17 w) (bits 5 12 w) (bits 12 0 w)) := by
  rw [decodeC, h]; rfl

theorem decodeC_36 {w : Nat} (h : fld w 26 6 = 36) : decodeC w = some (.xori (tok w) (bits 5 17 w) (bits 5 12 w) (bits 12 0 w)) := by
  rw [decodeC, h]; rfl

theorem decodeC_37 {w : Nat} (h : fld w 26 6 = 37) : decodeC w = decodeC37 w := by
  rw [decodeC, h]; rfl

theorem decodeC_38 {w : Nat} (h : fld w 26 6 = 38) : decodeC w = decodeC38 w := by
  rw [decodeC, h]; rfl

theorem decodeC_39 {w : Nat} (h : fld w 26 6 = 39) : decodeC w = (if fld w 0 3 = 0 then some (.cmp (tok w) (bits 3 19 w) (bits 3 16 w) (bits 5 11 w) (bits 5 6 w) (bits 2 4 w) (bits 1 3 w)) else none) := by
  rw [decodeC, h]; rfl

theorem decodeC_40 {w : Nat} (h : fld w 26 6 = 40) : decodeC w = some (.cmpi (tok w) (bits 3 19 w) (bits 3 16 w) (bits 5 11 w) (bits 11 0 w)) := by
  rw [decodeC, h]; rfl

theorem decodeC_41 {w : Nat} (h : fld w 26 6 = 41) : decodeC w = decodeC41 w := by
  rw [decodeC, h]; rfl

theorem decodeC_42 {w : Nat} (h : fld w 26 6 = 42) : decodeC w = some (.ld (tok w) (bits 5 17 w) (bits 5 12 w) (bits 4 8 w) (bits 3 5 w) (bits 2 3 w) (bits 3 0 w)) := by
  rw [decodeC, h]; rfl

theorem decodeC_43 {w : Nat} (h : fld w 26 6 = 43) : decodeC w = some (.st (tok w) (bits 5 17 w) (bits 5 12 w) (bits 4 8 w) (bits 3 5 w) (bits 2 3 w) (bits 3 0 w)) := by
  rw [decodeC, h]; rfl

theorem decodeC_44 {w : Nat} (h : fld w 26 6 = 44) : decodeC w = some (.ldl (tok w) (bits 5 17 w) (bits 5 12 w) (bits 4 8 w) (bits 3 5 w) (bits 2 3 w) (bits 3 0 w)) := by
  rw [decodeC, h]; rfl

theorem decodeC_45 {w : Nat} (h : fld w 26 6 = 45) : decodeC w = some (.stl (tok w) (bits 5 17 w) (bits 5 12 w) (bits 4 8 w) (bits 3 5 w) (bits 2 3 w) (bits 3 0 w)) := by
  rw [decodeC, h]; rfl

theorem decodeC_46 {w : Nat} (h : fld w 26 6 = 46) : decodeC w = some (.amoG (tok w) (bits 5 17 w) (bits 5 12 w) (bits 4 8 w) (bits 3 5 w) (bits 4 1 w) (bits 1 0 w)) := by
  rw [decodeC, h]; rfl

theorem decodeC_47 {w : Nat} (h : fld w 26 6 = 47) : decodeC w = some (.amoS (tok w) (bits 5 17 w) (bits 5 12 w) (bits 4 8 w) (bits 3 5 w) (bits 4 1 w) (bits 1 0 w)) := by
  rw [decodeC, h]; rfl

theorem decodeC_48 {w : Nat} (h : fld w 26 6 = 48) : decodeC w = some (.amoSg (tok w) (bits 5 17 w) (bits 5 12 w) (bits 4 8 w) (bits 3 5 w) (bits 4 1 w) (bits 1 0 w)) := by
  rw [decodeC, h]; rfl

theorem decodeC_49 {w : Nat} (h : fld w 26 6 = 49) : decodeC w = (if fld w 1 1 = 0 then some (.redf (tok w) (bits 5 17 w) (bits 5 12 w) (bits 4 8 w) (bits 3 5 w) (bits 3 2 w) (bits 1 0 w)) else none) := by
  rw [decodeC, h]; rfl

theorem decodeC_50 {w : Nat} (h : fld w 26 6 = 50) : decodeC w = decodeC50 w := by
  rw [decodeC, h]; rfl

theorem decodeC_51 {w : Nat} (h : fld w 26 6 = 51) : decodeC w = decodeC51 w := by
  rw [decodeC, h]; rfl

theorem decodeC_52 {w : Nat} (h : fld w 26 6 = 52) : decodeC w = (if fld w 0 1 = 0 then some (.cvt (tok w) (bits 5 17 w) (bits 5 12 w) (bits 3 9 w) (bits 3 6 w) (bits 3 3 w) (bits 1 2 w) (bits 1 1 w)) else none) := by
  rw [decodeC, h]; rfl

theorem decodeC_53 {w : Nat} (h : fld w 26 6 = 53) : decodeC w = decodeC53 w := by
  rw [decodeC, h]; rfl

theorem decodeC_54 {w : Nat} (h : fld w 26 6 = 54) : decodeC w = decodeC54 w := by
  rw [decodeC, h]; rfl

theorem decodeC_55 {w : Nat} (h : fld w 26 6 = 55) : decodeC w = decodeC55 w := by
  rw [decodeC, h]; rfl

theorem decodeC_56 {w : Nat} (h : fld w 26 6 = 56) : decodeC w = (if fld w 0 3 = 0 then some (.fence (tok w) (bits 16 6 w) (bits 3 3 w)) else none) := by
  rw [decodeC, h]; rfl

theorem decodeC_57 {w : Nat} (h : fld w 26 6 = 57) : decodeC w = (if fld w 0 2 = 0 then some (.waitw (tok w) (bits 5 17 w) (bits 5 12 w) (bits 4 8 w) (bits 3 5 w) (bits 3 2 w)) else none) := by
  rw [decodeC, h]; rfl

theorem decodeC_58 {w : Nat} (h : fld w 26 6 = 58) : decodeC w = decodeC58 w := by
  rw [decodeC, h]; rfl

theorem decodeC_59 {w : Nat} (h : fld w 26 6 = 59) : decodeC w = decodeC59 w := by
  rw [decodeC, h]; rfl

theorem decodeC_60 {w : Nat} (h : fld w 26 6 = 60) : decodeC w = decodeC60 w := by
  rw [decodeC, h]; rfl

theorem decodeC_61 {w : Nat} (h : fld w 26 6 = 61) : decodeC w = decodeC61 w := by
  rw [decodeC, h]; rfl

theorem decodeC_62 {w : Nat} (h : fld w 26 6 = 62) : decodeC w = decodeC62 w := by
  rw [decodeC, h]; rfl

theorem decodeC_63 {w : Nat} (h : fld w 26 6 = 63) : decodeC w = some (.blockHeader (bits 10 16 w) (bits 1 15 w) (bits 3 12 w) (bits 1 11 w) (bits 11 0 w)) := by
  rw [decodeC, h]; rfl

theorem decodeL_32 {w : Nat} (h : fld w 26 6 = 32) : decodeL w = decodeL32 w := by
  rw [decodeL, h]; rfl

theorem decodeL_33 {w : Nat} (h : fld w 26 6 = 33) : decodeL w = (if fld w 0 6 = 0 then some (.cvcp (tok w) (bits 2 20 w) (bits 4 16 w) (bits 3 13 w) (bits 2 11 w) (bits 3 8 w) (bits 1 7 w) (bits 1 6 w)) else none) := by
  rw [decodeL, h]; rfl

theorem decodeL_34 {w : Nat} (h : fld w 26 6 = 34) : decodeL w = decodeL34 w := by
  rw [decodeL, h]; rfl

theorem decodeL_35 {w : Nat} (h : fld w 26 6 = 35) : decodeL w = decodeL35 w := by
  rw [decodeL, h]; rfl

theorem decodeL_36 {w : Nat} (h : fld w 26 6 = 36) : decodeL w = decodeL36 w := by
  rw [decodeL, h]; rfl

theorem decodeL_37 {w : Nat} (h : fld w 26 6 = 37) : decodeL w = some (.baddi (tok w) (bits 4 18 w) (bits 4 14 w) (bits 14 0 w)) := by
  rw [decodeL, h]; rfl

theorem decodeL_38 {w : Nat} (h : fld w 26 6 = 38) : decodeL w = decodeL38 w := by
  rw [decodeL, h]; rfl

theorem decodeL_61 {w : Nat} (h : fld w 26 6 = 61) : decodeL w = decodeL61 w := by
  rw [decodeL, h]; rfl

theorem decodeL_62 {w : Nat} (h : fld w 26 6 = 62) : decodeL w = decodeL62 w := by
  rw [decodeL, h]; rfl

theorem decodeL_63 {w : Nat} (h : fld w 26 6 = 63) : decodeL w = some (.blockHeader (bits 10 16 w) (bits 1 15 w) (bits 3 12 w) (bits 1 11 w) (bits 11 0 w)) := by
  rw [decodeL, h]; rfl

theorem decodeM_32 {w : Nat} (h : fld w 26 6 = 32) : decodeM w = some (.mma (tok w) (bits 3 19 w) (bits 4 15 w) (bits 4 11 w) (bits 3 8 w) (bits 5 3 w) (bits 3 0 w)) := by
  rw [decodeM, h]; rfl

theorem decodeM_33 {w : Nat} (h : fld w 26 6 = 33) : decodeM w = some (.mmat (tok w) (bits 3 19 w) (bits 4 15 w) (bits 4 11 w) (bits 3 8 w) (bits 5 3 w) (bits 3 0 w)) := by
  rw [decodeM, h]; rfl

theorem decodeM_34 {w : Nat} (h : fld w 26 6 = 34) : decodeM w = decodeM34 w := by
  rw [decodeM, h]; rfl

theorem decodeM_35 {w : Nat} (h : fld w 26 6 = 35) : decodeM w = some (.drain (tok w) (bits 3 19 w) (bits 4 15 w) (bits 2 13 w) (bits 3 10 w) (bits 1 9 w) (bits 6 3 w) (bits 3 0 w)) := by
  rw [decodeM, h]; rfl

theorem decodeM_36 {w : Nat} (h : fld w 26 6 = 36) : decodeM w = (if fld w 0 9 = 0 then some (.eload (tok w) (bits 3 19 w) (bits 4 15 w) (bits 5 10 w) (bits 1 9 w)) else none) := by
  rw [decodeM, h]; rfl

theorem decodeM_37 {w : Nat} (h : fld w 26 6 = 37) : decodeM w = decodeM37 w := by
  rw [decodeM, h]; rfl

theorem decodeM_61 {w : Nat} (h : fld w 26 6 = 61) : decodeM w = decodeM61 w := by
  rw [decodeM, h]; rfl

theorem decodeM_62 {w : Nat} (h : fld w 26 6 = 62) : decodeM w = decodeM62 w := by
  rw [decodeM, h]; rfl

theorem decodeM_63 {w : Nat} (h : fld w 26 6 = 63) : decodeM w = some (.blockHeader (bits 10 16 w) (bits 1 15 w) (bits 3 12 w) (bits 1 11 w) (bits 11 0 w)) := by
  rw [decodeM, h]; rfl

theorem decodeV_32 {w : Nat} (h : fld w 26 6 = 32) : decodeV w = decodeV32 w := by
  rw [decodeV, h]; rfl

theorem decodeV_33 {w : Nat} (h : fld w 26 6 = 33) : decodeV w = decodeV33 w := by
  rw [decodeV, h]; rfl

theorem decodeV_34 {w : Nat} (h : fld w 26 6 = 34) : decodeV w = decodeV34 w := by
  rw [decodeV, h]; rfl

theorem decodeV_35 {w : Nat} (h : fld w 26 6 = 35) : decodeV w = decodeV35 w := by
  rw [decodeV, h]; rfl

theorem decodeV_36 {w : Nat} (h : fld w 26 6 = 36) : decodeV w = decodeV36 w := by
  rw [decodeV, h]; rfl

theorem decodeV_37 {w : Nat} (h : fld w 26 6 = 37) : decodeV w = decodeV37 w := by
  rw [decodeV, h]; rfl

theorem decodeV_38 {w : Nat} (h : fld w 26 6 = 38) : decodeV w = decodeV38 w := by
  rw [decodeV, h]; rfl

theorem decodeV_39 {w : Nat} (h : fld w 26 6 = 39) : decodeV w = decodeV39 w := by
  rw [decodeV, h]; rfl

theorem decodeV_40 {w : Nat} (h : fld w 26 6 = 40) : decodeV w = decodeV40 w := by
  rw [decodeV, h]; rfl

theorem decodeV_41 {w : Nat} (h : fld w 26 6 = 41) : decodeV w = decodeV41 w := by
  rw [decodeV, h]; rfl

theorem decodeV_42 {w : Nat} (h : fld w 26 6 = 42) : decodeV w = decodeV42 w := by
  rw [decodeV, h]; rfl

theorem decodeV_43 {w : Nat} (h : fld w 26 6 = 43) : decodeV w = decodeV43 w := by
  rw [decodeV, h]; rfl

theorem decodeV_44 {w : Nat} (h : fld w 26 6 = 44) : decodeV w = some (.vcmp (tok w) (bits 4 18 w) (bits 3 15 w) (bits 5 10 w) (bits 5 5 w) (bits 3 2 w) (bits 1 1 w) (bits 1 0 w)) := by
  rw [decodeV, h]; rfl

theorem decodeV_45 {w : Nat} (h : fld w 26 6 = 45) : decodeV w = decodeV45 w := by
  rw [decodeV, h]; rfl

theorem decodeV_46 {w : Nat} (h : fld w 26 6 = 46) : decodeV w = decodeV46 w := by
  rw [decodeV, h]; rfl

theorem decodeV_47 {w : Nat} (h : fld w 26 6 = 47) : decodeV w = some (.vcvtF32 (tok w) (bits 5 17 w) (bits 1 16 w) (bits 5 11 w) (bits 5 6 w) (bits 3 3 w) (bits 1 2 w) (bits 1 1 w) (bits 1 0 w)) := by
  rw [decodeV, h]; rfl

theorem decodeV_48 {w : Nat} (h : fld w 26 6 = 48) : decodeV w = some (.vcvtF64 (tok w) (bits 5 17 w) (bits 1 16 w) (bits 5 11 w) (bits 5 6 w) (bits 3 3 w) (bits 1 2 w) (bits 1 1 w) (bits 1 0 w)) := by
  rw [decodeV, h]; rfl

theorem decodeV_49 {w : Nat} (h : fld w 26 6 = 49) : decodeV w = some (.vcvtI32 (tok w) (bits 5 17 w) (bits 1 16 w) (bits 5 11 w) (bits 5 6 w) (bits 3 3 w) (bits 1 2 w) (bits 1 1 w) (bits 1 0 w)) := by
  rw [decodeV, h]; rfl

theorem decodeV_50 {w : Nat} (h : fld w 26 6 = 50) : decodeV w = decodeV50 w := by
  rw [decodeV, h]; rfl

theorem decodeV_51 {w : Nat} (h : fld w 26 6 = 51) : decodeV w = decodeV51 w := by
  rw [decodeV, h]; rfl

theorem decodeV_52 {w : Nat} (h : fld w 26 6 = 52) : decodeV w = decodeV52 w := by
  rw [decodeV, h]; rfl

theorem decodeV_53 {w : Nat} (h : fld w 26 6 = 53) : decodeV w = decodeV53 w := by
  rw [decodeV, h]; rfl

theorem decodeV_54 {w : Nat} (h : fld w 26 6 = 54) : decodeV w = decodeV54 w := by
  rw [decodeV, h]; rfl

theorem decodeV_55 {w : Nat} (h : fld w 26 6 = 55) : decodeV w = decodeV55 w := by
  rw [decodeV, h]; rfl

theorem decodeV_56 {w : Nat} (h : fld w 26 6 = 56) : decodeV w = decodeV56 w := by
  rw [decodeV, h]; rfl

theorem decodeV_57 {w : Nat} (h : fld w 26 6 = 57) : decodeV w = decodeV57 w := by
  rw [decodeV, h]; rfl

theorem decodeV_58 {w : Nat} (h : fld w 26 6 = 58) : decodeV w = decodeV58 w := by
  rw [decodeV, h]; rfl

theorem decodeV_59 {w : Nat} (h : fld w 26 6 = 59) : decodeV w = decodeV59 w := by
  rw [decodeV, h]; rfl

theorem decodeV_60 {w : Nat} (h : fld w 26 6 = 60) : decodeV w = decodeV60 w := by
  rw [decodeV, h]; rfl

theorem decodeV_61 {w : Nat} (h : fld w 26 6 = 61) : decodeV w = decodeV61 w := by
  rw [decodeV, h]; rfl

theorem decodeV_62 {w : Nat} (h : fld w 26 6 = 62) : decodeV w = decodeV62 w := by
  rw [decodeV, h]; rfl

theorem decodeV_63 {w : Nat} (h : fld w 26 6 = 63) : decodeV w = some (.blockHeader (bits 10 16 w) (bits 1 15 w) (bits 3 12 w) (bits 1 11 w) (bits 11 0 w)) := by
  rw [decodeV, h]; rfl

end Sys2Proof
end

