-- ==== Sys2Proof/Laws/Tab.lean ====
section
/-! SUPPORT. Sparse tables: reading after writing, and every write keeps the canonical form. -/

namespace Sys2Proof.Machine

open Sys2Proof

variable {α : Type}

/-! ### Reading after writing -/

@[simp] theorem Tab.get_put_same (d : α) (t : Tab α) (k : Nat) (v : α) : Tab.get d (t.put k v) k = v := by
  induction t with
  | nil => simp [Tab.put, Tab.get]
  | cons e t ih =>
    obtain ⟨j, w⟩ := e
    simp only [Tab.put]
    split
    · simp [Tab.get]
    · split
      · simp [Tab.get]
      · simp [Tab.get, *]

@[simp] theorem Tab.put_put (t : Tab α) (k : Nat) (v w : α) : (t.put k v).put k w = t.put k w := by
  induction t with
  | nil => simp [Tab.put]
  | cons e t ih =>
    obtain ⟨j, x⟩ := e
    simp only [Tab.put]
    split
    · simp [Tab.put]
    · split
      · simp [Tab.put]
      · simp [Tab.put, *]

theorem Tab.above_get {d : α} {t : Tab α} {j k : Nat} (h : Tab.above j t = true) (hk : k ≤ j) : Tab.get d t k = d := by
  cases t with
  | nil => rfl
  | cons e t =>
    obtain ⟨i, w⟩ := e
    simp only [Tab.above, Bool.and_eq_true, decide_eq_true_eq] at h
    rw [Tab.get, if_neg (by omega), if_pos (by omega)]

theorem Tab.get_put_ne {d : α} {t : Tab α} {k a : Nat} (v : α) (h : t.sorted = true) (ha : a ≠ k) :
    Tab.get d (t.put k v) a = Tab.get d t a := by
  induction t with
  | nil => simp only [Tab.put, Tab.get]; split <;> [omega; simp]
  | cons e t ih =>
    obtain ⟨j, w⟩ := e
    have hs : Tab.sorted t = true := by
      cases t with
      | nil => rfl
      | cons e t =>
        simp only [Tab.sorted, Tab.above, Bool.and_eq_true] at h ⊢
        exact h.2
    simp only [Tab.put]
    split
    · subst_vars; simp only [Tab.get]; split <;> [omega; rfl]
    · split
      · by_cases hk : a < k
        · simp only [Tab.get]
          rw [if_neg (by omega), if_pos hk, if_neg (by omega), if_pos (by omega)]
        · simp only [Tab.get]; rw [if_neg (by omega), if_neg hk]
      · simp only [Tab.get, ih hs]

/-! ### The canonical form -/

theorem Tab.above_mono {t : Tab α} {i j : Nat} (h : Tab.above j t = true) (hij : i ≤ j) : Tab.above i t = true := by
  cases t with
  | nil => rfl
  | cons e t =>
    obtain ⟨k, w⟩ := e
    simp only [Tab.above, Bool.and_eq_true, decide_eq_true_eq] at h ⊢
    exact ⟨by omega, h.2⟩

theorem Tab.above_sorted {t : Tab α} {j : Nat} (h : Tab.above j t = true) : t.sorted = true := by
  cases t with
  | nil => rfl
  | cons e t => simp only [Tab.above, Bool.and_eq_true] at h; exact h.2

theorem Tab.above_put {t : Tab α} {j k : Nat} (v : α) (h : Tab.above j t = true) (hk : j < k) :
    Tab.above j (t.put k v) = true := by
  induction t generalizing j with
  | nil => simp [Tab.put, Tab.above, hk]
  | cons e t ih =>
    obtain ⟨i, w⟩ := e
    simp only [Tab.above, Bool.and_eq_true, decide_eq_true_eq] at h
    simp only [Tab.put]
    split
    · subst_vars; simp [Tab.above, hk, h.2]
    · split
      · simp [Tab.above, h.2, *]
      · simp only [Tab.above, Bool.and_eq_true, decide_eq_true_eq]
        exact ⟨h.1, ih h.2 (by omega)⟩

theorem Tab.sorted_put {t : Tab α} {k : Nat} (v : α) (h : t.sorted = true) : (t.put k v).sorted = true := by
  cases t with
  | nil => rfl
  | cons e t =>
    obtain ⟨i, w⟩ := e
    simp only [Tab.sorted] at h
    simp only [Tab.put]
    split
    · subst_vars; exact h
    · split
      · simp [Tab.sorted, Tab.above, *]
      · exact Tab.above_put v h (by omega)

theorem Tab.above_filter {t : Tab α} {j : Nat} (f : Nat × α → Bool) (h : Tab.above j t = true) :
    Tab.above j (t.filter f) = true := by
  induction t generalizing j with
  | nil => rfl
  | cons e t ih =>
    obtain ⟨i, w⟩ := e
    simp only [Tab.above, Bool.and_eq_true, decide_eq_true_eq] at h
    simp only [List.filter]
    split
    · simp only [Tab.above, Bool.and_eq_true, decide_eq_true_eq]; exact ⟨h.1, ih h.2⟩
    · exact Tab.above_mono (ih h.2) (by omega)

@[simp] theorem Tab.sorted_filter {t : Tab α} (f : Nat × α → Bool) (h : t.sorted = true) :
    Tab.sorted (t.filter f) = true := by
  cases t with
  | nil => rfl
  | cons e t =>
    obtain ⟨i, w⟩ := e
    simp only [Tab.sorted] at h
    simp only [List.filter]
    split
    · exact Tab.above_filter f h
    · exact Tab.above_sorted (Tab.above_filter f h)

theorem Tab.above_del {t : Tab α} {j k : Nat} (h : Tab.above j t = true) : Tab.above j (t.del k) = true := by
  induction t generalizing j with
  | nil => rfl
  | cons e t ih =>
    obtain ⟨i, w⟩ := e
    simp only [Tab.above, Bool.and_eq_true, decide_eq_true_eq] at h
    simp only [Tab.del]
    split
    · exact Tab.above_mono h.2 (by omega)
    · split
      · simp [Tab.above, h]
      · simp only [Tab.above, Bool.and_eq_true, decide_eq_true_eq]; exact ⟨h.1, ih h.2⟩

theorem Tab.sorted_del {t : Tab α} {k : Nat} (h : t.sorted = true) : (t.del k).sorted = true := by
  cases t with
  | nil => rfl
  | cons e t =>
    obtain ⟨i, w⟩ := e
    simp only [Tab.sorted] at h
    simp only [Tab.del]
    split
    · exact Tab.above_sorted h
    · split
      · exact h
      · exact Tab.above_del h

theorem Tab.mem_put {t : Tab α} {k : Nat} {v : α} {e : Nat × α} (h : e ∈ t.put k v) : e = (k, v) ∨ e ∈ t := by
  induction t with
  | nil => simp only [Tab.put, List.mem_singleton] at h; exact .inl h
  | cons x t ih =>
    obtain ⟨i, w⟩ := x
    simp only [Tab.put] at h
    split at h
    · rcases List.mem_cons.1 h with h | h
      · exact .inl h
      · exact .inr (List.mem_cons_of_mem _ h)
    · split at h
      · rcases List.mem_cons.1 h with h | h
        · exact .inl h
        · exact .inr h
      · rcases List.mem_cons.1 h with h | h
        · exact .inr (h ▸ List.mem_cons_self)
        · rcases ih h with h | h
          · exact .inl h
          · exact .inr (List.mem_cons_of_mem _ h)

theorem Tab.mem_del {t : Tab α} {k : Nat} {e : Nat × α} (h : e ∈ t.del k) : e ∈ t := by
  induction t with
  | nil => exact h
  | cons x t ih =>
    obtain ⟨i, w⟩ := x
    simp only [Tab.del] at h
    split at h
    · exact List.mem_cons_of_mem _ h
    · split at h
      · exact h
      · rcases List.mem_cons.1 h with h | h
        · exact h ▸ List.mem_cons_self
        · exact List.mem_cons_of_mem _ (ih h)

/-- The canonical write keeps the canonical form. -/
@[simp] theorem Memory.wf_set {m : Tab Byte} (a : Nat) (b : Byte) (h : Memory.wf m = true) : Memory.wf (Tab.set 0 m a b) = true := by
  simp only [Memory.wf, Tab.wf, Bool.and_eq_true, List.all_eq_true, decide_eq_true_eq] at h ⊢
  simp only [Tab.set]
  split
  · exact ⟨Tab.sorted_del h.1, fun e he => h.2 e (Tab.mem_del he)⟩
  · refine ⟨Tab.sorted_put b h.1, fun e he => ?_⟩
    rcases Tab.mem_put he with rfl | he
    · assumption
    · exact h.2 e he

@[simp] theorem Memory.wf_putBytes {m : Tab Byte} (l : List (Nat × Byte)) (h : Memory.wf m = true) :
    Memory.wf (putBytes m l) = true := by
  induction l generalizing m with
  | nil => exact h
  | cons e l ih => exact ih (Memory.wf_set e.1 e.2 h)

@[simp] theorem Memory.wf_filter {m : Tab Byte} (f : Nat × Byte → Bool) (h : Memory.wf m = true) :
    Memory.wf (m.filter f) = true := by
  simp only [Memory.wf, Tab.wf, Bool.and_eq_true, List.all_eq_true, decide_eq_true_eq] at h ⊢
  exact ⟨Tab.sorted_filter f h.1, fun e he => h.2 e (List.mem_filter.1 he).1⟩

@[simp] theorem sorted_putDirty {m : Tab Byte} (l : List (Nat × Byte)) (h : m.sorted = true) :
    (putDirty m l).sorted = true := by
  induction l generalizing m with
  | nil => exact h
  | cons e l ih => exact ih (Tab.sorted_put e.2 h)

theorem Memory.wf_hostWrites {m : Tab Byte} (w : Option (Nat × List Byte)) (h : Memory.wf m = true) :
    Memory.wf (hostWrites m w) = true := by
  cases w with
  | none => exact h
  | some x =>
    obtain ⟨a, bs⟩ := x
    simp only [hostWrites]
    generalize a = b
    induction bs generalizing m b with
    | nil => exact h
    | cons y ys ih => exact ih (Memory.wf_set _ _ h) _

end Sys2Proof.Machine
end

