-- ==== Sys2Proof/Laws/MemWf.lean ====
section
/-! SUPPORT. The canonical form of memory (State.memWf) through the operations that reach memory: write-backs, victims,
fills, pages sealed afresh, granule accesses and runs. -/

namespace Sys2Proof.Machine

open Sys2Proof

@[simp] theorem State.memWf_mk {tick turn fresh clock slot slotFrac lap cores mem l2b l2 seals fills fails failing dramBad through capFlog hist past
    devKey capBlk capCache hostMem tlb invs preq engines ecmds ereqs colls contribs nodes jobs arenas succs
    qslots flog readyNo fq fqStop regs tdi scrub reseal keys keyNo sweep quotaNext monitor shadow stretch cclk
    links failed inbox relay ueConn ueWin ueState mgmt spdm out} :
    (State.mk tick turn fresh clock slot slotFrac lap cores mem l2b l2 seals fills fails failing dramBad through capFlog hist past
    devKey capBlk capCache hostMem tlb invs preq engines ecmds ereqs colls contribs nodes jobs arenas succs
    qslots flog readyNo fq fqStop regs tdi scrub reseal keys keyNo sweep quotaNext monitor shadow stretch cclk
    links failed inbox relay ueConn ueWin ueState mgmt spdm out).memWf
    =
      (Memory.wf mem && Memory.wf hostMem && Tab.sorted l2b) := by simp only [State.memWf]

theorem State.wf_congr {s t : State} (hm : t.mem = s.mem) (hh : t.hostMem = s.hostMem) (hl : t.l2b = s.l2b) :
    t.memWf = s.memWf := by
  rw [State.memWf, State.memWf, hm, hh, hl]

@[simp] theorem State.wf_mem {s : State} (h : s.memWf = true) : Memory.wf s.mem = true := by
  simp only [State.memWf, Bool.and_eq_true] at h; exact h.1.1

@[simp] theorem State.wf_hostMem {s : State} (h : s.memWf = true) : Memory.wf s.hostMem = true := by
  simp only [State.memWf, Bool.and_eq_true] at h; exact h.1.2

@[simp] theorem State.wf_l2b {s : State} (h : s.memWf = true) : Tab.sorted s.l2b = true := by
  simp only [State.memWf, Bool.and_eq_true] at h; exact h.2

/-- A fold of updates that each keep the form keeps it. -/
theorem foldl_wf {β : Type} {f : State → β → State} (hf : ∀ s b, s.memWf = true → (f s b).memWf = true) (l : List β)
    {s : State} (h : s.memWf = true) : (l.foldl f s).memWf = true := by
  induction l generalizing s with
  | nil => exact h
  | cons b l ih => exact ih (hf s b h)

variable {s : State}

@[simp] theorem State.setCore_wf (v c) : (s.setCore v c).memWf = s.memWf := State.wf_congr rfl rfl rfl
@[simp] theorem State.park_wf (v r) : (s.park v r).memWf = s.memWf := State.wf_congr rfl rfl rfl
@[simp] theorem State.setReg_wf (o x) : (s.setReg o x).memWf = s.memWf := State.wf_congr rfl rfl rfl
@[simp] theorem State.orReg_wf (o x) : (s.orReg o x).memWf = s.memWf := State.wf_congr rfl rfl rfl
@[simp] theorem State.setRegF_wf (o l n x) : (s.setRegF o l n x).memWf = s.memWf := State.wf_congr rfl rfl rfl
@[simp] theorem State.setRegByte_wf (o x) : (s.setRegByte o x).memWf = s.memWf := State.wf_congr rfl rfl rfl
@[simp] theorem State.bar_wf (h : s.memWf = true) {t : State} (ht : t.memWf = true) : (s.bar t).memWf = true := by
  unfold State.bar; split <;> assumption
@[simp] theorem State.cache_wf (w x) : (s.cache w x).memWf = s.memWf := State.wf_congr rfl rfl rfl
@[simp] theorem State.note_wf (e) : (s.note e).memWf = s.memWf := by unfold State.note; split <;> rfl
@[simp] theorem State.noteWrite_wf (e a o) : (s.noteWrite e a o).memWf = s.memWf := State.wf_congr rfl rfl rfl
@[simp] theorem State.record_wf (e) : (s.record e).memWf = s.memWf := State.wf_congr rfl rfl rfl
@[simp] theorem State.settlePast_wf (a n) : (s.settlePast a n).memWf = s.memWf := State.wf_congr rfl rfl rfl
@[simp] theorem State.unfail_wf (a b) : (s.unfail a b).memWf = s.memWf := State.wf_congr rfl rfl rfl
@[simp] theorem State.sealTile_wf (a b c d) : (s.sealTile a b c d).memWf = s.memWf := State.wf_congr rfl rfl rfl
@[simp] theorem State.mergeTile_wf (h : s.memWf = true) (a) : (s.mergeTile a).memWf = true := by
  simp [State.mergeTile, h]
@[simp] theorem State.dropTile_wf (h : s.memWf = true) (a) : (s.dropTile a).memWf = true := by
  simp [State.dropTile, h]
@[simp] theorem State.mapTile_wf (a f) : (s.mapTile a f).memWf = s.memWf := State.wf_congr rfl rfl rfl
@[simp] theorem State.startSweep_wf (p b) : (s.startSweep p b).memWf = s.memWf := by
  unfold State.startSweep
  dsimp only
  split
  · rfl
  · rw [State.setReg_wf, State.setReg_wf, State.setReg_wf]
    exact State.wf_congr rfl rfl rfl
@[simp] theorem State.capDirty_wf (b) : (s.capDirty b).memWf = s.memWf := State.wf_congr rfl rfl rfl
@[simp] theorem State.capDrop_wf (b) : (s.capDrop b).memWf = s.memWf := State.wf_congr rfl rfl rfl
@[simp] theorem State.capSeal_wf (b) : (s.capSeal b).memWf = s.memWf := State.wf_congr rfl rfl rfl
@[simp] theorem State.capMake_wf (n : Nat) (bs : List (Nat × Bool)) : (State.capMake n bs s).memWf = s.memWf := by
  induction n generalizing s bs with
  | zero => rfl
  | succ n ih =>
    cases bs with
    | nil => rfl
    | cons e bs =>
      obtain ⟨b, w⟩ := e
      rw [State.capMake]
      dsimp only
      repeat' split
      all_goals rw [ih]
      all_goals first | rfl | simp
@[simp] theorem State.capFetch_wf (t) : (s.capFetch t).memWf = s.memWf := State.capMake_wf ..
@[simp] theorem State.capWrite_wf (t) : (s.capWrite t).memWf = s.memWf := State.capMake_wf ..
@[simp] theorem State.writeBack_wf (h : s.memWf = true) (a) : (s.writeBack a).memWf = true := by
  unfold State.writeBack; dsimp only; (repeat' split) <;> simp (maxDischargeDepth := 9) [h]
@[simp] theorem State.tagFail_wf (a) : (s.tagFail a).memWf = s.memWf := by
  unfold State.tagFail
  dsimp only
  split
  · simp only [State.memWf, State.orReg, State.setReg]
  · simp only [State.memWf, State.setReg]
@[simp] theorem State.sealMem_wf (a b c d) : (s.sealMem a b c d).memWf = s.memWf := State.wf_congr rfl rfl rfl
@[simp] theorem State.scrubCheck_wf : s.scrubCheck.memWf = s.memWf := by
  unfold State.scrubCheck; split <;> rfl
@[simp] theorem State.resealPage_wf (h : s.memWf = true) (g) : (s.resealPage g).memWf = true := by
  unfold State.resealPage
  split
  · exact h
  · rw [State.scrubCheck_wf, State.capWrite_wf]
    generalize List.range 64 = l
    refine foldl_wf (fun s b hs => ?_) l (by simp (maxDischargeDepth := 9) [h])
    rw [State.sealMem_wf]; exact hs
@[simp] theorem State.settle_wf (h : s.memWf = true) (a) : (s.settle a).memWf = true := by
  unfold State.settle; split <;> simp (maxDischargeDepth := 9) [h]
@[simp] theorem State.allocate_wf (h : s.memWf = true) (p a r) : (s.allocate p a r).memWf = true := by
  unfold State.allocate; dsimp only; (repeat' split) <;> simp (maxDischargeDepth := 9) [h]
@[simp] theorem State.touch_wf (a p) : (s.touch a p).memWf = s.memWf := by
  unfold State.touch; split <;> rfl
@[simp] theorem State.bypassed_wf (h : s.memWf = true) (a) : (s.bypassed a).memWf = true := by
  unfold State.bypassed; dsimp only; split <;> simp (maxDischargeDepth := 9) [h]
@[simp] theorem State.observe_wf (p a) : (s.observe p a).memWf = s.memWf := by
  unfold State.observe
  split
  dsimp only
  (repeat' split) <;> simp [State.memWf]
@[simp] theorem State.wentOut_wf (a b) : (s.wentOut a b).memWf = s.memWf := by unfold State.wentOut; split <;> rfl
@[simp] theorem State.leave_wf (h : s.memWf = true) (a p b) : (s.leave a p b).memWf = true := by
  unfold State.leave; split <;> simp (maxDischargeDepth := 9) [h]
@[simp] theorem State.devMerge_wf (h : s.memWf = true) (p a b c) : (s.devMerge p a b c).memWf = true := by
  unfold State.devMerge; dsimp only; (repeat' split) <;> simp (maxDischargeDepth := 9) [h]

@[simp] theorem State.fillFails_wf (t) : (s.fillFails t).memWf = s.memWf :=
  (State.wf_congr rfl rfl rfl).trans (State.tagFail_wf t)
@[simp] theorem State.noteWrites_wf (e o gs) : (State.noteWrites e o gs s).memWf = s.memWf := by
  induction gs generalizing s with
  | nil => rfl
  | cons g gs ih => rw [State.noteWrites, ih, State.noteWrite_wf]
@[simp] theorem State.devPut_wf (h : s.memWf = true) (e p a b c) : (s.devPut e p a b c).memWf = true := by
  rw [State.devPut, State.noteWrites_wf, State.memWf_mk]; simp [h]
@[simp] theorem State.seen_wf (e a n) : (s.seen e a n).1.memWf = s.memWf := by simp [State.seen]
@[simp] theorem State.look_wf (g a n) : (s.look g a n).1.memWf = s.memWf := by unfold State.look; split <;> simp
@[simp] theorem State.wrote_wf (g k a n) : (s.wrote g k a n).memWf = s.memWf := by unfold State.wrote; split <;> simp
@[simp] theorem State.put_wf (h : s.memWf = true) (g k p a d) : (s.put g k p a d).memWf = true := by
  unfold State.put; split <;> simp [h]
@[simp] theorem State.devAcc_wf (h : s.memWf = true) (g p a n k) : (s.devAcc g p a n k).1.memWf = true := by
  unfold State.devAcc; split <;> simp [h]
@[simp] theorem State.walked_wf (h : s.memWf = true) (p l) : (s.walked p l).memWf = true := by
  unfold State.walked
  refine foldl_wf (fun s t hs => ?_) l h
  split <;> simp [hs]

/-! ### Results that carry a state -/

/-- The state of an access result has canonical memory. -/
def MRes.Wf : MRes → Prop
  | .ok s _ => s.memWf = true
  | .fault s _ => s.memWf = true
  | .wait s => s.memWf = true

/-- The state of a translation result has canonical memory. -/
def XRes.Wf : XRes → Prop
  | .ok s _ => s.memWf = true
  | .fault s _ => s.memWf = true
  | .wait s => s.memWf = true

theorem State.reach_wf (h : s.memWf = true) (p t pol w u) : (s.reach p t pol w u).Wf := by
  unfold State.reach; dsimp only; (repeat' split) <;> simp (maxDischargeDepth := 9) [MRes.Wf, h]

/-- What is made of an access keeps the form where each outcome does. -/
theorem MRes.bind_wf {r : MRes} (hr : r.Wf) {f : State → List Byte → MRes} (hf : ∀ s b, s.memWf = true → (f s b).Wf) :
    (match r with | .fault s c => MRes.fault s c | .wait s => .wait s | .ok s b => f s b).Wf := by
  cases r with
  | ok s b => exact hf s b hr
  | fault s c => exact hr
  | wait s => exact hr

theorem State.devRead_wf (h : s.memWf = true) (p a n pol) : (s.devRead p a n pol).Wf :=
  MRes.bind_wf (State.reach_wf h p (a / 1024) pol false false) (fun _ _ hs => by simp [MRes.Wf, hs])

theorem State.devWrite_wf (h : s.memWf = true) (p a pol b w) : (s.devWrite p a pol b w).Wf :=
  MRes.bind_wf (State.reach_wf h p (a / 1024) pol w false) (fun _ _ hs => by simp [MRes.Wf, hs])

@[simp] theorem State.askHost_wf (w p a b) : (s.askHost w p a b).1.memWf = s.memWf := by
  unfold State.askHost; dsimp only; split <;> rfl

@[simp] theorem State.sendHost_wf (g p a d) : (s.sendHost g p a d).memWf = s.memWf := State.wf_congr rfl rfl rfl

theorem State.hostAcc_wf (h : s.memWf = true) (g p a n k) : (s.hostAcc g p a n k).Wf := by
  unfold State.hostAcc; dsimp only; (repeat' split) <;> simp (maxDischargeDepth := 9) [MRes.Wf, h]

theorem State.xlate_wf (h : s.memWf = true) (w p a k n) : (s.xlate w p a k n).Wf := by
  unfold State.xlate; dsimp only; (repeat' split) <;> simp (maxDischargeDepth := 9) [XRes.Wf, h]

theorem State.gAcc_wf (h : s.memWf = true) (w p a n pol k b) : (s.gAcc w p a n pol k b).Wf := by
  have hx := State.xlate_wf h w.who p a k.xkind n
  unfold State.gAcc
  split
  · exact h
  · split
    · simp only [*, XRes.Wf] at hx; exact hx
    · simp only [*, XRes.Wf] at hx; exact hx
    · rename_i s1 x e
      simp only [e, XRes.Wf] at hx
      split
      · split
        · exact hx
        · exact State.hostAcc_wf hx ..
      · split
        · exact hx
        · split
          · exact hx
          · exact MRes.bind_wf (State.reach_wf hx p (x.pa / 1024) (appliedPol x.cmax pol) b false)
              (fun s _ hs => State.leave_wf (State.devAcc_wf hs w p x.pa n k) ..)

theorem State.gReadGo_wf (w p pol) (gs : List (Nat × Nat × Nat)) : ∀ (s : State) (acc : List Byte), s.memWf = true →
    (State.gReadGo w p pol gs s acc).Wf := by
  induction gs with
  | nil => intro s acc h; exact h
  | cons g gs ih =>
    intro s acc h
    obtain ⟨a, n, x⟩ := g
    exact MRes.bind_wf (State.gAcc_wf h w p a n pol .load false) (fun s b hs => ih s (acc ++ b) hs)

theorem State.gRead_wf (h : s.memWf = true) (w p a n pol) : (s.gRead w p a n pol).Wf := State.gReadGo_wf w p pol _ s [] h

theorem State.gWriteGo_wf (w p pol d) (gs : List (Nat × Nat × Nat)) : ∀ s : State, s.memWf = true →
    (State.gWriteGo w p pol d gs s).Wf := by
  induction gs with
  | nil => intro s h; exact h
  | cons g gs ih =>
    intro s h
    obtain ⟨a, n, x⟩ := g
    exact MRes.bind_wf (State.gAcc_wf h w p a n pol (.store ((d.drop x).take n)) (n == 1024)) (fun s _ hs => ih s hs)

theorem State.gWrite_wf (h : s.memWf = true) (w p a pol d) : (s.gWrite w p a pol d).Wf :=
  State.gWriteGo_wf w p pol d _ s h

theorem State.prepare_wf (h : s.memWf = true) (w p a n k b) : (s.prepare w p a n k b).Wf := by
  have hx := State.xlate_wf h w p a k n
  unfold State.prepare
  split
  · exact h
  · split
    · rename_i s1 x e
      simp only [e, XRes.Wf] at hx
      split
      · split <;> exact hx
      · have hs : (s1.settle (x.pa / 1024)).memWf = true := by simp [hx]
        dsimp only
        generalize s1.settle (x.pa / 1024) = s2 at hs ⊢
        (repeat' split) <;> simp [XRes.Wf, hs]
    · exact hx

@[simp] theorem State.noteMet_wf (v c) : (s.noteMet v c).memWf = s.memWf := by
  unfold State.noteMet
  dsimp only
  generalize (_ ++ _ : List WaitW) = l
  induction l generalizing s with
  | nil => rfl
  | cons w l ih => rw [List.foldl_cons]; exact (ih ..).trans (State.note_wf ..)
@[simp] theorem State.bufAcc_wf (g v b o n k) : (s.bufAcc g v b o n k).1.memWf = s.memWf := by
  unfold State.bufAcc; dsimp only; split <;> split <;> simp
@[simp] theorem State.sPort_wf (g w o n k) : (s.sPort g w o n k).1.memWf = s.memWf := by simp [State.sPort]
@[simp] theorem State.viewGo_wf (g v rs) (c : Core) : (State.viewGo g v rs s c).1.memWf = s.memWf := by
  induction rs generalizing s c with
  | nil => rfl
  | cons r rs ih => obtain ⟨b, o, n⟩ := r; rw [State.viewGo]; exact (ih _).trans (State.look_wf ..)
@[simp] theorem State.view_wf (g v rs) : (s.view g v rs).1.memWf = s.memWf := by unfold State.view; split <;> simp

theorem State.readAt_wf (h : s.memWf = true) (g p a n pol t) : (s.readAt g p a n pol t).Wf := by
  unfold State.readAt
  split
  · exact h
  · split
    · split
      · exact h
      · exact State.hostAcc_wf h ..
    · exact MRes.bind_wf (State.reach_wf h p (t.pa / 1024) (appliedPol t.cmax pol) false true)
        (fun s _ hs => State.leave_wf ((State.look_wf ..).trans hs) ..)

theorem State.writeTo_wf (h : s.memWf = true) (g p a pol t d w) : (s.writeTo g p a pol t d w).Wf := by
  unfold State.writeTo
  split
  · exact h
  · split
    · exact State.hostAcc_wf h ..
    · exact MRes.bind_wf (State.reach_wf h p (t.pa / 1024) (appliedPol t.cmax pol) w true)
        (fun s _ hs => by simp [MRes.Wf, hs])

theorem State.readGrain_wf (h : s.memWf = true) (ag v pol g) : (s.readGrain ag v pol g).Wf := by
  unfold State.readGrain
  split
  · exact State.readAt_wf h ..
  · exact h
  · simp [MRes.Wf, h]
  · simp [MRes.Wf, h]

theorem State.writeGrain_wf (h : s.memWf = true) (ag v pol g d w) : (s.writeGrain ag v pol g d w).Wf := by
  unfold State.writeGrain
  split
  · exact State.writeTo_wf h ..
  · exact h
  · simp [MRes.Wf, h]
  · simp [MRes.Wf, h]

end Sys2Proof.Machine
end

