-- ==== Sys2Proof/Laws/MemWfEngines.lean ====
section
/-! SUPPORT. The canonical form of memory through accesses, L commands and shared-engine commands. -/

namespace Sys2Proof.Machine

open Sys2Proof

variable {s : State}

/-! ### Releases that a core holds -/

@[simp] theorem State.flushStr_wf (v st) : (s.flushStr v st).memWf = s.memWf := by
  unfold State.flushStr
  split
  · rfl
  · split
    rename_i k m c _
    have key : ∀ (l : List Held) (t : State), (l.foldl (fun s h => s.note (s.heldEv v st h)) t).memWf = t.memWf := by
      intro l
      induction l with
      | nil => intro t; rfl
      | cons h l ih => intro t; rw [List.foldl_cons, ih, State.note_wf]
    rw [key, State.setCore_wf]

@[simp] theorem State.flushAt_wf (v) : (s.flushAt v).memWf = s.memWf := by simp [State.flushAt]

/-! ### Accesses -/

@[simp] theorem State.post_wf (r) : (s.post r).memWf = s.memWf := State.wf_congr rfl rfl rfl

@[simp] theorem State.retire_wf (v a b) : (s.retire v a b).memWf = s.memWf := by simp [State.retire]

@[simp] theorem State.accFault_wf (v a c) : (s.accFault v a c).memWf = s.memWf := by
  unfold State.accFault; dsimp only; (repeat' split) <;> simp

theorem State.performAcc_wf (h : s.memWf = true) (v a) : (s.performAcc v a).memWf = true := by
  unfold State.performAcc
  split
  · simp [h]
  · simp [h]
  · have hg := State.gAcc_wf h (s.agentOf v a) (s.partOf v) a.addr a.n a.pol a.kind false
    split <;> (simp only [*, MRes.Wf] at hg; simp [hg])

/-! ### Commands in service -/

theorem State.xlateAll_wf (who p k) (gs : List Grain) : ∀ (s : State) (acc : List Grain), s.memWf = true →
    (State.xlateAll who p k gs s acc).1.memWf = true := by
  induction gs with
  | nil => intro s acc h; exact h
  | cons g gs ih =>
    intro s acc h
    have hg := State.prepare_wf h who p g.addr g.n k g.whole
    simp only [State.xlateAll]
    split
    · exact ih _ _ h
    · split <;> (simp only [*, XRes.Wf] at hg)
      · exact ih _ _ hg
      · exact ih _ _ hg
      · exact ih _ _ h

theorem State.readAll_wf (ag v pol) (gs : List Grain) : ∀ (s : State) (acc : List Grain) (got : List (Nat × Byte)),
    s.memWf = true → (State.readAll ag v pol gs s acc got).1.memWf = true := by
  induction gs with
  | nil => intro s acc got h; exact h
  | cons g gs ih =>
    intro s acc got h
    have hg := State.readGrain_wf h ag v pol g
    simp only [State.readAll]
    split <;> (simp only [*, MRes.Wf] at hg)
    · exact ih _ _ _ hg
    · exact ih _ _ _ hg
    · exact ih _ _ _ h

theorem State.landAll_wf (ag v pol late dat) (gs : List Grain) : ∀ (s : State) (ds : List Grain), s.memWf = true →
    (State.landAll ag v pol late dat gs s ds).1.memWf = true := by
  induction gs with
  | nil => intro s ds h; exact h
  | cons g gs ih =>
    intro s ds h
    simp only [State.landAll]
    split
    · exact ih _ _ h
    · split
      · exact ih _ _ h
      · rename_i e d whole rest _
        have hg := State.writeGrain_wf h ag v pol e d whole
        split <;> (simp only [*, MRes.Wf] at hg)
        · exact ih _ _ hg
        · exact ih _ _ hg
        · exact ih _ _ h

theorem State.moveOn_wf (h : s.memWf = true) (sv w) : (s.moveOn sv w).1.memWf = true :=
  State.landAll_wf _ _ _ _ _ _ _ _ (State.readAll_wf _ _ _ _ _ _ _ h)

theorem State.workOn_wf (h : s.memWf = true) (sv w) : (s.workOn sv w).1.memWf = true :=
  State.moveOn_wf (State.xlateAll_wf _ _ _ _ _ _ (State.xlateAll_wf _ _ _ _ _ _ h)) _ _

theorem State.workAll_wf (h : s.memWf = true) (sv w) : (s.workAll sv w).1.memWf = true :=
  State.landAll_wf _ _ _ _ _ _ _ _ (State.readAll_wf _ _ _ _ _ _ _
    (State.xlateAll_wf _ _ _ _ _ _ (State.xlateAll_wf _ _ _ _ _ _ h)))

theorem State.landSome_wf (h : s.memWf = true) (sv w) : (s.landSome sv w).1.memWf = true :=
  State.landAll_wf _ _ _ _ _ _ _ _ h

/-- A fault that is found leaves canonical memory. -/
def FaultWf (o : Option (State × Cause × Nat)) : Prop := ∀ f, o = some f → f.1.memWf = true

theorem FaultWf.none : FaultWf none := fun _ h => nomatch h

theorem FaultWf.some {s : State} (h : s.memWf = true) (c : Cause) (a : Nat) : FaultWf (some (s, c, a)) := by
  intro f e; cases e; exact h

theorem State.xlateFault_wf (h : s.memWf = true) (who p k g) : FaultWf (s.xlateFault who p k g) := by
  have hg := State.prepare_wf h who p g.addr g.n k g.whole
  unfold State.xlateFault
  split
  · exact FaultWf.none
  · split
    · rename_i e; rw [e] at hg; exact FaultWf.some hg _ _
    · exact FaultWf.none

theorem State.readFault_wf (h : s.memWf = true) (sv g) : FaultWf (s.readFault sv g) := by
  have hg := State.readGrain_wf h sv.reads sv.v sv.pol g
  unfold State.readFault
  split
  · split
    · rename_i e; rw [e] at hg; exact FaultWf.some hg _ _
    · exact FaultWf.none
  · exact FaultWf.none

theorem State.landFault_wf (h : s.memWf = true) (sv w g) : FaultWf (s.landFault sv w g) := by
  unfold State.landFault
  split
  · exact FaultWf.none
  · rename_i e d whole _ _
    have hg := State.writeGrain_wf h sv.writes sv.v sv.pol e d whole
    split
    · rename_i e; rw [e] at hg; exact FaultWf.some hg _ _
    · exact FaultWf.none

/-- The first fault among some granules. -/
theorem FaultWf.findSome {f : Grain → Option (State × Cause × Nat)} (hf : ∀ g, FaultWf (f g)) (l : List Grain) :
    FaultWf (l.findSome? f) := by
  intro x e
  obtain ⟨g, _, hg⟩ := List.exists_of_findSome?_eq_some e
  exact hf g x hg

theorem FaultWf.or {a b : Option (State × Cause × Nat)} (ha : FaultWf a) (hb : FaultWf b) : FaultWf (a.or b) := by
  cases a with
  | none => exact hb
  | some x => exact ha

theorem State.workFault_wf (h : s.memWf = true) (sv w) : FaultWf (s.workFault sv w) := by
  refine FaultWf.or (FaultWf.findSome (fun g => ?_) _) (FaultWf.findSome (fun g => ?_) _)
  · have hx := State.xlateFault_wf h sv.reads.who (s.partOf sv.v) .read g
    split
    · rename_i e; rw [e] at hx; exact hx
    · exact State.readFault_wf h _ _
  · have hx := State.xlateFault_wf h sv.writes.who (s.partOf sv.v) .write g
    split
    · rename_i e; rw [e] at hx; exact hx
    · exact State.landFault_wf h _ _ _

@[simp] theorem State.indexAt_wf (sv g i) : (s.indexAt sv g i).1.memWf = s.memWf := by simp [State.indexAt]

theorem State.readIndex_wf (h : s.memWf = true) (sv g w i) : (s.readIndex sv g w i).1.memWf = true := by
  unfold State.readIndex
  dsimp only
  split
  · exact h
  · simp [h]

theorem State.readIndices_wf (sv g) (is : List Nat) : ∀ (s : State) (w : Work), s.memWf = true →
    (State.readIndices sv g is s w).1.memWf = true := by
  induction is with
  | nil => intro s w h; exact h
  | cons i is ih => intro s w h; exact ih _ _ (State.readIndex_wf h sv g w i)

theorem State.markAll_wf (who p size k) (gs : List Grain) : ∀ (s : State) (acc : List Grain) (m : List (Nat × Nat × Cause)),
    s.memWf = true → (State.markAll who p size k gs s acc m).1.memWf = true := by
  induction gs with
  | nil => intro s acc m h; exact h
  | cons g gs ih =>
    intro s acc m h
    have hg := State.prepare_wf h who p g.addr g.n k false
    simp only [State.markAll]
    split
    · exact ih _ _ _ h
    · split
      · exact ih _ _ _ h
      · split <;> (simp only [*, XRes.Wf] at hg; exact ih _ _ _ hg)

theorem State.gatherOn_wf (h : s.memWf = true) (sv g w b) : (s.gatherOn sv g w b).1.memWf = true :=
  State.moveOn_wf (State.markAll_wf _ _ _ _ _ _ _ _ (State.markAll_wf _ _ _ _ _ _ _ _ (State.readIndices_wf _ _ _ _ _ h))) _ _

theorem State.gatherFault_wf (h : s.memWf = true) (sv g w) (f) (hf : s.gatherFault sv g w = some f) :
    f.1.memWf = true := by
  revert hf
  unfold State.gatherFault
  split
  · intro e; cases e; exact h
  · dsimp only
    split
    · intro e
      obtain ⟨_, _, rfl⟩ := Option.map_eq_some_iff.mp e
      exact State.gatherOn_wf h ..
    · intro e; cases e

/-! ### Shared engines -/

@[simp] theorem State.setEngine_wf (e x) : (s.setEngine e x).memWf = s.memWf := State.wf_congr rfl rfl rfl
@[simp] theorem State.mayDoze_wf (e) : (s.mayDoze e).memWf = s.memWf := by
  unfold State.mayDoze; dsimp only; split <;> rfl
@[simp] theorem State.countColl_wf (v t p) : (s.countColl v t p).memWf = s.memWf := State.wf_congr rfl rfl rfl
@[simp] theorem State.admitReq_wf (r e h) : (s.admitReq r e h).memWf = s.memWf := by
  unfold State.admitReq; dsimp only; rw [State.note_wf, State.memWf_mk]; (repeat' split) <;> rfl

theorem State.engSeen_wf (v c l) (h : s.memWf = true) : (s.engSeen v c l).memWf = true := by
  unfold State.engSeen
  refine foldl_wf (fun s b hs => ?_) _ h
  rw [State.setEngine_wf]; exact hs

theorem tryEntries_wf (r : EReq) (is : List Nat) : ∀ (s : State) (rs : List Nat),
    (tryEntries r is s rs).s.memWf = s.memWf := by
  induction is with
  | nil => intro s rs; rfl
  | cons i is ih =>
    intro s rs
    simp only [tryEntries]
    (repeat' split) <;> first | rfl | exact State.admitReq_wf .. | (rw [ih]; try rfl)

theorem State.clearMarks_wf (v c) (h : s.memWf = true) : (s.clearMarks v c).memWf = true := by
  unfold State.clearMarks
  refine foldl_wf (fun s b hs => ?_) _ h
  exact hs

theorem State.clearAllMarks_wf (v) (h : s.memWf = true) : (s.clearAllMarks v).memWf = true := by
  unfold State.clearAllMarks
  generalize List.range 6 = l
  exact foldl_wf (fun s b hs => State.clearMarks_wf v b hs) l h

theorem State.engage_wf (h : s.memWf = true) (r) : (s.engage r).memWf = true := by
  have ht : ∀ t : Tried, t = (if r.check ≠ 0 then ⟨s, [r.check], none, false⟩ else tryEntries r [0, 1, 2, 3] s []) →
      t.s.memWf = true := by
    intro t e; subst e; split
    · exact h
    · rw [tryEntries_wf]; exact h
  unfold State.engage
  extract_lets cls t rs code
  have h1 := ht t rfl
  split
  rename_i pos ent held _
  extract_lets word c5 s1
  have h2 : s1.memWf = true := State.engSeen_wf _ _ _ (by rw [State.setCore_wf]; exact h1)
  split
  · exact State.clearMarks_wf _ _ h2
  · exact h2

@[simp] theorem State.grantLease_wf (p l e) : (s.grantLease p l e).1.memWf = s.memWf := by
  unfold State.grantLease; dsimp only; (repeat' split) <;> rfl
@[simp] theorem State.lease_wf (v a) : (s.lease v a).1.memWf = s.memWf := by
  unfold State.lease
  extract_lets ent cls any idx p n target
  clear_value target
  (repeat' split) <;> dsimp only <;> (repeat' split) <;> first | rfl | exact State.grantLease_wf ..
@[simp] theorem State.endLease_wf (l e) : (s.endLease l e).memWf = s.memWf := by
  simp [State.endLease]
@[simp] theorem State.holdNow_wf (e) : (s.holdNow e).memWf = s.memWf := by
  unfold State.holdNow; dsimp only; (repeat' split) <;> simp
theorem State.endCommand_wf (c b) (h : s.memWf = true) : (s.endCommand c b).memWf = true := by
  have h1 := State.landSome_wf h (s.eServer c) c.work
  unfold State.endCommand
  dsimp only
  split
  · exact h1
  · split
    · rw [State.holdNow_wf]; exact h1
    · exact h1
theorem State.recall_wf (e) (h : s.memWf = true) : (s.recall e).memWf = true := by
  unfold State.recall
  split
  · exact h
  · exact foldl_wf (fun s b hs => State.endCommand_wf b true hs) _ h
theorem State.fitPool_wf (n) : ∀ s : State, s.memWf = true → (State.fitPool n s).memWf = true := by
  induction n with
  | zero => intro s h; exact h
  | succ n ih =>
    intro s h
    simp only [State.fitPool]
    (repeat' split)
    · exact h
    · exact h
    · refine ih _ ?_
      rw [State.setReg_wf, State.orReg_wf]
      exact State.recall_wf _ h

/-! ### L commands -/

@[simp] theorem State.lMark_wf (v l c a) : (s.lMark v l c a).1.memWf = s.memWf := by simp [State.lMark]

@[simp] theorem State.lStop_wf (v l) : (s.lStop v l).1.memWf = s.memWf := by
  unfold State.lStop
  split
  · exact State.lMark_wf ..
  · rfl

theorem State.lOn_wf (h : s.memWf = true) (v l) : (s.lOn v l).1.memWf = true := by
  unfold State.lOn
  dsimp only
  split
  · rw [State.lStop_wf]; exact State.gatherOn_wf h ..
  · exact State.workOn_wf h ..

theorem State.tileAt_wf (h : s.memWf = true) (v l i) : (s.tileAt v l i).1.memWf = true := by
  have hx := State.xlate_wf h (v, l.id) (s.partOf v) ((l.tileRange.1 + i) * 1024) .read 1
  unfold State.tileAt
  dsimp only
  split <;> (simp only [*, XRes.Wf] at hx; exact hx)

theorem State.askTile_wf (h : s.memWf = true) (v l i x) : (s.askTile v l i x).1.memWf = true := by
  unfold State.askTile
  split
  · exact h
  · dsimp only
    split
    · simp [h]
    · dsimp only
      split
      · simp [h]
      · rw [State.memWf_mk]; simp [h]

theorem State.pump_wf (v n) : ∀ (l : LCmd) (s : State), s.memWf = true → (State.pump v n l s).1.memWf = true := by
  induction n with
  | zero => intro l s h; exact h
  | succ n ih =>
    intro l s h
    simp only [State.pump]
    split
    · rename_i e _
      have ht := State.tileAt_wf h v l e.1
      split
      · rename_i q; rw [q] at ht; exact ih _ _ (State.askTile_wf ht ..)
      · rename_i q; rw [q] at ht; exact ht
    · split
      · exact h
      · have ht := State.tileAt_wf h v l l.todo
        split
        · rename_i q; rw [q] at ht; exact ih _ _ (State.askTile_wf ht ..)
        · rename_i q; rw [q] at ht; exact ht

theorem State.lower_wf (v n) : ∀ (l : LCmd) (s : State), s.memWf = true → (State.lower v n l s).1.memWf = true := by
  induction n with
  | zero => intro l s h; exact h
  | succ n ih =>
    intro l s h
    simp only [State.lower]
    split
    · exact h
    · have ht := State.tileAt_wf h v l l.todo
      split
      · rename_i q; rw [q] at ht
        refine ih _ _ ?_
        split
        · exact ht
        · exact ht
      · rename_i q; rw [q] at ht; exact ht

theorem State.tilesOn_wf (h : s.memWf = true) (v l b) : (s.tilesOn v l b).1.memWf = true := by
  unfold State.tilesOn
  dsimp only
  split
  · exact State.pump_wf _ _ _ _ h
  · exact State.lower_wf _ _ _ _ h

@[simp] theorem State.putLcmd_wf (v l) : (s.putLcmd v l).memWf = s.memWf := by simp [State.putLcmd]

@[simp] theorem State.completed_wf (v a b c d k n r) : (s.completed v a b c d k n r).memWf = s.memWf := by
  unfold State.completed
  dsimp only
  rw [State.flushAt_wf]
  split <;> simp

@[simp] theorem State.deliver_wf (v l) : (s.deliver v l).memWf = s.memWf := by simp [State.deliver]

@[simp] theorem State.lFault_wf (v l c a) : (s.lFault v l c a).memWf = s.memWf := by simp [State.lFault]

end Sys2Proof.Machine
end

