-- ==== Sys2Proof/Laws/MemWfGraph.lean ====
section
/-! SUPPORT. The canonical form of memory through engine services, links and the scheduler's graph. -/

namespace Sys2Proof.Machine

open Sys2Proof

variable {s : State}

/-! ### Links -/

theorem State.relRead_wf (h : s.memWf = true) (p pa t n) : (s.relRead p pa t n).Wf := by
  unfold State.relRead; split
  · exact h
  · exact State.devRead_wf h ..

theorem State.relWrite_wf (h : s.memWf = true) (p pa t b) : (s.relWrite p pa t b).Wf := by
  unfold State.relWrite; split
  · exact h
  · exact State.devWrite_wf h ..

@[simp] theorem State.setPair_wf (a b r) : (s.setPair a b r).memWf = s.memWf := State.wf_congr rfl rfl rfl
@[simp] theorem State.relayOut_wf (a b) : (s.relayOut a b).memWf = s.memWf := by
  unfold State.relayOut; dsimp only; split <;> rfl
@[simp] theorem State.relaySend_wf (a b m) : (s.relaySend a b m).memWf = s.memWf := by simp [State.relaySend]
@[simp] theorem State.listRead_wf (h : s.memWf = true) (p) : (s.listRead p).memWf = true := by
  unfold State.listRead
  dsimp only
  split
  · exact h
  · exact foldl_wf (fun s b hs => by simp [hs]) _ h

/-! ### Engine services -/

@[simp] theorem State.setEcmd_wf (c) : (s.setEcmd c).memWf = s.memWf := by
  unfold State.setEcmd; split
  · rw [State.mayDoze_wf]; rfl
  · rfl

theorem foldl_pair_wf {β γ : Type} {f : State × γ → β → State × γ}
    (hf : ∀ a b, a.1.memWf = true → (f a b).1.memWf = true) (l : List β) {a : State × γ} (h : a.1.memWf = true) :
    (l.foldl f a).1.memWf = true := by
  induction l generalizing a with
  | nil => exact h
  | cons b l ih => exact ih (hf a b h)

@[simp] theorem State.setUe_wf (n x) : (s.setUe n x).memWf = s.memWf := State.wf_congr rfl rfl rfl

@[simp] theorem State.ueSend_wf (n c b ps) : (s.ueSend n c b ps).memWf = s.memWf := State.wf_congr rfl rfl rfl

@[simp] theorem State.addContrib_wf (x o) : (s.addContrib x o).memWf = s.memWf := by
  unfold State.addContrib; (repeat' split) <;> first | rfl | exact State.wf_congr rfl rfl rfl

theorem State.sendContrib_wf (h : s.memWf = true) (c nd x q) : (s.sendContrib c nd x q).memWf = true := by
  unfold State.sendContrib
  split
  · simp [h]
  · refine foldl_wf (fun s e hs => ?_) _ h
    rw [State.relaySend_wf]; exact hs

theorem State.contribute_wf (h : s.memWf = true) (c d) : (s.contribute c d).memWf = true := by
  unfold State.contribute
  split
  · dsimp only
    split
    · exact foldl_wf (fun s b hs => State.sendContrib_wf hs _ _ _ _) _ (by simp [h])
    · simp [h]
  · exact h

theorem State.notOpen_wf (h : s.memWf = true) (c) : (s.notOpen c).memWf = true := by
  unfold State.notOpen; split
  · rw [State.mayDoze_wf]; exact State.endCommand_wf _ _ h
  · rw [State.setEcmd_wf]; exact h

theorem State.eOn_wf (h : s.memWf = true) (c) : (s.eOn c).1.memWf = true := State.workOn_wf h ..

theorem State.serviceFault_wf (h : s.memWf = true) (c r) (e : s.serviceFault c = some r) : r.1.memWf = true := by
  unfold State.serviceFault at e
  split at e <;> obtain ⟨f, hf, rfl⟩ := Option.map_eq_some_iff.mp e
  · exact State.gatherFault_wf h _ _ _ f hf
  · exact State.workFault_wf h _ _ f hf

/-! ### The graph -/

@[simp] theorem State.setNode_wf (n x) : (s.setNode n x).memWf = s.memWf := State.wf_congr rfl rfl rfl
@[simp] theorem State.setJob_wf (p j x) : (s.setJob p j x).memWf = s.memWf := State.wf_congr rfl rfl rfl
@[simp] theorem State.countNode_wf (p j) : (s.countNode p j).memWf = s.memWf := State.wf_congr rfl rfl rfl
@[simp] theorem State.countSent_wf (p j) : (s.countSent p j).memWf = s.memWf := State.wf_congr rfl rfl rfl
@[simp] theorem State.setQslot_wf (i x) : (s.setQslot i x).memWf = s.memWf := State.wf_congr rfl rfl rfl
@[simp] theorem State.setArena_wf (p k x) : (s.setArena p k x).memWf = s.memWf := State.wf_congr rfl rfl rfl

theorem State.qRead_wf (h : s.memWf = true) (i o n) : (s.qRead i o n).Wf := by
  unfold State.qRead; dsimp only; split
  · exact State.hostAcc_wf h ..
  · exact State.gRead_wf h ..

theorem State.qWrite_wf (h : s.memWf = true) (i o d) : (s.qWrite i o d).Wf := by
  unfold State.qWrite; dsimp only; split
  · exact State.hostAcc_wf h ..
  · exact State.gWrite_wf h ..

theorem State.learnHead_wf (h : s.memWf = true) (i) : (s.learnHead i).memWf = true := by
  have hq := State.qRead_wf h i 0 8
  unfold State.learnHead
  split
  · exact h
  · split <;> (simp only [*, MRes.Wf] at hq; simp [hq])

theorem State.writeDone_wf (h : s.memWf = true) (i) : (s.writeDone i).memWf = true := by
  unfold State.writeDone
  extract_lets s1 q v
  have h1 : s1.memWf = true := State.learnHead_wf h i
  clear_value s1
  have hq := State.qWrite_wf h1 i 16 (leBytes 8 v)
  split
  · rw [State.setQslot_wf]; exact h1
  · split <;> (simp only [*, MRes.Wf] at hq; simp [hq])

theorem State.checkZero_wf (h : s.memWf = true) (p j) : (s.checkZero p j).memWf = true := by
  unfold State.checkZero
  dsimp only
  split
  · exact h
  · split
    · exact foldl_wf (fun s b hs => State.writeDone_wf hs b) _ h
    · refine foldl_wf (fun s b hs => ?_) _ h
      exact hs

theorem State.killArena_wf (h : s.memWf = true) (p k) : (s.killArena p k).memWf = true := by
  unfold State.killArena; dsimp only; rw [State.memWf_mk]
  simp (maxDischargeDepth := 9) [h]

theorem State.releaseHolds_wf (h : s.memWf = true) (p n) : (s.releaseHolds p n).memWf = true := by
  unfold State.releaseHolds
  generalize List.range 64 = l
  refine foldl_wf (fun s b hs => ?_) l h
  dsimp only
  (repeat' split) <;> first | exact hs | exact State.killArena_wf hs ..

theorem State.holdArena_wf (h : s.memWf = true) (p n a) : (s.holdArena p n a).memWf = true := by
  unfold State.holdArena; dsimp only; split <;> exact h

@[simp] theorem State.logFail_wf (h : s.memWf = true) (p j c n) : (s.logFail p j c n).memWf = true := by
  unfold State.logFail
  extract_lets s1
  have h1 : s1.memWf = true := by simp only [s1, State.orReg_wf]; exact h
  clear_value s1
  split
  · rw [State.memWf_mk]; simp [h1]
  · exact (State.orReg_wf (s := s1) ..).trans h1

theorem State.dropNode_wf (h : s.memWf = true) (n) : (s.dropNode n).memWf = true := by
  unfold State.dropNode; split
  · exact h
  · rename_i x _
    have hr := State.releaseHolds_wf h x.part n
    dsimp only
    generalize s.releaseHolds x.part n = s1 at hr ⊢
    rw [State.memWf_mk]; simp [hr]

theorem State.failJob_wf (h : s.memWf = true) (p j c n) : (s.failJob p j c n).memWf = true := by
  unfold State.failJob
  refine State.checkZero_wf (foldl_wf (fun s b hs => State.dropNode_wf hs b) _ (foldl_wf (fun s b hs => ?_) _ ?_)) ..
  · exact hs
  · rw [State.setJob_wf]; exact State.logFail_wf h ..

theorem State.readRecGo_wf (p) (as : List Nat) : ∀ (s : State) (acc : List Byte), s.memWf = true →
    (State.readRecGo p as s acc).1.memWf = true := by
  induction as with
  | nil => intro s acc h; exact h
  | cons a as ih =>
    intro s acc h
    simp only [State.readRecGo]
    split
    · exact h
    · rename_i x _
      split
      · exact h
      · have hd := State.devRead_wf (s := (s.walked p (s.xlatTiles (numCores + 2) p a .read)).cache (numCores + 2) x)
          (by rw [State.cache_wf]; exact State.walked_wf h ..) p x.pa 16 (appliedPol x.cmax 0)
        split <;> (simp only [*, MRes.Wf] at hd)
        · exact ih _ _ hd
        · exact hd
        · exact hd

theorem State.readRec_wf (h : s.memWf = true) (p l) : (s.readRec p l).1.memWf = true := by
  have hr := State.readRecGo_wf p ((List.range 12).map (fun i => l + 16 * i)) s [] h
  unfold State.readRec
  split <;> (rename_i e; rw [e] at hr; exact hr)

theorem State.makeReady_wf (h : s.memWf = true) (n) : (s.makeReady n).memWf = true := by
  unfold State.makeReady
  split
  · exact h
  · rename_i x _
    extract_lets s0 s1
    have h1 : s1.memWf = true := by simp [s1, s0, h]
    clear_value s1
    have hr := State.readRec_wf h1 x.part x.lrec
    split <;> (rename_i e; rw [e] at hr)
    · exact State.failJob_wf hr ..
    · extract_lets s2 c far s3
      have h2 : s2.memWf = true := State.listRead_wf hr _
      clear_value s2
      split
      · exact State.failJob_wf h2 ..
      · refine foldl_wf (fun s b hs => ?_) _ ?_
        · simpa using hs
        · simpa [s3] using h2

theorem State.passHandles_wf (h : s.memWf = true) (n hs) : (s.passHandles n hs).memWf = true := by
  unfold State.passHandles
  refine foldl_wf (fun _ _ h => ?_) _ h
  split
  · exact h
  · split
    · exact h
    · exact State.holdArena_wf (by simpa using h) ..

theorem State.wakeHeld_wf (h : s.memWf = true) : s.wakeHeld.memWf = true :=
  foldl_wf (fun _ b hs => State.makeReady_wf hs b) _ h

theorem State.applyTo_wf (h : s.memWf = true) (p j n b o) : (s.applyTo p j n b o).memWf = true := by
  unfold State.applyTo
  extract_lets s1
  have h1 : s1.memWf = true := State.passHandles_wf h ..
  split
  · exact h1
  · split
    · exact State.failJob_wf h1 ..
    · extract_lets s2
      have h2 : s2.memWf = true := by simp only [s2, State.setNode_wf]; exact h1
      clear_value s2 s1
      split
      · exact State.makeReady_wf h2 ..
      · exact h2

theorem State.applyHere_wf (h : s.memWf = true) (p j c b k o) : (s.applyHere p j c b k o).memWf = true := by
  unfold State.applyHere
  extract_lets key live
  clear_value live
  split
  · split
    · exact State.failJob_wf h ..
    · exact State.applyTo_wf h ..
  · split
    · exact State.failJob_wf h ..
    · exact State.applyTo_wf (by simp [h]) ..

theorem State.applySucc_wf (h : s.memWf = true) (x) : (s.applySucc x).memWf = true := by
  unfold State.applySucc
  extract_lets node c t home
  have ht : t.memWf = true := State.listRead_wf h _
  clear_value t
  split
  · exact h
  · split
    · exact State.failJob_wf h ..
    · split
      · exact State.applyHere_wf ht ..
      · simp [ht]

end Sys2Proof.Machine
end

