-- ==== Sys2Proof/Laws/MemWfEvents.lean ====
section
/-! SUPPORT. The canonical form of memory through the scheduler's events, accesses, L commands and engine commands. -/

namespace Sys2Proof.Machine

open Sys2Proof

/-- A next state of a result has canonical memory. -/
def ResWf : Res → Prop
  | .next s => s.memWf = true
  | _ => True

variable {s : State}

theorem ResWf.ite {p : Prop} [Decidable p] {a b : Res} (ha : p → ResWf a) (hb : ¬p → ResWf b) :
    ResWf (if p then a else b) := by split <;> [exact ha ‹_›; exact hb ‹_›]

/-! ### Scheduler -/

theorem State.birth_wf (p n) (l : List (Nat × Nat × Bool)) : ∀ s : State, s.memWf = true →
    (State.birth p n l s).memWf = true := by
  induction l with
  | nil => intro s h; exact h
  | cons e l ih =>
    intro s h
    obtain ⟨a, t, z⟩ := e
    simp only [State.birth]
    split
    · exact ih _ (by simp [h])
    · exact h

theorem execArenaAllocate_wf (h : s.memWf = true) (n) : ResWf (execArenaAllocate n s) := by
  unfold execArenaAllocate
  split
  · exact h
  · rename_i x _
    have hb := State.birth_wf x.part n (recArenas x.record) s h
    split
    · exact h
    · split
      · split
        · exact State.failJob_wf h ..
        · exact h
      · split
        · exact h
        · dsimp only
          split
          · exact hb
          · simp [ResWf, hb]

theorem State.zeroTile_wf (h : s.memWf = true) (p t) : (s.zeroTile p t).memWf = true :=
  State.devMerge_wf (State.dropTile_wf h _) ..

theorem State.zeroArena_wf (h : s.memWf = true) (p a) : (s.zeroArena p a).memWf = true := by
  unfold State.zeroArena
  generalize List.range 64 = l
  exact foldl_wf (fun _ g hs => foldl_wf (fun _ i hs => State.zeroTile_wf hs ..) l hs) _ h

theorem execArenaZeroFillDone_wf (h : s.memWf = true) (n) : ResWf (execArenaZeroFillDone n s) := by
  unfold execArenaZeroFillDone
  split
  · exact h
  · split
    · exact h
    · dsimp only [ResWf]
      rw [State.setNode_wf]
      exact foldl_wf (fun _ a hs => State.zeroArena_wf hs ..) _ h

@[simp] theorem State.beginTask_wf (v t r l) : (s.beginTask v t r l).memWf = s.memWf := by
  unfold State.beginTask
  dsimp only
  rw [State.note_wf, State.settlePast_wf, State.memWf_mk]
  rfl

theorem State.startGang_wf (h : s.memWf = true) (n x cs) : (s.startGang n x cs).memWf = true := by
  unfold State.startGang
  dsimp only
  refine foldl_wf (fun s b hs => ?_) _ ?_
  · rw [State.beginTask_wf]; exact hs
  · simp [h]

theorem State.nodeComplete_wf (h : s.memWf = true) (n) : (s.nodeComplete n).memWf = true := by
  unfold State.nodeComplete
  split
  · exact h
  · extract_lets es s1 far s2
    have h1 : s1.memWf = true := by
      refine foldl_wf (fun s b hs => ?_) _ h
      rw [State.endLease_wf]; exact hs
    have h2 : s2.memWf = true := by
      refine foldl_wf (fun s b hs => ?_) _ h1
      rw [State.relaySend_wf]; exact hs
    exact State.checkZero_wf (State.dropNode_wf h2 _) ..

theorem State.gangReport_wf (h : s.memWf = true) (n) : (s.gangReport n).memWf = true := by
  unfold State.gangReport
  split
  · exact h
  · split
    · exact State.nodeComplete_wf h _
    · simp [h]

theorem State.gangDone_wf (h : s.memWf = true) (n) : (s.gangDone n).memWf = true := by
  unfold State.gangDone
  split
  · exact h
  · extract_lets s1 s2
    have h1 : s1.memWf = true := by
      refine foldl_wf (fun s b hs => ?_) _ h
      rw [State.setCore_wf]; exact hs
    have h2 : s2.memWf = true := by simp only [s2, State.setNode_wf]; exact h1
    clear_value s2
    split
    · exact State.gangReport_wf h2 _
    · simp [h2]

@[simp] theorem State.preCheck_wf (p) : (s.preCheck p).memWf = s.memWf := by
  unfold State.preCheck; split
  · rw [State.orReg_wf, State.setRegF_wf]
  · rfl

@[simp] theorem State.leaveReqs_wf (v) : (s.leaveReqs v).memWf = s.memWf := State.wf_congr rfl rfl rfl

theorem State.finishTask_wf (h0 : s.memWf = true) (v) : (s.finishTask v).memWf = true := by
  unfold State.finishTask
  extract_lets s9 c c1 s0 s1
  have h : s9.memWf = true := by simp only [s9, State.note_wf, State.leaveReqs_wf, h0]
  clear_value s9
  split
  · exact h
  · rename_i t _
    have h0 : s0.memWf = true := State.clearAllMarks_wf _ (by rw [State.setCore_wf]; exact h)
    have h1 : s1.memWf = true := by simp only [s1]; rw [State.memWf_mk]; simp [h0]
    clear_value s1 c1
    split
    · simp [h1]
    · extract_lets x1 s2
      have h2 : s2.memWf = true := by simp only [s2, State.setNode_wf]; exact h1
      clear_value s2
      rw [State.preCheck_wf]
      split
      · exact State.gangDone_wf h2 _
      · exact h2

theorem execTaskCompletion_wf (h0 : s.memWf = true) (v) : ResWf (execTaskCompletion v s) := by
  unfold execTaskCompletion
  extract_lets c0 c σ src
  have h : σ.memWf = true := by simp only [σ]; split <;> simp [h0]
  clear_value σ
  split
  · split
    · split
      · exact h
      · split
        · simp [ResWf, h]
        · split
          · exact State.finishTask_wf h _
          · extract_lets bs s1
            have h1 : s1.memWf = true := by simp only [s1, src]; rw [State.memWf_mk]; simp [h]
            simp only [ResWf]
            split
            · exact State.finishTask_wf h1 _
            · exact h1
    · split
      · exact h
      · exact State.finishTask_wf h _
  · exact h

theorem execSuccessorApply_wf (h : s.memWf = true) (k) : ResWf (execSuccessorApply k s) := by
  unfold execSuccessorApply
  split
  · exact h
  · exact State.applySucc_wf (by rw [State.memWf_mk]; simp [h]) _

theorem execGangPlace_wf (h : s.memWf = true) (n) : ResWf (execGangPlace n s) := by
  unfold execGangPlace
  split
  · exact h
  · split
    · exact h
    · split
      · exact State.gangDone_wf (by simp [h]) _
      · dsimp only
        split
        · exact State.startGang_wf h ..
        · exact h

theorem execAgeingInterval_wf (h : s.memWf = true) (n) : ResWf (execAgeingInterval n s) := by
  unfold execAgeingInterval; (repeat' split) <;> simp [ResWf, h]

theorem execTaskOverrun_wf (h : s.memWf = true) (v) : ResWf (execTaskOverrun v s) := by
  unfold execTaskOverrun; dsimp only; (repeat' split) <;> simp [ResWf, h]

@[simp] theorem State.dropMsg_wf (k) : (s.dropMsg k).memWf = s.memWf := State.wf_congr rfl rfl rfl

theorem execEnqueuePacket_wf (h : s.memWf = true) (k) : ResWf (execEnqueuePacket k s) := by
  unfold execEnqueuePacket
  split
  · simp only [ResWf, State.relaySend_wf]
    split
    · simp [h]
    · exact State.applyHere_wf (by simp [h]) ..
  · exact h

theorem execEnqueueAck_wf (h : s.memWf = true) (k) : ResWf (execEnqueueAck k s) := by
  unfold execEnqueueAck
  split
  · exact State.checkZero_wf (by simp [h]) ..
  · exact h

theorem execReadyPacket_wf (h : s.memWf = true) (k) : ResWf (execReadyPacket k s) := by
  unfold execReadyPacket
  split
  · simp only [ResWf, State.relaySend_wf]
    split
    · exact State.failJob_wf (by simp [h]) ..
    · split
      · simp [h]
      · exact State.makeReady_wf (by simp [h]) _
  · exact h

theorem execGangCompleteReport_wf (h : s.memWf = true) (k) : ResWf (execGangCompleteReport k s) := by
  unfold execGangCompleteReport
  split
  · dsimp only
    split
    · simp [ResWf, h]
    · split
      · exact State.gangReport_wf (by simp [h]) _
      · exact State.nodeComplete_wf (by simp [h]) _
  · exact h

/-! ### Accesses -/

theorem execAccessPerform_wf (h : s.memWf = true) (v k) : ResWf (execAccessPerform v k s) := by
  unfold execAccessPerform
  dsimp only
  split
  · exact h
  · split
    · exact h
    · split
      · split
        · simp [ResWf, h]
        · exact h
      · split
        · trivial
        · exact State.performAcc_wf h ..

@[simp] theorem State.replayed_wf (v a) : (s.replayed v a).memWf = s.memWf := by simp [State.replayed]

theorem execSideLogReplay_wf (h : s.memWf = true) (v k) : ResWf (execSideLogReplay v k s) := by
  unfold execSideLogReplay
  dsimp only
  split
  · exact h
  · rename_i e _
    split
    · simp [ResWf, h]
    · split
      · simp [ResWf, h]
      · simp [ResWf, h]
      · have hg := State.gAcc_wf h (s.agentOf v e.acc) (s.partOf v) e.acc.addr e.acc.n e.acc.pol e.acc.kind false
        split <;> (simp only [*, MRes.Wf] at hg; simp [ResWf, hg])

theorem State.logHeld_wf (h : s.memWf = true) (v c) : (s.logHeld v c).memWf = true := by
  unfold State.logHeld
  dsimp only
  refine foldl_wf (fun s a hs => ?_) _ ?_
  · rw [State.post_wf]; exact hs
  · rw [State.setCore_wf]; exact h

theorem execSideLogKick_wf (h : s.memWf = true) (p v) : ResWf (execSideLogKick p v s) := by
  unfold execSideLogKick; dsimp only; split <;> simp [ResWf, h]

/-! ### L commands -/

theorem execLCmdSourceReleased_wf (h : s.memWf = true) (v k) : ResWf (execLCmdSourceReleased v k s) := by
  unfold execLCmdSourceReleased
  split
  · exact h
  · rename_i l _
    split
    · exact h
    · have hs := State.lOn_wf h v l
      dsimp only
      split <;> simp [ResWf, hs]

theorem execLCmdDelivered_wf (h : s.memWf = true) (v k) : ResWf (execLCmdDelivered v k s) := by
  unfold execLCmdDelivered
  split
  · exact h
  · rename_i l _
    split
    · exact h
    · split
      · simp [ResWf, State.landSome_wf h]
      · split
        · have hp := State.tilesOn_wf h v l false
          split <;> (rename_i e; rw [e] at hp)
          · split <;> simp [ResWf, hp]
          · simp [ResWf, hp]
          · exact h
        · have hs := State.lOn_wf h v l
          dsimp only
          split <;> simp [ResWf, hs]

theorem execNotifyWrite_wf (h : s.memWf = true) (v k) : ResWf (execNotifyWrite v k s) := by
  unfold execNotifyWrite
  split
  · exact h
  · split
    · exact h
    · split <;> simp [ResWf, h]

theorem execLCmdServiceFault_wf (h : s.memWf = true) (v k) : ResWf (execLCmdServiceFault v k s) := by
  unfold execLCmdServiceFault
  split
  · exact h
  · rename_i l _
    split
    · exact h
    · split
      · have hp := State.tilesOn_wf h v l true
        split
        · rename_i e; rw [e] at hp; simp [ResWf, hp]
        · exact h
      · split
        · split
          · rename_i e; have hg := State.gatherFault_wf h _ _ _ _ e; simpa [ResWf] using hg
          · exact h
        · split
          · rename_i e
            have hg := State.workFault_wf h _ _ _ e
            split
            · exact h
            · simpa [ResWf] using hg
          · exact h

/-! ### Engine commands -/

theorem serveCmd_wf (h : s.memWf = true) {k cls cmd} {f : ECmd → State} (hf : ∀ c, (f c).memWf = true) :
    ResWf (serveCmd s k cls cmd f) := by
  unfold serveCmd; split
  · exact h
  · split
    · exact hf _
    · exact h

theorem serveRow_wf (h : s.memWf = true) (k c) : ResWf (serveRow s k c) := by
  refine serveCmd_wf h (fun c => ?_)
  have hs := State.moveOn_wf h (s.eServer c) c.work
  dsimp only
  split <;> simp [hs]

theorem execRowMax_wf (h : s.memWf = true) (k) : ResWf (execRowMax k s) := serveRow_wf h ..
theorem execRowExps_wf (h : s.memWf = true) (k) : ResWf (execRowExps k s) := serveRow_wf h ..
theorem execRowScale_wf (h : s.memWf = true) (k) : ResWf (execRowScale k s) := serveRow_wf h ..
theorem execRowAll_wf (h : s.memWf = true) (k) : ResWf (execRowAll k s) := serveRow_wf h ..

@[simp] theorem State.eFault_wf (c a b) : (s.eFault c a b).memWf = s.memWf := by simp [State.eFault]
@[simp] theorem State.eStop_wf (c) : (s.eStop c).memWf = s.memWf := by unfold State.eStop; split <;> simp

theorem serveGth_wf (h : s.memWf = true) (k c) : ResWf (serveGth s k c) := by
  unfold serveGth
  split
  · exact h
  · split
    · exact h
    · rename_i c0 _ _
      have hs := State.gatherOn_wf h (s.eServer (s.regather c0)) (s.regather c0).gather (s.regather c0).work false
      simpa [ResWf] using hs

theorem execGthGet_wf (h : s.memWf = true) (k) : ResWf (execGthGet k s) := serveGth_wf h ..
theorem execGthPut_wf (h : s.memWf = true) (k) : ResWf (execGthPut k s) := serveGth_wf h ..

theorem serveSel_wf (h : s.memWf = true) (k c) : ResWf (serveSel s k c) := by
  refine serveCmd_wf h (fun c => ?_)
  have hs := State.eOn_wf h c
  dsimp only
  split <;> simp [hs]

theorem execSelTop_wf (h : s.memWf = true) (k) : ResWf (execSelTop k s) := serveSel_wf h ..
theorem execSelPack_wf (h : s.memWf = true) (k) : ResWf (execSelPack k s) := serveSel_wf h ..
theorem execXfmTr_wf (h : s.memWf = true) (k) : ResWf (execXfmTr k s) :=
  serveCmd_wf h (fun c => by simp [State.eOn_wf h c])

theorem serveColl_wf (h : s.memWf = true) (k c) : ResWf (serveColl s k c) := by
  refine serveCmd_wf h (fun c => ?_)
  have hs := State.eOn_wf h c
  dsimp only
  split
  · rw [State.setEcmd_wf]; exact State.contribute_wf hs ..
  · split
    · split <;> simp [hs]
    · simp [hs]

theorem execColSum_wf (h : s.memWf = true) (k) : ResWf (execColSum k s) := serveColl_wf h ..
theorem execColBcast_wf (h : s.memWf = true) (k) : ResWf (execColBcast k s) := serveColl_wf h ..
theorem execColCat_wf (h : s.memWf = true) (k) : ResWf (execColCat k s) := serveColl_wf h ..

theorem serveSend_wf (h : s.memWf = true) (k c) : ResWf (serveSend s k c) := by
  refine serveCmd_wf h (fun c => ?_)
  have hs := State.eOn_wf h c
  dsimp only
  split
  · exact State.notOpen_wf h _
  · split <;> simp [hs]

theorem execNetSend_wf (h : s.memWf = true) (k) : ResWf (execNetSend k s) := serveSend_wf h ..
theorem execNetWrite_wf (h : s.memWf = true) (k) : ResWf (execNetWrite k s) := serveSend_wf h ..

theorem execNetPost_wf (h : s.memWf = true) (k) : ResWf (execNetPost k s) := by
  refine serveCmd_wf h (fun c => ?_)
  dsimp only
  split
  · exact h
  · split
    · exact State.notOpen_wf h _
    · simp [h]

theorem execEngineReleasedEvent_wf (h : s.memWf = true) (k) : ResWf (execEngineReleasedEvent k s) := by
  unfold execEngineReleasedEvent; split
  · exact h
  · split <;> simp [ResWf, h]

theorem execEngineDeliveredEvent_wf (h : s.memWf = true) (k) : ResWf (execEngineDeliveredEvent k s) := by
  unfold execEngineDeliveredEvent; split
  · exact h
  · split
    · simp [ResWf, State.landSome_wf h]
    · split
      · simp only [ResWf, State.completed_wf]
        split <;> simp [h]
      · exact h

theorem execEngineOccupancyEnd_wf (h : s.memWf = true) (k) : ResWf (execEngineOccupancyEnd k s) := by
  unfold execEngineOccupancyEnd; split
  · exact h
  · split <;> simp [ResWf, h]

theorem execEngineServiceFault_wf (h : s.memWf = true) (k) : ResWf (execEngineServiceFault k s) := by
  unfold execEngineServiceFault
  split
  · exact h
  · extract_lets c
    refine ResWf.ite (fun _ => h) (fun _ => ?_)
    split
    · exact h
    · rename_i e
      have h1 : State.memWf _ = true := State.serviceFault_wf h _ _ e
      simpa [ResWf] using h1

end Sys2Proof.Machine
end

