-- ==== Sys2Proof/Laws/MemWfDevice.lean ====
section
/-! SUPPORT. The canonical form of memory through host queues, parking and frames, translations, layout and rekeying. -/

namespace Sys2Proof.Machine

open Sys2Proof

variable {s : State}

/-! ### Queues -/

@[simp] theorem State.setPending_wf (q) : (s.setPending q).memWf = s.memWf := by simp [State.setPending]

theorem execNotify_wf (h : s.memWf = true) (p i) : ResWf (execNotify p i s) := by
  unfold execNotify; dsimp only; (repeat' split) <;> simp [ResWf, h]

@[simp] theorem State.setErr_wf (i) : (s.setErr i).memWf = s.memWf := by unfold State.setErr; exact State.setRegF_wf ..

theorem State.writeHead_wf (h : s.memWf = true) (i) : (s.writeHead i).memWf = true := by
  have hq := State.qWrite_wf h i 0 (leBytes 8 (s.qslot i).head)
  unfold State.writeHead
  split <;> (simp only [*, MRes.Wf] at hq; simp [hq])

theorem State.readHeader_wf (h : s.memWf = true) (i) : (s.readHeader i).memWf = true := by
  unfold State.readHeader
  extract_lets s1
  have h1 : s1.memWf = true := State.learnHead_wf h i
  clear_value s1
  have hq := State.qRead_wf h1 i 8 8
  split
  · exact h1
  · split <;> (simp only [*, MRes.Wf] at hq; simp [hq])

theorem State.consume_wf (h : s.memWf = true) (i) : (s.consume i).memWf = true := by
  unfold State.consume
  extract_lets n
  have hq := State.qRead_wf h i (64 + 32 * ((s.qslot i).head % 2 ^ n)) 32
  split <;> (simp only [*, MRes.Wf] at hq)
  · exact State.applySucc_wf (by simp [hq]) _
  · simp [hq]
  · exact hq

theorem State.bindSlot_wf (h : s.memWf = true) (i x) : (s.bindSlot i x).memWf = true := by
  unfold State.bindSlot
  extract_lets q s1 now e s2
  have h2 : s2.memWf = true := by simp only [s2, s1, State.setQslot_wf, State.setReg_wf, h]
  clear_value s2
  split
  · rw [State.setRegF_wf]; exact h2
  · exact h2

theorem State.leaveQueue_wf (h : s.memWf = true) (i x) : (s.leaveQueue i x).memWf = true := by
  unfold State.leaveQueue
  dsimp only
  (repeat' split) <;> first | simp [h] | exact State.bindSlot_wf (by simp [h]) ..

theorem State.unbindOn_wf (h : s.memWf = true) (i x) : (s.unbindOn i x).memWf = true := by
  have hw := State.writeHead_wf h i
  unfold State.unbindOn
  split
  · split
    · exact h
    · dsimp only
      split
      · exact hw
      · exact State.leaveQueue_wf hw ..
  · exact State.leaveQueue_wf h ..

theorem State.servePending_wf (h : s.memWf = true) (i) : (s.servePending i).memWf = true := by simp [State.servePending, h]

theorem execQueueConsume_wf (h : s.memWf = true) (i) : ResWf (execQueueConsume i s) := by
  unfold execQueueConsume
  extract_lets q p
  refine ResWf.ite (fun _ => h) fun _ => ResWf.ite (fun _ => State.writeDone_wf h _) fun _ => ?_
  split
  · exact State.unbindOn_wf h ..
  · exact ResWf.ite (fun _ => State.servePending_wf h _) fun _ => ResWf.ite (fun _ => h) fun _ =>
      ResWf.ite (fun _ => State.readHeader_wf h _) fun _ => ResWf.ite (fun _ => State.consume_wf h _) fun _ =>
      ResWf.ite (fun _ => State.writeHead_wf h _) fun _ => h

theorem State.unbind_wf (h : s.memWf = true) (i x) : (s.unbind i x).memWf = true :=
  State.unbindOn_wf (by simp [h]) ..

theorem execQueueBind_wf (h : s.memWf = true) (i x) : ResWf (execQueueBind i x s) := by
  unfold execQueueBind
  dsimp only
  (repeat' split) <;> first | exact h | exact State.bindSlot_wf h .. | exact State.unbind_wf h .. | simp [ResWf, h]

theorem execQueueUnbind_wf (h : s.memWf = true) (i) : ResWf (execQueueUnbind i s) := by
  unfold execQueueUnbind
  (repeat' split) <;> first | exact h | exact State.unbind_wf h .. | simp [ResWf, h]

theorem execQueueErrClear_wf (h : s.memWf = true) (i) : ResWf (execQueueErrClear i s) := by
  simp [execQueueErrClear, ResWf, h]

theorem execFlogRead_wf (h : s.memWf = true) : ResWf (execFlogRead s) := by simp [execFlogRead, ResWf, h]

theorem execPreemptRequest_wf (h : s.memWf = true) (p) : ResWf (execPreemptRequest p s) := by
  unfold execPreemptRequest; dsimp only [ResWf]; refine State.bar_wf h ?_; split <;> simp [h]

theorem execPreemptResume_wf (h : s.memWf = true) (p) : ResWf (execPreemptResume p s) := by
  unfold execPreemptResume; dsimp only [ResWf]; refine State.bar_wf h ?_; split <;> simp [h]

theorem execArenaSlotReset_wf (h : s.memWf = true) (p) : ResWf (execArenaSlotReset p s) := by
  unfold execArenaSlotReset; dsimp only [ResWf]; refine State.bar_wf h ?_; (repeat' split) <;> simp [h]

/-! ### Parking and frames -/

theorem State.writeFrameAt_wf (h : s.memWf = true) (p v o b) : (s.writeFrameAt p v o b).1.memWf = true := by
  have hw := State.relWrite_wf h p (s.frameAddr p v + o) (s.frameTier p) b
  unfold State.writeFrameAt
  split <;> (simp only [*, MRes.Wf] at hw; exact hw)

theorem State.writeFrame_wf (h : s.memWf = true) (p v) : (s.writeFrame p v).1.memWf = true := by
  unfold State.writeFrame
  extract_lets bs
  clear_value bs
  refine foldl_pair_wf (fun a i ha => ?_) _ h
  split
  · exact State.writeFrameAt_wf ha ..
  · exact ha

theorem State.rewriteFrame_wf (h : s.memWf = true) (p v) : (s.rewriteFrame p v).1.memWf = true := by
  have h1 := State.writeFrameAt_wf h p v 0 ((s.core v).headerBytes s.clock ++ (s.core v).causeBytes)
  unfold State.rewriteFrame
  dsimp only
  refine foldl_pair_wf (fun a i ha => ?_) _ h1
  split
  · exact State.writeFrameAt_wf ha ..
  · exact ha

theorem State.syncCounters_wf (h : s.memWf = true) (p v) : (s.syncCounters p v).memWf = true := by
  unfold State.syncCounters
  generalize List.finRange 64 = l
  refine foldl_wf (fun s i hs => ?_) l h
  dsimp only
  split
  · exact hs
  · have hr := State.relRead_wf hs p (s.frameAddr p v + 0x720 + 4 * i.val) (s.frameTier p) 4
    split <;> (simp only [*, MRes.Wf] at hr)
    · rw [State.setCore_wf]; exact State.writeFrameAt_wf hr ..
    · exact hr
    · exact hr

@[simp] theorem State.framed_wf (v b) : (s.framed v b).memWf = s.memWf := State.wf_congr rfl rfl rfl

theorem execCorePark_wf (h : s.memWf = true) (v) : ResWf (execCorePark v s) := by
  unfold execCorePark
  extract_lets c p s0 again
  have h0 : s0.memWf = true := State.logHeld_wf (State.clearAllMarks_wf v h) ..
  clear_value s0 again
  have key : ∀ r : State × Bool, r.1.memWf = true → ResWf (match r with
      | (s1, ok) =>
        if ok then .next ((s1.framed v (!again)).preCheck p)
        else .next (((s1.setCore v { s1.core v with frameHeld := true }).orReg (fltEvt p) 2).preCheck p)) := by
    rintro ⟨s1, ok⟩ h1
    cases ok <;> simp [ResWf, h1]
  refine ResWf.ite (fun _ => ResWf.ite (fun _ => h) fun _ => key _ ?_) fun _ =>
    ResWf.ite (fun _ => State.syncCounters_wf h ..) fun _ => h
  show (if again then _ else _ : State × Bool).1.memWf = true
  split
  · exact State.rewriteFrame_wf h0 ..
  · exact State.writeFrame_wf h0 ..

theorem State.writeRecord_wf (h : s.memWf = true) (p) : (s.writeRecord p).memWf = true := by
  unfold State.writeRecord
  split
  · exact h
  · split
    · rw [State.orReg_wf, State.memWf_mk]; simp [h]
    · extract_lets b tail bs
      have hw := State.relWrite_wf h p (fld b 6 46 * 64 + 64 * (tail % 2 ^ s.regF (fltQcfg p) 0 5)) (fld b 0 1) bs
      split <;> (simp only [*, MRes.Wf] at hw)
      · rw [State.memWf_mk]; simp [hw]
      · rw [State.orReg_wf, State.memWf_mk]; simp [hw]
      · exact hw

theorem execFaultRecordWrite_wf (h : s.memWf = true) (p) : ResWf (execFaultRecordWrite p s) := by
  unfold execFaultRecordWrite; split
  · exact State.writeRecord_wf h _
  · exact h

theorem execFaultQueueWrite_wf (h : s.memWf = true) (p c x) : ResWf (execFaultQueueWrite p c x s) := by
  unfold execFaultQueueWrite; dsimp only; (repeat' split) <;> simp [ResWf, h]

theorem execCoreResume_wf (h : s.memWf = true) (p v) : ResWf (execCoreResume p v s) := by
  have h1 := State.syncCounters_wf h p v
  unfold execCoreResume
  generalize s.syncCounters p v = s1 at h1 ⊢
  refine ResWf.ite (fun _ => h) fun _ => ResWf.ite (fun _ => by simp only [ResWf, State.badCommand, State.orReg_wf, h]) fun _ => ?_
  refine ResWf.ite (fun _ => h) fun _ => ResWf.ite (fun _ => by simp only [ResWf, State.setCore_wf, h]) fun _ => ?_
  dsimp only
  split
  · simp only [ResWf, State.badCommand, State.orReg_wf]; exact h1
  · simp only [ResWf, State.setCore_wf]; exact h1

theorem State.dropCommands_wf (h : s.memWf = true) (v) : (s.dropCommands v).memWf = true := by
  unfold State.dropCommands
  extract_lets c s1 mine s2
  have h1 : s1.memWf = true := foldl_wf (fun _ l hs => State.landSome_wf hs ..) _ h
  have h2 : s2.memWf = true := foldl_wf (fun _ e hs => State.endCommand_wf _ _ hs) _ h1
  clear_value s2
  refine foldl_wf (fun s e hs => ?_) _ (by rw [State.memWf_mk]; simp [h2])
  rw [State.mayDoze_wf]; exact hs

theorem execCoreAbandon_wf (h : s.memWf = true) (p v) : ResWf (execCoreAbandon p v s) := by
  unfold execCoreAbandon
  split
  · exact h
  · split
    · simp [ResWf, State.badCommand, h]
    · split
      · exact h
      · have h1 := State.dropCommands_wf h v
        refine State.finishTask_wf ?_ _
        split
        · exact State.failJob_wf h1 ..
        · exact h1

theorem execFrameRewrite_wf (h : s.memWf = true) (p v) : ResWf (execFrameRewrite p v s) := by
  have h1 := State.writeFrame_wf h p v
  unfold execFrameRewrite
  generalize s.writeFrame p v = r at h1 ⊢
  obtain ⟨s1, ok⟩ := r
  split
  · exact h
  · split
    · simp only [ResWf, State.badCommand, State.orReg_wf, h]
    · dsimp only at h1 ⊢
      (repeat' split) <;> simp only [ResWf, State.framed_wf, State.setCore_wf, State.orReg_wf, h1]

theorem execAutoResume_wf (h : s.memWf = true) (v) : ResWf (execAutoResume v s) := by
  unfold execAutoResume; dsimp only; split <;> simp [ResWf, h]

/-! ### Translations -/

@[simp] theorem State.shoot_wf (a b c d) : (s.shoot a b c d).memWf = s.memWf := State.wf_congr rfl rfl rfl
@[simp] theorem State.dropReq_wf (a b) : (s.dropReq a b).memWf = s.memWf := State.wf_congr rfl rfl rfl
@[simp] theorem State.setStage_wf (a b c) : (s.setStage a b c).memWf = s.memWf := State.wf_congr rfl rfl rfl
@[simp] theorem State.dueLog_wf (a b) : (s.dueLog a b).memWf = s.memWf := State.wf_congr rfl rfl rfl

theorem execTlbInvalidate_wf (h : s.memWf = true) (p x) : ResWf (execTlbInvalidate p x s) := by
  unfold execTlbInvalidate; dsimp only; (repeat' split) <;> simp [ResWf, h]

theorem execInvalidateDone_wf (h : s.memWf = true) (p) : ResWf (execInvalidateDone p s) := by
  unfold execInvalidateDone; dsimp only; (repeat' split) <;> simp [ResWf, h]

theorem execAtsInvalidation_wf (h : s.memWf = true) (p a z) : ResWf (execAtsInvalidation p a z s) := by
  simp [execAtsInvalidation, ResWf, h]

theorem State.sendQueued_wf (p n) : ∀ s : State, s.memWf = true → (State.sendQueued p n s).memWf = true := by
  induction n with
  | zero => intro s h; exact h
  | succ n ih =>
    intro s h
    simp only [State.sendQueued]
    (repeat' split)
    · exact h
    · exact h
    · exact ih _ (by rw [State.memWf_mk]; simp [h])

@[simp] theorem State.queueReq_wf (q) : (s.queueReq q).memWf = s.memWf := State.wf_congr rfl rfl rfl

@[simp] theorem State.refuseL_wf (v a l) : (s.refuseL v a l).memWf = s.memWf := by
  unfold State.refuseL
  dsimp only
  (repeat' split) <;> simp

@[simp] theorem State.refuseE_wf (a c) : (s.refuseE a c).memWf = s.memWf := by
  unfold State.refuseE
  dsimp only
  (repeat' split) <;> simp

@[simp] theorem State.refuseCode_wf (v a st) : (s.refuseCode v a st).memWf = s.memWf := by
  unfold State.refuseCode
  dsimp only
  (repeat' split) <;> simp

theorem State.refuse_wf (h : s.memWf = true) (a w) : (s.refuse a w).memWf = true := by
  unfold State.refuse
  split
  · dsimp only
    split
    · simp [h]
    · simp [h]
    · split <;> simp [h]
    · exact h
  · split
    · split <;> simp [h]
    · split
      · exact h
      · exact foldl_wf (fun _ _ hs => by simp [hs]) _ h

theorem State.refuseAll_wf (h : s.memWf = true) (r) : (s.refuseAll r).memWf = true :=
  foldl_wf (fun _ w hs => State.refuse_wf hs ..) _ (by simp [h])

@[simp] theorem State.cacheHost_wf (p a r l w) : (s.cacheHost p a r l w).memWf = s.memWf := by simp [State.cacheHost]

theorem execAtsResponse_wf (h : s.memWf = true) (p a r) : ResWf (execAtsResponse p a r s) := by
  unfold execAtsResponse
  split
  · exact h
  · extract_lets q left
    split
    · simp [ResWf, h]
    · rename_i leaf _
      extract_lets s1
      have h1 : s1.memWf = true := by
        simp only [s1]
        split
        · exact foldl_wf (fun s w hs => by simp [hs]) _ h
        · exact h
      clear_value s1
      exact ResWf.ite (fun _ => by simp [ResWf, h1]) fun _ => ResWf.ite (fun _ => State.refuseAll_wf h1 _) fun _ =>
        State.sendQueued_wf _ _ _ (by simp [h1])

theorem execPageResponse_wf (h : s.memWf = true) (p a c) : ResWf (execPageResponse p a c s) := by
  unfold execPageResponse
  split
  · exact h
  · split
    · refine ResWf.ite (fun _ => State.sendQueued_wf _ _ _ (by simp [h])) fun _ =>
        ResWf.ite (fun _ => State.refuseAll_wf h _) fun _ => State.sendQueued_wf _ _ _ ?_
      rw [State.dueLog_wf, State.memWf_mk]; simp [h]
    · exact State.sendQueued_wf _ _ _ (State.refuseAll_wf h _)
    · simp only [ResWf, State.setRegF_wf]
      exact foldl_wf (fun _ r hs => State.refuseAll_wf hs r) _ (State.refuseAll_wf h _)

theorem execPriEnable_wf (h : s.memWf = true) (p) : ResWf (execPriEnable p s) := by
  unfold execPriEnable
  refine State.bar_wf h ?_
  (repeat' split)
  · exact h
  · simp [h]
  · exact State.sendQueued_wf _ _ _ (by simp [h])

theorem execTileFill_wf (h : s.memWf = true) (t) : ResWf (execTileFill t s) := by
  unfold execTileFill
  split
  · exact h
  · rename_i f _
    extract_lets s0 ws s1
    have h0 : s0.memWf = true := State.settle_wf (by rw [State.memWf_mk]; simp [h]) _
    have h1 : s1.memWf = true := by
      simp only [s1]; split
      · exact h0
      · exact State.allocate_wf (by rw [State.capFetch_wf]; exact h0) ..
    clear_value s1 ws s0
    refine ResWf.ite (fun _ => ?_) fun _ => ?_
    · refine foldl_wf (fun s w hs => ?_) _ h1
      rw [State.setCore_wf]; exact hs
    · refine foldl_wf (fun s w hs => ?_) _ (by simp [h0])
      rw [State.lFault_wf]; exact hs

/-! ### Layout -/

theorem execLayoutPrepare_wf (h : s.memWf = true) : ResWf (execLayoutPrepare s) := by
  unfold execLayoutPrepare
  refine State.bar_wf h ?_
  generalize s.prepareCode = r
  dsimp only
  split <;> simp [h]

theorem execLayoutApplyRequest_wf (h : s.memWf = true) : ResWf (execLayoutApplyRequest s) := by
  unfold execLayoutApplyRequest; refine State.bar_wf h ?_; split <;> simp [h]

theorem execLayoutAbort_wf (h : s.memWf = true) : ResWf (execLayoutAbort s) := by
  unfold execLayoutAbort; refine State.bar_wf h ?_; split
  · exact State.wakeHeld_wf (by simp [h])
  · exact h

theorem State.copyRegs_wf (a b n) (h : s.memWf = true) : (s.copyRegs a b n).memWf = true := by
  unfold State.copyRegs
  refine foldl_wf (fun s i hs => ?_) _ h
  rw [State.setReg_wf]; exact hs

theorem State.copyLayout_wf (b) (h : s.memWf = true) : (s.copyLayout b).memWf = true := by
  unfold State.copyLayout
  extract_lets cp s1 s2
  have hcp : ∀ (s : State) x y n, s.memWf = true → (cp s x y n).memWf = true := by
    intro s x y n hs
    simp only [cp]
    split <;> exact State.copyRegs_wf _ _ _ hs
  clear_value cp
  have h1 : s1.memWf = true := hcp _ _ _ _ h
  clear_value s1
  have h2 : s2.memWf = true := by
    simp only [s2]
    generalize List.range 32 = l
    exact foldl_wf (fun s p hs => hcp _ _ _ _ (hcp _ _ _ _ (hcp _ _ _ _ hs))) l h1
  clear_value s2
  generalize List.range 4 = l
  exact foldl_wf (fun s c hs => foldl_wf (fun s k hs => hcp _ _ _ _ hs) l hs) l h2

theorem execMpReset_wf (h : s.memWf = true) : ResWf (execMpReset s) := by
  unfold execMpReset
  dsimp only [ResWf]
  split
  · exact State.wakeHeld_wf (by simp [State.copyLayout_wf, h])
  · exact h

theorem State.stageQuotas_wf (h : s.memWf = true) (c) : (s.stageQuotas c).memWf = true := by
  unfold State.stageQuotas
  generalize List.range 32 = l
  exact foldl_wf (fun s p hs => by rw [State.memWf_mk]; simp [hs]) l h

theorem State.clearMonitors_wf (c) : (s.clearMonitors c).memWf = s.memWf := State.wf_congr rfl rfl rfl

theorem execQuotaInterval_wf (h : s.memWf = true) (c) : ResWf (execQuotaInterval c s) := by
  unfold execQuotaInterval; dsimp only [ResWf]; split
  · rw [State.clearMonitors_wf]; exact State.stageQuotas_wf h _
  · exact h

theorem State.applyQuotas_wf (h : s.memWf = true) : s.applyQuotas.memWf = true := by
  have h1 : (s.quotaNext.foldl (fun s e => s.setReg (prtWays e.1) e.2) s).memWf = true := by
    refine foldl_wf (fun s e hs => ?_) _ h
    rw [State.setReg_wf]; exact hs
  unfold State.applyQuotas
  dsimp only
  generalize s.quotaNext.foldl (fun s e => s.setReg (prtWays e.1) e.2) s = s1 at h1 ⊢
  rw [State.memWf_mk]; simp [h1]

theorem State.applyLayout_wf (h : s.memWf = true) : s.applyLayout.memWf = true := by
  unfold State.applyLayout
  extract_lets changed moved wasLive was s1 runs s2 s3 s4 gen s5
  have h1 : s1.memWf = true := State.copyLayout_wf _ h
  clear_value runs s1
  have h2 : s2.memWf = true := by simp only [s2]; rw [State.memWf_mk]; simp [h1]
  clear_value s2
  have h3 : s3.memWf = true := by
    simp only [s3]
    generalize List.range 32 = l
    refine foldl_wf (fun s p hs => ?_) l h2
    (repeat' split) <;> (try rw [State.memWf_mk]) <;> simp [hs]
  clear_value s3
  have h4 : s4.memWf = true := by
    simp only [s4]
    generalize List.range 4 = l
    exact foldl_wf (fun s c hs => State.stageQuotas_wf hs c) _ h3
  clear_value s4
  have h5 : s5.memWf = true := by
    simp only [s5, State.orReg_wf, State.setReg_wf]; exact State.applyQuotas_wf h4
  clear_value s5
  refine State.wakeHeld_wf ?_
  split <;> simp [h5]

@[simp] theorem State.retime_wf (f c) : (s.retime f c).memWf = s.memWf := State.wf_congr rfl rfl rfl

theorem execLapBoundary_wf (h : s.memWf = true) : ResWf (execLapBoundary s) := by
  unfold execLapBoundary
  extract_lets f s1 s2
  have h1 : s1.memWf = true := by simp only [s1, State.retime_wf]; rw [State.memWf_mk]; simp [h]
  have h2 : s2.memWf = true := State.applyQuotas_wf h1
  refine ResWf.ite (fun _ => h) fun _ => ?_
  dsimp only [ResWf]
  split
  · exact State.applyLayout_wf h2
  · exact h2

theorem execClusterScrubDone_wf (h : s.memWf = true) (c) : ResWf (execClusterScrubDone c s) := by
  unfold execClusterScrubDone
  split
  · exact h
  · have h2 : ((clusterCores c).foldl State.clearAllMarks ((clusterCores c).foldl
        (fun s v => s.setCore v { Core.reset with nextId := (s.core v).nextId }) s)).memWf = true := by
      refine foldl_wf (fun s v hs => State.clearAllMarks_wf v hs) _ (foldl_wf (fun s v hs => ?_) _ h)
      rw [State.setCore_wf]; exact hs
    dsimp only [ResWf]
    generalize (clusterCores c).foldl State.clearAllMarks _ = s2 at h2 ⊢
    rw [State.scrubCheck_wf, State.memWf_mk]; simp [h2]

theorem execPageReseal_wf (h : s.memWf = true) (a) : ResWf (execPageReseal a s) := by
  unfold execPageReseal
  (repeat' split)
  · exact State.resealPage_wf h _
  · exact h
  · exact h

theorem execRekeyRequest_wf (h : s.memWf = true) (p) : ResWf (execRekeyRequest p s) := by
  unfold execRekeyRequest; refine State.bar_wf h ?_; (repeat' split) <;> simp [h]

theorem State.endSweep_wf (h : s.memWf = true) (p k) : (s.endSweep p k).memWf = true := by
  unfold State.endSweep
  rw [State.orReg_wf, State.setRegF_wf, State.memWf_mk]; simp [h]

theorem execRekeySweepTile_wf (h : s.memWf = true) (p) : ResWf (execRekeySweepTile p s) := by
  unfold execRekeySweepTile
  split
  · exact h
  · rename_i t next new _
    generalize s.tileSpan p t = sp
    obtain ⟨lo, hi⟩ := sp
    refine ResWf.ite (fun _ => ResWf.ite (fun _ => ?_) fun _ => State.endSweep_wf h ..) fun _ => ?_
    · simp only [ResWf]; rw [State.memWf_mk]; simp [h]
    · extract_lets s1 k s2
      have h1 : s1.memWf = true := State.settle_wf h next
      have h2 : s2.memWf = true := by
        simp only [s2]
        split <;> simp [h1]
      clear_value s2
      simp only [ResWf, State.setReg_wf]
      rw [State.memWf_mk]; simp [h2]

theorem execCapFlogRead_wf (h : s.memWf = true) : ResWf (execCapFlogRead s) := by simp [execCapFlogRead, ResWf, h]

theorem State.clearSlips_wf (h : s.memWf = true) (p m) : (s.clearSlips p m).memWf = true := by
  unfold State.clearSlips
  generalize List.range 4 = l
  refine foldl_wf (fun s i hs => ?_) l h
  split
  · rw [State.setRegF_wf]; exact hs
  · exact hs

theorem execSlipClear_wf (h : s.memWf = true) (p) : ResWf (execSlipClear p s) := by
  unfold execSlipClear; refine State.bar_wf h ?_; split
  · exact State.clearSlips_wf h ..
  · exact h

theorem execCClockChange_wf (h : s.memWf = true) (f) : ResWf (execCClockChange f s) := by
  unfold execCClockChange; dsimp only [ResWf]; split <;> simp [h]

theorem execPortStarvationFreeze_wf (h : s.memWf = true) (b) : ResWf (execPortStarvationFreeze b s) := h
theorem execRefresh_wf (h : s.memWf = true) (i) : ResWf (execRefresh i s) := h

end Sys2Proof.Machine
end

