-- ==== Sys2Proof/Laws/MemWfStreams.lean ====
section
/-! SUPPORT. The canonical form of memory through issue and the instructions of the four streams: none of them reaches
memory itself, for accesses perform as events. -/

namespace Sys2Proof.Machine

open Sys2Proof

/-- The state of an effect has canonical memory. -/
def Eff.Wf : Eff → Prop
  | .go s _ => s.memWf = true
  | .late s => s.memWf = true
  | _ => True

variable {s : State}

theorem Eff.finish_wf (h : s.memWf = true) {e : Eff} (he : e.Wf) (v st hw push) :
    (e.finish s v st hw push).memWf = true := by
  cases e with
  | wait => exact h
  | fault c a => rw [Eff.finish, State.park_wf]; exact h
  | go s' x => rw [Eff.finish, State.flushAt_wf, State.setCore_wf]; exact he
  | late s' => rw [Eff.finish, State.flushAt_wf, State.setCore_wf]; exact he

theorem Eff.checked_wf (b : Bool) {e : Eff} (he : e.Wf) : (e.checked b).Wf := by
  cases e <;> cases b <;> first | trivial | exact he

theorem issue_wf (h : s.memWf = true) {st i tk hw} {f : State → BitVec 32 → Eff}
    (hf : ∀ s x, s.memWf = true → (f s x).Wf) : ResWf (issue s st i tk hw f) := by
  unfold issue
  extract_lets v c
  clear_value c v
  split
  · split
    · exact Eff.finish_wf h (Eff.checked_wf _ (hf _ _ h)) ..
    · split
      · exact h
      · split
        · exact Eff.finish_wf h (Eff.checked_wf _ (hf _ _ (by rw [State.note_wf, State.setCore_wf]; exact h))) ..
        · exact h
  · exact h

theorem onCore_wf (h : s.memWf = true) (f) : (onCore s f).Wf := by
  simp only [onCore, Eff.Wf, State.setCore_wf, h]

theorem waitOr_wf {p : Prop} [Decidable p] {e : Eff} (he : e.Wf) : Eff.Wf (if p then .wait else e) := by
  split
  · trivial
  · exact he

theorem cOp_wf (h : s.memWf = true) (i tk rs f) : ResWf (cOp s i tk rs f) :=
  issue_wf h (fun _ _ hs => waitOr_wf (onCore_wf hs f))

theorem cCompact_wf (h : s.memWf = true) (i rs f) : ResWf (cCompact s i rs f) :=
  issue_wf h (fun _ _ hs => waitOr_wf (onCore_wf hs f))

theorem lOp_wf (h : s.memWf = true) (i tk f) : ResWf (lOp s i tk f) := issue_wf h (fun _ _ hs => onCore_wf hs f)

theorem vOp_wf (h : s.memWf = true) (i tk rows f) : ResWf (vOp s i tk rows f) :=
  issue_wf h (fun _ _ hs => waitOr_wf (onCore_wf hs f))

/-! ### Memory instructions of C -/

theorem State.sendLoad_wf (h : s.memWf = true) (st sp c sc pol dest push) :
    (s.sendLoad st sp c sc pol dest push).Wf := by
  simp only [State.sendLoad, Eff.Wf, State.setCore_wf, h]

theorem State.sendStore_wf (h : s.memWf = true) (st sp c sc pol push) : (s.sendStore st sp c sc pol push).Wf := by
  unfold State.sendStore; split <;> simp only [Eff.Wf, State.setCore_wf, h]

theorem State.amoScratch_wf (h : s.memWf = true) (e tk d a c sc o z) : (s.amoScratch e tk d a c sc o z).Wf := by
  unfold State.amoScratch
  (repeat' split) <;> first | trivial | exact State.sendLoad_wf h ..

theorem execWaitw_wf (h : s.memWf = true) (tk b a k sc c) : ResWf (execWaitw tk b a k sc c s) := by
  unfold execWaitw
  split
  · split
    · simp [ResWf, h]
    · exact h
  · refine issue_wf h (fun s _ hs => ?_)
    dsimp only
    (repeat' split) <;>
      first | trivial | exact onCore_wf (by rw [State.note_wf]; exact hs) _ | simp only [Eff.Wf, State.setCore_wf, hs]

@[simp] theorem State.fenced_wf (st m sc) : (s.fenced st m sc).memWf = s.memWf := by
  unfold State.fenced; dsimp only; split <;> simp

/-! ### Fetching -/

@[simp] theorem State.putCode_wf (v p a x) : (s.putCode v p a x).memWf = s.memWf := by simp [State.putCode]

theorem State.fillHalf_wf (h : s.memWf = true) (v p a) : (s.fillHalf v p a).memWf = true := by
  have hx := State.xlate_wf h (numCores + 64 + v, 0) p a .code 2
  unfold State.fillHalf
  split
  · exact h
  · split
    · rename_i e; rw [e] at hx; exact hx
    · rename_i e; rw [e] at hx; exact hx
    · rename_i s1 x e
      rw [e] at hx
      have h1 : s1.memWf = true := hx
      clear hx
      dsimp only
      (repeat' split) <;> simp [h1]

theorem State.fillBlock_wf (h : s.memWf = true) (v p a n) : (s.fillBlock v p a n).memWf = true :=
  foldl_wf (fun _ i hs => State.fillHalf_wf hs ..) _ h

theorem State.readHalf_wf (h : s.memWf = true) (o) : (s.readHalf o).1.memWf = true := by
  unfold State.readHalf
  extract_lets v st r f s1
  have h1 : s1.memWf = true := State.fillHalf_wf h ..
  split
  · exact h
  · split
    · dsimp only; rw [State.setCore_wf]; exact h1
    · exact h1

theorem State.fetchNext_wf (h : s.memWf = true) : s.fetchNext.1.memWf = true := by
  unfold State.fetchNext
  extract_lets c st r
  split
  · exact h
  · split
    · exact h
    · have h1 := State.readHalf_wf h r.off
      split
      rename_i s1 x e
      rw [e] at h1
      split
      · exact h1
      · exact State.readHalf_wf h1 _

theorem State.fetchFault_wf (f o p) : (s.fetchFault f o p).memWf = s.memWf := by
  unfold State.fetchFault
  dsimp only
  (repeat' split) <;> simp

/-! ### Control flow, tokens and tasks -/

theorem State.branchTo_wf (h : s.memWf = true) (t c) : (s.branchTo t c).Wf := by
  unfold State.branchTo
  dsimp only
  (repeat' split) <;> first | trivial | exact onCore_wf h _

theorem finishIn_wf (h : s.memWf = true) (tk x f) : (finishIn s tk x f).Wf := by
  unfold finishIn; dsimp only; split <;> simp only [Eff.Wf, State.setCore_wf, h]

theorem incBy_wf (h : s.memWf = true) (tk k n) : (incBy s tk k n).Wf := by
  unfold incBy
  dsimp only
  (repeat' split) <;> first | trivial | exact onCore_wf h _ | simp only [Eff.Wf, State.setCore_wf, h]

theorem stopWith_wf (h : s.memWf = true) (a c) : (stopWith s a c).Wf := by
  simp only [stopWith, Eff.Wf, State.setCore_wf, h]

theorem State.exitNow_wf (h : s.memWf = true) (bs) : (s.exitNow bs).memWf = true := by
  unfold State.exitNow
  extract_lets v c s1
  have h1 : s1.memWf = true := by simp only [s1, State.setCore_wf, h]
  clear_value s1
  split
  · refine foldl_wf (fun s b hs => ?_) _ (by rw [State.memWf_mk]; simp [h1])
    rw [State.mayDoze_wf]; exact hs
  · exact h1

theorem State.opened_wf (h : s.memWf = true) (st l) : (s.opened st l).memWf = true := by
  unfold State.opened
  dsimp only
  split
  · exact State.fillBlock_wf h ..
  · exact h

theorem execBlockHeader_wf (h : s.memWf = true) (l r n g k) : ResWf (execBlockHeader l r n g k s) := by
  unfold execBlockHeader
  refine issue_wf h (fun s _ hs => ?_)
  dsimp only
  split
  · trivial
  · split
    · trivial
    · split
      · trivial
      · exact onCore_wf (State.opened_wf hs ..) _

/-! ### Matrix and vector issue -/

theorem enqueueM_wf (h : s.memWf = true) (tk op f) : (enqueueM s tk op f).Wf := by
  simp only [enqueueM, Eff.Wf, State.setCore_wf, h]

theorem issueMma_wf (h : s.memWf = true) (i tk tr t a b g f r) : (issueMma s i tk tr t a b g f r).Wf := by
  unfold issueMma
  dsimp only
  (repeat' split) <;> first | trivial | exact enqueueM_wf h ..

theorem issueTld_wf (h : s.memWf = true) (tk t b buf) : (issueTld s tk t b buf).Wf := by
  unfold issueTld
  dsimp only
  (repeat' split) <;> first | trivial | exact enqueueM_wf h ..

theorem vload_wf (h : s.memWf = true) (r row c sc l push) : (vload s r row c sc l push).Wf := by
  unfold vload
  (repeat' split) <;> first | trivial | exact h | exact State.sendLoad_wf h ..

theorem vstore_wf (h : s.memWf = true) (r c sc l push) : (vstore s r c sc l push).Wf := by
  unfold vstore
  (repeat' split) <;> first | trivial | exact h | exact State.sendStore_wf h ..

theorem issueL_wf (h : s.memWf = true) (i tk f) : ResWf (issueL s i tk f) := by
  unfold issueL
  refine issue_wf h (fun s x hs => ?_)
  dsimp only
  (repeat' split) <;> first | trivial | simp only [Eff.Wf, State.note_wf, State.setCore_wf, hs]

/-! ### Engines -/

@[simp] theorem State.descRead_wf (v a o) : (s.descRead v a o).1.memWf = s.memWf := by
  unfold State.descRead
  split
  · rfl
  · exact State.sPort_wf ..

theorem execEngage_wf (h : s.memWf = true) (tk q d a b) : ResWf (execEngage tk q d a b s) := by
  unfold execEngage
  refine issue_wf h (fun s _ hs => ?_)
  extract_lets v c a b
  split
  · trivial
  · generalize hd : s.descRead v a b = r
    obtain ⟨s1, d⟩ := r
    have h1 : s1.memWf = true := by
      have := State.descRead_wf (s := s) v a b
      rw [hd] at this
      exact this.trans hs
    dsimp only
    split
    · simp only [Eff.Wf]; rw [State.memWf_mk]; simp [h1]
    · split
      · trivial
      · simp only [Eff.Wf, State.setCore_wf]; exact State.engage_wf h1 _

theorem execCombEngineDecision_wf (h : s.memWf = true) (v) : ResWf (execCombEngineDecision v s) := by
  unfold execCombEngineDecision
  split
  · exact h
  · refine ResWf.ite (fun _ => h) fun _ => ?_
    simp only [ResWf, State.flushAt_wf, State.setCore_wf]
    exact State.engage_wf (by rw [State.memWf_mk]; simp [h]) _

theorem execLease_wf (h : s.memWf = true) (tk q d a) : ResWf (execLease tk q d a s) := by
  unfold execLease
  refine issue_wf h (fun s _ hs => ?_)
  split
  · trivial
  · exact onCore_wf ((State.lease_wf ..).trans hs) _

theorem execUnlease_wf (h : s.memWf = true) (tk q a) : ResWf (execUnlease tk q a s) := by
  unfold execUnlease
  refine issue_wf h (fun s _ hs => ?_)
  split
  · trivial
  · refine onCore_wf ?_ _
    have key : ∀ (p : Bool) (l e), (if p then s.endLease l e else s).memWf = true := by
      intro p l e
      cases p
      · exact hs
      · exact (State.endLease_wf ..).trans hs
    exact key ..

theorem execEngineWakeDone_wf (h : s.memWf = true) (e) : ResWf (execEngineWakeDone e s) := by
  unfold execEngineWakeDone
  dsimp only
  split
  · simp only [ResWf]; rw [State.memWf_mk]; simp [h]
  · exact h

theorem State.makeHold_wf (h : s.memWf = true) (e) : (s.makeHold e).memWf = true := by
  unfold State.makeHold
  (repeat' split) <;> first | exact h | (dsimp only; split <;> simp [h]) | simp [h]

theorem State.lapseHold_wf (h : s.memWf = true) (e) : (s.lapseHold e).memWf = true := by
  unfold State.lapseHold
  split
  · exact h
  · split
    · exact State.clearMarks_wf _ _ (by rw [State.setEngine_wf]; exact h)
    · exact h

theorem State.holdsDue_wf (h : s.memWf = true) : s.holdsDue.memWf = true :=
  foldl_wf (fun _ _ hs => State.makeHold_wf (State.lapseHold_wf (State.lapseHold_wf hs _) _) _) _ h

theorem execHoldCreate_wf (h : s.memWf = true) (e) : ResWf (execHoldCreate e s) := State.makeHold_wf h e

theorem execHoldLapse_wf (h : s.memWf = true) (e) : ResWf (execHoldLapse e s) := State.lapseHold_wf h e

@[simp] theorem State.setCres_wf (c) : (s.setCres c).memWf = s.memWf := by unfold State.setCres; exact State.setReg_wf ..

theorem execStandingLeaseGrant_wf (h : s.memWf = true) (e p) : ResWf (execStandingLeaseGrant e p s) := by
  unfold execStandingLeaseGrant
  extract_lets cls x
  have hc : ∀ c, ResWf (.next (s.setCres c)) := fun c => (State.setCres_wf c).trans h
  clear_value cls x
  refine ResWf.ite (fun _ => h) fun _ => ResWf.ite (fun _ => hc 5) fun _ => ResWf.ite (fun _ => hc 4) fun _ =>
    ResWf.ite (fun _ => hc 1) fun _ => ?_
  exact (State.setCres_wf _).trans ((State.grantLease_wf ..).trans h)

theorem execStandingLeaseEnd_wf (h : s.memWf = true) (e p) : ResWf (execStandingLeaseEnd e p s) := by
  unfold execStandingLeaseEnd
  exact State.bar_wf h ((State.endLease_wf ..).trans h)

theorem execEngineRecall_wf (h : s.memWf = true) (e) : ResWf (execEngineRecall e s) := by
  unfold execEngineRecall
  refine State.bar_wf h ?_
  split
  · exact State.recall_wf _ h
  · exact h

theorem State.writeCap_wf (h : s.memWf = true) (o x) : (s.writeCap o x).memWf = true := by
  unfold State.writeCap
  split
  · rw [State.orReg_wf]; exact h
  · exact State.fitPool_wf _ _ (by rw [State.setReg_wf]; exact h)

theorem execLsePccapWrite_wf (h : s.memWf = true) (x) : ResWf (execLsePccapWrite x s) := by
  unfold execLsePccapWrite
  refine State.bar_wf h ?_
  split
  · exact State.writeCap_wf h ..
  · exact h

theorem execLseSwcapWrite_wf (h : s.memWf = true) (x) : ResWf (execLseSwcapWrite x s) := by
  unfold execLseSwcapWrite
  refine State.bar_wf h ?_
  split
  · exact State.writeCap_wf h ..
  · exact h

@[simp] theorem State.drainEnter_wf (v d) : (s.drainEnter v d).1.memWf = s.memWf := by
  unfold State.drainEnter
  dsimp only
  split
  · rfl
  · simp

theorem State.drainWrite_wf (h : s.memWf = true) (v d) : (s.drainWrite v d).1.memWf = true := by
  unfold State.drainWrite
  split
  · exact h
  · extract_lets i now left s1
    generalize (if d.half = true then _ else _ : List (Nat × List Byte) × List (Nat × List Byte)) = ch
    obtain ⟨us, left⟩ := ch
    dsimp only
    have h1 := foldl_wf (f := fun s (u : Nat × List Byte) =>
      (s.bufAcc (s.dAgent v d 2) v d.dst (d.off + i * d.pitch + u.1) u.2.length (.store u.2)).1)
      (fun s u hs => by simp [hs]) us h
    (repeat' split) <;> first | exact h1 | (rw [State.setCore_wf]; exact h1)

theorem State.drainOn_wf (h : s.memWf = true) (v d) : (s.drainOn v d).1.memWf = true := by
  unfold State.drainOn
  split
  · exact (State.drainEnter_wf ..).trans h
  · exact State.drainWrite_wf h ..

theorem execDrainRow_wf (h : s.memWf = true) (v) : ResWf (execDrainRow v s) := by
  unfold execDrainRow
  split
  · exact h
  · simp only [ResWf, State.setCore_wf]; exact State.drainOn_wf h ..

theorem execMFinish_wf (h : s.memWf = true) (v) : ResWf (execMFinish v s) := by
  unfold execMFinish
  dsimp only
  split
  · exact h
  · split
    · split
      · simp only [ResWf, State.setCore_wf]; exact (State.view_wf ..).trans h
      · simp only [ResWf, State.flushAt_wf, State.setCore_wf, h]
    · exact h

theorem execDrainStart_wf (h : s.memWf = true) (v) : ResWf (execDrainStart v s) := by
  unfold execDrainStart
  dsimp only
  split
  · simp only [ResWf, State.setCore_wf, h]
  · exact h

theorem execDrainDelivered_wf (h : s.memWf = true) (v) : ResWf (execDrainDelivered v s) := by
  unfold execDrainDelivered
  dsimp only
  split
  · exact h
  · split
    · simp only [ResWf, State.completed_wf, State.setCore_wf, h]
    · exact h

theorem execBlockRunEnd_wf (h : s.memWf = true) (v st) : ResWf (execBlockRunEnd v st s) := by
  unfold execBlockRunEnd
  dsimp only
  split
  · simp only [ResWf, State.flushAt_wf, State.setCore_wf, h]
  · exact h

/-! ### The instructions -/

theorem execAdd_wf (h : s.memWf = true) (a0 a1 a2 a3) : ResWf (execAdd a0 a1 a2 a3 s) := by
  unfold execAdd; exact cOp_wf h ..

theorem execSub_wf (h : s.memWf = true) (a0 a1 a2 a3) : ResWf (execSub a0 a1 a2 a3 s) := by
  unfold execSub; exact cOp_wf h ..

theorem execAnd_wf (h : s.memWf = true) (a0 a1 a2 a3) : ResWf (execAnd a0 a1 a2 a3 s) := by
  unfold execAnd; exact cOp_wf h ..

theorem execOr_wf (h : s.memWf = true) (a0 a1 a2 a3) : ResWf (execOr a0 a1 a2 a3 s) := by
  unfold execOr; exact cOp_wf h ..

theorem execXor_wf (h : s.memWf = true) (a0 a1 a2 a3) : ResWf (execXor a0 a1 a2 a3 s) := by
  unfold execXor; exact cOp_wf h ..

theorem execAndn_wf (h : s.memWf = true) (a0 a1 a2 a3) : ResWf (execAndn a0 a1 a2 a3 s) := by
  unfold execAndn; exact cOp_wf h ..

theorem execSll_wf (h : s.memWf = true) (a0 a1 a2 a3) : ResWf (execSll a0 a1 a2 a3 s) := by
  unfold execSll; exact cOp_wf h ..

theorem execSrl_wf (h : s.memWf = true) (a0 a1 a2 a3) : ResWf (execSrl a0 a1 a2 a3 s) := by
  unfold execSrl; exact cOp_wf h ..

theorem execSra_wf (h : s.memWf = true) (a0 a1 a2 a3) : ResWf (execSra a0 a1 a2 a3 s) := by
  unfold execSra; exact cOp_wf h ..

theorem execMul_wf (h : s.memWf = true) (a0 a1 a2 a3) : ResWf (execMul a0 a1 a2 a3 s) := by
  unfold execMul; exact cOp_wf h ..

theorem execMulh_wf (h : s.memWf = true) (a0 a1 a2 a3) : ResWf (execMulh a0 a1 a2 a3 s) := by
  unfold execMulh; exact cOp_wf h ..

theorem execMulhu_wf (h : s.memWf = true) (a0 a1 a2 a3) : ResWf (execMulhu a0 a1 a2 a3 s) := by
  unfold execMulhu; exact cOp_wf h ..

theorem execDiv_wf (h : s.memWf = true) (a0 a1 a2 a3) : ResWf (execDiv a0 a1 a2 a3 s) := by
  unfold execDiv; exact cOp_wf h ..

theorem execDivu_wf (h : s.memWf = true) (a0 a1 a2 a3) : ResWf (execDivu a0 a1 a2 a3 s) := by
  unfold execDivu; exact cOp_wf h ..

theorem execRem_wf (h : s.memWf = true) (a0 a1 a2 a3) : ResWf (execRem a0 a1 a2 a3 s) := by
  unfold execRem; exact cOp_wf h ..

theorem execRemu_wf (h : s.memWf = true) (a0 a1 a2 a3) : ResWf (execRemu a0 a1 a2 a3 s) := by
  unfold execRemu; exact cOp_wf h ..

theorem execMin_wf (h : s.memWf = true) (a0 a1 a2 a3) : ResWf (execMin a0 a1 a2 a3 s) := by
  unfold execMin; exact cOp_wf h ..

theorem execMax_wf (h : s.memWf = true) (a0 a1 a2 a3) : ResWf (execMax a0 a1 a2 a3 s) := by
  unfold execMax; exact cOp_wf h ..

theorem execMinu_wf (h : s.memWf = true) (a0 a1 a2 a3) : ResWf (execMinu a0 a1 a2 a3 s) := by
  unfold execMinu; exact cOp_wf h ..

theorem execMaxu_wf (h : s.memWf = true) (a0 a1 a2 a3) : ResWf (execMaxu a0 a1 a2 a3 s) := by
  unfold execMaxu; exact cOp_wf h ..

theorem execClz_wf (h : s.memWf = true) (a0 a1 a2) : ResWf (execClz a0 a1 a2 s) := by
  unfold execClz; exact cOp_wf h ..

theorem execPopc_wf (h : s.memWf = true) (a0 a1 a2) : ResWf (execPopc a0 a1 a2 s) := by
  unfold execPopc; exact cOp_wf h ..

theorem execAddi_wf (h : s.memWf = true) (a0 a1 a2 a3) : ResWf (execAddi a0 a1 a2 a3 s) := by
  unfold execAddi; exact cOp_wf h ..

theorem execAndi_wf (h : s.memWf = true) (a0 a1 a2 a3) : ResWf (execAndi a0 a1 a2 a3 s) := by
  unfold execAndi; exact cOp_wf h ..

theorem execOri_wf (h : s.memWf = true) (a0 a1 a2 a3) : ResWf (execOri a0 a1 a2 a3 s) := by
  unfold execOri; exact cOp_wf h ..

theorem execXori_wf (h : s.memWf = true) (a0 a1 a2 a3) : ResWf (execXori a0 a1 a2 a3 s) := by
  unfold execXori; exact cOp_wf h ..

theorem execSlli_wf (h : s.memWf = true) (a0 a1 a2 a3) : ResWf (execSlli a0 a1 a2 a3 s) := by
  unfold execSlli; exact cOp_wf h ..

theorem execSrli_wf (h : s.memWf = true) (a0 a1 a2 a3) : ResWf (execSrli a0 a1 a2 a3 s) := by
  unfold execSrli; exact cOp_wf h ..

theorem execSrai_wf (h : s.memWf = true) (a0 a1 a2 a3) : ResWf (execSrai a0 a1 a2 a3 s) := by
  unfold execSrai; exact cOp_wf h ..

theorem execLi_wf (h : s.memWf = true) (a0 a1 a2) : ResWf (execLi a0 a1 a2 s) := by
  unfold execLi; exact cOp_wf h ..

theorem execLis_wf (h : s.memWf = true) (a0 a1 a2) : ResWf (execLis a0 a1 a2 s) := by
  unfold execLis; exact cOp_wf h ..

theorem execCmp_wf (h : s.memWf = true) (a0 a1 a2 a3 a4 a5 a6) : ResWf (execCmp a0 a1 a2 a3 a4 a5 a6 s) := by
  unfold execCmp; exact cOp_wf h ..

theorem execCmpi_wf (h : s.memWf = true) (a0 a1 a2 a3 a4) : ResWf (execCmpi a0 a1 a2 a3 a4 s) := by
  unfold execCmpi; exact cOp_wf h ..

theorem execQand_wf (h : s.memWf = true) (a0 a1 a2 a3) : ResWf (execQand a0 a1 a2 a3 s) := by
  unfold execQand; exact cOp_wf h ..

theorem execQor_wf (h : s.memWf = true) (a0 a1 a2 a3) : ResWf (execQor a0 a1 a2 a3 s) := by
  unfold execQor; exact cOp_wf h ..

theorem execQxor_wf (h : s.memWf = true) (a0 a1 a2 a3) : ResWf (execQxor a0 a1 a2 a3 s) := by
  unfold execQxor; exact cOp_wf h ..

theorem execQandn_wf (h : s.memWf = true) (a0 a1 a2 a3) : ResWf (execQandn a0 a1 a2 a3 s) := by
  unfold execQandn; exact cOp_wf h ..

theorem execQnot_wf (h : s.memWf = true) (a0 a1 a2) : ResWf (execQnot a0 a1 a2 s) := by
  unfold execQnot; exact cOp_wf h ..

theorem execQset_wf (h : s.memWf = true) (a0 a1) : ResWf (execQset a0 a1 s) := by
  unfold execQset; exact cOp_wf h ..

theorem execQclr_wf (h : s.memWf = true) (a0 a1) : ResWf (execQclr a0 a1 s) := by
  unfold execQclr; exact cOp_wf h ..

theorem execLd_wf (h : s.memWf = true) (a0 a1 a2 a3 a4 a5 a6) : ResWf (execLd a0 a1 a2 a3 a4 a5 a6 s) := by
  unfold execLd
  refine issue_wf h (fun s _ hs => ?_)
  dsimp only
  (repeat' split) <;> first | trivial | exact State.sendLoad_wf hs ..

theorem execSt_wf (h : s.memWf = true) (a0 a1 a2 a3 a4 a5 a6) : ResWf (execSt a0 a1 a2 a3 a4 a5 a6 s) := by
  unfold execSt
  refine issue_wf h (fun s _ hs => ?_)
  dsimp only
  (repeat' split) <;> first | trivial | exact State.sendStore_wf hs ..

theorem execLdl_wf (h : s.memWf = true) (a0 a1 a2 a3 a4 a5 a6) : ResWf (execLdl a0 a1 a2 a3 a4 a5 a6 s) := by
  unfold execLdl
  refine issue_wf h (fun s _ hs => ?_)
  (repeat' split) <;> first | trivial | exact State.sendLoad_wf hs ..

theorem execStl_wf (h : s.memWf = true) (a0 a1 a2 a3 a4 a5 a6) : ResWf (execStl a0 a1 a2 a3 a4 a5 a6 s) := by
  unfold execStl
  refine issue_wf h (fun s _ hs => ?_)
  (repeat' split) <;> first | trivial | exact State.sendStore_wf hs ..

theorem execAmoG_wf (h : s.memWf = true) (a0 a1 a2 a3 a4 a5 a6) : ResWf (execAmoG a0 a1 a2 a3 a4 a5 a6 s) := by
  unfold execAmoG
  refine issue_wf h (fun s _ hs => ?_)
  dsimp only
  (repeat' split) <;> first | trivial | exact State.sendLoad_wf hs ..

theorem execAmoS_wf (h : s.memWf = true) (a0 a1 a2 a3 a4 a5 a6) : ResWf (execAmoS a0 a1 a2 a3 a4 a5 a6 s) := by
  unfold execAmoS; exact issue_wf h (fun s _ hs => State.amoScratch_wf hs ..)

theorem execAmoSg_wf (h : s.memWf = true) (a0 a1 a2 a3 a4 a5 a6) : ResWf (execAmoSg a0 a1 a2 a3 a4 a5 a6 s) := by
  unfold execAmoSg; exact issue_wf h (fun s _ hs => State.amoScratch_wf hs ..)

theorem execRedf_wf (h : s.memWf = true) (a0 a1 a2 a3 a4 a5 a6) : ResWf (execRedf a0 a1 a2 a3 a4 a5 a6 s) := by
  unfold execRedf
  refine issue_wf h (fun s _ hs => ?_)
  dsimp only
  (repeat' split) <;> first | trivial | exact State.sendStore_wf hs ..

theorem execFaddF64_wf (h : s.memWf = true) (a0 a1 a2 a3 a4 a5) : ResWf (execFaddF64 a0 a1 a2 a3 a4 a5 s) := by
  unfold execFaddF64; exact cOp_wf h ..

theorem execFsubF64_wf (h : s.memWf = true) (a0 a1 a2 a3 a4 a5) : ResWf (execFsubF64 a0 a1 a2 a3 a4 a5 s) := by
  unfold execFsubF64; exact cOp_wf h ..

theorem execFmulF64_wf (h : s.memWf = true) (a0 a1 a2 a3 a4 a5) : ResWf (execFmulF64 a0 a1 a2 a3 a4 a5 s) := by
  unfold execFmulF64; exact cOp_wf h ..

theorem execFdivF64_wf (h : s.memWf = true) (a0 a1 a2 a3 a4 a5) : ResWf (execFdivF64 a0 a1 a2 a3 a4 a5 s) := by
  unfold execFdivF64; exact cOp_wf h ..

theorem execFminF64_wf (h : s.memWf = true) (a0 a1 a2 a3 a4) : ResWf (execFminF64 a0 a1 a2 a3 a4 s) := by
  unfold execFminF64; exact cOp_wf h ..

theorem execFmaxF64_wf (h : s.memWf = true) (a0 a1 a2 a3 a4) : ResWf (execFmaxF64 a0 a1 a2 a3 a4 s) := by
  unfold execFmaxF64; exact cOp_wf h ..

theorem execFsqrtF64_wf (h : s.memWf = true) (a0 a1 a2 a3 a4) : ResWf (execFsqrtF64 a0 a1 a2 a3 a4 s) := by
  unfold execFsqrtF64; exact cOp_wf h ..

theorem execFfmaF64_wf (h : s.memWf = true) (a0 a1 a2 a3 a4 a5) : ResWf (execFfmaF64 a0 a1 a2 a3 a4 a5 s) := by
  unfold execFfmaF64; exact cOp_wf h ..

theorem execFaddF32_wf (h : s.memWf = true) (a0 a1 a2 a3 a4 a5) : ResWf (execFaddF32 a0 a1 a2 a3 a4 a5 s) := by
  unfold execFaddF32; exact cOp_wf h ..

theorem execFsubF32_wf (h : s.memWf = true) (a0 a1 a2 a3 a4 a5) : ResWf (execFsubF32 a0 a1 a2 a3 a4 a5 s) := by
  unfold execFsubF32; exact cOp_wf h ..

theorem execFmulF32_wf (h : s.memWf = true) (a0 a1 a2 a3 a4 a5) : ResWf (execFmulF32 a0 a1 a2 a3 a4 a5 s) := by
  unfold execFmulF32; exact cOp_wf h ..

theorem execFdivF32_wf (h : s.memWf = true) (a0 a1 a2 a3 a4 a5) : ResWf (execFdivF32 a0 a1 a2 a3 a4 a5 s) := by
  unfold execFdivF32; exact cOp_wf h ..

theorem execFminF32_wf (h : s.memWf = true) (a0 a1 a2 a3 a4) : ResWf (execFminF32 a0 a1 a2 a3 a4 s) := by
  unfold execFminF32; exact cOp_wf h ..

theorem execFmaxF32_wf (h : s.memWf = true) (a0 a1 a2 a3 a4) : ResWf (execFmaxF32 a0 a1 a2 a3 a4 s) := by
  unfold execFmaxF32; exact cOp_wf h ..

theorem execFsqrtF32_wf (h : s.memWf = true) (a0 a1 a2 a3 a4) : ResWf (execFsqrtF32 a0 a1 a2 a3 a4 s) := by
  unfold execFsqrtF32; exact cOp_wf h ..

theorem execFfmaF32_wf (h : s.memWf = true) (a0 a1 a2 a3 a4 a5) : ResWf (execFfmaF32 a0 a1 a2 a3 a4 a5 s) := by
  unfold execFfmaF32; exact cOp_wf h ..

theorem execCvt_wf (h : s.memWf = true) (a0 a1 a2 a3 a4 a5 a6 a7) : ResWf (execCvt a0 a1 a2 a3 a4 a5 a6 a7 s) := by
  unfold execCvt; exact cOp_wf h ..

theorem execBq_wf (h : s.memWf = true) (a0 a1 a2) : ResWf (execBq a0 a1 a2 s) := by
  unfold execBq
  refine issue_wf h (fun s _ hs => ?_)
  (repeat' split) <;> first | trivial | exact onCore_wf hs _ | exact State.branchTo_wf hs ..

theorem execBnq_wf (h : s.memWf = true) (a0 a1 a2) : ResWf (execBnq a0 a1 a2 s) := by
  unfold execBnq
  refine issue_wf h (fun s _ hs => ?_)
  (repeat' split) <;> first | trivial | exact onCore_wf hs _ | exact State.branchTo_wf hs ..

theorem execJ_wf (h : s.memWf = true) (a0 a1) : ResWf (execJ a0 a1 s) := by
  unfold execJ; exact issue_wf h (fun s _ hs => State.branchTo_wf hs ..)

theorem execCall_wf (h : s.memWf = true) (a0 a1) : ResWf (execCall a0 a1 s) := by
  unfold execCall; exact issue_wf h (fun s _ hs => State.branchTo_wf hs ..)

theorem execJmpr_wf (h : s.memWf = true) (a0 a1) : ResWf (execJmpr a0 a1 s) := by
  unfold execJmpr
  refine issue_wf h (fun s _ hs => ?_)
  (repeat' split) <;> first | trivial | exact State.branchTo_wf hs ..

theorem execCallr_wf (h : s.memWf = true) (a0 a1) : ResWf (execCallr a0 a1 s) := by
  unfold execCallr
  refine issue_wf h (fun s _ hs => ?_)
  (repeat' split) <;> first | trivial | exact State.branchTo_wf hs ..

theorem execRet_wf (h : s.memWf = true) (a0) : ResWf (execRet a0 s) := by
  unfold execRet
  refine issue_wf h (fun s _ hs => ?_)
  (repeat' split) <;> first | trivial | exact onCore_wf hs _

theorem execIfence_wf (h : s.memWf = true) (a0) : ResWf (execIfence a0 s) := by
  unfold execIfence
  refine issue_wf h (fun s _ hs => ?_)
  split
  · exact onCore_wf ((State.note_wf _).trans hs) _
  · trivial

theorem execFence_wf (h : s.memWf = true) (a0 a1 a2) : ResWf (execFence a0 a1 a2 s) := by
  unfold execFence
  exact issue_wf h (fun s _ hs => (State.fenced_wf ..).trans hs)

theorem execExit_wf (h : s.memWf = true) (a0 a1 a2) : ResWf (execExit a0 a1 a2 s) := by
  unfold execExit
  refine issue_wf h (fun s _ hs => ?_)
  dsimp only
  (repeat' split) <;> first | trivial | exact State.exitNow_wf hs _

theorem execArenaH_wf (h : s.memWf = true) (a0 a1 a2) : ResWf (execArenaH a0 a1 a2 s) := by
  unfold execArenaH; exact cOp_wf h ..

theorem execArenaA_wf (h : s.memWf = true) (a0 a1 a2 a3) : ResWf (execArenaA a0 a1 a2 a3 s) := by
  unfold execArenaA; exact cOp_wf h ..

theorem execMfsr_wf (h : s.memWf = true) (a0 a1 a2) : ResWf (execMfsr a0 a1 a2 s) := by
  unfold execMfsr; exact cOp_wf h ..

theorem execMtsr_wf (h : s.memWf = true) (a0 a1 a2) : ResWf (execMtsr a0 a1 a2 s) := by
  unfold execMtsr; exact cOp_wf h ..

theorem execTrap_wf (h : s.memWf = true) (a0 a1) : ResWf (execTrap a0 a1 s) := by
  unfold execTrap; exact issue_wf h (fun s _ hs => stopWith_wf hs ..)

theorem execBrk_wf (h : s.memWf = true) (a0 a1) : ResWf (execBrk a0 a1 s) := by
  unfold execBrk; exact issue_wf h (fun s _ hs => stopWith_wf hs ..)

theorem execTake_wf (h : s.memWf = true) (a0 a1) : ResWf (execTake a0 a1 s) := by
  unfold execTake
  refine issue_wf h (fun s _ hs => ?_)
  (repeat' split) <;> first | trivial | exact finishIn_wf hs ..

theorem execGive_wf (h : s.memWf = true) (a0 a1) : ResWf (execGive a0 a1 s) := by
  unfold execGive
  refine issue_wf h (fun s _ hs => ?_)
  (repeat' split) <;> first | trivial | exact finishIn_wf hs ..

theorem execNopToken_wf (h : s.memWf = true) (a0) : ResWf (execNopToken a0 s) := by
  unfold execNopToken; exact issue_wf h (fun s _ hs => finishIn_wf hs ..)

theorem execKset_wf (h : s.memWf = true) (a0 a1 a2) : ResWf (execKset a0 a1 a2 s) := by
  unfold execKset
  refine issue_wf h (fun s _ hs => ?_)
  (repeat' split) <;> first | trivial | exact onCore_wf hs _

theorem execKinc_wf (h : s.memWf = true) (a0 a1 a2) : ResWf (execKinc a0 a1 a2 s) := by
  unfold execKinc; exact issue_wf h (fun s _ hs => incBy_wf hs ..)

theorem kTest_wf (h : s.memWf = true) (tk k b f) : (kTest s tk k b f).Wf := by
  unfold kTest
  dsimp only
  split
  · exact finishIn_wf ((State.note_wf _).trans h) ..
  · trivial

theorem execKwge_wf (h : s.memWf = true) (a0 a1 a2) : ResWf (execKwge a0 a1 a2 s) := by
  unfold execKwge; exact issue_wf h (fun s _ hs => kTest_wf hs ..)

theorem execKwgs_wf (h : s.memWf = true) (a0 a1 a2) : ResWf (execKwgs a0 a1 a2 s) := by
  unfold execKwgs; exact issue_wf h (fun s _ hs => kTest_wf hs ..)

theorem execKwlt_wf (h : s.memWf = true) (a0 a1 a2) : ResWf (execKwlt a0 a1 a2 s) := by
  unfold execKwlt; exact issue_wf h (fun s _ hs => kTest_wf hs ..)

theorem execKread_wf (h : s.memWf = true) (a0 a1 a2) : ResWf (execKread a0 a1 a2 s) := by
  unfold execKread
  refine issue_wf h (fun s _ hs => ?_)
  split
  · trivial
  · exact kTest_wf hs ..

theorem execKincr_wf (h : s.memWf = true) (a0 a1 a2) : ResWf (execKincr a0 a1 a2 s) := by
  unfold execKincr
  refine issue_wf h (fun s _ hs => ?_)
  (repeat' split) <;> first | trivial | exact onCore_wf hs _

theorem execNop_wf (h : s.memWf = true) : ResWf (execNop s) := by
  unfold execNop; exact issue_wf h (fun s _ hs => onCore_wf hs _)

theorem execMov_wf (h : s.memWf = true) (a0 a1) : ResWf (execMov a0 a1 s) := by
  unfold execMov; exact cCompact_wf h ..

theorem execAddc_wf (h : s.memWf = true) (a0 a1) : ResWf (execAddc a0 a1 s) := by
  unfold execAddc; exact cCompact_wf h ..

theorem execLic_wf (h : s.memWf = true) (a0 a1) : ResWf (execLic a0 a1 s) := by
  unfold execLic; exact cCompact_wf h ..

theorem execKincCompact_wf (h : s.memWf = true) (a0 a1) : ResWf (execKincCompact a0 a1 s) := by
  unfold execKincCompact; exact issue_wf h (fun s _ hs => incBy_wf hs ..)

theorem execCp1d_wf (h : s.memWf = true) (a0 a1 a2 a3 a4) : ResWf (execCp1d a0 a1 a2 a3 a4 s) := by
  unfold execCp1d; exact issueL_wf h ..

theorem execCp2d_wf (h : s.memWf = true) (a0 a1 a2 a3 a4) : ResWf (execCp2d a0 a1 a2 a3 a4 s) := by
  unfold execCp2d; exact issueL_wf h ..

theorem execCp3d_wf (h : s.memWf = true) (a0 a1 a2 a3 a4) : ResWf (execCp3d a0 a1 a2 a3 a4 s) := by
  unfold execCp3d; exact issueL_wf h ..

theorem execCpw1d_wf (h : s.memWf = true) (a0 a1 a2 a3 a4) : ResWf (execCpw1d a0 a1 a2 a3 a4 s) := by
  unfold execCpw1d; exact issueL_wf h ..

theorem execCpw2d_wf (h : s.memWf = true) (a0 a1 a2 a3 a4) : ResWf (execCpw2d a0 a1 a2 a3 a4 s) := by
  unfold execCpw2d; exact issueL_wf h ..

theorem execCpw3d_wf (h : s.memWf = true) (a0 a1 a2 a3 a4) : ResWf (execCpw3d a0 a1 a2 a3 a4 s) := by
  unfold execCpw3d; exact issueL_wf h ..

theorem execCpl_wf (h : s.memWf = true) (a0 a1 a2 a3) : ResWf (execCpl a0 a1 a2 a3 s) := by
  unfold execCpl; exact issueL_wf h ..

theorem execCpr_wf (h : s.memWf = true) (a0 a1 a2 a3) : ResWf (execCpr a0 a1 a2 a3 s) := by
  unfold execCpr; exact issueL_wf h ..

theorem execCpm_wf (h : s.memWf = true) (a0 a1 a2 a3) : ResWf (execCpm a0 a1 a2 a3 s) := by
  unfold execCpm; exact issueL_wf h ..

theorem execCvcp_wf (h : s.memWf = true) (a0 a1 a2 a3 a4 a5 a6 a7) : ResWf (execCvcp a0 a1 a2 a3 a4 a5 a6 a7 s) := by
  unfold execCvcp; exact issueL_wf h ..

theorem execPfBulk_wf (h : s.memWf = true) (a0 a1 a2 a3 a4) : ResWf (execPfBulk a0 a1 a2 a3 a4 s) := by
  unfold execPfBulk; exact issueL_wf h ..

theorem execPfRel_wf (h : s.memWf = true) (a0 a1 a2 a3) : ResWf (execPfRel a0 a1 a2 a3 s) := by
  unfold execPfRel; exact issueL_wf h ..

theorem execLgath_wf (h : s.memWf = true) (a0 a1 a2 a3 a4) : ResWf (execLgath a0 a1 a2 a3 a4 s) := by
  unfold execLgath; exact issueL_wf h ..

theorem execLscat_wf (h : s.memWf = true) (a0 a1 a2 a3 a4) : ResWf (execLscat a0 a1 a2 a3 a4 s) := by
  unfold execLscat; exact issueL_wf h ..

theorem execLfill_wf (h : s.memWf = true) (a0 a1 a2 a3 a4) : ResWf (execLfill a0 a1 a2 a3 a4 s) := by
  unfold execLfill; exact issueL_wf h ..

theorem execBadd_wf (h : s.memWf = true) (a0 a1 a2 a3) : ResWf (execBadd a0 a1 a2 a3 s) := by
  unfold execBadd; exact lOp_wf h ..

theorem execBsub_wf (h : s.memWf = true) (a0 a1 a2 a3) : ResWf (execBsub a0 a1 a2 a3 s) := by
  unfold execBsub; exact lOp_wf h ..

theorem execBand_wf (h : s.memWf = true) (a0 a1 a2 a3) : ResWf (execBand a0 a1 a2 a3 s) := by
  unfold execBand; exact lOp_wf h ..

theorem execBor_wf (h : s.memWf = true) (a0 a1 a2 a3) : ResWf (execBor a0 a1 a2 a3 s) := by
  unfold execBor; exact lOp_wf h ..

theorem execBxor_wf (h : s.memWf = true) (a0 a1 a2 a3) : ResWf (execBxor a0 a1 a2 a3 s) := by
  unfold execBxor; exact lOp_wf h ..

theorem execBsll_wf (h : s.memWf = true) (a0 a1 a2 a3) : ResWf (execBsll a0 a1 a2 a3 s) := by
  unfold execBsll; exact lOp_wf h ..

theorem execBsrl_wf (h : s.memWf = true) (a0 a1 a2 a3) : ResWf (execBsrl a0 a1 a2 a3 s) := by
  unfold execBsrl; exact lOp_wf h ..

theorem execBmul_wf (h : s.memWf = true) (a0 a1 a2 a3) : ResWf (execBmul a0 a1 a2 a3 s) := by
  unfold execBmul; exact lOp_wf h ..

theorem execBaddi_wf (h : s.memWf = true) (a0 a1 a2 a3) : ResWf (execBaddi a0 a1 a2 a3 s) := by
  unfold execBaddi; exact lOp_wf h ..

theorem execBli_wf (h : s.memWf = true) (a0 a1 a2) : ResWf (execBli a0 a1 a2 s) := by
  unfold execBli; exact lOp_wf h ..

theorem execBlis_wf (h : s.memWf = true) (a0 a1 a2) : ResWf (execBlis a0 a1 a2 s) := by
  unfold execBlis; exact lOp_wf h ..

theorem execBmov_wf (h : s.memWf = true) (a0 a1) : ResWf (execBmov a0 a1 s) := by
  unfold execBmov; exact issue_wf h (fun s _ hs => onCore_wf hs _)

theorem execBaddc_wf (h : s.memWf = true) (a0 a1) : ResWf (execBaddc a0 a1 s) := by
  unfold execBaddc; exact issue_wf h (fun s _ hs => onCore_wf hs _)

theorem execMma_wf (h : s.memWf = true) (a0 a1 a2 a3 a4 a5 a6) : ResWf (execMma a0 a1 a2 a3 a4 a5 a6 s) := by
  unfold execMma; exact issue_wf h (fun s _ hs => issueMma_wf hs ..)

theorem execMmat_wf (h : s.memWf = true) (a0 a1 a2 a3 a4 a5 a6) : ResWf (execMmat a0 a1 a2 a3 a4 a5 a6 s) := by
  unfold execMmat; exact issue_wf h (fun s _ hs => issueMma_wf hs ..)

theorem execTclr_wf (h : s.memWf = true) (a0 a1) : ResWf (execTclr a0 a1 s) := by
  unfold execTclr
  refine issue_wf h (fun s _ hs => ?_)
  (repeat' split) <;> first | trivial | exact enqueueM_wf hs ..

theorem execTldA_wf (h : s.memWf = true) (a0 a1 a2) : ResWf (execTldA a0 a1 a2 s) := by
  unfold execTldA; exact issue_wf h (fun s _ hs => issueTld_wf hs ..)

theorem execTldW_wf (h : s.memWf = true) (a0 a1 a2) : ResWf (execTldW a0 a1 a2 s) := by
  unfold execTldW; exact issue_wf h (fun s _ hs => issueTld_wf hs ..)

theorem execDrain_wf (h : s.memWf = true) (a0 a1 a2 a3 a4 a5 a6 a7) : ResWf (execDrain a0 a1 a2 a3 a4 a5 a6 a7 s) := by
  unfold execDrain
  refine issue_wf h (fun s _ hs => ?_)
  dsimp only
  (repeat' split) <;> first | trivial | exact enqueueM_wf ((State.note_wf ..).trans hs) ..

theorem execEload_wf (h : s.memWf = true) (a0 a1 a2 a3 a4) : ResWf (execEload a0 a1 a2 a3 a4 s) := by
  unfold execEload
  refine issue_wf h (fun s _ hs => ?_)
  dsimp only
  (repeat' split) <;> first | trivial | exact finishIn_wf ((State.view_wf ..).trans hs) ..

theorem execGli_wf (h : s.memWf = true) (a0 a1 a2) : ResWf (execGli a0 a1 a2 s) := by
  unfold execGli; exact issue_wf h (fun s _ hs => finishIn_wf hs ..)

theorem execGlis_wf (h : s.memWf = true) (a0 a1 a2) : ResWf (execGlis a0 a1 a2 s) := by
  unfold execGlis; exact issue_wf h (fun s _ hs => finishIn_wf hs ..)

theorem execTclrCompact_wf (h : s.memWf = true) (a0) : ResWf (execTclrCompact a0 s) := by
  unfold execTclrCompact
  refine issue_wf h (fun s _ hs => ?_)
  (repeat' split) <;> first | trivial | exact enqueueM_wf hs ..

theorem execVaddF32_wf (h : s.memWf = true) (a0 a1 a2 a3 a4 a5 a6) : ResWf (execVaddF32 a0 a1 a2 a3 a4 a5 a6 s) := by
  unfold execVaddF32; exact vOp_wf h ..

theorem execVsubF32_wf (h : s.memWf = true) (a0 a1 a2 a3 a4 a5 a6) : ResWf (execVsubF32 a0 a1 a2 a3 a4 a5 a6 s) := by
  unfold execVsubF32; exact vOp_wf h ..

theorem execVmulF32_wf (h : s.memWf = true) (a0 a1 a2 a3 a4 a5 a6) : ResWf (execVmulF32 a0 a1 a2 a3 a4 a5 a6 s) := by
  unfold execVmulF32; exact vOp_wf h ..

theorem execVfmaF32_wf (h : s.memWf = true) (a0 a1 a2 a3 a4 a5 a6) : ResWf (execVfmaF32 a0 a1 a2 a3 a4 a5 a6 s) := by
  unfold execVfmaF32; exact vOp_wf h ..

theorem execVminF32_wf (h : s.memWf = true) (a0 a1 a2 a3 a4 a5) : ResWf (execVminF32 a0 a1 a2 a3 a4 a5 s) := by
  unfold execVminF32; exact vOp_wf h ..

theorem execVmaxF32_wf (h : s.memWf = true) (a0 a1 a2 a3 a4 a5) : ResWf (execVmaxF32 a0 a1 a2 a3 a4 a5 s) := by
  unfold execVmaxF32; exact vOp_wf h ..

theorem execVdivF32_wf (h : s.memWf = true) (a0 a1 a2 a3 a4 a5 a6) : ResWf (execVdivF32 a0 a1 a2 a3 a4 a5 a6 s) := by
  unfold execVdivF32; exact vOp_wf h ..

theorem execVaddF64_wf (h : s.memWf = true) (a0 a1 a2 a3 a4 a5 a6) : ResWf (execVaddF64 a0 a1 a2 a3 a4 a5 a6 s) := by
  unfold execVaddF64; exact vOp_wf h ..

theorem execVsubF64_wf (h : s.memWf = true) (a0 a1 a2 a3 a4 a5 a6) : ResWf (execVsubF64 a0 a1 a2 a3 a4 a5 a6 s) := by
  unfold execVsubF64; exact vOp_wf h ..

theorem execVmulF64_wf (h : s.memWf = true) (a0 a1 a2 a3 a4 a5 a6) : ResWf (execVmulF64 a0 a1 a2 a3 a4 a5 a6 s) := by
  unfold execVmulF64; exact vOp_wf h ..

theorem execVfmaF64_wf (h : s.memWf = true) (a0 a1 a2 a3 a4 a5 a6) : ResWf (execVfmaF64 a0 a1 a2 a3 a4 a5 a6 s) := by
  unfold execVfmaF64; exact vOp_wf h ..

theorem execVminF64_wf (h : s.memWf = true) (a0 a1 a2 a3 a4 a5) : ResWf (execVminF64 a0 a1 a2 a3 a4 a5 s) := by
  unfold execVminF64; exact vOp_wf h ..

theorem execVmaxF64_wf (h : s.memWf = true) (a0 a1 a2 a3 a4 a5) : ResWf (execVmaxF64 a0 a1 a2 a3 a4 a5 s) := by
  unfold execVmaxF64; exact vOp_wf h ..

theorem execVdivF64_wf (h : s.memWf = true) (a0 a1 a2 a3 a4 a5 a6) : ResWf (execVdivF64 a0 a1 a2 a3 a4 a5 a6 s) := by
  unfold execVdivF64; exact vOp_wf h ..

theorem execVaddF16_wf (h : s.memWf = true) (a0 a1 a2 a3 a4 a5 a6) : ResWf (execVaddF16 a0 a1 a2 a3 a4 a5 a6 s) := by
  unfold execVaddF16; exact vOp_wf h ..

theorem execVsubF16_wf (h : s.memWf = true) (a0 a1 a2 a3 a4 a5 a6) : ResWf (execVsubF16 a0 a1 a2 a3 a4 a5 a6 s) := by
  unfold execVsubF16; exact vOp_wf h ..

theorem execVmulF16_wf (h : s.memWf = true) (a0 a1 a2 a3 a4 a5 a6) : ResWf (execVmulF16 a0 a1 a2 a3 a4 a5 a6 s) := by
  unfold execVmulF16; exact vOp_wf h ..

theorem execVfmaF16_wf (h : s.memWf = true) (a0 a1 a2 a3 a4 a5 a6) : ResWf (execVfmaF16 a0 a1 a2 a3 a4 a5 a6 s) := by
  unfold execVfmaF16; exact vOp_wf h ..

theorem execVminF16_wf (h : s.memWf = true) (a0 a1 a2 a3 a4 a5) : ResWf (execVminF16 a0 a1 a2 a3 a4 a5 s) := by
  unfold execVminF16; exact vOp_wf h ..

theorem execVmaxF16_wf (h : s.memWf = true) (a0 a1 a2 a3 a4 a5) : ResWf (execVmaxF16 a0 a1 a2 a3 a4 a5 s) := by
  unfold execVmaxF16; exact vOp_wf h ..

theorem execVdivF16_wf (h : s.memWf = true) (a0 a1 a2 a3 a4 a5 a6) : ResWf (execVdivF16 a0 a1 a2 a3 a4 a5 a6 s) := by
  unfold execVdivF16; exact vOp_wf h ..

theorem execVaddBf16_wf (h : s.memWf = true) (a0 a1 a2 a3 a4 a5 a6) : ResWf (execVaddBf16 a0 a1 a2 a3 a4 a5 a6 s) := by
  unfold execVaddBf16; exact vOp_wf h ..

theorem execVsubBf16_wf (h : s.memWf = true) (a0 a1 a2 a3 a4 a5 a6) : ResWf (execVsubBf16 a0 a1 a2 a3 a4 a5 a6 s) := by
  unfold execVsubBf16; exact vOp_wf h ..

theorem execVmulBf16_wf (h : s.memWf = true) (a0 a1 a2 a3 a4 a5 a6) : ResWf (execVmulBf16 a0 a1 a2 a3 a4 a5 a6 s) := by
  unfold execVmulBf16; exact vOp_wf h ..

theorem execVfmaBf16_wf (h : s.memWf = true) (a0 a1 a2 a3 a4 a5 a6) : ResWf (execVfmaBf16 a0 a1 a2 a3 a4 a5 a6 s) := by
  unfold execVfmaBf16; exact vOp_wf h ..

theorem execVminBf16_wf (h : s.memWf = true) (a0 a1 a2 a3 a4 a5) : ResWf (execVminBf16 a0 a1 a2 a3 a4 a5 s) := by
  unfold execVminBf16; exact vOp_wf h ..

theorem execVmaxBf16_wf (h : s.memWf = true) (a0 a1 a2 a3 a4 a5) : ResWf (execVmaxBf16 a0 a1 a2 a3 a4 a5 s) := by
  unfold execVmaxBf16; exact vOp_wf h ..

theorem execVdivBf16_wf (h : s.memWf = true) (a0 a1 a2 a3 a4 a5 a6) : ResWf (execVdivBf16 a0 a1 a2 a3 a4 a5 a6 s) := by
  unfold execVdivBf16; exact vOp_wf h ..

theorem execVaddI32_wf (h : s.memWf = true) (a0 a1 a2 a3 a4 a5) : ResWf (execVaddI32 a0 a1 a2 a3 a4 a5 s) := by
  unfold execVaddI32; exact vOp_wf h ..

theorem execVsubI32_wf (h : s.memWf = true) (a0 a1 a2 a3 a4 a5) : ResWf (execVsubI32 a0 a1 a2 a3 a4 a5 s) := by
  unfold execVsubI32; exact vOp_wf h ..

theorem execVmulI32_wf (h : s.memWf = true) (a0 a1 a2 a3 a4 a5) : ResWf (execVmulI32 a0 a1 a2 a3 a4 a5 s) := by
  unfold execVmulI32; exact vOp_wf h ..

theorem execVmulhI32_wf (h : s.memWf = true) (a0 a1 a2 a3 a4) : ResWf (execVmulhI32 a0 a1 a2 a3 a4 s) := by
  unfold execVmulhI32; exact vOp_wf h ..

theorem execVand_wf (h : s.memWf = true) (a0 a1 a2 a3 a4) : ResWf (execVand a0 a1 a2 a3 a4 s) := by
  unfold execVand; exact vOp_wf h ..

theorem execVor_wf (h : s.memWf = true) (a0 a1 a2 a3 a4) : ResWf (execVor a0 a1 a2 a3 a4 s) := by
  unfold execVor; exact vOp_wf h ..

theorem execVxor_wf (h : s.memWf = true) (a0 a1 a2 a3 a4) : ResWf (execVxor a0 a1 a2 a3 a4 s) := by
  unfold execVxor; exact vOp_wf h ..

theorem execVandn_wf (h : s.memWf = true) (a0 a1 a2 a3 a4) : ResWf (execVandn a0 a1 a2 a3 a4 s) := by
  unfold execVandn; exact vOp_wf h ..

theorem execVsll_wf (h : s.memWf = true) (a0 a1 a2 a3 a4) : ResWf (execVsll a0 a1 a2 a3 a4 s) := by
  unfold execVsll; exact vOp_wf h ..

theorem execVsrl_wf (h : s.memWf = true) (a0 a1 a2 a3 a4) : ResWf (execVsrl a0 a1 a2 a3 a4 s) := by
  unfold execVsrl; exact vOp_wf h ..

theorem execVsra_wf (h : s.memWf = true) (a0 a1 a2 a3 a4) : ResWf (execVsra a0 a1 a2 a3 a4 s) := by
  unfold execVsra; exact vOp_wf h ..

theorem execVaddI16_wf (h : s.memWf = true) (a0 a1 a2 a3 a4 a5) : ResWf (execVaddI16 a0 a1 a2 a3 a4 a5 s) := by
  unfold execVaddI16; exact vOp_wf h ..

theorem execVsubI16_wf (h : s.memWf = true) (a0 a1 a2 a3 a4 a5) : ResWf (execVsubI16 a0 a1 a2 a3 a4 a5 s) := by
  unfold execVsubI16; exact vOp_wf h ..

theorem execVmulI16_wf (h : s.memWf = true) (a0 a1 a2 a3 a4 a5) : ResWf (execVmulI16 a0 a1 a2 a3 a4 a5 s) := by
  unfold execVmulI16; exact vOp_wf h ..

theorem execVcmp_wf (h : s.memWf = true) (a0 a1 a2 a3 a4 a5 a6 a7) : ResWf (execVcmp a0 a1 a2 a3 a4 a5 a6 a7 s) := by
  unfold execVcmp; exact vOp_wf h ..

theorem execVmov_wf (h : s.memWf = true) (a0 a1 a2 a3) : ResWf (execVmov a0 a1 a2 a3 s) := by
  unfold execVmov; exact vOp_wf h ..

theorem execVsel_wf (h : s.memWf = true) (a0 a1 a2 a3 a4) : ResWf (execVsel a0 a1 a2 a3 a4 s) := by
  unfold execVsel; exact vOp_wf h ..

theorem execVbcast_wf (h : s.memWf = true) (a0 a1 a2 a3) : ResWf (execVbcast a0 a1 a2 a3 s) := by
  unfold execVbcast; exact vOp_wf h ..

theorem execVsqrt_wf (h : s.memWf = true) (a0 a1 a2 a3 a4 a5 a6) : ResWf (execVsqrt a0 a1 a2 a3 a4 a5 a6 s) := by
  unfold execVsqrt; exact vOp_wf h ..

theorem execVrsqrt_wf (h : s.memWf = true) (a0 a1 a2 a3 a4 a5 a6) : ResWf (execVrsqrt a0 a1 a2 a3 a4 a5 a6 s) := by
  unfold execVrsqrt; exact vOp_wf h ..

theorem execVexp2_wf (h : s.memWf = true) (a0 a1 a2 a3 a4 a5 a6) : ResWf (execVexp2 a0 a1 a2 a3 a4 a5 a6 s) := by
  unfold execVexp2; exact vOp_wf h ..

theorem execVlog2_wf (h : s.memWf = true) (a0 a1 a2 a3 a4 a5 a6) : ResWf (execVlog2 a0 a1 a2 a3 a4 a5 a6 s) := by
  unfold execVlog2; exact vOp_wf h ..

theorem execVexp_wf (h : s.memWf = true) (a0 a1 a2 a3 a4 a5 a6) : ResWf (execVexp a0 a1 a2 a3 a4 a5 a6 s) := by
  unfold execVexp; exact vOp_wf h ..

theorem execVln_wf (h : s.memWf = true) (a0 a1 a2 a3 a4 a5 a6) : ResWf (execVln a0 a1 a2 a3 a4 a5 a6 s) := by
  unfold execVln; exact vOp_wf h ..

theorem execVsin_wf (h : s.memWf = true) (a0 a1 a2 a3 a4 a5 a6) : ResWf (execVsin a0 a1 a2 a3 a4 a5 a6 s) := by
  unfold execVsin; exact vOp_wf h ..

theorem execVcos_wf (h : s.memWf = true) (a0 a1 a2 a3 a4 a5 a6) : ResWf (execVcos a0 a1 a2 a3 a4 a5 a6 s) := by
  unfold execVcos; exact vOp_wf h ..

theorem execVtanh_wf (h : s.memWf = true) (a0 a1 a2 a3 a4 a5 a6) : ResWf (execVtanh a0 a1 a2 a3 a4 a5 a6 s) := by
  unfold execVtanh; exact vOp_wf h ..

theorem execVerf_wf (h : s.memWf = true) (a0 a1 a2 a3 a4 a5 a6) : ResWf (execVerf a0 a1 a2 a3 a4 a5 a6 s) := by
  unfold execVerf; exact vOp_wf h ..

theorem execVrcp_wf (h : s.memWf = true) (a0 a1 a2 a3 a4 a5 a6) : ResWf (execVrcp a0 a1 a2 a3 a4 a5 a6 s) := by
  unfold execVrcp; exact vOp_wf h ..

theorem execVcvtF32_wf (h : s.memWf = true) (a0 a1 a2 a3 a4 a5 a6 a7 a8) : ResWf (execVcvtF32 a0 a1 a2 a3 a4 a5 a6 a7 a8 s) := by
  unfold execVcvtF32; exact vOp_wf h ..

theorem execVcvtF64_wf (h : s.memWf = true) (a0 a1 a2 a3 a4 a5 a6 a7 a8) : ResWf (execVcvtF64 a0 a1 a2 a3 a4 a5 a6 a7 a8 s) := by
  unfold execVcvtF64; exact vOp_wf h ..

theorem execVcvtI32_wf (h : s.memWf = true) (a0 a1 a2 a3 a4 a5 a6 a7 a8) : ResWf (execVcvtI32 a0 a1 a2 a3 a4 a5 a6 a7 a8 s) := by
  unfold execVcvtI32; exact vOp_wf h ..

theorem execVquant_wf (h : s.memWf = true) (a0 a1 a2 a3 a4 a5 a6) : ResWf (execVquant a0 a1 a2 a3 a4 a5 a6 s) := by
  unfold execVquant; exact vOp_wf h ..

theorem execVexpand_wf (h : s.memWf = true) (a0 a1 a2 a3 a4 a5 a6) : ResWf (execVexpand a0 a1 a2 a3 a4 a5 a6 s) := by
  unfold execVexpand; exact vOp_wf h ..

theorem execVrsum_wf (h : s.memWf = true) (a0 a1 a2 a3 a4 a5 a6) : ResWf (execVrsum a0 a1 a2 a3 a4 a5 a6 s) := by
  unfold execVrsum; exact vOp_wf h ..

theorem execVrmax_wf (h : s.memWf = true) (a0 a1 a2 a3 a4 a5 a6) : ResWf (execVrmax a0 a1 a2 a3 a4 a5 a6 s) := by
  unfold execVrmax; exact vOp_wf h ..

theorem execVrmin_wf (h : s.memWf = true) (a0 a1 a2 a3 a4 a5 a6) : ResWf (execVrmin a0 a1 a2 a3 a4 a5 a6 s) := by
  unfold execVrmin; exact vOp_wf h ..

theorem execVbcl_wf (h : s.memWf = true) (a0 a1 a2 a3 a4 a5) : ResWf (execVbcl a0 a1 a2 a3 a4 a5 s) := by
  unfold execVbcl; exact vOp_wf h ..

theorem execVrotl_wf (h : s.memWf = true) (a0 a1 a2 a3 a4 a5) : ResWf (execVrotl a0 a1 a2 a3 a4 a5 s) := by
  unfold execVrotl; exact vOp_wf h ..

theorem execVshuf_wf (h : s.memWf = true) (a0 a1 a2 a3 a4 a5) : ResWf (execVshuf a0 a1 a2 a3 a4 a5 s) := by
  unfold execVshuf; exact vOp_wf h ..

theorem execVzip_wf (h : s.memWf = true) (a0 a1 a2 a3 a4) : ResWf (execVzip a0 a1 a2 a3 a4 s) := by
  unfold execVzip; exact vOp_wf h ..

theorem execVldr_wf (h : s.memWf = true) (a0 a1 a2 a3 a4) : ResWf (execVldr a0 a1 a2 a3 a4 s) := by
  unfold execVldr
  refine issue_wf h (fun s _ hs => ?_)
  dsimp only
  (repeat' split) <;> first | trivial | exact vload_wf hs .. | exact vstore_wf hs .. | exact (State.fenced_wf ..).trans hs

theorem execVstr_wf (h : s.memWf = true) (a0 a1 a2 a3 a4) : ResWf (execVstr a0 a1 a2 a3 a4 s) := by
  unfold execVstr
  refine issue_wf h (fun s _ hs => ?_)
  dsimp only
  (repeat' split) <;> first | trivial | exact vload_wf hs .. | exact vstore_wf hs .. | exact (State.fenced_wf ..).trans hs

theorem execVldG_wf (h : s.memWf = true) (a0 a1 a2 a3 a4 a5 a6 a7) : ResWf (execVldG a0 a1 a2 a3 a4 a5 a6 a7 s) := by
  unfold execVldG
  refine issue_wf h (fun s _ hs => ?_)
  dsimp only
  (repeat' split) <;> first | trivial | exact vload_wf hs ..

theorem execVstG_wf (h : s.memWf = true) (a0 a1 a2 a3 a4 a5 a6 a7) : ResWf (execVstG a0 a1 a2 a3 a4 a5 a6 a7 s) := by
  unfold execVstG
  refine issue_wf h (fun s _ hs => ?_)
  dsimp only
  (repeat' split) <;> first | trivial | exact vstore_wf hs ..

theorem execVldSg_wf (h : s.memWf = true) (a0 a1 a2 a3 a4 a5 a6) : ResWf (execVldSg a0 a1 a2 a3 a4 a5 a6 s) := by
  unfold execVldSg
  refine issue_wf h (fun s _ hs => ?_)
  dsimp only
  (repeat' split) <;> first | trivial | exact vload_wf hs ..

theorem execVstSg_wf (h : s.memWf = true) (a0 a1 a2 a3 a4 a5 a6) : ResWf (execVstSg a0 a1 a2 a3 a4 a5 a6 s) := by
  unfold execVstSg
  refine issue_wf h (fun s _ hs => ?_)
  dsimp only
  (repeat' split) <;> first | trivial | exact vstore_wf hs ..

theorem execVgath_wf (h : s.memWf = true) (a0 a1 a2 a3 a4 a5 a6) : ResWf (execVgath a0 a1 a2 a3 a4 a5 a6 s) := by
  unfold execVgath
  refine issue_wf h (fun s _ hs => ?_)
  dsimp only
  (repeat' split) <;> first | trivial | exact vload_wf hs .. | exact vstore_wf hs .. | exact (State.fenced_wf ..).trans hs

theorem execVscat_wf (h : s.memWf = true) (a0 a1 a2 a3 a4 a5 a6) : ResWf (execVscat a0 a1 a2 a3 a4 a5 a6 s) := by
  unfold execVscat
  refine issue_wf h (fun s _ hs => ?_)
  dsimp only
  (repeat' split) <;> first | trivial | exact vload_wf hs .. | exact vstore_wf hs .. | exact (State.fenced_wf ..).trans hs

theorem execPand_wf (h : s.memWf = true) (a0 a1 a2 a3) : ResWf (execPand a0 a1 a2 a3 s) := by
  unfold execPand; exact vOp_wf h ..

theorem execPor_wf (h : s.memWf = true) (a0 a1 a2 a3) : ResWf (execPor a0 a1 a2 a3 s) := by
  unfold execPor; exact vOp_wf h ..

theorem execPxor_wf (h : s.memWf = true) (a0 a1 a2 a3) : ResWf (execPxor a0 a1 a2 a3 s) := by
  unfold execPxor; exact vOp_wf h ..

theorem execPandn_wf (h : s.memWf = true) (a0 a1 a2 a3) : ResWf (execPandn a0 a1 a2 a3 s) := by
  unfold execPandn; exact vOp_wf h ..

theorem execPnot_wf (h : s.memWf = true) (a0 a1 a2) : ResWf (execPnot a0 a1 a2 s) := by
  unfold execPnot; exact vOp_wf h ..

theorem execPset_wf (h : s.memWf = true) (a0 a1) : ResWf (execPset a0 a1 s) := by
  unfold execPset; exact vOp_wf h ..

theorem execPclr_wf (h : s.memWf = true) (a0 a1) : ResWf (execPclr a0 a1 s) := by
  unfold execPclr; exact vOp_wf h ..

theorem execXli_wf (h : s.memWf = true) (a0 a1 a2) : ResWf (execXli a0 a1 a2 s) := by
  unfold execXli; exact vOp_wf h ..

theorem execXlis_wf (h : s.memWf = true) (a0 a1 a2) : ResWf (execXlis a0 a1 a2 s) := by
  unfold execXlis; exact vOp_wf h ..

theorem execXadd_wf (h : s.memWf = true) (a0 a1 a2 a3) : ResWf (execXadd a0 a1 a2 a3 s) := by
  unfold execXadd; exact vOp_wf h ..

theorem execXsub_wf (h : s.memWf = true) (a0 a1 a2 a3) : ResWf (execXsub a0 a1 a2 a3 s) := by
  unfold execXsub; exact vOp_wf h ..

theorem execXand_wf (h : s.memWf = true) (a0 a1 a2 a3) : ResWf (execXand a0 a1 a2 a3 s) := by
  unfold execXand; exact vOp_wf h ..

theorem execXorX_wf (h : s.memWf = true) (a0 a1 a2 a3) : ResWf (execXorX a0 a1 a2 a3 s) := by
  unfold execXorX; exact vOp_wf h ..

theorem execXxor_wf (h : s.memWf = true) (a0 a1 a2 a3) : ResWf (execXxor a0 a1 a2 a3 s) := by
  unfold execXxor; exact vOp_wf h ..

theorem execXsll_wf (h : s.memWf = true) (a0 a1 a2 a3) : ResWf (execXsll a0 a1 a2 a3 s) := by
  unfold execXsll; exact vOp_wf h ..

theorem execXsrl_wf (h : s.memWf = true) (a0 a1 a2 a3) : ResWf (execXsrl a0 a1 a2 a3 s) := by
  unfold execXsrl; exact vOp_wf h ..

theorem execXmul_wf (h : s.memWf = true) (a0 a1 a2 a3) : ResWf (execXmul a0 a1 a2 a3 s) := by
  unfold execXmul; exact vOp_wf h ..

theorem execVfence_wf (h : s.memWf = true) (a0 a1 a2) : ResWf (execVfence a0 a1 a2 s) := by
  unfold execVfence
  refine issue_wf h (fun s _ hs => ?_)
  (repeat' split) <;> first | trivial | exact vload_wf hs .. | exact vstore_wf hs .. | exact (State.fenced_wf ..).trans hs

theorem execVflrd_wf (h : s.memWf = true) (a0 a1 a2 a3) : ResWf (execVflrd a0 a1 a2 a3 s) := by
  unfold execVflrd; exact vOp_wf h ..

theorem execVflclr_wf (h : s.memWf = true) (a0 a1) : ResWf (execVflclr a0 a1 s) := by
  unfold execVflclr; exact vOp_wf h ..

theorem execVbaseW_wf (h : s.memWf = true) (a0 a1) : ResWf (execVbaseW a0 a1 s) := by
  unfold execVbaseW; exact vOp_wf h ..

theorem execVbaseR_wf (h : s.memWf = true) (a0 a1) : ResWf (execVbaseR a0 a1 s) := by
  unfold execVbaseR; exact vOp_wf h ..

theorem execVrotW_wf (h : s.memWf = true) (a0 a1) : ResWf (execVrotW a0 a1 s) := by
  unfold execVrotW; exact vOp_wf h ..

theorem execVrotR_wf (h : s.memWf = true) (a0 a1) : ResWf (execVrotR a0 a1 s) := by
  unfold execVrotR; exact vOp_wf h ..

theorem execVgov_wf (h : s.memWf = true) (a0) : ResWf (execVgov a0 s) := by
  unfold execVgov; exact issue_wf h (fun s _ hs => onCore_wf hs _)

end Sys2Proof.Machine
end

