-- ==== Sys2Proof/Laws/MemWfSystem.lean ====
section
/-! SUPPORT. The canonical form of memory through the engines' events, the network, management and register writes, and
through the clock's step. -/

namespace Sys2Proof.Machine

open Sys2Proof

variable {s : State}

/-! ### TDI, Relay and links -/

theorem execTdiStateChange_wf (h : s.memWf = true) (p t) : ResWf (execTdiStateChange p t s) := by
  unfold execTdiStateChange
  have h1 : ({ s with tdi := Tab.set Tdi.unlocked s.tdi p t } : State).memWf = true := (State.wf_congr rfl rfl rfl).trans h
  split
  · exact h
  · dsimp only [ResWf]
    split
    · exact foldl_wf (fun _ r hs => State.refuseAll_wf hs r) _ h1
    · exact h1

theorem State.perform_wf (h : s.memWf = true) (g p m) : ∀ t r, s.perform g p m = some (t, r) → t.memWf = true := by
  have key : ∀ (x : MRes) (f : List Byte → Option Msg), x.Wf → ∀ o,
      (match (motive := MRes → Option (State × Option Msg)) x with | .ok s bs => some (s, f bs) | .fault _ _ => none | .wait _ => none) = o → ∀ t r, o = some (t, r) →
      t.memWf = true := by
    rintro x f hx _ rfl t r e
    cases x <;> simp only [reduceCtorEq, Option.some.injEq, Prod.mk.injEq] at e
    obtain ⟨rfl, -⟩ := e
    exact hx
  have guard : ∀ (b : Bool) (o : Option (State × Option Msg)), (∀ t r, o = some (t, r) → t.memWf = true) →
      ∀ t r, (if b then none else o) = some (t, r) → t.memWf = true := by
    intro b o ho t r e
    split at e
    · cases e
    · exact ho t r e
  have plain : ∀ (u : State) (a : Option Msg), u.memWf = true → ∀ t r, some (u, a) = some (t, r) → t.memWf = true := by
    intro u a hu t r e
    simp only [Option.some.injEq, Prod.mk.injEq] at e
    obtain ⟨rfl, -⟩ := e
    exact hu
  cases m <;> dsimp only [State.perform]
  case store => exact guard _ _ (key _ (fun _ => none) (State.gWrite_wf h ..) _ rfl)
  case load a n => exact guard _ _ (key _ (fun bs => some (.reply a bs)) (State.gRead_wf h ..) _ rfl)
  case amo a _ _ _ _ => exact guard _ _ (key _ (fun bs => some (.reply a bs)) (State.gAcc_wf h ..) _ rfl)
  case redf => exact guard _ _ (key _ (fun _ => none) (State.gAcc_wf h ..) _ rfl)
  case reply => exact plain _ _ h
  case collective => exact guard _ _ (plain _ _ ((State.addContrib_wf ..).trans h))
  all_goals exact plain _ _ ((State.wf_congr rfl rfl rfl).trans h)

@[simp] theorem State.relayAcked_wf (g p n) : (s.relayAcked g p n).memWf = s.memWf := State.wf_congr rfl rfl rfl

theorem execRelayPacketReceive_wf (h : s.memWf = true) (g p n m) : ResWf (execRelayPacketReceive g p n m s) := by
  unfold execRelayPacketReceive
  have hp := State.perform_wf h g p m
  generalize s.perform g p m = x at hp ⊢
  dsimp only
  refine ResWf.ite (fun _ => h) fun _ => ResWf.ite (fun _ => (State.relayAcked_wf ..).trans h) fun _ =>
    ResWf.ite (fun _ => h) fun _ => ?_
  split
  · exact h
  · rename_i s1 reply
    have h1 : s1.memWf = true := hp _ _ rfl
    dsimp only [ResWf]
    split
    · simp only [State.relaySend_wf, State.relayAcked_wf, State.setPair_wf, h1]
    · simp only [State.relayAcked_wf, State.setPair_wf, h1]

theorem execRelayAck_wf (h : s.memWf = true) (g p n) : ResWf (execRelayAck g p n s) := by
  simp only [execRelayAck, ResWf, State.setPair_wf, h]

theorem State.unreachable_wf (h : s.memWf = true) (g) : (s.unreachable g).memWf = true := by
  unfold State.unreachable
  dsimp only
  exact foldl_wf (fun _ j hs => State.failJob_wf hs ..) _ (by rw [State.orReg_wf]; exact h)

theorem execRelayRto_wf (h : s.memWf = true) (g p n) : ResWf (execRelayRto g p n s) := by
  unfold execRelayRto
  dsimp only
  split
  · exact h
  · split
    · exact h
    · split
      · exact State.unreachable_wf (by rw [State.setPair_wf]; exact h) _
      · simp [ResWf, h]

@[simp] theorem State.setLink_wf (i x) : (s.setLink i x).memWf = s.memWf := State.wf_congr rfl rfl rfl

@[simp] theorem State.addSlips_wf (p k n) : (s.addSlips p k n).memWf = s.memWf := State.wf_congr rfl rfl rfl

theorem State.loseSlots_wf (h : s.memWf = true) (c a b) : (s.loseSlots c a b).memWf = true := by
  unfold State.loseSlots
  generalize List.range 512 = l
  split
  · exact h
  · refine foldl_wf (fun s i hs => ?_) l h
    split
    · rw [State.addSlips_wf]; exact hs
    · exact hs

theorem State.linkSlips_wf (h : s.memWf = true) (w i) : (s.linkSlips w i).memWf = true := State.loseSlots_wf h ..

theorem State.linkTakes_wf (h : s.memWf = true) (i n) : (s.linkTakes i n).memWf = true := by
  unfold State.linkTakes
  dsimp only
  rw [State.setLink_wf]
  split
  · exact h
  · exact State.loseSlots_wf h ..

theorem State.slotOn_wf (h : s.memWf = true) (w) : (s.slotOn w).memWf = true := by
  unfold State.slotOn
  split
  · exact h
  · exact foldl_wf (fun s k hs => by rw [State.relayOut_wf]; exact hs) _ (foldl_wf (fun _ i hs => State.linkSlips_wf hs w i) _ h)

@[simp] theorem State.retrained_wf (i u) : (s.retrained i u).memWf = s.memWf := by simp [State.retrained]

theorem execFlitCrcError_wf (h : s.memWf = true) (i) : ResWf (execFlitCrcError i s) := by
  unfold execFlitCrcError; split
  · exact h
  · exact State.linkTakes_wf ((State.setLink_wf ..).trans h) ..

theorem execLinkRetrain_wf (h : s.memWf = true) (i) : ResWf (execLinkRetrain i s) := by
  unfold execLinkRetrain; split
  · exact h
  · exact (State.setLink_wf ..).trans (State.linkTakes_wf h ..)

theorem execRetrainTimeout_wf (h : s.memWf = true) (i) : ResWf (execRetrainTimeout i s) := by
  unfold execRetrainTimeout; split
  · exact h
  · dsimp only [ResWf]; rw [State.memWf_mk]; simp [h]

theorem execLinkRetrainSuccess_wf (h : s.memWf = true) (i) : ResWf (execLinkRetrainSuccess i s) := by
  unfold execLinkRetrainSuccess; split
  · exact h
  · simp only [ResWf, State.retrained_wf, h]

/-! ### Connections and windows -/

theorem State.endConn_wf (h : s.memWf = true) (n) : (s.endConn n).memWf = true := by
  unfold State.endConn
  dsimp only
  refine foldl_wf (fun s e hs => ?_) _ (foldl_wf (fun _ c hs => State.endCommand_wf _ _ hs) _ h)
  rw [State.mayDoze_wf]; exact hs

@[simp] theorem State.setConn_wf (n x) : (s.setConn n x).memWf = s.memWf := State.wf_congr rfl rfl rfl

theorem State.closeConn_wf (h : s.memWf = true) (n x) : (s.closeConn n x).memWf = true := by
  unfold State.closeConn; rw [State.setConn_wf]; exact State.endConn_wf h _

theorem State.writeConn_wf (h : s.memWf = true) (n x) : (s.writeConn n x).memWf = true := by
  unfold State.writeConn
  dsimp only
  (repeat' split)
  · rw [State.orReg_wf]; exact h
  · exact State.closeConn_wf h ..
  · rw [State.setConn_wf]; exact h

theorem execUeConnOpen_wf (h : s.memWf = true) (i x) : ResWf (execUeConnOpen i x s) := by
  unfold execUeConnOpen; refine State.bar_wf h ?_; split
  · exact State.writeConn_wf h ..
  · exact h

theorem execUeConnClose_wf (h : s.memWf = true) (i) : ResWf (execUeConnClose i s) := by
  unfold execUeConnClose; refine State.bar_wf h ?_; split
  · exact State.closeConn_wf h ..
  · exact h

theorem execUeWindowWrite_wf (h : s.memWf = true) (i x) : ResWf (execUeWindowWrite i x s) := by
  unfold execUeWindowWrite; refine State.bar_wf h ?_
  (repeat' split)
  · exact h
  · rw [State.orReg_wf]; exact h
  · exact (State.wf_congr rfl rfl rfl).trans h

theorem State.connError_wf (h : s.memWf = true) (n) : (s.connError n).memWf = true := by
  unfold State.connError
  dsimp only
  rw [State.orReg_wf]; exact (State.wf_congr rfl rfl rfl).trans h

@[simp] theorem State.ueAck_wf (n) : (s.ueAck n).memWf = s.memWf := State.wf_congr rfl rfl rfl

theorem State.placeRuns_wf (n p) (gs : List Grain) : ∀ (s : State) ws, s.memWf = true →
    (State.placeRuns n p gs s ws).1.memWf = true := by
  induction gs with
  | nil => intro s ws h; exact h
  | cons g gs ih =>
    intro s ws h
    have hp := State.prepare_wf h (numCores + 1, n) p g.addr g.n .write g.whole
    simp only [State.placeRuns]
    split <;> (simp only [*, XRes.Wf] at hp)
    · exact ih _ _ hp
    · exact hp
    · exact hp

theorem State.writePlaced_wf (n p k) (gs : List Grain) : ∀ (s : State) ds, s.memWf = true →
    (State.writePlaced n p k gs s ds).1.memWf = true := by
  induction gs with
  | nil => intro s ds h; exact h
  | cons g gs ih =>
    intro s ds h
    simp only [State.writePlaced]
    split
    · exact ih _ _ h
    · split
      · exact ih _ _ h
      · rename_i e d whole rest _
        split
        · exact ih _ _ h
        · rename_i t _
          have hw := State.writeTo_wf h (Agent.outside (numCores + 1) n) p e.addr 0 t d whole
          split <;> (simp only [*, MRes.Wf] at hw; exact ih _ _ hw)

theorem execUePacketReceive_wf (h : s.memWf = true) (c k) : ResWf (execUePacketReceive c k s) := by
  unfold execUePacketReceive
  dsimp only
  split
  · exact h
  · split
    · simp only [ResWf, State.ueAck_wf, h]
    · split
      · exact h
      · split
        · simp only [ResWf, State.ueAck_wf, State.setUe_wf, State.addContrib_wf, h]
        · split
          · exact h
          · exact State.connError_wf h _
          · rename_i a q _
            have hp := State.placeRuns_wf c (connPart (s.conn c)) (rowGrains .G true [(a, k.data.length)]) s [] h
            split
            · rename_i e; rw [e] at hp; exact hp
            · rename_i s1 gs e
              rw [e] at hp
              have h2 := State.writePlaced_wf c (connPart (s.conn c)) k (chosen s1.tick gs 0).1
                (s1.setUe c ((s1.ue c).accepted k.seq)) gs ((State.setUe_wf ..).trans hp)
              have h3 : ∀ s2 : State, s2.memWf = true → (match q with
                  | some q => s2.setUe c ((s2.ue c).bind q k)
                  | none => s2).memWf = true := by
                intro s2 h2
                split
                · rw [State.setUe_wf]; exact h2
                · exact h2
              have h4 := h3 _ h2
              split
              · split <;> simp only [ResWf, State.ueAck_wf, State.setUe_wf] <;> exact h4
              · exact h4

theorem execUeAckReceive_wf (h : s.memWf = true) (c n b) : ResWf (execUeAckReceive c n b s) := by
  unfold execUeAckReceive
  split
  · exact h
  · simp only [ResWf, State.setUe_wf, h]

theorem State.resend_wf (c) (l : List Nat) : ∀ s : State, s.memWf = true → (s.resend c l).memWf = true := by
  induction l with
  | nil => intro s h; exact h
  | cons q l ih =>
    intro s h
    simp only [State.resend]
    split
    · exact h
    · split
      · exact ih _ h
      · split
        · exact State.connError_wf h _
        · exact ih _ ((State.wf_congr rfl rfl rfl).trans h)

theorem State.resendFrom_wf (h : s.memWf = true) (c n) : (s.resendFrom c n).memWf = true := State.resend_wf _ _ _ h

theorem execUeReorderTimeout_wf (h : s.memWf = true) (c n) : ResWf (execUeReorderTimeout c n s) := by
  unfold execUeReorderTimeout
  dsimp only
  split
  · exact State.resendFrom_wf (by rw [State.setUe_wf]; exact h) ..
  · exact h

theorem execUeRto_wf (h : s.memWf = true) (c n) : ResWf (execUeRto c n s) := by
  unfold execUeRto
  split
  · exact State.resendFrom_wf h ..
  · exact h

/-! ### Management -/

@[simp] theorem State.ras_wf (m) : (s.ras m).memWf = s.memWf := by unfold State.ras; exact State.orReg_wf ..
@[simp] theorem State.setPhase_wf (n) : (s.setPhase n).memWf = s.memWf := by unfold State.setPhase; exact State.setRegF_wf ..
@[simp] theorem State.askReplace_wf : s.askReplace.memWf = s.memWf := by
  unfold State.askReplace; rw [State.ras_wf, State.setRegF_wf]
@[simp] theorem State.replaceCheck_wf : s.replaceCheck.memWf = s.memWf := by
  unfold State.replaceCheck; split
  · exact State.askReplace_wf
  · rfl

theorem State.mgmt_wf (h : s.memWf = true) (m) : ({ s with mgmt := m } : State).memWf = true :=
  (State.wf_congr rfl rfl rfl).trans h

theorem State.bootRom_wf (h : s.memWf = true) : s.bootRom.memWf = true := by
  unfold State.bootRom
  split
  · exact State.mgmt_wf (by rw [State.setRegF_wf, State.setPhase_wf]; exact h) _
  · exact State.mgmt_wf (by rw [State.setRegF_wf, State.setPhase_wf]; exact h) _

theorem State.powerGood_wf (h : s.memWf = true) : s.powerGood.memWf = true := by
  unfold State.powerGood
  rw [State.memWf_mk, State.wf_mem h, State.wf_hostMem h]
  rfl

theorem execColdReset_wf (h : s.memWf = true) : ResWf (execColdReset s) := by
  unfold execColdReset
  dsimp only [ResWf]
  split
  · exact State.bootRom_wf h
  · split
    · rw [State.replaceCheck_wf]
      exact (State.wf_congr rfl rfl rfl).trans ((State.setPhase_wf 2).trans h)
    · exact State.powerGood_wf h
  · exact (State.wf_congr rfl rfl rfl).trans ((State.setPhase_wf 3).trans h)
  · exact State.mgmt_wf ((State.setPhase_wf 4).trans h) _
  · exact (State.wf_congr rfl rfl rfl).trans ((State.setPhase_wf 5).trans h)
  · exact State.powerGood_wf h

theorem execFirmwareUpload_wf (h : s.memWf = true) (m) : ResWf (execFirmwareUpload m s) := by
  unfold execFirmwareUpload
  dsimp only [ResWf]
  (repeat' split)
  · exact State.mgmt_wf h _
  · exact State.mgmt_wf (by rw [State.setRegF_wf, State.setRegF_wf]; exact h) _
  · exact State.mgmt_wf (by rw [State.setRegF_wf, State.setRegF_wf]; exact h) _
  · exact h

theorem execFirmwareCommit_wf (h : s.memWf = true) : ResWf (execFirmwareCommit s) := by
  unfold execFirmwareCommit
  refine State.bar_wf h ?_
  split
  · exact h
  · exact State.mgmt_wf h _

theorem execWatchdogKick_wf (h : s.memWf = true) : ResWf (execWatchdogKick s) := State.bar_wf h (State.mgmt_wf h _)

theorem execWatchdogExpiry_wf (h : s.memWf = true) : ResWf (execWatchdogExpiry s) := by
  have hm := execMpReset_wf h
  unfold execWatchdogExpiry
  split
  · exact h
  · split
    · rename_i e
      rw [e] at hm
      exact State.mgmt_wf ((State.ras_wf _).trans hm) _
    · exact hm

theorem State.answer_wf (h : s.memWf = true) (f x r ok c st) : (s.answer f x r ok c st).memWf = true := by
  unfold State.answer
  (repeat' split) <;> first | exact h | exact (State.wf_congr rfl rfl rfl).trans h

theorem execGetVersion_wf (h : s.memWf = true) (f x) : ResWf (execGetVersion f x s) := State.answer_wf h ..
theorem execGetCapabilities_wf (h : s.memWf = true) (f x) : ResWf (execGetCapabilities f x s) := State.answer_wf h ..
theorem execNegotiateAlgorithms_wf (h : s.memWf = true) (f x) : ResWf (execNegotiateAlgorithms f x s) := State.answer_wf h ..
theorem execGetDigests_wf (h : s.memWf = true) (f x) : ResWf (execGetDigests f x s) := State.answer_wf h ..
theorem execGetCertificate_wf (h : s.memWf = true) (f x) : ResWf (execGetCertificate f x s) := State.answer_wf h ..
theorem execChallenge_wf (h : s.memWf = true) (f x) : ResWf (execChallenge f x s) := State.answer_wf h ..
theorem execGetMeasurements_wf (h : s.memWf = true) (f x) : ResWf (execGetMeasurements f x s) := State.answer_wf h ..
theorem execKeyExchange_wf (h : s.memWf = true) (f x) : ResWf (execKeyExchange f x s) := State.answer_wf h ..

theorem execEccCorrected_wf (h : s.memWf = true) : ResWf (execEccCorrected s) := by
  unfold execEccCorrected
  extract_lets ts mx sure may s1
  have h1 : s1.memWf = true := State.mgmt_wf ((State.setReg_wf ..).trans h) _
  clear_value s1 sure may
  dsimp only [ResWf]
  split
  · rw [State.askReplace_wf]; exact h1
  · exact h1

theorem State.loseTile_wf (h : s.memWf = true) (t) : (s.loseTile t).memWf = true := by
  unfold State.loseTile
  extract_lets js
  clear_value js
  exact foldl_wf (fun _ j hs => State.failJob_wf hs ..) _ (by rw [State.ras_wf]; exact State.dropTile_wf h _)

theorem State.replay_wf (h : s.memWf = true) (v t x) : (s.replay v t x).memWf = true := by
  have h1 := State.clearAllMarks_wf v (State.dropCommands_wf h v)
  unfold State.replay
  generalize (s.dropCommands v).clearAllMarks v = s1 at h1 ⊢
  dsimp only
  refine (State.wf_congr rfl rfl rfl).trans ((State.beginTask_wf ..).trans ?_)
  simp only [State.setNode_wf, State.note_wf, State.leaveReqs_wf, h1]

theorem State.retireCore_wf (h : s.memWf = true) (v) : (s.retireCore v).memWf = true := by
  have tail : ∀ s3 : State, s3.memWf = true → (match (motive := Option Task → State) (s3.core v).task with
      | none => s3
      | some t =>
        match (motive := Option Node → State) s3.nodeAt t.node with
        | none => (s3.dropCommands v).finishTask v
        | some x =>
          if s3.replays v t x then s3.replay v t x
          else ((s3.dropCommands v).failJob t.part x.job 14 t.node).finishTask v).memWf = true := by
    intro s3 h3
    split
    · exact h3
    · split
      · exact State.finishTask_wf (State.dropCommands_wf h3 _) _
      · split
        · exact State.replay_wf h3 ..
        · exact State.finishTask_wf (State.failJob_wf (State.dropCommands_wf h3 _) ..) _
  unfold State.retireCore
  refine tail _ ?_
  rw [State.replaceCheck_wf]
  have h1 : ∀ m, ({ s.ras 1 with mgmt := m } : State).memWf = true := State.mgmt_wf ((State.ras_wf _).trans h)
  dsimp only
  split
  · rw [State.ras_wf]; exact h1 _
  · exact State.mgmt_wf (h1 _) _

theorem State.retireSlice_wf (h : s.memWf = true) (c) : (s.retireSlice c).memWf = true := by
  unfold State.retireSlice
  rw [State.replaceCheck_wf]
  have h1 : ∀ s : State, s.memWf = true → ∀ m, ({ s with mgmt := m } : State).memWf = true := fun _ hs => State.mgmt_wf hs
  dsimp only
  split
  · rw [State.ras_wf]; exact h1 _ h _
  · exact h1 _ (foldl_wf (fun _ t hs => State.bypassed_wf hs t) _ h) _

theorem execUncorrectableError_wf (h : s.memWf = true) (u) : ResWf (execUncorrectableError u s) := by
  unfold execUncorrectableError
  dsimp only [ResWf]
  split
  · split
    · exact h
    · exact (State.wf_congr rfl rfl rfl).trans h
  · split
    · split
      · exact h
      · rw [State.fillFails_wf]; exact State.dropTile_wf h _
    · exact h
  · split
    · exact State.loseTile_wf h _
    · exact h
  · split
    · exact State.retireCore_wf h _
    · exact h
  · split
    · exact State.retireSlice_wf h _
    · exact h

/-! ### Register writes -/

theorem ResWf.next {t : State} (h : t.memWf = true) : ResWf (.next t) := h

@[simp] theorem State.badW_wf (o) : (s.badW o).memWf = s.memWf := by
  unfold State.badW; (repeat' split) <;> first | exact State.orReg_wf .. | exact State.ras_wf _

theorem State.checked_wf (h : s.memWf = true) (o ok) {t : State} (ht : t.memWf = true) : (s.checked o ok t).memWf = true := by
  unfold State.checked; split
  · exact ht
  · rw [State.badW_wf]; exact h

theorem State.plain_wf (h : s.memWf = true) (o x ok) : (s.plain o x ok).memWf = true :=
  State.checked_wf h _ _ (by rw [State.setReg_wf]; exact h)

theorem State.w1c_wf (h : s.memWf = true) (o x) : (s.w1c o x).memWf = true := (State.setReg_wf ..).trans h

theorem State.writeCfg_wf (h : s.memWf = true) (i x) : ResWf (s.writeCfg i x) := by
  unfold State.writeCfg
  dsimp only
  (repeat' split)
  · exact execQueueBind_wf h ..
  · exact (State.badW_wf _).trans h
  · exact (State.setReg_wf ..).trans h
  · exact execQueueUnbind_wf h _
  · exact State.unbind_wf h ..

theorem State.writeSch_wf (h : s.memWf = true) (o x) : ResWf (s.writeSch o x) := by
  unfold State.writeSch
  dsimp only
  (repeat' split) <;> with_reducible first
    | exact ResWf.next h
    | exact ResWf.next (State.plain_wf h ..)
    | exact ResWf.next (State.w1c_wf h ..)
    | exact ResWf.next ((State.setReg_wf ..).trans h)
    | exact State.writeCfg_wf h ..
    | exact execQueueErrClear_wf h _
    | exact execPreemptRequest_wf h _
    | exact execPreemptResume_wf h _
    | exact execArenaSlotReset_wf (State.w1c_wf h ..) _

theorem State.writeXlt_wf (h : s.memWf = true) (p o x) : ResWf (s.writeXlt p o x) := by
  unfold State.writeXlt
  dsimp only
  (repeat' split) <;> with_reducible first
    | exact ResWf.next h
    | exact ResWf.next ((State.setReg_wf ..).trans h)
    | exact ResWf.next (State.plain_wf h ..)
    | exact ResWf.next ((State.orReg_wf ..).trans h)
    | exact execTlbInvalidate_wf h ..
    | exact ResWf.next (State.checked_wf h _ _ (State.sendQueued_wf _ _ _ ((State.setReg_wf ..).trans h)))

@[simp] theorem State.badCommand_wf (p) : (s.badCommand p).memWf = s.memWf := by
  unfold State.badCommand; exact State.orReg_wf ..

theorem State.faultCmd_wf (h : s.memWf = true) (p v) : ResWf (s.faultCmd p v) := by
  unfold State.faultCmd
  (repeat' split) <;> with_reducible first
    | exact ResWf.next h
    | exact execCoreResume_wf h ..
    | exact execCoreAbandon_wf h ..
    | exact execSideLogKick_wf h ..
    | exact execFrameRewrite_wf h ..
    | exact ResWf.next ((State.badCommand_wf _).trans h)

theorem State.writeFlt_wf (h : s.memWf = true) (p o x) : ResWf (s.writeFlt p o x) := by
  unfold State.writeFlt
  dsimp only
  (repeat' split) <;> with_reducible first
    | exact ResWf.next h
    | exact ResWf.next ((State.setReg_wf ..).trans h)
    | exact ResWf.next (State.plain_wf h ..)
    | exact ResWf.next ((State.orReg_wf ..).trans h)
    | exact execFaultQueueWrite_wf h ..
    | exact State.faultCmd_wf h ..
    | exact ResWf.next (State.w1c_wf h ..)

theorem ResWf.state {r : Res} (hr : ResWf r) {t : State} (ht : t.memWf = true) :
    (match (motive := Res → State) r with | .next u => u | _ => t).memWf = true := by
  cases r with
  | next u => exact hr
  | _ => exact ht

theorem State.layoutCmd_wf (h : s.memWf = true) (v) : (s.layoutCmd v).memWf = true := by
  unfold State.layoutCmd
  extract_lets run
  have hr : ∀ b f (s : State), (∀ s : State, s.memWf = true → ResWf (f s)) → s.memWf = true → (run b f s).memWf = true := by
    intro b f s hf hs
    simp only [run]
    split
    · have := hf s hs
      split
      · rename_i e; rw [e] at this; exact this
      · exact hs
    · exact hs
  clear_value run
  exact hr _ _ _ (fun _ => execLayoutAbort_wf) (hr _ _ _ (fun _ => execLayoutApplyRequest_wf)
    (hr _ _ _ (fun _ => execLayoutPrepare_wf) h))

theorem State.staged_wf (h : s.memWf = true) (o ok) {t : State} (ht : t.memWf = true) : (s.staged o ok t).memWf = true :=
  State.checked_wf h _ _ ht

theorem State.writeLayout_wf (h : s.memWf = true) (o x) : (s.writeLayout o x).memWf = true := by
  unfold State.writeLayout
  dsimp only
  (repeat' split) <;> first
    | exact h
    | exact State.layoutCmd_wf h _
    | exact State.staged_wf h _ _ ((State.setRegByte_wf ..).trans h)
    | exact State.staged_wf h _ _ ((State.setReg_wf ..).trans h)

theorem State.leaseCmd_wf (h : s.memWf = true) (v) : ResWf (s.leaseCmd v) := by
  unfold State.leaseCmd
  dsimp only
  (repeat' split) <;> with_reducible first
    | exact ResWf.next h
    | exact execStandingLeaseGrant_wf h ..
    | exact execStandingLeaseEnd_wf h ..
    | exact execEngineRecall_wf h _
    | exact ResWf.next ((State.orReg_wf ..).trans h)

theorem State.writeLse_wf (h : s.memWf = true) (o x) : ResWf (s.writeLse o x) := by
  unfold State.writeLse
  dsimp only
  (repeat' split) <;> with_reducible first
    | exact ResWf.next h
    | exact execLseSwcapWrite_wf h _
    | exact State.leaseCmd_wf h _
    | exact ResWf.next (State.w1c_wf h ..)
    | exact ResWf.next (State.plain_wf h ..)
    | exact ResWf.next ((State.orReg_wf ..).trans h)

theorem State.writeLnk_wf (h : s.memWf = true) (o x) : (s.writeLnk o x).memWf = true := by
  unfold State.writeLnk
  dsimp only
  (repeat' split) <;> first | exact h | exact State.plain_wf h .. | exact State.w1c_wf h ..

theorem State.writeSoft_wf (h : s.memWf = true) (o x) : ResWf (s.writeSoft o x) := by
  unfold State.writeSoft
  dsimp only
  (repeat' with_reducible refine ResWf.ite (fun _ => ?_) (fun _ => ?_)) <;> with_reducible first
    | exact ResWf.next h
    | exact ResWf.next ((State.setReg_wf ..).trans h)
    | exact ResWf.next (State.plain_wf h ..)
    | exact ResWf.next (State.w1c_wf h ..)
    | exact State.writeSch_wf h ..
    | exact State.writeXlt_wf h ..
    | exact State.writeFlt_wf h ..
    | exact ResWf.next (State.writeLnk_wf h ..)
    | exact State.writeLse_wf h ..
    | exact execPriEnable_wf h _
    | exact execRekeyRequest_wf h _
    | exact ResWf.next ((State.setRegF_wf ..).trans h)
    | exact ResWf.next (State.clearSlips_wf h ..)

theorem State.writeMgmt_wf (h : s.memWf = true) (o x) : ResWf (s.writeMgmt o x) := by
  unfold State.writeMgmt
  dsimp only
  (repeat' split) <;> with_reducible first
    | exact ResWf.next h
    | exact execFirmwareCommit_wf h
    | exact ResWf.next ((State.badW_wf _).trans h)
    | exact execWatchdogKick_wf ((State.setReg_wf ..).trans h)
    | exact ResWf.next ((State.setReg_wf ..).trans h)
    | exact ResWf.next (State.writeLayout_wf h ..)

theorem execRegisterWrite_wf (h : s.memWf = true) (o x w) : ResWf (execRegisterWrite o x w s) := by
  unfold execRegisterWrite
  dsimp only
  (repeat' split) <;> with_reducible first
    | exact ResWf.next h
    | exact State.writeSoft_wf h ..
    | exact State.writeMgmt_wf h ..
    | exact execLsePccapWrite_wf h _
    | exact ResWf.next (State.plain_wf h ..)

/-! ### Around an instruction -/

theorem State.endSlots_wf (h : s.memWf = true) : s.endSlots.memWf = true := by
  unfold State.endSlots
  dsimp only
  refine foldl_wf (fun s e hs => ?_) _ (foldl_wf (fun s c hs => ?_) _ h)
  · rw [State.mayDoze_wf]; exact hs
  · rw [State.setEcmd_wf]; exact hs

theorem State.pass_wf (h : s.memWf = true) (n) : (s.pass n).memWf = true := by
  unfold State.pass
  dsimp only
  split
  · rw [State.memWf_mk]; simp [h]
  · exact State.endSlots_wf (by rw [State.memWf_mk]; simp [h])

theorem State.tickOn_wf (h : s.memWf = true) : s.tickOn.memWf = true := by
  have h1 : ((s.pass (Config.elapsed s.tick)).slotOn s.slot).holdsDue.memWf = true :=
    State.holdsDue_wf (State.slotOn_wf (State.pass_wf h _) _)
  unfold State.tickOn
  dsimp only
  rw [State.memWf_mk, State.wf_mem h1, State.wf_l2b h1, Memory.wf_hostWrites _ (State.wf_hostMem h)]
  rfl

end Sys2Proof.Machine
end

