-- ==== Sys2Proof/Laws/Ops.lean ====
section
/-! SUPPORT. What issuing a word does: one law per shape of effect, which proofs about an instruction cite instead of
unfolding `issue`. -/

namespace Sys2Proof.Machine

open Sys2Proof

variable {s s1 : State} {st : Stream} {i : Instr} {tk : Tok} {x : BitVec 32}

/-! ### Cores of a state -/

@[simp] theorem State.core_setCore (s : State) (v : Nat) (c : Core) : (s.setCore v c).core v = c := by
  simp [State.core, State.setCore]

@[simp] theorem State.setCore_setCore (s : State) (v : Nat) (c d : Core) : (s.setCore v c).setCore v d = s.setCore v d := by
  simp [State.setCore]

theorem State.core_setCore_ne {s : State} {v w : Nat} (c : Core) (h : s.cores.sorted = true) (hw : w ≠ v) :
    (s.setCore v c).core w = s.core w := Tab.get_put_ne c h hw

@[simp] theorem State.turn_setCore (s : State) (v : Nat) (c : Core) : (s.setCore v c).turn = s.turn := rfl
@[simp] theorem State.clock_setCore (s : State) (v : Nat) (c : Core) : (s.setCore v c).clock = s.clock := rfl
@[simp] theorem State.cur_setCore (s : State) (c : Core) : (s.setCore s.turn.core c).cur = c := by
  simp [State.cur]

@[simp] theorem State.now_setCore (s : State) (v : Nat) (c : Core) : (s.setCore v c).now = s.now := rfl

/-! ### Notes: the history alone changes -/

@[simp] theorem State.turn_note (s : State) (e : Ev) : (s.note e).turn = s.turn := by unfold State.note; split <;> rfl
@[simp] theorem State.now_note (s : State) (e : Ev) : (s.note e).now = s.now := by unfold State.note; split <;> rfl
@[simp] theorem State.cores_note (s : State) (e : Ev) : (s.note e).cores = s.cores := by unfold State.note; split <;> rfl
@[simp] theorem State.core_note (s : State) (e : Ev) (v : Nat) : (s.note e).core v = s.core v := by
  simp only [State.core, State.cores_note]
@[simp] theorem State.cur_note (s : State) (e : Ev) : (s.note e).cur = s.cur := by simp [State.cur]

/-! ### Pops -/

/-- What a pop does: nothing without one; else it takes the front of the queue and is noted. -/
theorem State.popped_cases {tk : Tok} (h : s.popped st tk = some (s1, x)) :
    (peer st tk.pop = none ∧ s1 = s ∧ x = 0) ∨
    ∃ p r, peer st tk.pop = some p ∧ s.cur.queue p st = x :: r ∧
      (s.cur.released st = true ∧ (p ≠ .C ∨ (!s.cur.srDue) = true)) ∧
      s1 = (s.setCore s.turn.core (s.cur.setQueue p st r)).note (s.popEv s.turn.core p st r.length) := by
  unfold State.popped at h
  split at h
  · rename_i e
    cases h
    exact .inl ⟨e, rfl, rfl⟩
  · rename_i p e
    split at h
    · cases h
    · rename_i y r e'
      split at h
      · rename_i hr
        cases h
        exact .inr ⟨p, r, e, e', hr, rfl⟩
      · cases h

theorem Issues.turn (h : Issues s st i tk s1 x) : s1.turn = s.turn := by
  obtain ⟨-, rfl, -⟩ | ⟨_, _, -, -, -, rfl⟩ := State.popped_cases h.pop <;> simp

theorem Issues.now (h : Issues s st i tk s1 x) : s1.now = s.now := by
  obtain ⟨-, rfl, -⟩ | ⟨_, _, -, -, -, rfl⟩ := State.popped_cases h.pop <;> simp

/-! ### Issue -/

/-- What a word that the stream may issue does, once it has popped: its effect, if it keeps the rules of R146. -/
theorem issue_of_popped (hc : s.cur.canIssue st = true) (hp : s.popped st tk = some (s1, x)) (hw : Nat)
    (f : State → BitVec 32 → Eff) :
    issue s st i tk hw f = .next (((f s1 x).checked (i.wf st)).finish s s.turn.core st hw tk.push) := by
  unfold issue
  simp only [State.cur] at hc
  rw [if_pos hc]
  obtain ⟨e, rfl, rfl⟩ | ⟨p, r, e, e', hr, rfl⟩ := State.popped_cases hp
  · simp only [e]
  · simp only [State.cur] at e' hr
    simp only [State.cur, e, e', if_pos hr]

@[simp] theorem Eff.checked_true (e : Eff) : e.checked true = e := by cases e <;> rfl

/-- A word that issues does what its effect says, from the state after the pop. -/
theorem issue_of_issues (h : Issues s st i tk s1 x) (hw : Nat) (f : State → BitVec 32 → Eff) :
    issue s st i tk hw f = .next ((f s1 x).finish s s.turn.core st hw tk.push) := by
  rw [issue_of_popped h.can h.pop, h.wf, Eff.checked_true]

theorem issue_wait (h : Issues s st i tk s1 x) {hw : Nat} {f : State → BitVec 32 → Eff} (hf : f s1 x = .wait) :
    issue s st i tk hw f = .next s := by
  rw [issue_of_issues h, hf]; rfl

theorem issue_fault (h : Issues s st i tk s1 x) {hw : Nat} {f : State → BitVec 32 → Eff} {cause : Cause} {a : Nat}
    (hf : f s1 x = .fault cause a) :
    issue s st i tk hw f = .next (s.park s.turn.core (s.cur.recOf st cause a)) := by
  rw [issue_of_issues h, hf]; rfl

theorem issue_go (h : Issues s st i tk s1 x) {hw : Nat} {f : State → BitVec 32 → Eff} {c : Core} {y : BitVec 32}
    (hf : f s1 x = .go (s1.setCore s1.turn.core c) y) :
    issue s st i tk hw f = .next (s1.moved (c.finished s.now st hw tk.push y)) := by
  rw [issue_of_issues h, hf]
  simp only [Eff.finish, ← h.turn, State.core_setCore, State.setCore_setCore, State.moved, State.withCur, Core.finished]

/-- The same, where the effect has also been noted. -/
theorem issue_go_note (h : Issues s st i tk s1 x) {hw : Nat} {f : State → BitVec 32 → Eff} {c : Core} {y : BitVec 32}
    {t : State} (ht : t.turn = s1.turn) (hf : f s1 x = .go (t.setCore t.turn.core c) y) :
    issue s st i tk hw f = .next (t.moved (c.finished s.now st hw tk.push y)) := by
  rw [issue_of_issues h, hf]
  simp only [Eff.finish, ← h.turn, ← ht, State.core_setCore, State.setCore_setCore, State.moved, State.withCur, Core.finished]

theorem issue_onCore (h : Issues s st i tk s1 x) {hw : Nat} {f : State → BitVec 32 → Eff} {g : Core → Core}
    (hf : f s1 x = onCore s1 g) :
    issue s st i tk hw f = .next (s1.moved ((g s1.cur).finished s.now st hw tk.push 0)) := issue_go h hf

theorem issue_late (h : Issues s st i tk s1 x) {hw : Nat} {f : State → BitVec 32 → Eff} {c : Core}
    (hf : f s1 x = .late (s1.setCore s1.turn.core c)) :
    issue s st i tk hw f = .next (s1.moved (c.begun s.now st hw)) := by
  rw [issue_of_issues h, hf]
  simp only [Eff.finish, ← h.turn, State.core_setCore, State.setCore_setCore, State.moved, State.withCur, Core.begun]

/-- A word that breaks R146 is an illegal-instruction fault where a good one would not wait, and pops nothing. -/
theorem issue_illegal (hc : s.cur.canIssue st = true) (hp : s.popped st tk = some (s1, x)) (hw : i.wf st = false) {n : Nat}
    {f : State → BitVec 32 → Eff} (hf : f s1 x ≠ .wait) :
    issue s st i tk n f = .next (s.park s.turn.core (s.cur.recOf st .illegal 0)) := by
  rw [issue_of_popped hc hp, hw]
  cases h : f s1 x
  · exact absurd h hf
  all_goals rfl

/-- A word that breaks R146 waits as a good one would. -/
theorem issue_illegal_wait (hc : s.cur.canIssue st = true) (hp : s.popped st tk = some (s1, x)) {n : Nat}
    {f : State → BitVec 32 → Eff} (hf : f s1 x = .wait) : issue s st i tk n f = .next s := by
  rw [issue_of_popped hc hp, hf]; rfl

/-- A stream that may not issue changes nothing. -/
theorem issue_blocked (hc : s.cur.canIssue st = false) (n : Nat) (f : State → BitVec 32 → Eff) :
    issue s st i tk n f = .next s := by
  unfold issue
  simp only [State.cur] at hc ⊢
  rw [if_neg (by simp [hc])]

/-- A word waits whose pop queue is empty, whose stream still has a release to make, or whose token waits for an `mtsr`. -/
theorem issue_empty (hp : s.popped st tk = none) (n : Nat) (f : State → BitVec 32 → Eff) :
    issue s st i tk n f = .next s := by
  unfold State.popped at hp
  unfold issue
  simp only [State.cur] at hp ⊢
  split
  · split
    · rename_i e; simp only [e] at hp; cases hp
    · rename_i p e
      split
      · rfl
      · rename_i y r e'
        split
        · rename_i hr
          simp only [e, e'] at hp
          exact absurd ((if_pos hr).symm.trans hp) (fun h => nomatch h)
        · rfl
  · rfl

/-! ### The plain forms -/

theorem cOp_does (rs : List (BitVec 5)) (f : Core → Core) (h : Issues s .C i tk s1 x) (hb : s1.cur.sBusy rs = false) :
    cOp s i tk rs f = .next (s1.moved ((f s1.cur).finished s.now .C 2 tk.push 0)) :=
  issue_onCore h (by simp [hb])

theorem cCompact_does (rs : List (BitVec 5)) (f : Core → Core) (h : Issues s .C i Tok.none s1 x)
    (hb : s1.cur.sBusy rs = false) :
    cCompact s i rs f = .next (s1.moved ((f s1.cur).finished s.now .C 1 Tok.none.push 0)) :=
  issue_onCore h (by simp [hb])

theorem lOp_does (f : Core → Core) (h : Issues s .L i tk s1 x) :
    lOp s i tk f = .next (s1.moved ((f s1.cur).finished s.now .L 2 tk.push 0)) :=
  issue_onCore h rfl

theorem vOp_does (rows : Core → List Nat) (f : Core → Core) (h : Issues s .V i tk s1 x)
    (hb : s1.cur.rowBusy (rows s1.cur) = false) :
    vOp s i tk rows f = .next (s1.moved ((f s1.cur).finished s.now .V 2 tk.push 0)) :=
  issue_onCore h (by simp [hb])

end Sys2Proof.Machine
end

