-- ==== Sys2Proof/Laws/PerInstr.lean ====
section
/-! SUPPORT. The family RoundTrip, one lemma per instruction: in every stream whose map holds the instruction, its word
decodes to it, whatever its operands (R126, R127; the tables of chapter 6). A device event has no word. -/

namespace Sys2Proof.Laws.RoundTrip

open Sys2Proof.Machine

/-- The word of an instruction decodes to it in each stream that holds it. -/
def Statement (i : Instr) : Prop := ∀ e, encode i = some e → ∀ st ∈ i.homes, e.decode st = some i


theorem wideC {i : Instr} {F T : Nat} {fs : List (Nat × Nat)} (L : List Piece) (h : encode i = some (enc 32 F T fs))
    (hh : i.homes = [.C]) (hf : Piece.falling 32 L = true) (hw : F + (T + fieldSum fs) = Piece.sum L)
    (hd : ∀ w, Piece.Read w L → decodeC w = some i) : Statement i := by
  intro e he st hs
  rw [h] at he; cases he
  rw [hh, List.mem_singleton] at hs; subst hs
  exact hd _ (Piece.read L 32 hf hw)

theorem halfC {i : Instr} {F T : Nat} {fs : List (Nat × Nat)} (L : List Piece) (h : encode i = some (enc 16 F T fs))
    (hh : i.homes = [.C]) (hf : Piece.falling 16 L = true) (hw : F + (T + fieldSum fs) = Piece.sum L)
    (hd : ∀ w, Piece.Read w L → decodeCompactC w = some i) : Statement i := by
  intro e he st hs
  rw [h] at he; cases he
  rw [hh, List.mem_singleton] at hs; subst hs
  exact hd _ (Piece.read L 16 hf hw)

theorem wideL {i : Instr} {F T : Nat} {fs : List (Nat × Nat)} (L : List Piece) (h : encode i = some (enc 32 F T fs))
    (hh : i.homes = [.L]) (hf : Piece.falling 32 L = true) (hw : F + (T + fieldSum fs) = Piece.sum L)
    (hd : ∀ w, Piece.Read w L → decodeL w = some i) : Statement i := by
  intro e he st hs
  rw [h] at he; cases he
  rw [hh, List.mem_singleton] at hs; subst hs
  exact hd _ (Piece.read L 32 hf hw)

theorem halfL {i : Instr} {F T : Nat} {fs : List (Nat × Nat)} (L : List Piece) (h : encode i = some (enc 16 F T fs))
    (hh : i.homes = [.L]) (hf : Piece.falling 16 L = true) (hw : F + (T + fieldSum fs) = Piece.sum L)
    (hd : ∀ w, Piece.Read w L → decodeCompactL w = some i) : Statement i := by
  intro e he st hs
  rw [h] at he; cases he
  rw [hh, List.mem_singleton] at hs; subst hs
  exact hd _ (Piece.read L 16 hf hw)

theorem wideM {i : Instr} {F T : Nat} {fs : List (Nat × Nat)} (L : List Piece) (h : encode i = some (enc 32 F T fs))
    (hh : i.homes = [.M]) (hf : Piece.falling 32 L = true) (hw : F + (T + fieldSum fs) = Piece.sum L)
    (hd : ∀ w, Piece.Read w L → decodeM w = some i) : Statement i := by
  intro e he st hs
  rw [h] at he; cases he
  rw [hh, List.mem_singleton] at hs; subst hs
  exact hd _ (Piece.read L 32 hf hw)

theorem halfM {i : Instr} {F T : Nat} {fs : List (Nat × Nat)} (L : List Piece) (h : encode i = some (enc 16 F T fs))
    (hh : i.homes = [.M]) (hf : Piece.falling 16 L = true) (hw : F + (T + fieldSum fs) = Piece.sum L)
    (hd : ∀ w, Piece.Read w L → decodeCompactM w = some i) : Statement i := by
  intro e he st hs
  rw [h] at he; cases he
  rw [hh, List.mem_singleton] at hs; subst hs
  exact hd _ (Piece.read L 16 hf hw)

theorem wideV {i : Instr} {F T : Nat} {fs : List (Nat × Nat)} (L : List Piece) (h : encode i = some (enc 32 F T fs))
    (hh : i.homes = [.V]) (hf : Piece.falling 32 L = true) (hw : F + (T + fieldSum fs) = Piece.sum L)
    (hd : ∀ w, Piece.Read w L → decodeV w = some i) : Statement i := by
  intro e he st hs
  rw [h] at he; cases he
  rw [hh, List.mem_singleton] at hs; subst hs
  exact hd _ (Piece.read L 32 hf hw)

theorem halfV {i : Instr} {F T : Nat} {fs : List (Nat × Nat)} (L : List Piece) (h : encode i = some (enc 16 F T fs))
    (hh : i.homes = [.V]) (hf : Piece.falling 16 L = true) (hw : F + (T + fieldSum fs) = Piece.sum L)
    (hd : ∀ w, Piece.Read w L → decodeCompactV w = some i) : Statement i := by
  intro e he st hs
  rw [h] at he; cases he
  rw [hh, List.mem_singleton] at hs; subst hs
  exact hd _ (Piece.read L 16 hf hw)

theorem wideAll {i : Instr} {F T : Nat} {fs : List (Nat × Nat)} (L : List Piece) (h : encode i = some (enc 32 F T fs))
    (hf : Piece.falling 32 L = true) (hw : F + (T + fieldSum fs) = Piece.sum L)
    (hC : ∀ w, Piece.Read w L → decodeC w = some i) (hL : ∀ w, Piece.Read w L → decodeL w = some i)
    (hM : ∀ w, Piece.Read w L → decodeM w = some i) (hV : ∀ w, Piece.Read w L → decodeV w = some i) : Statement i := by
  intro e he st _
  rw [h] at he; cases he
  have hr := Piece.read L 32 hf hw
  cases st
  · exact hC _ hr
  · exact hL _ hr
  · exact hM _ hr
  · exact hV _ hr

theorem halfAll {i : Instr} {F T : Nat} {fs : List (Nat × Nat)} (L : List Piece) (h : encode i = some (enc 16 F T fs))
    (hf : Piece.falling 16 L = true) (hw : F + (T + fieldSum fs) = Piece.sum L)
    (hC : ∀ w, Piece.Read w L → decodeCompactC w = some i) (hL : ∀ w, Piece.Read w L → decodeCompactL w = some i)
    (hM : ∀ w, Piece.Read w L → decodeCompactM w = some i) (hV : ∀ w, Piece.Read w L → decodeCompactV w = some i) : Statement i := by
  intro e he st _
  rw [h] at he; cases he
  have hr := Piece.read L 16 hf hw
  cases st
  · exact hC _ hr
  · exact hL _ hr
  · exact hM _ hr
  · exact hV _ hr

theorem event {i : Instr} (h : encode i = none) : Statement i := by
  intro e he; rw [h] at he; cases he

theorem add (tk : Tok) (d : BitVec 5) (a : BitVec 5) (b : BitVec 5) : Statement (.add tk d a b) :=
  wideC [⟨26, 6, 32⟩, ⟨24, 2, tk.pop⟩, ⟨22, 2, tk.push⟩, ⟨17, 5, 0⟩, ⟨12, 5, d⟩, ⟨7, 5, a⟩, ⟨2, 5, b⟩, ⟨0, 2, 0⟩]
    rfl rfl rfl (by simp only [Tok.enc, fieldSum, Piece.sum, BitVec.ofNat_eq_ofNat, BitVec.toNat_ofNat]; omega)
    fun _ ⟨e1, e2, e3, e4, e5, e6, e7, e8, _⟩ => by
      rw [decodeC_32 e1, decodeC32, e4, tok_of e2 e3, bits_of e5, bits_of e6, bits_of e7, e8]; rfl

theorem sub (tk : Tok) (d : BitVec 5) (a : BitVec 5) (b : BitVec 5) : Statement (.sub tk d a b) :=
  wideC [⟨26, 6, 32⟩, ⟨24, 2, tk.pop⟩, ⟨22, 2, tk.push⟩, ⟨17, 5, 1⟩, ⟨12, 5, d⟩, ⟨7, 5, a⟩, ⟨2, 5, b⟩, ⟨0, 2, 0⟩]
    rfl rfl rfl (by simp only [Tok.enc, fieldSum, Piece.sum, BitVec.ofNat_eq_ofNat, BitVec.toNat_ofNat]; omega)
    fun _ ⟨e1, e2, e3, e4, e5, e6, e7, e8, _⟩ => by
      rw [decodeC_32 e1, decodeC32, e4, tok_of e2 e3, bits_of e5, bits_of e6, bits_of e7, e8]; rfl

theorem and (tk : Tok) (d : BitVec 5) (a : BitVec 5) (b : BitVec 5) : Statement (.and tk d a b) :=
  wideC [⟨26, 6, 32⟩, ⟨24, 2, tk.pop⟩, ⟨22, 2, tk.push⟩, ⟨17, 5, 2⟩, ⟨12, 5, d⟩, ⟨7, 5, a⟩, ⟨2, 5, b⟩, ⟨0, 2, 0⟩]
    rfl rfl rfl (by simp only [Tok.enc, fieldSum, Piece.sum, BitVec.ofNat_eq_ofNat, BitVec.toNat_ofNat]; omega)
    fun _ ⟨e1, e2, e3, e4, e5, e6, e7, e8, _⟩ => by
      rw [decodeC_32 e1, decodeC32, e4, tok_of e2 e3, bits_of e5, bits_of e6, bits_of e7, e8]; rfl

theorem or (tk : Tok) (d : BitVec 5) (a : BitVec 5) (b : BitVec 5) : Statement (.or tk d a b) :=
  wideC [⟨26, 6, 32⟩, ⟨24, 2, tk.pop⟩, ⟨22, 2, tk.push⟩, ⟨17, 5, 3⟩, ⟨12, 5, d⟩, ⟨7, 5, a⟩, ⟨2, 5, b⟩, ⟨0, 2, 0⟩]
    rfl rfl rfl (by simp only [Tok.enc, fieldSum, Piece.sum, BitVec.ofNat_eq_ofNat, BitVec.toNat_ofNat]; omega)
    fun _ ⟨e1, e2, e3, e4, e5, e6, e7, e8, _⟩ => by
      rw [decodeC_32 e1, decodeC32, e4, tok_of e2 e3, bits_of e5, bits_of e6, bits_of e7, e8]; rfl

theorem xor (tk : Tok) (d : BitVec 5) (a : BitVec 5) (b : BitVec 5) : Statement (.xor tk d a b) :=
  wideC [⟨26, 6, 32⟩, ⟨24, 2, tk.pop⟩, ⟨22, 2, tk.push⟩, ⟨17, 5, 4⟩, ⟨12, 5, d⟩, ⟨7, 5, a⟩, ⟨2, 5, b⟩, ⟨0, 2, 0⟩]
    rfl rfl rfl (by simp only [Tok.enc, fieldSum, Piece.sum, BitVec.ofNat_eq_ofNat, BitVec.toNat_ofNat]; omega)
    fun _ ⟨e1, e2, e3, e4, e5, e6, e7, e8, _⟩ => by
      rw [decodeC_32 e1, decodeC32, e4, tok_of e2 e3, bits_of e5, bits_of e6, bits_of e7, e8]; rfl

theorem andn (tk : Tok) (d : BitVec 5) (a : BitVec 5) (b : BitVec 5) : Statement (.andn tk d a b) :=
  wideC [⟨26, 6, 32⟩, ⟨24, 2, tk.pop⟩, ⟨22, 2, tk.push⟩, ⟨17, 5, 5⟩, ⟨12, 5, d⟩, ⟨7, 5, a⟩, ⟨2, 5, b⟩, ⟨0, 2, 0⟩]
    rfl rfl rfl (by simp only [Tok.enc, fieldSum, Piece.sum, BitVec.ofNat_eq_ofNat, BitVec.toNat_ofNat]; omega)
    fun _ ⟨e1, e2, e3, e4, e5, e6, e7, e8, _⟩ => by
      rw [decodeC_32 e1, decodeC32, e4, tok_of e2 e3, bits_of e5, bits_of e6, bits_of e7, e8]; rfl

theorem sll (tk : Tok) (d : BitVec 5) (a : BitVec 5) (b : BitVec 5) : Statement (.sll tk d a b) :=
  wideC [⟨26, 6, 32⟩, ⟨24, 2, tk.pop⟩, ⟨22, 2, tk.push⟩, ⟨17, 5, 6⟩, ⟨12, 5, d⟩, ⟨7, 5, a⟩, ⟨2, 5, b⟩, ⟨0, 2, 0⟩]
    rfl rfl rfl (by simp only [Tok.enc, fieldSum, Piece.sum, BitVec.ofNat_eq_ofNat, BitVec.toNat_ofNat]; omega)
    fun _ ⟨e1, e2, e3, e4, e5, e6, e7, e8, _⟩ => by
      rw [decodeC_32 e1, decodeC32, e4, tok_of e2 e3, bits_of e5, bits_of e6, bits_of e7, e8]; rfl

theorem srl (tk : Tok) (d : BitVec 5) (a : BitVec 5) (b : BitVec 5) : Statement (.srl tk d a b) :=
  wideC [⟨26, 6, 32⟩, ⟨24, 2, tk.pop⟩, ⟨22, 2, tk.push⟩, ⟨17, 5, 7⟩, ⟨12, 5, d⟩, ⟨7, 5, a⟩, ⟨2, 5, b⟩, ⟨0, 2, 0⟩]
    rfl rfl rfl (by simp only [Tok.enc, fieldSum, Piece.sum, BitVec.ofNat_eq_ofNat, BitVec.toNat_ofNat]; omega)
    fun _ ⟨e1, e2, e3, e4, e5, e6, e7, e8, _⟩ => by
      rw [decodeC_32 e1, decodeC32, e4, tok_of e2 e3, bits_of e5, bits_of e6, bits_of e7, e8]; rfl

theorem sra (tk : Tok) (d : BitVec 5) (a : BitVec 5) (b : BitVec 5) : Statement (.sra tk d a b) :=
  wideC [⟨26, 6, 32⟩, ⟨24, 2, tk.pop⟩, ⟨22, 2, tk.push⟩, ⟨17, 5, 8⟩, ⟨12, 5, d⟩, ⟨7, 5, a⟩, ⟨2, 5, b⟩, ⟨0, 2, 0⟩]
    rfl rfl rfl (by simp only [Tok.enc, fieldSum, Piece.sum, BitVec.ofNat_eq_ofNat, BitVec.toNat_ofNat]; omega)
    fun _ ⟨e1, e2, e3, e4, e5, e6, e7, e8, _⟩ => by
      rw [decodeC_32 e1, decodeC32, e4, tok_of e2 e3, bits_of e5, bits_of e6, bits_of e7, e8]; rfl

theorem mul (tk : Tok) (d : BitVec 5) (a : BitVec 5) (b : BitVec 5) : Statement (.mul tk d a b) :=
  wideC [⟨26, 6, 32⟩, ⟨24, 2, tk.pop⟩, ⟨22, 2, tk.push⟩, ⟨17, 5, 9⟩, ⟨12, 5, d⟩, ⟨7, 5, a⟩, ⟨2, 5, b⟩, ⟨0, 2, 0⟩]
    rfl rfl rfl (by simp only [Tok.enc, fieldSum, Piece.sum, BitVec.ofNat_eq_ofNat, BitVec.toNat_ofNat]; omega)
    fun _ ⟨e1, e2, e3, e4, e5, e6, e7, e8, _⟩ => by
      rw [decodeC_32 e1, decodeC32, e4, tok_of e2 e3, bits_of e5, bits_of e6, bits_of e7, e8]; rfl

theorem mulh (tk : Tok) (d : BitVec 5) (a : BitVec 5) (b : BitVec 5) : Statement (.mulh tk d a b) :=
  wideC [⟨26, 6, 32⟩, ⟨24, 2, tk.pop⟩, ⟨22, 2, tk.push⟩, ⟨17, 5, 10⟩, ⟨12, 5, d⟩, ⟨7, 5, a⟩, ⟨2, 5, b⟩, ⟨0, 2, 0⟩]
    rfl rfl rfl (by simp only [Tok.enc, fieldSum, Piece.sum, BitVec.ofNat_eq_ofNat, BitVec.toNat_ofNat]; omega)
    fun _ ⟨e1, e2, e3, e4, e5, e6, e7, e8, _⟩ => by
      rw [decodeC_32 e1, decodeC32, e4, tok_of e2 e3, bits_of e5, bits_of e6, bits_of e7, e8]; rfl

theorem mulhu (tk : Tok) (d : BitVec 5) (a : BitVec 5) (b : BitVec 5) : Statement (.mulhu tk d a b) :=
  wideC [⟨26, 6, 32⟩, ⟨24, 2, tk.pop⟩, ⟨22, 2, tk.push⟩, ⟨17, 5, 11⟩, ⟨12, 5, d⟩, ⟨7, 5, a⟩, ⟨2, 5, b⟩, ⟨0, 2, 0⟩]
    rfl rfl rfl (by simp only [Tok.enc, fieldSum, Piece.sum, BitVec.ofNat_eq_ofNat, BitVec.toNat_ofNat]; omega)
    fun _ ⟨e1, e2, e3, e4, e5, e6, e7, e8, _⟩ => by
      rw [decodeC_32 e1, decodeC32, e4, tok_of e2 e3, bits_of e5, bits_of e6, bits_of e7, e8]; rfl

theorem div (tk : Tok) (d : BitVec 5) (a : BitVec 5) (b : BitVec 5) : Statement (.div tk d a b) :=
  wideC [⟨26, 6, 32⟩, ⟨24, 2, tk.pop⟩, ⟨22, 2, tk.push⟩, ⟨17, 5, 12⟩, ⟨12, 5, d⟩, ⟨7, 5, a⟩, ⟨2, 5, b⟩, ⟨0, 2, 0⟩]
    rfl rfl rfl (by simp only [Tok.enc, fieldSum, Piece.sum, BitVec.ofNat_eq_ofNat, BitVec.toNat_ofNat]; omega)
    fun _ ⟨e1, e2, e3, e4, e5, e6, e7, e8, _⟩ => by
      rw [decodeC_32 e1, decodeC32, e4, tok_of e2 e3, bits_of e5, bits_of e6, bits_of e7, e8]; rfl

theorem divu (tk : Tok) (d : BitVec 5) (a : BitVec 5) (b : BitVec 5) : Statement (.divu tk d a b) :=
  wideC [⟨26, 6, 32⟩, ⟨24, 2, tk.pop⟩, ⟨22, 2, tk.push⟩, ⟨17, 5, 13⟩, ⟨12, 5, d⟩, ⟨7, 5, a⟩, ⟨2, 5, b⟩, ⟨0, 2, 0⟩]
    rfl rfl rfl (by simp only [Tok.enc, fieldSum, Piece.sum, BitVec.ofNat_eq_ofNat, BitVec.toNat_ofNat]; omega)
    fun _ ⟨e1, e2, e3, e4, e5, e6, e7, e8, _⟩ => by
      rw [decodeC_32 e1, decodeC32, e4, tok_of e2 e3, bits_of e5, bits_of e6, bits_of e7, e8]; rfl

theorem rem (tk : Tok) (d : BitVec 5) (a : BitVec 5) (b : BitVec 5) : Statement (.rem tk d a b) :=
  wideC [⟨26, 6, 32⟩, ⟨24, 2, tk.pop⟩, ⟨22, 2, tk.push⟩, ⟨17, 5, 14⟩, ⟨12, 5, d⟩, ⟨7, 5, a⟩, ⟨2, 5, b⟩, ⟨0, 2, 0⟩]
    rfl rfl rfl (by simp only [Tok.enc, fieldSum, Piece.sum, BitVec.ofNat_eq_ofNat, BitVec.toNat_ofNat]; omega)
    fun _ ⟨e1, e2, e3, e4, e5, e6, e7, e8, _⟩ => by
      rw [decodeC_32 e1, decodeC32, e4, tok_of e2 e3, bits_of e5, bits_of e6, bits_of e7, e8]; rfl

theorem remu (tk : Tok) (d : BitVec 5) (a : BitVec 5) (b : BitVec 5) : Statement (.remu tk d a b) :=
  wideC [⟨26, 6, 32⟩, ⟨24, 2, tk.pop⟩, ⟨22, 2, tk.push⟩, ⟨17, 5, 15⟩, ⟨12, 5, d⟩, ⟨7, 5, a⟩, ⟨2, 5, b⟩, ⟨0, 2, 0⟩]
    rfl rfl rfl (by simp only [Tok.enc, fieldSum, Piece.sum, BitVec.ofNat_eq_ofNat, BitVec.toNat_ofNat]; omega)
    fun _ ⟨e1, e2, e3, e4, e5, e6, e7, e8, _⟩ => by
      rw [decodeC_32 e1, decodeC32, e4, tok_of e2 e3, bits_of e5, bits_of e6, bits_of e7, e8]; rfl

theorem min (tk : Tok) (d : BitVec 5) (a : BitVec 5) (b : BitVec 5) : Statement (.min tk d a b) :=
  wideC [⟨26, 6, 32⟩, ⟨24, 2, tk.pop⟩, ⟨22, 2, tk.push⟩, ⟨17, 5, 16⟩, ⟨12, 5, d⟩, ⟨7, 5, a⟩, ⟨2, 5, b⟩, ⟨0, 2, 0⟩]
    rfl rfl rfl (by simp only [Tok.enc, fieldSum, Piece.sum, BitVec.ofNat_eq_ofNat, BitVec.toNat_ofNat]; omega)
    fun _ ⟨e1, e2, e3, e4, e5, e6, e7, e8, _⟩ => by
      rw [decodeC_32 e1, decodeC32, e4, tok_of e2 e3, bits_of e5, bits_of e6, bits_of e7, e8]; rfl

theorem max (tk : Tok) (d : BitVec 5) (a : BitVec 5) (b : BitVec 5) : Statement (.max tk d a b) :=
  wideC [⟨26, 6, 32⟩, ⟨24, 2, tk.pop⟩, ⟨22, 2, tk.push⟩, ⟨17, 5, 17⟩, ⟨12, 5, d⟩, ⟨7, 5, a⟩, ⟨2, 5, b⟩, ⟨0, 2, 0⟩]
    rfl rfl rfl (by simp only [Tok.enc, fieldSum, Piece.sum, BitVec.ofNat_eq_ofNat, BitVec.toNat_ofNat]; omega)
    fun _ ⟨e1, e2, e3, e4, e5, e6, e7, e8, _⟩ => by
      rw [decodeC_32 e1, decodeC32, e4, tok_of e2 e3, bits_of e5, bits_of e6, bits_of e7, e8]; rfl

theorem minu (tk : Tok) (d : BitVec 5) (a : BitVec 5) (b : BitVec 5) : Statement (.minu tk d a b) :=
  wideC [⟨26, 6, 32⟩, ⟨24, 2, tk.pop⟩, ⟨22, 2, tk.push⟩, ⟨17, 5, 18⟩, ⟨12, 5, d⟩, ⟨7, 5, a⟩, ⟨2, 5, b⟩, ⟨0, 2, 0⟩]
    rfl rfl rfl (by simp only [Tok.enc, fieldSum, Piece.sum, BitVec.ofNat_eq_ofNat, BitVec.toNat_ofNat]; omega)
    fun _ ⟨e1, e2, e3, e4, e5, e6, e7, e8, _⟩ => by
      rw [decodeC_32 e1, decodeC32, e4, tok_of e2 e3, bits_of e5, bits_of e6, bits_of e7, e8]; rfl

theorem maxu (tk : Tok) (d : BitVec 5) (a : BitVec 5) (b : BitVec 5) : Statement (.maxu tk d a b) :=
  wideC [⟨26, 6, 32⟩, ⟨24, 2, tk.pop⟩, ⟨22, 2, tk.push⟩, ⟨17, 5, 19⟩, ⟨12, 5, d⟩, ⟨7, 5, a⟩, ⟨2, 5, b⟩, ⟨0, 2, 0⟩]
    rfl rfl rfl (by simp only [Tok.enc, fieldSum, Piece.sum, BitVec.ofNat_eq_ofNat, BitVec.toNat_ofNat]; omega)
    fun _ ⟨e1, e2, e3, e4, e5, e6, e7, e8, _⟩ => by
      rw [decodeC_32 e1, decodeC32, e4, tok_of e2 e3, bits_of e5, bits_of e6, bits_of e7, e8]; rfl

theorem clz (tk : Tok) (d : BitVec 5) (a : BitVec 5) : Statement (.clz tk d a) :=
  wideC [⟨26, 6, 32⟩, ⟨24, 2, tk.pop⟩, ⟨22, 2, tk.push⟩, ⟨17, 5, 20⟩, ⟨12, 5, d⟩, ⟨7, 5, a⟩, ⟨0, 7, 0⟩]
    rfl rfl rfl (by simp only [Tok.enc, fieldSum, Piece.sum, BitVec.ofNat_eq_ofNat, BitVec.toNat_ofNat]; omega)
    fun _ ⟨e1, e2, e3, e4, e5, e6, e7, _⟩ => by
      rw [decodeC_32 e1, decodeC32, e4, tok_of e2 e3, bits_of e5, bits_of e6, e7]; rfl

theorem popc (tk : Tok) (d : BitVec 5) (a : BitVec 5) : Statement (.popc tk d a) :=
  wideC [⟨26, 6, 32⟩, ⟨24, 2, tk.pop⟩, ⟨22, 2, tk.push⟩, ⟨17, 5, 21⟩, ⟨12, 5, d⟩, ⟨7, 5, a⟩, ⟨0, 7, 0⟩]
    rfl rfl rfl (by simp only [Tok.enc, fieldSum, Piece.sum, BitVec.ofNat_eq_ofNat, BitVec.toNat_ofNat]; omega)
    fun _ ⟨e1, e2, e3, e4, e5, e6, e7, _⟩ => by
      rw [decodeC_32 e1, decodeC32, e4, tok_of e2 e3, bits_of e5, bits_of e6, e7]; rfl

theorem addi (tk : Tok) (d : BitVec 5) (a : BitVec 5) (i : BitVec 12) : Statement (.addi tk d a i) :=
  wideC [⟨26, 6, 33⟩, ⟨24, 2, tk.pop⟩, ⟨22, 2, tk.push⟩, ⟨17, 5, d⟩, ⟨12, 5, a⟩, ⟨0, 12, i⟩]
    rfl rfl rfl (by simp only [Tok.enc, fieldSum, Piece.sum, BitVec.ofNat_eq_ofNat, BitVec.toNat_ofNat]; omega)
    fun _ ⟨e1, e2, e3, e4, e5, e6, _⟩ => by
      rw [decodeC_33 e1, tok_of e2 e3, bits_of e4, bits_of e5, bits_of e6]

theorem andi (tk : Tok) (d : BitVec 5) (a : BitVec 5) (i : BitVec 12) : Statement (.andi tk d a i) :=
  wideC [⟨26, 6, 34⟩, ⟨24, 2, tk.pop⟩, ⟨22, 2, tk.push⟩, ⟨17, 5, d⟩, ⟨12, 5, a⟩, ⟨0, 12, i⟩]
    rfl rfl rfl (by simp only [Tok.enc, fieldSum, Piece.sum, BitVec.ofNat_eq_ofNat, BitVec.toNat_ofNat]; omega)
    fun _ ⟨e1, e2, e3, e4, e5, e6, _⟩ => by
      rw [decodeC_34 e1, tok_of e2 e3, bits_of e4, bits_of e5, bits_of e6]

theorem ori (tk : Tok) (d : BitVec 5) (a : BitVec 5) (i : BitVec 12) : Statement (.ori tk d a i) :=
  wideC [⟨26, 6, 35⟩, ⟨24, 2, tk.pop⟩, ⟨22, 2, tk.push⟩, ⟨17, 5, d⟩, ⟨12, 5, a⟩, ⟨0, 12, i⟩]
    rfl rfl rfl (by simp only [Tok.enc, fieldSum, Piece.sum, BitVec.ofNat_eq_ofNat, BitVec.toNat_ofNat]; omega)
    fun _ ⟨e1, e2, e3, e4, e5, e6, _⟩ => by
      rw [decodeC_35 e1, tok_of e2 e3, bits_of e4, bits_of e5, bits_of e6]

theorem xori (tk : Tok) (d : BitVec 5) (a : BitVec 5) (i : BitVec 12) : Statement (.xori tk d a i) :=
  wideC [⟨26, 6, 36⟩, ⟨24, 2, tk.pop⟩, ⟨22, 2, tk.push⟩, ⟨17, 5, d⟩, ⟨12, 5, a⟩, ⟨0, 12, i⟩]
    rfl rfl rfl (by simp only [Tok.enc, fieldSum, Piece.sum, BitVec.ofNat_eq_ofNat, BitVec.toNat_ofNat]; omega)
    fun _ ⟨e1, e2, e3, e4, e5, e6, _⟩ => by
      rw [decodeC_36 e1, tok_of e2 e3, bits_of e4, bits_of e5, bits_of e6]

theorem slli (tk : Tok) (d : BitVec 5) (a : BitVec 5) (s : BitVec 6) : Statement (.slli tk d a s) :=
  wideC [⟨26, 6, 37⟩, ⟨24, 2, tk.pop⟩, ⟨22, 2, tk.push⟩, ⟨17, 5, d⟩, ⟨12, 5, a⟩, ⟨6, 6, 0⟩, ⟨0, 6, s⟩]
    rfl rfl rfl (by simp only [Tok.enc, fieldSum, Piece.sum, BitVec.ofNat_eq_ofNat, BitVec.toNat_ofNat]; omega)
    fun _ ⟨e1, e2, e3, e4, e5, e6, e7, _⟩ => by
      rw [decodeC_37 e1, decodeC37, e6, tok_of e2 e3, bits_of e4, bits_of e5, bits_of e7]; rfl

theorem srli (tk : Tok) (d : BitVec 5) (a : BitVec 5) (s : BitVec 6) : Statement (.srli tk d a s) :=
  wideC [⟨26, 6, 37⟩, ⟨24, 2, tk.pop⟩, ⟨22, 2, tk.push⟩, ⟨17, 5, d⟩, ⟨12, 5, a⟩, ⟨6, 6, 1⟩, ⟨0, 6, s⟩]
    rfl rfl rfl (by simp only [Tok.enc, fieldSum, Piece.sum, BitVec.ofNat_eq_ofNat, BitVec.toNat_ofNat]; omega)
    fun _ ⟨e1, e2, e3, e4, e5, e6, e7, _⟩ => by
      rw [decodeC_37 e1, decodeC37, e6, tok_of e2 e3, bits_of e4, bits_of e5, bits_of e7]; rfl

theorem srai (tk : Tok) (d : BitVec 5) (a : BitVec 5) (s : BitVec 6) : Statement (.srai tk d a s) :=
  wideC [⟨26, 6, 37⟩, ⟨24, 2, tk.pop⟩, ⟨22, 2, tk.push⟩, ⟨17, 5, d⟩, ⟨12, 5, a⟩, ⟨6, 6, 2⟩, ⟨0, 6, s⟩]
    rfl rfl rfl (by simp only [Tok.enc, fieldSum, Piece.sum, BitVec.ofNat_eq_ofNat, BitVec.toNat_ofNat]; omega)
    fun _ ⟨e1, e2, e3, e4, e5, e6, e7, _⟩ => by
      rw [decodeC_37 e1, decodeC37, e6, tok_of e2 e3, bits_of e4, bits_of e5, bits_of e7]; rfl

theorem li (tk : Tok) (d : BitVec 5) (i : BitVec 16) : Statement (.li tk d i) :=
  wideC [⟨26, 6, 38⟩, ⟨24, 2, tk.pop⟩, ⟨22, 2, tk.push⟩, ⟨17, 5, d⟩, ⟨16, 1, 0⟩, ⟨0, 16, i⟩]
    rfl rfl rfl (by simp only [Tok.enc, fieldSum, Piece.sum, BitVec.ofNat_eq_ofNat, BitVec.toNat_ofNat]; omega)
    fun _ ⟨e1, e2, e3, e4, e5, e6, _⟩ => by
      rw [decodeC_38 e1, decodeC38, e5, tok_of e2 e3, bits_of e4, bits_of e6]; rfl

theorem lis (tk : Tok) (d : BitVec 5) (i : BitVec 16) : Statement (.lis tk d i) :=
  wideC [⟨26, 6, 38⟩, ⟨24, 2, tk.pop⟩, ⟨22, 2, tk.push⟩, ⟨17, 5, d⟩, ⟨16, 1, 1⟩, ⟨0, 16, i⟩]
    rfl rfl rfl (by simp only [Tok.enc, fieldSum, Piece.sum, BitVec.ofNat_eq_ofNat, BitVec.toNat_ofNat]; omega)
    fun _ ⟨e1, e2, e3, e4, e5, e6, _⟩ => by
      rw [decodeC_38 e1, decodeC38, e5, tok_of e2 e3, bits_of e4, bits_of e6]; rfl

theorem cmp (tk : Tok) (q : BitVec 3) (c : BitVec 3) (a : BitVec 5) (b : BitVec 5) (k : BitVec 2) (n : BitVec 1) : Statement (.cmp tk q c a b k n) :=
  wideC [⟨26, 6, 39⟩, ⟨24, 2, tk.pop⟩, ⟨22, 2, tk.push⟩, ⟨19, 3, q⟩, ⟨16, 3, c⟩, ⟨11, 5, a⟩, ⟨6, 5, b⟩, ⟨4, 2, k⟩, ⟨3, 1, n⟩, ⟨0, 3, 0⟩]
    rfl rfl rfl (by simp only [Tok.enc, fieldSum, Piece.sum, BitVec.ofNat_eq_ofNat, BitVec.toNat_ofNat]; omega)
    fun _ ⟨e1, e2, e3, e4, e5, e6, e7, e8, e9, e10, _⟩ => by
      rw [decodeC_39 e1, tok_of e2 e3, bits_of e4, bits_of e5, bits_of e6, bits_of e7, bits_of e8, bits_of e9, e10]; rfl

theorem cmpi (tk : Tok) (q : BitVec 3) (c : BitVec 3) (a : BitVec 5) (i : BitVec 11) : Statement (.cmpi tk q c a i) :=
  wideC [⟨26, 6, 40⟩, ⟨24, 2, tk.pop⟩, ⟨22, 2, tk.push⟩, ⟨19, 3, q⟩, ⟨16, 3, c⟩, ⟨11, 5, a⟩, ⟨0, 11, i⟩]
    rfl rfl rfl (by simp only [Tok.enc, fieldSum, Piece.sum, BitVec.ofNat_eq_ofNat, BitVec.toNat_ofNat]; omega)
    fun _ ⟨e1, e2, e3, e4, e5, e6, e7, _⟩ => by
      rw [decodeC_40 e1, tok_of e2 e3, bits_of e4, bits_of e5, bits_of e6, bits_of e7]

theorem qand (tk : Tok) (d : BitVec 3) (a : BitVec 3) (b : BitVec 3) : Statement (.qand tk d a b) :=
  wideC [⟨26, 6, 41⟩, ⟨24, 2, tk.pop⟩, ⟨22, 2, tk.push⟩, ⟨19, 3, d⟩, ⟨16, 3, a⟩, ⟨13, 3, b⟩, ⟨10, 3, 0⟩, ⟨0, 10, 0⟩]
    rfl rfl rfl (by simp only [Tok.enc, fieldSum, Piece.sum, BitVec.ofNat_eq_ofNat, BitVec.toNat_ofNat]; omega)
    fun _ ⟨e1, e2, e3, e4, e5, e6, e7, e8, _⟩ => by
      rw [decodeC_41 e1, decodeC41, e7, tok_of e2 e3, bits_of e4, bits_of e5, bits_of e6, e8]; rfl

theorem qor (tk : Tok) (d : BitVec 3) (a : BitVec 3) (b : BitVec 3) : Statement (.qor tk d a b) :=
  wideC [⟨26, 6, 41⟩, ⟨24, 2, tk.pop⟩, ⟨22, 2, tk.push⟩, ⟨19, 3, d⟩, ⟨16, 3, a⟩, ⟨13, 3, b⟩, ⟨10, 3, 1⟩, ⟨0, 10, 0⟩]
    rfl rfl rfl (by simp only [Tok.enc, fieldSum, Piece.sum, BitVec.ofNat_eq_ofNat, BitVec.toNat_ofNat]; omega)
    fun _ ⟨e1, e2, e3, e4, e5, e6, e7, e8, _⟩ => by
      rw [decodeC_41 e1, decodeC41, e7, tok_of e2 e3, bits_of e4, bits_of e5, bits_of e6, e8]; rfl

theorem qxor (tk : Tok) (d : BitVec 3) (a : BitVec 3) (b : BitVec 3) : Statement (.qxor tk d a b) :=
  wideC [⟨26, 6, 41⟩, ⟨24, 2, tk.pop⟩, ⟨22, 2, tk.push⟩, ⟨19, 3, d⟩, ⟨16, 3, a⟩, ⟨13, 3, b⟩, ⟨10, 3, 2⟩, ⟨0, 10, 0⟩]
    rfl rfl rfl (by simp only [Tok.enc, fieldSum, Piece.sum, BitVec.ofNat_eq_ofNat, BitVec.toNat_ofNat]; omega)
    fun _ ⟨e1, e2, e3, e4, e5, e6, e7, e8, _⟩ => by
      rw [decodeC_41 e1, decodeC41, e7, tok_of e2 e3, bits_of e4, bits_of e5, bits_of e6, e8]; rfl

theorem qandn (tk : Tok) (d : BitVec 3) (a : BitVec 3) (b : BitVec 3) : Statement (.qandn tk d a b) :=
  wideC [⟨26, 6, 41⟩, ⟨24, 2, tk.pop⟩, ⟨22, 2, tk.push⟩, ⟨19, 3, d⟩, ⟨16, 3, a⟩, ⟨13, 3, b⟩, ⟨10, 3, 3⟩, ⟨0, 10, 0⟩]
    rfl rfl rfl (by simp only [Tok.enc, fieldSum, Piece.sum, BitVec.ofNat_eq_ofNat, BitVec.toNat_ofNat]; omega)
    fun _ ⟨e1, e2, e3, e4, e5, e6, e7, e8, _⟩ => by
      rw [decodeC_41 e1, decodeC41, e7, tok_of e2 e3, bits_of e4, bits_of e5, bits_of e6, e8]; rfl

theorem qnot (tk : Tok) (d : BitVec 3) (a : BitVec 3) : Statement (.qnot tk d a) :=
  wideC [⟨26, 6, 41⟩, ⟨24, 2, tk.pop⟩, ⟨22, 2, tk.push⟩, ⟨19, 3, d⟩, ⟨16, 3, a⟩, ⟨13, 3, 0⟩, ⟨10, 3, 4⟩, ⟨0, 10, 0⟩]
    rfl rfl rfl (by simp only [Tok.enc, fieldSum, Piece.sum, BitVec.ofNat_eq_ofNat, BitVec.toNat_ofNat]; omega)
    fun _ ⟨e1, e2, e3, e4, e5, e6, e7, e8, _⟩ => by
      rw [decodeC_41 e1, decodeC41, e7, tok_of e2 e3, bits_of e4, bits_of e5, e6, e8]; rfl

theorem qset (tk : Tok) (d : BitVec 3) : Statement (.qset tk d) :=
  wideC [⟨26, 6, 41⟩, ⟨24, 2, tk.pop⟩, ⟨22, 2, tk.push⟩, ⟨19, 3, d⟩, ⟨13, 6, 0⟩, ⟨10, 3, 5⟩, ⟨0, 10, 0⟩]
    rfl rfl rfl (by simp only [Tok.enc, fieldSum, Piece.sum, BitVec.ofNat_eq_ofNat, BitVec.toNat_ofNat]; omega)
    fun _ ⟨e1, e2, e3, e4, e5, e6, e7, _⟩ => by
      rw [decodeC_41 e1, decodeC41, e6, tok_of e2 e3, bits_of e4, e5, e7]; rfl

theorem qclr (tk : Tok) (d : BitVec 3) : Statement (.qclr tk d) :=
  wideC [⟨26, 6, 41⟩, ⟨24, 2, tk.pop⟩, ⟨22, 2, tk.push⟩, ⟨19, 3, d⟩, ⟨13, 6, 0⟩, ⟨10, 3, 6⟩, ⟨0, 10, 0⟩]
    rfl rfl rfl (by simp only [Tok.enc, fieldSum, Piece.sum, BitVec.ofNat_eq_ofNat, BitVec.toNat_ofNat]; omega)
    fun _ ⟨e1, e2, e3, e4, e5, e6, e7, _⟩ => by
      rw [decodeC_41 e1, decodeC41, e6, tok_of e2 e3, bits_of e4, e5, e7]; rfl

theorem ld (tk : Tok) (d : BitVec 5) (a : BitVec 5) (c : BitVec 4) (s : BitVec 3) (l : BitVec 2) (z : BitVec 3) : Statement (.ld tk d a c s l z) :=
  wideC [⟨26, 6, 42⟩, ⟨24, 2, tk.pop⟩, ⟨22, 2, tk.push⟩, ⟨17, 5, d⟩, ⟨12, 5, a⟩, ⟨8, 4, c⟩, ⟨5, 3, s⟩, ⟨3, 2, l⟩, ⟨0, 3, z⟩]
    rfl rfl rfl (by simp only [Tok.enc, fieldSum, Piece.sum, BitVec.ofNat_eq_ofNat, BitVec.toNat_ofNat]; omega)
    fun _ ⟨e1, e2, e3, e4, e5, e6, e7, e8, e9, _⟩ => by
      rw [decodeC_42 e1, tok_of e2 e3, bits_of e4, bits_of e5, bits_of e6, bits_of e7, bits_of e8, bits_of e9]

theorem st (tk : Tok) (d : BitVec 5) (a : BitVec 5) (c : BitVec 4) (s : BitVec 3) (l : BitVec 2) (z : BitVec 3) : Statement (.st tk d a c s l z) :=
  wideC [⟨26, 6, 43⟩, ⟨24, 2, tk.pop⟩, ⟨22, 2, tk.push⟩, ⟨17, 5, d⟩, ⟨12, 5, a⟩, ⟨8, 4, c⟩, ⟨5, 3, s⟩, ⟨3, 2, l⟩, ⟨0, 3, z⟩]
    rfl rfl rfl (by simp only [Tok.enc, fieldSum, Piece.sum, BitVec.ofNat_eq_ofNat, BitVec.toNat_ofNat]; omega)
    fun _ ⟨e1, e2, e3, e4, e5, e6, e7, e8, e9, _⟩ => by
      rw [decodeC_43 e1, tok_of e2 e3, bits_of e4, bits_of e5, bits_of e6, bits_of e7, bits_of e8, bits_of e9]

theorem ldl (tk : Tok) (d : BitVec 5) (a : BitVec 5) (c : BitVec 4) (s : BitVec 3) (e : BitVec 2) (z : BitVec 3) : Statement (.ldl tk d a c s e z) :=
  wideC [⟨26, 6, 44⟩, ⟨24, 2, tk.pop⟩, ⟨22, 2, tk.push⟩, ⟨17, 5, d⟩, ⟨12, 5, a⟩, ⟨8, 4, c⟩, ⟨5, 3, s⟩, ⟨3, 2, e⟩, ⟨0, 3, z⟩]
    rfl rfl rfl (by simp only [Tok.enc, fieldSum, Piece.sum, BitVec.ofNat_eq_ofNat, BitVec.toNat_ofNat]; omega)
    fun _ ⟨e1, e2, e3, e4, e5, e6, e7, e8, e9, _⟩ => by
      rw [decodeC_44 e1, tok_of e2 e3, bits_of e4, bits_of e5, bits_of e6, bits_of e7, bits_of e8, bits_of e9]

theorem stl (tk : Tok) (d : BitVec 5) (a : BitVec 5) (c : BitVec 4) (s : BitVec 3) (e : BitVec 2) (z : BitVec 3) : Statement (.stl tk d a c s e z) :=
  wideC [⟨26, 6, 45⟩, ⟨24, 2, tk.pop⟩, ⟨22, 2, tk.push⟩, ⟨17, 5, d⟩, ⟨12, 5, a⟩, ⟨8, 4, c⟩, ⟨5, 3, s⟩, ⟨3, 2, e⟩, ⟨0, 3, z⟩]
    rfl rfl rfl (by simp only [Tok.enc, fieldSum, Piece.sum, BitVec.ofNat_eq_ofNat, BitVec.toNat_ofNat]; omega)
    fun _ ⟨e1, e2, e3, e4, e5, e6, e7, e8, e9, _⟩ => by
      rw [decodeC_45 e1, tok_of e2 e3, bits_of e4, bits_of e5, bits_of e6, bits_of e7, bits_of e8, bits_of e9]

theorem amoG (tk : Tok) (d : BitVec 5) (a : BitVec 5) (c : BitVec 4) (s : BitVec 3) (o : BitVec 4) (z : BitVec 1) : Statement (.amoG tk d a c s o z) :=
  wideC [⟨26, 6, 46⟩, ⟨24, 2, tk.pop⟩, ⟨22, 2, tk.push⟩, ⟨17, 5, d⟩, ⟨12, 5, a⟩, ⟨8, 4, c⟩, ⟨5, 3, s⟩, ⟨1, 4, o⟩, ⟨0, 1, z⟩]
    rfl rfl rfl (by simp only [Tok.enc, fieldSum, Piece.sum, BitVec.ofNat_eq_ofNat, BitVec.toNat_ofNat]; omega)
    fun _ ⟨e1, e2, e3, e4, e5, e6, e7, e8, e9, _⟩ => by
      rw [decodeC_46 e1, tok_of e2 e3, bits_of e4, bits_of e5, bits_of e6, bits_of e7, bits_of e8, bits_of e9]

theorem amoS (tk : Tok) (d : BitVec 5) (a : BitVec 5) (c : BitVec 4) (s : BitVec 3) (o : BitVec 4) (z : BitVec 1) : Statement (.amoS tk d a c s o z) :=
  wideC [⟨26, 6, 47⟩, ⟨24, 2, tk.pop⟩, ⟨22, 2, tk.push⟩, ⟨17, 5, d⟩, ⟨12, 5, a⟩, ⟨8, 4, c⟩, ⟨5, 3, s⟩, ⟨1, 4, o⟩, ⟨0, 1, z⟩]
    rfl rfl rfl (by simp only [Tok.enc, fieldSum, Piece.sum, BitVec.ofNat_eq_ofNat, BitVec.toNat_ofNat]; omega)
    fun _ ⟨e1, e2, e3, e4, e5, e6, e7, e8, e9, _⟩ => by
      rw [decodeC_47 e1, tok_of e2 e3, bits_of e4, bits_of e5, bits_of e6, bits_of e7, bits_of e8, bits_of e9]

theorem amoSg (tk : Tok) (d : BitVec 5) (a : BitVec 5) (c : BitVec 4) (s : BitVec 3) (o : BitVec 4) (z : BitVec 1) : Statement (.amoSg tk d a c s o z) :=
  wideC [⟨26, 6, 48⟩, ⟨24, 2, tk.pop⟩, ⟨22, 2, tk.push⟩, ⟨17, 5, d⟩, ⟨12, 5, a⟩, ⟨8, 4, c⟩, ⟨5, 3, s⟩, ⟨1, 4, o⟩, ⟨0, 1, z⟩]
    rfl rfl rfl (by simp only [Tok.enc, fieldSum, Piece.sum, BitVec.ofNat_eq_ofNat, BitVec.toNat_ofNat]; omega)
    fun _ ⟨e1, e2, e3, e4, e5, e6, e7, e8, e9, _⟩ => by
      rw [decodeC_48 e1, tok_of e2 e3, bits_of e4, bits_of e5, bits_of e6, bits_of e7, bits_of e8, bits_of e9]

theorem redf (tk : Tok) (b : BitVec 5) (a : BitVec 5) (c : BitVec 4) (s : BitVec 3) (r : BitVec 3) (t : BitVec 1) : Statement (.redf tk b a c s r t) :=
  wideC [⟨26, 6, 49⟩, ⟨24, 2, tk.pop⟩, ⟨22, 2, tk.push⟩, ⟨17, 5, b⟩, ⟨12, 5, a⟩, ⟨8, 4, c⟩, ⟨5, 3, s⟩, ⟨2, 3, r⟩, ⟨1, 1, 0⟩, ⟨0, 1, t⟩]
    rfl rfl rfl (by simp only [Tok.enc, fieldSum, Piece.sum, BitVec.ofNat_eq_ofNat, BitVec.toNat_ofNat]; omega)
    fun _ ⟨e1, e2, e3, e4, e5, e6, e7, e8, e9, e10, _⟩ => by
      rw [decodeC_49 e1, tok_of e2 e3, bits_of e4, bits_of e5, bits_of e6, bits_of e7, bits_of e8, e9, bits_of e10]; rfl

theorem faddF64 (tk : Tok) (d : BitVec 5) (a : BitVec 5) (b : BitVec 5) (r : BitVec 3) (n : BitVec 1) : Statement (.faddF64 tk d a b r n) :=
  wideC [⟨26, 6, 50⟩, ⟨24, 2, tk.pop⟩, ⟨22, 2, tk.push⟩, ⟨17, 5, d⟩, ⟨12, 5, a⟩, ⟨7, 5, b⟩, ⟨4, 3, r⟩, ⟨3, 1, n⟩, ⟨0, 3, 0⟩]
    rfl rfl rfl (by simp only [Tok.enc, fieldSum, Piece.sum, BitVec.ofNat_eq_ofNat, BitVec.toNat_ofNat]; omega)
    fun _ ⟨e1, e2, e3, e4, e5, e6, e7, e8, e9, _⟩ => by
      rw [decodeC_50 e1, decodeC50, e9, tok_of e2 e3, bits_of e4, bits_of e5, bits_of e6, bits_of e7, bits_of e8]; rfl

theorem fsubF64 (tk : Tok) (d : BitVec 5) (a : BitVec 5) (b : BitVec 5) (r : BitVec 3) (n : BitVec 1) : Statement (.fsubF64 tk d a b r n) :=
  wideC [⟨26, 6, 50⟩, ⟨24, 2, tk.pop⟩, ⟨22, 2, tk.push⟩, ⟨17, 5, d⟩, ⟨12, 5, a⟩, ⟨7, 5, b⟩, ⟨4, 3, r⟩, ⟨3, 1, n⟩, ⟨0, 3, 1⟩]
    rfl rfl rfl (by simp only [Tok.enc, fieldSum, Piece.sum, BitVec.ofNat_eq_ofNat, BitVec.toNat_ofNat]; omega)
    fun _ ⟨e1, e2, e3, e4, e5, e6, e7, e8, e9, _⟩ => by
      rw [decodeC_50 e1, decodeC50, e9, tok_of e2 e3, bits_of e4, bits_of e5, bits_of e6, bits_of e7, bits_of e8]; rfl

theorem fmulF64 (tk : Tok) (d : BitVec 5) (a : BitVec 5) (b : BitVec 5) (r : BitVec 3) (n : BitVec 1) : Statement (.fmulF64 tk d a b r n) :=
  wideC [⟨26, 6, 50⟩, ⟨24, 2, tk.pop⟩, ⟨22, 2, tk.push⟩, ⟨17, 5, d⟩, ⟨12, 5, a⟩, ⟨7, 5, b⟩, ⟨4, 3, r⟩, ⟨3, 1, n⟩, ⟨0, 3, 2⟩]
    rfl rfl rfl (by simp only [Tok.enc, fieldSum, Piece.sum, BitVec.ofNat_eq_ofNat, BitVec.toNat_ofNat]; omega)
    fun _ ⟨e1, e2, e3, e4, e5, e6, e7, e8, e9, _⟩ => by
      rw [decodeC_50 e1, decodeC50, e9, tok_of e2 e3, bits_of e4, bits_of e5, bits_of e6, bits_of e7, bits_of e8]; rfl

theorem fdivF64 (tk : Tok) (d : BitVec 5) (a : BitVec 5) (b : BitVec 5) (r : BitVec 3) (n : BitVec 1) : Statement (.fdivF64 tk d a b r n) :=
  wideC [⟨26, 6, 50⟩, ⟨24, 2, tk.pop⟩, ⟨22, 2, tk.push⟩, ⟨17, 5, d⟩, ⟨12, 5, a⟩, ⟨7, 5, b⟩, ⟨4, 3, r⟩, ⟨3, 1, n⟩, ⟨0, 3, 3⟩]
    rfl rfl rfl (by simp only [Tok.enc, fieldSum, Piece.sum, BitVec.ofNat_eq_ofNat, BitVec.toNat_ofNat]; omega)
    fun _ ⟨e1, e2, e3, e4, e5, e6, e7, e8, e9, _⟩ => by
      rw [decodeC_50 e1, decodeC50, e9, tok_of e2 e3, bits_of e4, bits_of e5, bits_of e6, bits_of e7, bits_of e8]; rfl

theorem fminF64 (tk : Tok) (d : BitVec 5) (a : BitVec 5) (b : BitVec 5) (n : BitVec 1) : Statement (.fminF64 tk d a b n) :=
  wideC [⟨26, 6, 50⟩, ⟨24, 2, tk.pop⟩, ⟨22, 2, tk.push⟩, ⟨17, 5, d⟩, ⟨12, 5, a⟩, ⟨7, 5, b⟩, ⟨4, 3, 0⟩, ⟨3, 1, n⟩, ⟨0, 3, 4⟩]
    rfl rfl rfl (by simp only [Tok.enc, fieldSum, Piece.sum, BitVec.ofNat_eq_ofNat, BitVec.toNat_ofNat]; omega)
    fun _ ⟨e1, e2, e3, e4, e5, e6, e7, e8, e9, _⟩ => by
      rw [decodeC_50 e1, decodeC50, e9, tok_of e2 e3, bits_of e4, bits_of e5, bits_of e6, e7, bits_of e8]; rfl

theorem fmaxF64 (tk : Tok) (d : BitVec 5) (a : BitVec 5) (b : BitVec 5) (n : BitVec 1) : Statement (.fmaxF64 tk d a b n) :=
  wideC [⟨26, 6, 50⟩, ⟨24, 2, tk.pop⟩, ⟨22, 2, tk.push⟩, ⟨17, 5, d⟩, ⟨12, 5, a⟩, ⟨7, 5, b⟩, ⟨4, 3, 0⟩, ⟨3, 1, n⟩, ⟨0, 3, 5⟩]
    rfl rfl rfl (by simp only [Tok.enc, fieldSum, Piece.sum, BitVec.ofNat_eq_ofNat, BitVec.toNat_ofNat]; omega)
    fun _ ⟨e1, e2, e3, e4, e5, e6, e7, e8, e9, _⟩ => by
      rw [decodeC_50 e1, decodeC50, e9, tok_of e2 e3, bits_of e4, bits_of e5, bits_of e6, e7, bits_of e8]; rfl

theorem fsqrtF64 (tk : Tok) (d : BitVec 5) (a : BitVec 5) (r : BitVec 3) (n : BitVec 1) : Statement (.fsqrtF64 tk d a r n) :=
  wideC [⟨26, 6, 50⟩, ⟨24, 2, tk.pop⟩, ⟨22, 2, tk.push⟩, ⟨17, 5, d⟩, ⟨12, 5, a⟩, ⟨7, 5, 0⟩, ⟨4, 3, r⟩, ⟨3, 1, n⟩, ⟨0, 3, 6⟩]
    rfl rfl rfl (by simp only [Tok.enc, fieldSum, Piece.sum, BitVec.ofNat_eq_ofNat, BitVec.toNat_ofNat]; omega)
    fun _ ⟨e1, e2, e3, e4, e5, e6, e7, e8, e9, _⟩ => by
      rw [decodeC_50 e1, decodeC50, e9, tok_of e2 e3, bits_of e4, bits_of e5, e6, bits_of e7, bits_of e8]; rfl

theorem ffmaF64 (tk : Tok) (d : BitVec 5) (a : BitVec 5) (b : BitVec 5) (r : BitVec 3) (n : BitVec 1) : Statement (.ffmaF64 tk d a b r n) :=
  wideC [⟨26, 6, 50⟩, ⟨24, 2, tk.pop⟩, ⟨22, 2, tk.push⟩, ⟨17, 5, d⟩, ⟨12, 5, a⟩, ⟨7, 5, b⟩, ⟨4, 3, r⟩, ⟨3, 1, n⟩, ⟨0, 3, 7⟩]
    rfl rfl rfl (by simp only [Tok.enc, fieldSum, Piece.sum, BitVec.ofNat_eq_ofNat, BitVec.toNat_ofNat]; omega)
    fun _ ⟨e1, e2, e3, e4, e5, e6, e7, e8, e9, _⟩ => by
      rw [decodeC_50 e1, decodeC50, e9, tok_of e2 e3, bits_of e4, bits_of e5, bits_of e6, bits_of e7, bits_of e8]; rfl

theorem faddF32 (tk : Tok) (d : BitVec 5) (a : BitVec 5) (b : BitVec 5) (r : BitVec 3) (n : BitVec 1) : Statement (.faddF32 tk d a b r n) :=
  wideC [⟨26, 6, 51⟩, ⟨24, 2, tk.pop⟩, ⟨22, 2, tk.push⟩, ⟨17, 5, d⟩, ⟨12, 5, a⟩, ⟨7, 5, b⟩, ⟨4, 3, r⟩, ⟨3, 1, n⟩, ⟨0, 3, 0⟩]
    rfl rfl rfl (by simp only [Tok.enc, fieldSum, Piece.sum, BitVec.ofNat_eq_ofNat, BitVec.toNat_ofNat]; omega)
    fun _ ⟨e1, e2, e3, e4, e5, e6, e7, e8, e9, _⟩ => by
      rw [decodeC_51 e1, decodeC51, e9, tok_of e2 e3, bits_of e4, bits_of e5, bits_of e6, bits_of e7, bits_of e8]; rfl

theorem fsubF32 (tk : Tok) (d : BitVec 5) (a : BitVec 5) (b : BitVec 5) (r : BitVec 3) (n : BitVec 1) : Statement (.fsubF32 tk d a b r n) :=
  wideC [⟨26, 6, 51⟩, ⟨24, 2, tk.pop⟩, ⟨22, 2, tk.push⟩, ⟨17, 5, d⟩, ⟨12, 5, a⟩, ⟨7, 5, b⟩, ⟨4, 3, r⟩, ⟨3, 1, n⟩, ⟨0, 3, 1⟩]
    rfl rfl rfl (by simp only [Tok.enc, fieldSum, Piece.sum, BitVec.ofNat_eq_ofNat, BitVec.toNat_ofNat]; omega)
    fun _ ⟨e1, e2, e3, e4, e5, e6, e7, e8, e9, _⟩ => by
      rw [decodeC_51 e1, decodeC51, e9, tok_of e2 e3, bits_of e4, bits_of e5, bits_of e6, bits_of e7, bits_of e8]; rfl

theorem fmulF32 (tk : Tok) (d : BitVec 5) (a : BitVec 5) (b : BitVec 5) (r : BitVec 3) (n : BitVec 1) : Statement (.fmulF32 tk d a b r n) :=
  wideC [⟨26, 6, 51⟩, ⟨24, 2, tk.pop⟩, ⟨22, 2, tk.push⟩, ⟨17, 5, d⟩, ⟨12, 5, a⟩, ⟨7, 5, b⟩, ⟨4, 3, r⟩, ⟨3, 1, n⟩, ⟨0, 3, 2⟩]
    rfl rfl rfl (by simp only [Tok.enc, fieldSum, Piece.sum, BitVec.ofNat_eq_ofNat, BitVec.toNat_ofNat]; omega)
    fun _ ⟨e1, e2, e3, e4, e5, e6, e7, e8, e9, _⟩ => by
      rw [decodeC_51 e1, decodeC51, e9, tok_of e2 e3, bits_of e4, bits_of e5, bits_of e6, bits_of e7, bits_of e8]; rfl

theorem fdivF32 (tk : Tok) (d : BitVec 5) (a : BitVec 5) (b : BitVec 5) (r : BitVec 3) (n : BitVec 1) : Statement (.fdivF32 tk d a b r n) :=
  wideC [⟨26, 6, 51⟩, ⟨24, 2, tk.pop⟩, ⟨22, 2, tk.push⟩, ⟨17, 5, d⟩, ⟨12, 5, a⟩, ⟨7, 5, b⟩, ⟨4, 3, r⟩, ⟨3, 1, n⟩, ⟨0, 3, 3⟩]
    rfl rfl rfl (by simp only [Tok.enc, fieldSum, Piece.sum, BitVec.ofNat_eq_ofNat, BitVec.toNat_ofNat]; omega)
    fun _ ⟨e1, e2, e3, e4, e5, e6, e7, e8, e9, _⟩ => by
      rw [decodeC_51 e1, decodeC51, e9, tok_of e2 e3, bits_of e4, bits_of e5, bits_of e6, bits_of e7, bits_of e8]; rfl

theorem fminF32 (tk : Tok) (d : BitVec 5) (a : BitVec 5) (b : BitVec 5) (n : BitVec 1) : Statement (.fminF32 tk d a b n) :=
  wideC [⟨26, 6, 51⟩, ⟨24, 2, tk.pop⟩, ⟨22, 2, tk.push⟩, ⟨17, 5, d⟩, ⟨12, 5, a⟩, ⟨7, 5, b⟩, ⟨4, 3, 0⟩, ⟨3, 1, n⟩, ⟨0, 3, 4⟩]
    rfl rfl rfl (by simp only [Tok.enc, fieldSum, Piece.sum, BitVec.ofNat_eq_ofNat, BitVec.toNat_ofNat]; omega)
    fun _ ⟨e1, e2, e3, e4, e5, e6, e7, e8, e9, _⟩ => by
      rw [decodeC_51 e1, decodeC51, e9, tok_of e2 e3, bits_of e4, bits_of e5, bits_of e6, e7, bits_of e8]; rfl

theorem fmaxF32 (tk : Tok) (d : BitVec 5) (a : BitVec 5) (b : BitVec 5) (n : BitVec 1) : Statement (.fmaxF32 tk d a b n) :=
  wideC [⟨26, 6, 51⟩, ⟨24, 2, tk.pop⟩, ⟨22, 2, tk.push⟩, ⟨17, 5, d⟩, ⟨12, 5, a⟩, ⟨7, 5, b⟩, ⟨4, 3, 0⟩, ⟨3, 1, n⟩, ⟨0, 3, 5⟩]
    rfl rfl rfl (by simp only [Tok.enc, fieldSum, Piece.sum, BitVec.ofNat_eq_ofNat, BitVec.toNat_ofNat]; omega)
    fun _ ⟨e1, e2, e3, e4, e5, e6, e7, e8, e9, _⟩ => by
      rw [decodeC_51 e1, decodeC51, e9, tok_of e2 e3, bits_of e4, bits_of e5, bits_of e6, e7, bits_of e8]; rfl

theorem fsqrtF32 (tk : Tok) (d : BitVec 5) (a : BitVec 5) (r : BitVec 3) (n : BitVec 1) : Statement (.fsqrtF32 tk d a r n) :=
  wideC [⟨26, 6, 51⟩, ⟨24, 2, tk.pop⟩, ⟨22, 2, tk.push⟩, ⟨17, 5, d⟩, ⟨12, 5, a⟩, ⟨7, 5, 0⟩, ⟨4, 3, r⟩, ⟨3, 1, n⟩, ⟨0, 3, 6⟩]
    rfl rfl rfl (by simp only [Tok.enc, fieldSum, Piece.sum, BitVec.ofNat_eq_ofNat, BitVec.toNat_ofNat]; omega)
    fun _ ⟨e1, e2, e3, e4, e5, e6, e7, e8, e9, _⟩ => by
      rw [decodeC_51 e1, decodeC51, e9, tok_of e2 e3, bits_of e4, bits_of e5, e6, bits_of e7, bits_of e8]; rfl

theorem ffmaF32 (tk : Tok) (d : BitVec 5) (a : BitVec 5) (b : BitVec 5) (r : BitVec 3) (n : BitVec 1) : Statement (.ffmaF32 tk d a b r n) :=
  wideC [⟨26, 6, 51⟩, ⟨24, 2, tk.pop⟩, ⟨22, 2, tk.push⟩, ⟨17, 5, d⟩, ⟨12, 5, a⟩, ⟨7, 5, b⟩, ⟨4, 3, r⟩, ⟨3, 1, n⟩, ⟨0, 3, 7⟩]
    rfl rfl rfl (by simp only [Tok.enc, fieldSum, Piece.sum, BitVec.ofNat_eq_ofNat, BitVec.toNat_ofNat]; omega)
    fun _ ⟨e1, e2, e3, e4, e5, e6, e7, e8, e9, _⟩ => by
      rw [decodeC_51 e1, decodeC51, e9, tok_of e2 e3, bits_of e4, bits_of e5, bits_of e6, bits_of e7, bits_of e8]; rfl

theorem cvt (tk : Tok) (d : BitVec 5) (a : BitVec 5) (s : BitVec 3) (t : BitVec 3) (r : BitVec 3) (n : BitVec 1) (u : BitVec 1) : Statement (.cvt tk d a s t r n u) :=
  wideC [⟨26, 6, 52⟩, ⟨24, 2, tk.pop⟩, ⟨22, 2, tk.push⟩, ⟨17, 5, d⟩, ⟨12, 5, a⟩, ⟨9, 3, s⟩, ⟨6, 3, t⟩, ⟨3, 3, r⟩, ⟨2, 1, n⟩, ⟨1, 1, u⟩, ⟨0, 1, 0⟩]
    rfl rfl rfl (by simp only [Tok.enc, fieldSum, Piece.sum, BitVec.ofNat_eq_ofNat, BitVec.toNat_ofNat]; omega)
    fun _ ⟨e1, e2, e3, e4, e5, e6, e7, e8, e9, e10, e11, _⟩ => by
      rw [decodeC_52 e1, tok_of e2 e3, bits_of e4, bits_of e5, bits_of e6, bits_of e7, bits_of e8, bits_of e9, bits_of e10, e11]; rfl

theorem bq (tk : Tok) (q : BitVec 3) (o : BitVec 18) : Statement (.bq tk q o) :=
  wideC [⟨26, 6, 53⟩, ⟨24, 2, tk.pop⟩, ⟨22, 2, tk.push⟩, ⟨19, 3, q⟩, ⟨18, 1, 0⟩, ⟨0, 18, o⟩]
    rfl rfl rfl (by simp only [Tok.enc, fieldSum, Piece.sum, BitVec.ofNat_eq_ofNat, BitVec.toNat_ofNat]; omega)
    fun _ ⟨e1, e2, e3, e4, e5, e6, _⟩ => by
      rw [decodeC_53 e1, decodeC53, e5, tok_of e2 e3, bits_of e4, bits_of e6]; rfl

theorem bnq (tk : Tok) (q : BitVec 3) (o : BitVec 18) : Statement (.bnq tk q o) :=
  wideC [⟨26, 6, 53⟩, ⟨24, 2, tk.pop⟩, ⟨22, 2, tk.push⟩, ⟨19, 3, q⟩, ⟨18, 1, 1⟩, ⟨0, 18, o⟩]
    rfl rfl rfl (by simp only [Tok.enc, fieldSum, Piece.sum, BitVec.ofNat_eq_ofNat, BitVec.toNat_ofNat]; omega)
    fun _ ⟨e1, e2, e3, e4, e5, e6, _⟩ => by
      rw [decodeC_53 e1, decodeC53, e5, tok_of e2 e3, bits_of e4, bits_of e6]; rfl

theorem j (tk : Tok) (o : BitVec 21) : Statement (.j tk o) :=
  wideC [⟨26, 6, 54⟩, ⟨24, 2, tk.pop⟩, ⟨22, 2, tk.push⟩, ⟨21, 1, 0⟩, ⟨0, 21, o⟩]
    rfl rfl rfl (by simp only [Tok.enc, fieldSum, Piece.sum, BitVec.ofNat_eq_ofNat, BitVec.toNat_ofNat]; omega)
    fun _ ⟨e1, e2, e3, e4, e5, _⟩ => by
      rw [decodeC_54 e1, decodeC54, e4, tok_of e2 e3, bits_of e5]; rfl

theorem call (tk : Tok) (o : BitVec 21) : Statement (.call tk o) :=
  wideC [⟨26, 6, 54⟩, ⟨24, 2, tk.pop⟩, ⟨22, 2, tk.push⟩, ⟨21, 1, 1⟩, ⟨0, 21, o⟩]
    rfl rfl rfl (by simp only [Tok.enc, fieldSum, Piece.sum, BitVec.ofNat_eq_ofNat, BitVec.toNat_ofNat]; omega)
    fun _ ⟨e1, e2, e3, e4, e5, _⟩ => by
      rw [decodeC_54 e1, decodeC54, e4, tok_of e2 e3, bits_of e5]; rfl

theorem jmpr (tk : Tok) (a : BitVec 5) : Statement (.jmpr tk a) :=
  wideC [⟨26, 6, 55⟩, ⟨24, 2, tk.pop⟩, ⟨22, 2, tk.push⟩, ⟨17, 5, 0⟩, ⟨12, 5, 0⟩, ⟨7, 5, a⟩, ⟨0, 7, 0⟩]
    rfl rfl rfl (by simp only [Tok.enc, fieldSum, Piece.sum, BitVec.ofNat_eq_ofNat, BitVec.toNat_ofNat]; omega)
    fun _ ⟨e1, e2, e3, e4, e5, e6, e7, _⟩ => by
      rw [decodeC_55 e1, decodeC55, e4, tok_of e2 e3, e5, bits_of e6, e7]; rfl

theorem callr (tk : Tok) (a : BitVec 5) : Statement (.callr tk a) :=
  wideC [⟨26, 6, 55⟩, ⟨24, 2, tk.pop⟩, ⟨22, 2, tk.push⟩, ⟨17, 5, 1⟩, ⟨12, 5, 0⟩, ⟨7, 5, a⟩, ⟨0, 7, 0⟩]
    rfl rfl rfl (by simp only [Tok.enc, fieldSum, Piece.sum, BitVec.ofNat_eq_ofNat, BitVec.toNat_ofNat]; omega)
    fun _ ⟨e1, e2, e3, e4, e5, e6, e7, _⟩ => by
      rw [decodeC_55 e1, decodeC55, e4, tok_of e2 e3, e5, bits_of e6, e7]; rfl

theorem ret (tk : Tok) : Statement (.ret tk) :=
  wideC [⟨26, 6, 55⟩, ⟨24, 2, tk.pop⟩, ⟨22, 2, tk.push⟩, ⟨17, 5, 2⟩, ⟨0, 17, 0⟩]
    rfl rfl rfl (by simp only [Tok.enc, fieldSum, Piece.sum, BitVec.ofNat_eq_ofNat, BitVec.toNat_ofNat]; omega)
    fun _ ⟨e1, e2, e3, e4, e5, _⟩ => by
      rw [decodeC_55 e1, decodeC55, e4, tok_of e2 e3, e5]; rfl

theorem ifence (tk : Tok) : Statement (.ifence tk) :=
  wideC [⟨26, 6, 55⟩, ⟨24, 2, tk.pop⟩, ⟨22, 2, tk.push⟩, ⟨17, 5, 3⟩, ⟨0, 17, 0⟩]
    rfl rfl rfl (by simp only [Tok.enc, fieldSum, Piece.sum, BitVec.ofNat_eq_ofNat, BitVec.toNat_ofNat]; omega)
    fun _ ⟨e1, e2, e3, e4, e5, _⟩ => by
      rw [decodeC_55 e1, decodeC55, e4, tok_of e2 e3, e5]; rfl

theorem fence (tk : Tok) (m : BitVec 16) (s : BitVec 3) : Statement (.fence tk m s) :=
  wideC [⟨26, 6, 56⟩, ⟨24, 2, tk.pop⟩, ⟨22, 2, tk.push⟩, ⟨6, 16, m⟩, ⟨3, 3, s⟩, ⟨0, 3, 0⟩]
    rfl rfl rfl (by simp only [Tok.enc, fieldSum, Piece.sum, BitVec.ofNat_eq_ofNat, BitVec.toNat_ofNat]; omega)
    fun _ ⟨e1, e2, e3, e4, e5, e6, _⟩ => by
      rw [decodeC_56 e1, tok_of e2 e3, bits_of e4, bits_of e5, e6]; rfl

theorem waitw (tk : Tok) (b : BitVec 5) (a : BitVec 5) (k : BitVec 4) (s : BitVec 3) (c : BitVec 3) : Statement (.waitw tk b a k s c) :=
  wideC [⟨26, 6, 57⟩, ⟨24, 2, tk.pop⟩, ⟨22, 2, tk.push⟩, ⟨17, 5, b⟩, ⟨12, 5, a⟩, ⟨8, 4, k⟩, ⟨5, 3, s⟩, ⟨2, 3, c⟩, ⟨0, 2, 0⟩]
    rfl rfl rfl (by simp only [Tok.enc, fieldSum, Piece.sum, BitVec.ofNat_eq_ofNat, BitVec.toNat_ofNat]; omega)
    fun _ ⟨e1, e2, e3, e4, e5, e6, e7, e8, e9, _⟩ => by
      rw [decodeC_57 e1, tok_of e2 e3, bits_of e4, bits_of e5, bits_of e6, bits_of e7, bits_of e8, e9]; rfl

theorem exit (p : BitVec 2) (a : BitVec 5) (n : BitVec 3) : Statement (.exit p a n) :=
  wideC [⟨26, 6, 58⟩, ⟨24, 2, p⟩, ⟨22, 2, 0⟩, ⟨19, 3, 0⟩, ⟨14, 5, a⟩, ⟨11, 3, n⟩, ⟨0, 11, 0⟩]
    rfl rfl rfl (by simp only [fieldSum, Piece.sum, BitVec.ofNat_eq_ofNat, BitVec.toNat_ofNat]; omega)
    fun _ ⟨e1, e2, e3, e4, e5, e6, e7, _⟩ => by
      rw [decodeC_58 e1, decodeC58, e4, bits_of e2, e3, bits_of e5, bits_of e6, e7]; rfl

theorem arenaH (tk : Tok) (d : BitVec 5) (i : BitVec 2) : Statement (.arenaH tk d i) :=
  wideC [⟨26, 6, 58⟩, ⟨24, 2, tk.pop⟩, ⟨22, 2, tk.push⟩, ⟨19, 3, 1⟩, ⟨14, 5, d⟩, ⟨12, 2, i⟩, ⟨0, 12, 0⟩]
    rfl rfl rfl (by simp only [Tok.enc, fieldSum, Piece.sum, BitVec.ofNat_eq_ofNat, BitVec.toNat_ofNat]; omega)
    fun _ ⟨e1, e2, e3, e4, e5, e6, e7, _⟩ => by
      rw [decodeC_58 e1, decodeC58, e4, tok_of e2 e3, bits_of e5, bits_of e6, e7]; rfl

theorem arenaA (tk : Tok) (d : BitVec 5) (i : BitVec 2) (a : BitVec 5) : Statement (.arenaA tk d i a) :=
  wideC [⟨26, 6, 58⟩, ⟨24, 2, tk.pop⟩, ⟨22, 2, tk.push⟩, ⟨19, 3, 2⟩, ⟨14, 5, d⟩, ⟨12, 2, i⟩, ⟨7, 5, a⟩, ⟨0, 7, 0⟩]
    rfl rfl rfl (by simp only [Tok.enc, fieldSum, Piece.sum, BitVec.ofNat_eq_ofNat, BitVec.toNat_ofNat]; omega)
    fun _ ⟨e1, e2, e3, e4, e5, e6, e7, e8, _⟩ => by
      rw [decodeC_58 e1, decodeC58, e4, tok_of e2 e3, bits_of e5, bits_of e6, bits_of e7, e8]; rfl

theorem engage (tk : Tok) (q : BitVec 3) (d : BitVec 5) (a : BitVec 5) (b : BitVec 5) : Statement (.engage tk q d a b) :=
  wideC [⟨26, 6, 59⟩, ⟨24, 2, tk.pop⟩, ⟨22, 2, tk.push⟩, ⟨19, 3, q⟩, ⟨14, 5, d⟩, ⟨9, 5, a⟩, ⟨4, 5, b⟩, ⟨2, 2, 0⟩, ⟨0, 2, 0⟩]
    rfl rfl rfl (by simp only [Tok.enc, fieldSum, Piece.sum, BitVec.ofNat_eq_ofNat, BitVec.toNat_ofNat]; omega)
    fun _ ⟨e1, e2, e3, e4, e5, e6, e7, e8, e9, _⟩ => by
      rw [decodeC_59 e1, decodeC59, e8, tok_of e2 e3, bits_of e4, bits_of e5, bits_of e6, bits_of e7, e9]; rfl

theorem lease (tk : Tok) (q : BitVec 3) (d : BitVec 5) (a : BitVec 5) : Statement (.lease tk q d a) :=
  wideC [⟨26, 6, 59⟩, ⟨24, 2, tk.pop⟩, ⟨22, 2, tk.push⟩, ⟨19, 3, q⟩, ⟨14, 5, d⟩, ⟨9, 5, a⟩, ⟨4, 5, 0⟩, ⟨2, 2, 1⟩, ⟨0, 2, 0⟩]
    rfl rfl rfl (by simp only [Tok.enc, fieldSum, Piece.sum, BitVec.ofNat_eq_ofNat, BitVec.toNat_ofNat]; omega)
    fun _ ⟨e1, e2, e3, e4, e5, e6, e7, e8, e9, _⟩ => by
      rw [decodeC_59 e1, decodeC59, e8, tok_of e2 e3, bits_of e4, bits_of e5, bits_of e6, e7, e9]; rfl

theorem unlease (tk : Tok) (q : BitVec 3) (a : BitVec 5) : Statement (.unlease tk q a) :=
  wideC [⟨26, 6, 59⟩, ⟨24, 2, tk.pop⟩, ⟨22, 2, tk.push⟩, ⟨19, 3, q⟩, ⟨14, 5, 0⟩, ⟨9, 5, a⟩, ⟨4, 5, 0⟩, ⟨2, 2, 2⟩, ⟨0, 2, 0⟩]
    rfl rfl rfl (by simp only [Tok.enc, fieldSum, Piece.sum, BitVec.ofNat_eq_ofNat, BitVec.toNat_ofNat]; omega)
    fun _ ⟨e1, e2, e3, e4, e5, e6, e7, e8, e9, _⟩ => by
      rw [decodeC_59 e1, decodeC59, e8, tok_of e2 e3, bits_of e4, e5, bits_of e6, e7, e9]; rfl

theorem mfsr (tk : Tok) (d : BitVec 5) (s : BitVec 12) : Statement (.mfsr tk d s) :=
  wideC [⟨26, 6, 60⟩, ⟨24, 2, tk.pop⟩, ⟨22, 2, tk.push⟩, ⟨20, 2, 0⟩, ⟨15, 5, d⟩, ⟨3, 12, s⟩, ⟨0, 3, 0⟩]
    rfl rfl rfl (by simp only [Tok.enc, fieldSum, Piece.sum, BitVec.ofNat_eq_ofNat, BitVec.toNat_ofNat]; omega)
    fun _ ⟨e1, e2, e3, e4, e5, e6, e7, _⟩ => by
      rw [decodeC_60 e1, decodeC60, e4, tok_of e2 e3, bits_of e5, bits_of e6, e7]; rfl

theorem mtsr (tk : Tok) (a : BitVec 5) (s : BitVec 12) : Statement (.mtsr tk a s) :=
  wideC [⟨26, 6, 60⟩, ⟨24, 2, tk.pop⟩, ⟨22, 2, tk.push⟩, ⟨20, 2, 1⟩, ⟨15, 5, a⟩, ⟨3, 12, s⟩, ⟨0, 3, 0⟩]
    rfl rfl rfl (by simp only [Tok.enc, fieldSum, Piece.sum, BitVec.ofNat_eq_ofNat, BitVec.toNat_ofNat]; omega)
    fun _ ⟨e1, e2, e3, e4, e5, e6, e7, _⟩ => by
      rw [decodeC_60 e1, decodeC60, e4, tok_of e2 e3, bits_of e5, bits_of e6, e7]; rfl

theorem trap (p : BitVec 2) (c : BitVec 16) : Statement (.trap p c) :=
  wideC [⟨26, 6, 60⟩, ⟨24, 2, p⟩, ⟨22, 2, 0⟩, ⟨20, 2, 2⟩, ⟨16, 4, 0⟩, ⟨0, 16, c⟩]
    rfl rfl rfl (by simp only [fieldSum, Piece.sum, BitVec.ofNat_eq_ofNat, BitVec.toNat_ofNat]; omega)
    fun _ ⟨e1, e2, e3, e4, e5, e6, _⟩ => by
      rw [decodeC_60 e1, decodeC60, e4, bits_of e2, e3, e5, bits_of e6]; rfl

theorem brk (p : BitVec 2) (c : BitVec 16) : Statement (.brk p c) :=
  wideC [⟨26, 6, 60⟩, ⟨24, 2, p⟩, ⟨22, 2, 0⟩, ⟨20, 2, 3⟩, ⟨16, 4, 0⟩, ⟨0, 16, c⟩]
    rfl rfl rfl (by simp only [fieldSum, Piece.sum, BitVec.ofNat_eq_ofNat, BitVec.toNat_ofNat]; omega)
    fun _ ⟨e1, e2, e3, e4, e5, e6, _⟩ => by
      rw [decodeC_60 e1, decodeC60, e4, bits_of e2, e3, e5, bits_of e6]; rfl

theorem take (tk : Tok) (r : BitVec 5) : Statement (.take tk r) :=
  wideAll [⟨26, 6, 61⟩, ⟨24, 2, tk.pop⟩, ⟨22, 2, tk.push⟩, ⟨20, 2, 0⟩, ⟨15, 5, r⟩, ⟨0, 15, 0⟩]
    rfl rfl (by simp only [Tok.enc, fieldSum, Piece.sum, BitVec.ofNat_eq_ofNat, BitVec.toNat_ofNat]; omega)
    (fun _ ⟨e1, e2, e3, e4, e5, e6, _⟩ => by
      rw [decodeC_61 e1, decodeC61, e4, tok_of e2 e3, bits_of e5, e6]; rfl)
    (fun _ ⟨e1, e2, e3, e4, e5, e6, _⟩ => by
      rw [decodeL_61 e1, decodeL61, e4, tok_of e2 e3, bits_of e5, e6]; rfl)
    (fun _ ⟨e1, e2, e3, e4, e5, e6, _⟩ => by
      rw [decodeM_61 e1, decodeM61, e4, tok_of e2 e3, bits_of e5, e6]; rfl)
    (fun _ ⟨e1, e2, e3, e4, e5, e6, _⟩ => by
      rw [decodeV_61 e1, decodeV61, e4, tok_of e2 e3, bits_of e5, e6]; rfl)

theorem give (tk : Tok) (r : BitVec 5) : Statement (.give tk r) :=
  wideAll [⟨26, 6, 61⟩, ⟨24, 2, tk.pop⟩, ⟨22, 2, tk.push⟩, ⟨20, 2, 1⟩, ⟨15, 5, r⟩, ⟨0, 15, 0⟩]
    rfl rfl (by simp only [Tok.enc, fieldSum, Piece.sum, BitVec.ofNat_eq_ofNat, BitVec.toNat_ofNat]; omega)
    (fun _ ⟨e1, e2, e3, e4, e5, e6, _⟩ => by
      rw [decodeC_61 e1, decodeC61, e4, tok_of e2 e3, bits_of e5, e6]; rfl)
    (fun _ ⟨e1, e2, e3, e4, e5, e6, _⟩ => by
      rw [decodeL_61 e1, decodeL61, e4, tok_of e2 e3, bits_of e5, e6]; rfl)
    (fun _ ⟨e1, e2, e3, e4, e5, e6, _⟩ => by
      rw [decodeM_61 e1, decodeM61, e4, tok_of e2 e3, bits_of e5, e6]; rfl)
    (fun _ ⟨e1, e2, e3, e4, e5, e6, _⟩ => by
      rw [decodeV_61 e1, decodeV61, e4, tok_of e2 e3, bits_of e5, e6]; rfl)

theorem nopToken (tk : Tok) : Statement (.nopToken tk) :=
  wideAll [⟨26, 6, 61⟩, ⟨24, 2, tk.pop⟩, ⟨22, 2, tk.push⟩, ⟨20, 2, 2⟩, ⟨0, 20, 0⟩]
    rfl rfl (by simp only [Tok.enc, fieldSum, Piece.sum, BitVec.ofNat_eq_ofNat, BitVec.toNat_ofNat]; omega)
    (fun _ ⟨e1, e2, e3, e4, e5, _⟩ => by
      rw [decodeC_61 e1, decodeC61, e4, tok_of e2 e3, e5]; rfl)
    (fun _ ⟨e1, e2, e3, e4, e5, _⟩ => by
      rw [decodeL_61 e1, decodeL61, e4, tok_of e2 e3, e5]; rfl)
    (fun _ ⟨e1, e2, e3, e4, e5, _⟩ => by
      rw [decodeM_61 e1, decodeM61, e4, tok_of e2 e3, e5]; rfl)
    (fun _ ⟨e1, e2, e3, e4, e5, _⟩ => by
      rw [decodeV_61 e1, decodeV61, e4, tok_of e2 e3, e5]; rfl)

theorem kset (tk : Tok) (k : BitVec 6) (i : BitVec 13) : Statement (.kset tk k i) :=
  wideC [⟨26, 6, 62⟩, ⟨24, 2, tk.pop⟩, ⟨22, 2, tk.push⟩, ⟨16, 6, k⟩, ⟨13, 3, 0⟩, ⟨0, 13, i⟩]
    rfl rfl rfl (by simp only [Tok.enc, fieldSum, Piece.sum, BitVec.ofNat_eq_ofNat, BitVec.toNat_ofNat]; omega)
    fun _ ⟨e1, e2, e3, e4, e5, e6, _⟩ => by
      rw [decodeC_62 e1, decodeC62, e5, tok_of e2 e3, bits_of e4, bits_of e6]; rfl

theorem kinc (tk : Tok) (k : BitVec 6) (i : BitVec 13) : Statement (.kinc tk k i) :=
  wideAll [⟨26, 6, 62⟩, ⟨24, 2, tk.pop⟩, ⟨22, 2, tk.push⟩, ⟨16, 6, k⟩, ⟨13, 3, 1⟩, ⟨0, 13, i⟩]
    rfl rfl (by simp only [Tok.enc, fieldSum, Piece.sum, BitVec.ofNat_eq_ofNat, BitVec.toNat_ofNat]; omega)
    (fun _ ⟨e1, e2, e3, e4, e5, e6, _⟩ => by
      rw [decodeC_62 e1, decodeC62, e5, tok_of e2 e3, bits_of e4, bits_of e6]; rfl)
    (fun _ ⟨e1, e2, e3, e4, e5, e6, _⟩ => by
      rw [decodeL_62 e1, decodeL62, e5, tok_of e2 e3, bits_of e4, bits_of e6]; rfl)
    (fun _ ⟨e1, e2, e3, e4, e5, e6, _⟩ => by
      rw [decodeM_62 e1, decodeM62, e5, tok_of e2 e3, bits_of e4, bits_of e6]; rfl)
    (fun _ ⟨e1, e2, e3, e4, e5, e6, _⟩ => by
      rw [decodeV_62 e1, decodeV62, e5, tok_of e2 e3, bits_of e4, bits_of e6]; rfl)

theorem kwge (tk : Tok) (k : BitVec 6) (i : BitVec 13) : Statement (.kwge tk k i) :=
  wideAll [⟨26, 6, 62⟩, ⟨24, 2, tk.pop⟩, ⟨22, 2, tk.push⟩, ⟨16, 6, k⟩, ⟨13, 3, 2⟩, ⟨0, 13, i⟩]
    rfl rfl (by simp only [Tok.enc, fieldSum, Piece.sum, BitVec.ofNat_eq_ofNat, BitVec.toNat_ofNat]; omega)
    (fun _ ⟨e1, e2, e3, e4, e5, e6, _⟩ => by
      rw [decodeC_62 e1, decodeC62, e5, tok_of e2 e3, bits_of e4, bits_of e6]; rfl)
    (fun _ ⟨e1, e2, e3, e4, e5, e6, _⟩ => by
      rw [decodeL_62 e1, decodeL62, e5, tok_of e2 e3, bits_of e4, bits_of e6]; rfl)
    (fun _ ⟨e1, e2, e3, e4, e5, e6, _⟩ => by
      rw [decodeM_62 e1, decodeM62, e5, tok_of e2 e3, bits_of e4, bits_of e6]; rfl)
    (fun _ ⟨e1, e2, e3, e4, e5, e6, _⟩ => by
      rw [decodeV_62 e1, decodeV62, e5, tok_of e2 e3, bits_of e4, bits_of e6]; rfl)

theorem kwgs (tk : Tok) (k : BitVec 6) (i : BitVec 13) : Statement (.kwgs tk k i) :=
  wideAll [⟨26, 6, 62⟩, ⟨24, 2, tk.pop⟩, ⟨22, 2, tk.push⟩, ⟨16, 6, k⟩, ⟨13, 3, 3⟩, ⟨0, 13, i⟩]
    rfl rfl (by simp only [Tok.enc, fieldSum, Piece.sum, BitVec.ofNat_eq_ofNat, BitVec.toNat_ofNat]; omega)
    (fun _ ⟨e1, e2, e3, e4, e5, e6, _⟩ => by
      rw [decodeC_62 e1, decodeC62, e5, tok_of e2 e3, bits_of e4, bits_of e6]; rfl)
    (fun _ ⟨e1, e2, e3, e4, e5, e6, _⟩ => by
      rw [decodeL_62 e1, decodeL62, e5, tok_of e2 e3, bits_of e4, bits_of e6]; rfl)
    (fun _ ⟨e1, e2, e3, e4, e5, e6, _⟩ => by
      rw [decodeM_62 e1, decodeM62, e5, tok_of e2 e3, bits_of e4, bits_of e6]; rfl)
    (fun _ ⟨e1, e2, e3, e4, e5, e6, _⟩ => by
      rw [decodeV_62 e1, decodeV62, e5, tok_of e2 e3, bits_of e4, bits_of e6]; rfl)

theorem kwlt (tk : Tok) (k : BitVec 6) (i : BitVec 13) : Statement (.kwlt tk k i) :=
  wideAll [⟨26, 6, 62⟩, ⟨24, 2, tk.pop⟩, ⟨22, 2, tk.push⟩, ⟨16, 6, k⟩, ⟨13, 3, 4⟩, ⟨0, 13, i⟩]
    rfl rfl (by simp only [Tok.enc, fieldSum, Piece.sum, BitVec.ofNat_eq_ofNat, BitVec.toNat_ofNat]; omega)
    (fun _ ⟨e1, e2, e3, e4, e5, e6, _⟩ => by
      rw [decodeC_62 e1, decodeC62, e5, tok_of e2 e3, bits_of e4, bits_of e6]; rfl)
    (fun _ ⟨e1, e2, e3, e4, e5, e6, _⟩ => by
      rw [decodeL_62 e1, decodeL62, e5, tok_of e2 e3, bits_of e4, bits_of e6]; rfl)
    (fun _ ⟨e1, e2, e3, e4, e5, e6, _⟩ => by
      rw [decodeM_62 e1, decodeM62, e5, tok_of e2 e3, bits_of e4, bits_of e6]; rfl)
    (fun _ ⟨e1, e2, e3, e4, e5, e6, _⟩ => by
      rw [decodeV_62 e1, decodeV62, e5, tok_of e2 e3, bits_of e4, bits_of e6]; rfl)

theorem kread (tk : Tok) (k : BitVec 6) (d : BitVec 5) : Statement (.kread tk k d) :=
  wideC [⟨26, 6, 62⟩, ⟨24, 2, tk.pop⟩, ⟨22, 2, tk.push⟩, ⟨16, 6, k⟩, ⟨13, 3, 5⟩, ⟨8, 5, d⟩, ⟨0, 8, 0⟩]
    rfl rfl rfl (by simp only [Tok.enc, fieldSum, Piece.sum, BitVec.ofNat_eq_ofNat, BitVec.toNat_ofNat]; omega)
    fun _ ⟨e1, e2, e3, e4, e5, e6, e7, _⟩ => by
      rw [decodeC_62 e1, decodeC62, e5, tok_of e2 e3, bits_of e4, bits_of e6, e7]; rfl

theorem kincr (tk : Tok) (k : BitVec 6) (s : BitVec 5) : Statement (.kincr tk k s) :=
  wideC [⟨26, 6, 62⟩, ⟨24, 2, tk.pop⟩, ⟨22, 2, tk.push⟩, ⟨16, 6, k⟩, ⟨13, 3, 6⟩, ⟨8, 5, s⟩, ⟨0, 8, 0⟩]
    rfl rfl rfl (by simp only [Tok.enc, fieldSum, Piece.sum, BitVec.ofNat_eq_ofNat, BitVec.toNat_ofNat]; omega)
    fun _ ⟨e1, e2, e3, e4, e5, e6, e7, _⟩ => by
      rw [decodeC_62 e1, decodeC62, e5, tok_of e2 e3, bits_of e4, bits_of e6, e7]; rfl

theorem blockHeader (l : BitVec 10) (r : BitVec 1) (s : BitVec 3) (g : BitVec 1) (n : BitVec 11) : Statement (.blockHeader l r s g n) :=
  wideAll [⟨26, 6, 63⟩, ⟨16, 10, l⟩, ⟨15, 1, r⟩, ⟨12, 3, s⟩, ⟨11, 1, g⟩, ⟨0, 11, n⟩]
    rfl rfl (by simp only [fieldSum, Piece.sum, BitVec.ofNat_eq_ofNat, BitVec.toNat_ofNat]; omega)
    (fun _ ⟨e1, e2, e3, e4, e5, e6, _⟩ => by
      rw [decodeC_63 e1, bits_of e2, bits_of e3, bits_of e4, bits_of e5, bits_of e6])
    (fun _ ⟨e1, e2, e3, e4, e5, e6, _⟩ => by
      rw [decodeL_63 e1, bits_of e2, bits_of e3, bits_of e4, bits_of e5, bits_of e6])
    (fun _ ⟨e1, e2, e3, e4, e5, e6, _⟩ => by
      rw [decodeM_63 e1, bits_of e2, bits_of e3, bits_of e4, bits_of e5, bits_of e6])
    (fun _ ⟨e1, e2, e3, e4, e5, e6, _⟩ => by
      rw [decodeV_63 e1, bits_of e2, bits_of e3, bits_of e4, bits_of e5, bits_of e6])

theorem nop : Statement (.nop) :=
  halfAll [⟨10, 6, 0⟩, ⟨0, 10, 0⟩]
    rfl rfl (by simp only [fieldSum, Piece.sum, BitVec.ofNat_eq_ofNat, BitVec.toNat_ofNat]; omega)
    (fun _ ⟨e1, e2, _⟩ => by
      rw [decodeCompactC, e1, e2]; rfl)
    (fun _ ⟨e1, e2, _⟩ => by
      rw [decodeCompactL, e1, e2]; rfl)
    (fun _ ⟨e1, e2, _⟩ => by
      rw [decodeCompactM, e1, e2]; rfl)
    (fun _ ⟨e1, e2, _⟩ => by
      rw [decodeCompactV, e1, e2]; rfl)

theorem mov (d : BitVec 5) (a : BitVec 5) : Statement (.mov d a) :=
  halfC [⟨10, 6, 1⟩, ⟨5, 5, d⟩, ⟨0, 5, a⟩]
    rfl rfl rfl (by simp only [fieldSum, Piece.sum, BitVec.ofNat_eq_ofNat, BitVec.toNat_ofNat]; omega)
    fun _ ⟨e1, e2, e3, _⟩ => by
      rw [decodeCompactC, e1, bits_of e2, bits_of e3]; rfl

theorem addc (d : BitVec 5) (i : BitVec 5) : Statement (.addc d i) :=
  halfC [⟨10, 6, 2⟩, ⟨5, 5, d⟩, ⟨0, 5, i⟩]
    rfl rfl rfl (by simp only [fieldSum, Piece.sum, BitVec.ofNat_eq_ofNat, BitVec.toNat_ofNat]; omega)
    fun _ ⟨e1, e2, e3, _⟩ => by
      rw [decodeCompactC, e1, bits_of e2, bits_of e3]; rfl

theorem lic (d : BitVec 5) (i : BitVec 5) : Statement (.lic d i) :=
  halfC [⟨10, 6, 3⟩, ⟨5, 5, d⟩, ⟨0, 5, i⟩]
    rfl rfl rfl (by simp only [fieldSum, Piece.sum, BitVec.ofNat_eq_ofNat, BitVec.toNat_ofNat]; omega)
    fun _ ⟨e1, e2, e3, _⟩ => by
      rw [decodeCompactC, e1, bits_of e2, bits_of e3]; rfl

theorem kincCompact (k : BitVec 6) (i : BitVec 4) : Statement (.kincCompact k i) :=
  halfC [⟨10, 6, 4⟩, ⟨4, 6, k⟩, ⟨0, 4, i⟩]
    rfl rfl rfl (by simp only [fieldSum, Piece.sum, BitVec.ofNat_eq_ofNat, BitVec.toNat_ofNat]; omega)
    fun _ ⟨e1, e2, e3, _⟩ => by
      rw [decodeCompactC, e1, bits_of e2, bits_of e3]; rfl

theorem cp1d (tk : Tok) (g : BitVec 2) (c : BitVec 4) (s : BitVec 3) (l : BitVec 2) : Statement (.cp1d tk g c s l) :=
  wideL [⟨26, 6, 32⟩, ⟨24, 2, tk.pop⟩, ⟨22, 2, tk.push⟩, ⟨20, 2, g⟩, ⟨16, 4, c⟩, ⟨13, 3, s⟩, ⟨11, 2, l⟩, ⟨7, 4, 0⟩, ⟨0, 7, 0⟩]
    rfl rfl rfl (by simp only [Tok.enc, fieldSum, Piece.sum, BitVec.ofNat_eq_ofNat, BitVec.toNat_ofNat]; omega)
    fun _ ⟨e1, e2, e3, e4, e5, e6, e7, e8, e9, _⟩ => by
      rw [decodeL_32 e1, decodeL32, e8, tok_of e2 e3, bits_of e4, bits_of e5, bits_of e6, bits_of e7, e9]; rfl

theorem cp2d (tk : Tok) (g : BitVec 2) (c : BitVec 4) (s : BitVec 3) (l : BitVec 2) : Statement (.cp2d tk g c s l) :=
  wideL [⟨26, 6, 32⟩, ⟨24, 2, tk.pop⟩, ⟨22, 2, tk.push⟩, ⟨20, 2, g⟩, ⟨16, 4, c⟩, ⟨13, 3, s⟩, ⟨11, 2, l⟩, ⟨7, 4, 1⟩, ⟨0, 7, 0⟩]
    rfl rfl rfl (by simp only [Tok.enc, fieldSum, Piece.sum, BitVec.ofNat_eq_ofNat, BitVec.toNat_ofNat]; omega)
    fun _ ⟨e1, e2, e3, e4, e5, e6, e7, e8, e9, _⟩ => by
      rw [decodeL_32 e1, decodeL32, e8, tok_of e2 e3, bits_of e4, bits_of e5, bits_of e6, bits_of e7, e9]; rfl

theorem cp3d (tk : Tok) (g : BitVec 2) (c : BitVec 4) (s : BitVec 3) (l : BitVec 2) : Statement (.cp3d tk g c s l) :=
  wideL [⟨26, 6, 32⟩, ⟨24, 2, tk.pop⟩, ⟨22, 2, tk.push⟩, ⟨20, 2, g⟩, ⟨16, 4, c⟩, ⟨13, 3, s⟩, ⟨11, 2, l⟩, ⟨7, 4, 2⟩, ⟨0, 7, 0⟩]
    rfl rfl rfl (by simp only [Tok.enc, fieldSum, Piece.sum, BitVec.ofNat_eq_ofNat, BitVec.toNat_ofNat]; omega)
    fun _ ⟨e1, e2, e3, e4, e5, e6, e7, e8, e9, _⟩ => by
      rw [decodeL_32 e1, decodeL32, e8, tok_of e2 e3, bits_of e4, bits_of e5, bits_of e6, bits_of e7, e9]; rfl

theorem cpw1d (tk : Tok) (g : BitVec 2) (c : BitVec 4) (s : BitVec 3) (l : BitVec 2) : Statement (.cpw1d tk g c s l) :=
  wideL [⟨26, 6, 32⟩, ⟨24, 2, tk.pop⟩, ⟨22, 2, tk.push⟩, ⟨20, 2, g⟩, ⟨16, 4, c⟩, ⟨13, 3, s⟩, ⟨11, 2, l⟩, ⟨7, 4, 3⟩, ⟨0, 7, 0⟩]
    rfl rfl rfl (by simp only [Tok.enc, fieldSum, Piece.sum, BitVec.ofNat_eq_ofNat, BitVec.toNat_ofNat]; omega)
    fun _ ⟨e1, e2, e3, e4, e5, e6, e7, e8, e9, _⟩ => by
      rw [decodeL_32 e1, decodeL32, e8, tok_of e2 e3, bits_of e4, bits_of e5, bits_of e6, bits_of e7, e9]; rfl

theorem cpw2d (tk : Tok) (g : BitVec 2) (c : BitVec 4) (s : BitVec 3) (l : BitVec 2) : Statement (.cpw2d tk g c s l) :=
  wideL [⟨26, 6, 32⟩, ⟨24, 2, tk.pop⟩, ⟨22, 2, tk.push⟩, ⟨20, 2, g⟩, ⟨16, 4, c⟩, ⟨13, 3, s⟩, ⟨11, 2, l⟩, ⟨7, 4, 4⟩, ⟨0, 7, 0⟩]
    rfl rfl rfl (by simp only [Tok.enc, fieldSum, Piece.sum, BitVec.ofNat_eq_ofNat, BitVec.toNat_ofNat]; omega)
    fun _ ⟨e1, e2, e3, e4, e5, e6, e7, e8, e9, _⟩ => by
      rw [decodeL_32 e1, decodeL32, e8, tok_of e2 e3, bits_of e4, bits_of e5, bits_of e6, bits_of e7, e9]; rfl

theorem cpw3d (tk : Tok) (g : BitVec 2) (c : BitVec 4) (s : BitVec 3) (l : BitVec 2) : Statement (.cpw3d tk g c s l) :=
  wideL [⟨26, 6, 32⟩, ⟨24, 2, tk.pop⟩, ⟨22, 2, tk.push⟩, ⟨20, 2, g⟩, ⟨16, 4, c⟩, ⟨13, 3, s⟩, ⟨11, 2, l⟩, ⟨7, 4, 5⟩, ⟨0, 7, 0⟩]
    rfl rfl rfl (by simp only [Tok.enc, fieldSum, Piece.sum, BitVec.ofNat_eq_ofNat, BitVec.toNat_ofNat]; omega)
    fun _ ⟨e1, e2, e3, e4, e5, e6, e7, e8, e9, _⟩ => by
      rw [decodeL_32 e1, decodeL32, e8, tok_of e2 e3, bits_of e4, bits_of e5, bits_of e6, bits_of e7, e9]; rfl

theorem cpl (tk : Tok) (g : BitVec 2) (c : BitVec 4) (s : BitVec 3) : Statement (.cpl tk g c s) :=
  wideL [⟨26, 6, 32⟩, ⟨24, 2, tk.pop⟩, ⟨22, 2, tk.push⟩, ⟨20, 2, g⟩, ⟨16, 4, c⟩, ⟨13, 3, s⟩, ⟨11, 2, 0⟩, ⟨7, 4, 6⟩, ⟨0, 7, 0⟩]
    rfl rfl rfl (by simp only [Tok.enc, fieldSum, Piece.sum, BitVec.ofNat_eq_ofNat, BitVec.toNat_ofNat]; omega)
    fun _ ⟨e1, e2, e3, e4, e5, e6, e7, e8, e9, _⟩ => by
      rw [decodeL_32 e1, decodeL32, e8, tok_of e2 e3, bits_of e4, bits_of e5, bits_of e6, e7, e9]; rfl

theorem cpr (tk : Tok) (g : BitVec 2) (c : BitVec 4) (s : BitVec 3) : Statement (.cpr tk g c s) :=
  wideL [⟨26, 6, 32⟩, ⟨24, 2, tk.pop⟩, ⟨22, 2, tk.push⟩, ⟨20, 2, g⟩, ⟨16, 4, c⟩, ⟨13, 3, s⟩, ⟨11, 2, 0⟩, ⟨7, 4, 7⟩, ⟨0, 7, 0⟩]
    rfl rfl rfl (by simp only [Tok.enc, fieldSum, Piece.sum, BitVec.ofNat_eq_ofNat, BitVec.toNat_ofNat]; omega)
    fun _ ⟨e1, e2, e3, e4, e5, e6, e7, e8, e9, _⟩ => by
      rw [decodeL_32 e1, decodeL32, e8, tok_of e2 e3, bits_of e4, bits_of e5, bits_of e6, e7, e9]; rfl

theorem cpm (tk : Tok) (g : BitVec 2) (c : BitVec 4) (s : BitVec 3) : Statement (.cpm tk g c s) :=
  wideL [⟨26, 6, 32⟩, ⟨24, 2, tk.pop⟩, ⟨22, 2, tk.push⟩, ⟨20, 2, g⟩, ⟨16, 4, c⟩, ⟨13, 3, s⟩, ⟨11, 2, 0⟩, ⟨7, 4, 8⟩, ⟨0, 7, 0⟩]
    rfl rfl rfl (by simp only [Tok.enc, fieldSum, Piece.sum, BitVec.ofNat_eq_ofNat, BitVec.toNat_ofNat]; omega)
    fun _ ⟨e1, e2, e3, e4, e5, e6, e7, e8, e9, _⟩ => by
      rw [decodeL_32 e1, decodeL32, e8, tok_of e2 e3, bits_of e4, bits_of e5, bits_of e6, e7, e9]; rfl

theorem cvcp (tk : Tok) (g : BitVec 2) (c : BitVec 4) (s : BitVec 3) (l : BitVec 2) (r : BitVec 3) (n : BitVec 1) (u : BitVec 1) : Statement (.cvcp tk g c s l r n u) :=
  wideL [⟨26, 6, 33⟩, ⟨24, 2, tk.pop⟩, ⟨22, 2, tk.push⟩, ⟨20, 2, g⟩, ⟨16, 4, c⟩, ⟨13, 3, s⟩, ⟨11, 2, l⟩, ⟨8, 3, r⟩, ⟨7, 1, n⟩, ⟨6, 1, u⟩, ⟨0, 6, 0⟩]
    rfl rfl rfl (by simp only [Tok.enc, fieldSum, Piece.sum, BitVec.ofNat_eq_ofNat, BitVec.toNat_ofNat]; omega)
    fun _ ⟨e1, e2, e3, e4, e5, e6, e7, e8, e9, e10, e11, _⟩ => by
      rw [decodeL_33 e1, tok_of e2 e3, bits_of e4, bits_of e5, bits_of e6, bits_of e7, bits_of e8, bits_of e9, bits_of e10, e11]; rfl

theorem pfBulk (tk : Tok) (g : BitVec 2) (c : BitVec 4) (s : BitVec 3) (l : BitVec 2) : Statement (.pfBulk tk g c s l) :=
  wideL [⟨26, 6, 34⟩, ⟨24, 2, tk.pop⟩, ⟨22, 2, tk.push⟩, ⟨20, 2, g⟩, ⟨16, 4, c⟩, ⟨13, 3, s⟩, ⟨11, 2, l⟩, ⟨7, 4, 0⟩, ⟨0, 7, 0⟩]
    rfl rfl rfl (by simp only [Tok.enc, fieldSum, Piece.sum, BitVec.ofNat_eq_ofNat, BitVec.toNat_ofNat]; omega)
    fun _ ⟨e1, e2, e3, e4, e5, e6, e7, e8, e9, _⟩ => by
      rw [decodeL_34 e1, decodeL34, e8, tok_of e2 e3, bits_of e4, bits_of e5, bits_of e6, bits_of e7, e9]; rfl

theorem pfRel (tk : Tok) (g : BitVec 2) (c : BitVec 4) (s : BitVec 3) : Statement (.pfRel tk g c s) :=
  wideL [⟨26, 6, 34⟩, ⟨24, 2, tk.pop⟩, ⟨22, 2, tk.push⟩, ⟨20, 2, g⟩, ⟨16, 4, c⟩, ⟨13, 3, s⟩, ⟨11, 2, 0⟩, ⟨7, 4, 1⟩, ⟨0, 7, 0⟩]
    rfl rfl rfl (by simp only [Tok.enc, fieldSum, Piece.sum, BitVec.ofNat_eq_ofNat, BitVec.toNat_ofNat]; omega)
    fun _ ⟨e1, e2, e3, e4, e5, e6, e7, e8, e9, _⟩ => by
      rw [decodeL_34 e1, decodeL34, e8, tok_of e2 e3, bits_of e4, bits_of e5, bits_of e6, e7, e9]; rfl

theorem lgath (tk : Tok) (g : BitVec 2) (c : BitVec 4) (s : BitVec 3) (l : BitVec 2) : Statement (.lgath tk g c s l) :=
  wideL [⟨26, 6, 35⟩, ⟨24, 2, tk.pop⟩, ⟨22, 2, tk.push⟩, ⟨20, 2, g⟩, ⟨16, 4, c⟩, ⟨13, 3, s⟩, ⟨11, 2, l⟩, ⟨7, 4, 0⟩, ⟨0, 7, 0⟩]
    rfl rfl rfl (by simp only [Tok.enc, fieldSum, Piece.sum, BitVec.ofNat_eq_ofNat, BitVec.toNat_ofNat]; omega)
    fun _ ⟨e1, e2, e3, e4, e5, e6, e7, e8, e9, _⟩ => by
      rw [decodeL_35 e1, decodeL35, e8, tok_of e2 e3, bits_of e4, bits_of e5, bits_of e6, bits_of e7, e9]; rfl

theorem lscat (tk : Tok) (g : BitVec 2) (c : BitVec 4) (s : BitVec 3) (l : BitVec 2) : Statement (.lscat tk g c s l) :=
  wideL [⟨26, 6, 35⟩, ⟨24, 2, tk.pop⟩, ⟨22, 2, tk.push⟩, ⟨20, 2, g⟩, ⟨16, 4, c⟩, ⟨13, 3, s⟩, ⟨11, 2, l⟩, ⟨7, 4, 1⟩, ⟨0, 7, 0⟩]
    rfl rfl rfl (by simp only [Tok.enc, fieldSum, Piece.sum, BitVec.ofNat_eq_ofNat, BitVec.toNat_ofNat]; omega)
    fun _ ⟨e1, e2, e3, e4, e5, e6, e7, e8, e9, _⟩ => by
      rw [decodeL_35 e1, decodeL35, e8, tok_of e2 e3, bits_of e4, bits_of e5, bits_of e6, bits_of e7, e9]; rfl

theorem lfill (tk : Tok) (g : BitVec 2) (c : BitVec 4) (s : BitVec 3) (l : BitVec 2) : Statement (.lfill tk g c s l) :=
  wideL [⟨26, 6, 35⟩, ⟨24, 2, tk.pop⟩, ⟨22, 2, tk.push⟩, ⟨20, 2, g⟩, ⟨16, 4, c⟩, ⟨13, 3, s⟩, ⟨11, 2, l⟩, ⟨7, 4, 2⟩, ⟨0, 7, 0⟩]
    rfl rfl rfl (by simp only [Tok.enc, fieldSum, Piece.sum, BitVec.ofNat_eq_ofNat, BitVec.toNat_ofNat]; omega)
    fun _ ⟨e1, e2, e3, e4, e5, e6, e7, e8, e9, _⟩ => by
      rw [decodeL_35 e1, decodeL35, e8, tok_of e2 e3, bits_of e4, bits_of e5, bits_of e6, bits_of e7, e9]; rfl

theorem badd (tk : Tok) (d : BitVec 4) (a : BitVec 4) (b : BitVec 4) : Statement (.badd tk d a b) :=
  wideL [⟨26, 6, 36⟩, ⟨24, 2, tk.pop⟩, ⟨22, 2, tk.push⟩, ⟨18, 4, 0⟩, ⟨14, 4, d⟩, ⟨10, 4, a⟩, ⟨6, 4, b⟩, ⟨0, 6, 0⟩]
    rfl rfl rfl (by simp only [Tok.enc, fieldSum, Piece.sum, BitVec.ofNat_eq_ofNat, BitVec.toNat_ofNat]; omega)
    fun _ ⟨e1, e2, e3, e4, e5, e6, e7, e8, _⟩ => by
      rw [decodeL_36 e1, decodeL36, e4, tok_of e2 e3, bits_of e5, bits_of e6, bits_of e7, e8]; rfl

theorem bsub (tk : Tok) (d : BitVec 4) (a : BitVec 4) (b : BitVec 4) : Statement (.bsub tk d a b) :=
  wideL [⟨26, 6, 36⟩, ⟨24, 2, tk.pop⟩, ⟨22, 2, tk.push⟩, ⟨18, 4, 1⟩, ⟨14, 4, d⟩, ⟨10, 4, a⟩, ⟨6, 4, b⟩, ⟨0, 6, 0⟩]
    rfl rfl rfl (by simp only [Tok.enc, fieldSum, Piece.sum, BitVec.ofNat_eq_ofNat, BitVec.toNat_ofNat]; omega)
    fun _ ⟨e1, e2, e3, e4, e5, e6, e7, e8, _⟩ => by
      rw [decodeL_36 e1, decodeL36, e4, tok_of e2 e3, bits_of e5, bits_of e6, bits_of e7, e8]; rfl

theorem band (tk : Tok) (d : BitVec 4) (a : BitVec 4) (b : BitVec 4) : Statement (.band tk d a b) :=
  wideL [⟨26, 6, 36⟩, ⟨24, 2, tk.pop⟩, ⟨22, 2, tk.push⟩, ⟨18, 4, 2⟩, ⟨14, 4, d⟩, ⟨10, 4, a⟩, ⟨6, 4, b⟩, ⟨0, 6, 0⟩]
    rfl rfl rfl (by simp only [Tok.enc, fieldSum, Piece.sum, BitVec.ofNat_eq_ofNat, BitVec.toNat_ofNat]; omega)
    fun _ ⟨e1, e2, e3, e4, e5, e6, e7, e8, _⟩ => by
      rw [decodeL_36 e1, decodeL36, e4, tok_of e2 e3, bits_of e5, bits_of e6, bits_of e7, e8]; rfl

theorem bor (tk : Tok) (d : BitVec 4) (a : BitVec 4) (b : BitVec 4) : Statement (.bor tk d a b) :=
  wideL [⟨26, 6, 36⟩, ⟨24, 2, tk.pop⟩, ⟨22, 2, tk.push⟩, ⟨18, 4, 3⟩, ⟨14, 4, d⟩, ⟨10, 4, a⟩, ⟨6, 4, b⟩, ⟨0, 6, 0⟩]
    rfl rfl rfl (by simp only [Tok.enc, fieldSum, Piece.sum, BitVec.ofNat_eq_ofNat, BitVec.toNat_ofNat]; omega)
    fun _ ⟨e1, e2, e3, e4, e5, e6, e7, e8, _⟩ => by
      rw [decodeL_36 e1, decodeL36, e4, tok_of e2 e3, bits_of e5, bits_of e6, bits_of e7, e8]; rfl

theorem bxor (tk : Tok) (d : BitVec 4) (a : BitVec 4) (b : BitVec 4) : Statement (.bxor tk d a b) :=
  wideL [⟨26, 6, 36⟩, ⟨24, 2, tk.pop⟩, ⟨22, 2, tk.push⟩, ⟨18, 4, 4⟩, ⟨14, 4, d⟩, ⟨10, 4, a⟩, ⟨6, 4, b⟩, ⟨0, 6, 0⟩]
    rfl rfl rfl (by simp only [Tok.enc, fieldSum, Piece.sum, BitVec.ofNat_eq_ofNat, BitVec.toNat_ofNat]; omega)
    fun _ ⟨e1, e2, e3, e4, e5, e6, e7, e8, _⟩ => by
      rw [decodeL_36 e1, decodeL36, e4, tok_of e2 e3, bits_of e5, bits_of e6, bits_of e7, e8]; rfl

theorem bsll (tk : Tok) (d : BitVec 4) (a : BitVec 4) (b : BitVec 4) : Statement (.bsll tk d a b) :=
  wideL [⟨26, 6, 36⟩, ⟨24, 2, tk.pop⟩, ⟨22, 2, tk.push⟩, ⟨18, 4, 5⟩, ⟨14, 4, d⟩, ⟨10, 4, a⟩, ⟨6, 4, b⟩, ⟨0, 6, 0⟩]
    rfl rfl rfl (by simp only [Tok.enc, fieldSum, Piece.sum, BitVec.ofNat_eq_ofNat, BitVec.toNat_ofNat]; omega)
    fun _ ⟨e1, e2, e3, e4, e5, e6, e7, e8, _⟩ => by
      rw [decodeL_36 e1, decodeL36, e4, tok_of e2 e3, bits_of e5, bits_of e6, bits_of e7, e8]; rfl

theorem bsrl (tk : Tok) (d : BitVec 4) (a : BitVec 4) (b : BitVec 4) : Statement (.bsrl tk d a b) :=
  wideL [⟨26, 6, 36⟩, ⟨24, 2, tk.pop⟩, ⟨22, 2, tk.push⟩, ⟨18, 4, 6⟩, ⟨14, 4, d⟩, ⟨10, 4, a⟩, ⟨6, 4, b⟩, ⟨0, 6, 0⟩]
    rfl rfl rfl (by simp only [Tok.enc, fieldSum, Piece.sum, BitVec.ofNat_eq_ofNat, BitVec.toNat_ofNat]; omega)
    fun _ ⟨e1, e2, e3, e4, e5, e6, e7, e8, _⟩ => by
      rw [decodeL_36 e1, decodeL36, e4, tok_of e2 e3, bits_of e5, bits_of e6, bits_of e7, e8]; rfl

theorem bmul (tk : Tok) (d : BitVec 4) (a : BitVec 4) (b : BitVec 4) : Statement (.bmul tk d a b) :=
  wideL [⟨26, 6, 36⟩, ⟨24, 2, tk.pop⟩, ⟨22, 2, tk.push⟩, ⟨18, 4, 7⟩, ⟨14, 4, d⟩, ⟨10, 4, a⟩, ⟨6, 4, b⟩, ⟨0, 6, 0⟩]
    rfl rfl rfl (by simp only [Tok.enc, fieldSum, Piece.sum, BitVec.ofNat_eq_ofNat, BitVec.toNat_ofNat]; omega)
    fun _ ⟨e1, e2, e3, e4, e5, e6, e7, e8, _⟩ => by
      rw [decodeL_36 e1, decodeL36, e4, tok_of e2 e3, bits_of e5, bits_of e6, bits_of e7, e8]; rfl

theorem baddi (tk : Tok) (d : BitVec 4) (a : BitVec 4) (i : BitVec 14) : Statement (.baddi tk d a i) :=
  wideL [⟨26, 6, 37⟩, ⟨24, 2, tk.pop⟩, ⟨22, 2, tk.push⟩, ⟨18, 4, d⟩, ⟨14, 4, a⟩, ⟨0, 14, i⟩]
    rfl rfl rfl (by simp only [Tok.enc, fieldSum, Piece.sum, BitVec.ofNat_eq_ofNat, BitVec.toNat_ofNat]; omega)
    fun _ ⟨e1, e2, e3, e4, e5, e6, _⟩ => by
      rw [decodeL_37 e1, tok_of e2 e3, bits_of e4, bits_of e5, bits_of e6]

theorem bli (tk : Tok) (d : BitVec 4) (i : BitVec 16) : Statement (.bli tk d i) :=
  wideL [⟨26, 6, 38⟩, ⟨24, 2, tk.pop⟩, ⟨22, 2, tk.push⟩, ⟨18, 4, d⟩, ⟨17, 1, 0⟩, ⟨1, 16, i⟩, ⟨0, 1, 0⟩]
    rfl rfl rfl (by simp only [Tok.enc, fieldSum, Piece.sum, BitVec.ofNat_eq_ofNat, BitVec.toNat_ofNat]; omega)
    fun _ ⟨e1, e2, e3, e4, e5, e6, e7, _⟩ => by
      rw [decodeL_38 e1, decodeL38, e5, tok_of e2 e3, bits_of e4, bits_of e6, e7]; rfl

theorem blis (tk : Tok) (d : BitVec 4) (i : BitVec 16) : Statement (.blis tk d i) :=
  wideL [⟨26, 6, 38⟩, ⟨24, 2, tk.pop⟩, ⟨22, 2, tk.push⟩, ⟨18, 4, d⟩, ⟨17, 1, 1⟩, ⟨1, 16, i⟩, ⟨0, 1, 0⟩]
    rfl rfl rfl (by simp only [Tok.enc, fieldSum, Piece.sum, BitVec.ofNat_eq_ofNat, BitVec.toNat_ofNat]; omega)
    fun _ ⟨e1, e2, e3, e4, e5, e6, e7, _⟩ => by
      rw [decodeL_38 e1, decodeL38, e5, tok_of e2 e3, bits_of e4, bits_of e6, e7]; rfl

theorem bmov (d : BitVec 4) (a : BitVec 4) : Statement (.bmov d a) :=
  halfL [⟨10, 6, 1⟩, ⟨8, 2, 0⟩, ⟨4, 4, d⟩, ⟨0, 4, a⟩]
    rfl rfl rfl (by simp only [fieldSum, Piece.sum, BitVec.ofNat_eq_ofNat, BitVec.toNat_ofNat]; omega)
    fun _ ⟨e1, e2, e3, e4, _⟩ => by
      rw [decodeCompactL, e1, e2, bits_of e3, bits_of e4]; rfl

theorem baddc (d : BitVec 4) (i : BitVec 6) : Statement (.baddc d i) :=
  halfL [⟨10, 6, 2⟩, ⟨6, 4, d⟩, ⟨0, 6, i⟩]
    rfl rfl rfl (by simp only [fieldSum, Piece.sum, BitVec.ofNat_eq_ofNat, BitVec.toNat_ofNat]; omega)
    fun _ ⟨e1, e2, e3, _⟩ => by
      rw [decodeCompactL, e1, bits_of e2, bits_of e3]; rfl

theorem mma (tk : Tok) (t : BitVec 3) (a : BitVec 4) (b : BitVec 4) (g : BitVec 3) (f : BitVec 5) (r : BitVec 3) : Statement (.mma tk t a b g f r) :=
  wideM [⟨26, 6, 32⟩, ⟨24, 2, tk.pop⟩, ⟨22, 2, tk.push⟩, ⟨19, 3, t⟩, ⟨15, 4, a⟩, ⟨11, 4, b⟩, ⟨8, 3, g⟩, ⟨3, 5, f⟩, ⟨0, 3, r⟩]
    rfl rfl rfl (by simp only [Tok.enc, fieldSum, Piece.sum, BitVec.ofNat_eq_ofNat, BitVec.toNat_ofNat]; omega)
    fun _ ⟨e1, e2, e3, e4, e5, e6, e7, e8, e9, _⟩ => by
      rw [decodeM_32 e1, tok_of e2 e3, bits_of e4, bits_of e5, bits_of e6, bits_of e7, bits_of e8, bits_of e9]

theorem mmat (tk : Tok) (t : BitVec 3) (a : BitVec 4) (b : BitVec 4) (g : BitVec 3) (f : BitVec 5) (r : BitVec 3) : Statement (.mmat tk t a b g f r) :=
  wideM [⟨26, 6, 33⟩, ⟨24, 2, tk.pop⟩, ⟨22, 2, tk.push⟩, ⟨19, 3, t⟩, ⟨15, 4, a⟩, ⟨11, 4, b⟩, ⟨8, 3, g⟩, ⟨3, 5, f⟩, ⟨0, 3, r⟩]
    rfl rfl rfl (by simp only [Tok.enc, fieldSum, Piece.sum, BitVec.ofNat_eq_ofNat, BitVec.toNat_ofNat]; omega)
    fun _ ⟨e1, e2, e3, e4, e5, e6, e7, e8, e9, _⟩ => by
      rw [decodeM_33 e1, tok_of e2 e3, bits_of e4, bits_of e5, bits_of e6, bits_of e7, bits_of e8, bits_of e9]

theorem tclr (tk : Tok) (t : BitVec 3) : Statement (.tclr tk t) :=
  wideM [⟨26, 6, 34⟩, ⟨24, 2, tk.pop⟩, ⟨22, 2, tk.push⟩, ⟨19, 3, t⟩, ⟨15, 4, 0⟩, ⟨13, 2, 0⟩, ⟨0, 13, 0⟩]
    rfl rfl rfl (by simp only [Tok.enc, fieldSum, Piece.sum, BitVec.ofNat_eq_ofNat, BitVec.toNat_ofNat]; omega)
    fun _ ⟨e1, e2, e3, e4, e5, e6, e7, _⟩ => by
      rw [decodeM_34 e1, decodeM34, e6, tok_of e2 e3, bits_of e4, e5, e7]; rfl

theorem tldA (tk : Tok) (t : BitVec 3) (b : BitVec 4) : Statement (.tldA tk t b) :=
  wideM [⟨26, 6, 34⟩, ⟨24, 2, tk.pop⟩, ⟨22, 2, tk.push⟩, ⟨19, 3, t⟩, ⟨15, 4, b⟩, ⟨13, 2, 1⟩, ⟨0, 13, 0⟩]
    rfl rfl rfl (by simp only [Tok.enc, fieldSum, Piece.sum, BitVec.ofNat_eq_ofNat, BitVec.toNat_ofNat]; omega)
    fun _ ⟨e1, e2, e3, e4, e5, e6, e7, _⟩ => by
      rw [decodeM_34 e1, decodeM34, e6, tok_of e2 e3, bits_of e4, bits_of e5, e7]; rfl

theorem tldW (tk : Tok) (t : BitVec 3) (b : BitVec 4) : Statement (.tldW tk t b) :=
  wideM [⟨26, 6, 34⟩, ⟨24, 2, tk.pop⟩, ⟨22, 2, tk.push⟩, ⟨19, 3, t⟩, ⟨15, 4, b⟩, ⟨13, 2, 2⟩, ⟨0, 13, 0⟩]
    rfl rfl rfl (by simp only [Tok.enc, fieldSum, Piece.sum, BitVec.ofNat_eq_ofNat, BitVec.toNat_ofNat]; omega)
    fun _ ⟨e1, e2, e3, e4, e5, e6, e7, _⟩ => by
      rw [decodeM_34 e1, decodeM34, e6, tok_of e2 e3, bits_of e4, bits_of e5, e7]; rfl

theorem drain (tk : Tok) (t : BitVec 3) (b : BitVec 4) (d : BitVec 2) (r : BitVec 3) (e : BitVec 1) (k : BitVec 6) (i : BitVec 3) : Statement (.drain tk t b d r e k i) :=
  wideM [⟨26, 6, 35⟩, ⟨24, 2, tk.pop⟩, ⟨22, 2, tk.push⟩, ⟨19, 3, t⟩, ⟨15, 4, b⟩, ⟨13, 2, d⟩, ⟨10, 3, r⟩, ⟨9, 1, e⟩, ⟨3, 6, k⟩, ⟨0, 3, i⟩]
    rfl rfl rfl (by simp only [Tok.enc, fieldSum, Piece.sum, BitVec.ofNat_eq_ofNat, BitVec.toNat_ofNat]; omega)
    fun _ ⟨e1, e2, e3, e4, e5, e6, e7, e8, e9, e10, _⟩ => by
      rw [decodeM_35 e1, tok_of e2 e3, bits_of e4, bits_of e5, bits_of e6, bits_of e7, bits_of e8, bits_of e9, bits_of e10]

theorem eload (tk : Tok) (r : BitVec 3) (b : BitVec 4) (n : BitVec 5) (u : BitVec 1) : Statement (.eload tk r b n u) :=
  wideM [⟨26, 6, 36⟩, ⟨24, 2, tk.pop⟩, ⟨22, 2, tk.push⟩, ⟨19, 3, r⟩, ⟨15, 4, b⟩, ⟨10, 5, n⟩, ⟨9, 1, u⟩, ⟨0, 9, 0⟩]
    rfl rfl rfl (by simp only [Tok.enc, fieldSum, Piece.sum, BitVec.ofNat_eq_ofNat, BitVec.toNat_ofNat]; omega)
    fun _ ⟨e1, e2, e3, e4, e5, e6, e7, e8, _⟩ => by
      rw [decodeM_36 e1, tok_of e2 e3, bits_of e4, bits_of e5, bits_of e6, bits_of e7, e8]; rfl

theorem gli (tk : Tok) (d : BitVec 4) (i : BitVec 16) : Statement (.gli tk d i) :=
  wideM [⟨26, 6, 37⟩, ⟨24, 2, tk.pop⟩, ⟨22, 2, tk.push⟩, ⟨18, 4, d⟩, ⟨17, 1, 0⟩, ⟨1, 16, i⟩, ⟨0, 1, 0⟩]
    rfl rfl rfl (by simp only [Tok.enc, fieldSum, Piece.sum, BitVec.ofNat_eq_ofNat, BitVec.toNat_ofNat]; omega)
    fun _ ⟨e1, e2, e3, e4, e5, e6, e7, _⟩ => by
      rw [decodeM_37 e1, decodeM37, e5, tok_of e2 e3, bits_of e4, bits_of e6, e7]; rfl

theorem glis (tk : Tok) (d : BitVec 4) (i : BitVec 16) : Statement (.glis tk d i) :=
  wideM [⟨26, 6, 37⟩, ⟨24, 2, tk.pop⟩, ⟨22, 2, tk.push⟩, ⟨18, 4, d⟩, ⟨17, 1, 1⟩, ⟨1, 16, i⟩, ⟨0, 1, 0⟩]
    rfl rfl rfl (by simp only [Tok.enc, fieldSum, Piece.sum, BitVec.ofNat_eq_ofNat, BitVec.toNat_ofNat]; omega)
    fun _ ⟨e1, e2, e3, e4, e5, e6, e7, _⟩ => by
      rw [decodeM_37 e1, decodeM37, e5, tok_of e2 e3, bits_of e4, bits_of e6, e7]; rfl

theorem tclrCompact (t : BitVec 3) : Statement (.tclrCompact t) :=
  halfM [⟨10, 6, 1⟩, ⟨3, 7, 0⟩, ⟨0, 3, t⟩]
    rfl rfl rfl (by simp only [fieldSum, Piece.sum, BitVec.ofNat_eq_ofNat, BitVec.toNat_ofNat]; omega)
    fun _ ⟨e1, e2, e3, _⟩ => by
      rw [decodeCompactM, e1, e2, bits_of e3]; rfl

theorem vaddF32 (tk : Tok) (d : BitVec 5) (a : BitVec 5) (b : BitVec 5) (r : BitVec 3) (n : BitVec 1) (w : BitVec 1) : Statement (.vaddF32 tk d a b r n w) :=
  wideV [⟨26, 6, 32⟩, ⟨24, 2, tk.pop⟩, ⟨22, 2, tk.push⟩, ⟨20, 2, 0⟩, ⟨15, 5, d⟩, ⟨10, 5, a⟩, ⟨5, 5, b⟩, ⟨2, 3, r⟩, ⟨1, 1, n⟩, ⟨0, 1, w⟩]
    rfl rfl rfl (by simp only [Tok.enc, fieldSum, Piece.sum, BitVec.ofNat_eq_ofNat, BitVec.toNat_ofNat]; omega)
    fun _ ⟨e1, e2, e3, e4, e5, e6, e7, e8, e9, e10, _⟩ => by
      rw [decodeV_32 e1, decodeV32, e4, tok_of e2 e3, bits_of e5, bits_of e6, bits_of e7, bits_of e8, bits_of e9, bits_of e10]; rfl

theorem vsubF32 (tk : Tok) (d : BitVec 5) (a : BitVec 5) (b : BitVec 5) (r : BitVec 3) (n : BitVec 1) (w : BitVec 1) : Statement (.vsubF32 tk d a b r n w) :=
  wideV [⟨26, 6, 32⟩, ⟨24, 2, tk.pop⟩, ⟨22, 2, tk.push⟩, ⟨20, 2, 1⟩, ⟨15, 5, d⟩, ⟨10, 5, a⟩, ⟨5, 5, b⟩, ⟨2, 3, r⟩, ⟨1, 1, n⟩, ⟨0, 1, w⟩]
    rfl rfl rfl (by simp only [Tok.enc, fieldSum, Piece.sum, BitVec.ofNat_eq_ofNat, BitVec.toNat_ofNat]; omega)
    fun _ ⟨e1, e2, e3, e4, e5, e6, e7, e8, e9, e10, _⟩ => by
      rw [decodeV_32 e1, decodeV32, e4, tok_of e2 e3, bits_of e5, bits_of e6, bits_of e7, bits_of e8, bits_of e9, bits_of e10]; rfl

theorem vmulF32 (tk : Tok) (d : BitVec 5) (a : BitVec 5) (b : BitVec 5) (r : BitVec 3) (n : BitVec 1) (w : BitVec 1) : Statement (.vmulF32 tk d a b r n w) :=
  wideV [⟨26, 6, 32⟩, ⟨24, 2, tk.pop⟩, ⟨22, 2, tk.push⟩, ⟨20, 2, 2⟩, ⟨15, 5, d⟩, ⟨10, 5, a⟩, ⟨5, 5, b⟩, ⟨2, 3, r⟩, ⟨1, 1, n⟩, ⟨0, 1, w⟩]
    rfl rfl rfl (by simp only [Tok.enc, fieldSum, Piece.sum, BitVec.ofNat_eq_ofNat, BitVec.toNat_ofNat]; omega)
    fun _ ⟨e1, e2, e3, e4, e5, e6, e7, e8, e9, e10, _⟩ => by
      rw [decodeV_32 e1, decodeV32, e4, tok_of e2 e3, bits_of e5, bits_of e6, bits_of e7, bits_of e8, bits_of e9, bits_of e10]; rfl

theorem vfmaF32 (tk : Tok) (d : BitVec 5) (a : BitVec 5) (b : BitVec 5) (r : BitVec 3) (n : BitVec 1) (w : BitVec 1) : Statement (.vfmaF32 tk d a b r n w) :=
  wideV [⟨26, 6, 32⟩, ⟨24, 2, tk.pop⟩, ⟨22, 2, tk.push⟩, ⟨20, 2, 3⟩, ⟨15, 5, d⟩, ⟨10, 5, a⟩, ⟨5, 5, b⟩, ⟨2, 3, r⟩, ⟨1, 1, n⟩, ⟨0, 1, w⟩]
    rfl rfl rfl (by simp only [Tok.enc, fieldSum, Piece.sum, BitVec.ofNat_eq_ofNat, BitVec.toNat_ofNat]; omega)
    fun _ ⟨e1, e2, e3, e4, e5, e6, e7, e8, e9, e10, _⟩ => by
      rw [decodeV_32 e1, decodeV32, e4, tok_of e2 e3, bits_of e5, bits_of e6, bits_of e7, bits_of e8, bits_of e9, bits_of e10]; rfl

theorem vminF32 (tk : Tok) (d : BitVec 5) (a : BitVec 5) (b : BitVec 5) (n : BitVec 1) (w : BitVec 1) : Statement (.vminF32 tk d a b n w) :=
  wideV [⟨26, 6, 33⟩, ⟨24, 2, tk.pop⟩, ⟨22, 2, tk.push⟩, ⟨20, 2, 0⟩, ⟨15, 5, d⟩, ⟨10, 5, a⟩, ⟨5, 5, b⟩, ⟨2, 3, 0⟩, ⟨1, 1, n⟩, ⟨0, 1, w⟩]
    rfl rfl rfl (by simp only [Tok.enc, fieldSum, Piece.sum, BitVec.ofNat_eq_ofNat, BitVec.toNat_ofNat]; omega)
    fun _ ⟨e1, e2, e3, e4, e5, e6, e7, e8, e9, e10, _⟩ => by
      rw [decodeV_33 e1, decodeV33, e4, tok_of e2 e3, bits_of e5, bits_of e6, bits_of e7, e8, bits_of e9, bits_of e10]; rfl

theorem vmaxF32 (tk : Tok) (d : BitVec 5) (a : BitVec 5) (b : BitVec 5) (n : BitVec 1) (w : BitVec 1) : Statement (.vmaxF32 tk d a b n w) :=
  wideV [⟨26, 6, 33⟩, ⟨24, 2, tk.pop⟩, ⟨22, 2, tk.push⟩, ⟨20, 2, 1⟩, ⟨15, 5, d⟩, ⟨10, 5, a⟩, ⟨5, 5, b⟩, ⟨2, 3, 0⟩, ⟨1, 1, n⟩, ⟨0, 1, w⟩]
    rfl rfl rfl (by simp only [Tok.enc, fieldSum, Piece.sum, BitVec.ofNat_eq_ofNat, BitVec.toNat_ofNat]; omega)
    fun _ ⟨e1, e2, e3, e4, e5, e6, e7, e8, e9, e10, _⟩ => by
      rw [decodeV_33 e1, decodeV33, e4, tok_of e2 e3, bits_of e5, bits_of e6, bits_of e7, e8, bits_of e9, bits_of e10]; rfl

theorem vdivF32 (tk : Tok) (d : BitVec 5) (a : BitVec 5) (b : BitVec 5) (r : BitVec 3) (n : BitVec 1) (w : BitVec 1) : Statement (.vdivF32 tk d a b r n w) :=
  wideV [⟨26, 6, 33⟩, ⟨24, 2, tk.pop⟩, ⟨22, 2, tk.push⟩, ⟨20, 2, 2⟩, ⟨15, 5, d⟩, ⟨10, 5, a⟩, ⟨5, 5, b⟩, ⟨2, 3, r⟩, ⟨1, 1, n⟩, ⟨0, 1, w⟩]
    rfl rfl rfl (by simp only [Tok.enc, fieldSum, Piece.sum, BitVec.ofNat_eq_ofNat, BitVec.toNat_ofNat]; omega)
    fun _ ⟨e1, e2, e3, e4, e5, e6, e7, e8, e9, e10, _⟩ => by
      rw [decodeV_33 e1, decodeV33, e4, tok_of e2 e3, bits_of e5, bits_of e6, bits_of e7, bits_of e8, bits_of e9, bits_of e10]; rfl

theorem vaddF64 (tk : Tok) (d : BitVec 5) (a : BitVec 5) (b : BitVec 5) (r : BitVec 3) (n : BitVec 1) (w : BitVec 1) : Statement (.vaddF64 tk d a b r n w) :=
  wideV [⟨26, 6, 34⟩, ⟨24, 2, tk.pop⟩, ⟨22, 2, tk.push⟩, ⟨20, 2, 0⟩, ⟨15, 5, d⟩, ⟨10, 5, a⟩, ⟨5, 5, b⟩, ⟨2, 3, r⟩, ⟨1, 1, n⟩, ⟨0, 1, w⟩]
    rfl rfl rfl (by simp only [Tok.enc, fieldSum, Piece.sum, BitVec.ofNat_eq_ofNat, BitVec.toNat_ofNat]; omega)
    fun _ ⟨e1, e2, e3, e4, e5, e6, e7, e8, e9, e10, _⟩ => by
      rw [decodeV_34 e1, decodeV34, e4, tok_of e2 e3, bits_of e5, bits_of e6, bits_of e7, bits_of e8, bits_of e9, bits_of e10]; rfl

theorem vsubF64 (tk : Tok) (d : BitVec 5) (a : BitVec 5) (b : BitVec 5) (r : BitVec 3) (n : BitVec 1) (w : BitVec 1) : Statement (.vsubF64 tk d a b r n w) :=
  wideV [⟨26, 6, 34⟩, ⟨24, 2, tk.pop⟩, ⟨22, 2, tk.push⟩, ⟨20, 2, 1⟩, ⟨15, 5, d⟩, ⟨10, 5, a⟩, ⟨5, 5, b⟩, ⟨2, 3, r⟩, ⟨1, 1, n⟩, ⟨0, 1, w⟩]
    rfl rfl rfl (by simp only [Tok.enc, fieldSum, Piece.sum, BitVec.ofNat_eq_ofNat, BitVec.toNat_ofNat]; omega)
    fun _ ⟨e1, e2, e3, e4, e5, e6, e7, e8, e9, e10, _⟩ => by
      rw [decodeV_34 e1, decodeV34, e4, tok_of e2 e3, bits_of e5, bits_of e6, bits_of e7, bits_of e8, bits_of e9, bits_of e10]; rfl

theorem vmulF64 (tk : Tok) (d : BitVec 5) (a : BitVec 5) (b : BitVec 5) (r : BitVec 3) (n : BitVec 1) (w : BitVec 1) : Statement (.vmulF64 tk d a b r n w) :=
  wideV [⟨26, 6, 34⟩, ⟨24, 2, tk.pop⟩, ⟨22, 2, tk.push⟩, ⟨20, 2, 2⟩, ⟨15, 5, d⟩, ⟨10, 5, a⟩, ⟨5, 5, b⟩, ⟨2, 3, r⟩, ⟨1, 1, n⟩, ⟨0, 1, w⟩]
    rfl rfl rfl (by simp only [Tok.enc, fieldSum, Piece.sum, BitVec.ofNat_eq_ofNat, BitVec.toNat_ofNat]; omega)
    fun _ ⟨e1, e2, e3, e4, e5, e6, e7, e8, e9, e10, _⟩ => by
      rw [decodeV_34 e1, decodeV34, e4, tok_of e2 e3, bits_of e5, bits_of e6, bits_of e7, bits_of e8, bits_of e9, bits_of e10]; rfl

theorem vfmaF64 (tk : Tok) (d : BitVec 5) (a : BitVec 5) (b : BitVec 5) (r : BitVec 3) (n : BitVec 1) (w : BitVec 1) : Statement (.vfmaF64 tk d a b r n w) :=
  wideV [⟨26, 6, 34⟩, ⟨24, 2, tk.pop⟩, ⟨22, 2, tk.push⟩, ⟨20, 2, 3⟩, ⟨15, 5, d⟩, ⟨10, 5, a⟩, ⟨5, 5, b⟩, ⟨2, 3, r⟩, ⟨1, 1, n⟩, ⟨0, 1, w⟩]
    rfl rfl rfl (by simp only [Tok.enc, fieldSum, Piece.sum, BitVec.ofNat_eq_ofNat, BitVec.toNat_ofNat]; omega)
    fun _ ⟨e1, e2, e3, e4, e5, e6, e7, e8, e9, e10, _⟩ => by
      rw [decodeV_34 e1, decodeV34, e4, tok_of e2 e3, bits_of e5, bits_of e6, bits_of e7, bits_of e8, bits_of e9, bits_of e10]; rfl

theorem vminF64 (tk : Tok) (d : BitVec 5) (a : BitVec 5) (b : BitVec 5) (n : BitVec 1) (w : BitVec 1) : Statement (.vminF64 tk d a b n w) :=
  wideV [⟨26, 6, 35⟩, ⟨24, 2, tk.pop⟩, ⟨22, 2, tk.push⟩, ⟨20, 2, 0⟩, ⟨15, 5, d⟩, ⟨10, 5, a⟩, ⟨5, 5, b⟩, ⟨2, 3, 0⟩, ⟨1, 1, n⟩, ⟨0, 1, w⟩]
    rfl rfl rfl (by simp only [Tok.enc, fieldSum, Piece.sum, BitVec.ofNat_eq_ofNat, BitVec.toNat_ofNat]; omega)
    fun _ ⟨e1, e2, e3, e4, e5, e6, e7, e8, e9, e10, _⟩ => by
      rw [decodeV_35 e1, decodeV35, e4, tok_of e2 e3, bits_of e5, bits_of e6, bits_of e7, e8, bits_of e9, bits_of e10]; rfl

theorem vmaxF64 (tk : Tok) (d : BitVec 5) (a : BitVec 5) (b : BitVec 5) (n : BitVec 1) (w : BitVec 1) : Statement (.vmaxF64 tk d a b n w) :=
  wideV [⟨26, 6, 35⟩, ⟨24, 2, tk.pop⟩, ⟨22, 2, tk.push⟩, ⟨20, 2, 1⟩, ⟨15, 5, d⟩, ⟨10, 5, a⟩, ⟨5, 5, b⟩, ⟨2, 3, 0⟩, ⟨1, 1, n⟩, ⟨0, 1, w⟩]
    rfl rfl rfl (by simp only [Tok.enc, fieldSum, Piece.sum, BitVec.ofNat_eq_ofNat, BitVec.toNat_ofNat]; omega)
    fun _ ⟨e1, e2, e3, e4, e5, e6, e7, e8, e9, e10, _⟩ => by
      rw [decodeV_35 e1, decodeV35, e4, tok_of e2 e3, bits_of e5, bits_of e6, bits_of e7, e8, bits_of e9, bits_of e10]; rfl

theorem vdivF64 (tk : Tok) (d : BitVec 5) (a : BitVec 5) (b : BitVec 5) (r : BitVec 3) (n : BitVec 1) (w : BitVec 1) : Statement (.vdivF64 tk d a b r n w) :=
  wideV [⟨26, 6, 35⟩, ⟨24, 2, tk.pop⟩, ⟨22, 2, tk.push⟩, ⟨20, 2, 2⟩, ⟨15, 5, d⟩, ⟨10, 5, a⟩, ⟨5, 5, b⟩, ⟨2, 3, r⟩, ⟨1, 1, n⟩, ⟨0, 1, w⟩]
    rfl rfl rfl (by simp only [Tok.enc, fieldSum, Piece.sum, BitVec.ofNat_eq_ofNat, BitVec.toNat_ofNat]; omega)
    fun _ ⟨e1, e2, e3, e4, e5, e6, e7, e8, e9, e10, _⟩ => by
      rw [decodeV_35 e1, decodeV35, e4, tok_of e2 e3, bits_of e5, bits_of e6, bits_of e7, bits_of e8, bits_of e9, bits_of e10]; rfl

theorem vaddF16 (tk : Tok) (d : BitVec 5) (a : BitVec 5) (b : BitVec 5) (r : BitVec 3) (n : BitVec 1) (w : BitVec 1) : Statement (.vaddF16 tk d a b r n w) :=
  wideV [⟨26, 6, 36⟩, ⟨24, 2, tk.pop⟩, ⟨22, 2, tk.push⟩, ⟨20, 2, 0⟩, ⟨15, 5, d⟩, ⟨10, 5, a⟩, ⟨5, 5, b⟩, ⟨2, 3, r⟩, ⟨1, 1, n⟩, ⟨0, 1, w⟩]
    rfl rfl rfl (by simp only [Tok.enc, fieldSum, Piece.sum, BitVec.ofNat_eq_ofNat, BitVec.toNat_ofNat]; omega)
    fun _ ⟨e1, e2, e3, e4, e5, e6, e7, e8, e9, e10, _⟩ => by
      rw [decodeV_36 e1, decodeV36, e4, tok_of e2 e3, bits_of e5, bits_of e6, bits_of e7, bits_of e8, bits_of e9, bits_of e10]; rfl

theorem vsubF16 (tk : Tok) (d : BitVec 5) (a : BitVec 5) (b : BitVec 5) (r : BitVec 3) (n : BitVec 1) (w : BitVec 1) : Statement (.vsubF16 tk d a b r n w) :=
  wideV [⟨26, 6, 36⟩, ⟨24, 2, tk.pop⟩, ⟨22, 2, tk.push⟩, ⟨20, 2, 1⟩, ⟨15, 5, d⟩, ⟨10, 5, a⟩, ⟨5, 5, b⟩, ⟨2, 3, r⟩, ⟨1, 1, n⟩, ⟨0, 1, w⟩]
    rfl rfl rfl (by simp only [Tok.enc, fieldSum, Piece.sum, BitVec.ofNat_eq_ofNat, BitVec.toNat_ofNat]; omega)
    fun _ ⟨e1, e2, e3, e4, e5, e6, e7, e8, e9, e10, _⟩ => by
      rw [decodeV_36 e1, decodeV36, e4, tok_of e2 e3, bits_of e5, bits_of e6, bits_of e7, bits_of e8, bits_of e9, bits_of e10]; rfl

theorem vmulF16 (tk : Tok) (d : BitVec 5) (a : BitVec 5) (b : BitVec 5) (r : BitVec 3) (n : BitVec 1) (w : BitVec 1) : Statement (.vmulF16 tk d a b r n w) :=
  wideV [⟨26, 6, 36⟩, ⟨24, 2, tk.pop⟩, ⟨22, 2, tk.push⟩, ⟨20, 2, 2⟩, ⟨15, 5, d⟩, ⟨10, 5, a⟩, ⟨5, 5, b⟩, ⟨2, 3, r⟩, ⟨1, 1, n⟩, ⟨0, 1, w⟩]
    rfl rfl rfl (by simp only [Tok.enc, fieldSum, Piece.sum, BitVec.ofNat_eq_ofNat, BitVec.toNat_ofNat]; omega)
    fun _ ⟨e1, e2, e3, e4, e5, e6, e7, e8, e9, e10, _⟩ => by
      rw [decodeV_36 e1, decodeV36, e4, tok_of e2 e3, bits_of e5, bits_of e6, bits_of e7, bits_of e8, bits_of e9, bits_of e10]; rfl

theorem vfmaF16 (tk : Tok) (d : BitVec 5) (a : BitVec 5) (b : BitVec 5) (r : BitVec 3) (n : BitVec 1) (w : BitVec 1) : Statement (.vfmaF16 tk d a b r n w) :=
  wideV [⟨26, 6, 36⟩, ⟨24, 2, tk.pop⟩, ⟨22, 2, tk.push⟩, ⟨20, 2, 3⟩, ⟨15, 5, d⟩, ⟨10, 5, a⟩, ⟨5, 5, b⟩, ⟨2, 3, r⟩, ⟨1, 1, n⟩, ⟨0, 1, w⟩]
    rfl rfl rfl (by simp only [Tok.enc, fieldSum, Piece.sum, BitVec.ofNat_eq_ofNat, BitVec.toNat_ofNat]; omega)
    fun _ ⟨e1, e2, e3, e4, e5, e6, e7, e8, e9, e10, _⟩ => by
      rw [decodeV_36 e1, decodeV36, e4, tok_of e2 e3, bits_of e5, bits_of e6, bits_of e7, bits_of e8, bits_of e9, bits_of e10]; rfl

theorem vminF16 (tk : Tok) (d : BitVec 5) (a : BitVec 5) (b : BitVec 5) (n : BitVec 1) (w : BitVec 1) : Statement (.vminF16 tk d a b n w) :=
  wideV [⟨26, 6, 37⟩, ⟨24, 2, tk.pop⟩, ⟨22, 2, tk.push⟩, ⟨20, 2, 0⟩, ⟨15, 5, d⟩, ⟨10, 5, a⟩, ⟨5, 5, b⟩, ⟨2, 3, 0⟩, ⟨1, 1, n⟩, ⟨0, 1, w⟩]
    rfl rfl rfl (by simp only [Tok.enc, fieldSum, Piece.sum, BitVec.ofNat_eq_ofNat, BitVec.toNat_ofNat]; omega)
    fun _ ⟨e1, e2, e3, e4, e5, e6, e7, e8, e9, e10, _⟩ => by
      rw [decodeV_37 e1, decodeV37, e4, tok_of e2 e3, bits_of e5, bits_of e6, bits_of e7, e8, bits_of e9, bits_of e10]; rfl

theorem vmaxF16 (tk : Tok) (d : BitVec 5) (a : BitVec 5) (b : BitVec 5) (n : BitVec 1) (w : BitVec 1) : Statement (.vmaxF16 tk d a b n w) :=
  wideV [⟨26, 6, 37⟩, ⟨24, 2, tk.pop⟩, ⟨22, 2, tk.push⟩, ⟨20, 2, 1⟩, ⟨15, 5, d⟩, ⟨10, 5, a⟩, ⟨5, 5, b⟩, ⟨2, 3, 0⟩, ⟨1, 1, n⟩, ⟨0, 1, w⟩]
    rfl rfl rfl (by simp only [Tok.enc, fieldSum, Piece.sum, BitVec.ofNat_eq_ofNat, BitVec.toNat_ofNat]; omega)
    fun _ ⟨e1, e2, e3, e4, e5, e6, e7, e8, e9, e10, _⟩ => by
      rw [decodeV_37 e1, decodeV37, e4, tok_of e2 e3, bits_of e5, bits_of e6, bits_of e7, e8, bits_of e9, bits_of e10]; rfl

theorem vdivF16 (tk : Tok) (d : BitVec 5) (a : BitVec 5) (b : BitVec 5) (r : BitVec 3) (n : BitVec 1) (w : BitVec 1) : Statement (.vdivF16 tk d a b r n w) :=
  wideV [⟨26, 6, 37⟩, ⟨24, 2, tk.pop⟩, ⟨22, 2, tk.push⟩, ⟨20, 2, 2⟩, ⟨15, 5, d⟩, ⟨10, 5, a⟩, ⟨5, 5, b⟩, ⟨2, 3, r⟩, ⟨1, 1, n⟩, ⟨0, 1, w⟩]
    rfl rfl rfl (by simp only [Tok.enc, fieldSum, Piece.sum, BitVec.ofNat_eq_ofNat, BitVec.toNat_ofNat]; omega)
    fun _ ⟨e1, e2, e3, e4, e5, e6, e7, e8, e9, e10, _⟩ => by
      rw [decodeV_37 e1, decodeV37, e4, tok_of e2 e3, bits_of e5, bits_of e6, bits_of e7, bits_of e8, bits_of e9, bits_of e10]; rfl

theorem vaddBf16 (tk : Tok) (d : BitVec 5) (a : BitVec 5) (b : BitVec 5) (r : BitVec 3) (n : BitVec 1) (w : BitVec 1) : Statement (.vaddBf16 tk d a b r n w) :=
  wideV [⟨26, 6, 38⟩, ⟨24, 2, tk.pop⟩, ⟨22, 2, tk.push⟩, ⟨20, 2, 0⟩, ⟨15, 5, d⟩, ⟨10, 5, a⟩, ⟨5, 5, b⟩, ⟨2, 3, r⟩, ⟨1, 1, n⟩, ⟨0, 1, w⟩]
    rfl rfl rfl (by simp only [Tok.enc, fieldSum, Piece.sum, BitVec.ofNat_eq_ofNat, BitVec.toNat_ofNat]; omega)
    fun _ ⟨e1, e2, e3, e4, e5, e6, e7, e8, e9, e10, _⟩ => by
      rw [decodeV_38 e1, decodeV38, e4, tok_of e2 e3, bits_of e5, bits_of e6, bits_of e7, bits_of e8, bits_of e9, bits_of e10]; rfl

theorem vsubBf16 (tk : Tok) (d : BitVec 5) (a : BitVec 5) (b : BitVec 5) (r : BitVec 3) (n : BitVec 1) (w : BitVec 1) : Statement (.vsubBf16 tk d a b r n w) :=
  wideV [⟨26, 6, 38⟩, ⟨24, 2, tk.pop⟩, ⟨22, 2, tk.push⟩, ⟨20, 2, 1⟩, ⟨15, 5, d⟩, ⟨10, 5, a⟩, ⟨5, 5, b⟩, ⟨2, 3, r⟩, ⟨1, 1, n⟩, ⟨0, 1, w⟩]
    rfl rfl rfl (by simp only [Tok.enc, fieldSum, Piece.sum, BitVec.ofNat_eq_ofNat, BitVec.toNat_ofNat]; omega)
    fun _ ⟨e1, e2, e3, e4, e5, e6, e7, e8, e9, e10, _⟩ => by
      rw [decodeV_38 e1, decodeV38, e4, tok_of e2 e3, bits_of e5, bits_of e6, bits_of e7, bits_of e8, bits_of e9, bits_of e10]; rfl

theorem vmulBf16 (tk : Tok) (d : BitVec 5) (a : BitVec 5) (b : BitVec 5) (r : BitVec 3) (n : BitVec 1) (w : BitVec 1) : Statement (.vmulBf16 tk d a b r n w) :=
  wideV [⟨26, 6, 38⟩, ⟨24, 2, tk.pop⟩, ⟨22, 2, tk.push⟩, ⟨20, 2, 2⟩, ⟨15, 5, d⟩, ⟨10, 5, a⟩, ⟨5, 5, b⟩, ⟨2, 3, r⟩, ⟨1, 1, n⟩, ⟨0, 1, w⟩]
    rfl rfl rfl (by simp only [Tok.enc, fieldSum, Piece.sum, BitVec.ofNat_eq_ofNat, BitVec.toNat_ofNat]; omega)
    fun _ ⟨e1, e2, e3, e4, e5, e6, e7, e8, e9, e10, _⟩ => by
      rw [decodeV_38 e1, decodeV38, e4, tok_of e2 e3, bits_of e5, bits_of e6, bits_of e7, bits_of e8, bits_of e9, bits_of e10]; rfl

theorem vfmaBf16 (tk : Tok) (d : BitVec 5) (a : BitVec 5) (b : BitVec 5) (r : BitVec 3) (n : BitVec 1) (w : BitVec 1) : Statement (.vfmaBf16 tk d a b r n w) :=
  wideV [⟨26, 6, 38⟩, ⟨24, 2, tk.pop⟩, ⟨22, 2, tk.push⟩, ⟨20, 2, 3⟩, ⟨15, 5, d⟩, ⟨10, 5, a⟩, ⟨5, 5, b⟩, ⟨2, 3, r⟩, ⟨1, 1, n⟩, ⟨0, 1, w⟩]
    rfl rfl rfl (by simp only [Tok.enc, fieldSum, Piece.sum, BitVec.ofNat_eq_ofNat, BitVec.toNat_ofNat]; omega)
    fun _ ⟨e1, e2, e3, e4, e5, e6, e7, e8, e9, e10, _⟩ => by
      rw [decodeV_38 e1, decodeV38, e4, tok_of e2 e3, bits_of e5, bits_of e6, bits_of e7, bits_of e8, bits_of e9, bits_of e10]; rfl

theorem vminBf16 (tk : Tok) (d : BitVec 5) (a : BitVec 5) (b : BitVec 5) (n : BitVec 1) (w : BitVec 1) : Statement (.vminBf16 tk d a b n w) :=
  wideV [⟨26, 6, 39⟩, ⟨24, 2, tk.pop⟩, ⟨22, 2, tk.push⟩, ⟨20, 2, 0⟩, ⟨15, 5, d⟩, ⟨10, 5, a⟩, ⟨5, 5, b⟩, ⟨2, 3, 0⟩, ⟨1, 1, n⟩, ⟨0, 1, w⟩]
    rfl rfl rfl (by simp only [Tok.enc, fieldSum, Piece.sum, BitVec.ofNat_eq_ofNat, BitVec.toNat_ofNat]; omega)
    fun _ ⟨e1, e2, e3, e4, e5, e6, e7, e8, e9, e10, _⟩ => by
      rw [decodeV_39 e1, decodeV39, e4, tok_of e2 e3, bits_of e5, bits_of e6, bits_of e7, e8, bits_of e9, bits_of e10]; rfl

theorem vmaxBf16 (tk : Tok) (d : BitVec 5) (a : BitVec 5) (b : BitVec 5) (n : BitVec 1) (w : BitVec 1) : Statement (.vmaxBf16 tk d a b n w) :=
  wideV [⟨26, 6, 39⟩, ⟨24, 2, tk.pop⟩, ⟨22, 2, tk.push⟩, ⟨20, 2, 1⟩, ⟨15, 5, d⟩, ⟨10, 5, a⟩, ⟨5, 5, b⟩, ⟨2, 3, 0⟩, ⟨1, 1, n⟩, ⟨0, 1, w⟩]
    rfl rfl rfl (by simp only [Tok.enc, fieldSum, Piece.sum, BitVec.ofNat_eq_ofNat, BitVec.toNat_ofNat]; omega)
    fun _ ⟨e1, e2, e3, e4, e5, e6, e7, e8, e9, e10, _⟩ => by
      rw [decodeV_39 e1, decodeV39, e4, tok_of e2 e3, bits_of e5, bits_of e6, bits_of e7, e8, bits_of e9, bits_of e10]; rfl

theorem vdivBf16 (tk : Tok) (d : BitVec 5) (a : BitVec 5) (b : BitVec 5) (r : BitVec 3) (n : BitVec 1) (w : BitVec 1) : Statement (.vdivBf16 tk d a b r n w) :=
  wideV [⟨26, 6, 39⟩, ⟨24, 2, tk.pop⟩, ⟨22, 2, tk.push⟩, ⟨20, 2, 2⟩, ⟨15, 5, d⟩, ⟨10, 5, a⟩, ⟨5, 5, b⟩, ⟨2, 3, r⟩, ⟨1, 1, n⟩, ⟨0, 1, w⟩]
    rfl rfl rfl (by simp only [Tok.enc, fieldSum, Piece.sum, BitVec.ofNat_eq_ofNat, BitVec.toNat_ofNat]; omega)
    fun _ ⟨e1, e2, e3, e4, e5, e6, e7, e8, e9, e10, _⟩ => by
      rw [decodeV_39 e1, decodeV39, e4, tok_of e2 e3, bits_of e5, bits_of e6, bits_of e7, bits_of e8, bits_of e9, bits_of e10]; rfl

theorem vaddI32 (tk : Tok) (d : BitVec 5) (a : BitVec 5) (b : BitVec 5) (s : BitVec 1) (w : BitVec 1) : Statement (.vaddI32 tk d a b s w) :=
  wideV [⟨26, 6, 40⟩, ⟨24, 2, tk.pop⟩, ⟨22, 2, tk.push⟩, ⟨20, 2, 0⟩, ⟨15, 5, d⟩, ⟨10, 5, a⟩, ⟨5, 5, b⟩, ⟨2, 3, 0⟩, ⟨1, 1, s⟩, ⟨0, 1, w⟩]
    rfl rfl rfl (by simp only [Tok.enc, fieldSum, Piece.sum, BitVec.ofNat_eq_ofNat, BitVec.toNat_ofNat]; omega)
    fun _ ⟨e1, e2, e3, e4, e5, e6, e7, e8, e9, e10, _⟩ => by
      rw [decodeV_40 e1, decodeV40, e4, tok_of e2 e3, bits_of e5, bits_of e6, bits_of e7, e8, bits_of e9, bits_of e10]; rfl

theorem vsubI32 (tk : Tok) (d : BitVec 5) (a : BitVec 5) (b : BitVec 5) (s : BitVec 1) (w : BitVec 1) : Statement (.vsubI32 tk d a b s w) :=
  wideV [⟨26, 6, 40⟩, ⟨24, 2, tk.pop⟩, ⟨22, 2, tk.push⟩, ⟨20, 2, 1⟩, ⟨15, 5, d⟩, ⟨10, 5, a⟩, ⟨5, 5, b⟩, ⟨2, 3, 0⟩, ⟨1, 1, s⟩, ⟨0, 1, w⟩]
    rfl rfl rfl (by simp only [Tok.enc, fieldSum, Piece.sum, BitVec.ofNat_eq_ofNat, BitVec.toNat_ofNat]; omega)
    fun _ ⟨e1, e2, e3, e4, e5, e6, e7, e8, e9, e10, _⟩ => by
      rw [decodeV_40 e1, decodeV40, e4, tok_of e2 e3, bits_of e5, bits_of e6, bits_of e7, e8, bits_of e9, bits_of e10]; rfl

theorem vmulI32 (tk : Tok) (d : BitVec 5) (a : BitVec 5) (b : BitVec 5) (s : BitVec 1) (w : BitVec 1) : Statement (.vmulI32 tk d a b s w) :=
  wideV [⟨26, 6, 40⟩, ⟨24, 2, tk.pop⟩, ⟨22, 2, tk.push⟩, ⟨20, 2, 2⟩, ⟨15, 5, d⟩, ⟨10, 5, a⟩, ⟨5, 5, b⟩, ⟨2, 3, 0⟩, ⟨1, 1, s⟩, ⟨0, 1, w⟩]
    rfl rfl rfl (by simp only [Tok.enc, fieldSum, Piece.sum, BitVec.ofNat_eq_ofNat, BitVec.toNat_ofNat]; omega)
    fun _ ⟨e1, e2, e3, e4, e5, e6, e7, e8, e9, e10, _⟩ => by
      rw [decodeV_40 e1, decodeV40, e4, tok_of e2 e3, bits_of e5, bits_of e6, bits_of e7, e8, bits_of e9, bits_of e10]; rfl

theorem vmulhI32 (tk : Tok) (d : BitVec 5) (a : BitVec 5) (b : BitVec 5) (w : BitVec 1) : Statement (.vmulhI32 tk d a b w) :=
  wideV [⟨26, 6, 40⟩, ⟨24, 2, tk.pop⟩, ⟨22, 2, tk.push⟩, ⟨20, 2, 3⟩, ⟨15, 5, d⟩, ⟨10, 5, a⟩, ⟨5, 5, b⟩, ⟨1, 4, 0⟩, ⟨0, 1, w⟩]
    rfl rfl rfl (by simp only [Tok.enc, fieldSum, Piece.sum, BitVec.ofNat_eq_ofNat, BitVec.toNat_ofNat]; omega)
    fun _ ⟨e1, e2, e3, e4, e5, e6, e7, e8, e9, _⟩ => by
      rw [decodeV_40 e1, decodeV40, e4, tok_of e2 e3, bits_of e5, bits_of e6, bits_of e7, e8, bits_of e9]; rfl

theorem vand (tk : Tok) (d : BitVec 5) (a : BitVec 5) (b : BitVec 5) (w : BitVec 1) : Statement (.vand tk d a b w) :=
  wideV [⟨26, 6, 41⟩, ⟨24, 2, tk.pop⟩, ⟨22, 2, tk.push⟩, ⟨20, 2, 0⟩, ⟨15, 5, d⟩, ⟨10, 5, a⟩, ⟨5, 5, b⟩, ⟨1, 4, 0⟩, ⟨0, 1, w⟩]
    rfl rfl rfl (by simp only [Tok.enc, fieldSum, Piece.sum, BitVec.ofNat_eq_ofNat, BitVec.toNat_ofNat]; omega)
    fun _ ⟨e1, e2, e3, e4, e5, e6, e7, e8, e9, _⟩ => by
      rw [decodeV_41 e1, decodeV41, e4, tok_of e2 e3, bits_of e5, bits_of e6, bits_of e7, e8, bits_of e9]; rfl

theorem vor (tk : Tok) (d : BitVec 5) (a : BitVec 5) (b : BitVec 5) (w : BitVec 1) : Statement (.vor tk d a b w) :=
  wideV [⟨26, 6, 41⟩, ⟨24, 2, tk.pop⟩, ⟨22, 2, tk.push⟩, ⟨20, 2, 1⟩, ⟨15, 5, d⟩, ⟨10, 5, a⟩, ⟨5, 5, b⟩, ⟨1, 4, 0⟩, ⟨0, 1, w⟩]
    rfl rfl rfl (by simp only [Tok.enc, fieldSum, Piece.sum, BitVec.ofNat_eq_ofNat, BitVec.toNat_ofNat]; omega)
    fun _ ⟨e1, e2, e3, e4, e5, e6, e7, e8, e9, _⟩ => by
      rw [decodeV_41 e1, decodeV41, e4, tok_of e2 e3, bits_of e5, bits_of e6, bits_of e7, e8, bits_of e9]; rfl

theorem vxor (tk : Tok) (d : BitVec 5) (a : BitVec 5) (b : BitVec 5) (w : BitVec 1) : Statement (.vxor tk d a b w) :=
  wideV [⟨26, 6, 41⟩, ⟨24, 2, tk.pop⟩, ⟨22, 2, tk.push⟩, ⟨20, 2, 2⟩, ⟨15, 5, d⟩, ⟨10, 5, a⟩, ⟨5, 5, b⟩, ⟨1, 4, 0⟩, ⟨0, 1, w⟩]
    rfl rfl rfl (by simp only [Tok.enc, fieldSum, Piece.sum, BitVec.ofNat_eq_ofNat, BitVec.toNat_ofNat]; omega)
    fun _ ⟨e1, e2, e3, e4, e5, e6, e7, e8, e9, _⟩ => by
      rw [decodeV_41 e1, decodeV41, e4, tok_of e2 e3, bits_of e5, bits_of e6, bits_of e7, e8, bits_of e9]; rfl

theorem vandn (tk : Tok) (d : BitVec 5) (a : BitVec 5) (b : BitVec 5) (w : BitVec 1) : Statement (.vandn tk d a b w) :=
  wideV [⟨26, 6, 41⟩, ⟨24, 2, tk.pop⟩, ⟨22, 2, tk.push⟩, ⟨20, 2, 3⟩, ⟨15, 5, d⟩, ⟨10, 5, a⟩, ⟨5, 5, b⟩, ⟨1, 4, 0⟩, ⟨0, 1, w⟩]
    rfl rfl rfl (by simp only [Tok.enc, fieldSum, Piece.sum, BitVec.ofNat_eq_ofNat, BitVec.toNat_ofNat]; omega)
    fun _ ⟨e1, e2, e3, e4, e5, e6, e7, e8, e9, _⟩ => by
      rw [decodeV_41 e1, decodeV41, e4, tok_of e2 e3, bits_of e5, bits_of e6, bits_of e7, e8, bits_of e9]; rfl

theorem vsll (tk : Tok) (d : BitVec 5) (a : BitVec 5) (b : BitVec 5) (w : BitVec 1) : Statement (.vsll tk d a b w) :=
  wideV [⟨26, 6, 42⟩, ⟨24, 2, tk.pop⟩, ⟨22, 2, tk.push⟩, ⟨20, 2, 0⟩, ⟨15, 5, d⟩, ⟨10, 5, a⟩, ⟨5, 5, b⟩, ⟨1, 4, 0⟩, ⟨0, 1, w⟩]
    rfl rfl rfl (by simp only [Tok.enc, fieldSum, Piece.sum, BitVec.ofNat_eq_ofNat, BitVec.toNat_ofNat]; omega)
    fun _ ⟨e1, e2, e3, e4, e5, e6, e7, e8, e9, _⟩ => by
      rw [decodeV_42 e1, decodeV42, e4, tok_of e2 e3, bits_of e5, bits_of e6, bits_of e7, e8, bits_of e9]; rfl

theorem vsrl (tk : Tok) (d : BitVec 5) (a : BitVec 5) (b : BitVec 5) (w : BitVec 1) : Statement (.vsrl tk d a b w) :=
  wideV [⟨26, 6, 42⟩, ⟨24, 2, tk.pop⟩, ⟨22, 2, tk.push⟩, ⟨20, 2, 1⟩, ⟨15, 5, d⟩, ⟨10, 5, a⟩, ⟨5, 5, b⟩, ⟨1, 4, 0⟩, ⟨0, 1, w⟩]
    rfl rfl rfl (by simp only [Tok.enc, fieldSum, Piece.sum, BitVec.ofNat_eq_ofNat, BitVec.toNat_ofNat]; omega)
    fun _ ⟨e1, e2, e3, e4, e5, e6, e7, e8, e9, _⟩ => by
      rw [decodeV_42 e1, decodeV42, e4, tok_of e2 e3, bits_of e5, bits_of e6, bits_of e7, e8, bits_of e9]; rfl

theorem vsra (tk : Tok) (d : BitVec 5) (a : BitVec 5) (b : BitVec 5) (w : BitVec 1) : Statement (.vsra tk d a b w) :=
  wideV [⟨26, 6, 42⟩, ⟨24, 2, tk.pop⟩, ⟨22, 2, tk.push⟩, ⟨20, 2, 2⟩, ⟨15, 5, d⟩, ⟨10, 5, a⟩, ⟨5, 5, b⟩, ⟨1, 4, 0⟩, ⟨0, 1, w⟩]
    rfl rfl rfl (by simp only [Tok.enc, fieldSum, Piece.sum, BitVec.ofNat_eq_ofNat, BitVec.toNat_ofNat]; omega)
    fun _ ⟨e1, e2, e3, e4, e5, e6, e7, e8, e9, _⟩ => by
      rw [decodeV_42 e1, decodeV42, e4, tok_of e2 e3, bits_of e5, bits_of e6, bits_of e7, e8, bits_of e9]; rfl

theorem vaddI16 (tk : Tok) (d : BitVec 5) (a : BitVec 5) (b : BitVec 5) (s : BitVec 1) (w : BitVec 1) : Statement (.vaddI16 tk d a b s w) :=
  wideV [⟨26, 6, 43⟩, ⟨24, 2, tk.pop⟩, ⟨22, 2, tk.push⟩, ⟨20, 2, 0⟩, ⟨15, 5, d⟩, ⟨10, 5, a⟩, ⟨5, 5, b⟩, ⟨2, 3, 0⟩, ⟨1, 1, s⟩, ⟨0, 1, w⟩]
    rfl rfl rfl (by simp only [Tok.enc, fieldSum, Piece.sum, BitVec.ofNat_eq_ofNat, BitVec.toNat_ofNat]; omega)
    fun _ ⟨e1, e2, e3, e4, e5, e6, e7, e8, e9, e10, _⟩ => by
      rw [decodeV_43 e1, decodeV43, e4, tok_of e2 e3, bits_of e5, bits_of e6, bits_of e7, e8, bits_of e9, bits_of e10]; rfl

theorem vsubI16 (tk : Tok) (d : BitVec 5) (a : BitVec 5) (b : BitVec 5) (s : BitVec 1) (w : BitVec 1) : Statement (.vsubI16 tk d a b s w) :=
  wideV [⟨26, 6, 43⟩, ⟨24, 2, tk.pop⟩, ⟨22, 2, tk.push⟩, ⟨20, 2, 1⟩, ⟨15, 5, d⟩, ⟨10, 5, a⟩, ⟨5, 5, b⟩, ⟨2, 3, 0⟩, ⟨1, 1, s⟩, ⟨0, 1, w⟩]
    rfl rfl rfl (by simp only [Tok.enc, fieldSum, Piece.sum, BitVec.ofNat_eq_ofNat, BitVec.toNat_ofNat]; omega)
    fun _ ⟨e1, e2, e3, e4, e5, e6, e7, e8, e9, e10, _⟩ => by
      rw [decodeV_43 e1, decodeV43, e4, tok_of e2 e3, bits_of e5, bits_of e6, bits_of e7, e8, bits_of e9, bits_of e10]; rfl

theorem vmulI16 (tk : Tok) (d : BitVec 5) (a : BitVec 5) (b : BitVec 5) (s : BitVec 1) (w : BitVec 1) : Statement (.vmulI16 tk d a b s w) :=
  wideV [⟨26, 6, 43⟩, ⟨24, 2, tk.pop⟩, ⟨22, 2, tk.push⟩, ⟨20, 2, 2⟩, ⟨15, 5, d⟩, ⟨10, 5, a⟩, ⟨5, 5, b⟩, ⟨2, 3, 0⟩, ⟨1, 1, s⟩, ⟨0, 1, w⟩]
    rfl rfl rfl (by simp only [Tok.enc, fieldSum, Piece.sum, BitVec.ofNat_eq_ofNat, BitVec.toNat_ofNat]; omega)
    fun _ ⟨e1, e2, e3, e4, e5, e6, e7, e8, e9, e10, _⟩ => by
      rw [decodeV_43 e1, decodeV43, e4, tok_of e2 e3, bits_of e5, bits_of e6, bits_of e7, e8, bits_of e9, bits_of e10]; rfl

theorem vcmp (tk : Tok) (q : BitVec 4) (c : BitVec 3) (a : BitVec 5) (b : BitVec 5) (t : BitVec 3) (n : BitVec 1) (w : BitVec 1) : Statement (.vcmp tk q c a b t n w) :=
  wideV [⟨26, 6, 44⟩, ⟨24, 2, tk.pop⟩, ⟨22, 2, tk.push⟩, ⟨18, 4, q⟩, ⟨15, 3, c⟩, ⟨10, 5, a⟩, ⟨5, 5, b⟩, ⟨2, 3, t⟩, ⟨1, 1, n⟩, ⟨0, 1, w⟩]
    rfl rfl rfl (by simp only [Tok.enc, fieldSum, Piece.sum, BitVec.ofNat_eq_ofNat, BitVec.toNat_ofNat]; omega)
    fun _ ⟨e1, e2, e3, e4, e5, e6, e7, e8, e9, e10, _⟩ => by
      rw [decodeV_44 e1, tok_of e2 e3, bits_of e4, bits_of e5, bits_of e6, bits_of e7, bits_of e8, bits_of e9, bits_of e10]

theorem vmov (tk : Tok) (d : BitVec 5) (a : BitVec 5) (w : BitVec 1) : Statement (.vmov tk d a w) :=
  wideV [⟨26, 6, 45⟩, ⟨24, 2, tk.pop⟩, ⟨22, 2, tk.push⟩, ⟨20, 2, 0⟩, ⟨15, 5, d⟩, ⟨10, 5, a⟩, ⟨1, 9, 0⟩, ⟨0, 1, w⟩]
    rfl rfl rfl (by simp only [Tok.enc, fieldSum, Piece.sum, BitVec.ofNat_eq_ofNat, BitVec.toNat_ofNat]; omega)
    fun _ ⟨e1, e2, e3, e4, e5, e6, e7, e8, _⟩ => by
      rw [decodeV_45 e1, decodeV45, e4, tok_of e2 e3, bits_of e5, bits_of e6, e7, bits_of e8]; rfl

theorem vsel (tk : Tok) (d : BitVec 5) (a : BitVec 5) (b : BitVec 5) (w : BitVec 1) : Statement (.vsel tk d a b w) :=
  wideV [⟨26, 6, 45⟩, ⟨24, 2, tk.pop⟩, ⟨22, 2, tk.push⟩, ⟨20, 2, 1⟩, ⟨15, 5, d⟩, ⟨10, 5, a⟩, ⟨5, 5, b⟩, ⟨1, 4, 0⟩, ⟨0, 1, w⟩]
    rfl rfl rfl (by simp only [Tok.enc, fieldSum, Piece.sum, BitVec.ofNat_eq_ofNat, BitVec.toNat_ofNat]; omega)
    fun _ ⟨e1, e2, e3, e4, e5, e6, e7, e8, e9, _⟩ => by
      rw [decodeV_45 e1, decodeV45, e4, tok_of e2 e3, bits_of e5, bits_of e6, bits_of e7, e8, bits_of e9]; rfl

theorem vbcast (tk : Tok) (d : BitVec 5) (x : BitVec 4) (w : BitVec 1) : Statement (.vbcast tk d x w) :=
  wideV [⟨26, 6, 45⟩, ⟨24, 2, tk.pop⟩, ⟨22, 2, tk.push⟩, ⟨20, 2, 2⟩, ⟨15, 5, d⟩, ⟨9, 6, 0⟩, ⟨5, 4, x⟩, ⟨1, 4, 0⟩, ⟨0, 1, w⟩]
    rfl rfl rfl (by simp only [Tok.enc, fieldSum, Piece.sum, BitVec.ofNat_eq_ofNat, BitVec.toNat_ofNat]; omega)
    fun _ ⟨e1, e2, e3, e4, e5, e6, e7, e8, e9, _⟩ => by
      rw [decodeV_45 e1, decodeV45, e4, tok_of e2 e3, bits_of e5, e6, bits_of e7, e8, bits_of e9]; rfl

theorem vsqrt (tk : Tok) (t : BitVec 2) (d : BitVec 5) (a : BitVec 5) (r : BitVec 3) (n : BitVec 1) (w : BitVec 1) : Statement (.vsqrt tk t d a r n w) :=
  wideV [⟨26, 6, 46⟩, ⟨24, 2, tk.pop⟩, ⟨22, 2, tk.push⟩, ⟨17, 5, 0⟩, ⟨15, 2, t⟩, ⟨10, 5, d⟩, ⟨5, 5, a⟩, ⟨2, 3, r⟩, ⟨1, 1, n⟩, ⟨0, 1, w⟩]
    rfl rfl rfl (by simp only [Tok.enc, fieldSum, Piece.sum, BitVec.ofNat_eq_ofNat, BitVec.toNat_ofNat]; omega)
    fun _ ⟨e1, e2, e3, e4, e5, e6, e7, e8, e9, e10, _⟩ => by
      rw [decodeV_46 e1, decodeV46, e4, tok_of e2 e3, bits_of e5, bits_of e6, bits_of e7, bits_of e8, bits_of e9, bits_of e10]; rfl

theorem vrsqrt (tk : Tok) (t : BitVec 2) (d : BitVec 5) (a : BitVec 5) (r : BitVec 3) (n : BitVec 1) (w : BitVec 1) : Statement (.vrsqrt tk t d a r n w) :=
  wideV [⟨26, 6, 46⟩, ⟨24, 2, tk.pop⟩, ⟨22, 2, tk.push⟩, ⟨17, 5, 1⟩, ⟨15, 2, t⟩, ⟨10, 5, d⟩, ⟨5, 5, a⟩, ⟨2, 3, r⟩, ⟨1, 1, n⟩, ⟨0, 1, w⟩]
    rfl rfl rfl (by simp only [Tok.enc, fieldSum, Piece.sum, BitVec.ofNat_eq_ofNat, BitVec.toNat_ofNat]; omega)
    fun _ ⟨e1, e2, e3, e4, e5, e6, e7, e8, e9, e10, _⟩ => by
      rw [decodeV_46 e1, decodeV46, e4, tok_of e2 e3, bits_of e5, bits_of e6, bits_of e7, bits_of e8, bits_of e9, bits_of e10]; rfl

theorem vexp2 (tk : Tok) (t : BitVec 2) (d : BitVec 5) (a : BitVec 5) (r : BitVec 3) (n : BitVec 1) (w : BitVec 1) : Statement (.vexp2 tk t d a r n w) :=
  wideV [⟨26, 6, 46⟩, ⟨24, 2, tk.pop⟩, ⟨22, 2, tk.push⟩, ⟨17, 5, 2⟩, ⟨15, 2, t⟩, ⟨10, 5, d⟩, ⟨5, 5, a⟩, ⟨2, 3, r⟩, ⟨1, 1, n⟩, ⟨0, 1, w⟩]
    rfl rfl rfl (by simp only [Tok.enc, fieldSum, Piece.sum, BitVec.ofNat_eq_ofNat, BitVec.toNat_ofNat]; omega)
    fun _ ⟨e1, e2, e3, e4, e5, e6, e7, e8, e9, e10, _⟩ => by
      rw [decodeV_46 e1, decodeV46, e4, tok_of e2 e3, bits_of e5, bits_of e6, bits_of e7, bits_of e8, bits_of e9, bits_of e10]; rfl

theorem vlog2 (tk : Tok) (t : BitVec 2) (d : BitVec 5) (a : BitVec 5) (r : BitVec 3) (n : BitVec 1) (w : BitVec 1) : Statement (.vlog2 tk t d a r n w) :=
  wideV [⟨26, 6, 46⟩, ⟨24, 2, tk.pop⟩, ⟨22, 2, tk.push⟩, ⟨17, 5, 3⟩, ⟨15, 2, t⟩, ⟨10, 5, d⟩, ⟨5, 5, a⟩, ⟨2, 3, r⟩, ⟨1, 1, n⟩, ⟨0, 1, w⟩]
    rfl rfl rfl (by simp only [Tok.enc, fieldSum, Piece.sum, BitVec.ofNat_eq_ofNat, BitVec.toNat_ofNat]; omega)
    fun _ ⟨e1, e2, e3, e4, e5, e6, e7, e8, e9, e10, _⟩ => by
      rw [decodeV_46 e1, decodeV46, e4, tok_of e2 e3, bits_of e5, bits_of e6, bits_of e7, bits_of e8, bits_of e9, bits_of e10]; rfl

theorem vexp (tk : Tok) (t : BitVec 2) (d : BitVec 5) (a : BitVec 5) (r : BitVec 3) (n : BitVec 1) (w : BitVec 1) : Statement (.vexp tk t d a r n w) :=
  wideV [⟨26, 6, 46⟩, ⟨24, 2, tk.pop⟩, ⟨22, 2, tk.push⟩, ⟨17, 5, 4⟩, ⟨15, 2, t⟩, ⟨10, 5, d⟩, ⟨5, 5, a⟩, ⟨2, 3, r⟩, ⟨1, 1, n⟩, ⟨0, 1, w⟩]
    rfl rfl rfl (by simp only [Tok.enc, fieldSum, Piece.sum, BitVec.ofNat_eq_ofNat, BitVec.toNat_ofNat]; omega)
    fun _ ⟨e1, e2, e3, e4, e5, e6, e7, e8, e9, e10, _⟩ => by
      rw [decodeV_46 e1, decodeV46, e4, tok_of e2 e3, bits_of e5, bits_of e6, bits_of e7, bits_of e8, bits_of e9, bits_of e10]; rfl

theorem vln (tk : Tok) (t : BitVec 2) (d : BitVec 5) (a : BitVec 5) (r : BitVec 3) (n : BitVec 1) (w : BitVec 1) : Statement (.vln tk t d a r n w) :=
  wideV [⟨26, 6, 46⟩, ⟨24, 2, tk.pop⟩, ⟨22, 2, tk.push⟩, ⟨17, 5, 5⟩, ⟨15, 2, t⟩, ⟨10, 5, d⟩, ⟨5, 5, a⟩, ⟨2, 3, r⟩, ⟨1, 1, n⟩, ⟨0, 1, w⟩]
    rfl rfl rfl (by simp only [Tok.enc, fieldSum, Piece.sum, BitVec.ofNat_eq_ofNat, BitVec.toNat_ofNat]; omega)
    fun _ ⟨e1, e2, e3, e4, e5, e6, e7, e8, e9, e10, _⟩ => by
      rw [decodeV_46 e1, decodeV46, e4, tok_of e2 e3, bits_of e5, bits_of e6, bits_of e7, bits_of e8, bits_of e9, bits_of e10]; rfl

theorem vsin (tk : Tok) (t : BitVec 2) (d : BitVec 5) (a : BitVec 5) (r : BitVec 3) (n : BitVec 1) (w : BitVec 1) : Statement (.vsin tk t d a r n w) :=
  wideV [⟨26, 6, 46⟩, ⟨24, 2, tk.pop⟩, ⟨22, 2, tk.push⟩, ⟨17, 5, 6⟩, ⟨15, 2, t⟩, ⟨10, 5, d⟩, ⟨5, 5, a⟩, ⟨2, 3, r⟩, ⟨1, 1, n⟩, ⟨0, 1, w⟩]
    rfl rfl rfl (by simp only [Tok.enc, fieldSum, Piece.sum, BitVec.ofNat_eq_ofNat, BitVec.toNat_ofNat]; omega)
    fun _ ⟨e1, e2, e3, e4, e5, e6, e7, e8, e9, e10, _⟩ => by
      rw [decodeV_46 e1, decodeV46, e4, tok_of e2 e3, bits_of e5, bits_of e6, bits_of e7, bits_of e8, bits_of e9, bits_of e10]; rfl

theorem vcos (tk : Tok) (t : BitVec 2) (d : BitVec 5) (a : BitVec 5) (r : BitVec 3) (n : BitVec 1) (w : BitVec 1) : Statement (.vcos tk t d a r n w) :=
  wideV [⟨26, 6, 46⟩, ⟨24, 2, tk.pop⟩, ⟨22, 2, tk.push⟩, ⟨17, 5, 7⟩, ⟨15, 2, t⟩, ⟨10, 5, d⟩, ⟨5, 5, a⟩, ⟨2, 3, r⟩, ⟨1, 1, n⟩, ⟨0, 1, w⟩]
    rfl rfl rfl (by simp only [Tok.enc, fieldSum, Piece.sum, BitVec.ofNat_eq_ofNat, BitVec.toNat_ofNat]; omega)
    fun _ ⟨e1, e2, e3, e4, e5, e6, e7, e8, e9, e10, _⟩ => by
      rw [decodeV_46 e1, decodeV46, e4, tok_of e2 e3, bits_of e5, bits_of e6, bits_of e7, bits_of e8, bits_of e9, bits_of e10]; rfl

theorem vtanh (tk : Tok) (t : BitVec 2) (d : BitVec 5) (a : BitVec 5) (r : BitVec 3) (n : BitVec 1) (w : BitVec 1) : Statement (.vtanh tk t d a r n w) :=
  wideV [⟨26, 6, 46⟩, ⟨24, 2, tk.pop⟩, ⟨22, 2, tk.push⟩, ⟨17, 5, 8⟩, ⟨15, 2, t⟩, ⟨10, 5, d⟩, ⟨5, 5, a⟩, ⟨2, 3, r⟩, ⟨1, 1, n⟩, ⟨0, 1, w⟩]
    rfl rfl rfl (by simp only [Tok.enc, fieldSum, Piece.sum, BitVec.ofNat_eq_ofNat, BitVec.toNat_ofNat]; omega)
    fun _ ⟨e1, e2, e3, e4, e5, e6, e7, e8, e9, e10, _⟩ => by
      rw [decodeV_46 e1, decodeV46, e4, tok_of e2 e3, bits_of e5, bits_of e6, bits_of e7, bits_of e8, bits_of e9, bits_of e10]; rfl

theorem verf (tk : Tok) (t : BitVec 2) (d : BitVec 5) (a : BitVec 5) (r : BitVec 3) (n : BitVec 1) (w : BitVec 1) : Statement (.verf tk t d a r n w) :=
  wideV [⟨26, 6, 46⟩, ⟨24, 2, tk.pop⟩, ⟨22, 2, tk.push⟩, ⟨17, 5, 9⟩, ⟨15, 2, t⟩, ⟨10, 5, d⟩, ⟨5, 5, a⟩, ⟨2, 3, r⟩, ⟨1, 1, n⟩, ⟨0, 1, w⟩]
    rfl rfl rfl (by simp only [Tok.enc, fieldSum, Piece.sum, BitVec.ofNat_eq_ofNat, BitVec.toNat_ofNat]; omega)
    fun _ ⟨e1, e2, e3, e4, e5, e6, e7, e8, e9, e10, _⟩ => by
      rw [decodeV_46 e1, decodeV46, e4, tok_of e2 e3, bits_of e5, bits_of e6, bits_of e7, bits_of e8, bits_of e9, bits_of e10]; rfl

theorem vrcp (tk : Tok) (t : BitVec 2) (d : BitVec 5) (a : BitVec 5) (r : BitVec 3) (n : BitVec 1) (w : BitVec 1) : Statement (.vrcp tk t d a r n w) :=
  wideV [⟨26, 6, 46⟩, ⟨24, 2, tk.pop⟩, ⟨22, 2, tk.push⟩, ⟨17, 5, 10⟩, ⟨15, 2, t⟩, ⟨10, 5, d⟩, ⟨5, 5, a⟩, ⟨2, 3, r⟩, ⟨1, 1, n⟩, ⟨0, 1, w⟩]
    rfl rfl rfl (by simp only [Tok.enc, fieldSum, Piece.sum, BitVec.ofNat_eq_ofNat, BitVec.toNat_ofNat]; omega)
    fun _ ⟨e1, e2, e3, e4, e5, e6, e7, e8, e9, e10, _⟩ => by
      rw [decodeV_46 e1, decodeV46, e4, tok_of e2 e3, bits_of e5, bits_of e6, bits_of e7, bits_of e8, bits_of e9, bits_of e10]; rfl

theorem vcvtF32 (tk : Tok) (f : BitVec 5) (e : BitVec 1) (d : BitVec 5) (a : BitVec 5) (r : BitVec 3) (n : BitVec 1) (s : BitVec 1) (w : BitVec 1) : Statement (.vcvtF32 tk f e d a r n s w) :=
  wideV [⟨26, 6, 47⟩, ⟨24, 2, tk.pop⟩, ⟨22, 2, tk.push⟩, ⟨17, 5, f⟩, ⟨16, 1, e⟩, ⟨11, 5, d⟩, ⟨6, 5, a⟩, ⟨3, 3, r⟩, ⟨2, 1, n⟩, ⟨1, 1, s⟩, ⟨0, 1, w⟩]
    rfl rfl rfl (by simp only [Tok.enc, fieldSum, Piece.sum, BitVec.ofNat_eq_ofNat, BitVec.toNat_ofNat]; omega)
    fun _ ⟨e1, e2, e3, e4, e5, e6, e7, e8, e9, e10, e11, _⟩ => by
      rw [decodeV_47 e1, tok_of e2 e3, bits_of e4, bits_of e5, bits_of e6, bits_of e7, bits_of e8, bits_of e9, bits_of e10, bits_of e11]

theorem vcvtF64 (tk : Tok) (f : BitVec 5) (e : BitVec 1) (d : BitVec 5) (a : BitVec 5) (r : BitVec 3) (n : BitVec 1) (s : BitVec 1) (w : BitVec 1) : Statement (.vcvtF64 tk f e d a r n s w) :=
  wideV [⟨26, 6, 48⟩, ⟨24, 2, tk.pop⟩, ⟨22, 2, tk.push⟩, ⟨17, 5, f⟩, ⟨16, 1, e⟩, ⟨11, 5, d⟩, ⟨6, 5, a⟩, ⟨3, 3, r⟩, ⟨2, 1, n⟩, ⟨1, 1, s⟩, ⟨0, 1, w⟩]
    rfl rfl rfl (by simp only [Tok.enc, fieldSum, Piece.sum, BitVec.ofNat_eq_ofNat, BitVec.toNat_ofNat]; omega)
    fun _ ⟨e1, e2, e3, e4, e5, e6, e7, e8, e9, e10, e11, _⟩ => by
      rw [decodeV_48 e1, tok_of e2 e3, bits_of e4, bits_of e5, bits_of e6, bits_of e7, bits_of e8, bits_of e9, bits_of e10, bits_of e11]

theorem vcvtI32 (tk : Tok) (f : BitVec 5) (e : BitVec 1) (d : BitVec 5) (a : BitVec 5) (r : BitVec 3) (n : BitVec 1) (s : BitVec 1) (w : BitVec 1) : Statement (.vcvtI32 tk f e d a r n s w) :=
  wideV [⟨26, 6, 49⟩, ⟨24, 2, tk.pop⟩, ⟨22, 2, tk.push⟩, ⟨17, 5, f⟩, ⟨16, 1, e⟩, ⟨11, 5, d⟩, ⟨6, 5, a⟩, ⟨3, 3, r⟩, ⟨2, 1, n⟩, ⟨1, 1, s⟩, ⟨0, 1, w⟩]
    rfl rfl rfl (by simp only [Tok.enc, fieldSum, Piece.sum, BitVec.ofNat_eq_ofNat, BitVec.toNat_ofNat]; omega)
    fun _ ⟨e1, e2, e3, e4, e5, e6, e7, e8, e9, e10, e11, _⟩ => by
      rw [decodeV_49 e1, tok_of e2 e3, bits_of e4, bits_of e5, bits_of e6, bits_of e7, bits_of e8, bits_of e9, bits_of e10, bits_of e11]

theorem vquant (tk : Tok) (f : BitVec 5) (d : BitVec 5) (a : BitVec 5) (r : BitVec 3) (n : BitVec 1) (w : BitVec 1) : Statement (.vquant tk f d a r n w) :=
  wideV [⟨26, 6, 50⟩, ⟨24, 2, tk.pop⟩, ⟨22, 2, tk.push⟩, ⟨17, 5, f⟩, ⟨12, 5, d⟩, ⟨7, 5, a⟩, ⟨4, 3, r⟩, ⟨3, 1, n⟩, ⟨2, 1, w⟩, ⟨1, 1, 0⟩, ⟨0, 1, 0⟩]
    rfl rfl rfl (by simp only [Tok.enc, fieldSum, Piece.sum, BitVec.ofNat_eq_ofNat, BitVec.toNat_ofNat]; omega)
    fun _ ⟨e1, e2, e3, e4, e5, e6, e7, e8, e9, e10, e11, _⟩ => by
      rw [decodeV_50 e1, decodeV50, e10, tok_of e2 e3, bits_of e4, bits_of e5, bits_of e6, bits_of e7, bits_of e8, bits_of e9, e11]; rfl

theorem vexpand (tk : Tok) (f : BitVec 5) (d : BitVec 5) (a : BitVec 5) (r : BitVec 3) (n : BitVec 1) (w : BitVec 1) : Statement (.vexpand tk f d a r n w) :=
  wideV [⟨26, 6, 50⟩, ⟨24, 2, tk.pop⟩, ⟨22, 2, tk.push⟩, ⟨17, 5, f⟩, ⟨12, 5, d⟩, ⟨7, 5, a⟩, ⟨4, 3, r⟩, ⟨3, 1, n⟩, ⟨2, 1, w⟩, ⟨1, 1, 1⟩, ⟨0, 1, 0⟩]
    rfl rfl rfl (by simp only [Tok.enc, fieldSum, Piece.sum, BitVec.ofNat_eq_ofNat, BitVec.toNat_ofNat]; omega)
    fun _ ⟨e1, e2, e3, e4, e5, e6, e7, e8, e9, e10, e11, _⟩ => by
      rw [decodeV_50 e1, decodeV50, e10, tok_of e2 e3, bits_of e4, bits_of e5, bits_of e6, bits_of e7, bits_of e8, bits_of e9, e11]; rfl

theorem vrsum (tk : Tok) (t : BitVec 3) (d : BitVec 5) (a : BitVec 5) (r : BitVec 3) (n : BitVec 1) (w : BitVec 1) : Statement (.vrsum tk t d a r n w) :=
  wideV [⟨26, 6, 51⟩, ⟨24, 2, tk.pop⟩, ⟨22, 2, tk.push⟩, ⟨18, 4, 0⟩, ⟨15, 3, t⟩, ⟨10, 5, d⟩, ⟨5, 5, a⟩, ⟨2, 3, r⟩, ⟨1, 1, n⟩, ⟨0, 1, w⟩]
    rfl rfl rfl (by simp only [Tok.enc, fieldSum, Piece.sum, BitVec.ofNat_eq_ofNat, BitVec.toNat_ofNat]; omega)
    fun _ ⟨e1, e2, e3, e4, e5, e6, e7, e8, e9, e10, _⟩ => by
      rw [decodeV_51 e1, decodeV51, e4, tok_of e2 e3, bits_of e5, bits_of e6, bits_of e7, bits_of e8, bits_of e9, bits_of e10]; rfl

theorem vrmax (tk : Tok) (t : BitVec 3) (d : BitVec 5) (a : BitVec 5) (r : BitVec 3) (n : BitVec 1) (w : BitVec 1) : Statement (.vrmax tk t d a r n w) :=
  wideV [⟨26, 6, 51⟩, ⟨24, 2, tk.pop⟩, ⟨22, 2, tk.push⟩, ⟨18, 4, 1⟩, ⟨15, 3, t⟩, ⟨10, 5, d⟩, ⟨5, 5, a⟩, ⟨2, 3, r⟩, ⟨1, 1, n⟩, ⟨0, 1, w⟩]
    rfl rfl rfl (by simp only [Tok.enc, fieldSum, Piece.sum, BitVec.ofNat_eq_ofNat, BitVec.toNat_ofNat]; omega)
    fun _ ⟨e1, e2, e3, e4, e5, e6, e7, e8, e9, e10, _⟩ => by
      rw [decodeV_51 e1, decodeV51, e4, tok_of e2 e3, bits_of e5, bits_of e6, bits_of e7, bits_of e8, bits_of e9, bits_of e10]; rfl

theorem vrmin (tk : Tok) (t : BitVec 3) (d : BitVec 5) (a : BitVec 5) (r : BitVec 3) (n : BitVec 1) (w : BitVec 1) : Statement (.vrmin tk t d a r n w) :=
  wideV [⟨26, 6, 51⟩, ⟨24, 2, tk.pop⟩, ⟨22, 2, tk.push⟩, ⟨18, 4, 2⟩, ⟨15, 3, t⟩, ⟨10, 5, d⟩, ⟨5, 5, a⟩, ⟨2, 3, r⟩, ⟨1, 1, n⟩, ⟨0, 1, w⟩]
    rfl rfl rfl (by simp only [Tok.enc, fieldSum, Piece.sum, BitVec.ofNat_eq_ofNat, BitVec.toNat_ofNat]; omega)
    fun _ ⟨e1, e2, e3, e4, e5, e6, e7, e8, e9, e10, _⟩ => by
      rw [decodeV_51 e1, decodeV51, e4, tok_of e2 e3, bits_of e5, bits_of e6, bits_of e7, bits_of e8, bits_of e9, bits_of e10]; rfl

theorem vbcl (tk : Tok) (z : BitVec 2) (d : BitVec 5) (a : BitVec 5) (w : BitVec 1) (i : BitVec 7) : Statement (.vbcl tk z d a w i) :=
  wideV [⟨26, 6, 52⟩, ⟨24, 2, tk.pop⟩, ⟨22, 2, tk.push⟩, ⟨20, 2, 0⟩, ⟨18, 2, z⟩, ⟨13, 5, d⟩, ⟨8, 5, a⟩, ⟨7, 1, w⟩, ⟨0, 7, i⟩]
    rfl rfl rfl (by simp only [Tok.enc, fieldSum, Piece.sum, BitVec.ofNat_eq_ofNat, BitVec.toNat_ofNat]; omega)
    fun _ ⟨e1, e2, e3, e4, e5, e6, e7, e8, e9, _⟩ => by
      rw [decodeV_52 e1, decodeV52, e4, tok_of e2 e3, bits_of e5, bits_of e6, bits_of e7, bits_of e8, bits_of e9]; rfl

theorem vrotl (tk : Tok) (z : BitVec 2) (d : BitVec 5) (a : BitVec 5) (w : BitVec 1) (i : BitVec 7) : Statement (.vrotl tk z d a w i) :=
  wideV [⟨26, 6, 52⟩, ⟨24, 2, tk.pop⟩, ⟨22, 2, tk.push⟩, ⟨20, 2, 1⟩, ⟨18, 2, z⟩, ⟨13, 5, d⟩, ⟨8, 5, a⟩, ⟨7, 1, w⟩, ⟨0, 7, i⟩]
    rfl rfl rfl (by simp only [Tok.enc, fieldSum, Piece.sum, BitVec.ofNat_eq_ofNat, BitVec.toNat_ofNat]; omega)
    fun _ ⟨e1, e2, e3, e4, e5, e6, e7, e8, e9, _⟩ => by
      rw [decodeV_52 e1, decodeV52, e4, tok_of e2 e3, bits_of e5, bits_of e6, bits_of e7, bits_of e8, bits_of e9]; rfl

theorem vshuf (tk : Tok) (z : BitVec 2) (d : BitVec 5) (a : BitVec 5) (w : BitVec 1) (b : BitVec 5) : Statement (.vshuf tk z d a w b) :=
  wideV [⟨26, 6, 52⟩, ⟨24, 2, tk.pop⟩, ⟨22, 2, tk.push⟩, ⟨20, 2, 2⟩, ⟨18, 2, z⟩, ⟨13, 5, d⟩, ⟨8, 5, a⟩, ⟨7, 1, w⟩, ⟨5, 2, 0⟩, ⟨0, 5, b⟩]
    rfl rfl rfl (by simp only [Tok.enc, fieldSum, Piece.sum, BitVec.ofNat_eq_ofNat, BitVec.toNat_ofNat]; omega)
    fun _ ⟨e1, e2, e3, e4, e5, e6, e7, e8, e9, e10, _⟩ => by
      rw [decodeV_52 e1, decodeV52, e4, tok_of e2 e3, bits_of e5, bits_of e6, bits_of e7, bits_of e8, e9, bits_of e10]; rfl

theorem vzip (tk : Tok) (z : BitVec 2) (d : BitVec 5) (a : BitVec 5) (w : BitVec 1) : Statement (.vzip tk z d a w) :=
  wideV [⟨26, 6, 52⟩, ⟨24, 2, tk.pop⟩, ⟨22, 2, tk.push⟩, ⟨20, 2, 3⟩, ⟨18, 2, z⟩, ⟨13, 5, d⟩, ⟨8, 5, a⟩, ⟨7, 1, w⟩, ⟨0, 7, 0⟩]
    rfl rfl rfl (by simp only [Tok.enc, fieldSum, Piece.sum, BitVec.ofNat_eq_ofNat, BitVec.toNat_ofNat]; omega)
    fun _ ⟨e1, e2, e3, e4, e5, e6, e7, e8, e9, _⟩ => by
      rw [decodeV_52 e1, decodeV52, e4, tok_of e2 e3, bits_of e5, bits_of e6, bits_of e7, bits_of e8, e9]; rfl

theorem vldr (tk : Tok) (u : BitVec 2) (x : BitVec 4) (d : BitVec 5) (w : BitVec 1) : Statement (.vldr tk u x d w) :=
  wideV [⟨26, 6, 53⟩, ⟨24, 2, tk.pop⟩, ⟨22, 2, tk.push⟩, ⟨20, 2, 0⟩, ⟨18, 2, u⟩, ⟨14, 4, x⟩, ⟨9, 5, d⟩, ⟨8, 1, w⟩, ⟨0, 8, 0⟩]
    rfl rfl rfl (by simp only [Tok.enc, fieldSum, Piece.sum, BitVec.ofNat_eq_ofNat, BitVec.toNat_ofNat]; omega)
    fun _ ⟨e1, e2, e3, e4, e5, e6, e7, e8, e9, _⟩ => by
      rw [decodeV_53 e1, decodeV53, e4, tok_of e2 e3, bits_of e5, bits_of e6, bits_of e7, bits_of e8, e9]; rfl

theorem vstr (tk : Tok) (u : BitVec 2) (x : BitVec 4) (d : BitVec 5) (w : BitVec 1) : Statement (.vstr tk u x d w) :=
  wideV [⟨26, 6, 53⟩, ⟨24, 2, tk.pop⟩, ⟨22, 2, tk.push⟩, ⟨20, 2, 1⟩, ⟨18, 2, u⟩, ⟨14, 4, x⟩, ⟨9, 5, d⟩, ⟨8, 1, w⟩, ⟨0, 8, 0⟩]
    rfl rfl rfl (by simp only [Tok.enc, fieldSum, Piece.sum, BitVec.ofNat_eq_ofNat, BitVec.toNat_ofNat]; omega)
    fun _ ⟨e1, e2, e3, e4, e5, e6, e7, e8, e9, _⟩ => by
      rw [decodeV_53 e1, decodeV53, e4, tok_of e2 e3, bits_of e5, bits_of e6, bits_of e7, bits_of e8, e9]; rfl

theorem vldG (tk : Tok) (z : BitVec 2) (x : BitVec 4) (d : BitVec 5) (c : BitVec 4) (s : BitVec 3) (l : BitVec 2) (w : BitVec 1) : Statement (.vldG tk z x d c s l w) :=
  wideV [⟨26, 6, 54⟩, ⟨24, 2, tk.pop⟩, ⟨22, 2, tk.push⟩, ⟨21, 1, 0⟩, ⟨19, 2, z⟩, ⟨15, 4, x⟩, ⟨10, 5, d⟩, ⟨6, 4, c⟩, ⟨3, 3, s⟩, ⟨1, 2, l⟩, ⟨0, 1, w⟩]
    rfl rfl rfl (by simp only [Tok.enc, fieldSum, Piece.sum, BitVec.ofNat_eq_ofNat, BitVec.toNat_ofNat]; omega)
    fun _ ⟨e1, e2, e3, e4, e5, e6, e7, e8, e9, e10, e11, _⟩ => by
      rw [decodeV_54 e1, decodeV54, e4, tok_of e2 e3, bits_of e5, bits_of e6, bits_of e7, bits_of e8, bits_of e9, bits_of e10, bits_of e11]; rfl

theorem vstG (tk : Tok) (z : BitVec 2) (x : BitVec 4) (d : BitVec 5) (c : BitVec 4) (s : BitVec 3) (l : BitVec 2) (w : BitVec 1) : Statement (.vstG tk z x d c s l w) :=
  wideV [⟨26, 6, 54⟩, ⟨24, 2, tk.pop⟩, ⟨22, 2, tk.push⟩, ⟨21, 1, 1⟩, ⟨19, 2, z⟩, ⟨15, 4, x⟩, ⟨10, 5, d⟩, ⟨6, 4, c⟩, ⟨3, 3, s⟩, ⟨1, 2, l⟩, ⟨0, 1, w⟩]
    rfl rfl rfl (by simp only [Tok.enc, fieldSum, Piece.sum, BitVec.ofNat_eq_ofNat, BitVec.toNat_ofNat]; omega)
    fun _ ⟨e1, e2, e3, e4, e5, e6, e7, e8, e9, e10, e11, _⟩ => by
      rw [decodeV_54 e1, decodeV54, e4, tok_of e2 e3, bits_of e5, bits_of e6, bits_of e7, bits_of e8, bits_of e9, bits_of e10, bits_of e11]; rfl

theorem vldSg (tk : Tok) (z : BitVec 2) (x : BitVec 4) (d : BitVec 5) (c : BitVec 4) (s : BitVec 3) (w : BitVec 1) : Statement (.vldSg tk z x d c s w) :=
  wideV [⟨26, 6, 55⟩, ⟨24, 2, tk.pop⟩, ⟨22, 2, tk.push⟩, ⟨21, 1, 0⟩, ⟨19, 2, z⟩, ⟨15, 4, x⟩, ⟨10, 5, d⟩, ⟨6, 4, c⟩, ⟨3, 3, s⟩, ⟨1, 2, 0⟩, ⟨0, 1, w⟩]
    rfl rfl rfl (by simp only [Tok.enc, fieldSum, Piece.sum, BitVec.ofNat_eq_ofNat, BitVec.toNat_ofNat]; omega)
    fun _ ⟨e1, e2, e3, e4, e5, e6, e7, e8, e9, e10, e11, _⟩ => by
      rw [decodeV_55 e1, decodeV55, e4, tok_of e2 e3, bits_of e5, bits_of e6, bits_of e7, bits_of e8, bits_of e9, e10, bits_of e11]; rfl

theorem vstSg (tk : Tok) (z : BitVec 2) (x : BitVec 4) (d : BitVec 5) (c : BitVec 4) (s : BitVec 3) (w : BitVec 1) : Statement (.vstSg tk z x d c s w) :=
  wideV [⟨26, 6, 55⟩, ⟨24, 2, tk.pop⟩, ⟨22, 2, tk.push⟩, ⟨21, 1, 1⟩, ⟨19, 2, z⟩, ⟨15, 4, x⟩, ⟨10, 5, d⟩, ⟨6, 4, c⟩, ⟨3, 3, s⟩, ⟨1, 2, 0⟩, ⟨0, 1, w⟩]
    rfl rfl rfl (by simp only [Tok.enc, fieldSum, Piece.sum, BitVec.ofNat_eq_ofNat, BitVec.toNat_ofNat]; omega)
    fun _ ⟨e1, e2, e3, e4, e5, e6, e7, e8, e9, e10, e11, _⟩ => by
      rw [decodeV_55 e1, decodeV55, e4, tok_of e2 e3, bits_of e5, bits_of e6, bits_of e7, bits_of e8, bits_of e9, e10, bits_of e11]; rfl

theorem vgath (tk : Tok) (z : BitVec 2) (u : BitVec 1) (d : BitVec 5) (i : BitVec 5) (x : BitVec 4) (w : BitVec 1) : Statement (.vgath tk z u d i x w) :=
  wideV [⟨26, 6, 56⟩, ⟨24, 2, tk.pop⟩, ⟨22, 2, tk.push⟩, ⟨21, 1, 0⟩, ⟨19, 2, z⟩, ⟨18, 1, u⟩, ⟨13, 5, d⟩, ⟨8, 5, i⟩, ⟨4, 4, x⟩, ⟨3, 1, w⟩, ⟨0, 3, 0⟩]
    rfl rfl rfl (by simp only [Tok.enc, fieldSum, Piece.sum, BitVec.ofNat_eq_ofNat, BitVec.toNat_ofNat]; omega)
    fun _ ⟨e1, e2, e3, e4, e5, e6, e7, e8, e9, e10, e11, _⟩ => by
      rw [decodeV_56 e1, decodeV56, e4, tok_of e2 e3, bits_of e5, bits_of e6, bits_of e7, bits_of e8, bits_of e9, bits_of e10, e11]; rfl

theorem vscat (tk : Tok) (z : BitVec 2) (u : BitVec 1) (d : BitVec 5) (i : BitVec 5) (x : BitVec 4) (w : BitVec 1) : Statement (.vscat tk z u d i x w) :=
  wideV [⟨26, 6, 56⟩, ⟨24, 2, tk.pop⟩, ⟨22, 2, tk.push⟩, ⟨21, 1, 1⟩, ⟨19, 2, z⟩, ⟨18, 1, u⟩, ⟨13, 5, d⟩, ⟨8, 5, i⟩, ⟨4, 4, x⟩, ⟨3, 1, w⟩, ⟨0, 3, 0⟩]
    rfl rfl rfl (by simp only [Tok.enc, fieldSum, Piece.sum, BitVec.ofNat_eq_ofNat, BitVec.toNat_ofNat]; omega)
    fun _ ⟨e1, e2, e3, e4, e5, e6, e7, e8, e9, e10, e11, _⟩ => by
      rw [decodeV_56 e1, decodeV56, e4, tok_of e2 e3, bits_of e5, bits_of e6, bits_of e7, bits_of e8, bits_of e9, bits_of e10, e11]; rfl

theorem pand (tk : Tok) (d : BitVec 4) (a : BitVec 4) (b : BitVec 4) : Statement (.pand tk d a b) :=
  wideV [⟨26, 6, 57⟩, ⟨24, 2, tk.pop⟩, ⟨22, 2, tk.push⟩, ⟨18, 4, d⟩, ⟨14, 4, a⟩, ⟨10, 4, b⟩, ⟨7, 3, 0⟩, ⟨0, 7, 0⟩]
    rfl rfl rfl (by simp only [Tok.enc, fieldSum, Piece.sum, BitVec.ofNat_eq_ofNat, BitVec.toNat_ofNat]; omega)
    fun _ ⟨e1, e2, e3, e4, e5, e6, e7, e8, _⟩ => by
      rw [decodeV_57 e1, decodeV57, e7, tok_of e2 e3, bits_of e4, bits_of e5, bits_of e6, e8]; rfl

theorem por (tk : Tok) (d : BitVec 4) (a : BitVec 4) (b : BitVec 4) : Statement (.por tk d a b) :=
  wideV [⟨26, 6, 57⟩, ⟨24, 2, tk.pop⟩, ⟨22, 2, tk.push⟩, ⟨18, 4, d⟩, ⟨14, 4, a⟩, ⟨10, 4, b⟩, ⟨7, 3, 1⟩, ⟨0, 7, 0⟩]
    rfl rfl rfl (by simp only [Tok.enc, fieldSum, Piece.sum, BitVec.ofNat_eq_ofNat, BitVec.toNat_ofNat]; omega)
    fun _ ⟨e1, e2, e3, e4, e5, e6, e7, e8, _⟩ => by
      rw [decodeV_57 e1, decodeV57, e7, tok_of e2 e3, bits_of e4, bits_of e5, bits_of e6, e8]; rfl

theorem pxor (tk : Tok) (d : BitVec 4) (a : BitVec 4) (b : BitVec 4) : Statement (.pxor tk d a b) :=
  wideV [⟨26, 6, 57⟩, ⟨24, 2, tk.pop⟩, ⟨22, 2, tk.push⟩, ⟨18, 4, d⟩, ⟨14, 4, a⟩, ⟨10, 4, b⟩, ⟨7, 3, 2⟩, ⟨0, 7, 0⟩]
    rfl rfl rfl (by simp only [Tok.enc, fieldSum, Piece.sum, BitVec.ofNat_eq_ofNat, BitVec.toNat_ofNat]; omega)
    fun _ ⟨e1, e2, e3, e4, e5, e6, e7, e8, _⟩ => by
      rw [decodeV_57 e1, decodeV57, e7, tok_of e2 e3, bits_of e4, bits_of e5, bits_of e6, e8]; rfl

theorem pandn (tk : Tok) (d : BitVec 4) (a : BitVec 4) (b : BitVec 4) : Statement (.pandn tk d a b) :=
  wideV [⟨26, 6, 57⟩, ⟨24, 2, tk.pop⟩, ⟨22, 2, tk.push⟩, ⟨18, 4, d⟩, ⟨14, 4, a⟩, ⟨10, 4, b⟩, ⟨7, 3, 3⟩, ⟨0, 7, 0⟩]
    rfl rfl rfl (by simp only [Tok.enc, fieldSum, Piece.sum, BitVec.ofNat_eq_ofNat, BitVec.toNat_ofNat]; omega)
    fun _ ⟨e1, e2, e3, e4, e5, e6, e7, e8, _⟩ => by
      rw [decodeV_57 e1, decodeV57, e7, tok_of e2 e3, bits_of e4, bits_of e5, bits_of e6, e8]; rfl

theorem pnot (tk : Tok) (d : BitVec 4) (a : BitVec 4) : Statement (.pnot tk d a) :=
  wideV [⟨26, 6, 57⟩, ⟨24, 2, tk.pop⟩, ⟨22, 2, tk.push⟩, ⟨18, 4, d⟩, ⟨14, 4, a⟩, ⟨10, 4, 0⟩, ⟨7, 3, 4⟩, ⟨0, 7, 0⟩]
    rfl rfl rfl (by simp only [Tok.enc, fieldSum, Piece.sum, BitVec.ofNat_eq_ofNat, BitVec.toNat_ofNat]; omega)
    fun _ ⟨e1, e2, e3, e4, e5, e6, e7, e8, _⟩ => by
      rw [decodeV_57 e1, decodeV57, e7, tok_of e2 e3, bits_of e4, bits_of e5, e6, e8]; rfl

theorem pset (tk : Tok) (d : BitVec 4) : Statement (.pset tk d) :=
  wideV [⟨26, 6, 57⟩, ⟨24, 2, tk.pop⟩, ⟨22, 2, tk.push⟩, ⟨18, 4, d⟩, ⟨10, 8, 0⟩, ⟨7, 3, 5⟩, ⟨0, 7, 0⟩]
    rfl rfl rfl (by simp only [Tok.enc, fieldSum, Piece.sum, BitVec.ofNat_eq_ofNat, BitVec.toNat_ofNat]; omega)
    fun _ ⟨e1, e2, e3, e4, e5, e6, e7, _⟩ => by
      rw [decodeV_57 e1, decodeV57, e6, tok_of e2 e3, bits_of e4, e5, e7]; rfl

theorem pclr (tk : Tok) (d : BitVec 4) : Statement (.pclr tk d) :=
  wideV [⟨26, 6, 57⟩, ⟨24, 2, tk.pop⟩, ⟨22, 2, tk.push⟩, ⟨18, 4, d⟩, ⟨10, 8, 0⟩, ⟨7, 3, 6⟩, ⟨0, 7, 0⟩]
    rfl rfl rfl (by simp only [Tok.enc, fieldSum, Piece.sum, BitVec.ofNat_eq_ofNat, BitVec.toNat_ofNat]; omega)
    fun _ ⟨e1, e2, e3, e4, e5, e6, e7, _⟩ => by
      rw [decodeV_57 e1, decodeV57, e6, tok_of e2 e3, bits_of e4, e5, e7]; rfl

theorem xli (tk : Tok) (d : BitVec 4) (i : BitVec 16) : Statement (.xli tk d i) :=
  wideV [⟨26, 6, 58⟩, ⟨24, 2, tk.pop⟩, ⟨22, 2, tk.push⟩, ⟨18, 4, d⟩, ⟨17, 1, 0⟩, ⟨1, 16, i⟩, ⟨0, 1, 0⟩]
    rfl rfl rfl (by simp only [Tok.enc, fieldSum, Piece.sum, BitVec.ofNat_eq_ofNat, BitVec.toNat_ofNat]; omega)
    fun _ ⟨e1, e2, e3, e4, e5, e6, e7, _⟩ => by
      rw [decodeV_58 e1, decodeV58, e5, tok_of e2 e3, bits_of e4, bits_of e6, e7]; rfl

theorem xlis (tk : Tok) (d : BitVec 4) (i : BitVec 16) : Statement (.xlis tk d i) :=
  wideV [⟨26, 6, 58⟩, ⟨24, 2, tk.pop⟩, ⟨22, 2, tk.push⟩, ⟨18, 4, d⟩, ⟨17, 1, 1⟩, ⟨1, 16, i⟩, ⟨0, 1, 0⟩]
    rfl rfl rfl (by simp only [Tok.enc, fieldSum, Piece.sum, BitVec.ofNat_eq_ofNat, BitVec.toNat_ofNat]; omega)
    fun _ ⟨e1, e2, e3, e4, e5, e6, e7, _⟩ => by
      rw [decodeV_58 e1, decodeV58, e5, tok_of e2 e3, bits_of e4, bits_of e6, e7]; rfl

theorem xadd (tk : Tok) (d : BitVec 4) (a : BitVec 4) (b : BitVec 4) : Statement (.xadd tk d a b) :=
  wideV [⟨26, 6, 59⟩, ⟨24, 2, tk.pop⟩, ⟨22, 2, tk.push⟩, ⟨18, 4, 0⟩, ⟨14, 4, d⟩, ⟨10, 4, a⟩, ⟨6, 4, b⟩, ⟨0, 6, 0⟩]
    rfl rfl rfl (by simp only [Tok.enc, fieldSum, Piece.sum, BitVec.ofNat_eq_ofNat, BitVec.toNat_ofNat]; omega)
    fun _ ⟨e1, e2, e3, e4, e5, e6, e7, e8, _⟩ => by
      rw [decodeV_59 e1, decodeV59, e4, tok_of e2 e3, bits_of e5, bits_of e6, bits_of e7, e8]; rfl

theorem xsub (tk : Tok) (d : BitVec 4) (a : BitVec 4) (b : BitVec 4) : Statement (.xsub tk d a b) :=
  wideV [⟨26, 6, 59⟩, ⟨24, 2, tk.pop⟩, ⟨22, 2, tk.push⟩, ⟨18, 4, 1⟩, ⟨14, 4, d⟩, ⟨10, 4, a⟩, ⟨6, 4, b⟩, ⟨0, 6, 0⟩]
    rfl rfl rfl (by simp only [Tok.enc, fieldSum, Piece.sum, BitVec.ofNat_eq_ofNat, BitVec.toNat_ofNat]; omega)
    fun _ ⟨e1, e2, e3, e4, e5, e6, e7, e8, _⟩ => by
      rw [decodeV_59 e1, decodeV59, e4, tok_of e2 e3, bits_of e5, bits_of e6, bits_of e7, e8]; rfl

theorem xand (tk : Tok) (d : BitVec 4) (a : BitVec 4) (b : BitVec 4) : Statement (.xand tk d a b) :=
  wideV [⟨26, 6, 59⟩, ⟨24, 2, tk.pop⟩, ⟨22, 2, tk.push⟩, ⟨18, 4, 2⟩, ⟨14, 4, d⟩, ⟨10, 4, a⟩, ⟨6, 4, b⟩, ⟨0, 6, 0⟩]
    rfl rfl rfl (by simp only [Tok.enc, fieldSum, Piece.sum, BitVec.ofNat_eq_ofNat, BitVec.toNat_ofNat]; omega)
    fun _ ⟨e1, e2, e3, e4, e5, e6, e7, e8, _⟩ => by
      rw [decodeV_59 e1, decodeV59, e4, tok_of e2 e3, bits_of e5, bits_of e6, bits_of e7, e8]; rfl

theorem xorX (tk : Tok) (d : BitVec 4) (a : BitVec 4) (b : BitVec 4) : Statement (.xorX tk d a b) :=
  wideV [⟨26, 6, 59⟩, ⟨24, 2, tk.pop⟩, ⟨22, 2, tk.push⟩, ⟨18, 4, 3⟩, ⟨14, 4, d⟩, ⟨10, 4, a⟩, ⟨6, 4, b⟩, ⟨0, 6, 0⟩]
    rfl rfl rfl (by simp only [Tok.enc, fieldSum, Piece.sum, BitVec.ofNat_eq_ofNat, BitVec.toNat_ofNat]; omega)
    fun _ ⟨e1, e2, e3, e4, e5, e6, e7, e8, _⟩ => by
      rw [decodeV_59 e1, decodeV59, e4, tok_of e2 e3, bits_of e5, bits_of e6, bits_of e7, e8]; rfl

theorem xxor (tk : Tok) (d : BitVec 4) (a : BitVec 4) (b : BitVec 4) : Statement (.xxor tk d a b) :=
  wideV [⟨26, 6, 59⟩, ⟨24, 2, tk.pop⟩, ⟨22, 2, tk.push⟩, ⟨18, 4, 4⟩, ⟨14, 4, d⟩, ⟨10, 4, a⟩, ⟨6, 4, b⟩, ⟨0, 6, 0⟩]
    rfl rfl rfl (by simp only [Tok.enc, fieldSum, Piece.sum, BitVec.ofNat_eq_ofNat, BitVec.toNat_ofNat]; omega)
    fun _ ⟨e1, e2, e3, e4, e5, e6, e7, e8, _⟩ => by
      rw [decodeV_59 e1, decodeV59, e4, tok_of e2 e3, bits_of e5, bits_of e6, bits_of e7, e8]; rfl

theorem xsll (tk : Tok) (d : BitVec 4) (a : BitVec 4) (b : BitVec 4) : Statement (.xsll tk d a b) :=
  wideV [⟨26, 6, 59⟩, ⟨24, 2, tk.pop⟩, ⟨22, 2, tk.push⟩, ⟨18, 4, 5⟩, ⟨14, 4, d⟩, ⟨10, 4, a⟩, ⟨6, 4, b⟩, ⟨0, 6, 0⟩]
    rfl rfl rfl (by simp only [Tok.enc, fieldSum, Piece.sum, BitVec.ofNat_eq_ofNat, BitVec.toNat_ofNat]; omega)
    fun _ ⟨e1, e2, e3, e4, e5, e6, e7, e8, _⟩ => by
      rw [decodeV_59 e1, decodeV59, e4, tok_of e2 e3, bits_of e5, bits_of e6, bits_of e7, e8]; rfl

theorem xsrl (tk : Tok) (d : BitVec 4) (a : BitVec 4) (b : BitVec 4) : Statement (.xsrl tk d a b) :=
  wideV [⟨26, 6, 59⟩, ⟨24, 2, tk.pop⟩, ⟨22, 2, tk.push⟩, ⟨18, 4, 6⟩, ⟨14, 4, d⟩, ⟨10, 4, a⟩, ⟨6, 4, b⟩, ⟨0, 6, 0⟩]
    rfl rfl rfl (by simp only [Tok.enc, fieldSum, Piece.sum, BitVec.ofNat_eq_ofNat, BitVec.toNat_ofNat]; omega)
    fun _ ⟨e1, e2, e3, e4, e5, e6, e7, e8, _⟩ => by
      rw [decodeV_59 e1, decodeV59, e4, tok_of e2 e3, bits_of e5, bits_of e6, bits_of e7, e8]; rfl

theorem xmul (tk : Tok) (d : BitVec 4) (a : BitVec 4) (b : BitVec 4) : Statement (.xmul tk d a b) :=
  wideV [⟨26, 6, 59⟩, ⟨24, 2, tk.pop⟩, ⟨22, 2, tk.push⟩, ⟨18, 4, 7⟩, ⟨14, 4, d⟩, ⟨10, 4, a⟩, ⟨6, 4, b⟩, ⟨0, 6, 0⟩]
    rfl rfl rfl (by simp only [Tok.enc, fieldSum, Piece.sum, BitVec.ofNat_eq_ofNat, BitVec.toNat_ofNat]; omega)
    fun _ ⟨e1, e2, e3, e4, e5, e6, e7, e8, _⟩ => by
      rw [decodeV_59 e1, decodeV59, e4, tok_of e2 e3, bits_of e5, bits_of e6, bits_of e7, e8]; rfl

theorem vfence (tk : Tok) (m : BitVec 16) (s : BitVec 3) : Statement (.vfence tk m s) :=
  wideV [⟨26, 6, 60⟩, ⟨24, 2, tk.pop⟩, ⟨22, 2, tk.push⟩, ⟨19, 3, 0⟩, ⟨3, 16, m⟩, ⟨0, 3, s⟩]
    rfl rfl rfl (by simp only [Tok.enc, fieldSum, Piece.sum, BitVec.ofNat_eq_ofNat, BitVec.toNat_ofNat]; omega)
    fun _ ⟨e1, e2, e3, e4, e5, e6, _⟩ => by
      rw [decodeV_60 e1, decodeV60, e4, tok_of e2 e3, bits_of e5, bits_of e6]; rfl

theorem vflrd (tk : Tok) (d : BitVec 5) (f : BitVec 3) (w : BitVec 1) : Statement (.vflrd tk d f w) :=
  wideV [⟨26, 6, 60⟩, ⟨24, 2, tk.pop⟩, ⟨22, 2, tk.push⟩, ⟨19, 3, 1⟩, ⟨14, 5, d⟩, ⟨10, 4, 0⟩, ⟨7, 3, f⟩, ⟨6, 1, w⟩, ⟨0, 6, 0⟩]
    rfl rfl rfl (by simp only [Tok.enc, fieldSum, Piece.sum, BitVec.ofNat_eq_ofNat, BitVec.toNat_ofNat]; omega)
    fun _ ⟨e1, e2, e3, e4, e5, e6, e7, e8, e9, _⟩ => by
      rw [decodeV_60 e1, decodeV60, e4, tok_of e2 e3, bits_of e5, e6, bits_of e7, bits_of e8, e9]; rfl

theorem vflclr (tk : Tok) (f : BitVec 3) : Statement (.vflclr tk f) :=
  wideV [⟨26, 6, 60⟩, ⟨24, 2, tk.pop⟩, ⟨22, 2, tk.push⟩, ⟨19, 3, 2⟩, ⟨10, 9, 0⟩, ⟨7, 3, f⟩, ⟨0, 7, 0⟩]
    rfl rfl rfl (by simp only [Tok.enc, fieldSum, Piece.sum, BitVec.ofNat_eq_ofNat, BitVec.toNat_ofNat]; omega)
    fun _ ⟨e1, e2, e3, e4, e5, e6, e7, _⟩ => by
      rw [decodeV_60 e1, decodeV60, e4, tok_of e2 e3, e5, bits_of e6, e7]; rfl

theorem vbaseW (tk : Tok) (x : BitVec 4) : Statement (.vbaseW tk x) :=
  wideV [⟨26, 6, 60⟩, ⟨24, 2, tk.pop⟩, ⟨22, 2, tk.push⟩, ⟨19, 3, 3⟩, ⟨14, 5, 0⟩, ⟨10, 4, x⟩, ⟨0, 10, 0⟩]
    rfl rfl rfl (by simp only [Tok.enc, fieldSum, Piece.sum, BitVec.ofNat_eq_ofNat, BitVec.toNat_ofNat]; omega)
    fun _ ⟨e1, e2, e3, e4, e5, e6, e7, _⟩ => by
      rw [decodeV_60 e1, decodeV60, e4, tok_of e2 e3, e5, bits_of e6, e7]; rfl

theorem vbaseR (tk : Tok) (x : BitVec 4) : Statement (.vbaseR tk x) :=
  wideV [⟨26, 6, 60⟩, ⟨24, 2, tk.pop⟩, ⟨22, 2, tk.push⟩, ⟨19, 3, 4⟩, ⟨14, 5, 0⟩, ⟨10, 4, x⟩, ⟨0, 10, 0⟩]
    rfl rfl rfl (by simp only [Tok.enc, fieldSum, Piece.sum, BitVec.ofNat_eq_ofNat, BitVec.toNat_ofNat]; omega)
    fun _ ⟨e1, e2, e3, e4, e5, e6, e7, _⟩ => by
      rw [decodeV_60 e1, decodeV60, e4, tok_of e2 e3, e5, bits_of e6, e7]; rfl

theorem vrotW (tk : Tok) (x : BitVec 4) : Statement (.vrotW tk x) :=
  wideV [⟨26, 6, 60⟩, ⟨24, 2, tk.pop⟩, ⟨22, 2, tk.push⟩, ⟨19, 3, 5⟩, ⟨14, 5, 0⟩, ⟨10, 4, x⟩, ⟨0, 10, 0⟩]
    rfl rfl rfl (by simp only [Tok.enc, fieldSum, Piece.sum, BitVec.ofNat_eq_ofNat, BitVec.toNat_ofNat]; omega)
    fun _ ⟨e1, e2, e3, e4, e5, e6, e7, _⟩ => by
      rw [decodeV_60 e1, decodeV60, e4, tok_of e2 e3, e5, bits_of e6, e7]; rfl

theorem vrotR (tk : Tok) (x : BitVec 4) : Statement (.vrotR tk x) :=
  wideV [⟨26, 6, 60⟩, ⟨24, 2, tk.pop⟩, ⟨22, 2, tk.push⟩, ⟨19, 3, 6⟩, ⟨14, 5, 0⟩, ⟨10, 4, x⟩, ⟨0, 10, 0⟩]
    rfl rfl rfl (by simp only [Tok.enc, fieldSum, Piece.sum, BitVec.ofNat_eq_ofNat, BitVec.toNat_ofNat]; omega)
    fun _ ⟨e1, e2, e3, e4, e5, e6, e7, _⟩ => by
      rw [decodeV_60 e1, decodeV60, e4, tok_of e2 e3, e5, bits_of e6, e7]; rfl

theorem vgov (p : BitVec 4) : Statement (.vgov p) :=
  halfV [⟨10, 6, 1⟩, ⟨4, 6, 0⟩, ⟨0, 4, p⟩]
    rfl rfl rfl (by simp only [fieldSum, Piece.sum, BitVec.ofNat_eq_ofNat, BitVec.toNat_ofNat]; omega)
    fun _ ⟨e1, e2, e3, _⟩ => by
      rw [decodeCompactV, e1, e2, bits_of e3]; rfl

theorem blockRunEnd {x0 x1} : Statement (.blockRunEnd x0 x1) := event rfl

theorem accessPerform {x0 x1} : Statement (.accessPerform x0 x1) := event rfl

theorem lCmdSourceReleased {x0 x1} : Statement (.lCmdSourceReleased x0 x1) := event rfl

theorem lCmdDelivered {x0 x1} : Statement (.lCmdDelivered x0 x1) := event rfl

theorem notifyWrite {x0 x1} : Statement (.notifyWrite x0 x1) := event rfl

theorem lCmdServiceFault {x0 x1} : Statement (.lCmdServiceFault x0 x1) := event rfl

theorem mFinish {x0} : Statement (.mFinish x0) := event rfl

theorem drainStart {x0} : Statement (.drainStart x0) := event rfl

theorem drainRow {x0} : Statement (.drainRow x0) := event rfl

theorem drainDelivered {x0} : Statement (.drainDelivered x0) := event rfl

theorem portStarvationFreeze {x0} : Statement (.portStarvationFreeze x0) := event rfl

theorem combEngineDecision {x0} : Statement (.combEngineDecision x0) := event rfl

theorem rowMax {x0} : Statement (.rowMax x0) := event rfl

theorem rowExps {x0} : Statement (.rowExps x0) := event rfl

theorem rowScale {x0} : Statement (.rowScale x0) := event rfl

theorem rowAll {x0} : Statement (.rowAll x0) := event rfl

theorem gthGet {x0} : Statement (.gthGet x0) := event rfl

theorem gthPut {x0} : Statement (.gthPut x0) := event rfl

theorem selTop {x0} : Statement (.selTop x0) := event rfl

theorem selPack {x0} : Statement (.selPack x0) := event rfl

theorem xfmTr {x0} : Statement (.xfmTr x0) := event rfl

theorem colSum {x0} : Statement (.colSum x0) := event rfl

theorem colBcast {x0} : Statement (.colBcast x0) := event rfl

theorem colCat {x0} : Statement (.colCat x0) := event rfl

theorem netSend {x0} : Statement (.netSend x0) := event rfl

theorem netWrite {x0} : Statement (.netWrite x0) := event rfl

theorem netPost {x0} : Statement (.netPost x0) := event rfl

theorem engineReleasedEvent {x0} : Statement (.engineReleasedEvent x0) := event rfl

theorem engineDeliveredEvent {x0} : Statement (.engineDeliveredEvent x0) := event rfl

theorem engineOccupancyEnd {x0} : Statement (.engineOccupancyEnd x0) := event rfl

theorem engineWakeDone {x0} : Statement (.engineWakeDone x0) := event rfl

theorem engineServiceFault {x0} : Statement (.engineServiceFault x0) := event rfl

theorem holdCreate {x0} : Statement (.holdCreate x0) := event rfl

theorem holdLapse {x0} : Statement (.holdLapse x0) := event rfl

theorem standingLeaseGrant {x0 x1} : Statement (.standingLeaseGrant x0 x1) := event rfl

theorem standingLeaseEnd {x0 x1} : Statement (.standingLeaseEnd x0 x1) := event rfl

theorem engineRecall {x0} : Statement (.engineRecall x0) := event rfl

theorem lsePccapWrite {x0} : Statement (.lsePccapWrite x0) := event rfl

theorem lseSwcapWrite {x0} : Statement (.lseSwcapWrite x0) := event rfl

theorem taskCompletion {x0} : Statement (.taskCompletion x0) := event rfl

theorem successorApply {x0} : Statement (.successorApply x0) := event rfl

theorem enqueuePacket {x0} : Statement (.enqueuePacket x0) := event rfl

theorem enqueueAck {x0} : Statement (.enqueueAck x0) := event rfl

theorem readyPacket {x0} : Statement (.readyPacket x0) := event rfl

theorem gangCompleteReport {x0} : Statement (.gangCompleteReport x0) := event rfl

theorem arenaAllocate {x0} : Statement (.arenaAllocate x0) := event rfl

theorem arenaZeroFillDone {x0} : Statement (.arenaZeroFillDone x0) := event rfl

theorem gangPlace {x0} : Statement (.gangPlace x0) := event rfl

theorem ageingInterval {x0} : Statement (.ageingInterval x0) := event rfl

theorem taskOverrun {x0} : Statement (.taskOverrun x0) := event rfl

theorem notify {x0 x1} : Statement (.notify x0 x1) := event rfl

theorem queueConsume {x0} : Statement (.queueConsume x0) := event rfl

theorem queueBind {x0 x1} : Statement (.queueBind x0 x1) := event rfl

theorem queueUnbind {x0} : Statement (.queueUnbind x0) := event rfl

theorem queueErrClear {x0} : Statement (.queueErrClear x0) := event rfl

theorem flogRead : Statement .flogRead := event rfl

theorem preemptRequest {x0} : Statement (.preemptRequest x0) := event rfl

theorem preemptResume {x0} : Statement (.preemptResume x0) := event rfl

theorem arenaSlotReset {x0} : Statement (.arenaSlotReset x0) := event rfl

theorem registerWrite {x0 x1 x2} : Statement (.registerWrite x0 x1 x2) := event rfl

theorem corePark {x0} : Statement (.corePark x0) := event rfl

theorem faultRecordWrite {x0} : Statement (.faultRecordWrite x0) := event rfl

theorem faultQueueWrite {x0 x1 x2} : Statement (.faultQueueWrite x0 x1 x2) := event rfl

theorem coreResume {x0 x1} : Statement (.coreResume x0 x1) := event rfl

theorem coreAbandon {x0 x1} : Statement (.coreAbandon x0 x1) := event rfl

theorem sideLogKick {x0 x1} : Statement (.sideLogKick x0 x1) := event rfl

theorem frameRewrite {x0 x1} : Statement (.frameRewrite x0 x1) := event rfl

theorem sideLogReplay {x0 x1} : Statement (.sideLogReplay x0 x1) := event rfl

theorem autoResume {x0} : Statement (.autoResume x0) := event rfl

theorem tlbInvalidate {x0 x1} : Statement (.tlbInvalidate x0 x1) := event rfl

theorem invalidateDone {x0} : Statement (.invalidateDone x0) := event rfl

theorem atsResponse {x0 x1 x2} : Statement (.atsResponse x0 x1 x2) := event rfl

theorem pageResponse {x0 x1 x2} : Statement (.pageResponse x0 x1 x2) := event rfl

theorem atsInvalidation {x0 x1 x2} : Statement (.atsInvalidation x0 x1 x2) := event rfl

theorem tileFill {x0} : Statement (.tileFill x0) := event rfl

theorem layoutPrepare : Statement .layoutPrepare := event rfl

theorem layoutApplyRequest : Statement .layoutApplyRequest := event rfl

theorem layoutAbort : Statement .layoutAbort := event rfl

theorem lapBoundary : Statement .lapBoundary := event rfl

theorem clusterScrubDone {x0} : Statement (.clusterScrubDone x0) := event rfl

theorem pageReseal {x0} : Statement (.pageReseal x0) := event rfl

theorem quotaInterval {x0} : Statement (.quotaInterval x0) := event rfl

theorem mpReset : Statement .mpReset := event rfl

theorem rekeyRequest {x0} : Statement (.rekeyRequest x0) := event rfl

theorem rekeySweepTile {x0} : Statement (.rekeySweepTile x0) := event rfl

theorem capFlogRead : Statement .capFlogRead := event rfl

theorem slipClear {x0} : Statement (.slipClear x0) := event rfl

theorem priEnable {x0} : Statement (.priEnable x0) := event rfl

theorem tdiStateChange {x0 x1} : Statement (.tdiStateChange x0 x1) := event rfl

theorem getVersion {x0 x1} : Statement (.getVersion x0 x1) := event rfl

theorem getCapabilities {x0 x1} : Statement (.getCapabilities x0 x1) := event rfl

theorem negotiateAlgorithms {x0 x1} : Statement (.negotiateAlgorithms x0 x1) := event rfl

theorem getDigests {x0 x1} : Statement (.getDigests x0 x1) := event rfl

theorem getCertificate {x0 x1} : Statement (.getCertificate x0 x1) := event rfl

theorem challenge {x0 x1} : Statement (.challenge x0 x1) := event rfl

theorem getMeasurements {x0 x1} : Statement (.getMeasurements x0 x1) := event rfl

theorem keyExchange {x0 x1} : Statement (.keyExchange x0 x1) := event rfl

theorem relayPacketReceive {x0 x1 x2 x3} : Statement (.relayPacketReceive x0 x1 x2 x3) := event rfl

theorem relayAck {x0 x1 x2} : Statement (.relayAck x0 x1 x2) := event rfl

theorem relayRto {x0 x1 x2} : Statement (.relayRto x0 x1 x2) := event rfl

theorem flitCrcError {x0} : Statement (.flitCrcError x0) := event rfl

theorem linkRetrain {x0} : Statement (.linkRetrain x0) := event rfl

theorem retrainTimeout {x0} : Statement (.retrainTimeout x0) := event rfl

theorem uePacketReceive {x0 x1} : Statement (.uePacketReceive x0 x1) := event rfl

theorem ueAckReceive {x0 x1 x2} : Statement (.ueAckReceive x0 x1 x2) := event rfl

theorem ueReorderTimeout {x0 x1} : Statement (.ueReorderTimeout x0 x1) := event rfl

theorem ueRto {x0 x1} : Statement (.ueRto x0 x1) := event rfl

theorem ueConnOpen {x0 x1} : Statement (.ueConnOpen x0 x1) := event rfl

theorem ueConnClose {x0} : Statement (.ueConnClose x0) := event rfl

theorem ueWindowWrite {x0 x1} : Statement (.ueWindowWrite x0 x1) := event rfl

theorem coldReset : Statement .coldReset := event rfl

theorem firmwareUpload {x0} : Statement (.firmwareUpload x0) := event rfl

theorem firmwareCommit : Statement .firmwareCommit := event rfl

theorem watchdogKick : Statement .watchdogKick := event rfl

theorem watchdogExpiry : Statement .watchdogExpiry := event rfl

theorem eccCorrected : Statement .eccCorrected := event rfl

theorem uncorrectableError {x0} : Statement (.uncorrectableError x0) := event rfl

theorem linkRetrainSuccess {x0} : Statement (.linkRetrainSuccess x0) := event rfl

theorem cClockChange {x0} : Statement (.cClockChange x0) := event rfl

theorem refresh {x0} : Statement (.refresh x0) := event rfl

end Sys2Proof.Laws.RoundTrip
end

