-- ==== Sys2Proof/Laws/State.lean ====
section
/-! SUPPORT. The fields of a state and of a core after each elementary update. -/

namespace Sys2Proof.Machine

open Sys2Proof

/-! ### A core put back -/

@[simp] theorem State.setCore_tick (s : State) (v : Nat) (c : Core) : (s.setCore v c).tick = s.tick := rfl
@[simp] theorem State.setCore_turn (s : State) (v : Nat) (c : Core) : (s.setCore v c).turn = s.turn := rfl
@[simp] theorem State.setCore_fresh (s : State) (v : Nat) (c : Core) : (s.setCore v c).fresh = s.fresh := rfl
@[simp] theorem State.setCore_clock (s : State) (v : Nat) (c : Core) : (s.setCore v c).clock = s.clock := rfl
@[simp] theorem State.setCore_slot (s : State) (v : Nat) (c : Core) : (s.setCore v c).slot = s.slot := rfl
@[simp] theorem State.setCore_slotFrac (s : State) (v : Nat) (c : Core) : (s.setCore v c).slotFrac = s.slotFrac := rfl
@[simp] theorem State.setCore_lap (s : State) (v : Nat) (c : Core) : (s.setCore v c).lap = s.lap := rfl
@[simp] theorem State.setCore_mem (s : State) (v : Nat) (c : Core) : (s.setCore v c).mem = s.mem := rfl
@[simp] theorem State.setCore_l2b (s : State) (v : Nat) (c : Core) : (s.setCore v c).l2b = s.l2b := rfl
@[simp] theorem State.setCore_l2 (s : State) (v : Nat) (c : Core) : (s.setCore v c).l2 = s.l2 := rfl
@[simp] theorem State.setCore_seals (s : State) (v : Nat) (c : Core) : (s.setCore v c).seals = s.seals := rfl
@[simp] theorem State.setCore_fills (s : State) (v : Nat) (c : Core) : (s.setCore v c).fills = s.fills := rfl
@[simp] theorem State.setCore_fails (s : State) (v : Nat) (c : Core) : (s.setCore v c).fails = s.fails := rfl
@[simp] theorem State.setCore_failing (s : State) (v : Nat) (c : Core) : (s.setCore v c).failing = s.failing := rfl
@[simp] theorem State.setCore_dramBad (s : State) (v : Nat) (c : Core) : (s.setCore v c).dramBad = s.dramBad := rfl
@[simp] theorem State.setCore_through (s : State) (v : Nat) (c : Core) : (s.setCore v c).through = s.through := rfl
@[simp] theorem State.setCore_capFlog (s : State) (v : Nat) (c : Core) : (s.setCore v c).capFlog = s.capFlog := rfl
@[simp] theorem State.setCore_hist (s : State) (v : Nat) (c : Core) : (s.setCore v c).hist = s.hist := rfl
@[simp] theorem State.setCore_past (s : State) (v : Nat) (c : Core) : (s.setCore v c).past = s.past := rfl
@[simp] theorem State.setCore_devKey (s : State) (v : Nat) (c : Core) : (s.setCore v c).devKey = s.devKey := rfl
@[simp] theorem State.setCore_capBlk (s : State) (v : Nat) (c : Core) : (s.setCore v c).capBlk = s.capBlk := rfl
@[simp] theorem State.setCore_capCache (s : State) (v : Nat) (c : Core) : (s.setCore v c).capCache = s.capCache := rfl
@[simp] theorem State.setCore_hostMem (s : State) (v : Nat) (c : Core) : (s.setCore v c).hostMem = s.hostMem := rfl
@[simp] theorem State.setCore_tlb (s : State) (v : Nat) (c : Core) : (s.setCore v c).tlb = s.tlb := rfl
@[simp] theorem State.setCore_invs (s : State) (v : Nat) (c : Core) : (s.setCore v c).invs = s.invs := rfl
@[simp] theorem State.setCore_preq (s : State) (v : Nat) (c : Core) : (s.setCore v c).preq = s.preq := rfl
@[simp] theorem State.setCore_engines (s : State) (v : Nat) (c : Core) : (s.setCore v c).engines = s.engines := rfl
@[simp] theorem State.setCore_ecmds (s : State) (v : Nat) (c : Core) : (s.setCore v c).ecmds = s.ecmds := rfl
@[simp] theorem State.setCore_ereqs (s : State) (v : Nat) (c : Core) : (s.setCore v c).ereqs = s.ereqs := rfl
@[simp] theorem State.setCore_colls (s : State) (v : Nat) (c : Core) : (s.setCore v c).colls = s.colls := rfl
@[simp] theorem State.setCore_contribs (s : State) (v : Nat) (c : Core) : (s.setCore v c).contribs = s.contribs := rfl
@[simp] theorem State.setCore_nodes (s : State) (v : Nat) (c : Core) : (s.setCore v c).nodes = s.nodes := rfl
@[simp] theorem State.setCore_jobs (s : State) (v : Nat) (c : Core) : (s.setCore v c).jobs = s.jobs := rfl
@[simp] theorem State.setCore_arenas (s : State) (v : Nat) (c : Core) : (s.setCore v c).arenas = s.arenas := rfl
@[simp] theorem State.setCore_succs (s : State) (v : Nat) (c : Core) : (s.setCore v c).succs = s.succs := rfl
@[simp] theorem State.setCore_qslots (s : State) (v : Nat) (c : Core) : (s.setCore v c).qslots = s.qslots := rfl
@[simp] theorem State.setCore_flog (s : State) (v : Nat) (c : Core) : (s.setCore v c).flog = s.flog := rfl
@[simp] theorem State.setCore_readyNo (s : State) (v : Nat) (c : Core) : (s.setCore v c).readyNo = s.readyNo := rfl
@[simp] theorem State.setCore_fq (s : State) (v : Nat) (c : Core) : (s.setCore v c).fq = s.fq := rfl
@[simp] theorem State.setCore_fqStop (s : State) (v : Nat) (c : Core) : (s.setCore v c).fqStop = s.fqStop := rfl
@[simp] theorem State.setCore_regs (s : State) (v : Nat) (c : Core) : (s.setCore v c).regs = s.regs := rfl
@[simp] theorem State.setCore_tdi (s : State) (v : Nat) (c : Core) : (s.setCore v c).tdi = s.tdi := rfl
@[simp] theorem State.setCore_scrub (s : State) (v : Nat) (c : Core) : (s.setCore v c).scrub = s.scrub := rfl
@[simp] theorem State.setCore_reseal (s : State) (v : Nat) (c : Core) : (s.setCore v c).reseal = s.reseal := rfl
@[simp] theorem State.setCore_keys (s : State) (v : Nat) (c : Core) : (s.setCore v c).keys = s.keys := rfl
@[simp] theorem State.setCore_keyNo (s : State) (v : Nat) (c : Core) : (s.setCore v c).keyNo = s.keyNo := rfl
@[simp] theorem State.setCore_sweep (s : State) (v : Nat) (c : Core) : (s.setCore v c).sweep = s.sweep := rfl
@[simp] theorem State.setCore_quotaNext (s : State) (v : Nat) (c : Core) : (s.setCore v c).quotaNext = s.quotaNext := rfl
@[simp] theorem State.setCore_monitor (s : State) (v : Nat) (c : Core) : (s.setCore v c).monitor = s.monitor := rfl
@[simp] theorem State.setCore_shadow (s : State) (v : Nat) (c : Core) : (s.setCore v c).shadow = s.shadow := rfl
@[simp] theorem State.setCore_stretch (s : State) (v : Nat) (c : Core) : (s.setCore v c).stretch = s.stretch := rfl
@[simp] theorem State.setCore_cclk (s : State) (v : Nat) (c : Core) : (s.setCore v c).cclk = s.cclk := rfl
@[simp] theorem State.setCore_links (s : State) (v : Nat) (c : Core) : (s.setCore v c).links = s.links := rfl
@[simp] theorem State.setCore_failed (s : State) (v : Nat) (c : Core) : (s.setCore v c).failed = s.failed := rfl
@[simp] theorem State.setCore_inbox (s : State) (v : Nat) (c : Core) : (s.setCore v c).inbox = s.inbox := rfl
@[simp] theorem State.setCore_relay (s : State) (v : Nat) (c : Core) : (s.setCore v c).relay = s.relay := rfl
@[simp] theorem State.setCore_ueConn (s : State) (v : Nat) (c : Core) : (s.setCore v c).ueConn = s.ueConn := rfl
@[simp] theorem State.setCore_ueWin (s : State) (v : Nat) (c : Core) : (s.setCore v c).ueWin = s.ueWin := rfl
@[simp] theorem State.setCore_ueState (s : State) (v : Nat) (c : Core) : (s.setCore v c).ueState = s.ueState := rfl
@[simp] theorem State.setCore_mgmt (s : State) (v : Nat) (c : Core) : (s.setCore v c).mgmt = s.mgmt := rfl
@[simp] theorem State.setCore_spdm (s : State) (v : Nat) (c : Core) : (s.setCore v c).spdm = s.spdm := rfl
@[simp] theorem State.setCore_out (s : State) (v : Nat) (c : Core) : (s.setCore v c).out = s.out := rfl

/-! ### `setS` -/

@[simp] theorem Core.setS_st (c : Core) (n : BitVec 5) (v : Reg) : (c.setS n v).st = c.st := by unfold Core.setS; split <;> rfl
@[simp] theorem Core.setS_before (c : Core) (n : BitVec 5) (v : Reg) : (c.setS n v).before = c.before := by unfold Core.setS; split <;> rfl
@[simp] theorem Core.setS_task (c : Core) (n : BitVec 5) (v : Reg) : (c.setS n v).task = c.task := by unfold Core.setS; split <;> rfl
@[simp] theorem Core.setS_succ (c : Core) (n : BitVec 5) (v : Reg) : (c.setS n v).succ = c.succ := by unfold Core.setS; split <;> rfl
@[simp] theorem Core.setS_exitStep (c : Core) (n : BitVec 5) (v : Reg) : (c.setS n v).exitStep = c.exitStep := by unfold Core.setS; split <;> rfl
@[simp] theorem Core.setS_inHandler (c : Core) (n : BitVec 5) (v : Reg) : (c.setS n v).inHandler = c.inHandler := by unfold Core.setS; split <;> rfl
@[simp] theorem Core.setS_hstop (c : Core) (n : BitVec 5) (v : Reg) : (c.setS n v).hstop = c.hstop := by unfold Core.setS; split <;> rfl
@[simp] theorem Core.setS_returning (c : Core) (n : BitVec 5) (v : Reg) : (c.setS n v).returning = c.returning := by unfold Core.setS; split <;> rfl
@[simp] theorem Core.setS_hid (c : Core) (n : BitVec 5) (v : Reg) : (c.setS n v).hid = c.hid := by unfold Core.setS; split <;> rfl
@[simp] theorem Core.setS_cyc0 (c : Core) (n : BitVec 5) (v : Reg) : (c.setS n v).cyc0 = c.cyc0 := by unfold Core.setS; split <;> rfl
@[simp] theorem Core.setS_ran (c : Core) (n : BitVec 5) (v : Reg) : (c.setS n v).ran = c.ran := by unfold Core.setS; split <;> rfl
@[simp] theorem Core.setS_cycFrom (c : Core) (n : BitVec 5) (v : Reg) : (c.setS n v).cycFrom = c.cycFrom := by unfold Core.setS; split <;> rfl
@[simp] theorem Core.setS_parkedAt (c : Core) (n : BitVec 5) (v : Reg) : (c.setS n v).parkedAt = c.parkedAt := by unfold Core.setS; split <;> rfl
@[simp] theorem Core.setS_q (c : Core) (n : BitVec 5) (v : Reg) : (c.setS n v).q = c.q := by unfold Core.setS; split <;> rfl
@[simp] theorem Core.setS_ret (c : Core) (n : BitVec 5) (v : Reg) : (c.setS n v).ret = c.ret := by unfold Core.setS; split <;> rfl
@[simp] theorem Core.setS_sflags (c : Core) (n : BitVec 5) (v : Reg) : (c.setS n v).sflags = c.sflags := by unfold Core.setS; split <;> rfl
@[simp] theorem Core.setS_dphase (c : Core) (n : BitVec 5) (v : Reg) : (c.setS n v).dphase = c.dphase := by unfold Core.setS; split <;> rfl
@[simp] theorem Core.setS_dstep (c : Core) (n : BitVec 5) (v : Reg) : (c.setS n v).dstep = c.dstep := by unfold Core.setS; split <;> rfl
@[simp] theorem Core.setS_dphNext (c : Core) (n : BitVec 5) (v : Reg) : (c.setS n v).dphNext = c.dphNext := by unfold Core.setS; split <;> rfl
@[simp] theorem Core.setS_dstNext (c : Core) (n : BitVec 5) (v : Reg) : (c.setS n v).dstNext = c.dstNext := by unfold Core.setS; split <;> rfl
@[simp] theorem Core.setS_ovf (c : Core) (n : BitVec 5) (v : Reg) : (c.setS n v).ovf = c.ovf := by unfold Core.setS; split <;> rfl
@[simp] theorem Core.setS_streak (c : Core) (n : BitVec 5) (v : Reg) : (c.setS n v).streak = c.streak := by unfold Core.setS; split <;> rfl
@[simp] theorem Core.setS_waitw (c : Core) (n : BitVec 5) (v : Reg) : (c.setS n v).waitw = c.waitw := by unfold Core.setS; split <;> rfl
@[simp] theorem Core.setS_heldW (c : Core) (n : BitVec 5) (v : Reg) : (c.setS n v).heldW = c.heldW := by unfold Core.setS; split <;> rfl
@[simp] theorem Core.setS_engReq (c : Core) (n : BitVec 5) (v : Reg) : (c.setS n v).engReq = c.engReq := by unfold Core.setS; split <;> rfl
@[simp] theorem Core.setS_b (c : Core) (n : BitVec 5) (v : Reg) : (c.setS n v).b = c.b := by unfold Core.setS; split <;> rfl
@[simp] theorem Core.setS_lcmds (c : Core) (n : BitVec 5) (v : Reg) : (c.setS n v).lcmds = c.lcmds := by unfold Core.setS; split <;> rfl
@[simp] theorem Core.setS_g (c : Core) (n : BitVec 5) (v : Reg) : (c.setS n v).g = c.g := by unfold Core.setS; split <;> rfl
@[simp] theorem Core.setS_dty (c : Core) (n : BitVec 5) (v : Reg) : (c.setS n v).dty = c.dty := by unfold Core.setS; split <;> rfl
@[simp] theorem Core.setS_slots (c : Core) (n : BitVec 5) (v : Reg) : (c.setS n v).slots = c.slots := by unfold Core.setS; split <;> rfl
@[simp] theorem Core.setS_e (c : Core) (n : BitVec 5) (v : Reg) : (c.setS n v).e = c.e := by unfold Core.setS; split <;> rfl
@[simp] theorem Core.setS_mq (c : Core) (n : BitVec 5) (v : Reg) : (c.setS n v).mq = c.mq := by unfold Core.setS; split <;> rfl
@[simp] theorem Core.setS_drains (c : Core) (n : BitVec 5) (v : Reg) : (c.setS n v).drains = c.drains := by unfold Core.setS; split <;> rfl
@[simp] theorem Core.setS_x (c : Core) (n : BitVec 5) (v : Reg) : (c.setS n v).x = c.x := by unfold Core.setS; split <;> rfl
@[simp] theorem Core.setS_p (c : Core) (n : BitVec 5) (v : Reg) : (c.setS n v).p = c.p := by unfold Core.setS; split <;> rfl
@[simp] theorem Core.setS_vbase (c : Core) (n : BitVec 5) (v : Reg) : (c.setS n v).vbase = c.vbase := by unfold Core.setS; split <;> rfl
@[simp] theorem Core.setS_rot (c : Core) (n : BitVec 5) (v : Reg) : (c.setS n v).rot = c.rot := by unfold Core.setS; split <;> rfl
@[simp] theorem Core.setS_vgov (c : Core) (n : BitVec 5) (v : Reg) : (c.setS n v).vgov = c.vgov := by unfold Core.setS; split <;> rfl
@[simp] theorem Core.setS_vflags (c : Core) (n : BitVec 5) (v : Reg) : (c.setS n v).vflags = c.vflags := by unfold Core.setS; split <;> rfl
@[simp] theorem Core.setS_seed (c : Core) (n : BitVec 5) (v : Reg) : (c.setS n v).seed = c.seed := by unfold Core.setS; split <;> rfl
@[simp] theorem Core.setS_seedS (c : Core) (n : BitVec 5) (v : Reg) : (c.setS n v).seedS = c.seedS := by unfold Core.setS; split <;> rfl
@[simp] theorem Core.setS_bufW (c : Core) (n : BitVec 5) (v : Reg) : (c.setS n v).bufW = c.bufW := by unfold Core.setS; split <;> rfl
@[simp] theorem Core.setS_bufA (c : Core) (n : BitVec 5) (v : Reg) : (c.setS n v).bufA = c.bufA := by unfold Core.setS; split <;> rfl
@[simp] theorem Core.setS_bufS (c : Core) (n : BitVec 5) (v : Reg) : (c.setS n v).bufS = c.bufS := by unfold Core.setS; split <;> rfl
@[simp] theorem Core.setS_bufX (c : Core) (n : BitVec 5) (v : Reg) : (c.setS n v).bufX = c.bufX := by unfold Core.setS; split <;> rfl
@[simp] theorem Core.setS_tq (c : Core) (n : BitVec 5) (v : Reg) : (c.setS n v).tq = c.tq := by unfold Core.setS; split <;> rfl
@[simp] theorem Core.setS_k (c : Core) (n : BitVec 5) (v : Reg) : (c.setS n v).k = c.k := by unfold Core.setS; split <;> rfl
@[simp] theorem Core.setS_kAt (c : Core) (n : BitVec 5) (v : Reg) : (c.setS n v).kAt = c.kAt := by unfold Core.setS; split <;> rfl
@[simp] theorem Core.setS_kPh (c : Core) (n : BitVec 5) (v : Reg) : (c.setS n v).kPh = c.kPh := by unfold Core.setS; split <;> rfl
@[simp] theorem Core.setS_kIncs (c : Core) (n : BitVec 5) (v : Reg) : (c.setS n v).kIncs = c.kIncs := by unfold Core.setS; split <;> rfl
@[simp] theorem Core.setS_kOver (c : Core) (n : BitVec 5) (v : Reg) : (c.setS n v).kOver = c.kOver := by unfold Core.setS; split <;> rfl
@[simp] theorem Core.setS_raisedAt (c : Core) (n : BitVec 5) (v : Reg) : (c.setS n v).raisedAt = c.raisedAt := by unfold Core.setS; split <;> rfl
@[simp] theorem Core.setS_raised (c : Core) (n : BitVec 5) (v : Reg) : (c.setS n v).raised = c.raised := by unfold Core.setS; split <;> rfl
@[simp] theorem Core.setS_sflate (c : Core) (n : BitVec 5) (v : Reg) : (c.setS n v).sflate = c.sflate := by unfold Core.setS; split <;> rfl
@[simp] theorem Core.setS_strm (c : Core) (n : BitVec 5) (v : Reg) : (c.setS n v).strm = c.strm := by unfold Core.setS; split <;> rfl
@[simp] theorem Core.setS_icache (c : Core) (n : BitVec 5) (v : Reg) : (c.setS n v).icache = c.icache := by unfold Core.setS; split <;> rfl
@[simp] theorem Core.setS_nextId (c : Core) (n : BitVec 5) (v : Reg) : (c.setS n v).nextId = c.nextId := by unfold Core.setS; split <;> rfl
@[simp] theorem Core.setS_acc (c : Core) (n : BitVec 5) (v : Reg) : (c.setS n v).acc = c.acc := by unfold Core.setS; split <;> rfl
@[simp] theorem Core.setS_fl (c : Core) (n : BitVec 5) (v : Reg) : (c.setS n v).fl = c.fl := by unfold Core.setS; split <;> rfl
@[simp] theorem Core.setS_fences (c : Core) (n : BitVec 5) (v : Reg) : (c.setS n v).fences = c.fences := by unfold Core.setS; split <;> rfl
@[simp] theorem Core.setS_slog (c : Core) (n : BitVec 5) (v : Reg) : (c.setS n v).slog = c.slog := by unfold Core.setS; split <;> rfl
@[simp] theorem Core.setS_causes (c : Core) (n : BitVec 5) (v : Reg) : (c.setS n v).causes = c.causes := by unfold Core.setS; split <;> rfl
@[simp] theorem Core.setS_settled (c : Core) (n : BitVec 5) (v : Reg) : (c.setS n v).settled = c.settled := by unfold Core.setS; split <;> rfl
@[simp] theorem Core.setS_framed (c : Core) (n : BitVec 5) (v : Reg) : (c.setS n v).framed = c.framed := by unfold Core.setS; split <;> rfl
@[simp] theorem Core.setS_kimg (c : Core) (n : BitVec 5) (v : Reg) : (c.setS n v).kimg = c.kimg := by unfold Core.setS; split <;> rfl
@[simp] theorem Core.setS_frameHeld (c : Core) (n : BitVec 5) (v : Reg) : (c.setS n v).frameHeld = c.frameHeld := by unfold Core.setS; split <;> rfl
@[simp] theorem Core.setS_route (c : Core) (n : BitVec 5) (v : Reg) : (c.setS n v).route = c.route := by unfold Core.setS; split <;> rfl
@[simp] theorem Core.setS_pages (c : Core) (n : BitVec 5) (v : Reg) : (c.setS n v).pages = c.pages := by unfold Core.setS; split <;> rfl

/-! ### `setQ` -/

@[simp] theorem Core.setQ_st (c : Core) (n : BitVec 3) (v : Bool) : (c.setQ n v).st = c.st := rfl
@[simp] theorem Core.setQ_before (c : Core) (n : BitVec 3) (v : Bool) : (c.setQ n v).before = c.before := rfl
@[simp] theorem Core.setQ_task (c : Core) (n : BitVec 3) (v : Bool) : (c.setQ n v).task = c.task := rfl
@[simp] theorem Core.setQ_succ (c : Core) (n : BitVec 3) (v : Bool) : (c.setQ n v).succ = c.succ := rfl
@[simp] theorem Core.setQ_exitStep (c : Core) (n : BitVec 3) (v : Bool) : (c.setQ n v).exitStep = c.exitStep := rfl
@[simp] theorem Core.setQ_inHandler (c : Core) (n : BitVec 3) (v : Bool) : (c.setQ n v).inHandler = c.inHandler := rfl
@[simp] theorem Core.setQ_hstop (c : Core) (n : BitVec 3) (v : Bool) : (c.setQ n v).hstop = c.hstop := rfl
@[simp] theorem Core.setQ_returning (c : Core) (n : BitVec 3) (v : Bool) : (c.setQ n v).returning = c.returning := rfl
@[simp] theorem Core.setQ_hid (c : Core) (n : BitVec 3) (v : Bool) : (c.setQ n v).hid = c.hid := rfl
@[simp] theorem Core.setQ_cyc0 (c : Core) (n : BitVec 3) (v : Bool) : (c.setQ n v).cyc0 = c.cyc0 := rfl
@[simp] theorem Core.setQ_ran (c : Core) (n : BitVec 3) (v : Bool) : (c.setQ n v).ran = c.ran := rfl
@[simp] theorem Core.setQ_cycFrom (c : Core) (n : BitVec 3) (v : Bool) : (c.setQ n v).cycFrom = c.cycFrom := rfl
@[simp] theorem Core.setQ_parkedAt (c : Core) (n : BitVec 3) (v : Bool) : (c.setQ n v).parkedAt = c.parkedAt := rfl
@[simp] theorem Core.setQ_s (c : Core) (n : BitVec 3) (v : Bool) : (c.setQ n v).s = c.s := rfl
@[simp] theorem Core.setQ_ret (c : Core) (n : BitVec 3) (v : Bool) : (c.setQ n v).ret = c.ret := rfl
@[simp] theorem Core.setQ_sflags (c : Core) (n : BitVec 3) (v : Bool) : (c.setQ n v).sflags = c.sflags := rfl
@[simp] theorem Core.setQ_dphase (c : Core) (n : BitVec 3) (v : Bool) : (c.setQ n v).dphase = c.dphase := rfl
@[simp] theorem Core.setQ_dstep (c : Core) (n : BitVec 3) (v : Bool) : (c.setQ n v).dstep = c.dstep := rfl
@[simp] theorem Core.setQ_dphNext (c : Core) (n : BitVec 3) (v : Bool) : (c.setQ n v).dphNext = c.dphNext := rfl
@[simp] theorem Core.setQ_dstNext (c : Core) (n : BitVec 3) (v : Bool) : (c.setQ n v).dstNext = c.dstNext := rfl
@[simp] theorem Core.setQ_ovf (c : Core) (n : BitVec 3) (v : Bool) : (c.setQ n v).ovf = c.ovf := rfl
@[simp] theorem Core.setQ_streak (c : Core) (n : BitVec 3) (v : Bool) : (c.setQ n v).streak = c.streak := rfl
@[simp] theorem Core.setQ_waitw (c : Core) (n : BitVec 3) (v : Bool) : (c.setQ n v).waitw = c.waitw := rfl
@[simp] theorem Core.setQ_heldW (c : Core) (n : BitVec 3) (v : Bool) : (c.setQ n v).heldW = c.heldW := rfl
@[simp] theorem Core.setQ_engReq (c : Core) (n : BitVec 3) (v : Bool) : (c.setQ n v).engReq = c.engReq := rfl
@[simp] theorem Core.setQ_b (c : Core) (n : BitVec 3) (v : Bool) : (c.setQ n v).b = c.b := rfl
@[simp] theorem Core.setQ_lcmds (c : Core) (n : BitVec 3) (v : Bool) : (c.setQ n v).lcmds = c.lcmds := rfl
@[simp] theorem Core.setQ_g (c : Core) (n : BitVec 3) (v : Bool) : (c.setQ n v).g = c.g := rfl
@[simp] theorem Core.setQ_dty (c : Core) (n : BitVec 3) (v : Bool) : (c.setQ n v).dty = c.dty := rfl
@[simp] theorem Core.setQ_slots (c : Core) (n : BitVec 3) (v : Bool) : (c.setQ n v).slots = c.slots := rfl
@[simp] theorem Core.setQ_e (c : Core) (n : BitVec 3) (v : Bool) : (c.setQ n v).e = c.e := rfl
@[simp] theorem Core.setQ_mq (c : Core) (n : BitVec 3) (v : Bool) : (c.setQ n v).mq = c.mq := rfl
@[simp] theorem Core.setQ_drains (c : Core) (n : BitVec 3) (v : Bool) : (c.setQ n v).drains = c.drains := rfl
@[simp] theorem Core.setQ_x (c : Core) (n : BitVec 3) (v : Bool) : (c.setQ n v).x = c.x := rfl
@[simp] theorem Core.setQ_p (c : Core) (n : BitVec 3) (v : Bool) : (c.setQ n v).p = c.p := rfl
@[simp] theorem Core.setQ_vbase (c : Core) (n : BitVec 3) (v : Bool) : (c.setQ n v).vbase = c.vbase := rfl
@[simp] theorem Core.setQ_rot (c : Core) (n : BitVec 3) (v : Bool) : (c.setQ n v).rot = c.rot := rfl
@[simp] theorem Core.setQ_vgov (c : Core) (n : BitVec 3) (v : Bool) : (c.setQ n v).vgov = c.vgov := rfl
@[simp] theorem Core.setQ_vflags (c : Core) (n : BitVec 3) (v : Bool) : (c.setQ n v).vflags = c.vflags := rfl
@[simp] theorem Core.setQ_seed (c : Core) (n : BitVec 3) (v : Bool) : (c.setQ n v).seed = c.seed := rfl
@[simp] theorem Core.setQ_seedS (c : Core) (n : BitVec 3) (v : Bool) : (c.setQ n v).seedS = c.seedS := rfl
@[simp] theorem Core.setQ_bufW (c : Core) (n : BitVec 3) (v : Bool) : (c.setQ n v).bufW = c.bufW := rfl
@[simp] theorem Core.setQ_bufA (c : Core) (n : BitVec 3) (v : Bool) : (c.setQ n v).bufA = c.bufA := rfl
@[simp] theorem Core.setQ_bufS (c : Core) (n : BitVec 3) (v : Bool) : (c.setQ n v).bufS = c.bufS := rfl
@[simp] theorem Core.setQ_bufX (c : Core) (n : BitVec 3) (v : Bool) : (c.setQ n v).bufX = c.bufX := rfl
@[simp] theorem Core.setQ_tq (c : Core) (n : BitVec 3) (v : Bool) : (c.setQ n v).tq = c.tq := rfl
@[simp] theorem Core.setQ_k (c : Core) (n : BitVec 3) (v : Bool) : (c.setQ n v).k = c.k := rfl
@[simp] theorem Core.setQ_kAt (c : Core) (n : BitVec 3) (v : Bool) : (c.setQ n v).kAt = c.kAt := rfl
@[simp] theorem Core.setQ_kPh (c : Core) (n : BitVec 3) (v : Bool) : (c.setQ n v).kPh = c.kPh := rfl
@[simp] theorem Core.setQ_kIncs (c : Core) (n : BitVec 3) (v : Bool) : (c.setQ n v).kIncs = c.kIncs := rfl
@[simp] theorem Core.setQ_kOver (c : Core) (n : BitVec 3) (v : Bool) : (c.setQ n v).kOver = c.kOver := rfl
@[simp] theorem Core.setQ_raisedAt (c : Core) (n : BitVec 3) (v : Bool) : (c.setQ n v).raisedAt = c.raisedAt := rfl
@[simp] theorem Core.setQ_raised (c : Core) (n : BitVec 3) (v : Bool) : (c.setQ n v).raised = c.raised := rfl
@[simp] theorem Core.setQ_sflate (c : Core) (n : BitVec 3) (v : Bool) : (c.setQ n v).sflate = c.sflate := rfl
@[simp] theorem Core.setQ_strm (c : Core) (n : BitVec 3) (v : Bool) : (c.setQ n v).strm = c.strm := rfl
@[simp] theorem Core.setQ_icache (c : Core) (n : BitVec 3) (v : Bool) : (c.setQ n v).icache = c.icache := rfl
@[simp] theorem Core.setQ_nextId (c : Core) (n : BitVec 3) (v : Bool) : (c.setQ n v).nextId = c.nextId := rfl
@[simp] theorem Core.setQ_acc (c : Core) (n : BitVec 3) (v : Bool) : (c.setQ n v).acc = c.acc := rfl
@[simp] theorem Core.setQ_fl (c : Core) (n : BitVec 3) (v : Bool) : (c.setQ n v).fl = c.fl := rfl
@[simp] theorem Core.setQ_fences (c : Core) (n : BitVec 3) (v : Bool) : (c.setQ n v).fences = c.fences := rfl
@[simp] theorem Core.setQ_slog (c : Core) (n : BitVec 3) (v : Bool) : (c.setQ n v).slog = c.slog := rfl
@[simp] theorem Core.setQ_causes (c : Core) (n : BitVec 3) (v : Bool) : (c.setQ n v).causes = c.causes := rfl
@[simp] theorem Core.setQ_settled (c : Core) (n : BitVec 3) (v : Bool) : (c.setQ n v).settled = c.settled := rfl
@[simp] theorem Core.setQ_framed (c : Core) (n : BitVec 3) (v : Bool) : (c.setQ n v).framed = c.framed := rfl
@[simp] theorem Core.setQ_kimg (c : Core) (n : BitVec 3) (v : Bool) : (c.setQ n v).kimg = c.kimg := rfl
@[simp] theorem Core.setQ_frameHeld (c : Core) (n : BitVec 3) (v : Bool) : (c.setQ n v).frameHeld = c.frameHeld := rfl
@[simp] theorem Core.setQ_route (c : Core) (n : BitVec 3) (v : Bool) : (c.setQ n v).route = c.route := rfl
@[simp] theorem Core.setQ_pages (c : Core) (n : BitVec 3) (v : Bool) : (c.setQ n v).pages = c.pages := rfl

/-! ### `setB` -/

@[simp] theorem Core.setB_st (c : Core) (n : BitVec 4) (v : Reg) : (c.setB n v).st = c.st := rfl
@[simp] theorem Core.setB_before (c : Core) (n : BitVec 4) (v : Reg) : (c.setB n v).before = c.before := rfl
@[simp] theorem Core.setB_task (c : Core) (n : BitVec 4) (v : Reg) : (c.setB n v).task = c.task := rfl
@[simp] theorem Core.setB_succ (c : Core) (n : BitVec 4) (v : Reg) : (c.setB n v).succ = c.succ := rfl
@[simp] theorem Core.setB_exitStep (c : Core) (n : BitVec 4) (v : Reg) : (c.setB n v).exitStep = c.exitStep := rfl
@[simp] theorem Core.setB_inHandler (c : Core) (n : BitVec 4) (v : Reg) : (c.setB n v).inHandler = c.inHandler := rfl
@[simp] theorem Core.setB_hstop (c : Core) (n : BitVec 4) (v : Reg) : (c.setB n v).hstop = c.hstop := rfl
@[simp] theorem Core.setB_returning (c : Core) (n : BitVec 4) (v : Reg) : (c.setB n v).returning = c.returning := rfl
@[simp] theorem Core.setB_hid (c : Core) (n : BitVec 4) (v : Reg) : (c.setB n v).hid = c.hid := rfl
@[simp] theorem Core.setB_cyc0 (c : Core) (n : BitVec 4) (v : Reg) : (c.setB n v).cyc0 = c.cyc0 := rfl
@[simp] theorem Core.setB_ran (c : Core) (n : BitVec 4) (v : Reg) : (c.setB n v).ran = c.ran := rfl
@[simp] theorem Core.setB_cycFrom (c : Core) (n : BitVec 4) (v : Reg) : (c.setB n v).cycFrom = c.cycFrom := rfl
@[simp] theorem Core.setB_parkedAt (c : Core) (n : BitVec 4) (v : Reg) : (c.setB n v).parkedAt = c.parkedAt := rfl
@[simp] theorem Core.setB_s (c : Core) (n : BitVec 4) (v : Reg) : (c.setB n v).s = c.s := rfl
@[simp] theorem Core.setB_q (c : Core) (n : BitVec 4) (v : Reg) : (c.setB n v).q = c.q := rfl
@[simp] theorem Core.setB_ret (c : Core) (n : BitVec 4) (v : Reg) : (c.setB n v).ret = c.ret := rfl
@[simp] theorem Core.setB_sflags (c : Core) (n : BitVec 4) (v : Reg) : (c.setB n v).sflags = c.sflags := rfl
@[simp] theorem Core.setB_dphase (c : Core) (n : BitVec 4) (v : Reg) : (c.setB n v).dphase = c.dphase := rfl
@[simp] theorem Core.setB_dstep (c : Core) (n : BitVec 4) (v : Reg) : (c.setB n v).dstep = c.dstep := rfl
@[simp] theorem Core.setB_dphNext (c : Core) (n : BitVec 4) (v : Reg) : (c.setB n v).dphNext = c.dphNext := rfl
@[simp] theorem Core.setB_dstNext (c : Core) (n : BitVec 4) (v : Reg) : (c.setB n v).dstNext = c.dstNext := rfl
@[simp] theorem Core.setB_ovf (c : Core) (n : BitVec 4) (v : Reg) : (c.setB n v).ovf = c.ovf := rfl
@[simp] theorem Core.setB_streak (c : Core) (n : BitVec 4) (v : Reg) : (c.setB n v).streak = c.streak := rfl
@[simp] theorem Core.setB_waitw (c : Core) (n : BitVec 4) (v : Reg) : (c.setB n v).waitw = c.waitw := rfl
@[simp] theorem Core.setB_heldW (c : Core) (n : BitVec 4) (v : Reg) : (c.setB n v).heldW = c.heldW := rfl
@[simp] theorem Core.setB_engReq (c : Core) (n : BitVec 4) (v : Reg) : (c.setB n v).engReq = c.engReq := rfl
@[simp] theorem Core.setB_lcmds (c : Core) (n : BitVec 4) (v : Reg) : (c.setB n v).lcmds = c.lcmds := rfl
@[simp] theorem Core.setB_g (c : Core) (n : BitVec 4) (v : Reg) : (c.setB n v).g = c.g := rfl
@[simp] theorem Core.setB_dty (c : Core) (n : BitVec 4) (v : Reg) : (c.setB n v).dty = c.dty := rfl
@[simp] theorem Core.setB_slots (c : Core) (n : BitVec 4) (v : Reg) : (c.setB n v).slots = c.slots := rfl
@[simp] theorem Core.setB_e (c : Core) (n : BitVec 4) (v : Reg) : (c.setB n v).e = c.e := rfl
@[simp] theorem Core.setB_mq (c : Core) (n : BitVec 4) (v : Reg) : (c.setB n v).mq = c.mq := rfl
@[simp] theorem Core.setB_drains (c : Core) (n : BitVec 4) (v : Reg) : (c.setB n v).drains = c.drains := rfl
@[simp] theorem Core.setB_x (c : Core) (n : BitVec 4) (v : Reg) : (c.setB n v).x = c.x := rfl
@[simp] theorem Core.setB_p (c : Core) (n : BitVec 4) (v : Reg) : (c.setB n v).p = c.p := rfl
@[simp] theorem Core.setB_vbase (c : Core) (n : BitVec 4) (v : Reg) : (c.setB n v).vbase = c.vbase := rfl
@[simp] theorem Core.setB_rot (c : Core) (n : BitVec 4) (v : Reg) : (c.setB n v).rot = c.rot := rfl
@[simp] theorem Core.setB_vgov (c : Core) (n : BitVec 4) (v : Reg) : (c.setB n v).vgov = c.vgov := rfl
@[simp] theorem Core.setB_vflags (c : Core) (n : BitVec 4) (v : Reg) : (c.setB n v).vflags = c.vflags := rfl
@[simp] theorem Core.setB_seed (c : Core) (n : BitVec 4) (v : Reg) : (c.setB n v).seed = c.seed := rfl
@[simp] theorem Core.setB_seedS (c : Core) (n : BitVec 4) (v : Reg) : (c.setB n v).seedS = c.seedS := rfl
@[simp] theorem Core.setB_bufW (c : Core) (n : BitVec 4) (v : Reg) : (c.setB n v).bufW = c.bufW := rfl
@[simp] theorem Core.setB_bufA (c : Core) (n : BitVec 4) (v : Reg) : (c.setB n v).bufA = c.bufA := rfl
@[simp] theorem Core.setB_bufS (c : Core) (n : BitVec 4) (v : Reg) : (c.setB n v).bufS = c.bufS := rfl
@[simp] theorem Core.setB_bufX (c : Core) (n : BitVec 4) (v : Reg) : (c.setB n v).bufX = c.bufX := rfl
@[simp] theorem Core.setB_tq (c : Core) (n : BitVec 4) (v : Reg) : (c.setB n v).tq = c.tq := rfl
@[simp] theorem Core.setB_k (c : Core) (n : BitVec 4) (v : Reg) : (c.setB n v).k = c.k := rfl
@[simp] theorem Core.setB_kAt (c : Core) (n : BitVec 4) (v : Reg) : (c.setB n v).kAt = c.kAt := rfl
@[simp] theorem Core.setB_kPh (c : Core) (n : BitVec 4) (v : Reg) : (c.setB n v).kPh = c.kPh := rfl
@[simp] theorem Core.setB_kIncs (c : Core) (n : BitVec 4) (v : Reg) : (c.setB n v).kIncs = c.kIncs := rfl
@[simp] theorem Core.setB_kOver (c : Core) (n : BitVec 4) (v : Reg) : (c.setB n v).kOver = c.kOver := rfl
@[simp] theorem Core.setB_raisedAt (c : Core) (n : BitVec 4) (v : Reg) : (c.setB n v).raisedAt = c.raisedAt := rfl
@[simp] theorem Core.setB_raised (c : Core) (n : BitVec 4) (v : Reg) : (c.setB n v).raised = c.raised := rfl
@[simp] theorem Core.setB_sflate (c : Core) (n : BitVec 4) (v : Reg) : (c.setB n v).sflate = c.sflate := rfl
@[simp] theorem Core.setB_strm (c : Core) (n : BitVec 4) (v : Reg) : (c.setB n v).strm = c.strm := rfl
@[simp] theorem Core.setB_icache (c : Core) (n : BitVec 4) (v : Reg) : (c.setB n v).icache = c.icache := rfl
@[simp] theorem Core.setB_nextId (c : Core) (n : BitVec 4) (v : Reg) : (c.setB n v).nextId = c.nextId := rfl
@[simp] theorem Core.setB_acc (c : Core) (n : BitVec 4) (v : Reg) : (c.setB n v).acc = c.acc := rfl
@[simp] theorem Core.setB_fl (c : Core) (n : BitVec 4) (v : Reg) : (c.setB n v).fl = c.fl := rfl
@[simp] theorem Core.setB_fences (c : Core) (n : BitVec 4) (v : Reg) : (c.setB n v).fences = c.fences := rfl
@[simp] theorem Core.setB_slog (c : Core) (n : BitVec 4) (v : Reg) : (c.setB n v).slog = c.slog := rfl
@[simp] theorem Core.setB_causes (c : Core) (n : BitVec 4) (v : Reg) : (c.setB n v).causes = c.causes := rfl
@[simp] theorem Core.setB_settled (c : Core) (n : BitVec 4) (v : Reg) : (c.setB n v).settled = c.settled := rfl
@[simp] theorem Core.setB_framed (c : Core) (n : BitVec 4) (v : Reg) : (c.setB n v).framed = c.framed := rfl
@[simp] theorem Core.setB_kimg (c : Core) (n : BitVec 4) (v : Reg) : (c.setB n v).kimg = c.kimg := rfl
@[simp] theorem Core.setB_frameHeld (c : Core) (n : BitVec 4) (v : Reg) : (c.setB n v).frameHeld = c.frameHeld := rfl
@[simp] theorem Core.setB_route (c : Core) (n : BitVec 4) (v : Reg) : (c.setB n v).route = c.route := rfl
@[simp] theorem Core.setB_pages (c : Core) (n : BitVec 4) (v : Reg) : (c.setB n v).pages = c.pages := rfl

/-! ### `setG` -/

@[simp] theorem Core.setG_st (c : Core) (n : BitVec 4) (v : Reg) : (c.setG n v).st = c.st := rfl
@[simp] theorem Core.setG_before (c : Core) (n : BitVec 4) (v : Reg) : (c.setG n v).before = c.before := rfl
@[simp] theorem Core.setG_task (c : Core) (n : BitVec 4) (v : Reg) : (c.setG n v).task = c.task := rfl
@[simp] theorem Core.setG_succ (c : Core) (n : BitVec 4) (v : Reg) : (c.setG n v).succ = c.succ := rfl
@[simp] theorem Core.setG_exitStep (c : Core) (n : BitVec 4) (v : Reg) : (c.setG n v).exitStep = c.exitStep := rfl
@[simp] theorem Core.setG_inHandler (c : Core) (n : BitVec 4) (v : Reg) : (c.setG n v).inHandler = c.inHandler := rfl
@[simp] theorem Core.setG_hstop (c : Core) (n : BitVec 4) (v : Reg) : (c.setG n v).hstop = c.hstop := rfl
@[simp] theorem Core.setG_returning (c : Core) (n : BitVec 4) (v : Reg) : (c.setG n v).returning = c.returning := rfl
@[simp] theorem Core.setG_hid (c : Core) (n : BitVec 4) (v : Reg) : (c.setG n v).hid = c.hid := rfl
@[simp] theorem Core.setG_cyc0 (c : Core) (n : BitVec 4) (v : Reg) : (c.setG n v).cyc0 = c.cyc0 := rfl
@[simp] theorem Core.setG_ran (c : Core) (n : BitVec 4) (v : Reg) : (c.setG n v).ran = c.ran := rfl
@[simp] theorem Core.setG_cycFrom (c : Core) (n : BitVec 4) (v : Reg) : (c.setG n v).cycFrom = c.cycFrom := rfl
@[simp] theorem Core.setG_parkedAt (c : Core) (n : BitVec 4) (v : Reg) : (c.setG n v).parkedAt = c.parkedAt := rfl
@[simp] theorem Core.setG_s (c : Core) (n : BitVec 4) (v : Reg) : (c.setG n v).s = c.s := rfl
@[simp] theorem Core.setG_q (c : Core) (n : BitVec 4) (v : Reg) : (c.setG n v).q = c.q := rfl
@[simp] theorem Core.setG_ret (c : Core) (n : BitVec 4) (v : Reg) : (c.setG n v).ret = c.ret := rfl
@[simp] theorem Core.setG_sflags (c : Core) (n : BitVec 4) (v : Reg) : (c.setG n v).sflags = c.sflags := rfl
@[simp] theorem Core.setG_dphase (c : Core) (n : BitVec 4) (v : Reg) : (c.setG n v).dphase = c.dphase := rfl
@[simp] theorem Core.setG_dstep (c : Core) (n : BitVec 4) (v : Reg) : (c.setG n v).dstep = c.dstep := rfl
@[simp] theorem Core.setG_dphNext (c : Core) (n : BitVec 4) (v : Reg) : (c.setG n v).dphNext = c.dphNext := rfl
@[simp] theorem Core.setG_dstNext (c : Core) (n : BitVec 4) (v : Reg) : (c.setG n v).dstNext = c.dstNext := rfl
@[simp] theorem Core.setG_ovf (c : Core) (n : BitVec 4) (v : Reg) : (c.setG n v).ovf = c.ovf := rfl
@[simp] theorem Core.setG_streak (c : Core) (n : BitVec 4) (v : Reg) : (c.setG n v).streak = c.streak := rfl
@[simp] theorem Core.setG_waitw (c : Core) (n : BitVec 4) (v : Reg) : (c.setG n v).waitw = c.waitw := rfl
@[simp] theorem Core.setG_heldW (c : Core) (n : BitVec 4) (v : Reg) : (c.setG n v).heldW = c.heldW := rfl
@[simp] theorem Core.setG_engReq (c : Core) (n : BitVec 4) (v : Reg) : (c.setG n v).engReq = c.engReq := rfl
@[simp] theorem Core.setG_b (c : Core) (n : BitVec 4) (v : Reg) : (c.setG n v).b = c.b := rfl
@[simp] theorem Core.setG_lcmds (c : Core) (n : BitVec 4) (v : Reg) : (c.setG n v).lcmds = c.lcmds := rfl
@[simp] theorem Core.setG_dty (c : Core) (n : BitVec 4) (v : Reg) : (c.setG n v).dty = c.dty := rfl
@[simp] theorem Core.setG_slots (c : Core) (n : BitVec 4) (v : Reg) : (c.setG n v).slots = c.slots := rfl
@[simp] theorem Core.setG_e (c : Core) (n : BitVec 4) (v : Reg) : (c.setG n v).e = c.e := rfl
@[simp] theorem Core.setG_mq (c : Core) (n : BitVec 4) (v : Reg) : (c.setG n v).mq = c.mq := rfl
@[simp] theorem Core.setG_drains (c : Core) (n : BitVec 4) (v : Reg) : (c.setG n v).drains = c.drains := rfl
@[simp] theorem Core.setG_x (c : Core) (n : BitVec 4) (v : Reg) : (c.setG n v).x = c.x := rfl
@[simp] theorem Core.setG_p (c : Core) (n : BitVec 4) (v : Reg) : (c.setG n v).p = c.p := rfl
@[simp] theorem Core.setG_vbase (c : Core) (n : BitVec 4) (v : Reg) : (c.setG n v).vbase = c.vbase := rfl
@[simp] theorem Core.setG_rot (c : Core) (n : BitVec 4) (v : Reg) : (c.setG n v).rot = c.rot := rfl
@[simp] theorem Core.setG_vgov (c : Core) (n : BitVec 4) (v : Reg) : (c.setG n v).vgov = c.vgov := rfl
@[simp] theorem Core.setG_vflags (c : Core) (n : BitVec 4) (v : Reg) : (c.setG n v).vflags = c.vflags := rfl
@[simp] theorem Core.setG_seed (c : Core) (n : BitVec 4) (v : Reg) : (c.setG n v).seed = c.seed := rfl
@[simp] theorem Core.setG_seedS (c : Core) (n : BitVec 4) (v : Reg) : (c.setG n v).seedS = c.seedS := rfl
@[simp] theorem Core.setG_bufW (c : Core) (n : BitVec 4) (v : Reg) : (c.setG n v).bufW = c.bufW := rfl
@[simp] theorem Core.setG_bufA (c : Core) (n : BitVec 4) (v : Reg) : (c.setG n v).bufA = c.bufA := rfl
@[simp] theorem Core.setG_bufS (c : Core) (n : BitVec 4) (v : Reg) : (c.setG n v).bufS = c.bufS := rfl
@[simp] theorem Core.setG_bufX (c : Core) (n : BitVec 4) (v : Reg) : (c.setG n v).bufX = c.bufX := rfl
@[simp] theorem Core.setG_tq (c : Core) (n : BitVec 4) (v : Reg) : (c.setG n v).tq = c.tq := rfl
@[simp] theorem Core.setG_k (c : Core) (n : BitVec 4) (v : Reg) : (c.setG n v).k = c.k := rfl
@[simp] theorem Core.setG_kAt (c : Core) (n : BitVec 4) (v : Reg) : (c.setG n v).kAt = c.kAt := rfl
@[simp] theorem Core.setG_kPh (c : Core) (n : BitVec 4) (v : Reg) : (c.setG n v).kPh = c.kPh := rfl
@[simp] theorem Core.setG_kIncs (c : Core) (n : BitVec 4) (v : Reg) : (c.setG n v).kIncs = c.kIncs := rfl
@[simp] theorem Core.setG_kOver (c : Core) (n : BitVec 4) (v : Reg) : (c.setG n v).kOver = c.kOver := rfl
@[simp] theorem Core.setG_raisedAt (c : Core) (n : BitVec 4) (v : Reg) : (c.setG n v).raisedAt = c.raisedAt := rfl
@[simp] theorem Core.setG_raised (c : Core) (n : BitVec 4) (v : Reg) : (c.setG n v).raised = c.raised := rfl
@[simp] theorem Core.setG_sflate (c : Core) (n : BitVec 4) (v : Reg) : (c.setG n v).sflate = c.sflate := rfl
@[simp] theorem Core.setG_strm (c : Core) (n : BitVec 4) (v : Reg) : (c.setG n v).strm = c.strm := rfl
@[simp] theorem Core.setG_icache (c : Core) (n : BitVec 4) (v : Reg) : (c.setG n v).icache = c.icache := rfl
@[simp] theorem Core.setG_nextId (c : Core) (n : BitVec 4) (v : Reg) : (c.setG n v).nextId = c.nextId := rfl
@[simp] theorem Core.setG_acc (c : Core) (n : BitVec 4) (v : Reg) : (c.setG n v).acc = c.acc := rfl
@[simp] theorem Core.setG_fl (c : Core) (n : BitVec 4) (v : Reg) : (c.setG n v).fl = c.fl := rfl
@[simp] theorem Core.setG_fences (c : Core) (n : BitVec 4) (v : Reg) : (c.setG n v).fences = c.fences := rfl
@[simp] theorem Core.setG_slog (c : Core) (n : BitVec 4) (v : Reg) : (c.setG n v).slog = c.slog := rfl
@[simp] theorem Core.setG_causes (c : Core) (n : BitVec 4) (v : Reg) : (c.setG n v).causes = c.causes := rfl
@[simp] theorem Core.setG_settled (c : Core) (n : BitVec 4) (v : Reg) : (c.setG n v).settled = c.settled := rfl
@[simp] theorem Core.setG_framed (c : Core) (n : BitVec 4) (v : Reg) : (c.setG n v).framed = c.framed := rfl
@[simp] theorem Core.setG_kimg (c : Core) (n : BitVec 4) (v : Reg) : (c.setG n v).kimg = c.kimg := rfl
@[simp] theorem Core.setG_frameHeld (c : Core) (n : BitVec 4) (v : Reg) : (c.setG n v).frameHeld = c.frameHeld := rfl
@[simp] theorem Core.setG_route (c : Core) (n : BitVec 4) (v : Reg) : (c.setG n v).route = c.route := rfl
@[simp] theorem Core.setG_pages (c : Core) (n : BitVec 4) (v : Reg) : (c.setG n v).pages = c.pages := rfl

/-! ### `setX` -/

@[simp] theorem Core.setX_st (c : Core) (n : BitVec 4) (v : Reg) : (c.setX n v).st = c.st := rfl
@[simp] theorem Core.setX_before (c : Core) (n : BitVec 4) (v : Reg) : (c.setX n v).before = c.before := rfl
@[simp] theorem Core.setX_task (c : Core) (n : BitVec 4) (v : Reg) : (c.setX n v).task = c.task := rfl
@[simp] theorem Core.setX_succ (c : Core) (n : BitVec 4) (v : Reg) : (c.setX n v).succ = c.succ := rfl
@[simp] theorem Core.setX_exitStep (c : Core) (n : BitVec 4) (v : Reg) : (c.setX n v).exitStep = c.exitStep := rfl
@[simp] theorem Core.setX_inHandler (c : Core) (n : BitVec 4) (v : Reg) : (c.setX n v).inHandler = c.inHandler := rfl
@[simp] theorem Core.setX_hstop (c : Core) (n : BitVec 4) (v : Reg) : (c.setX n v).hstop = c.hstop := rfl
@[simp] theorem Core.setX_returning (c : Core) (n : BitVec 4) (v : Reg) : (c.setX n v).returning = c.returning := rfl
@[simp] theorem Core.setX_hid (c : Core) (n : BitVec 4) (v : Reg) : (c.setX n v).hid = c.hid := rfl
@[simp] theorem Core.setX_cyc0 (c : Core) (n : BitVec 4) (v : Reg) : (c.setX n v).cyc0 = c.cyc0 := rfl
@[simp] theorem Core.setX_ran (c : Core) (n : BitVec 4) (v : Reg) : (c.setX n v).ran = c.ran := rfl
@[simp] theorem Core.setX_cycFrom (c : Core) (n : BitVec 4) (v : Reg) : (c.setX n v).cycFrom = c.cycFrom := rfl
@[simp] theorem Core.setX_parkedAt (c : Core) (n : BitVec 4) (v : Reg) : (c.setX n v).parkedAt = c.parkedAt := rfl
@[simp] theorem Core.setX_s (c : Core) (n : BitVec 4) (v : Reg) : (c.setX n v).s = c.s := rfl
@[simp] theorem Core.setX_q (c : Core) (n : BitVec 4) (v : Reg) : (c.setX n v).q = c.q := rfl
@[simp] theorem Core.setX_ret (c : Core) (n : BitVec 4) (v : Reg) : (c.setX n v).ret = c.ret := rfl
@[simp] theorem Core.setX_sflags (c : Core) (n : BitVec 4) (v : Reg) : (c.setX n v).sflags = c.sflags := rfl
@[simp] theorem Core.setX_dphase (c : Core) (n : BitVec 4) (v : Reg) : (c.setX n v).dphase = c.dphase := rfl
@[simp] theorem Core.setX_dstep (c : Core) (n : BitVec 4) (v : Reg) : (c.setX n v).dstep = c.dstep := rfl
@[simp] theorem Core.setX_dphNext (c : Core) (n : BitVec 4) (v : Reg) : (c.setX n v).dphNext = c.dphNext := rfl
@[simp] theorem Core.setX_dstNext (c : Core) (n : BitVec 4) (v : Reg) : (c.setX n v).dstNext = c.dstNext := rfl
@[simp] theorem Core.setX_ovf (c : Core) (n : BitVec 4) (v : Reg) : (c.setX n v).ovf = c.ovf := rfl
@[simp] theorem Core.setX_streak (c : Core) (n : BitVec 4) (v : Reg) : (c.setX n v).streak = c.streak := rfl
@[simp] theorem Core.setX_waitw (c : Core) (n : BitVec 4) (v : Reg) : (c.setX n v).waitw = c.waitw := rfl
@[simp] theorem Core.setX_heldW (c : Core) (n : BitVec 4) (v : Reg) : (c.setX n v).heldW = c.heldW := rfl
@[simp] theorem Core.setX_engReq (c : Core) (n : BitVec 4) (v : Reg) : (c.setX n v).engReq = c.engReq := rfl
@[simp] theorem Core.setX_b (c : Core) (n : BitVec 4) (v : Reg) : (c.setX n v).b = c.b := rfl
@[simp] theorem Core.setX_lcmds (c : Core) (n : BitVec 4) (v : Reg) : (c.setX n v).lcmds = c.lcmds := rfl
@[simp] theorem Core.setX_g (c : Core) (n : BitVec 4) (v : Reg) : (c.setX n v).g = c.g := rfl
@[simp] theorem Core.setX_dty (c : Core) (n : BitVec 4) (v : Reg) : (c.setX n v).dty = c.dty := rfl
@[simp] theorem Core.setX_slots (c : Core) (n : BitVec 4) (v : Reg) : (c.setX n v).slots = c.slots := rfl
@[simp] theorem Core.setX_e (c : Core) (n : BitVec 4) (v : Reg) : (c.setX n v).e = c.e := rfl
@[simp] theorem Core.setX_mq (c : Core) (n : BitVec 4) (v : Reg) : (c.setX n v).mq = c.mq := rfl
@[simp] theorem Core.setX_drains (c : Core) (n : BitVec 4) (v : Reg) : (c.setX n v).drains = c.drains := rfl
@[simp] theorem Core.setX_p (c : Core) (n : BitVec 4) (v : Reg) : (c.setX n v).p = c.p := rfl
@[simp] theorem Core.setX_vbase (c : Core) (n : BitVec 4) (v : Reg) : (c.setX n v).vbase = c.vbase := rfl
@[simp] theorem Core.setX_rot (c : Core) (n : BitVec 4) (v : Reg) : (c.setX n v).rot = c.rot := rfl
@[simp] theorem Core.setX_vgov (c : Core) (n : BitVec 4) (v : Reg) : (c.setX n v).vgov = c.vgov := rfl
@[simp] theorem Core.setX_vflags (c : Core) (n : BitVec 4) (v : Reg) : (c.setX n v).vflags = c.vflags := rfl
@[simp] theorem Core.setX_seed (c : Core) (n : BitVec 4) (v : Reg) : (c.setX n v).seed = c.seed := rfl
@[simp] theorem Core.setX_seedS (c : Core) (n : BitVec 4) (v : Reg) : (c.setX n v).seedS = c.seedS := rfl
@[simp] theorem Core.setX_bufW (c : Core) (n : BitVec 4) (v : Reg) : (c.setX n v).bufW = c.bufW := rfl
@[simp] theorem Core.setX_bufA (c : Core) (n : BitVec 4) (v : Reg) : (c.setX n v).bufA = c.bufA := rfl
@[simp] theorem Core.setX_bufS (c : Core) (n : BitVec 4) (v : Reg) : (c.setX n v).bufS = c.bufS := rfl
@[simp] theorem Core.setX_bufX (c : Core) (n : BitVec 4) (v : Reg) : (c.setX n v).bufX = c.bufX := rfl
@[simp] theorem Core.setX_tq (c : Core) (n : BitVec 4) (v : Reg) : (c.setX n v).tq = c.tq := rfl
@[simp] theorem Core.setX_k (c : Core) (n : BitVec 4) (v : Reg) : (c.setX n v).k = c.k := rfl
@[simp] theorem Core.setX_kAt (c : Core) (n : BitVec 4) (v : Reg) : (c.setX n v).kAt = c.kAt := rfl
@[simp] theorem Core.setX_kPh (c : Core) (n : BitVec 4) (v : Reg) : (c.setX n v).kPh = c.kPh := rfl
@[simp] theorem Core.setX_kIncs (c : Core) (n : BitVec 4) (v : Reg) : (c.setX n v).kIncs = c.kIncs := rfl
@[simp] theorem Core.setX_kOver (c : Core) (n : BitVec 4) (v : Reg) : (c.setX n v).kOver = c.kOver := rfl
@[simp] theorem Core.setX_raisedAt (c : Core) (n : BitVec 4) (v : Reg) : (c.setX n v).raisedAt = c.raisedAt := rfl
@[simp] theorem Core.setX_raised (c : Core) (n : BitVec 4) (v : Reg) : (c.setX n v).raised = c.raised := rfl
@[simp] theorem Core.setX_sflate (c : Core) (n : BitVec 4) (v : Reg) : (c.setX n v).sflate = c.sflate := rfl
@[simp] theorem Core.setX_strm (c : Core) (n : BitVec 4) (v : Reg) : (c.setX n v).strm = c.strm := rfl
@[simp] theorem Core.setX_icache (c : Core) (n : BitVec 4) (v : Reg) : (c.setX n v).icache = c.icache := rfl
@[simp] theorem Core.setX_nextId (c : Core) (n : BitVec 4) (v : Reg) : (c.setX n v).nextId = c.nextId := rfl
@[simp] theorem Core.setX_acc (c : Core) (n : BitVec 4) (v : Reg) : (c.setX n v).acc = c.acc := rfl
@[simp] theorem Core.setX_fl (c : Core) (n : BitVec 4) (v : Reg) : (c.setX n v).fl = c.fl := rfl
@[simp] theorem Core.setX_fences (c : Core) (n : BitVec 4) (v : Reg) : (c.setX n v).fences = c.fences := rfl
@[simp] theorem Core.setX_slog (c : Core) (n : BitVec 4) (v : Reg) : (c.setX n v).slog = c.slog := rfl
@[simp] theorem Core.setX_causes (c : Core) (n : BitVec 4) (v : Reg) : (c.setX n v).causes = c.causes := rfl
@[simp] theorem Core.setX_settled (c : Core) (n : BitVec 4) (v : Reg) : (c.setX n v).settled = c.settled := rfl
@[simp] theorem Core.setX_framed (c : Core) (n : BitVec 4) (v : Reg) : (c.setX n v).framed = c.framed := rfl
@[simp] theorem Core.setX_kimg (c : Core) (n : BitVec 4) (v : Reg) : (c.setX n v).kimg = c.kimg := rfl
@[simp] theorem Core.setX_frameHeld (c : Core) (n : BitVec 4) (v : Reg) : (c.setX n v).frameHeld = c.frameHeld := rfl
@[simp] theorem Core.setX_route (c : Core) (n : BitVec 4) (v : Reg) : (c.setX n v).route = c.route := rfl
@[simp] theorem Core.setX_pages (c : Core) (n : BitVec 4) (v : Reg) : (c.setX n v).pages = c.pages := rfl

/-! ### `setP` -/

@[simp] theorem Core.setP_st (c : Core) (n : BitVec 4) (v : BitVec 128) : (c.setP n v).st = c.st := by unfold Core.setP; split <;> rfl
@[simp] theorem Core.setP_before (c : Core) (n : BitVec 4) (v : BitVec 128) : (c.setP n v).before = c.before := by unfold Core.setP; split <;> rfl
@[simp] theorem Core.setP_task (c : Core) (n : BitVec 4) (v : BitVec 128) : (c.setP n v).task = c.task := by unfold Core.setP; split <;> rfl
@[simp] theorem Core.setP_succ (c : Core) (n : BitVec 4) (v : BitVec 128) : (c.setP n v).succ = c.succ := by unfold Core.setP; split <;> rfl
@[simp] theorem Core.setP_exitStep (c : Core) (n : BitVec 4) (v : BitVec 128) : (c.setP n v).exitStep = c.exitStep := by unfold Core.setP; split <;> rfl
@[simp] theorem Core.setP_inHandler (c : Core) (n : BitVec 4) (v : BitVec 128) : (c.setP n v).inHandler = c.inHandler := by unfold Core.setP; split <;> rfl
@[simp] theorem Core.setP_hstop (c : Core) (n : BitVec 4) (v : BitVec 128) : (c.setP n v).hstop = c.hstop := by unfold Core.setP; split <;> rfl
@[simp] theorem Core.setP_returning (c : Core) (n : BitVec 4) (v : BitVec 128) : (c.setP n v).returning = c.returning := by unfold Core.setP; split <;> rfl
@[simp] theorem Core.setP_hid (c : Core) (n : BitVec 4) (v : BitVec 128) : (c.setP n v).hid = c.hid := by unfold Core.setP; split <;> rfl
@[simp] theorem Core.setP_cyc0 (c : Core) (n : BitVec 4) (v : BitVec 128) : (c.setP n v).cyc0 = c.cyc0 := by unfold Core.setP; split <;> rfl
@[simp] theorem Core.setP_ran (c : Core) (n : BitVec 4) (v : BitVec 128) : (c.setP n v).ran = c.ran := by unfold Core.setP; split <;> rfl
@[simp] theorem Core.setP_cycFrom (c : Core) (n : BitVec 4) (v : BitVec 128) : (c.setP n v).cycFrom = c.cycFrom := by unfold Core.setP; split <;> rfl
@[simp] theorem Core.setP_parkedAt (c : Core) (n : BitVec 4) (v : BitVec 128) : (c.setP n v).parkedAt = c.parkedAt := by unfold Core.setP; split <;> rfl
@[simp] theorem Core.setP_s (c : Core) (n : BitVec 4) (v : BitVec 128) : (c.setP n v).s = c.s := by unfold Core.setP; split <;> rfl
@[simp] theorem Core.setP_q (c : Core) (n : BitVec 4) (v : BitVec 128) : (c.setP n v).q = c.q := by unfold Core.setP; split <;> rfl
@[simp] theorem Core.setP_ret (c : Core) (n : BitVec 4) (v : BitVec 128) : (c.setP n v).ret = c.ret := by unfold Core.setP; split <;> rfl
@[simp] theorem Core.setP_sflags (c : Core) (n : BitVec 4) (v : BitVec 128) : (c.setP n v).sflags = c.sflags := by unfold Core.setP; split <;> rfl
@[simp] theorem Core.setP_dphase (c : Core) (n : BitVec 4) (v : BitVec 128) : (c.setP n v).dphase = c.dphase := by unfold Core.setP; split <;> rfl
@[simp] theorem Core.setP_dstep (c : Core) (n : BitVec 4) (v : BitVec 128) : (c.setP n v).dstep = c.dstep := by unfold Core.setP; split <;> rfl
@[simp] theorem Core.setP_dphNext (c : Core) (n : BitVec 4) (v : BitVec 128) : (c.setP n v).dphNext = c.dphNext := by unfold Core.setP; split <;> rfl
@[simp] theorem Core.setP_dstNext (c : Core) (n : BitVec 4) (v : BitVec 128) : (c.setP n v).dstNext = c.dstNext := by unfold Core.setP; split <;> rfl
@[simp] theorem Core.setP_ovf (c : Core) (n : BitVec 4) (v : BitVec 128) : (c.setP n v).ovf = c.ovf := by unfold Core.setP; split <;> rfl
@[simp] theorem Core.setP_streak (c : Core) (n : BitVec 4) (v : BitVec 128) : (c.setP n v).streak = c.streak := by unfold Core.setP; split <;> rfl
@[simp] theorem Core.setP_waitw (c : Core) (n : BitVec 4) (v : BitVec 128) : (c.setP n v).waitw = c.waitw := by unfold Core.setP; split <;> rfl
@[simp] theorem Core.setP_heldW (c : Core) (n : BitVec 4) (v : BitVec 128) : (c.setP n v).heldW = c.heldW := by unfold Core.setP; split <;> rfl
@[simp] theorem Core.setP_engReq (c : Core) (n : BitVec 4) (v : BitVec 128) : (c.setP n v).engReq = c.engReq := by unfold Core.setP; split <;> rfl
@[simp] theorem Core.setP_b (c : Core) (n : BitVec 4) (v : BitVec 128) : (c.setP n v).b = c.b := by unfold Core.setP; split <;> rfl
@[simp] theorem Core.setP_lcmds (c : Core) (n : BitVec 4) (v : BitVec 128) : (c.setP n v).lcmds = c.lcmds := by unfold Core.setP; split <;> rfl
@[simp] theorem Core.setP_g (c : Core) (n : BitVec 4) (v : BitVec 128) : (c.setP n v).g = c.g := by unfold Core.setP; split <;> rfl
@[simp] theorem Core.setP_dty (c : Core) (n : BitVec 4) (v : BitVec 128) : (c.setP n v).dty = c.dty := by unfold Core.setP; split <;> rfl
@[simp] theorem Core.setP_slots (c : Core) (n : BitVec 4) (v : BitVec 128) : (c.setP n v).slots = c.slots := by unfold Core.setP; split <;> rfl
@[simp] theorem Core.setP_e (c : Core) (n : BitVec 4) (v : BitVec 128) : (c.setP n v).e = c.e := by unfold Core.setP; split <;> rfl
@[simp] theorem Core.setP_mq (c : Core) (n : BitVec 4) (v : BitVec 128) : (c.setP n v).mq = c.mq := by unfold Core.setP; split <;> rfl
@[simp] theorem Core.setP_drains (c : Core) (n : BitVec 4) (v : BitVec 128) : (c.setP n v).drains = c.drains := by unfold Core.setP; split <;> rfl
@[simp] theorem Core.setP_x (c : Core) (n : BitVec 4) (v : BitVec 128) : (c.setP n v).x = c.x := by unfold Core.setP; split <;> rfl
@[simp] theorem Core.setP_vbase (c : Core) (n : BitVec 4) (v : BitVec 128) : (c.setP n v).vbase = c.vbase := by unfold Core.setP; split <;> rfl
@[simp] theorem Core.setP_rot (c : Core) (n : BitVec 4) (v : BitVec 128) : (c.setP n v).rot = c.rot := by unfold Core.setP; split <;> rfl
@[simp] theorem Core.setP_vgov (c : Core) (n : BitVec 4) (v : BitVec 128) : (c.setP n v).vgov = c.vgov := by unfold Core.setP; split <;> rfl
@[simp] theorem Core.setP_vflags (c : Core) (n : BitVec 4) (v : BitVec 128) : (c.setP n v).vflags = c.vflags := by unfold Core.setP; split <;> rfl
@[simp] theorem Core.setP_seed (c : Core) (n : BitVec 4) (v : BitVec 128) : (c.setP n v).seed = c.seed := by unfold Core.setP; split <;> rfl
@[simp] theorem Core.setP_seedS (c : Core) (n : BitVec 4) (v : BitVec 128) : (c.setP n v).seedS = c.seedS := by unfold Core.setP; split <;> rfl
@[simp] theorem Core.setP_bufW (c : Core) (n : BitVec 4) (v : BitVec 128) : (c.setP n v).bufW = c.bufW := by unfold Core.setP; split <;> rfl
@[simp] theorem Core.setP_bufA (c : Core) (n : BitVec 4) (v : BitVec 128) : (c.setP n v).bufA = c.bufA := by unfold Core.setP; split <;> rfl
@[simp] theorem Core.setP_bufS (c : Core) (n : BitVec 4) (v : BitVec 128) : (c.setP n v).bufS = c.bufS := by unfold Core.setP; split <;> rfl
@[simp] theorem Core.setP_bufX (c : Core) (n : BitVec 4) (v : BitVec 128) : (c.setP n v).bufX = c.bufX := by unfold Core.setP; split <;> rfl
@[simp] theorem Core.setP_tq (c : Core) (n : BitVec 4) (v : BitVec 128) : (c.setP n v).tq = c.tq := by unfold Core.setP; split <;> rfl
@[simp] theorem Core.setP_k (c : Core) (n : BitVec 4) (v : BitVec 128) : (c.setP n v).k = c.k := by unfold Core.setP; split <;> rfl
@[simp] theorem Core.setP_kAt (c : Core) (n : BitVec 4) (v : BitVec 128) : (c.setP n v).kAt = c.kAt := by unfold Core.setP; split <;> rfl
@[simp] theorem Core.setP_kPh (c : Core) (n : BitVec 4) (v : BitVec 128) : (c.setP n v).kPh = c.kPh := by unfold Core.setP; split <;> rfl
@[simp] theorem Core.setP_kIncs (c : Core) (n : BitVec 4) (v : BitVec 128) : (c.setP n v).kIncs = c.kIncs := by unfold Core.setP; split <;> rfl
@[simp] theorem Core.setP_kOver (c : Core) (n : BitVec 4) (v : BitVec 128) : (c.setP n v).kOver = c.kOver := by unfold Core.setP; split <;> rfl
@[simp] theorem Core.setP_raisedAt (c : Core) (n : BitVec 4) (v : BitVec 128) : (c.setP n v).raisedAt = c.raisedAt := by unfold Core.setP; split <;> rfl
@[simp] theorem Core.setP_raised (c : Core) (n : BitVec 4) (v : BitVec 128) : (c.setP n v).raised = c.raised := by unfold Core.setP; split <;> rfl
@[simp] theorem Core.setP_sflate (c : Core) (n : BitVec 4) (v : BitVec 128) : (c.setP n v).sflate = c.sflate := by unfold Core.setP; split <;> rfl
@[simp] theorem Core.setP_strm (c : Core) (n : BitVec 4) (v : BitVec 128) : (c.setP n v).strm = c.strm := by unfold Core.setP; split <;> rfl
@[simp] theorem Core.setP_icache (c : Core) (n : BitVec 4) (v : BitVec 128) : (c.setP n v).icache = c.icache := by unfold Core.setP; split <;> rfl
@[simp] theorem Core.setP_nextId (c : Core) (n : BitVec 4) (v : BitVec 128) : (c.setP n v).nextId = c.nextId := by unfold Core.setP; split <;> rfl
@[simp] theorem Core.setP_acc (c : Core) (n : BitVec 4) (v : BitVec 128) : (c.setP n v).acc = c.acc := by unfold Core.setP; split <;> rfl
@[simp] theorem Core.setP_fl (c : Core) (n : BitVec 4) (v : BitVec 128) : (c.setP n v).fl = c.fl := by unfold Core.setP; split <;> rfl
@[simp] theorem Core.setP_fences (c : Core) (n : BitVec 4) (v : BitVec 128) : (c.setP n v).fences = c.fences := by unfold Core.setP; split <;> rfl
@[simp] theorem Core.setP_slog (c : Core) (n : BitVec 4) (v : BitVec 128) : (c.setP n v).slog = c.slog := by unfold Core.setP; split <;> rfl
@[simp] theorem Core.setP_causes (c : Core) (n : BitVec 4) (v : BitVec 128) : (c.setP n v).causes = c.causes := by unfold Core.setP; split <;> rfl
@[simp] theorem Core.setP_settled (c : Core) (n : BitVec 4) (v : BitVec 128) : (c.setP n v).settled = c.settled := by unfold Core.setP; split <;> rfl
@[simp] theorem Core.setP_framed (c : Core) (n : BitVec 4) (v : BitVec 128) : (c.setP n v).framed = c.framed := by unfold Core.setP; split <;> rfl
@[simp] theorem Core.setP_kimg (c : Core) (n : BitVec 4) (v : BitVec 128) : (c.setP n v).kimg = c.kimg := by unfold Core.setP; split <;> rfl
@[simp] theorem Core.setP_frameHeld (c : Core) (n : BitVec 4) (v : BitVec 128) : (c.setP n v).frameHeld = c.frameHeld := by unfold Core.setP; split <;> rfl
@[simp] theorem Core.setP_route (c : Core) (n : BitVec 4) (v : BitVec 128) : (c.setP n v).route = c.route := by unfold Core.setP; split <;> rfl
@[simp] theorem Core.setP_pages (c : Core) (n : BitVec 4) (v : BitVec 128) : (c.setP n v).pages = c.pages := by unfold Core.setP; split <;> rfl

/-! ### `setK` -/

@[simp] theorem Core.setK_st (c : Core) (n : BitVec 6) (v : BitVec 24) : (c.setK n v).st = c.st := rfl
@[simp] theorem Core.setK_before (c : Core) (n : BitVec 6) (v : BitVec 24) : (c.setK n v).before = c.before := rfl
@[simp] theorem Core.setK_task (c : Core) (n : BitVec 6) (v : BitVec 24) : (c.setK n v).task = c.task := rfl
@[simp] theorem Core.setK_succ (c : Core) (n : BitVec 6) (v : BitVec 24) : (c.setK n v).succ = c.succ := rfl
@[simp] theorem Core.setK_exitStep (c : Core) (n : BitVec 6) (v : BitVec 24) : (c.setK n v).exitStep = c.exitStep := rfl
@[simp] theorem Core.setK_inHandler (c : Core) (n : BitVec 6) (v : BitVec 24) : (c.setK n v).inHandler = c.inHandler := rfl
@[simp] theorem Core.setK_hstop (c : Core) (n : BitVec 6) (v : BitVec 24) : (c.setK n v).hstop = c.hstop := rfl
@[simp] theorem Core.setK_returning (c : Core) (n : BitVec 6) (v : BitVec 24) : (c.setK n v).returning = c.returning := rfl
@[simp] theorem Core.setK_hid (c : Core) (n : BitVec 6) (v : BitVec 24) : (c.setK n v).hid = c.hid := rfl
@[simp] theorem Core.setK_cyc0 (c : Core) (n : BitVec 6) (v : BitVec 24) : (c.setK n v).cyc0 = c.cyc0 := rfl
@[simp] theorem Core.setK_ran (c : Core) (n : BitVec 6) (v : BitVec 24) : (c.setK n v).ran = c.ran := rfl
@[simp] theorem Core.setK_cycFrom (c : Core) (n : BitVec 6) (v : BitVec 24) : (c.setK n v).cycFrom = c.cycFrom := rfl
@[simp] theorem Core.setK_parkedAt (c : Core) (n : BitVec 6) (v : BitVec 24) : (c.setK n v).parkedAt = c.parkedAt := rfl
@[simp] theorem Core.setK_s (c : Core) (n : BitVec 6) (v : BitVec 24) : (c.setK n v).s = c.s := rfl
@[simp] theorem Core.setK_q (c : Core) (n : BitVec 6) (v : BitVec 24) : (c.setK n v).q = c.q := rfl
@[simp] theorem Core.setK_ret (c : Core) (n : BitVec 6) (v : BitVec 24) : (c.setK n v).ret = c.ret := rfl
@[simp] theorem Core.setK_sflags (c : Core) (n : BitVec 6) (v : BitVec 24) : (c.setK n v).sflags = c.sflags := rfl
@[simp] theorem Core.setK_dphase (c : Core) (n : BitVec 6) (v : BitVec 24) : (c.setK n v).dphase = c.dphase := rfl
@[simp] theorem Core.setK_dstep (c : Core) (n : BitVec 6) (v : BitVec 24) : (c.setK n v).dstep = c.dstep := rfl
@[simp] theorem Core.setK_dphNext (c : Core) (n : BitVec 6) (v : BitVec 24) : (c.setK n v).dphNext = c.dphNext := rfl
@[simp] theorem Core.setK_dstNext (c : Core) (n : BitVec 6) (v : BitVec 24) : (c.setK n v).dstNext = c.dstNext := rfl
@[simp] theorem Core.setK_ovf (c : Core) (n : BitVec 6) (v : BitVec 24) : (c.setK n v).ovf = c.ovf := rfl
@[simp] theorem Core.setK_streak (c : Core) (n : BitVec 6) (v : BitVec 24) : (c.setK n v).streak = c.streak := rfl
@[simp] theorem Core.setK_waitw (c : Core) (n : BitVec 6) (v : BitVec 24) : (c.setK n v).waitw = c.waitw := rfl
@[simp] theorem Core.setK_heldW (c : Core) (n : BitVec 6) (v : BitVec 24) : (c.setK n v).heldW = c.heldW := rfl
@[simp] theorem Core.setK_engReq (c : Core) (n : BitVec 6) (v : BitVec 24) : (c.setK n v).engReq = c.engReq := rfl
@[simp] theorem Core.setK_b (c : Core) (n : BitVec 6) (v : BitVec 24) : (c.setK n v).b = c.b := rfl
@[simp] theorem Core.setK_lcmds (c : Core) (n : BitVec 6) (v : BitVec 24) : (c.setK n v).lcmds = c.lcmds := rfl
@[simp] theorem Core.setK_g (c : Core) (n : BitVec 6) (v : BitVec 24) : (c.setK n v).g = c.g := rfl
@[simp] theorem Core.setK_dty (c : Core) (n : BitVec 6) (v : BitVec 24) : (c.setK n v).dty = c.dty := rfl
@[simp] theorem Core.setK_slots (c : Core) (n : BitVec 6) (v : BitVec 24) : (c.setK n v).slots = c.slots := rfl
@[simp] theorem Core.setK_e (c : Core) (n : BitVec 6) (v : BitVec 24) : (c.setK n v).e = c.e := rfl
@[simp] theorem Core.setK_mq (c : Core) (n : BitVec 6) (v : BitVec 24) : (c.setK n v).mq = c.mq := rfl
@[simp] theorem Core.setK_drains (c : Core) (n : BitVec 6) (v : BitVec 24) : (c.setK n v).drains = c.drains := rfl
@[simp] theorem Core.setK_x (c : Core) (n : BitVec 6) (v : BitVec 24) : (c.setK n v).x = c.x := rfl
@[simp] theorem Core.setK_p (c : Core) (n : BitVec 6) (v : BitVec 24) : (c.setK n v).p = c.p := rfl
@[simp] theorem Core.setK_vbase (c : Core) (n : BitVec 6) (v : BitVec 24) : (c.setK n v).vbase = c.vbase := rfl
@[simp] theorem Core.setK_rot (c : Core) (n : BitVec 6) (v : BitVec 24) : (c.setK n v).rot = c.rot := rfl
@[simp] theorem Core.setK_vgov (c : Core) (n : BitVec 6) (v : BitVec 24) : (c.setK n v).vgov = c.vgov := rfl
@[simp] theorem Core.setK_vflags (c : Core) (n : BitVec 6) (v : BitVec 24) : (c.setK n v).vflags = c.vflags := rfl
@[simp] theorem Core.setK_seed (c : Core) (n : BitVec 6) (v : BitVec 24) : (c.setK n v).seed = c.seed := rfl
@[simp] theorem Core.setK_seedS (c : Core) (n : BitVec 6) (v : BitVec 24) : (c.setK n v).seedS = c.seedS := rfl
@[simp] theorem Core.setK_bufW (c : Core) (n : BitVec 6) (v : BitVec 24) : (c.setK n v).bufW = c.bufW := rfl
@[simp] theorem Core.setK_bufA (c : Core) (n : BitVec 6) (v : BitVec 24) : (c.setK n v).bufA = c.bufA := rfl
@[simp] theorem Core.setK_bufS (c : Core) (n : BitVec 6) (v : BitVec 24) : (c.setK n v).bufS = c.bufS := rfl
@[simp] theorem Core.setK_bufX (c : Core) (n : BitVec 6) (v : BitVec 24) : (c.setK n v).bufX = c.bufX := rfl
@[simp] theorem Core.setK_tq (c : Core) (n : BitVec 6) (v : BitVec 24) : (c.setK n v).tq = c.tq := rfl
@[simp] theorem Core.setK_kAt (c : Core) (n : BitVec 6) (v : BitVec 24) : (c.setK n v).kAt = c.kAt := rfl
@[simp] theorem Core.setK_kPh (c : Core) (n : BitVec 6) (v : BitVec 24) : (c.setK n v).kPh = c.kPh := rfl
@[simp] theorem Core.setK_kIncs (c : Core) (n : BitVec 6) (v : BitVec 24) : (c.setK n v).kIncs = c.kIncs := rfl
@[simp] theorem Core.setK_kOver (c : Core) (n : BitVec 6) (v : BitVec 24) : (c.setK n v).kOver = c.kOver := rfl
@[simp] theorem Core.setK_raisedAt (c : Core) (n : BitVec 6) (v : BitVec 24) : (c.setK n v).raisedAt = c.raisedAt := rfl
@[simp] theorem Core.setK_raised (c : Core) (n : BitVec 6) (v : BitVec 24) : (c.setK n v).raised = c.raised := rfl
@[simp] theorem Core.setK_sflate (c : Core) (n : BitVec 6) (v : BitVec 24) : (c.setK n v).sflate = c.sflate := rfl
@[simp] theorem Core.setK_strm (c : Core) (n : BitVec 6) (v : BitVec 24) : (c.setK n v).strm = c.strm := rfl
@[simp] theorem Core.setK_icache (c : Core) (n : BitVec 6) (v : BitVec 24) : (c.setK n v).icache = c.icache := rfl
@[simp] theorem Core.setK_nextId (c : Core) (n : BitVec 6) (v : BitVec 24) : (c.setK n v).nextId = c.nextId := rfl
@[simp] theorem Core.setK_acc (c : Core) (n : BitVec 6) (v : BitVec 24) : (c.setK n v).acc = c.acc := rfl
@[simp] theorem Core.setK_fl (c : Core) (n : BitVec 6) (v : BitVec 24) : (c.setK n v).fl = c.fl := rfl
@[simp] theorem Core.setK_fences (c : Core) (n : BitVec 6) (v : BitVec 24) : (c.setK n v).fences = c.fences := rfl
@[simp] theorem Core.setK_slog (c : Core) (n : BitVec 6) (v : BitVec 24) : (c.setK n v).slog = c.slog := rfl
@[simp] theorem Core.setK_causes (c : Core) (n : BitVec 6) (v : BitVec 24) : (c.setK n v).causes = c.causes := rfl
@[simp] theorem Core.setK_settled (c : Core) (n : BitVec 6) (v : BitVec 24) : (c.setK n v).settled = c.settled := rfl
@[simp] theorem Core.setK_framed (c : Core) (n : BitVec 6) (v : BitVec 24) : (c.setK n v).framed = c.framed := rfl
@[simp] theorem Core.setK_kimg (c : Core) (n : BitVec 6) (v : BitVec 24) : (c.setK n v).kimg = c.kimg := rfl
@[simp] theorem Core.setK_frameHeld (c : Core) (n : BitVec 6) (v : BitVec 24) : (c.setK n v).frameHeld = c.frameHeld := rfl
@[simp] theorem Core.setK_route (c : Core) (n : BitVec 6) (v : BitVec 24) : (c.setK n v).route = c.route := rfl
@[simp] theorem Core.setK_pages (c : Core) (n : BitVec 6) (v : BitVec 24) : (c.setK n v).pages = c.pages := rfl

/-! ### `setStr` -/

@[simp] theorem Core.setStr_st (c : Core) (st : Stream) (v : Strm) : (c.setStr st v).st = c.st := by cases st <;> rfl
@[simp] theorem Core.setStr_before (c : Core) (st : Stream) (v : Strm) : (c.setStr st v).before = c.before := by cases st <;> rfl
@[simp] theorem Core.setStr_task (c : Core) (st : Stream) (v : Strm) : (c.setStr st v).task = c.task := by cases st <;> rfl
@[simp] theorem Core.setStr_succ (c : Core) (st : Stream) (v : Strm) : (c.setStr st v).succ = c.succ := by cases st <;> rfl
@[simp] theorem Core.setStr_exitStep (c : Core) (st : Stream) (v : Strm) : (c.setStr st v).exitStep = c.exitStep := by cases st <;> rfl
@[simp] theorem Core.setStr_inHandler (c : Core) (st : Stream) (v : Strm) : (c.setStr st v).inHandler = c.inHandler := by cases st <;> rfl
@[simp] theorem Core.setStr_hstop (c : Core) (st : Stream) (v : Strm) : (c.setStr st v).hstop = c.hstop := by cases st <;> rfl
@[simp] theorem Core.setStr_returning (c : Core) (st : Stream) (v : Strm) : (c.setStr st v).returning = c.returning := by cases st <;> rfl
@[simp] theorem Core.setStr_hid (c : Core) (st : Stream) (v : Strm) : (c.setStr st v).hid = c.hid := by cases st <;> rfl
@[simp] theorem Core.setStr_cyc0 (c : Core) (st : Stream) (v : Strm) : (c.setStr st v).cyc0 = c.cyc0 := by cases st <;> rfl
@[simp] theorem Core.setStr_ran (c : Core) (st : Stream) (v : Strm) : (c.setStr st v).ran = c.ran := by cases st <;> rfl
@[simp] theorem Core.setStr_cycFrom (c : Core) (st : Stream) (v : Strm) : (c.setStr st v).cycFrom = c.cycFrom := by cases st <;> rfl
@[simp] theorem Core.setStr_parkedAt (c : Core) (st : Stream) (v : Strm) : (c.setStr st v).parkedAt = c.parkedAt := by cases st <;> rfl
@[simp] theorem Core.setStr_s (c : Core) (st : Stream) (v : Strm) : (c.setStr st v).s = c.s := by cases st <;> rfl
@[simp] theorem Core.setStr_q (c : Core) (st : Stream) (v : Strm) : (c.setStr st v).q = c.q := by cases st <;> rfl
@[simp] theorem Core.setStr_ret (c : Core) (st : Stream) (v : Strm) : (c.setStr st v).ret = c.ret := by cases st <;> rfl
@[simp] theorem Core.setStr_sflags (c : Core) (st : Stream) (v : Strm) : (c.setStr st v).sflags = c.sflags := by cases st <;> rfl
@[simp] theorem Core.setStr_dphase (c : Core) (st : Stream) (v : Strm) : (c.setStr st v).dphase = c.dphase := by cases st <;> rfl
@[simp] theorem Core.setStr_dstep (c : Core) (st : Stream) (v : Strm) : (c.setStr st v).dstep = c.dstep := by cases st <;> rfl
@[simp] theorem Core.setStr_dphNext (c : Core) (st : Stream) (v : Strm) : (c.setStr st v).dphNext = c.dphNext := by cases st <;> rfl
@[simp] theorem Core.setStr_dstNext (c : Core) (st : Stream) (v : Strm) : (c.setStr st v).dstNext = c.dstNext := by cases st <;> rfl
@[simp] theorem Core.setStr_ovf (c : Core) (st : Stream) (v : Strm) : (c.setStr st v).ovf = c.ovf := by cases st <;> rfl
@[simp] theorem Core.setStr_streak (c : Core) (st : Stream) (v : Strm) : (c.setStr st v).streak = c.streak := by cases st <;> rfl
@[simp] theorem Core.setStr_waitw (c : Core) (st : Stream) (v : Strm) : (c.setStr st v).waitw = c.waitw := by cases st <;> rfl
@[simp] theorem Core.setStr_heldW (c : Core) (st : Stream) (v : Strm) : (c.setStr st v).heldW = c.heldW := by cases st <;> rfl
@[simp] theorem Core.setStr_engReq (c : Core) (st : Stream) (v : Strm) : (c.setStr st v).engReq = c.engReq := by cases st <;> rfl
@[simp] theorem Core.setStr_b (c : Core) (st : Stream) (v : Strm) : (c.setStr st v).b = c.b := by cases st <;> rfl
@[simp] theorem Core.setStr_lcmds (c : Core) (st : Stream) (v : Strm) : (c.setStr st v).lcmds = c.lcmds := by cases st <;> rfl
@[simp] theorem Core.setStr_g (c : Core) (st : Stream) (v : Strm) : (c.setStr st v).g = c.g := by cases st <;> rfl
@[simp] theorem Core.setStr_dty (c : Core) (st : Stream) (v : Strm) : (c.setStr st v).dty = c.dty := by cases st <;> rfl
@[simp] theorem Core.setStr_slots (c : Core) (st : Stream) (v : Strm) : (c.setStr st v).slots = c.slots := by cases st <;> rfl
@[simp] theorem Core.setStr_e (c : Core) (st : Stream) (v : Strm) : (c.setStr st v).e = c.e := by cases st <;> rfl
@[simp] theorem Core.setStr_mq (c : Core) (st : Stream) (v : Strm) : (c.setStr st v).mq = c.mq := by cases st <;> rfl
@[simp] theorem Core.setStr_drains (c : Core) (st : Stream) (v : Strm) : (c.setStr st v).drains = c.drains := by cases st <;> rfl
@[simp] theorem Core.setStr_x (c : Core) (st : Stream) (v : Strm) : (c.setStr st v).x = c.x := by cases st <;> rfl
@[simp] theorem Core.setStr_p (c : Core) (st : Stream) (v : Strm) : (c.setStr st v).p = c.p := by cases st <;> rfl
@[simp] theorem Core.setStr_vbase (c : Core) (st : Stream) (v : Strm) : (c.setStr st v).vbase = c.vbase := by cases st <;> rfl
@[simp] theorem Core.setStr_rot (c : Core) (st : Stream) (v : Strm) : (c.setStr st v).rot = c.rot := by cases st <;> rfl
@[simp] theorem Core.setStr_vgov (c : Core) (st : Stream) (v : Strm) : (c.setStr st v).vgov = c.vgov := by cases st <;> rfl
@[simp] theorem Core.setStr_vflags (c : Core) (st : Stream) (v : Strm) : (c.setStr st v).vflags = c.vflags := by cases st <;> rfl
@[simp] theorem Core.setStr_seed (c : Core) (st : Stream) (v : Strm) : (c.setStr st v).seed = c.seed := by cases st <;> rfl
@[simp] theorem Core.setStr_seedS (c : Core) (st : Stream) (v : Strm) : (c.setStr st v).seedS = c.seedS := by cases st <;> rfl
@[simp] theorem Core.setStr_bufW (c : Core) (st : Stream) (v : Strm) : (c.setStr st v).bufW = c.bufW := by cases st <;> rfl
@[simp] theorem Core.setStr_bufA (c : Core) (st : Stream) (v : Strm) : (c.setStr st v).bufA = c.bufA := by cases st <;> rfl
@[simp] theorem Core.setStr_bufS (c : Core) (st : Stream) (v : Strm) : (c.setStr st v).bufS = c.bufS := by cases st <;> rfl
@[simp] theorem Core.setStr_bufX (c : Core) (st : Stream) (v : Strm) : (c.setStr st v).bufX = c.bufX := by cases st <;> rfl
@[simp] theorem Core.setStr_tq (c : Core) (st : Stream) (v : Strm) : (c.setStr st v).tq = c.tq := by cases st <;> rfl
@[simp] theorem Core.setStr_k (c : Core) (st : Stream) (v : Strm) : (c.setStr st v).k = c.k := by cases st <;> rfl
@[simp] theorem Core.setStr_kAt (c : Core) (st : Stream) (v : Strm) : (c.setStr st v).kAt = c.kAt := by cases st <;> rfl
@[simp] theorem Core.setStr_kPh (c : Core) (st : Stream) (v : Strm) : (c.setStr st v).kPh = c.kPh := by cases st <;> rfl
@[simp] theorem Core.setStr_kIncs (c : Core) (st : Stream) (v : Strm) : (c.setStr st v).kIncs = c.kIncs := by cases st <;> rfl
@[simp] theorem Core.setStr_kOver (c : Core) (st : Stream) (v : Strm) : (c.setStr st v).kOver = c.kOver := by cases st <;> rfl
@[simp] theorem Core.setStr_raisedAt (c : Core) (st : Stream) (v : Strm) : (c.setStr st v).raisedAt = c.raisedAt := by cases st <;> rfl
@[simp] theorem Core.setStr_raised (c : Core) (st : Stream) (v : Strm) : (c.setStr st v).raised = c.raised := by cases st <;> rfl
@[simp] theorem Core.setStr_sflate (c : Core) (st : Stream) (v : Strm) : (c.setStr st v).sflate = c.sflate := by cases st <;> rfl
@[simp] theorem Core.setStr_icache (c : Core) (st : Stream) (v : Strm) : (c.setStr st v).icache = c.icache := by cases st <;> rfl
@[simp] theorem Core.setStr_nextId (c : Core) (st : Stream) (v : Strm) : (c.setStr st v).nextId = c.nextId := by cases st <;> rfl
@[simp] theorem Core.setStr_acc (c : Core) (st : Stream) (v : Strm) : (c.setStr st v).acc = c.acc := by cases st <;> rfl
@[simp] theorem Core.setStr_fl (c : Core) (st : Stream) (v : Strm) : (c.setStr st v).fl = c.fl := by cases st <;> rfl
@[simp] theorem Core.setStr_fences (c : Core) (st : Stream) (v : Strm) : (c.setStr st v).fences = c.fences := by cases st <;> rfl
@[simp] theorem Core.setStr_slog (c : Core) (st : Stream) (v : Strm) : (c.setStr st v).slog = c.slog := by cases st <;> rfl
@[simp] theorem Core.setStr_causes (c : Core) (st : Stream) (v : Strm) : (c.setStr st v).causes = c.causes := by cases st <;> rfl
@[simp] theorem Core.setStr_settled (c : Core) (st : Stream) (v : Strm) : (c.setStr st v).settled = c.settled := by cases st <;> rfl
@[simp] theorem Core.setStr_framed (c : Core) (st : Stream) (v : Strm) : (c.setStr st v).framed = c.framed := by cases st <;> rfl
@[simp] theorem Core.setStr_kimg (c : Core) (st : Stream) (v : Strm) : (c.setStr st v).kimg = c.kimg := by cases st <;> rfl
@[simp] theorem Core.setStr_frameHeld (c : Core) (st : Stream) (v : Strm) : (c.setStr st v).frameHeld = c.frameHeld := by cases st <;> rfl
@[simp] theorem Core.setStr_route (c : Core) (st : Stream) (v : Strm) : (c.setStr st v).route = c.route := by cases st <;> rfl
@[simp] theorem Core.setStr_pages (c : Core) (st : Stream) (v : Strm) : (c.setStr st v).pages = c.pages := by cases st <;> rfl

/-! ### `setQueue` -/

@[simp] theorem Core.setQueue_st (c : Core) (a b : Stream) (l : List (BitVec 32)) : (c.setQueue a b l).st = c.st := rfl
@[simp] theorem Core.setQueue_before (c : Core) (a b : Stream) (l : List (BitVec 32)) : (c.setQueue a b l).before = c.before := rfl
@[simp] theorem Core.setQueue_task (c : Core) (a b : Stream) (l : List (BitVec 32)) : (c.setQueue a b l).task = c.task := rfl
@[simp] theorem Core.setQueue_succ (c : Core) (a b : Stream) (l : List (BitVec 32)) : (c.setQueue a b l).succ = c.succ := rfl
@[simp] theorem Core.setQueue_exitStep (c : Core) (a b : Stream) (l : List (BitVec 32)) : (c.setQueue a b l).exitStep = c.exitStep := rfl
@[simp] theorem Core.setQueue_inHandler (c : Core) (a b : Stream) (l : List (BitVec 32)) : (c.setQueue a b l).inHandler = c.inHandler := rfl
@[simp] theorem Core.setQueue_hstop (c : Core) (a b : Stream) (l : List (BitVec 32)) : (c.setQueue a b l).hstop = c.hstop := rfl
@[simp] theorem Core.setQueue_returning (c : Core) (a b : Stream) (l : List (BitVec 32)) : (c.setQueue a b l).returning = c.returning := rfl
@[simp] theorem Core.setQueue_hid (c : Core) (a b : Stream) (l : List (BitVec 32)) : (c.setQueue a b l).hid = c.hid := rfl
@[simp] theorem Core.setQueue_cyc0 (c : Core) (a b : Stream) (l : List (BitVec 32)) : (c.setQueue a b l).cyc0 = c.cyc0 := rfl
@[simp] theorem Core.setQueue_ran (c : Core) (a b : Stream) (l : List (BitVec 32)) : (c.setQueue a b l).ran = c.ran := rfl
@[simp] theorem Core.setQueue_cycFrom (c : Core) (a b : Stream) (l : List (BitVec 32)) : (c.setQueue a b l).cycFrom = c.cycFrom := rfl
@[simp] theorem Core.setQueue_parkedAt (c : Core) (a b : Stream) (l : List (BitVec 32)) : (c.setQueue a b l).parkedAt = c.parkedAt := rfl
@[simp] theorem Core.setQueue_s (c : Core) (a b : Stream) (l : List (BitVec 32)) : (c.setQueue a b l).s = c.s := rfl
@[simp] theorem Core.setQueue_q (c : Core) (a b : Stream) (l : List (BitVec 32)) : (c.setQueue a b l).q = c.q := rfl
@[simp] theorem Core.setQueue_ret (c : Core) (a b : Stream) (l : List (BitVec 32)) : (c.setQueue a b l).ret = c.ret := rfl
@[simp] theorem Core.setQueue_sflags (c : Core) (a b : Stream) (l : List (BitVec 32)) : (c.setQueue a b l).sflags = c.sflags := rfl
@[simp] theorem Core.setQueue_dphase (c : Core) (a b : Stream) (l : List (BitVec 32)) : (c.setQueue a b l).dphase = c.dphase := rfl
@[simp] theorem Core.setQueue_dstep (c : Core) (a b : Stream) (l : List (BitVec 32)) : (c.setQueue a b l).dstep = c.dstep := rfl
@[simp] theorem Core.setQueue_dphNext (c : Core) (a b : Stream) (l : List (BitVec 32)) : (c.setQueue a b l).dphNext = c.dphNext := rfl
@[simp] theorem Core.setQueue_dstNext (c : Core) (a b : Stream) (l : List (BitVec 32)) : (c.setQueue a b l).dstNext = c.dstNext := rfl
@[simp] theorem Core.setQueue_ovf (c : Core) (a b : Stream) (l : List (BitVec 32)) : (c.setQueue a b l).ovf = c.ovf := rfl
@[simp] theorem Core.setQueue_streak (c : Core) (a b : Stream) (l : List (BitVec 32)) : (c.setQueue a b l).streak = c.streak := rfl
@[simp] theorem Core.setQueue_waitw (c : Core) (a b : Stream) (l : List (BitVec 32)) : (c.setQueue a b l).waitw = c.waitw := rfl
@[simp] theorem Core.setQueue_heldW (c : Core) (a b : Stream) (l : List (BitVec 32)) : (c.setQueue a b l).heldW = c.heldW := rfl
@[simp] theorem Core.setQueue_engReq (c : Core) (a b : Stream) (l : List (BitVec 32)) : (c.setQueue a b l).engReq = c.engReq := rfl
@[simp] theorem Core.setQueue_b (c : Core) (a b : Stream) (l : List (BitVec 32)) : (c.setQueue a b l).b = c.b := rfl
@[simp] theorem Core.setQueue_lcmds (c : Core) (a b : Stream) (l : List (BitVec 32)) : (c.setQueue a b l).lcmds = c.lcmds := rfl
@[simp] theorem Core.setQueue_g (c : Core) (a b : Stream) (l : List (BitVec 32)) : (c.setQueue a b l).g = c.g := rfl
@[simp] theorem Core.setQueue_dty (c : Core) (a b : Stream) (l : List (BitVec 32)) : (c.setQueue a b l).dty = c.dty := rfl
@[simp] theorem Core.setQueue_slots (c : Core) (a b : Stream) (l : List (BitVec 32)) : (c.setQueue a b l).slots = c.slots := rfl
@[simp] theorem Core.setQueue_e (c : Core) (a b : Stream) (l : List (BitVec 32)) : (c.setQueue a b l).e = c.e := rfl
@[simp] theorem Core.setQueue_mq (c : Core) (a b : Stream) (l : List (BitVec 32)) : (c.setQueue a b l).mq = c.mq := rfl
@[simp] theorem Core.setQueue_drains (c : Core) (a b : Stream) (l : List (BitVec 32)) : (c.setQueue a b l).drains = c.drains := rfl
@[simp] theorem Core.setQueue_x (c : Core) (a b : Stream) (l : List (BitVec 32)) : (c.setQueue a b l).x = c.x := rfl
@[simp] theorem Core.setQueue_p (c : Core) (a b : Stream) (l : List (BitVec 32)) : (c.setQueue a b l).p = c.p := rfl
@[simp] theorem Core.setQueue_vbase (c : Core) (a b : Stream) (l : List (BitVec 32)) : (c.setQueue a b l).vbase = c.vbase := rfl
@[simp] theorem Core.setQueue_rot (c : Core) (a b : Stream) (l : List (BitVec 32)) : (c.setQueue a b l).rot = c.rot := rfl
@[simp] theorem Core.setQueue_vgov (c : Core) (a b : Stream) (l : List (BitVec 32)) : (c.setQueue a b l).vgov = c.vgov := rfl
@[simp] theorem Core.setQueue_vflags (c : Core) (a b : Stream) (l : List (BitVec 32)) : (c.setQueue a b l).vflags = c.vflags := rfl
@[simp] theorem Core.setQueue_seed (c : Core) (a b : Stream) (l : List (BitVec 32)) : (c.setQueue a b l).seed = c.seed := rfl
@[simp] theorem Core.setQueue_seedS (c : Core) (a b : Stream) (l : List (BitVec 32)) : (c.setQueue a b l).seedS = c.seedS := rfl
@[simp] theorem Core.setQueue_bufW (c : Core) (a b : Stream) (l : List (BitVec 32)) : (c.setQueue a b l).bufW = c.bufW := rfl
@[simp] theorem Core.setQueue_bufA (c : Core) (a b : Stream) (l : List (BitVec 32)) : (c.setQueue a b l).bufA = c.bufA := rfl
@[simp] theorem Core.setQueue_bufS (c : Core) (a b : Stream) (l : List (BitVec 32)) : (c.setQueue a b l).bufS = c.bufS := rfl
@[simp] theorem Core.setQueue_bufX (c : Core) (a b : Stream) (l : List (BitVec 32)) : (c.setQueue a b l).bufX = c.bufX := rfl
@[simp] theorem Core.setQueue_k (c : Core) (a b : Stream) (l : List (BitVec 32)) : (c.setQueue a b l).k = c.k := rfl
@[simp] theorem Core.setQueue_kAt (c : Core) (a b : Stream) (l : List (BitVec 32)) : (c.setQueue a b l).kAt = c.kAt := rfl
@[simp] theorem Core.setQueue_kPh (c : Core) (a b : Stream) (l : List (BitVec 32)) : (c.setQueue a b l).kPh = c.kPh := rfl
@[simp] theorem Core.setQueue_kIncs (c : Core) (a b : Stream) (l : List (BitVec 32)) : (c.setQueue a b l).kIncs = c.kIncs := rfl
@[simp] theorem Core.setQueue_kOver (c : Core) (a b : Stream) (l : List (BitVec 32)) : (c.setQueue a b l).kOver = c.kOver := rfl
@[simp] theorem Core.setQueue_raisedAt (c : Core) (a b : Stream) (l : List (BitVec 32)) : (c.setQueue a b l).raisedAt = c.raisedAt := rfl
@[simp] theorem Core.setQueue_raised (c : Core) (a b : Stream) (l : List (BitVec 32)) : (c.setQueue a b l).raised = c.raised := rfl
@[simp] theorem Core.setQueue_sflate (c : Core) (a b : Stream) (l : List (BitVec 32)) : (c.setQueue a b l).sflate = c.sflate := rfl
@[simp] theorem Core.setQueue_strm (c : Core) (a b : Stream) (l : List (BitVec 32)) : (c.setQueue a b l).strm = c.strm := rfl
@[simp] theorem Core.setQueue_icache (c : Core) (a b : Stream) (l : List (BitVec 32)) : (c.setQueue a b l).icache = c.icache := rfl
@[simp] theorem Core.setQueue_nextId (c : Core) (a b : Stream) (l : List (BitVec 32)) : (c.setQueue a b l).nextId = c.nextId := rfl
@[simp] theorem Core.setQueue_acc (c : Core) (a b : Stream) (l : List (BitVec 32)) : (c.setQueue a b l).acc = c.acc := rfl
@[simp] theorem Core.setQueue_fl (c : Core) (a b : Stream) (l : List (BitVec 32)) : (c.setQueue a b l).fl = c.fl := rfl
@[simp] theorem Core.setQueue_fences (c : Core) (a b : Stream) (l : List (BitVec 32)) : (c.setQueue a b l).fences = c.fences := rfl
@[simp] theorem Core.setQueue_slog (c : Core) (a b : Stream) (l : List (BitVec 32)) : (c.setQueue a b l).slog = c.slog := rfl
@[simp] theorem Core.setQueue_causes (c : Core) (a b : Stream) (l : List (BitVec 32)) : (c.setQueue a b l).causes = c.causes := rfl
@[simp] theorem Core.setQueue_settled (c : Core) (a b : Stream) (l : List (BitVec 32)) : (c.setQueue a b l).settled = c.settled := rfl
@[simp] theorem Core.setQueue_framed (c : Core) (a b : Stream) (l : List (BitVec 32)) : (c.setQueue a b l).framed = c.framed := rfl
@[simp] theorem Core.setQueue_kimg (c : Core) (a b : Stream) (l : List (BitVec 32)) : (c.setQueue a b l).kimg = c.kimg := rfl
@[simp] theorem Core.setQueue_frameHeld (c : Core) (a b : Stream) (l : List (BitVec 32)) : (c.setQueue a b l).frameHeld = c.frameHeld := rfl
@[simp] theorem Core.setQueue_route (c : Core) (a b : Stream) (l : List (BitVec 32)) : (c.setQueue a b l).route = c.route := rfl
@[simp] theorem Core.setQueue_pages (c : Core) (a b : Stream) (l : List (BitVec 32)) : (c.setQueue a b l).pages = c.pages := rfl

/-! ### `setRow` -/

@[simp] theorem Core.setRow_st (c : Core) (r : Nat) (v : Row) : (c.setRow r v).st = c.st := rfl
@[simp] theorem Core.setRow_before (c : Core) (r : Nat) (v : Row) : (c.setRow r v).before = c.before := rfl
@[simp] theorem Core.setRow_task (c : Core) (r : Nat) (v : Row) : (c.setRow r v).task = c.task := rfl
@[simp] theorem Core.setRow_succ (c : Core) (r : Nat) (v : Row) : (c.setRow r v).succ = c.succ := rfl
@[simp] theorem Core.setRow_exitStep (c : Core) (r : Nat) (v : Row) : (c.setRow r v).exitStep = c.exitStep := rfl
@[simp] theorem Core.setRow_inHandler (c : Core) (r : Nat) (v : Row) : (c.setRow r v).inHandler = c.inHandler := rfl
@[simp] theorem Core.setRow_hstop (c : Core) (r : Nat) (v : Row) : (c.setRow r v).hstop = c.hstop := rfl
@[simp] theorem Core.setRow_returning (c : Core) (r : Nat) (v : Row) : (c.setRow r v).returning = c.returning := rfl
@[simp] theorem Core.setRow_hid (c : Core) (r : Nat) (v : Row) : (c.setRow r v).hid = c.hid := rfl
@[simp] theorem Core.setRow_cyc0 (c : Core) (r : Nat) (v : Row) : (c.setRow r v).cyc0 = c.cyc0 := rfl
@[simp] theorem Core.setRow_ran (c : Core) (r : Nat) (v : Row) : (c.setRow r v).ran = c.ran := rfl
@[simp] theorem Core.setRow_cycFrom (c : Core) (r : Nat) (v : Row) : (c.setRow r v).cycFrom = c.cycFrom := rfl
@[simp] theorem Core.setRow_parkedAt (c : Core) (r : Nat) (v : Row) : (c.setRow r v).parkedAt = c.parkedAt := rfl
@[simp] theorem Core.setRow_s (c : Core) (r : Nat) (v : Row) : (c.setRow r v).s = c.s := rfl
@[simp] theorem Core.setRow_q (c : Core) (r : Nat) (v : Row) : (c.setRow r v).q = c.q := rfl
@[simp] theorem Core.setRow_ret (c : Core) (r : Nat) (v : Row) : (c.setRow r v).ret = c.ret := rfl
@[simp] theorem Core.setRow_sflags (c : Core) (r : Nat) (v : Row) : (c.setRow r v).sflags = c.sflags := rfl
@[simp] theorem Core.setRow_dphase (c : Core) (r : Nat) (v : Row) : (c.setRow r v).dphase = c.dphase := rfl
@[simp] theorem Core.setRow_dstep (c : Core) (r : Nat) (v : Row) : (c.setRow r v).dstep = c.dstep := rfl
@[simp] theorem Core.setRow_dphNext (c : Core) (r : Nat) (v : Row) : (c.setRow r v).dphNext = c.dphNext := rfl
@[simp] theorem Core.setRow_dstNext (c : Core) (r : Nat) (v : Row) : (c.setRow r v).dstNext = c.dstNext := rfl
@[simp] theorem Core.setRow_ovf (c : Core) (r : Nat) (v : Row) : (c.setRow r v).ovf = c.ovf := rfl
@[simp] theorem Core.setRow_streak (c : Core) (r : Nat) (v : Row) : (c.setRow r v).streak = c.streak := rfl
@[simp] theorem Core.setRow_waitw (c : Core) (r : Nat) (v : Row) : (c.setRow r v).waitw = c.waitw := rfl
@[simp] theorem Core.setRow_heldW (c : Core) (r : Nat) (v : Row) : (c.setRow r v).heldW = c.heldW := rfl
@[simp] theorem Core.setRow_engReq (c : Core) (r : Nat) (v : Row) : (c.setRow r v).engReq = c.engReq := rfl
@[simp] theorem Core.setRow_b (c : Core) (r : Nat) (v : Row) : (c.setRow r v).b = c.b := rfl
@[simp] theorem Core.setRow_lcmds (c : Core) (r : Nat) (v : Row) : (c.setRow r v).lcmds = c.lcmds := rfl
@[simp] theorem Core.setRow_g (c : Core) (r : Nat) (v : Row) : (c.setRow r v).g = c.g := rfl
@[simp] theorem Core.setRow_dty (c : Core) (r : Nat) (v : Row) : (c.setRow r v).dty = c.dty := rfl
@[simp] theorem Core.setRow_slots (c : Core) (r : Nat) (v : Row) : (c.setRow r v).slots = c.slots := rfl
@[simp] theorem Core.setRow_e (c : Core) (r : Nat) (v : Row) : (c.setRow r v).e = c.e := rfl
@[simp] theorem Core.setRow_mq (c : Core) (r : Nat) (v : Row) : (c.setRow r v).mq = c.mq := rfl
@[simp] theorem Core.setRow_drains (c : Core) (r : Nat) (v : Row) : (c.setRow r v).drains = c.drains := rfl
@[simp] theorem Core.setRow_x (c : Core) (r : Nat) (v : Row) : (c.setRow r v).x = c.x := rfl
@[simp] theorem Core.setRow_p (c : Core) (r : Nat) (v : Row) : (c.setRow r v).p = c.p := rfl
@[simp] theorem Core.setRow_vbase (c : Core) (r : Nat) (v : Row) : (c.setRow r v).vbase = c.vbase := rfl
@[simp] theorem Core.setRow_rot (c : Core) (r : Nat) (v : Row) : (c.setRow r v).rot = c.rot := rfl
@[simp] theorem Core.setRow_vgov (c : Core) (r : Nat) (v : Row) : (c.setRow r v).vgov = c.vgov := rfl
@[simp] theorem Core.setRow_vflags (c : Core) (r : Nat) (v : Row) : (c.setRow r v).vflags = c.vflags := rfl
@[simp] theorem Core.setRow_seed (c : Core) (r : Nat) (v : Row) : (c.setRow r v).seed = c.seed := rfl
@[simp] theorem Core.setRow_seedS (c : Core) (r : Nat) (v : Row) : (c.setRow r v).seedS = c.seedS := rfl
@[simp] theorem Core.setRow_bufW (c : Core) (r : Nat) (v : Row) : (c.setRow r v).bufW = c.bufW := rfl
@[simp] theorem Core.setRow_bufA (c : Core) (r : Nat) (v : Row) : (c.setRow r v).bufA = c.bufA := rfl
@[simp] theorem Core.setRow_bufS (c : Core) (r : Nat) (v : Row) : (c.setRow r v).bufS = c.bufS := rfl
@[simp] theorem Core.setRow_tq (c : Core) (r : Nat) (v : Row) : (c.setRow r v).tq = c.tq := rfl
@[simp] theorem Core.setRow_k (c : Core) (r : Nat) (v : Row) : (c.setRow r v).k = c.k := rfl
@[simp] theorem Core.setRow_kAt (c : Core) (r : Nat) (v : Row) : (c.setRow r v).kAt = c.kAt := rfl
@[simp] theorem Core.setRow_kPh (c : Core) (r : Nat) (v : Row) : (c.setRow r v).kPh = c.kPh := rfl
@[simp] theorem Core.setRow_kIncs (c : Core) (r : Nat) (v : Row) : (c.setRow r v).kIncs = c.kIncs := rfl
@[simp] theorem Core.setRow_kOver (c : Core) (r : Nat) (v : Row) : (c.setRow r v).kOver = c.kOver := rfl
@[simp] theorem Core.setRow_raisedAt (c : Core) (r : Nat) (v : Row) : (c.setRow r v).raisedAt = c.raisedAt := rfl
@[simp] theorem Core.setRow_raised (c : Core) (r : Nat) (v : Row) : (c.setRow r v).raised = c.raised := rfl
@[simp] theorem Core.setRow_sflate (c : Core) (r : Nat) (v : Row) : (c.setRow r v).sflate = c.sflate := rfl
@[simp] theorem Core.setRow_strm (c : Core) (r : Nat) (v : Row) : (c.setRow r v).strm = c.strm := rfl
@[simp] theorem Core.setRow_icache (c : Core) (r : Nat) (v : Row) : (c.setRow r v).icache = c.icache := rfl
@[simp] theorem Core.setRow_nextId (c : Core) (r : Nat) (v : Row) : (c.setRow r v).nextId = c.nextId := rfl
@[simp] theorem Core.setRow_acc (c : Core) (r : Nat) (v : Row) : (c.setRow r v).acc = c.acc := rfl
@[simp] theorem Core.setRow_fl (c : Core) (r : Nat) (v : Row) : (c.setRow r v).fl = c.fl := rfl
@[simp] theorem Core.setRow_fences (c : Core) (r : Nat) (v : Row) : (c.setRow r v).fences = c.fences := rfl
@[simp] theorem Core.setRow_slog (c : Core) (r : Nat) (v : Row) : (c.setRow r v).slog = c.slog := rfl
@[simp] theorem Core.setRow_causes (c : Core) (r : Nat) (v : Row) : (c.setRow r v).causes = c.causes := rfl
@[simp] theorem Core.setRow_settled (c : Core) (r : Nat) (v : Row) : (c.setRow r v).settled = c.settled := rfl
@[simp] theorem Core.setRow_framed (c : Core) (r : Nat) (v : Row) : (c.setRow r v).framed = c.framed := rfl
@[simp] theorem Core.setRow_kimg (c : Core) (r : Nat) (v : Row) : (c.setRow r v).kimg = c.kimg := rfl
@[simp] theorem Core.setRow_frameHeld (c : Core) (r : Nat) (v : Row) : (c.setRow r v).frameHeld = c.frameHeld := rfl
@[simp] theorem Core.setRow_route (c : Core) (r : Nat) (v : Row) : (c.setRow r v).route = c.route := rfl
@[simp] theorem Core.setRow_pages (c : Core) (r : Nat) (v : Row) : (c.setRow r v).pages = c.pages := rfl

/-! ### `raiseS` -/

@[simp] theorem Core.raiseS_st (c : Core) (nf : Bool) (f : Fl) : (c.raiseS nf f).st = c.st := by unfold Core.raiseS; split <;> rfl
@[simp] theorem Core.raiseS_before (c : Core) (nf : Bool) (f : Fl) : (c.raiseS nf f).before = c.before := by unfold Core.raiseS; split <;> rfl
@[simp] theorem Core.raiseS_task (c : Core) (nf : Bool) (f : Fl) : (c.raiseS nf f).task = c.task := by unfold Core.raiseS; split <;> rfl
@[simp] theorem Core.raiseS_succ (c : Core) (nf : Bool) (f : Fl) : (c.raiseS nf f).succ = c.succ := by unfold Core.raiseS; split <;> rfl
@[simp] theorem Core.raiseS_exitStep (c : Core) (nf : Bool) (f : Fl) : (c.raiseS nf f).exitStep = c.exitStep := by unfold Core.raiseS; split <;> rfl
@[simp] theorem Core.raiseS_inHandler (c : Core) (nf : Bool) (f : Fl) : (c.raiseS nf f).inHandler = c.inHandler := by unfold Core.raiseS; split <;> rfl
@[simp] theorem Core.raiseS_hstop (c : Core) (nf : Bool) (f : Fl) : (c.raiseS nf f).hstop = c.hstop := by unfold Core.raiseS; split <;> rfl
@[simp] theorem Core.raiseS_returning (c : Core) (nf : Bool) (f : Fl) : (c.raiseS nf f).returning = c.returning := by unfold Core.raiseS; split <;> rfl
@[simp] theorem Core.raiseS_hid (c : Core) (nf : Bool) (f : Fl) : (c.raiseS nf f).hid = c.hid := by unfold Core.raiseS; split <;> rfl
@[simp] theorem Core.raiseS_cyc0 (c : Core) (nf : Bool) (f : Fl) : (c.raiseS nf f).cyc0 = c.cyc0 := by unfold Core.raiseS; split <;> rfl
@[simp] theorem Core.raiseS_ran (c : Core) (nf : Bool) (f : Fl) : (c.raiseS nf f).ran = c.ran := by unfold Core.raiseS; split <;> rfl
@[simp] theorem Core.raiseS_cycFrom (c : Core) (nf : Bool) (f : Fl) : (c.raiseS nf f).cycFrom = c.cycFrom := by unfold Core.raiseS; split <;> rfl
@[simp] theorem Core.raiseS_parkedAt (c : Core) (nf : Bool) (f : Fl) : (c.raiseS nf f).parkedAt = c.parkedAt := by unfold Core.raiseS; split <;> rfl
@[simp] theorem Core.raiseS_s (c : Core) (nf : Bool) (f : Fl) : (c.raiseS nf f).s = c.s := by unfold Core.raiseS; split <;> rfl
@[simp] theorem Core.raiseS_q (c : Core) (nf : Bool) (f : Fl) : (c.raiseS nf f).q = c.q := by unfold Core.raiseS; split <;> rfl
@[simp] theorem Core.raiseS_ret (c : Core) (nf : Bool) (f : Fl) : (c.raiseS nf f).ret = c.ret := by unfold Core.raiseS; split <;> rfl
@[simp] theorem Core.raiseS_dphase (c : Core) (nf : Bool) (f : Fl) : (c.raiseS nf f).dphase = c.dphase := by unfold Core.raiseS; split <;> rfl
@[simp] theorem Core.raiseS_dstep (c : Core) (nf : Bool) (f : Fl) : (c.raiseS nf f).dstep = c.dstep := by unfold Core.raiseS; split <;> rfl
@[simp] theorem Core.raiseS_dphNext (c : Core) (nf : Bool) (f : Fl) : (c.raiseS nf f).dphNext = c.dphNext := by unfold Core.raiseS; split <;> rfl
@[simp] theorem Core.raiseS_dstNext (c : Core) (nf : Bool) (f : Fl) : (c.raiseS nf f).dstNext = c.dstNext := by unfold Core.raiseS; split <;> rfl
@[simp] theorem Core.raiseS_ovf (c : Core) (nf : Bool) (f : Fl) : (c.raiseS nf f).ovf = c.ovf := by unfold Core.raiseS; split <;> rfl
@[simp] theorem Core.raiseS_streak (c : Core) (nf : Bool) (f : Fl) : (c.raiseS nf f).streak = c.streak := by unfold Core.raiseS; split <;> rfl
@[simp] theorem Core.raiseS_waitw (c : Core) (nf : Bool) (f : Fl) : (c.raiseS nf f).waitw = c.waitw := by unfold Core.raiseS; split <;> rfl
@[simp] theorem Core.raiseS_heldW (c : Core) (nf : Bool) (f : Fl) : (c.raiseS nf f).heldW = c.heldW := by unfold Core.raiseS; split <;> rfl
@[simp] theorem Core.raiseS_engReq (c : Core) (nf : Bool) (f : Fl) : (c.raiseS nf f).engReq = c.engReq := by unfold Core.raiseS; split <;> rfl
@[simp] theorem Core.raiseS_b (c : Core) (nf : Bool) (f : Fl) : (c.raiseS nf f).b = c.b := by unfold Core.raiseS; split <;> rfl
@[simp] theorem Core.raiseS_lcmds (c : Core) (nf : Bool) (f : Fl) : (c.raiseS nf f).lcmds = c.lcmds := by unfold Core.raiseS; split <;> rfl
@[simp] theorem Core.raiseS_g (c : Core) (nf : Bool) (f : Fl) : (c.raiseS nf f).g = c.g := by unfold Core.raiseS; split <;> rfl
@[simp] theorem Core.raiseS_dty (c : Core) (nf : Bool) (f : Fl) : (c.raiseS nf f).dty = c.dty := by unfold Core.raiseS; split <;> rfl
@[simp] theorem Core.raiseS_slots (c : Core) (nf : Bool) (f : Fl) : (c.raiseS nf f).slots = c.slots := by unfold Core.raiseS; split <;> rfl
@[simp] theorem Core.raiseS_e (c : Core) (nf : Bool) (f : Fl) : (c.raiseS nf f).e = c.e := by unfold Core.raiseS; split <;> rfl
@[simp] theorem Core.raiseS_mq (c : Core) (nf : Bool) (f : Fl) : (c.raiseS nf f).mq = c.mq := by unfold Core.raiseS; split <;> rfl
@[simp] theorem Core.raiseS_drains (c : Core) (nf : Bool) (f : Fl) : (c.raiseS nf f).drains = c.drains := by unfold Core.raiseS; split <;> rfl
@[simp] theorem Core.raiseS_x (c : Core) (nf : Bool) (f : Fl) : (c.raiseS nf f).x = c.x := by unfold Core.raiseS; split <;> rfl
@[simp] theorem Core.raiseS_p (c : Core) (nf : Bool) (f : Fl) : (c.raiseS nf f).p = c.p := by unfold Core.raiseS; split <;> rfl
@[simp] theorem Core.raiseS_vbase (c : Core) (nf : Bool) (f : Fl) : (c.raiseS nf f).vbase = c.vbase := by unfold Core.raiseS; split <;> rfl
@[simp] theorem Core.raiseS_rot (c : Core) (nf : Bool) (f : Fl) : (c.raiseS nf f).rot = c.rot := by unfold Core.raiseS; split <;> rfl
@[simp] theorem Core.raiseS_vgov (c : Core) (nf : Bool) (f : Fl) : (c.raiseS nf f).vgov = c.vgov := by unfold Core.raiseS; split <;> rfl
@[simp] theorem Core.raiseS_vflags (c : Core) (nf : Bool) (f : Fl) : (c.raiseS nf f).vflags = c.vflags := by unfold Core.raiseS; split <;> rfl
@[simp] theorem Core.raiseS_seed (c : Core) (nf : Bool) (f : Fl) : (c.raiseS nf f).seed = c.seed := by unfold Core.raiseS; split <;> rfl
@[simp] theorem Core.raiseS_seedS (c : Core) (nf : Bool) (f : Fl) : (c.raiseS nf f).seedS = c.seedS := by unfold Core.raiseS; split <;> rfl
@[simp] theorem Core.raiseS_bufW (c : Core) (nf : Bool) (f : Fl) : (c.raiseS nf f).bufW = c.bufW := by unfold Core.raiseS; split <;> rfl
@[simp] theorem Core.raiseS_bufA (c : Core) (nf : Bool) (f : Fl) : (c.raiseS nf f).bufA = c.bufA := by unfold Core.raiseS; split <;> rfl
@[simp] theorem Core.raiseS_bufS (c : Core) (nf : Bool) (f : Fl) : (c.raiseS nf f).bufS = c.bufS := by unfold Core.raiseS; split <;> rfl
@[simp] theorem Core.raiseS_bufX (c : Core) (nf : Bool) (f : Fl) : (c.raiseS nf f).bufX = c.bufX := by unfold Core.raiseS; split <;> rfl
@[simp] theorem Core.raiseS_tq (c : Core) (nf : Bool) (f : Fl) : (c.raiseS nf f).tq = c.tq := by unfold Core.raiseS; split <;> rfl
@[simp] theorem Core.raiseS_k (c : Core) (nf : Bool) (f : Fl) : (c.raiseS nf f).k = c.k := by unfold Core.raiseS; split <;> rfl
@[simp] theorem Core.raiseS_kAt (c : Core) (nf : Bool) (f : Fl) : (c.raiseS nf f).kAt = c.kAt := by unfold Core.raiseS; split <;> rfl
@[simp] theorem Core.raiseS_kPh (c : Core) (nf : Bool) (f : Fl) : (c.raiseS nf f).kPh = c.kPh := by unfold Core.raiseS; split <;> rfl
@[simp] theorem Core.raiseS_kIncs (c : Core) (nf : Bool) (f : Fl) : (c.raiseS nf f).kIncs = c.kIncs := by unfold Core.raiseS; split <;> rfl
@[simp] theorem Core.raiseS_kOver (c : Core) (nf : Bool) (f : Fl) : (c.raiseS nf f).kOver = c.kOver := by unfold Core.raiseS; split <;> rfl
@[simp] theorem Core.raiseS_raisedAt (c : Core) (nf : Bool) (f : Fl) : (c.raiseS nf f).raisedAt = c.raisedAt := by unfold Core.raiseS; split <;> rfl
@[simp] theorem Core.raiseS_raised (c : Core) (nf : Bool) (f : Fl) : (c.raiseS nf f).raised = c.raised := by unfold Core.raiseS; split <;> rfl
@[simp] theorem Core.raiseS_sflate (c : Core) (nf : Bool) (f : Fl) : (c.raiseS nf f).sflate = c.sflate := by unfold Core.raiseS; split <;> rfl
@[simp] theorem Core.raiseS_strm (c : Core) (nf : Bool) (f : Fl) : (c.raiseS nf f).strm = c.strm := by unfold Core.raiseS; split <;> rfl
@[simp] theorem Core.raiseS_icache (c : Core) (nf : Bool) (f : Fl) : (c.raiseS nf f).icache = c.icache := by unfold Core.raiseS; split <;> rfl
@[simp] theorem Core.raiseS_nextId (c : Core) (nf : Bool) (f : Fl) : (c.raiseS nf f).nextId = c.nextId := by unfold Core.raiseS; split <;> rfl
@[simp] theorem Core.raiseS_acc (c : Core) (nf : Bool) (f : Fl) : (c.raiseS nf f).acc = c.acc := by unfold Core.raiseS; split <;> rfl
@[simp] theorem Core.raiseS_fl (c : Core) (nf : Bool) (f : Fl) : (c.raiseS nf f).fl = c.fl := by unfold Core.raiseS; split <;> rfl
@[simp] theorem Core.raiseS_fences (c : Core) (nf : Bool) (f : Fl) : (c.raiseS nf f).fences = c.fences := by unfold Core.raiseS; split <;> rfl
@[simp] theorem Core.raiseS_slog (c : Core) (nf : Bool) (f : Fl) : (c.raiseS nf f).slog = c.slog := by unfold Core.raiseS; split <;> rfl
@[simp] theorem Core.raiseS_causes (c : Core) (nf : Bool) (f : Fl) : (c.raiseS nf f).causes = c.causes := by unfold Core.raiseS; split <;> rfl
@[simp] theorem Core.raiseS_settled (c : Core) (nf : Bool) (f : Fl) : (c.raiseS nf f).settled = c.settled := by unfold Core.raiseS; split <;> rfl
@[simp] theorem Core.raiseS_framed (c : Core) (nf : Bool) (f : Fl) : (c.raiseS nf f).framed = c.framed := by unfold Core.raiseS; split <;> rfl
@[simp] theorem Core.raiseS_kimg (c : Core) (nf : Bool) (f : Fl) : (c.raiseS nf f).kimg = c.kimg := by unfold Core.raiseS; split <;> rfl
@[simp] theorem Core.raiseS_frameHeld (c : Core) (nf : Bool) (f : Fl) : (c.raiseS nf f).frameHeld = c.frameHeld := by unfold Core.raiseS; split <;> rfl
@[simp] theorem Core.raiseS_route (c : Core) (nf : Bool) (f : Fl) : (c.raiseS nf f).route = c.route := by unfold Core.raiseS; split <;> rfl
@[simp] theorem Core.raiseS_pages (c : Core) (nf : Bool) (f : Fl) : (c.raiseS nf f).pages = c.pages := by unfold Core.raiseS; split <;> rfl

/-! ### `raiseV` -/

@[simp] theorem Core.raiseV_st (c : Core) (nf : Bool) (fs : List Fl) : (c.raiseV nf fs).st = c.st := by unfold Core.raiseV; split <;> rfl
@[simp] theorem Core.raiseV_before (c : Core) (nf : Bool) (fs : List Fl) : (c.raiseV nf fs).before = c.before := by unfold Core.raiseV; split <;> rfl
@[simp] theorem Core.raiseV_task (c : Core) (nf : Bool) (fs : List Fl) : (c.raiseV nf fs).task = c.task := by unfold Core.raiseV; split <;> rfl
@[simp] theorem Core.raiseV_succ (c : Core) (nf : Bool) (fs : List Fl) : (c.raiseV nf fs).succ = c.succ := by unfold Core.raiseV; split <;> rfl
@[simp] theorem Core.raiseV_exitStep (c : Core) (nf : Bool) (fs : List Fl) : (c.raiseV nf fs).exitStep = c.exitStep := by unfold Core.raiseV; split <;> rfl
@[simp] theorem Core.raiseV_inHandler (c : Core) (nf : Bool) (fs : List Fl) : (c.raiseV nf fs).inHandler = c.inHandler := by unfold Core.raiseV; split <;> rfl
@[simp] theorem Core.raiseV_hstop (c : Core) (nf : Bool) (fs : List Fl) : (c.raiseV nf fs).hstop = c.hstop := by unfold Core.raiseV; split <;> rfl
@[simp] theorem Core.raiseV_returning (c : Core) (nf : Bool) (fs : List Fl) : (c.raiseV nf fs).returning = c.returning := by unfold Core.raiseV; split <;> rfl
@[simp] theorem Core.raiseV_hid (c : Core) (nf : Bool) (fs : List Fl) : (c.raiseV nf fs).hid = c.hid := by unfold Core.raiseV; split <;> rfl
@[simp] theorem Core.raiseV_cyc0 (c : Core) (nf : Bool) (fs : List Fl) : (c.raiseV nf fs).cyc0 = c.cyc0 := by unfold Core.raiseV; split <;> rfl
@[simp] theorem Core.raiseV_ran (c : Core) (nf : Bool) (fs : List Fl) : (c.raiseV nf fs).ran = c.ran := by unfold Core.raiseV; split <;> rfl
@[simp] theorem Core.raiseV_cycFrom (c : Core) (nf : Bool) (fs : List Fl) : (c.raiseV nf fs).cycFrom = c.cycFrom := by unfold Core.raiseV; split <;> rfl
@[simp] theorem Core.raiseV_parkedAt (c : Core) (nf : Bool) (fs : List Fl) : (c.raiseV nf fs).parkedAt = c.parkedAt := by unfold Core.raiseV; split <;> rfl
@[simp] theorem Core.raiseV_s (c : Core) (nf : Bool) (fs : List Fl) : (c.raiseV nf fs).s = c.s := by unfold Core.raiseV; split <;> rfl
@[simp] theorem Core.raiseV_q (c : Core) (nf : Bool) (fs : List Fl) : (c.raiseV nf fs).q = c.q := by unfold Core.raiseV; split <;> rfl
@[simp] theorem Core.raiseV_ret (c : Core) (nf : Bool) (fs : List Fl) : (c.raiseV nf fs).ret = c.ret := by unfold Core.raiseV; split <;> rfl
@[simp] theorem Core.raiseV_sflags (c : Core) (nf : Bool) (fs : List Fl) : (c.raiseV nf fs).sflags = c.sflags := by unfold Core.raiseV; split <;> rfl
@[simp] theorem Core.raiseV_dphase (c : Core) (nf : Bool) (fs : List Fl) : (c.raiseV nf fs).dphase = c.dphase := by unfold Core.raiseV; split <;> rfl
@[simp] theorem Core.raiseV_dstep (c : Core) (nf : Bool) (fs : List Fl) : (c.raiseV nf fs).dstep = c.dstep := by unfold Core.raiseV; split <;> rfl
@[simp] theorem Core.raiseV_dphNext (c : Core) (nf : Bool) (fs : List Fl) : (c.raiseV nf fs).dphNext = c.dphNext := by unfold Core.raiseV; split <;> rfl
@[simp] theorem Core.raiseV_dstNext (c : Core) (nf : Bool) (fs : List Fl) : (c.raiseV nf fs).dstNext = c.dstNext := by unfold Core.raiseV; split <;> rfl
@[simp] theorem Core.raiseV_ovf (c : Core) (nf : Bool) (fs : List Fl) : (c.raiseV nf fs).ovf = c.ovf := by unfold Core.raiseV; split <;> rfl
@[simp] theorem Core.raiseV_streak (c : Core) (nf : Bool) (fs : List Fl) : (c.raiseV nf fs).streak = c.streak := by unfold Core.raiseV; split <;> rfl
@[simp] theorem Core.raiseV_waitw (c : Core) (nf : Bool) (fs : List Fl) : (c.raiseV nf fs).waitw = c.waitw := by unfold Core.raiseV; split <;> rfl
@[simp] theorem Core.raiseV_heldW (c : Core) (nf : Bool) (fs : List Fl) : (c.raiseV nf fs).heldW = c.heldW := by unfold Core.raiseV; split <;> rfl
@[simp] theorem Core.raiseV_engReq (c : Core) (nf : Bool) (fs : List Fl) : (c.raiseV nf fs).engReq = c.engReq := by unfold Core.raiseV; split <;> rfl
@[simp] theorem Core.raiseV_b (c : Core) (nf : Bool) (fs : List Fl) : (c.raiseV nf fs).b = c.b := by unfold Core.raiseV; split <;> rfl
@[simp] theorem Core.raiseV_lcmds (c : Core) (nf : Bool) (fs : List Fl) : (c.raiseV nf fs).lcmds = c.lcmds := by unfold Core.raiseV; split <;> rfl
@[simp] theorem Core.raiseV_g (c : Core) (nf : Bool) (fs : List Fl) : (c.raiseV nf fs).g = c.g := by unfold Core.raiseV; split <;> rfl
@[simp] theorem Core.raiseV_dty (c : Core) (nf : Bool) (fs : List Fl) : (c.raiseV nf fs).dty = c.dty := by unfold Core.raiseV; split <;> rfl
@[simp] theorem Core.raiseV_slots (c : Core) (nf : Bool) (fs : List Fl) : (c.raiseV nf fs).slots = c.slots := by unfold Core.raiseV; split <;> rfl
@[simp] theorem Core.raiseV_e (c : Core) (nf : Bool) (fs : List Fl) : (c.raiseV nf fs).e = c.e := by unfold Core.raiseV; split <;> rfl
@[simp] theorem Core.raiseV_mq (c : Core) (nf : Bool) (fs : List Fl) : (c.raiseV nf fs).mq = c.mq := by unfold Core.raiseV; split <;> rfl
@[simp] theorem Core.raiseV_drains (c : Core) (nf : Bool) (fs : List Fl) : (c.raiseV nf fs).drains = c.drains := by unfold Core.raiseV; split <;> rfl
@[simp] theorem Core.raiseV_x (c : Core) (nf : Bool) (fs : List Fl) : (c.raiseV nf fs).x = c.x := by unfold Core.raiseV; split <;> rfl
@[simp] theorem Core.raiseV_p (c : Core) (nf : Bool) (fs : List Fl) : (c.raiseV nf fs).p = c.p := by unfold Core.raiseV; split <;> rfl
@[simp] theorem Core.raiseV_vbase (c : Core) (nf : Bool) (fs : List Fl) : (c.raiseV nf fs).vbase = c.vbase := by unfold Core.raiseV; split <;> rfl
@[simp] theorem Core.raiseV_rot (c : Core) (nf : Bool) (fs : List Fl) : (c.raiseV nf fs).rot = c.rot := by unfold Core.raiseV; split <;> rfl
@[simp] theorem Core.raiseV_vgov (c : Core) (nf : Bool) (fs : List Fl) : (c.raiseV nf fs).vgov = c.vgov := by unfold Core.raiseV; split <;> rfl
@[simp] theorem Core.raiseV_seed (c : Core) (nf : Bool) (fs : List Fl) : (c.raiseV nf fs).seed = c.seed := by unfold Core.raiseV; split <;> rfl
@[simp] theorem Core.raiseV_seedS (c : Core) (nf : Bool) (fs : List Fl) : (c.raiseV nf fs).seedS = c.seedS := by unfold Core.raiseV; split <;> rfl
@[simp] theorem Core.raiseV_bufW (c : Core) (nf : Bool) (fs : List Fl) : (c.raiseV nf fs).bufW = c.bufW := by unfold Core.raiseV; split <;> rfl
@[simp] theorem Core.raiseV_bufA (c : Core) (nf : Bool) (fs : List Fl) : (c.raiseV nf fs).bufA = c.bufA := by unfold Core.raiseV; split <;> rfl
@[simp] theorem Core.raiseV_bufS (c : Core) (nf : Bool) (fs : List Fl) : (c.raiseV nf fs).bufS = c.bufS := by unfold Core.raiseV; split <;> rfl
@[simp] theorem Core.raiseV_bufX (c : Core) (nf : Bool) (fs : List Fl) : (c.raiseV nf fs).bufX = c.bufX := by unfold Core.raiseV; split <;> rfl
@[simp] theorem Core.raiseV_tq (c : Core) (nf : Bool) (fs : List Fl) : (c.raiseV nf fs).tq = c.tq := by unfold Core.raiseV; split <;> rfl
@[simp] theorem Core.raiseV_k (c : Core) (nf : Bool) (fs : List Fl) : (c.raiseV nf fs).k = c.k := by unfold Core.raiseV; split <;> rfl
@[simp] theorem Core.raiseV_kAt (c : Core) (nf : Bool) (fs : List Fl) : (c.raiseV nf fs).kAt = c.kAt := by unfold Core.raiseV; split <;> rfl
@[simp] theorem Core.raiseV_kPh (c : Core) (nf : Bool) (fs : List Fl) : (c.raiseV nf fs).kPh = c.kPh := by unfold Core.raiseV; split <;> rfl
@[simp] theorem Core.raiseV_kIncs (c : Core) (nf : Bool) (fs : List Fl) : (c.raiseV nf fs).kIncs = c.kIncs := by unfold Core.raiseV; split <;> rfl
@[simp] theorem Core.raiseV_kOver (c : Core) (nf : Bool) (fs : List Fl) : (c.raiseV nf fs).kOver = c.kOver := by unfold Core.raiseV; split <;> rfl
@[simp] theorem Core.raiseV_raisedAt (c : Core) (nf : Bool) (fs : List Fl) : (c.raiseV nf fs).raisedAt = c.raisedAt := by unfold Core.raiseV; split <;> rfl
@[simp] theorem Core.raiseV_raised (c : Core) (nf : Bool) (fs : List Fl) : (c.raiseV nf fs).raised = c.raised := by unfold Core.raiseV; split <;> rfl
@[simp] theorem Core.raiseV_sflate (c : Core) (nf : Bool) (fs : List Fl) : (c.raiseV nf fs).sflate = c.sflate := by unfold Core.raiseV; split <;> rfl
@[simp] theorem Core.raiseV_strm (c : Core) (nf : Bool) (fs : List Fl) : (c.raiseV nf fs).strm = c.strm := by unfold Core.raiseV; split <;> rfl
@[simp] theorem Core.raiseV_icache (c : Core) (nf : Bool) (fs : List Fl) : (c.raiseV nf fs).icache = c.icache := by unfold Core.raiseV; split <;> rfl
@[simp] theorem Core.raiseV_nextId (c : Core) (nf : Bool) (fs : List Fl) : (c.raiseV nf fs).nextId = c.nextId := by unfold Core.raiseV; split <;> rfl
@[simp] theorem Core.raiseV_acc (c : Core) (nf : Bool) (fs : List Fl) : (c.raiseV nf fs).acc = c.acc := by unfold Core.raiseV; split <;> rfl
@[simp] theorem Core.raiseV_fl (c : Core) (nf : Bool) (fs : List Fl) : (c.raiseV nf fs).fl = c.fl := by unfold Core.raiseV; split <;> rfl
@[simp] theorem Core.raiseV_fences (c : Core) (nf : Bool) (fs : List Fl) : (c.raiseV nf fs).fences = c.fences := by unfold Core.raiseV; split <;> rfl
@[simp] theorem Core.raiseV_slog (c : Core) (nf : Bool) (fs : List Fl) : (c.raiseV nf fs).slog = c.slog := by unfold Core.raiseV; split <;> rfl
@[simp] theorem Core.raiseV_causes (c : Core) (nf : Bool) (fs : List Fl) : (c.raiseV nf fs).causes = c.causes := by unfold Core.raiseV; split <;> rfl
@[simp] theorem Core.raiseV_settled (c : Core) (nf : Bool) (fs : List Fl) : (c.raiseV nf fs).settled = c.settled := by unfold Core.raiseV; split <;> rfl
@[simp] theorem Core.raiseV_framed (c : Core) (nf : Bool) (fs : List Fl) : (c.raiseV nf fs).framed = c.framed := by unfold Core.raiseV; split <;> rfl
@[simp] theorem Core.raiseV_kimg (c : Core) (nf : Bool) (fs : List Fl) : (c.raiseV nf fs).kimg = c.kimg := by unfold Core.raiseV; split <;> rfl
@[simp] theorem Core.raiseV_frameHeld (c : Core) (nf : Bool) (fs : List Fl) : (c.raiseV nf fs).frameHeld = c.frameHeld := by unfold Core.raiseV; split <;> rfl
@[simp] theorem Core.raiseV_route (c : Core) (nf : Bool) (fs : List Fl) : (c.raiseV nf fs).route = c.route := by unfold Core.raiseV; split <;> rfl
@[simp] theorem Core.raiseV_pages (c : Core) (nf : Bool) (fs : List Fl) : (c.raiseV nf fs).pages = c.pages := by unfold Core.raiseV; split <;> rfl

/-! ### `advance` -/

@[simp] theorem Core.advance_st (c : Core) (st : Stream) (hw : Nat) : (c.advance st hw).st = c.st := by cases st <;> rfl
@[simp] theorem Core.advance_before (c : Core) (st : Stream) (hw : Nat) : (c.advance st hw).before = c.before := by cases st <;> rfl
@[simp] theorem Core.advance_task (c : Core) (st : Stream) (hw : Nat) : (c.advance st hw).task = c.task := by cases st <;> rfl
@[simp] theorem Core.advance_succ (c : Core) (st : Stream) (hw : Nat) : (c.advance st hw).succ = c.succ := by cases st <;> rfl
@[simp] theorem Core.advance_exitStep (c : Core) (st : Stream) (hw : Nat) : (c.advance st hw).exitStep = c.exitStep := by cases st <;> rfl
@[simp] theorem Core.advance_inHandler (c : Core) (st : Stream) (hw : Nat) : (c.advance st hw).inHandler = c.inHandler := by cases st <;> rfl
@[simp] theorem Core.advance_hstop (c : Core) (st : Stream) (hw : Nat) : (c.advance st hw).hstop = c.hstop := by cases st <;> rfl
@[simp] theorem Core.advance_returning (c : Core) (st : Stream) (hw : Nat) : (c.advance st hw).returning = c.returning := by cases st <;> rfl
@[simp] theorem Core.advance_hid (c : Core) (st : Stream) (hw : Nat) : (c.advance st hw).hid = c.hid := by cases st <;> rfl
@[simp] theorem Core.advance_cyc0 (c : Core) (st : Stream) (hw : Nat) : (c.advance st hw).cyc0 = c.cyc0 := by cases st <;> rfl
@[simp] theorem Core.advance_ran (c : Core) (st : Stream) (hw : Nat) : (c.advance st hw).ran = c.ran := by cases st <;> rfl
@[simp] theorem Core.advance_cycFrom (c : Core) (st : Stream) (hw : Nat) : (c.advance st hw).cycFrom = c.cycFrom := by cases st <;> rfl
@[simp] theorem Core.advance_parkedAt (c : Core) (st : Stream) (hw : Nat) : (c.advance st hw).parkedAt = c.parkedAt := by cases st <;> rfl
@[simp] theorem Core.advance_s (c : Core) (st : Stream) (hw : Nat) : (c.advance st hw).s = c.s := by cases st <;> rfl
@[simp] theorem Core.advance_q (c : Core) (st : Stream) (hw : Nat) : (c.advance st hw).q = c.q := by cases st <;> rfl
@[simp] theorem Core.advance_ret (c : Core) (st : Stream) (hw : Nat) : (c.advance st hw).ret = c.ret := by cases st <;> rfl
@[simp] theorem Core.advance_sflags (c : Core) (st : Stream) (hw : Nat) : (c.advance st hw).sflags = c.sflags := by cases st <;> rfl
@[simp] theorem Core.advance_dphase (c : Core) (st : Stream) (hw : Nat) : (c.advance st hw).dphase = c.dphase := by cases st <;> rfl
@[simp] theorem Core.advance_dstep (c : Core) (st : Stream) (hw : Nat) : (c.advance st hw).dstep = c.dstep := by cases st <;> rfl
@[simp] theorem Core.advance_dphNext (c : Core) (st : Stream) (hw : Nat) : (c.advance st hw).dphNext = c.dphNext := by cases st <;> rfl
@[simp] theorem Core.advance_dstNext (c : Core) (st : Stream) (hw : Nat) : (c.advance st hw).dstNext = c.dstNext := by cases st <;> rfl
@[simp] theorem Core.advance_ovf (c : Core) (st : Stream) (hw : Nat) : (c.advance st hw).ovf = c.ovf := by cases st <;> rfl
@[simp] theorem Core.advance_streak (c : Core) (st : Stream) (hw : Nat) : (c.advance st hw).streak = c.streak := by cases st <;> rfl
@[simp] theorem Core.advance_waitw (c : Core) (st : Stream) (hw : Nat) : (c.advance st hw).waitw = c.waitw := by cases st <;> rfl
@[simp] theorem Core.advance_heldW (c : Core) (st : Stream) (hw : Nat) : (c.advance st hw).heldW = c.heldW := by cases st <;> rfl
@[simp] theorem Core.advance_engReq (c : Core) (st : Stream) (hw : Nat) : (c.advance st hw).engReq = c.engReq := by cases st <;> rfl
@[simp] theorem Core.advance_b (c : Core) (st : Stream) (hw : Nat) : (c.advance st hw).b = c.b := by cases st <;> rfl
@[simp] theorem Core.advance_lcmds (c : Core) (st : Stream) (hw : Nat) : (c.advance st hw).lcmds = c.lcmds := by cases st <;> rfl
@[simp] theorem Core.advance_g (c : Core) (st : Stream) (hw : Nat) : (c.advance st hw).g = c.g := by cases st <;> rfl
@[simp] theorem Core.advance_dty (c : Core) (st : Stream) (hw : Nat) : (c.advance st hw).dty = c.dty := by cases st <;> rfl
@[simp] theorem Core.advance_slots (c : Core) (st : Stream) (hw : Nat) : (c.advance st hw).slots = c.slots := by cases st <;> rfl
@[simp] theorem Core.advance_e (c : Core) (st : Stream) (hw : Nat) : (c.advance st hw).e = c.e := by cases st <;> rfl
@[simp] theorem Core.advance_mq (c : Core) (st : Stream) (hw : Nat) : (c.advance st hw).mq = c.mq := by cases st <;> rfl
@[simp] theorem Core.advance_drains (c : Core) (st : Stream) (hw : Nat) : (c.advance st hw).drains = c.drains := by cases st <;> rfl
@[simp] theorem Core.advance_x (c : Core) (st : Stream) (hw : Nat) : (c.advance st hw).x = c.x := by cases st <;> rfl
@[simp] theorem Core.advance_p (c : Core) (st : Stream) (hw : Nat) : (c.advance st hw).p = c.p := by cases st <;> rfl
@[simp] theorem Core.advance_vbase (c : Core) (st : Stream) (hw : Nat) : (c.advance st hw).vbase = c.vbase := by cases st <;> rfl
@[simp] theorem Core.advance_rot (c : Core) (st : Stream) (hw : Nat) : (c.advance st hw).rot = c.rot := by cases st <;> rfl
@[simp] theorem Core.advance_vgov (c : Core) (st : Stream) (hw : Nat) : (c.advance st hw).vgov = c.vgov := by cases st <;> rfl
@[simp] theorem Core.advance_vflags (c : Core) (st : Stream) (hw : Nat) : (c.advance st hw).vflags = c.vflags := by cases st <;> rfl
@[simp] theorem Core.advance_seed (c : Core) (st : Stream) (hw : Nat) : (c.advance st hw).seed = c.seed := by cases st <;> rfl
@[simp] theorem Core.advance_seedS (c : Core) (st : Stream) (hw : Nat) : (c.advance st hw).seedS = c.seedS := by cases st <;> rfl
@[simp] theorem Core.advance_bufW (c : Core) (st : Stream) (hw : Nat) : (c.advance st hw).bufW = c.bufW := by cases st <;> rfl
@[simp] theorem Core.advance_bufA (c : Core) (st : Stream) (hw : Nat) : (c.advance st hw).bufA = c.bufA := by cases st <;> rfl
@[simp] theorem Core.advance_bufS (c : Core) (st : Stream) (hw : Nat) : (c.advance st hw).bufS = c.bufS := by cases st <;> rfl
@[simp] theorem Core.advance_bufX (c : Core) (st : Stream) (hw : Nat) : (c.advance st hw).bufX = c.bufX := by cases st <;> rfl
@[simp] theorem Core.advance_tq (c : Core) (st : Stream) (hw : Nat) : (c.advance st hw).tq = c.tq := by cases st <;> rfl
@[simp] theorem Core.advance_k (c : Core) (st : Stream) (hw : Nat) : (c.advance st hw).k = c.k := by cases st <;> rfl
@[simp] theorem Core.advance_kAt (c : Core) (st : Stream) (hw : Nat) : (c.advance st hw).kAt = c.kAt := by cases st <;> rfl
@[simp] theorem Core.advance_kPh (c : Core) (st : Stream) (hw : Nat) : (c.advance st hw).kPh = c.kPh := by cases st <;> rfl
@[simp] theorem Core.advance_kIncs (c : Core) (st : Stream) (hw : Nat) : (c.advance st hw).kIncs = c.kIncs := by cases st <;> rfl
@[simp] theorem Core.advance_kOver (c : Core) (st : Stream) (hw : Nat) : (c.advance st hw).kOver = c.kOver := by cases st <;> rfl
@[simp] theorem Core.advance_raisedAt (c : Core) (st : Stream) (hw : Nat) : (c.advance st hw).raisedAt = c.raisedAt := by cases st <;> rfl
@[simp] theorem Core.advance_raised (c : Core) (st : Stream) (hw : Nat) : (c.advance st hw).raised = c.raised := by cases st <;> rfl
@[simp] theorem Core.advance_sflate (c : Core) (st : Stream) (hw : Nat) : (c.advance st hw).sflate = c.sflate := by cases st <;> rfl
@[simp] theorem Core.advance_icache (c : Core) (st : Stream) (hw : Nat) : (c.advance st hw).icache = c.icache := by cases st <;> rfl
@[simp] theorem Core.advance_nextId (c : Core) (st : Stream) (hw : Nat) : (c.advance st hw).nextId = c.nextId := by cases st <;> rfl
@[simp] theorem Core.advance_acc (c : Core) (st : Stream) (hw : Nat) : (c.advance st hw).acc = c.acc := by cases st <;> rfl
@[simp] theorem Core.advance_fl (c : Core) (st : Stream) (hw : Nat) : (c.advance st hw).fl = c.fl := by cases st <;> rfl
@[simp] theorem Core.advance_fences (c : Core) (st : Stream) (hw : Nat) : (c.advance st hw).fences = c.fences := by cases st <;> rfl
@[simp] theorem Core.advance_slog (c : Core) (st : Stream) (hw : Nat) : (c.advance st hw).slog = c.slog := by cases st <;> rfl
@[simp] theorem Core.advance_causes (c : Core) (st : Stream) (hw : Nat) : (c.advance st hw).causes = c.causes := by cases st <;> rfl
@[simp] theorem Core.advance_settled (c : Core) (st : Stream) (hw : Nat) : (c.advance st hw).settled = c.settled := by cases st <;> rfl
@[simp] theorem Core.advance_framed (c : Core) (st : Stream) (hw : Nat) : (c.advance st hw).framed = c.framed := by cases st <;> rfl
@[simp] theorem Core.advance_kimg (c : Core) (st : Stream) (hw : Nat) : (c.advance st hw).kimg = c.kimg := by cases st <;> rfl
@[simp] theorem Core.advance_frameHeld (c : Core) (st : Stream) (hw : Nat) : (c.advance st hw).frameHeld = c.frameHeld := by cases st <;> rfl
@[simp] theorem Core.advance_route (c : Core) (st : Stream) (hw : Nat) : (c.advance st hw).route = c.route := by cases st <;> rfl
@[simp] theorem Core.advance_pages (c : Core) (st : Stream) (hw : Nat) : (c.advance st hw).pages = c.pages := by cases st <;> rfl

/-! ### `hold` -/

@[simp] theorem Core.hold_st (c : Core) (st : Stream) (a : HAct) : (c.hold st a).st = c.st := by cases st <;> rfl
@[simp] theorem Core.hold_before (c : Core) (st : Stream) (a : HAct) : (c.hold st a).before = c.before := by cases st <;> rfl
@[simp] theorem Core.hold_task (c : Core) (st : Stream) (a : HAct) : (c.hold st a).task = c.task := by cases st <;> rfl
@[simp] theorem Core.hold_succ (c : Core) (st : Stream) (a : HAct) : (c.hold st a).succ = c.succ := by cases st <;> rfl
@[simp] theorem Core.hold_exitStep (c : Core) (st : Stream) (a : HAct) : (c.hold st a).exitStep = c.exitStep := by cases st <;> rfl
@[simp] theorem Core.hold_inHandler (c : Core) (st : Stream) (a : HAct) : (c.hold st a).inHandler = c.inHandler := by cases st <;> rfl
@[simp] theorem Core.hold_hstop (c : Core) (st : Stream) (a : HAct) : (c.hold st a).hstop = c.hstop := by cases st <;> rfl
@[simp] theorem Core.hold_returning (c : Core) (st : Stream) (a : HAct) : (c.hold st a).returning = c.returning := by cases st <;> rfl
@[simp] theorem Core.hold_hid (c : Core) (st : Stream) (a : HAct) : (c.hold st a).hid = c.hid := by cases st <;> rfl
@[simp] theorem Core.hold_cyc0 (c : Core) (st : Stream) (a : HAct) : (c.hold st a).cyc0 = c.cyc0 := by cases st <;> rfl
@[simp] theorem Core.hold_ran (c : Core) (st : Stream) (a : HAct) : (c.hold st a).ran = c.ran := by cases st <;> rfl
@[simp] theorem Core.hold_cycFrom (c : Core) (st : Stream) (a : HAct) : (c.hold st a).cycFrom = c.cycFrom := by cases st <;> rfl
@[simp] theorem Core.hold_parkedAt (c : Core) (st : Stream) (a : HAct) : (c.hold st a).parkedAt = c.parkedAt := by cases st <;> rfl
@[simp] theorem Core.hold_s (c : Core) (st : Stream) (a : HAct) : (c.hold st a).s = c.s := by cases st <;> rfl
@[simp] theorem Core.hold_q (c : Core) (st : Stream) (a : HAct) : (c.hold st a).q = c.q := by cases st <;> rfl
@[simp] theorem Core.hold_ret (c : Core) (st : Stream) (a : HAct) : (c.hold st a).ret = c.ret := by cases st <;> rfl
@[simp] theorem Core.hold_sflags (c : Core) (st : Stream) (a : HAct) : (c.hold st a).sflags = c.sflags := by cases st <;> rfl
@[simp] theorem Core.hold_dphase (c : Core) (st : Stream) (a : HAct) : (c.hold st a).dphase = c.dphase := by cases st <;> rfl
@[simp] theorem Core.hold_dstep (c : Core) (st : Stream) (a : HAct) : (c.hold st a).dstep = c.dstep := by cases st <;> rfl
@[simp] theorem Core.hold_dphNext (c : Core) (st : Stream) (a : HAct) : (c.hold st a).dphNext = c.dphNext := by cases st <;> rfl
@[simp] theorem Core.hold_dstNext (c : Core) (st : Stream) (a : HAct) : (c.hold st a).dstNext = c.dstNext := by cases st <;> rfl
@[simp] theorem Core.hold_ovf (c : Core) (st : Stream) (a : HAct) : (c.hold st a).ovf = c.ovf := by cases st <;> rfl
@[simp] theorem Core.hold_streak (c : Core) (st : Stream) (a : HAct) : (c.hold st a).streak = c.streak := by cases st <;> rfl
@[simp] theorem Core.hold_waitw (c : Core) (st : Stream) (a : HAct) : (c.hold st a).waitw = c.waitw := by cases st <;> rfl
@[simp] theorem Core.hold_heldW (c : Core) (st : Stream) (a : HAct) : (c.hold st a).heldW = c.heldW := by cases st <;> rfl
@[simp] theorem Core.hold_engReq (c : Core) (st : Stream) (a : HAct) : (c.hold st a).engReq = c.engReq := by cases st <;> rfl
@[simp] theorem Core.hold_b (c : Core) (st : Stream) (a : HAct) : (c.hold st a).b = c.b := by cases st <;> rfl
@[simp] theorem Core.hold_lcmds (c : Core) (st : Stream) (a : HAct) : (c.hold st a).lcmds = c.lcmds := by cases st <;> rfl
@[simp] theorem Core.hold_g (c : Core) (st : Stream) (a : HAct) : (c.hold st a).g = c.g := by cases st <;> rfl
@[simp] theorem Core.hold_dty (c : Core) (st : Stream) (a : HAct) : (c.hold st a).dty = c.dty := by cases st <;> rfl
@[simp] theorem Core.hold_slots (c : Core) (st : Stream) (a : HAct) : (c.hold st a).slots = c.slots := by cases st <;> rfl
@[simp] theorem Core.hold_e (c : Core) (st : Stream) (a : HAct) : (c.hold st a).e = c.e := by cases st <;> rfl
@[simp] theorem Core.hold_mq (c : Core) (st : Stream) (a : HAct) : (c.hold st a).mq = c.mq := by cases st <;> rfl
@[simp] theorem Core.hold_drains (c : Core) (st : Stream) (a : HAct) : (c.hold st a).drains = c.drains := by cases st <;> rfl
@[simp] theorem Core.hold_x (c : Core) (st : Stream) (a : HAct) : (c.hold st a).x = c.x := by cases st <;> rfl
@[simp] theorem Core.hold_p (c : Core) (st : Stream) (a : HAct) : (c.hold st a).p = c.p := by cases st <;> rfl
@[simp] theorem Core.hold_vbase (c : Core) (st : Stream) (a : HAct) : (c.hold st a).vbase = c.vbase := by cases st <;> rfl
@[simp] theorem Core.hold_rot (c : Core) (st : Stream) (a : HAct) : (c.hold st a).rot = c.rot := by cases st <;> rfl
@[simp] theorem Core.hold_vgov (c : Core) (st : Stream) (a : HAct) : (c.hold st a).vgov = c.vgov := by cases st <;> rfl
@[simp] theorem Core.hold_vflags (c : Core) (st : Stream) (a : HAct) : (c.hold st a).vflags = c.vflags := by cases st <;> rfl
@[simp] theorem Core.hold_seed (c : Core) (st : Stream) (a : HAct) : (c.hold st a).seed = c.seed := by cases st <;> rfl
@[simp] theorem Core.hold_seedS (c : Core) (st : Stream) (a : HAct) : (c.hold st a).seedS = c.seedS := by cases st <;> rfl
@[simp] theorem Core.hold_bufW (c : Core) (st : Stream) (a : HAct) : (c.hold st a).bufW = c.bufW := by cases st <;> rfl
@[simp] theorem Core.hold_bufA (c : Core) (st : Stream) (a : HAct) : (c.hold st a).bufA = c.bufA := by cases st <;> rfl
@[simp] theorem Core.hold_bufS (c : Core) (st : Stream) (a : HAct) : (c.hold st a).bufS = c.bufS := by cases st <;> rfl
@[simp] theorem Core.hold_bufX (c : Core) (st : Stream) (a : HAct) : (c.hold st a).bufX = c.bufX := by cases st <;> rfl
@[simp] theorem Core.hold_tq (c : Core) (st : Stream) (a : HAct) : (c.hold st a).tq = c.tq := by cases st <;> rfl
@[simp] theorem Core.hold_k (c : Core) (st : Stream) (a : HAct) : (c.hold st a).k = c.k := by cases st <;> rfl
@[simp] theorem Core.hold_kAt (c : Core) (st : Stream) (a : HAct) : (c.hold st a).kAt = c.kAt := by cases st <;> rfl
@[simp] theorem Core.hold_kPh (c : Core) (st : Stream) (a : HAct) : (c.hold st a).kPh = c.kPh := by cases st <;> rfl
@[simp] theorem Core.hold_kIncs (c : Core) (st : Stream) (a : HAct) : (c.hold st a).kIncs = c.kIncs := by cases st <;> rfl
@[simp] theorem Core.hold_kOver (c : Core) (st : Stream) (a : HAct) : (c.hold st a).kOver = c.kOver := by cases st <;> rfl
@[simp] theorem Core.hold_raisedAt (c : Core) (st : Stream) (a : HAct) : (c.hold st a).raisedAt = c.raisedAt := by cases st <;> rfl
@[simp] theorem Core.hold_raised (c : Core) (st : Stream) (a : HAct) : (c.hold st a).raised = c.raised := by cases st <;> rfl
@[simp] theorem Core.hold_sflate (c : Core) (st : Stream) (a : HAct) : (c.hold st a).sflate = c.sflate := by cases st <;> rfl
@[simp] theorem Core.hold_icache (c : Core) (st : Stream) (a : HAct) : (c.hold st a).icache = c.icache := by cases st <;> rfl
@[simp] theorem Core.hold_acc (c : Core) (st : Stream) (a : HAct) : (c.hold st a).acc = c.acc := by cases st <;> rfl
@[simp] theorem Core.hold_fl (c : Core) (st : Stream) (a : HAct) : (c.hold st a).fl = c.fl := by cases st <;> rfl
@[simp] theorem Core.hold_fences (c : Core) (st : Stream) (a : HAct) : (c.hold st a).fences = c.fences := by cases st <;> rfl
@[simp] theorem Core.hold_slog (c : Core) (st : Stream) (a : HAct) : (c.hold st a).slog = c.slog := by cases st <;> rfl
@[simp] theorem Core.hold_causes (c : Core) (st : Stream) (a : HAct) : (c.hold st a).causes = c.causes := by cases st <;> rfl
@[simp] theorem Core.hold_settled (c : Core) (st : Stream) (a : HAct) : (c.hold st a).settled = c.settled := by cases st <;> rfl
@[simp] theorem Core.hold_framed (c : Core) (st : Stream) (a : HAct) : (c.hold st a).framed = c.framed := by cases st <;> rfl
@[simp] theorem Core.hold_kimg (c : Core) (st : Stream) (a : HAct) : (c.hold st a).kimg = c.kimg := by cases st <;> rfl
@[simp] theorem Core.hold_frameHeld (c : Core) (st : Stream) (a : HAct) : (c.hold st a).frameHeld = c.frameHeld := by cases st <;> rfl
@[simp] theorem Core.hold_route (c : Core) (st : Stream) (a : HAct) : (c.hold st a).route = c.route := by cases st <;> rfl
@[simp] theorem Core.hold_pages (c : Core) (st : Stream) (a : HAct) : (c.hold st a).pages = c.pages := by cases st <;> rfl

/-! ### `push` -/

@[simp] theorem Core.push_st (c : Core) (st : Stream) (code : BitVec 2) (x : BitVec 32) : (c.push st code x).st = c.st := by unfold Core.push; split <;> simp
@[simp] theorem Core.push_before (c : Core) (st : Stream) (code : BitVec 2) (x : BitVec 32) : (c.push st code x).before = c.before := by unfold Core.push; split <;> simp
@[simp] theorem Core.push_task (c : Core) (st : Stream) (code : BitVec 2) (x : BitVec 32) : (c.push st code x).task = c.task := by unfold Core.push; split <;> simp
@[simp] theorem Core.push_succ (c : Core) (st : Stream) (code : BitVec 2) (x : BitVec 32) : (c.push st code x).succ = c.succ := by unfold Core.push; split <;> simp
@[simp] theorem Core.push_exitStep (c : Core) (st : Stream) (code : BitVec 2) (x : BitVec 32) : (c.push st code x).exitStep = c.exitStep := by unfold Core.push; split <;> simp
@[simp] theorem Core.push_inHandler (c : Core) (st : Stream) (code : BitVec 2) (x : BitVec 32) : (c.push st code x).inHandler = c.inHandler := by unfold Core.push; split <;> simp
@[simp] theorem Core.push_hstop (c : Core) (st : Stream) (code : BitVec 2) (x : BitVec 32) : (c.push st code x).hstop = c.hstop := by unfold Core.push; split <;> simp
@[simp] theorem Core.push_returning (c : Core) (st : Stream) (code : BitVec 2) (x : BitVec 32) : (c.push st code x).returning = c.returning := by unfold Core.push; split <;> simp
@[simp] theorem Core.push_hid (c : Core) (st : Stream) (code : BitVec 2) (x : BitVec 32) : (c.push st code x).hid = c.hid := by unfold Core.push; split <;> simp
@[simp] theorem Core.push_cyc0 (c : Core) (st : Stream) (code : BitVec 2) (x : BitVec 32) : (c.push st code x).cyc0 = c.cyc0 := by unfold Core.push; split <;> simp
@[simp] theorem Core.push_ran (c : Core) (st : Stream) (code : BitVec 2) (x : BitVec 32) : (c.push st code x).ran = c.ran := by unfold Core.push; split <;> simp
@[simp] theorem Core.push_cycFrom (c : Core) (st : Stream) (code : BitVec 2) (x : BitVec 32) : (c.push st code x).cycFrom = c.cycFrom := by unfold Core.push; split <;> simp
@[simp] theorem Core.push_parkedAt (c : Core) (st : Stream) (code : BitVec 2) (x : BitVec 32) : (c.push st code x).parkedAt = c.parkedAt := by unfold Core.push; split <;> simp
@[simp] theorem Core.push_s (c : Core) (st : Stream) (code : BitVec 2) (x : BitVec 32) : (c.push st code x).s = c.s := by unfold Core.push; split <;> simp
@[simp] theorem Core.push_q (c : Core) (st : Stream) (code : BitVec 2) (x : BitVec 32) : (c.push st code x).q = c.q := by unfold Core.push; split <;> simp
@[simp] theorem Core.push_ret (c : Core) (st : Stream) (code : BitVec 2) (x : BitVec 32) : (c.push st code x).ret = c.ret := by unfold Core.push; split <;> simp
@[simp] theorem Core.push_sflags (c : Core) (st : Stream) (code : BitVec 2) (x : BitVec 32) : (c.push st code x).sflags = c.sflags := by unfold Core.push; split <;> simp
@[simp] theorem Core.push_dphase (c : Core) (st : Stream) (code : BitVec 2) (x : BitVec 32) : (c.push st code x).dphase = c.dphase := by unfold Core.push; split <;> simp
@[simp] theorem Core.push_dstep (c : Core) (st : Stream) (code : BitVec 2) (x : BitVec 32) : (c.push st code x).dstep = c.dstep := by unfold Core.push; split <;> simp
@[simp] theorem Core.push_dphNext (c : Core) (st : Stream) (code : BitVec 2) (x : BitVec 32) : (c.push st code x).dphNext = c.dphNext := by unfold Core.push; split <;> simp
@[simp] theorem Core.push_dstNext (c : Core) (st : Stream) (code : BitVec 2) (x : BitVec 32) : (c.push st code x).dstNext = c.dstNext := by unfold Core.push; split <;> simp
@[simp] theorem Core.push_ovf (c : Core) (st : Stream) (code : BitVec 2) (x : BitVec 32) : (c.push st code x).ovf = c.ovf := by unfold Core.push; split <;> simp
@[simp] theorem Core.push_streak (c : Core) (st : Stream) (code : BitVec 2) (x : BitVec 32) : (c.push st code x).streak = c.streak := by unfold Core.push; split <;> simp
@[simp] theorem Core.push_waitw (c : Core) (st : Stream) (code : BitVec 2) (x : BitVec 32) : (c.push st code x).waitw = c.waitw := by unfold Core.push; split <;> simp
@[simp] theorem Core.push_heldW (c : Core) (st : Stream) (code : BitVec 2) (x : BitVec 32) : (c.push st code x).heldW = c.heldW := by unfold Core.push; split <;> simp
@[simp] theorem Core.push_engReq (c : Core) (st : Stream) (code : BitVec 2) (x : BitVec 32) : (c.push st code x).engReq = c.engReq := by unfold Core.push; split <;> simp
@[simp] theorem Core.push_b (c : Core) (st : Stream) (code : BitVec 2) (x : BitVec 32) : (c.push st code x).b = c.b := by unfold Core.push; split <;> simp
@[simp] theorem Core.push_lcmds (c : Core) (st : Stream) (code : BitVec 2) (x : BitVec 32) : (c.push st code x).lcmds = c.lcmds := by unfold Core.push; split <;> simp
@[simp] theorem Core.push_g (c : Core) (st : Stream) (code : BitVec 2) (x : BitVec 32) : (c.push st code x).g = c.g := by unfold Core.push; split <;> simp
@[simp] theorem Core.push_dty (c : Core) (st : Stream) (code : BitVec 2) (x : BitVec 32) : (c.push st code x).dty = c.dty := by unfold Core.push; split <;> simp
@[simp] theorem Core.push_slots (c : Core) (st : Stream) (code : BitVec 2) (x : BitVec 32) : (c.push st code x).slots = c.slots := by unfold Core.push; split <;> simp
@[simp] theorem Core.push_e (c : Core) (st : Stream) (code : BitVec 2) (x : BitVec 32) : (c.push st code x).e = c.e := by unfold Core.push; split <;> simp
@[simp] theorem Core.push_mq (c : Core) (st : Stream) (code : BitVec 2) (x : BitVec 32) : (c.push st code x).mq = c.mq := by unfold Core.push; split <;> simp
@[simp] theorem Core.push_drains (c : Core) (st : Stream) (code : BitVec 2) (x : BitVec 32) : (c.push st code x).drains = c.drains := by unfold Core.push; split <;> simp
@[simp] theorem Core.push_x (c : Core) (st : Stream) (code : BitVec 2) (x : BitVec 32) : (c.push st code x).x = c.x := by unfold Core.push; split <;> simp
@[simp] theorem Core.push_p (c : Core) (st : Stream) (code : BitVec 2) (x : BitVec 32) : (c.push st code x).p = c.p := by unfold Core.push; split <;> simp
@[simp] theorem Core.push_vbase (c : Core) (st : Stream) (code : BitVec 2) (x : BitVec 32) : (c.push st code x).vbase = c.vbase := by unfold Core.push; split <;> simp
@[simp] theorem Core.push_rot (c : Core) (st : Stream) (code : BitVec 2) (x : BitVec 32) : (c.push st code x).rot = c.rot := by unfold Core.push; split <;> simp
@[simp] theorem Core.push_vgov (c : Core) (st : Stream) (code : BitVec 2) (x : BitVec 32) : (c.push st code x).vgov = c.vgov := by unfold Core.push; split <;> simp
@[simp] theorem Core.push_vflags (c : Core) (st : Stream) (code : BitVec 2) (x : BitVec 32) : (c.push st code x).vflags = c.vflags := by unfold Core.push; split <;> simp
@[simp] theorem Core.push_seed (c : Core) (st : Stream) (code : BitVec 2) (x : BitVec 32) : (c.push st code x).seed = c.seed := by unfold Core.push; split <;> simp
@[simp] theorem Core.push_seedS (c : Core) (st : Stream) (code : BitVec 2) (x : BitVec 32) : (c.push st code x).seedS = c.seedS := by unfold Core.push; split <;> simp
@[simp] theorem Core.push_bufW (c : Core) (st : Stream) (code : BitVec 2) (x : BitVec 32) : (c.push st code x).bufW = c.bufW := by unfold Core.push; split <;> simp
@[simp] theorem Core.push_bufA (c : Core) (st : Stream) (code : BitVec 2) (x : BitVec 32) : (c.push st code x).bufA = c.bufA := by unfold Core.push; split <;> simp
@[simp] theorem Core.push_bufS (c : Core) (st : Stream) (code : BitVec 2) (x : BitVec 32) : (c.push st code x).bufS = c.bufS := by unfold Core.push; split <;> simp
@[simp] theorem Core.push_bufX (c : Core) (st : Stream) (code : BitVec 2) (x : BitVec 32) : (c.push st code x).bufX = c.bufX := by unfold Core.push; split <;> simp
@[simp] theorem Core.push_tq (c : Core) (st : Stream) (code : BitVec 2) (x : BitVec 32) : (c.push st code x).tq = c.tq := by unfold Core.push; split <;> simp
@[simp] theorem Core.push_k (c : Core) (st : Stream) (code : BitVec 2) (x : BitVec 32) : (c.push st code x).k = c.k := by unfold Core.push; split <;> simp
@[simp] theorem Core.push_kAt (c : Core) (st : Stream) (code : BitVec 2) (x : BitVec 32) : (c.push st code x).kAt = c.kAt := by unfold Core.push; split <;> simp
@[simp] theorem Core.push_kPh (c : Core) (st : Stream) (code : BitVec 2) (x : BitVec 32) : (c.push st code x).kPh = c.kPh := by unfold Core.push; split <;> simp
@[simp] theorem Core.push_kIncs (c : Core) (st : Stream) (code : BitVec 2) (x : BitVec 32) : (c.push st code x).kIncs = c.kIncs := by unfold Core.push; split <;> simp
@[simp] theorem Core.push_kOver (c : Core) (st : Stream) (code : BitVec 2) (x : BitVec 32) : (c.push st code x).kOver = c.kOver := by unfold Core.push; split <;> simp
@[simp] theorem Core.push_raisedAt (c : Core) (st : Stream) (code : BitVec 2) (x : BitVec 32) : (c.push st code x).raisedAt = c.raisedAt := by unfold Core.push; split <;> simp
@[simp] theorem Core.push_raised (c : Core) (st : Stream) (code : BitVec 2) (x : BitVec 32) : (c.push st code x).raised = c.raised := by unfold Core.push; split <;> simp
@[simp] theorem Core.push_sflate (c : Core) (st : Stream) (code : BitVec 2) (x : BitVec 32) : (c.push st code x).sflate = c.sflate := by unfold Core.push; split <;> simp
@[simp] theorem Core.push_icache (c : Core) (st : Stream) (code : BitVec 2) (x : BitVec 32) : (c.push st code x).icache = c.icache := by unfold Core.push; split <;> simp
@[simp] theorem Core.push_acc (c : Core) (st : Stream) (code : BitVec 2) (x : BitVec 32) : (c.push st code x).acc = c.acc := by unfold Core.push; split <;> simp
@[simp] theorem Core.push_fl (c : Core) (st : Stream) (code : BitVec 2) (x : BitVec 32) : (c.push st code x).fl = c.fl := by unfold Core.push; split <;> simp
@[simp] theorem Core.push_fences (c : Core) (st : Stream) (code : BitVec 2) (x : BitVec 32) : (c.push st code x).fences = c.fences := by unfold Core.push; split <;> simp
@[simp] theorem Core.push_slog (c : Core) (st : Stream) (code : BitVec 2) (x : BitVec 32) : (c.push st code x).slog = c.slog := by unfold Core.push; split <;> simp
@[simp] theorem Core.push_causes (c : Core) (st : Stream) (code : BitVec 2) (x : BitVec 32) : (c.push st code x).causes = c.causes := by unfold Core.push; split <;> simp
@[simp] theorem Core.push_settled (c : Core) (st : Stream) (code : BitVec 2) (x : BitVec 32) : (c.push st code x).settled = c.settled := by unfold Core.push; split <;> simp
@[simp] theorem Core.push_framed (c : Core) (st : Stream) (code : BitVec 2) (x : BitVec 32) : (c.push st code x).framed = c.framed := by unfold Core.push; split <;> simp
@[simp] theorem Core.push_kimg (c : Core) (st : Stream) (code : BitVec 2) (x : BitVec 32) : (c.push st code x).kimg = c.kimg := by unfold Core.push; split <;> simp
@[simp] theorem Core.push_frameHeld (c : Core) (st : Stream) (code : BitVec 2) (x : BitVec 32) : (c.push st code x).frameHeld = c.frameHeld := by unfold Core.push; split <;> simp
@[simp] theorem Core.push_route (c : Core) (st : Stream) (code : BitVec 2) (x : BitVec 32) : (c.push st code x).route = c.route := by unfold Core.push; split <;> simp
@[simp] theorem Core.push_pages (c : Core) (st : Stream) (code : BitVec 2) (x : BitVec 32) : (c.push st code x).pages = c.pages := by unfold Core.push; split <;> simp

/-! ### `kMark` -/

@[simp] theorem Core.kMark_st (c : Core) (clk ph : Nat) : (c.kMark clk ph).st = c.st := rfl
@[simp] theorem Core.kMark_before (c : Core) (clk ph : Nat) : (c.kMark clk ph).before = c.before := rfl
@[simp] theorem Core.kMark_task (c : Core) (clk ph : Nat) : (c.kMark clk ph).task = c.task := rfl
@[simp] theorem Core.kMark_succ (c : Core) (clk ph : Nat) : (c.kMark clk ph).succ = c.succ := rfl
@[simp] theorem Core.kMark_exitStep (c : Core) (clk ph : Nat) : (c.kMark clk ph).exitStep = c.exitStep := rfl
@[simp] theorem Core.kMark_inHandler (c : Core) (clk ph : Nat) : (c.kMark clk ph).inHandler = c.inHandler := rfl
@[simp] theorem Core.kMark_hstop (c : Core) (clk ph : Nat) : (c.kMark clk ph).hstop = c.hstop := rfl
@[simp] theorem Core.kMark_returning (c : Core) (clk ph : Nat) : (c.kMark clk ph).returning = c.returning := rfl
@[simp] theorem Core.kMark_hid (c : Core) (clk ph : Nat) : (c.kMark clk ph).hid = c.hid := rfl
@[simp] theorem Core.kMark_cyc0 (c : Core) (clk ph : Nat) : (c.kMark clk ph).cyc0 = c.cyc0 := rfl
@[simp] theorem Core.kMark_ran (c : Core) (clk ph : Nat) : (c.kMark clk ph).ran = c.ran := rfl
@[simp] theorem Core.kMark_cycFrom (c : Core) (clk ph : Nat) : (c.kMark clk ph).cycFrom = c.cycFrom := rfl
@[simp] theorem Core.kMark_parkedAt (c : Core) (clk ph : Nat) : (c.kMark clk ph).parkedAt = c.parkedAt := rfl
@[simp] theorem Core.kMark_s (c : Core) (clk ph : Nat) : (c.kMark clk ph).s = c.s := rfl
@[simp] theorem Core.kMark_q (c : Core) (clk ph : Nat) : (c.kMark clk ph).q = c.q := rfl
@[simp] theorem Core.kMark_ret (c : Core) (clk ph : Nat) : (c.kMark clk ph).ret = c.ret := rfl
@[simp] theorem Core.kMark_sflags (c : Core) (clk ph : Nat) : (c.kMark clk ph).sflags = c.sflags := rfl
@[simp] theorem Core.kMark_dphase (c : Core) (clk ph : Nat) : (c.kMark clk ph).dphase = c.dphase := rfl
@[simp] theorem Core.kMark_dstep (c : Core) (clk ph : Nat) : (c.kMark clk ph).dstep = c.dstep := rfl
@[simp] theorem Core.kMark_dphNext (c : Core) (clk ph : Nat) : (c.kMark clk ph).dphNext = c.dphNext := rfl
@[simp] theorem Core.kMark_dstNext (c : Core) (clk ph : Nat) : (c.kMark clk ph).dstNext = c.dstNext := rfl
@[simp] theorem Core.kMark_ovf (c : Core) (clk ph : Nat) : (c.kMark clk ph).ovf = c.ovf := rfl
@[simp] theorem Core.kMark_streak (c : Core) (clk ph : Nat) : (c.kMark clk ph).streak = c.streak := rfl
@[simp] theorem Core.kMark_waitw (c : Core) (clk ph : Nat) : (c.kMark clk ph).waitw = c.waitw := rfl
@[simp] theorem Core.kMark_heldW (c : Core) (clk ph : Nat) : (c.kMark clk ph).heldW = c.heldW := rfl
@[simp] theorem Core.kMark_engReq (c : Core) (clk ph : Nat) : (c.kMark clk ph).engReq = c.engReq := rfl
@[simp] theorem Core.kMark_b (c : Core) (clk ph : Nat) : (c.kMark clk ph).b = c.b := rfl
@[simp] theorem Core.kMark_lcmds (c : Core) (clk ph : Nat) : (c.kMark clk ph).lcmds = c.lcmds := rfl
@[simp] theorem Core.kMark_g (c : Core) (clk ph : Nat) : (c.kMark clk ph).g = c.g := rfl
@[simp] theorem Core.kMark_dty (c : Core) (clk ph : Nat) : (c.kMark clk ph).dty = c.dty := rfl
@[simp] theorem Core.kMark_slots (c : Core) (clk ph : Nat) : (c.kMark clk ph).slots = c.slots := rfl
@[simp] theorem Core.kMark_e (c : Core) (clk ph : Nat) : (c.kMark clk ph).e = c.e := rfl
@[simp] theorem Core.kMark_mq (c : Core) (clk ph : Nat) : (c.kMark clk ph).mq = c.mq := rfl
@[simp] theorem Core.kMark_drains (c : Core) (clk ph : Nat) : (c.kMark clk ph).drains = c.drains := rfl
@[simp] theorem Core.kMark_x (c : Core) (clk ph : Nat) : (c.kMark clk ph).x = c.x := rfl
@[simp] theorem Core.kMark_p (c : Core) (clk ph : Nat) : (c.kMark clk ph).p = c.p := rfl
@[simp] theorem Core.kMark_vbase (c : Core) (clk ph : Nat) : (c.kMark clk ph).vbase = c.vbase := rfl
@[simp] theorem Core.kMark_rot (c : Core) (clk ph : Nat) : (c.kMark clk ph).rot = c.rot := rfl
@[simp] theorem Core.kMark_vgov (c : Core) (clk ph : Nat) : (c.kMark clk ph).vgov = c.vgov := rfl
@[simp] theorem Core.kMark_vflags (c : Core) (clk ph : Nat) : (c.kMark clk ph).vflags = c.vflags := rfl
@[simp] theorem Core.kMark_seed (c : Core) (clk ph : Nat) : (c.kMark clk ph).seed = c.seed := rfl
@[simp] theorem Core.kMark_seedS (c : Core) (clk ph : Nat) : (c.kMark clk ph).seedS = c.seedS := rfl
@[simp] theorem Core.kMark_bufW (c : Core) (clk ph : Nat) : (c.kMark clk ph).bufW = c.bufW := rfl
@[simp] theorem Core.kMark_bufA (c : Core) (clk ph : Nat) : (c.kMark clk ph).bufA = c.bufA := rfl
@[simp] theorem Core.kMark_bufS (c : Core) (clk ph : Nat) : (c.kMark clk ph).bufS = c.bufS := rfl
@[simp] theorem Core.kMark_bufX (c : Core) (clk ph : Nat) : (c.kMark clk ph).bufX = c.bufX := rfl
@[simp] theorem Core.kMark_tq (c : Core) (clk ph : Nat) : (c.kMark clk ph).tq = c.tq := rfl
@[simp] theorem Core.kMark_k (c : Core) (clk ph : Nat) : (c.kMark clk ph).k = c.k := rfl
@[simp] theorem Core.kMark_raisedAt (c : Core) (clk ph : Nat) : (c.kMark clk ph).raisedAt = c.raisedAt := rfl
@[simp] theorem Core.kMark_raised (c : Core) (clk ph : Nat) : (c.kMark clk ph).raised = c.raised := rfl
@[simp] theorem Core.kMark_sflate (c : Core) (clk ph : Nat) : (c.kMark clk ph).sflate = c.sflate := rfl
@[simp] theorem Core.kMark_strm (c : Core) (clk ph : Nat) : (c.kMark clk ph).strm = c.strm := rfl
@[simp] theorem Core.kMark_icache (c : Core) (clk ph : Nat) : (c.kMark clk ph).icache = c.icache := rfl
@[simp] theorem Core.kMark_nextId (c : Core) (clk ph : Nat) : (c.kMark clk ph).nextId = c.nextId := rfl
@[simp] theorem Core.kMark_acc (c : Core) (clk ph : Nat) : (c.kMark clk ph).acc = c.acc := rfl
@[simp] theorem Core.kMark_fl (c : Core) (clk ph : Nat) : (c.kMark clk ph).fl = c.fl := rfl
@[simp] theorem Core.kMark_fences (c : Core) (clk ph : Nat) : (c.kMark clk ph).fences = c.fences := rfl
@[simp] theorem Core.kMark_slog (c : Core) (clk ph : Nat) : (c.kMark clk ph).slog = c.slog := rfl
@[simp] theorem Core.kMark_causes (c : Core) (clk ph : Nat) : (c.kMark clk ph).causes = c.causes := rfl
@[simp] theorem Core.kMark_settled (c : Core) (clk ph : Nat) : (c.kMark clk ph).settled = c.settled := rfl
@[simp] theorem Core.kMark_framed (c : Core) (clk ph : Nat) : (c.kMark clk ph).framed = c.framed := rfl
@[simp] theorem Core.kMark_kimg (c : Core) (clk ph : Nat) : (c.kMark clk ph).kimg = c.kimg := rfl
@[simp] theorem Core.kMark_frameHeld (c : Core) (clk ph : Nat) : (c.kMark clk ph).frameHeld = c.frameHeld := rfl
@[simp] theorem Core.kMark_route (c : Core) (clk ph : Nat) : (c.kMark clk ph).route = c.route := rfl
@[simp] theorem Core.kMark_pages (c : Core) (clk ph : Nat) : (c.kMark clk ph).pages = c.pages := rfl

/-! ### `implicitExit` -/

@[simp] theorem Core.implicitExit_before (c : Core)  : c.implicitExit.before = c.before := by unfold Core.implicitExit; split <;> rfl
@[simp] theorem Core.implicitExit_task (c : Core)  : c.implicitExit.task = c.task := by unfold Core.implicitExit; split <;> rfl
@[simp] theorem Core.implicitExit_inHandler (c : Core)  : c.implicitExit.inHandler = c.inHandler := by unfold Core.implicitExit; split <;> rfl
@[simp] theorem Core.implicitExit_hstop (c : Core)  : c.implicitExit.hstop = c.hstop := by unfold Core.implicitExit; split <;> rfl
@[simp] theorem Core.implicitExit_returning (c : Core)  : c.implicitExit.returning = c.returning := by unfold Core.implicitExit; split <;> rfl
@[simp] theorem Core.implicitExit_hid (c : Core)  : c.implicitExit.hid = c.hid := by unfold Core.implicitExit; split <;> rfl
@[simp] theorem Core.implicitExit_cyc0 (c : Core)  : c.implicitExit.cyc0 = c.cyc0 := by unfold Core.implicitExit; split <;> rfl
@[simp] theorem Core.implicitExit_ran (c : Core)  : c.implicitExit.ran = c.ran := by unfold Core.implicitExit; split <;> rfl
@[simp] theorem Core.implicitExit_cycFrom (c : Core)  : c.implicitExit.cycFrom = c.cycFrom := by unfold Core.implicitExit; split <;> rfl
@[simp] theorem Core.implicitExit_parkedAt (c : Core)  : c.implicitExit.parkedAt = c.parkedAt := by unfold Core.implicitExit; split <;> rfl
@[simp] theorem Core.implicitExit_s (c : Core)  : c.implicitExit.s = c.s := by unfold Core.implicitExit; split <;> rfl
@[simp] theorem Core.implicitExit_q (c : Core)  : c.implicitExit.q = c.q := by unfold Core.implicitExit; split <;> rfl
@[simp] theorem Core.implicitExit_ret (c : Core)  : c.implicitExit.ret = c.ret := by unfold Core.implicitExit; split <;> rfl
@[simp] theorem Core.implicitExit_sflags (c : Core)  : c.implicitExit.sflags = c.sflags := by unfold Core.implicitExit; split <;> rfl
@[simp] theorem Core.implicitExit_dphase (c : Core)  : c.implicitExit.dphase = c.dphase := by unfold Core.implicitExit; split <;> rfl
@[simp] theorem Core.implicitExit_dstep (c : Core)  : c.implicitExit.dstep = c.dstep := by unfold Core.implicitExit; split <;> rfl
@[simp] theorem Core.implicitExit_dphNext (c : Core)  : c.implicitExit.dphNext = c.dphNext := by unfold Core.implicitExit; split <;> rfl
@[simp] theorem Core.implicitExit_dstNext (c : Core)  : c.implicitExit.dstNext = c.dstNext := by unfold Core.implicitExit; split <;> rfl
@[simp] theorem Core.implicitExit_ovf (c : Core)  : c.implicitExit.ovf = c.ovf := by unfold Core.implicitExit; split <;> rfl
@[simp] theorem Core.implicitExit_streak (c : Core)  : c.implicitExit.streak = c.streak := by unfold Core.implicitExit; split <;> rfl
@[simp] theorem Core.implicitExit_waitw (c : Core)  : c.implicitExit.waitw = c.waitw := by unfold Core.implicitExit; split <;> rfl
@[simp] theorem Core.implicitExit_heldW (c : Core)  : c.implicitExit.heldW = c.heldW := by unfold Core.implicitExit; split <;> rfl
@[simp] theorem Core.implicitExit_engReq (c : Core)  : c.implicitExit.engReq = c.engReq := by unfold Core.implicitExit; split <;> rfl
@[simp] theorem Core.implicitExit_b (c : Core)  : c.implicitExit.b = c.b := by unfold Core.implicitExit; split <;> rfl
@[simp] theorem Core.implicitExit_lcmds (c : Core)  : c.implicitExit.lcmds = c.lcmds := by unfold Core.implicitExit; split <;> rfl
@[simp] theorem Core.implicitExit_g (c : Core)  : c.implicitExit.g = c.g := by unfold Core.implicitExit; split <;> rfl
@[simp] theorem Core.implicitExit_dty (c : Core)  : c.implicitExit.dty = c.dty := by unfold Core.implicitExit; split <;> rfl
@[simp] theorem Core.implicitExit_slots (c : Core)  : c.implicitExit.slots = c.slots := by unfold Core.implicitExit; split <;> rfl
@[simp] theorem Core.implicitExit_e (c : Core)  : c.implicitExit.e = c.e := by unfold Core.implicitExit; split <;> rfl
@[simp] theorem Core.implicitExit_mq (c : Core)  : c.implicitExit.mq = c.mq := by unfold Core.implicitExit; split <;> rfl
@[simp] theorem Core.implicitExit_drains (c : Core)  : c.implicitExit.drains = c.drains := by unfold Core.implicitExit; split <;> rfl
@[simp] theorem Core.implicitExit_x (c : Core)  : c.implicitExit.x = c.x := by unfold Core.implicitExit; split <;> rfl
@[simp] theorem Core.implicitExit_p (c : Core)  : c.implicitExit.p = c.p := by unfold Core.implicitExit; split <;> rfl
@[simp] theorem Core.implicitExit_vbase (c : Core)  : c.implicitExit.vbase = c.vbase := by unfold Core.implicitExit; split <;> rfl
@[simp] theorem Core.implicitExit_rot (c : Core)  : c.implicitExit.rot = c.rot := by unfold Core.implicitExit; split <;> rfl
@[simp] theorem Core.implicitExit_vgov (c : Core)  : c.implicitExit.vgov = c.vgov := by unfold Core.implicitExit; split <;> rfl
@[simp] theorem Core.implicitExit_vflags (c : Core)  : c.implicitExit.vflags = c.vflags := by unfold Core.implicitExit; split <;> rfl
@[simp] theorem Core.implicitExit_seed (c : Core)  : c.implicitExit.seed = c.seed := by unfold Core.implicitExit; split <;> rfl
@[simp] theorem Core.implicitExit_seedS (c : Core)  : c.implicitExit.seedS = c.seedS := by unfold Core.implicitExit; split <;> rfl
@[simp] theorem Core.implicitExit_bufW (c : Core)  : c.implicitExit.bufW = c.bufW := by unfold Core.implicitExit; split <;> rfl
@[simp] theorem Core.implicitExit_bufA (c : Core)  : c.implicitExit.bufA = c.bufA := by unfold Core.implicitExit; split <;> rfl
@[simp] theorem Core.implicitExit_bufS (c : Core)  : c.implicitExit.bufS = c.bufS := by unfold Core.implicitExit; split <;> rfl
@[simp] theorem Core.implicitExit_bufX (c : Core)  : c.implicitExit.bufX = c.bufX := by unfold Core.implicitExit; split <;> rfl
@[simp] theorem Core.implicitExit_tq (c : Core)  : c.implicitExit.tq = c.tq := by unfold Core.implicitExit; split <;> rfl
@[simp] theorem Core.implicitExit_k (c : Core)  : c.implicitExit.k = c.k := by unfold Core.implicitExit; split <;> rfl
@[simp] theorem Core.implicitExit_kAt (c : Core)  : c.implicitExit.kAt = c.kAt := by unfold Core.implicitExit; split <;> rfl
@[simp] theorem Core.implicitExit_kPh (c : Core)  : c.implicitExit.kPh = c.kPh := by unfold Core.implicitExit; split <;> rfl
@[simp] theorem Core.implicitExit_kIncs (c : Core)  : c.implicitExit.kIncs = c.kIncs := by unfold Core.implicitExit; split <;> rfl
@[simp] theorem Core.implicitExit_kOver (c : Core)  : c.implicitExit.kOver = c.kOver := by unfold Core.implicitExit; split <;> rfl
@[simp] theorem Core.implicitExit_raisedAt (c : Core)  : c.implicitExit.raisedAt = c.raisedAt := by unfold Core.implicitExit; split <;> rfl
@[simp] theorem Core.implicitExit_raised (c : Core)  : c.implicitExit.raised = c.raised := by unfold Core.implicitExit; split <;> rfl
@[simp] theorem Core.implicitExit_sflate (c : Core)  : c.implicitExit.sflate = c.sflate := by unfold Core.implicitExit; split <;> rfl
@[simp] theorem Core.implicitExit_strm (c : Core)  : c.implicitExit.strm = c.strm := by unfold Core.implicitExit; split <;> rfl
@[simp] theorem Core.implicitExit_icache (c : Core)  : c.implicitExit.icache = c.icache := by unfold Core.implicitExit; split <;> rfl
@[simp] theorem Core.implicitExit_nextId (c : Core)  : c.implicitExit.nextId = c.nextId := by unfold Core.implicitExit; split <;> rfl
@[simp] theorem Core.implicitExit_acc (c : Core)  : c.implicitExit.acc = c.acc := by unfold Core.implicitExit; split <;> rfl
@[simp] theorem Core.implicitExit_fl (c : Core)  : c.implicitExit.fl = c.fl := by unfold Core.implicitExit; split <;> rfl
@[simp] theorem Core.implicitExit_fences (c : Core)  : c.implicitExit.fences = c.fences := by unfold Core.implicitExit; split <;> rfl
@[simp] theorem Core.implicitExit_slog (c : Core)  : c.implicitExit.slog = c.slog := by unfold Core.implicitExit; split <;> rfl
@[simp] theorem Core.implicitExit_causes (c : Core)  : c.implicitExit.causes = c.causes := by unfold Core.implicitExit; split <;> rfl
@[simp] theorem Core.implicitExit_settled (c : Core)  : c.implicitExit.settled = c.settled := by unfold Core.implicitExit; split <;> rfl
@[simp] theorem Core.implicitExit_framed (c : Core)  : c.implicitExit.framed = c.framed := by unfold Core.implicitExit; split <;> rfl
@[simp] theorem Core.implicitExit_kimg (c : Core)  : c.implicitExit.kimg = c.kimg := by unfold Core.implicitExit; split <;> rfl
@[simp] theorem Core.implicitExit_frameHeld (c : Core)  : c.implicitExit.frameHeld = c.frameHeld := by unfold Core.implicitExit; split <;> rfl
@[simp] theorem Core.implicitExit_route (c : Core)  : c.implicitExit.route = c.route := by unfold Core.implicitExit; split <;> rfl
@[simp] theorem Core.implicitExit_pages (c : Core)  : c.implicitExit.pages = c.pages := by unfold Core.implicitExit; split <;> rfl

/-! ### `start` -/

@[simp] theorem Core.start_before (c : Core) (now : Now) : (c.start now).before = c.before := by unfold Core.start; split <;> simp
@[simp] theorem Core.start_task (c : Core) (now : Now) : (c.start now).task = c.task := by unfold Core.start; split <;> simp
@[simp] theorem Core.start_inHandler (c : Core) (now : Now) : (c.start now).inHandler = c.inHandler := by unfold Core.start; split <;> simp
@[simp] theorem Core.start_hstop (c : Core) (now : Now) : (c.start now).hstop = c.hstop := by unfold Core.start; split <;> simp
@[simp] theorem Core.start_returning (c : Core) (now : Now) : (c.start now).returning = c.returning := by unfold Core.start; split <;> simp
@[simp] theorem Core.start_hid (c : Core) (now : Now) : (c.start now).hid = c.hid := by unfold Core.start; split <;> simp
@[simp] theorem Core.start_parkedAt (c : Core) (now : Now) : (c.start now).parkedAt = c.parkedAt := by unfold Core.start; split <;> simp
@[simp] theorem Core.start_s (c : Core) (now : Now) : (c.start now).s = c.s := by unfold Core.start; split <;> simp
@[simp] theorem Core.start_q (c : Core) (now : Now) : (c.start now).q = c.q := by unfold Core.start; split <;> simp
@[simp] theorem Core.start_ret (c : Core) (now : Now) : (c.start now).ret = c.ret := by unfold Core.start; split <;> simp
@[simp] theorem Core.start_sflags (c : Core) (now : Now) : (c.start now).sflags = c.sflags := by unfold Core.start; split <;> simp
@[simp] theorem Core.start_dphase (c : Core) (now : Now) : (c.start now).dphase = c.dphase := by unfold Core.start; split <;> simp
@[simp] theorem Core.start_dstep (c : Core) (now : Now) : (c.start now).dstep = c.dstep := by unfold Core.start; split <;> simp
@[simp] theorem Core.start_dphNext (c : Core) (now : Now) : (c.start now).dphNext = c.dphNext := by unfold Core.start; split <;> simp
@[simp] theorem Core.start_dstNext (c : Core) (now : Now) : (c.start now).dstNext = c.dstNext := by unfold Core.start; split <;> simp
@[simp] theorem Core.start_ovf (c : Core) (now : Now) : (c.start now).ovf = c.ovf := by unfold Core.start; split <;> simp
@[simp] theorem Core.start_streak (c : Core) (now : Now) : (c.start now).streak = c.streak := by unfold Core.start; split <;> simp
@[simp] theorem Core.start_waitw (c : Core) (now : Now) : (c.start now).waitw = c.waitw := by unfold Core.start; split <;> simp
@[simp] theorem Core.start_heldW (c : Core) (now : Now) : (c.start now).heldW = c.heldW := by unfold Core.start; split <;> simp
@[simp] theorem Core.start_engReq (c : Core) (now : Now) : (c.start now).engReq = c.engReq := by unfold Core.start; split <;> simp
@[simp] theorem Core.start_b (c : Core) (now : Now) : (c.start now).b = c.b := by unfold Core.start; split <;> simp
@[simp] theorem Core.start_lcmds (c : Core) (now : Now) : (c.start now).lcmds = c.lcmds := by unfold Core.start; split <;> simp
@[simp] theorem Core.start_g (c : Core) (now : Now) : (c.start now).g = c.g := by unfold Core.start; split <;> simp
@[simp] theorem Core.start_dty (c : Core) (now : Now) : (c.start now).dty = c.dty := by unfold Core.start; split <;> simp
@[simp] theorem Core.start_slots (c : Core) (now : Now) : (c.start now).slots = c.slots := by unfold Core.start; split <;> simp
@[simp] theorem Core.start_e (c : Core) (now : Now) : (c.start now).e = c.e := by unfold Core.start; split <;> simp
@[simp] theorem Core.start_mq (c : Core) (now : Now) : (c.start now).mq = c.mq := by unfold Core.start; split <;> simp
@[simp] theorem Core.start_drains (c : Core) (now : Now) : (c.start now).drains = c.drains := by unfold Core.start; split <;> simp
@[simp] theorem Core.start_x (c : Core) (now : Now) : (c.start now).x = c.x := by unfold Core.start; split <;> simp
@[simp] theorem Core.start_p (c : Core) (now : Now) : (c.start now).p = c.p := by unfold Core.start; split <;> simp
@[simp] theorem Core.start_vbase (c : Core) (now : Now) : (c.start now).vbase = c.vbase := by unfold Core.start; split <;> simp
@[simp] theorem Core.start_rot (c : Core) (now : Now) : (c.start now).rot = c.rot := by unfold Core.start; split <;> simp
@[simp] theorem Core.start_vgov (c : Core) (now : Now) : (c.start now).vgov = c.vgov := by unfold Core.start; split <;> simp
@[simp] theorem Core.start_vflags (c : Core) (now : Now) : (c.start now).vflags = c.vflags := by unfold Core.start; split <;> simp
@[simp] theorem Core.start_seed (c : Core) (now : Now) : (c.start now).seed = c.seed := by unfold Core.start; split <;> simp
@[simp] theorem Core.start_seedS (c : Core) (now : Now) : (c.start now).seedS = c.seedS := by unfold Core.start; split <;> simp
@[simp] theorem Core.start_bufW (c : Core) (now : Now) : (c.start now).bufW = c.bufW := by unfold Core.start; split <;> simp
@[simp] theorem Core.start_bufA (c : Core) (now : Now) : (c.start now).bufA = c.bufA := by unfold Core.start; split <;> simp
@[simp] theorem Core.start_bufS (c : Core) (now : Now) : (c.start now).bufS = c.bufS := by unfold Core.start; split <;> simp
@[simp] theorem Core.start_bufX (c : Core) (now : Now) : (c.start now).bufX = c.bufX := by unfold Core.start; split <;> simp
@[simp] theorem Core.start_tq (c : Core) (now : Now) : (c.start now).tq = c.tq := by unfold Core.start; split <;> simp
@[simp] theorem Core.start_k (c : Core) (now : Now) : (c.start now).k = c.k := by unfold Core.start; split <;> simp
@[simp] theorem Core.start_kAt (c : Core) (now : Now) : (c.start now).kAt = c.kAt := by unfold Core.start; split <;> simp
@[simp] theorem Core.start_kPh (c : Core) (now : Now) : (c.start now).kPh = c.kPh := by unfold Core.start; split <;> simp
@[simp] theorem Core.start_kIncs (c : Core) (now : Now) : (c.start now).kIncs = c.kIncs := by unfold Core.start; split <;> simp
@[simp] theorem Core.start_kOver (c : Core) (now : Now) : (c.start now).kOver = c.kOver := by unfold Core.start; split <;> simp
@[simp] theorem Core.start_raisedAt (c : Core) (now : Now) : (c.start now).raisedAt = c.raisedAt := by unfold Core.start; split <;> simp
@[simp] theorem Core.start_raised (c : Core) (now : Now) : (c.start now).raised = c.raised := by unfold Core.start; split <;> simp
@[simp] theorem Core.start_sflate (c : Core) (now : Now) : (c.start now).sflate = c.sflate := by unfold Core.start; split <;> simp
@[simp] theorem Core.start_strm (c : Core) (now : Now) : (c.start now).strm = c.strm := by unfold Core.start; split <;> simp
@[simp] theorem Core.start_icache (c : Core) (now : Now) : (c.start now).icache = c.icache := by unfold Core.start; split <;> simp
@[simp] theorem Core.start_nextId (c : Core) (now : Now) : (c.start now).nextId = c.nextId := by unfold Core.start; split <;> simp
@[simp] theorem Core.start_acc (c : Core) (now : Now) : (c.start now).acc = c.acc := by unfold Core.start; split <;> simp
@[simp] theorem Core.start_fl (c : Core) (now : Now) : (c.start now).fl = c.fl := by unfold Core.start; split <;> simp
@[simp] theorem Core.start_fences (c : Core) (now : Now) : (c.start now).fences = c.fences := by unfold Core.start; split <;> simp
@[simp] theorem Core.start_slog (c : Core) (now : Now) : (c.start now).slog = c.slog := by unfold Core.start; split <;> simp
@[simp] theorem Core.start_causes (c : Core) (now : Now) : (c.start now).causes = c.causes := by unfold Core.start; split <;> simp
@[simp] theorem Core.start_settled (c : Core) (now : Now) : (c.start now).settled = c.settled := by unfold Core.start; split <;> simp
@[simp] theorem Core.start_framed (c : Core) (now : Now) : (c.start now).framed = c.framed := by unfold Core.start; split <;> simp
@[simp] theorem Core.start_kimg (c : Core) (now : Now) : (c.start now).kimg = c.kimg := by unfold Core.start; split <;> simp
@[simp] theorem Core.start_frameHeld (c : Core) (now : Now) : (c.start now).frameHeld = c.frameHeld := by unfold Core.start; split <;> simp
@[simp] theorem Core.start_route (c : Core) (now : Now) : (c.start now).route = c.route := by unfold Core.start; split <;> simp
@[simp] theorem Core.start_pages (c : Core) (now : Now) : (c.start now).pages = c.pages := by unfold Core.start; split <;> simp

/-! ### `note` -/

@[simp] theorem State.note_tick (s : State) (e : Ev) : (s.note e).tick = s.tick := by unfold State.note; split <;> rfl
@[simp] theorem State.note_turn (s : State) (e : Ev) : (s.note e).turn = s.turn := by unfold State.note; split <;> rfl
@[simp] theorem State.note_fresh (s : State) (e : Ev) : (s.note e).fresh = s.fresh := by unfold State.note; split <;> rfl
@[simp] theorem State.note_clock (s : State) (e : Ev) : (s.note e).clock = s.clock := by unfold State.note; split <;> rfl
@[simp] theorem State.note_slot (s : State) (e : Ev) : (s.note e).slot = s.slot := by unfold State.note; split <;> rfl
@[simp] theorem State.note_slotFrac (s : State) (e : Ev) : (s.note e).slotFrac = s.slotFrac := by unfold State.note; split <;> rfl
@[simp] theorem State.note_lap (s : State) (e : Ev) : (s.note e).lap = s.lap := by unfold State.note; split <;> rfl
@[simp] theorem State.note_cores (s : State) (e : Ev) : (s.note e).cores = s.cores := by unfold State.note; split <;> rfl
@[simp] theorem State.note_mem (s : State) (e : Ev) : (s.note e).mem = s.mem := by unfold State.note; split <;> rfl
@[simp] theorem State.note_l2b (s : State) (e : Ev) : (s.note e).l2b = s.l2b := by unfold State.note; split <;> rfl
@[simp] theorem State.note_l2 (s : State) (e : Ev) : (s.note e).l2 = s.l2 := by unfold State.note; split <;> rfl
@[simp] theorem State.note_seals (s : State) (e : Ev) : (s.note e).seals = s.seals := by unfold State.note; split <;> rfl
@[simp] theorem State.note_fills (s : State) (e : Ev) : (s.note e).fills = s.fills := by unfold State.note; split <;> rfl
@[simp] theorem State.note_fails (s : State) (e : Ev) : (s.note e).fails = s.fails := by unfold State.note; split <;> rfl
@[simp] theorem State.note_failing (s : State) (e : Ev) : (s.note e).failing = s.failing := by unfold State.note; split <;> rfl
@[simp] theorem State.note_dramBad (s : State) (e : Ev) : (s.note e).dramBad = s.dramBad := by unfold State.note; split <;> rfl
@[simp] theorem State.note_through (s : State) (e : Ev) : (s.note e).through = s.through := by unfold State.note; split <;> rfl
@[simp] theorem State.note_capFlog (s : State) (e : Ev) : (s.note e).capFlog = s.capFlog := by unfold State.note; split <;> rfl
@[simp] theorem State.note_past (s : State) (e : Ev) : (s.note e).past = s.past := by unfold State.note; split <;> rfl
@[simp] theorem State.note_devKey (s : State) (e : Ev) : (s.note e).devKey = s.devKey := by unfold State.note; split <;> rfl
@[simp] theorem State.note_capBlk (s : State) (e : Ev) : (s.note e).capBlk = s.capBlk := by unfold State.note; split <;> rfl
@[simp] theorem State.note_capCache (s : State) (e : Ev) : (s.note e).capCache = s.capCache := by unfold State.note; split <;> rfl
@[simp] theorem State.note_hostMem (s : State) (e : Ev) : (s.note e).hostMem = s.hostMem := by unfold State.note; split <;> rfl
@[simp] theorem State.note_tlb (s : State) (e : Ev) : (s.note e).tlb = s.tlb := by unfold State.note; split <;> rfl
@[simp] theorem State.note_invs (s : State) (e : Ev) : (s.note e).invs = s.invs := by unfold State.note; split <;> rfl
@[simp] theorem State.note_preq (s : State) (e : Ev) : (s.note e).preq = s.preq := by unfold State.note; split <;> rfl
@[simp] theorem State.note_engines (s : State) (e : Ev) : (s.note e).engines = s.engines := by unfold State.note; split <;> rfl
@[simp] theorem State.note_ecmds (s : State) (e : Ev) : (s.note e).ecmds = s.ecmds := by unfold State.note; split <;> rfl
@[simp] theorem State.note_ereqs (s : State) (e : Ev) : (s.note e).ereqs = s.ereqs := by unfold State.note; split <;> rfl
@[simp] theorem State.note_colls (s : State) (e : Ev) : (s.note e).colls = s.colls := by unfold State.note; split <;> rfl
@[simp] theorem State.note_contribs (s : State) (e : Ev) : (s.note e).contribs = s.contribs := by unfold State.note; split <;> rfl
@[simp] theorem State.note_nodes (s : State) (e : Ev) : (s.note e).nodes = s.nodes := by unfold State.note; split <;> rfl
@[simp] theorem State.note_jobs (s : State) (e : Ev) : (s.note e).jobs = s.jobs := by unfold State.note; split <;> rfl
@[simp] theorem State.note_arenas (s : State) (e : Ev) : (s.note e).arenas = s.arenas := by unfold State.note; split <;> rfl
@[simp] theorem State.note_succs (s : State) (e : Ev) : (s.note e).succs = s.succs := by unfold State.note; split <;> rfl
@[simp] theorem State.note_qslots (s : State) (e : Ev) : (s.note e).qslots = s.qslots := by unfold State.note; split <;> rfl
@[simp] theorem State.note_flog (s : State) (e : Ev) : (s.note e).flog = s.flog := by unfold State.note; split <;> rfl
@[simp] theorem State.note_readyNo (s : State) (e : Ev) : (s.note e).readyNo = s.readyNo := by unfold State.note; split <;> rfl
@[simp] theorem State.note_fq (s : State) (e : Ev) : (s.note e).fq = s.fq := by unfold State.note; split <;> rfl
@[simp] theorem State.note_fqStop (s : State) (e : Ev) : (s.note e).fqStop = s.fqStop := by unfold State.note; split <;> rfl
@[simp] theorem State.note_regs (s : State) (e : Ev) : (s.note e).regs = s.regs := by unfold State.note; split <;> rfl
@[simp] theorem State.note_tdi (s : State) (e : Ev) : (s.note e).tdi = s.tdi := by unfold State.note; split <;> rfl
@[simp] theorem State.note_scrub (s : State) (e : Ev) : (s.note e).scrub = s.scrub := by unfold State.note; split <;> rfl
@[simp] theorem State.note_reseal (s : State) (e : Ev) : (s.note e).reseal = s.reseal := by unfold State.note; split <;> rfl
@[simp] theorem State.note_keys (s : State) (e : Ev) : (s.note e).keys = s.keys := by unfold State.note; split <;> rfl
@[simp] theorem State.note_keyNo (s : State) (e : Ev) : (s.note e).keyNo = s.keyNo := by unfold State.note; split <;> rfl
@[simp] theorem State.note_sweep (s : State) (e : Ev) : (s.note e).sweep = s.sweep := by unfold State.note; split <;> rfl
@[simp] theorem State.note_quotaNext (s : State) (e : Ev) : (s.note e).quotaNext = s.quotaNext := by unfold State.note; split <;> rfl
@[simp] theorem State.note_monitor (s : State) (e : Ev) : (s.note e).monitor = s.monitor := by unfold State.note; split <;> rfl
@[simp] theorem State.note_shadow (s : State) (e : Ev) : (s.note e).shadow = s.shadow := by unfold State.note; split <;> rfl
@[simp] theorem State.note_stretch (s : State) (e : Ev) : (s.note e).stretch = s.stretch := by unfold State.note; split <;> rfl
@[simp] theorem State.note_cclk (s : State) (e : Ev) : (s.note e).cclk = s.cclk := by unfold State.note; split <;> rfl
@[simp] theorem State.note_links (s : State) (e : Ev) : (s.note e).links = s.links := by unfold State.note; split <;> rfl
@[simp] theorem State.note_failed (s : State) (e : Ev) : (s.note e).failed = s.failed := by unfold State.note; split <;> rfl
@[simp] theorem State.note_inbox (s : State) (e : Ev) : (s.note e).inbox = s.inbox := by unfold State.note; split <;> rfl
@[simp] theorem State.note_relay (s : State) (e : Ev) : (s.note e).relay = s.relay := by unfold State.note; split <;> rfl
@[simp] theorem State.note_ueConn (s : State) (e : Ev) : (s.note e).ueConn = s.ueConn := by unfold State.note; split <;> rfl
@[simp] theorem State.note_ueWin (s : State) (e : Ev) : (s.note e).ueWin = s.ueWin := by unfold State.note; split <;> rfl
@[simp] theorem State.note_ueState (s : State) (e : Ev) : (s.note e).ueState = s.ueState := by unfold State.note; split <;> rfl
@[simp] theorem State.note_mgmt (s : State) (e : Ev) : (s.note e).mgmt = s.mgmt := by unfold State.note; split <;> rfl
@[simp] theorem State.note_spdm (s : State) (e : Ev) : (s.note e).spdm = s.spdm := by unfold State.note; split <;> rfl
@[simp] theorem State.note_out (s : State) (e : Ev) : (s.note e).out = s.out := by unfold State.note; split <;> rfl

/-! ### Reading back -/

@[simp] theorem Core.getS_zero (c : Core) : c.getS 0 = 0 := rfl

@[simp] theorem Core.setS_zero (c : Core) (v : Reg) : c.setS 0 v = c := rfl

theorem Core.getS_setS (c : Core) (n : BitVec 5) (v : Reg) (h : n ≠ 0) : (c.setS n v).getS n = v := by
  unfold Core.getS Core.setS
  rw [if_neg h]
  split
  · exact absurd ‹_› h
  · simp

theorem Core.getS_setS_ne (c : Core) (n m : BitVec 5) (v : Reg) (h : m ≠ n) : (c.setS n v).getS m = c.getS m := by
  have hn : n.toNat ≠ m.toNat := fun e => h (BitVec.eq_of_toNat_eq e.symm)
  unfold Core.getS Core.setS
  split
  · rfl
  · split
    · rfl
    · simp [hn]

theorem Core.getB_setB (c : Core) (n : BitVec 4) (v : Reg) : (c.setB n v).getB n = v := by simp [Core.getB, Core.setB]
theorem Core.getG_setG (c : Core) (n : BitVec 4) (v : Reg) : (c.setG n v).getG n = v := by simp [Core.getG, Core.setG]
theorem Core.getX_setX (c : Core) (n : BitVec 4) (v : Reg) : (c.setX n v).getX n = v := by simp [Core.getX, Core.setX]
theorem Core.getK_setK (c : Core) (n : BitVec 6) (v : BitVec 24) : (c.setK n v).getK n = v := by simp [Core.getK, Core.setK]

theorem Core.str_setStr (c : Core) (st : Stream) (v : Strm) : (c.setStr st v).str st = v := by
  cases st <;> simp [Core.str, Core.setStr]

theorem Core.str_setStr_ne (c : Core) (st st' : Stream) (v : Strm) (h : st' ≠ st) : (c.setStr st v).str st' = c.str st' := by
  cases st <;> cases st' <;> first | (exact absurd rfl h) | simp [Core.str, Core.setStr]

theorem Core.queue_setQueue (c : Core) (a b : Stream) (l : List (BitVec 32)) : (c.setQueue a b l).queue a b = l := by
  simp [Core.queue, Core.setQueue]

end Sys2Proof.Machine
end

