-- ==== Sys2Proof/Tests/Slice0.lean ====
section
/-! SUPPORT. Tests: words that the spec assembles, ill-formed words, the spec's worked examples, and states that meet the
hypotheses of the statements. -/

namespace Sys2Proof.Tests

open Sys2Proof Sys2Proof.Machine

/-! ### Words as the spec assembles them -/

theorem test_decode_control :
    decodeWord .C 0xA8C89342 = some (.ld ⟨0, 3⟩ 4 9 3 2 0 2) ∧
    decodeWord .C 0xA80DB104 = some (.ld ⟨0, 0⟩ 6 27 1 0 0 4) ∧
    decodeWord .C 0xB428E004 = some (.stl ⟨0, 0⟩ 20 14 0 0 0 4) ∧
    decodeWord .C 0xB408A24A = some (.stl ⟨0, 0⟩ 4 10 2 2 1 2) ∧
    decodeWord .C 0xBC317003 = some (.amoS ⟨0, 0⟩ 24 23 0 0 1 1) ∧
    decodeWord .C 0xC0334142 = some (.amoSg ⟨0, 0⟩ 25 20 1 2 1 0) ∧
    decodeWord .C 0xD40FFFFE = some (.bnq ⟨0, 0⟩ 1 (-2)) ∧
    decodeWord .C 0xE43E0148 = some (.waitw ⟨0, 0⟩ 31 0 1 2 2) := by decide

theorem test_decode_control_system :
    decodeWord .C 0xE8068800 = some (.exit 0 26 1) ∧
    decodeWord .C 0xE8108000 = some (.arenaA ⟨0, 0⟩ 2 0 0) ∧
    decodeWord .C 0xEC0D14C0 = some (.engage ⟨0, 0⟩ 1 20 10 12) ∧
    decodeWord .C 0xEC11DA04 = some (.lease ⟨0, 0⟩ 2 7 13) ∧
    decodeWord .C 0xEC181A08 = some (.unlease ⟨0, 0⟩ 3 13) ∧
    decodeWord .C 0xF0020208 = some (.mfsr ⟨0, 0⟩ 4 0x041) ∧
    decodeWord .C 0xF4DE8000 = some (.give ⟨0, 3⟩ 29) ∧
    decodeWord .C 0xF8064001 = some (.kwge ⟨0, 0⟩ 6 1) ∧
    decodeWord .C 0xF8016002 = some (.kwgs ⟨0, 0⟩ 1 2) ∧
    decodeWord .C 0xF805A400 = some (.kread ⟨0, 0⟩ 5 4) := by decide

theorem test_decode_headers :
    decodeWord .C 0xFCB80809 = some (.blockHeader 184 0 0 1 9) ∧
    decodeWord .C 0xFC460001 = some (.blockHeader 70 0 0 0 1) ∧
    decodeWord .L 0xFC240004 = some (.blockHeader 36 0 0 0 4) ∧
    decodeWord .M 0xFC0A0004 = some (.blockHeader 10 0 0 0 4) ∧
    decodeWord .V 0xFC0CB805 = some (.blockHeader 12 1 3 1 5) := by decide

theorem test_decode_load_stream :
    decodeWord .L 0x80002000 = some (.cp1d ⟨0, 0⟩ 0 0 1 0) ∧
    decodeWord .L 0x84300040 = some (.cvcp ⟨0, 0⟩ 3 0 0 0 0 0 1) ∧
    decodeWord .L 0x88101000 = some (.pfBulk ⟨0, 0⟩ 1 0 0 2) ∧
    decodeWord .L 0x8C010000 = some (.lgath ⟨0, 0⟩ 0 1 0 0) ∧
    decodeWord .L 0x8C102100 = some (.lfill ⟨0, 0⟩ 1 0 1 0) ∧
    decodeWord .L 0x94000800 = some (.baddi ⟨0, 0⟩ 0 0 2048) ∧
    decodeCompact .L 0x0473 = some (.bmov 7 3) := by decide

theorem test_decode_matrix :
    decodeWord .M 0x8209A020 = some (.mma ⟨2, 0⟩ 1 3 4 0 4 0) ∧
    decodeWord .M 0x80177120 = some (.mma ⟨0, 0⟩ 2 14 14 1 4 0) ∧
    decodeWord .M 0x86DAB2FD = some (.mmat ⟨2, 3⟩ 3 5 6 2 31 5) ∧
    decodeWord .M 0x84066020 = some (.mmat ⟨0, 0⟩ 0 12 12 0 4 0) ∧
    decodeWord .M 0x8C1BCA49 = some (.drain ⟨0, 0⟩ 3 7 2 2 1 9 1) ∧
    decodeWord .M 0x940C2468 = some (.gli ⟨0, 0⟩ 3 0x1234) := by decide

theorem test_decode_vector :
    decodeWord .V 0x803C0E20 = some (.vfmaF32 ⟨0, 0⟩ 24 3 17 0 0 0) ∧
    decodeWord .V 0xB0048470 = some (.vcmp ⟨0, 0⟩ 1 1 1 3 4 0 0) ∧
    decodeWord .V 0xB8041880 = some (.vexp2 ⟨0, 0⟩ 0 6 4 0 0 0) ∧
    decodeWord .V 0xCC020C40 = some (.vrsum ⟨0, 0⟩ 4 3 2 0 0 0) ∧
    decodeWord .V 0xD014A501 = some (.vrotl ⟨0, 0⟩ 1 5 5 0 1) ∧
    decodeWord .V 0xD0244001 = some (.vshuf ⟨0, 0⟩ 1 2 0 0 1) ∧
    decodeWord .V 0xD4088000 = some (.vldr ⟨0, 0⟩ 2 2 0 0) ∧
    decodeWord .V 0xD4594600 = some (.vstr ⟨0, 1⟩ 2 5 3 0) ∧
    decodeWord .V 0xD8310C40 = some (.vstG ⟨0, 0⟩ 2 2 3 1 0 0 0) ∧
    decodeWord .V 0xB4208080 = some (.vbcast ⟨0, 0⟩ 1 4 0) ∧
    decodeCompact .V 0x0400 = some (.vgov 0) := by decide

theorem test_decode_compact :
    decodeCompact .C 0x056E = some (.mov 11 14) ∧ decodeCompact .C 0x0AE1 = some (.addc 23 1) ∧
    decodeCompact .C 0x0000 = some .nop ∧ decodeCompact .L 0x0484 = some (.bmov 8 4) := by decide

/-- Bits that a row leaves to no field must be zero (R146): the words decode to nothing. -/
theorem test_decode_rejects :
    decodeWord .C 0x80003217 = none ∧ decodeWord .L 0x803C0E20 = none ∧ decodeWord .L 0x80000001 = none ∧
    decodeWord .M 0xF00003FF = none ∧ decodeWord .V 0x7FFFFFFF = none ∧ decodeCompact .M 0x7FFF = none := by decide

/-- The word that the fetch of this state gives. -/
def fetches (s : State) (i : Option Instr) : Bool :=
  match s.fetchNext.2 with
  | .word j => i == some j
  | _ => false

/-- A table word is placed where the next step fetches it, whatever its stream. -/
theorem test_fetch_placed_words :
    fetches (State.reset.withFetchWord 32 0x80003214) (decodeTableWord 32 0x80003214) = true ∧
    fetches (State.reset.withFetchWord 16 0x0405) (decodeTableWord 16 0x0405) = true ∧
    fetches (State.reset.withFetchWord 32 0xFC0CB805) (decodeTableWord 32 0xFC0CB805) = true := by decide

/-! ### Ill-formed words (R146): one for each check -/

theorem test_ill_formed_control :
    ([.cmp ⟨0, 0⟩ 1 6 2 3 0 0, .cmp ⟨0, 0⟩ 1 0 2 3 3 0, .cmp ⟨0, 0⟩ 1 0 2 3 0 1, .cmpi ⟨0, 0⟩ 1 7 2 0,
      .ld ⟨0, 0⟩ 4 9 0 7 0 2, .ld ⟨0, 0⟩ 5 9 0 0 0 4, .st ⟨0, 0⟩ 4 9 0 0 0 5, .st ⟨0, 0⟩ 5 9 0 0 0 4,
      .ldl ⟨0, 0⟩ 4 9 0 0 2 2, .stl ⟨0, 0⟩ 4 9 0 0 3 2, .stl ⟨0, 0⟩ 4 9 0 0 0 6, .amoG ⟨0, 0⟩ 4 9 0 0 11 0,
      .amoG ⟨0, 0⟩ 5 9 0 0 9 0, .amoG ⟨0, 0⟩ 4 9 0 0 10 0, .amoG ⟨0, 0⟩ 6 9 0 0 10 1, .amoS ⟨0, 0⟩ 4 9 0 0 10 1,
      .amoSg ⟨0, 0⟩ 3 9 0 0 9 1, .redf ⟨0, 0⟩ 4 9 0 0 6 0, .faddF64 ⟨0, 0⟩ 1 2 3 5 0, .faddF32 ⟨0, 0⟩ 1 2 3 6 0,
      .cvt ⟨0, 0⟩ 1 2 0 0 0 0 0, .cvt ⟨0, 0⟩ 1 2 0 4 5 0 0, .cvt ⟨0, 0⟩ 1 2 0 1 1 0 0, .fence ⟨0, 0⟩ 1 7,
      .waitw ⟨0, 0⟩ 1 2 0 0 4, .exit 0 1 5, .exit 0 1 0, .engage ⟨0, 0⟩ 1 2 3 4, .mfsr ⟨0, 0⟩ 1 0x00C,
      .mtsr ⟨0, 0⟩ 1 0x012, .take ⟨0, 0⟩ 3, .give ⟨0, 0⟩ 3, .kincCompact 3 0, .blockHeader 1 0 0 0 1,
      .blockHeader 4 1 0 0 1, .blockHeader 4 0 1 0 1, .blockHeader 4 0 0 1 32] : List Instr).all
      (fun i => !i.wf .C) = true := by decide

theorem test_ill_formed_other_streams :
    ([(.L, .cp1d ⟨0, 0⟩ 0 0 7 0), (.L, .cp3d ⟨0, 0⟩ 3 0 0 0), (.L, .cpw3d ⟨0, 0⟩ 3 0 0 0),
      (.L, .cvcp ⟨0, 0⟩ 0 0 0 0 6 0 0), (.L, .take ⟨1, 0⟩ 16), (.L, .kset ⟨0, 0⟩ 1 1), (.L, .kread ⟨0, 0⟩ 1 1),
      (.V, .kincr ⟨0, 0⟩ 1 1), (.L, .blockHeader 4 0 0 1 16), (.V, .blockHeader 4 0 1 0 1),
      (.M, .mma ⟨0, 0⟩ 0 0 0 0 24 0), (.M, .mmat ⟨0, 0⟩ 0 0 0 0 4 7), (.M, .drain ⟨0, 0⟩ 0 0 3 0 0 0 0),
      (.M, .drain ⟨0, 0⟩ 0 0 0 1 0 0 0), (.V, .vaddF32 ⟨0, 0⟩ 1 2 3 6 0 0), (.V, .vaddF64 ⟨0, 0⟩ 1 2 3 5 0 0),
      (.V, .vcmp ⟨0, 0⟩ 1 6 2 3 0 0 0), (.V, .vcmp ⟨0, 0⟩ 1 0 2 3 7 0 0), (.V, .vcmp ⟨0, 0⟩ 1 0 2 3 4 1 0),
      (.V, .vsqrt ⟨0, 0⟩ 2 1 2 0 0 0), (.V, .vsqrt ⟨0, 0⟩ 1 1 2 5 0 0), (.V, .vexp2 ⟨0, 0⟩ 0 1 2 5 0 0),
      (.V, .vcvtF32 ⟨0, 0⟩ 0 0 1 2 0 0 0 0), (.V, .vcvtF64 ⟨0, 0⟩ 2 0 1 2 0 0 0 0), (.V, .vcvtF64 ⟨0, 0⟩ 1 1 1 2 5 0 0 0),
      (.V, .vcvtI32 ⟨0, 0⟩ 18 0 1 2 1 0 0 0), (.V, .vquant ⟨0, 0⟩ 9 1 2 0 0 0), (.V, .vexpand ⟨0, 0⟩ 18 1 2 0 0 0),
      (.V, .vrsum ⟨0, 0⟩ 7 1 2 0 0 0), (.V, .vrsum ⟨0, 0⟩ 1 1 2 5 0 0), (.V, .vrmax ⟨0, 0⟩ 0 1 2 1 0 0),
      (.V, .vbcl ⟨0, 0⟩ 2 1 2 0 32), (.V, .vrotl ⟨0, 0⟩ 3 1 2 0 0), (.V, .vshuf ⟨0, 0⟩ 3 1 2 0 3),
      (.V, .vldr ⟨0, 0⟩ 3 1 2 0), (.V, .vldG ⟨0, 0⟩ 3 1 2 0 0 0 0), (.V, .vgath ⟨0, 0⟩ 3 0 1 2 3 0),
      (.V, .vflrd ⟨0, 0⟩ 1 5 0), (.V, .vflclr ⟨0, 0⟩ 5)] : List (Stream × Instr)).all
      (fun e => !e.2.wf e.1) = true := by decide

/-! ### Witnesses: states and operands that meet the hypotheses of the statements about words -/

/-- Core 0 runs a task, and stream `st` of it is to move. -/
def at_ (st : Stream) : State := State.reset.probe st [0, 0] false

/-- The same where the stream stands before a header that it enters. -/
def head (st : Stream) : State := State.reset.probe st [0, 0] true

/-- The same with the moving core changed. -/
def set (st : Stream) (f : Core → Core) : State := (at_ st).withCur (f (at_ st).cur)

/-- The word may issue, keeps the rules of R146, has its payload, and `ready` holds of the state after its pop. -/
def meets (s : State) (st : Stream) (i : Instr) (ready : State → Bool) : Bool :=
  s.turn.st == st && s.cur.canIssue st && i.wf st &&
    (match s.popped st i.tok with | some (t, _) => ready t | none => false)

/-- No register, row, access or command of the moving core is waited for. -/
def free (s : State) : Bool := s.cur.fl.isEmpty && s.cur.acc.isEmpty && s.cur.slog.isEmpty && s.cur.lcmds.isEmpty

/-- What `meets` checks are the hypotheses of the statements. -/
theorem meets_issues {s : State} {st : Stream} {i : Instr} {ready : State → Bool} (h : meets s st i ready = true) :
    ∃ s1 x, Issues s st i i.tok s1 x ∧ ready s1 = true := by
  simp only [meets, Bool.and_eq_true, beq_iff_eq] at h
  obtain ⟨⟨⟨-, hc⟩, hw⟩, hr⟩ := h
  cases hp : s.popped st i.tok with
  | none => rw [hp] at hr; simp at hr
  | some e => rw [hp] at hr; exact ⟨e.1, e.2, ⟨hc, hw, hp⟩, hr⟩

/-- Where nothing is in flight, every register and row is free and every fence is clear. -/
theorem free_ready {s : State} (h : free s = true) :
    (∀ rs, s.cur.sBusy rs = false) ∧ (∀ rows, s.cur.rowBusy rows = false) ∧
    ∀ st, s.cur.drained st = true ∧ ∀ m, s.cur.clearOf st m = true := by
  simp only [free, Bool.and_eq_true, List.isEmpty_iff] at h
  simp [Core.sBusy, Core.rowBusy, Core.drained, Core.clearOf, h.1.1.1, h.1.1.2, h.1.2]

theorem test_meets_control_integer :
    ([.add ⟨0, 0⟩ 1 2 3, .sub ⟨0, 0⟩ 1 2 3, .and ⟨0, 0⟩ 1 2 3, .or ⟨0, 0⟩ 1 2 3, .xor ⟨0, 0⟩ 1 2 3, .andn ⟨0, 0⟩ 1 2 3,
      .sll ⟨0, 0⟩ 1 2 3, .srl ⟨0, 0⟩ 1 2 3, .sra ⟨0, 0⟩ 1 2 3, .mul ⟨0, 0⟩ 1 2 3, .mulh ⟨0, 0⟩ 1 2 3,
      .mulhu ⟨0, 0⟩ 1 2 3, .div ⟨0, 0⟩ 1 2 0, .divu ⟨0, 0⟩ 1 2 3, .rem ⟨0, 0⟩ 1 2 3, .remu ⟨0, 0⟩ 0 2 3,
      .min ⟨0, 0⟩ 1 2 3, .max ⟨0, 0⟩ 1 2 3, .minu ⟨0, 0⟩ 31 2 3, .maxu ⟨0, 3⟩ 1 2 31, .clz ⟨0, 1⟩ 1 2, .popc ⟨0, 0⟩ 1 2,
      .addi ⟨0, 0⟩ 1 2 0xFFF, .andi ⟨0, 0⟩ 1 2 3, .ori ⟨0, 0⟩ 1 2 3, .xori ⟨0, 0⟩ 1 2 3, .slli ⟨0, 0⟩ 1 2 63,
      .srli ⟨0, 0⟩ 1 2 3, .srai ⟨0, 0⟩ 1 2 3, .li ⟨0, 0⟩ 1 0xFFFF, .lis ⟨0, 0⟩ 1 2, .mov 1 2, .addc 1 31, .lic 1 16]
      : List Instr).all (fun i => meets (at_ .C) .C i free) = true := by decide

theorem test_meets_control_predicates_and_float :
    ([.cmp ⟨0, 0⟩ 0 5 1 2 0 0, .cmp ⟨0, 0⟩ 7 5 1 2 1 1, .cmp ⟨0, 0⟩ 1 3 1 2 2 0, .cmpi ⟨0, 0⟩ 1 2 3 0x7FF,
      .qand ⟨0, 0⟩ 0 1 2, .qor ⟨0, 0⟩ 0 1 2, .qxor ⟨0, 0⟩ 0 1 2, .qandn ⟨0, 0⟩ 0 1 2, .qnot ⟨0, 0⟩ 0 1, .qset ⟨0, 0⟩ 7,
      .qclr ⟨0, 0⟩ 0, .faddF64 ⟨0, 0⟩ 1 2 3 0 0, .fsubF64 ⟨0, 0⟩ 1 2 3 4 1, .fmulF64 ⟨0, 0⟩ 1 2 3 0 0,
      .fdivF64 ⟨0, 0⟩ 1 2 3 0 0, .ffmaF64 ⟨0, 0⟩ 1 2 3 0 0, .faddF32 ⟨0, 0⟩ 1 2 3 5 0, .fsubF32 ⟨0, 0⟩ 1 2 3 0 0,
      .fmulF32 ⟨0, 0⟩ 1 2 3 0 0, .fdivF32 ⟨0, 0⟩ 1 2 3 0 0, .ffmaF32 ⟨0, 0⟩ 1 2 3 0 0, .fsqrtF64 ⟨0, 0⟩ 1 2 0 0,
      .fsqrtF32 ⟨0, 0⟩ 1 2 0 0, .fminF64 ⟨0, 0⟩ 1 2 3 0, .fmaxF64 ⟨0, 0⟩ 1 2 3 0, .fminF32 ⟨0, 0⟩ 1 2 3 0,
      .fmaxF32 ⟨0, 0⟩ 1 2 3 0, .cvt ⟨0, 0⟩ 1 2 0 2 0 0 1, .cvt ⟨0, 0⟩ 1 2 5 0 4 0 1] : List Instr).all
      (fun i => meets (at_ .C) .C i free) = true := by decide

theorem test_meets_control_special :
    ([.mfsr ⟨0, 0⟩ 1 0, .mfsr ⟨0, 0⟩ 1 8, .mfsr ⟨0, 0⟩ 1 0x00B, .mfsr ⟨0, 0⟩ 1 0x012, .mfsr ⟨0, 0⟩ 1 0x031,
      .mfsr ⟨0, 0⟩ 1 0x040, .mfsr ⟨0, 0⟩ 1 0x045, .mfsr ⟨0, 0⟩ 1 0x04D, .mtsr ⟨0, 0⟩ 1 0x010, .mtsr ⟨0, 0⟩ 1 0x011,
      .mtsr ⟨0, 0⟩ 1 0x013, .mtsr ⟨0, 0⟩ 1 0x020, .mtsr ⟨0, 0⟩ 1 0x031, .kread ⟨0, 0⟩ 63 1, .arenaH ⟨0, 0⟩ 1 3,
      .arenaA ⟨0, 0⟩ 1 0 2] : List Instr).all (fun i => meets (at_ .C) .C i free) = true ∧
    (at_ .C).cur.task = some Task.probe := by decide

theorem test_meets_control_memory :
    ([.ld ⟨0, 0⟩ 1 2 0 0 0 0, .ld ⟨0, 0⟩ 2 4 15 6 2 4, .st ⟨0, 0⟩ 1 2 0 0 0 3, .st ⟨0, 0⟩ 2 4 15 6 2 4,
      .amoG ⟨0, 0⟩ 4 6 0 0 0 0, .amoG ⟨0, 0⟩ 4 6 0 3 9 1] : List Instr).all
      (fun i => meets (at_ .C) .C i (fun s => free s && (s.gCheck (s.cur.getS 2) 16).isNone)) = true ∧
    ([.ldl ⟨0, 0⟩ 1 2 0 0 0 2, .ldl ⟨0, 0⟩ 1 2 0 0 1 2, .stl ⟨0, 0⟩ 30 2 0 0 0 4, .stl ⟨0, 0⟩ 2 2 0 1 1 3,
      .amoS ⟨0, 0⟩ 1 2 0 0 0 1, .amoSg ⟨0, 0⟩ 1 2 0 0 0 1, .redf ⟨0, 0⟩ 1 2 0 0 5 1] : List Instr).all
      (fun i => meets (at_ .C) .C i (fun s => free s &&
        match s.sPlace 0 (s.cur.getS 2) 16, s.sPlace 1 (s.cur.getS 2) 16 with
        | .ok (w, o), .ok (w1, o1) => w == .S 0 && o == 0 && w1 == .S 0 && o1 == 0
        | _, _ => false)) = true := by decide

/-- Partition 0 has its arena window at selector 0xE, and no arena lives. -/
def windowed (st : Stream) (f : Core → Core) : State := (set st f).setReg (xltCfg 0) 0xE

/-- The last address from which 8 bytes fit, the first from which they do not, and an address that is not aligned; an arena
window of a dead handle entered by the first or by the last byte. -/
theorem test_meets_control_faults :
    (([2 ^ 56 - 7, 2 ^ 56, 2 ^ 64 - 1] : List Nat).all (fun a =>
      let s := set .C (fun c => c.setS 2 (BitVec.ofNat 64 a))
      [.ld ⟨0, 0⟩ 1 2 0 0 0 3, .st ⟨0, 0⟩ 1 2 0 0 0 3, .amoG ⟨0, 0⟩ 1 2 0 0 0 1].all (fun i => meets s .C i (fun s =>
        free s && decide (2 ^ 56 < (s.cur.getS 2).toNat + 8))))) = true ∧
    (let s := set .C (fun c => c.setS 2 0x1002)
     [.amoG ⟨0, 0⟩ 1 2 0 0 0 0, .redf ⟨0, 0⟩ 1 2 0 0 0 0].all (fun i => meets s .C i (fun s => free s &&
       decide ((s.cur.getS 2).toNat % 4 ≠ 0)))) = true ∧
    (([0xE1402000001000, 0xDFFFFFFFFFFFF8 + 7] : List Nat).all (fun a =>
      let s := windowed .C (fun c => c.setS 2 (BitVec.ofNat 64 a))
      [.ld ⟨0, 0⟩ 1 2 0 0 0 3, .st ⟨0, 0⟩ 1 2 0 0 0 3].all (fun i => meets s .C i (fun s => free s &&
        decide ((s.cur.getS 2).toNat + 8 ≤ 2 ^ 56) && s.outlived (s.partOf 0) ((s.cur.getS 2).toNat + 8 - 1))))) = true ∧
    (let s := windowed .C (fun c => c.setS 2 0xE1402000001000)
     [.amoG ⟨0, 0⟩ 1 2 0 0 0 1, .redf ⟨0, 0⟩ 1 2 0 0 0 0].all (fun i => meets s .C i (fun s => free s &&
       decide ((s.cur.getS 2).toNat % 8 = 0) && s.outlived (s.partOf 0) (s.cur.getS 2).toNat))) = true ∧
    (let s := set .C (fun c => c.setS 2 0x3FFF9)
     [.ldl ⟨0, 0⟩ 1 2 0 0 0 3, .stl ⟨0, 0⟩ 1 2 0 0 0 3, .amoS ⟨0, 0⟩ 1 2 0 0 0 1].all
       (fun i => meets s .C i (fun s => free s && decide (0x40000 < (s.cur.getS 2).toNat + 8)))) = true ∧
    (let s := set .C (fun c => c.setS 2 (12 * 2 ^ 24))
     [.ldl ⟨0, 0⟩ 1 2 0 0 1 3, .stl ⟨0, 0⟩ 1 2 0 0 1 3, .amoSg ⟨0, 0⟩ 1 2 0 0 0 1].all
       (fun i => meets s .C i (fun s => free s && (s.cur.sgTarget 0 (s.cur.getS 2)).isNone))) = true ∧
    (let s := set .C (fun c => c.setS 2 0x3FFF9)
     [.ldl ⟨0, 0⟩ 1 2 0 0 1 3, .stl ⟨0, 0⟩ 1 2 0 0 1 3, .amoSg ⟨0, 0⟩ 1 2 0 0 0 1].all
       (fun i => meets s .C i (fun s => free s && (match s.cur.sgTarget 0 (s.cur.getS 2) with
         | some (_, off) => decide (0x40000 < off + 8) | none => false)))) = true := by decide +kernel

/-- A load of class 3 of the stream that has not performed. -/
def loading (st : Stream) : State := set st (fun c => c.launch st [⟨.S 0, 0, 4, 0, .load⟩] 3 0 0 .nothing true 0)

/-- Whether a `waitw` on the word at s2 may read it. -/
def mayWait (s : State) : Bool :=
  s.cur.mayPerform s.turn.core (s.cur.atIssue s.turn.core (s.cur.getS 2).toNat 4 0 0)

theorem test_meets_control_waits :
    ([.fence ⟨0, 0⟩ 0xFFFF 6, .ifence ⟨0, 0⟩, .waitw ⟨0, 0⟩ 1 2 0 0 0, .waitw ⟨0, 0⟩ 1 2 0 0 1] : List Instr).all
      (fun i => meets (at_ .C) .C i (fun s => free s && mayWait s && decide ((s.cur.getS 2).toNat % 4 = 0) &&
        waitCond 0 (s.cur.sWord 0) 0 && !waitCond 1 (s.cur.sWord 0) 0)) = true ∧
    (([0x3FFFC, 0x40000, 2] : List (BitVec 64)).all (fun a =>
      meets (set .C (fun c => c.setS 2 a)) .C (.waitw ⟨0, 0⟩ 1 2 0 0 0) (fun s => mayWait s &&
        decide (0x40000 ≤ (s.cur.getS 2).toNat ∨ (s.cur.getS 2).toNat % 4 ≠ 0) == (a != 0x3FFFC)))) = true ∧
    (let s := loading .C
     meets s .C (.fence ⟨0, 0⟩ 8 0) (fun s => !s.cur.clearOf .C 8) && meets s .C (.fence ⟨0, 0⟩ 4 0) (fun s => s.cur.clearOf .C 4) &&
       meets s .C (.ifence ⟨0, 0⟩) (fun s => !s.cur.drained .C)) = true ∧
    (let c := (loading .C).cur
     let f : Fence := ⟨c.nextId, .C, 8⟩
     let d := (c.fencedBy f).launch .C [⟨.S 0, 64, 4, 0, .load⟩] 3 0 0 .nothing true 0
     f ∈ d.fences ∧ (d.acc.getLast?.map (fun a => (a.st == f.st, decide (f.id ≤ a.id), fld f.mask a.cls 1)) = some (true, true, 1)) ∧
     d.fenceWaits f = true ∧ (c.fencedBy { f with mask := 4 }).fences = []) ∧
    (let s := set .C (fun c => { c with waitw := some ⟨0, 0, 0, 0, true, 0, 0, 0⟩ })
     s.cur.moves .C = true ∧ s.cur.waitw = some ⟨0, 0, 0, 0, true, 0, 0, 0⟩) ∧
    (let s := set .C (fun c => { c with waitw := some ⟨0, 0, 1, 0, false, 0, 0, 0⟩ })
     s.cur.moves .C = true ∧ s.cur.waitw = some ⟨0, 0, 1, 0, false, 0, 0, 0⟩) := by decide

theorem test_meets_control_transfers :
    (let s := set .C (fun c => (c.setS 2 4100).setQ 1 true)
     [.bq ⟨0, 0⟩ 1 5, .bnq ⟨0, 0⟩ 0 5, .j ⟨0, 0⟩ 5, .jmpr ⟨0, 0⟩ 2].all (fun i => meets s .C i (fun s => free s &&
       s.cur.inBlock (s.target 5) && s.cur.inBlock 4100)) = true ∧
     [.bq ⟨0, 0⟩ 0 5, .bnq ⟨0, 0⟩ 1 5].all (fun i => meets s .C i (fun s => s.cur.getQ 1 && !s.cur.getQ 0)) = true) ∧
    (let s := set .C (fun c => c.setS 2 (2 ^ 56))
     [.j ⟨0, 0⟩ (-2000), .jmpr ⟨0, 0⟩ 2, .call ⟨0, 0⟩ (-2000), .callr ⟨0, 0⟩ 2].all (fun i => meets s .C i (fun s => free s &&
       !s.cur.inBlock (2 ^ 56) && !s.atHeader (2 ^ 56) && !s.callable (2 ^ 56))) = true ∧
     meets s .C (.ret ⟨0, 0⟩) (fun s => s.cur.ret.isEmpty) = true) ∧
    (let s := set .C (fun c => { c with ret := [⟨Block.entering 4096 false false, 4, false⟩] })
     meets s .C (.ret ⟨0, 0⟩) (fun s => !s.cur.ret.isEmpty) = true) := by decide

theorem test_meets_headers :
    (meets (head .C) .C (.blockHeader 256 0 0 0 3) (fun s => (s.cur.str .C).blk.len == 0 && decide (runsOf (s.cur.repCount .C false 0 3) 0 = 3)) = true ∧
     meets (head .C) .C (.blockHeader 256 0 0 0 0) (fun s => decide (runsOf (s.cur.repCount .C false 0 0) 0 = 0)) = true) ∧
    meets (head .V) .V (.blockHeader 4 1 3 0 2) (fun s => decide (runsOf (s.cur.repCount .V false 0 2) 3 = 4)) = true ∧
    meets (head .M) .M (.blockHeader 257 0 0 0 2) (fun s => decide (1 < runsOf (s.cur.repCount .M false 0 2) 0)) = true ∧
    meets (at_ .C) .C (.blockHeader 4 0 0 0 1) (fun s => (s.cur.str .C).blk.len != 0) = true ∧
    (at_ .C).cur.task = some Task.probe ∧ ((at_ .L).cur.str .L).lbAddr ≠ 8192 := by decide

/-- A core at the end of its C block. -/
def atEnd (called : Bool) (ret : List Ret) : Core :=
  ({ (at_ .C).cur with ret := ret } : Core).setStr .C
    { (at_ .C).cur.str .C with blk := ⟨4096, 256, false, 0, 1, 1, 0, false, called⟩, off := 256 }

theorem test_meets_block_ends :
    (let s := set .V (fun c => c.setStr .V { c.str .V with off := 256 })
     s.cur.canIssue .V = true ∧ (s.cur.str .V).blk.len ≠ 0 ∧ (s.cur.str .V).blk.len ≤ (s.cur.str .V).off ∧
     (s.cur.str .V).blk.runs ≤ (s.cur.str .V).blk.run + 1) ∧
    (let s := set .V (fun c => c.setStr .V { c.str .V with blk := ⟨4096, 256, true, 2, 2, 3, 0, false, false⟩, off := 256 })
     (s.cur.str .V).blk.run + 1 < (s.cur.str .V).blk.runs ∧ (s.cur.endRun ⟨0, 0⟩ .V).rot = 1 ∧
     (s.cur.endRun ⟨0, 0⟩ .V).getP 8 = BitVec.allOnes 128) ∧
    (let e : Ret := ⟨Block.entering 8192 false false, 4, false⟩
     ((atEnd true [e]).endRun ⟨0, 0⟩ .C).ret = [] ∧ (((atEnd true [e]).endRun ⟨0, 0⟩ .C).str .C).blk.addr = 8192 ∧
     ((atEnd false [e]).endRun ⟨0, 0⟩ .C).st = .parked ∧ ((atEnd false []).endRun ⟨0, 0⟩ .C).st = .exiting) ∧
    (at_ .L).cur.phaseAddr .L 1 = 4096 ∧ (at_ .L).cur.phaseAddr .L 2 = 0 ∧
    (at_ .L).cur.str .C = Strm.reset ∧ Strm.reset.ended = true ∧ (at_ .L).cur.st = .running := by decide

theorem test_meets_tokens_and_counters :
    (([.C, .L, .V, .M] : List Stream).all (fun st => ([.take ⟨0, 0⟩ 1, .give ⟨0, 1⟩ 1, .nopToken ⟨0, 1⟩, .nop, .kinc ⟨0, 0⟩ 1 8191] : List Instr).all
      (fun i => i.wf st == (i != .take ⟨0, 0⟩ 1)))) = true ∧
    (([.C, .L, .V, .M] : List Stream).all (fun st =>
      let s := set st (fun c => match peer st 1 with | some p => c.setQueue p st [7, 8] | none => c)
      ([.take ⟨1, 0⟩ 1, .nopToken ⟨1, 0⟩] : List Instr).all (fun i => meets s st i free) &&
        ([.give ⟨0, 1⟩ 1, .nop, .kinc ⟨0, 0⟩ 1 8191, .kwge ⟨0, 0⟩ 1 0, .kwgs ⟨0, 0⟩ 1 0, .kwlt ⟨0, 0⟩ 1 1] : List Instr).all
        (fun i => meets s st i (fun s => free s && s.mayTest 1 && decide ((s.cur.getK 1).toNat = 0))) &&
        (s.popped st ⟨1, 0⟩).map (·.2) == some 7)) = true ∧
    ([.kset ⟨0, 0⟩ 1 2, .kincr ⟨0, 0⟩ 1 2, .kincCompact 1 15] : List Instr).all (fun i => meets (at_ .C) .C i (fun s => free s && s.cur.kTurn s.clock 0)) = true ∧
    (at_ .M).popped .M ⟨1, 0⟩ = none := by decide

/-- A core whose C stream holds a release. -/
def holding (a : HAct) (f : Core → Core) : State :=
  set .C (fun c => f (c.setStr .C { c.str .C with hold := [⟨0, a⟩] }))

theorem test_meets_held_releases :
    (let s := holding (.push .L 5) id
     (s.cur.str .C).hold = [⟨0, .push .L 5⟩] ∧ (s.cur.queue .C .L).length < 8 ∧ s.cur.releasable .C 0 = true ∧ s.landed 0 = true ∧
     ((s.flushStr 0 .C).cur.queue .C .L) = [5]) ∧
    (let s := holding (.push .L 5) (fun c => c.setQueue .C .L [1, 2, 3, 4, 5, 6, 7, 8])
     8 ≤ (s.cur.queue .C .L).length ∧ (s.flushStr 0 .C).cur = s.cur) ∧
    (let s := holding (.inc 1 9 { cause := .counterOverflow, orig := 0 }) id
     s.cur.releasable .C 0 = true ∧ s.landed 0 = true ∧ s.cur.kTurn s.clock 1 = true ∧ ((s.flushStr 0 .C).cur.getK 1) = 9) ∧
    (let c := (at_ .C).cur.setK 1 0xFFFFFF
     (c.getK 1).toNat + 0 < 2 ^ 24 ∧ 2 ^ 24 ≤ (c.getK 1).toNat + 1 ∧ (c.kMark 5 1).kOver.contains 1 = false ∧ c.st = .running ∧
     ({ c with kOver := [1] }.kMark 0 1).kOver.contains 1 = true) := by decide +kernel

theorem test_meets_exit_trap_engine :
    ([.exit 0 0 0, .exit 0 2 3, .trap 0 5, .brk 0 6] : List Instr).all (fun i => meets (at_ .C) .C i (fun s => free s &&
      decide ((s.cur.getS 2).toNat % 32 = 0) &&
      s.cur.mayPerform 0 (s.cur.atIssue 0 (s.cur.getS 2).toNat 96 0 0))) = true ∧
    (let s := set .C (fun c => c.setS 2 0x3FFE0)
     meets s .C (.exit 0 2 1) (fun s => decide ((s.cur.getS 2).toNat + 32 ≤ 0x40000)) = true ∧
     meets s .C (.exit 0 2 2) (fun s => free s && decide (0x40000 < (s.cur.getS 2).toNat + 64)) = true) ∧
    ([.engage ⟨0, 0⟩ 1 6 10 12, .lease ⟨0, 0⟩ 2 7 13, .unlease ⟨0, 0⟩ 3 13] : List Instr).all
      (fun i => meets (at_ .C) .C i (fun s => free s && decide (clsComb (hdrCls (s.cur.getS 10)) = false) &&
        s.engTurn 0 (hdrCls (s.cur.getS 10)) (s.cur.getS 12))) = true := by decide

theorem test_meets_load_arithmetic :
    ([.badd ⟨0, 0⟩ 1 2 3, .bsub ⟨0, 0⟩ 1 2 3, .band ⟨0, 0⟩ 1 2 3, .bor ⟨0, 0⟩ 1 2 3, .bxor ⟨0, 0⟩ 1 2 3,
      .bsll ⟨0, 0⟩ 1 2 3, .bsrl ⟨0, 0⟩ 15 2 3, .bmul ⟨0, 0⟩ 1 2 3, .baddi ⟨0, 3⟩ 1 2 0x3FFF, .bli ⟨0, 0⟩ 1 2,
      .blis ⟨0, 0⟩ 1 2, .bmov 1 2, .baddc 1 63] : List Instr).all (fun i => meets (at_ .L) .L i free) = true := by decide

/-- A core at a word of L whose group 0 holds these words. -/
def group (dst src shape plane : BitVec 64) : State :=
  set .L (fun c => (((c.setB 0 dst).setB 1 src).setB 2 shape).setB 4 plane)

def bufW : BitVec 64 := 0x8000000000000000
def bufS : BitVec 64 := 0xE000000000000000

/-- The forms of the command words of group 0, as the statement lists them. -/
def forms : List (Instr × LForm × State) := [
  (.cp1d ⟨0, 0⟩ 0 1 0 0, { op := .cp, dims := 1, g := 0, c := 1, s := 0, l := 0 }, group bufW 64 16 0),
  (.cp2d ⟨0, 0⟩ 0 1 0 0, { op := .cp, dims := 2, g := 0, c := 1, s := 0, l := 0 }, group bufW 64 0x20000010 0),
  (.cp3d ⟨0, 0⟩ 0 1 0 0, { op := .cp, dims := 3, g := 0, c := 1, s := 0, l := 0 }, group bufW 64 0x20020010 256),
  (.cpw1d ⟨0, 0⟩ 0 1 0 0, { op := .cpw, dims := 1, g := 0, c := 1, s := 0, l := 0 }, group 64 bufW 16 0),
  (.cpw2d ⟨0, 0⟩ 0 1 0 0, { op := .cpw, dims := 2, g := 0, c := 1, s := 0, l := 0 }, group 64 bufW 0x20000010 0),
  (.cpw3d ⟨0, 0⟩ 0 1 0 0, { op := .cpw, dims := 3, g := 0, c := 1, s := 0, l := 0 }, group 64 bufW 0x20020010 256),
  (.cpl ⟨0, 0⟩ 0 1 0, { op := .cpl, dims := 2, g := 0, c := 1, s := 0 }, group bufW bufS 0x20000010 0),
  (.cpr ⟨0, 0⟩ 0 1 0, { op := .cpr, g := 0, c := 1, s := 0 }, group 64 bufW 16 0),
  (.cpm ⟨0, 0⟩ 0 1 0, { op := .cpm, g := 0, c := 1, s := 0 }, group 64 bufW 0x0001000000000010 0),
  (.cvcp ⟨0, 0⟩ 0 1 0 0 0 0 0, { op := .cvcp, g := 0, c := 1, s := 0, l := 0, r := 0, n := 0, u := 0 },
    group bufW 64 0x08C0000000000008 0),
  (.pfBulk ⟨0, 0⟩ 0 1 0 0, { op := .pfBulk, g := 0, c := 1, s := 0, l := 0 }, group 0 64 16 0),
  (.pfRel ⟨0, 0⟩ 0 1 0, { op := .pfRel, g := 0, c := 1, s := 0 }, group 0 64 16 0),
  (.lgath ⟨0, 0⟩ 0 1 0 0, { op := .lgath, g := 0, c := 1, s := 0, l := 0 }, group bufW 64 0x0000100000000002 0),
  (.lscat ⟨0, 0⟩ 0 1 0 0, { op := .lscat, g := 0, c := 1, s := 0, l := 0 }, group 64 bufW 0x0000100000000002 0),
  (.lfill ⟨0, 0⟩ 0 1 0 0, { op := .lfill, g := 0, c := 1, s := 0, l := 0 }, group 64 0 16 0)]

theorem test_commands_are_accepted :
    (forms.all fun e => meets e.2.2 .L e.1 (fun s => s.acceptsL (e.2.1.command e.1 s.cur Tok.none 0))) = true := by decide

theorem test_commands_are_refused :
    (forms.all fun e =>
      let s := e.2.2.withCur (e.2.2.cur.setB 2 0)
      meets s .L e.1 (fun s => ((e.2.1.command e.1 s.cur Tok.none 0).check s 0 == some (.addressing, 0)) &&
        s.cur.lcmds.isEmpty)) = true ∧
    (let f : LForm := { op := .cpr, g := 0, c := 1, s := 0 }
     let s := group 0x0C000000 bufW 16 0
     meets s .L (.cpr ⟨0, 0⟩ 0 1 0) (fun s => (f.command (.cpr ⟨0, 0⟩ 0 1 0) s.cur Tok.none 0).check s 0 == some (.accessList, 0))) = true ∧
    (let f : LForm := { op := .cvcp, g := 0, c := 1, s := 0, r := 5 }
     let s := group bufW 64 0x0800000000000008 0
     meets s .L (.cvcp ⟨0, 0⟩ 0 1 0 0 5 0 0) (fun s => (f.command (.cvcp ⟨0, 0⟩ 0 1 0 0 5 0 0) s.cur Tok.none 0).check s 0 == some (.illegal, 0))) = true := by
  decide

/-- A core at a word of M whose descriptor has K = 256, ACC = 0 and pitches of 256 and 0 bytes. -/
def mmaAt : State := set .M (fun c => c.setG 0 0x0001000100000000)

theorem test_meets_matrix :
    ([.tclr ⟨0, 0⟩ 7, .tclrCompact 0, .tldA ⟨0, 0⟩ 0 2, .tldW ⟨0, 0⟩ 7 2] : List Instr).all (fun i => meets (at_ .M) .M i
      (fun s => free s && !s.cur.draining 0 && !s.cur.draining 7 && rowWordOk (s.cur.getB 2) &&
        decide (rowWordEnd (s.cur.getB 2) 256 ≤ Buf.A.size))) = true ∧
    (let s := set .M (fun c => c.setB 2 1)
     ([.tldA ⟨0, 0⟩ 0 2, .tldW ⟨0, 0⟩ 7 2] : List Instr).all (fun i => meets s .M i (fun s => !rowWordOk (s.cur.getB 2)))) = true ∧
    (meets (at_ .M) .M (.drain ⟨0, 0⟩ 3 7 2 0 0 9 1) (fun s => rowWordOk (s.cur.getB 7) &&
      decide (rowWordEnd (s.cur.getB 7) (drainLen (s.cur.getDty 3) none) ≤ (drainBuf 2).size) && s.cur.drains.isEmpty)) = true ∧
    (let s := set .M (fun c => { c with bufW := [(0, 0), (1, 0), (2, 0), (3, 0xF0)] })
     meets s .M (.eload ⟨0, 0⟩ 2 6 0 0) (fun s => !s.cur.slotBusy 2 &&
       programOk [BitVec.ofNat 32 (leNat (s.cur.bytes .W (s.cur.getB 6).toNat 4))])) = true ∧
    (let s := set .M (fun c => { c with slots := c.slots.set 1 (some [0xF0000000]) })
     meets s .M (.drain ⟨0, 0⟩ 3 7 2 1 1 9 1) (fun s => (s.cur.slot 1).isSome)) = true ∧
    ([.gli ⟨0, 0⟩ 3 0x8000, .glis ⟨0, 0⟩ 3 0x1234] : List Instr).all (fun i => meets (at_ .M) .M i free) = true := by decide

theorem test_meets_mma :
    ([.mma ⟨0, 0⟩ 1 3 4 0 1 0, .mmat ⟨0, 0⟩ 1 3 4 0 1 0] : List Instr).all (fun i => meets mmaAt .M i (fun s =>
      !s.cur.draining 1 &&
        (match s.cur.mmaCheck false 3 4 0 1 0, s.cur.mmaCheck true 3 4 0 1 0 with
         | .ok x, .ok y => x == (.f32, .f32, .f32) && y == (.f32, .f32, .f32) | _, _ => false))) = true ∧
    meets (at_ .M) .M (.mma ⟨0, 0⟩ 1 3 4 0 1 0) (fun s =>
      match s.cur.mmaCheck false 3 4 0 1 0 with | .error c => c == .illegal | _ => false) = true ∧
    mclass .i8 .ui8 = some .int := by decide

theorem test_meets_vector_float :
    ([.vaddF32 ⟨0, 0⟩ 1 2 3 0 0 0, .vsubF32 ⟨0, 0⟩ 1 2 3 4 0 1, .vmulF32 ⟨0, 0⟩ 1 2 3 5 1 0, .vfmaF32 ⟨0, 0⟩ 1 2 3 0 0 0,
      .vdivF32 ⟨0, 0⟩ 1 2 3 0 0 0, .vaddF64 ⟨0, 0⟩ 1 2 3 0 0 0, .vsubF64 ⟨0, 0⟩ 1 2 3 0 0 0, .vmulF64 ⟨0, 0⟩ 1 2 3 0 0 0,
      .vfmaF64 ⟨0, 0⟩ 1 2 3 0 0 0, .vdivF64 ⟨0, 0⟩ 1 2 3 0 0 0, .vaddF16 ⟨0, 0⟩ 1 2 3 0 0 0, .vsubF16 ⟨0, 0⟩ 1 2 3 0 0 0,
      .vmulF16 ⟨0, 0⟩ 1 2 3 0 0 0, .vfmaF16 ⟨0, 0⟩ 1 2 3 0 0 0, .vdivF16 ⟨0, 0⟩ 1 2 3 0 0 0, .vaddBf16 ⟨0, 0⟩ 1 2 3 0 0 0,
      .vsubBf16 ⟨0, 0⟩ 1 2 3 0 0 0, .vmulBf16 ⟨0, 0⟩ 1 2 3 0 0 0, .vfmaBf16 ⟨0, 0⟩ 1 2 3 0 0 0,
      .vdivBf16 ⟨0, 0⟩ 1 2 3 0 0 0, .vminF32 ⟨0, 0⟩ 1 2 3 0 0, .vmaxF32 ⟨0, 0⟩ 1 2 3 0 0, .vminF64 ⟨0, 0⟩ 1 2 3 0 0,
      .vmaxF64 ⟨0, 0⟩ 1 2 3 0 0, .vminF16 ⟨0, 0⟩ 1 2 3 0 0, .vmaxF16 ⟨0, 0⟩ 1 2 3 0 0, .vminBf16 ⟨0, 0⟩ 1 2 3 0 0,
      .vmaxBf16 ⟨0, 0⟩ 1 2 3 0 0] : List Instr).all (fun i => meets (at_ .V) .V i free) = true := by decide

theorem test_meets_vector_integer :
    ([.vaddI32 ⟨0, 0⟩ 1 2 3 0 0, .vsubI32 ⟨0, 0⟩ 1 2 3 1 0, .vmulI32 ⟨0, 0⟩ 1 2 3 0 0, .vaddI16 ⟨0, 0⟩ 1 2 3 1 0,
      .vsubI16 ⟨0, 0⟩ 1 2 3 0 0, .vmulI16 ⟨0, 0⟩ 1 2 3 0 0, .vand ⟨0, 0⟩ 1 2 3 0, .vor ⟨0, 0⟩ 1 2 3 0,
      .vxor ⟨0, 0⟩ 1 2 3 0, .vandn ⟨0, 0⟩ 1 2 3 0, .vsll ⟨0, 0⟩ 1 2 3 0, .vsrl ⟨0, 0⟩ 1 2 3 0, .vsra ⟨0, 0⟩ 1 2 3 0,
      .vmulhI32 ⟨0, 0⟩ 1 2 3 0, .vcmp ⟨0, 0⟩ 1 3 2 3 0 1 0, .vcmp ⟨0, 0⟩ 0 3 2 3 4 0 0, .vmov ⟨0, 0⟩ 1 2 0,
      .vsel ⟨0, 0⟩ 1 2 3 1, .vbcast ⟨0, 0⟩ 1 2 0] : List Instr).all (fun i => meets (at_ .V) .V i free) = true := by decide

theorem test_meets_vector_special :
    ([.vsqrt ⟨0, 0⟩ 0 1 2 0 0 0, .vrcp ⟨0, 0⟩ 1 1 2 0 0 0, .vrsqrt ⟨0, 0⟩ 0 1 2 0 0 0, .vexp2 ⟨0, 0⟩ 0 1 2 0 0 0,
      .vlog2 ⟨0, 0⟩ 0 1 2 0 0 0, .vexp ⟨0, 0⟩ 0 1 2 0 0 0, .vln ⟨0, 0⟩ 0 1 2 0 0 0, .vsin ⟨0, 0⟩ 0 1 2 0 0 0,
      .vcos ⟨0, 0⟩ 1 1 2 0 0 0, .vtanh ⟨0, 0⟩ 0 1 2 0 0 0, .verf ⟨0, 0⟩ 0 1 2 0 0 0, .vcvtF32 ⟨0, 0⟩ 3 0 1 2 0 0 0 0,
      .vcvtF32 ⟨0, 0⟩ 3 1 1 2 0 0 0 0, .vcvtF64 ⟨0, 0⟩ 1 0 1 2 0 0 0 0, .vcvtI32 ⟨0, 0⟩ 18 1 1 2 0 0 0 0,
      .vquant ⟨0, 0⟩ 10 1 2 0 0 0, .vexpand ⟨0, 0⟩ 16 1 2 0 0 0, .vrsum ⟨0, 0⟩ 0 1 2 0 0 0, .vrmax ⟨0, 0⟩ 4 1 2 0 0 0,
      .vrmin ⟨0, 0⟩ 5 1 2 0 0 0, .vbcl ⟨0, 0⟩ 2 1 2 0 31, .vrotl ⟨0, 0⟩ 1 1 2 0 63, .vshuf ⟨0, 0⟩ 0 1 2 0 3,
      .vzip ⟨0, 0⟩ 1 2 3 0] : List Instr).all (fun i => meets (at_ .V) .V i free) = true := by decide

theorem test_meets_vector_scalars :
    ([.pand ⟨0, 0⟩ 1 2 3, .por ⟨0, 0⟩ 1 2 3, .pxor ⟨0, 0⟩ 15 2 3, .pandn ⟨0, 0⟩ 0 2 3, .pnot ⟨0, 0⟩ 1 2, .pset ⟨0, 0⟩ 1,
      .pclr ⟨0, 0⟩ 8, .xadd ⟨0, 0⟩ 1 2 3, .xsub ⟨0, 0⟩ 1 2 3, .xand ⟨0, 0⟩ 1 2 3, .xorX ⟨0, 0⟩ 1 2 3, .xxor ⟨0, 0⟩ 1 2 3,
      .xsll ⟨0, 0⟩ 1 2 3, .xsrl ⟨0, 0⟩ 1 2 3, .xmul ⟨0, 0⟩ 1 2 3, .xli ⟨0, 0⟩ 1 2, .xlis ⟨0, 0⟩ 1 2, .vbaseR ⟨0, 0⟩ 1,
      .vrotR ⟨0, 0⟩ 1, .vbaseW ⟨0, 0⟩ 1, .vrotW ⟨0, 0⟩ 1, .vgov 15, .vflclr ⟨0, 0⟩ 4, .vflrd ⟨0, 0⟩ 1 4 0,
      .vfence ⟨0, 0⟩ 2 6] : List Instr).all (fun i => meets (at_ .V) .V i free) = true ∧
    (let s := set .V (fun c => c.launch .V [⟨.S 0, 0, 4, 0, .load⟩] 3 0 0 .nothing true 0)
     meets s .V (.vfence ⟨0, 0⟩ 8 0) (fun s => !s.cur.clearOf .V 8)) = true := by decide

theorem test_meets_vector_buffers :
    ([.vldr ⟨0, 0⟩ 0 2 1 0, .vldr ⟨0, 0⟩ 1 2 1 0, .vldr ⟨0, 0⟩ 2 2 1 0, .vstr ⟨0, 0⟩ 1 2 1 0, .vstr ⟨0, 0⟩ 2 2 1 0] : List Instr).all
      (fun i => meets (at_ .V) .V i (fun s => free s && ([0, 1, 2] : List (BitVec 2)).all (fun u =>
        rowAddrOk (rowBuf u) (s.cur.getX 2) && !(s.unitRow (rowBuf u) 0 (fun _ => .load)).isEmpty &&
          ((s.withCur (s.cur.setP 1 0 |> fun c => { c with vgov := 1 })).unitRow (rowBuf u) 0 (fun _ => .load)).isEmpty))) = true ∧
    (let s := set .V (fun c => c.setX 2 8)
     ([.vldr ⟨0, 0⟩ 0 2 1 0, .vstr ⟨0, 0⟩ 1 2 1 0] : List Instr).all (fun i => meets s .V i (fun s => free s &&
       !rowAddrOk .W (s.cur.getX 2) && !rowAddrOk .A (s.cur.getX 2)))) = true ∧
    ([rowBuf 0, rowBuf 1, rowBuf 2].count .W == 1) = true ∧
    (let s := (at_ .V).withCur ((at_ .V).cur.setP 1 1)
     ([.vgath ⟨0, 0⟩ 2 0 1 3 2 0, .vscat ⟨0, 0⟩ 2 0 1 3 2 0] : List Instr).all (fun i => meets s .V i (fun s => free s &&
       s.cur.gathOk .A (s.cur.getX 2) (s.cur.vr 0 3) 4))) = true ∧
    (let s := (at_ .V).withCur ((at_ .V).cur.setX 2 0x7FFFF)
     meets s .V (.vgath ⟨0, 0⟩ 2 0 1 3 2 0) (fun s => !s.cur.gathOk (gathBuf 0) (s.cur.getX 2) (s.cur.vr 0 3) 4)) = true ∧
    meets (at_ .V) .V (.vscat ⟨0, 0⟩ 2 1 1 3 2 0) free = true := by decide +kernel

theorem test_meets_vector_global :
    (let s := (at_ .V).withCur { (at_ .V).cur.setP 1 1 with vgov := 1 }
     ([.vldG ⟨0, 0⟩ 2 2 1 0 0 0 0, .vldSg ⟨0, 0⟩ 2 2 1 0 0 0, .vstG ⟨0, 0⟩ 2 2 1 0 0 0 0, .vstG ⟨0, 0⟩ 2 2 1 0 1 0 0,
       .vstSg ⟨0, 0⟩ 2 2 1 0 0 0] : List Instr).all (fun i => meets s .V i (fun s => free s &&
       (match s.gRow (s.cur.getX 2) 16 (fun _ => .load), s.sgRow (s.cur.getX 2) 16 (fun _ => .load) with
        | .ok x, .ok y => x.length == 1 && y.length == 1
        | _, _ => false)))) = true ∧
    (let s := (at_ .V).withCur { (at_ .V).cur.setX 2 0x0F00000000000000 with vgov := 0 }
     ([.vldG ⟨0, 0⟩ 2 2 1 0 0 0 0, .vldSg ⟨0, 0⟩ 2 2 1 0 0 0, .vstG ⟨0, 0⟩ 2 2 1 0 0 0 0,
       .vstSg ⟨0, 0⟩ 2 2 1 0 0 0] : List Instr).all (fun i => meets s .V i (fun s => free s &&
       (match s.gRow (s.cur.getX 2) 16 (fun _ => .load), s.sgRow (s.cur.getX 2) 16 (fun _ => .load) with
        | .error (.addressing, _), .error (.accessList, _) => true
        | _, _ => false)))) = true := by decide +kernel
/-! ### Witnesses: states that meet the hypotheses of the statements about events -/

/-- Registers set to numbers. -/
def withRegs (s : State) (l : List (Nat × Nat)) : State := l.foldl (fun s e => s.setReg e.1 (BitVec.ofNat 64 e.2)) s

/-- A device at phase 5 whose core 0 runs a task. -/
def dev : State := withRegs (at_ .C) [(mgtStat, 5)]

/-- Partition 0 has page tables: G: addresses below 2^29 are the device addresses, readable, writable and executable. The
tables stand at 0 and 0x10000, in tiles 0 and 64, which are resident, as tile 65 is. -/
def mapped : State := { withRegs dev [(xltRoot 0, 1), (xltBound 0 0, 2 ^ 20)] with
  mem := [(0, 3), (2, 1), (0x10000, 0x6D)]
  l2 := [⟨0, 0, false, false, false⟩, ⟨64, 0, false, false, false⟩, ⟨65, 0, false, true, false⟩] }

/-- The core with one access handed over. -/
def accessed (s : State) (sp : Spec) (cls : Nat) (st : Stream) : State :=
  s.withCur (s.cur.launch st [sp] cls 0 0 .nothing true 0)

/-- The access that a core has pending. -/
def firstAcc (s : State) : Acc := s.cur.acc.headD ⟨0, 0, .C, .G, 0, 0, 0, .load, 0, 0, 0, 0, false⟩

theorem observe_keeps (s : State) (p tile : Nat) : (s.observe p tile).l2 = s.l2 ∧ (s.observe p tile).reseal = s.reseal ∧
    (s.observe p tile).failing = s.failing := by
  unfold State.observe; simp only []; split <;> (try split) <;> exact ⟨rfl, rfl, rfl⟩

theorem walked_keeps (p : Nat) : ∀ (tiles : List Nat) (s : State), (∀ t ∈ tiles, s.resident t = true) →
    (s.walked p tiles).l2 = s.l2 ∧ (s.walked p tiles).reseal = s.reseal ∧ (s.walked p tiles).failing = s.failing
  | [], _, _ => ⟨rfl, rfl, rfl⟩
  | t :: ts, s, h => by
    have ho := observe_keeps s p t
    have hi := walked_keeps p ts (s.observe p t) (fun u hu => by
      have := h u (List.mem_cons_of_mem _ hu)
      unfold State.resident at this ⊢; rw [ho.1]; exact this)
    have hw : s.walked p (t :: ts) = (s.observe p t).walked p ts := by
      simp [State.walked, h t List.mem_cons_self]
    rw [hw]; exact ⟨hi.1.trans ho.1, hi.2.1.trans ho.2.1, hi.2.2.trans ho.2.2⟩

theorem resident_of_l2 {s t : State} (h : t.l2 = s.l2) (tile : Nat) : t.resident tile = s.resident tile := by
  unfold State.resident; rw [h]

theorem reach_resident (s : State) (p tile pol : Nat) (whole sure : Bool) (h : s.reseal = []) (hr : s.resident tile = true) :
    ∃ t, s.reach p tile pol whole sure = .ok t [] := by
  have hs : s.settle tile = s := by simp [State.settle, State.resealing, h]
  have ho := (resident_of_l2 (observe_keeps s p tile).1 tile).trans hr
  simp [State.reach, hs, ho]

/-- An access to a resident tile of device memory whose tables are resident answers. -/
theorem gAcc_resident (s : State) (ag : Agent) (p va n pol : Nat) (k : AccKind) (whole : Bool) (x : Xlat)
    (hv : va + n ≤ 2 ^ 56) (ht : s.translate ag.who.1 p va k.xkind n = .ok x) (hh : x.host = false) (h : s.reseal = [])
    (hf : s.failing = []) (hw : (s.xlatTiles ag.who.1 p va k.xkind).all s.resident = true)
    (hr : s.resident (x.pa / 1024) = true) : ∃ t bs, s.gAcc ag p va n pol k whole = .ok t bs := by
  have hk := walked_keeps p (s.xlatTiles ag.who.1 p va k.xkind) s (by simpa [List.all_eq_true] using hw)
  obtain ⟨t', ht'⟩ := reach_resident ((s.walked p (s.xlatTiles ag.who.1 p va k.xkind)).cache ag.who.1 x) p (x.pa / 1024)
    (appliedPol x.cmax pol) whole false (hk.2.1.trans h)
    ((resident_of_l2 (s := s) (show _ = s.l2 from hk.1) _).trans hr)
  have hres : ((s.walked p (s.xlatTiles ag.who.1 p va k.xkind)).cache ag.who.1 x).resident (x.pa / 1024) = true :=
    (resident_of_l2 (s := s) (show _ = s.l2 from hk.1) _).trans hr
  have hfl : ((s.walked p (s.xlatTiles ag.who.1 p va k.xkind)).cache ag.who.1 x).failedFill (x.pa / 1024) ag.who = false := by
    have : ((s.walked p (s.xlatTiles ag.who.1 p va k.xkind)).cache ag.who.1 x).failing = [] := (show _ = s.failing from hk.2.2).trans hf
    simp [State.failedFill, this]
  unfold State.gAcc
  rw [if_neg (Nat.not_lt.mpr hv)]
  simp [State.xlate, ht, hh, ht', State.filling, hres, hfl]

/-- Whether an access of `n` bytes of an agent to device memory answers, by conditions that are decided. -/
def answers (s : State) (ag : Agent) (p va n : Nat) (k : AccKind) : Bool :=
  decide (va + n ≤ 2 ^ 56) && s.reseal.isEmpty && s.failing.isEmpty && (s.xlatTiles ag.who.1 p va k.xkind).all s.resident &&
    (match s.translate ag.who.1 p va k.xkind n with
     | .ok x => !x.host && s.resident (x.pa / 1024) && decide (x.pa % 1024 + n ≤ 1024)
     | .error _ => false)

theorem gAcc_answers (s : State) (ag : Agent) (p va n pol : Nat) (k : AccKind) (whole : Bool) (h : answers s ag p va n k = true) :
    (∃ t bs, s.gAcc ag p va n pol k whole = .ok t bs) ∧
    ∃ x, s.translate ag.who.1 p va k.xkind n = .ok x ∧ x.host = false ∧ x.pa % 1024 + n ≤ 1024 ∧
      s.resealing (x.pa / 1024) = false := by
  unfold answers at h
  simp only [Bool.and_eq_true, decide_eq_true_eq] at h
  obtain ⟨⟨⟨⟨h1, h2⟩, h3⟩, h4⟩, h5⟩ := h
  split at h5
  · rename_i x hx
    simp only [Bool.and_eq_true, decide_eq_true_eq, Bool.not_eq_true'] at h5
    have h2' : s.reseal = [] := by simpa using h2
    exact ⟨gAcc_resident s ag p va n pol k whole x h1 hx h5.1.1 h2' (by simpa using h3) h4 h5.1.2,
      x, hx, h5.1.1, h5.2, by simp [State.resealing, h2']⟩
  · simp at h5

/-- A command's granule of such an access translates. -/
theorem prepare_answers (s : State) (who : Nat × Nat) (p va n : Nat) (k : XKind) (whole : Bool) (a : AccKind) (ha : a.xkind = k)
    (h : answers s ⟨who, none, none⟩ p va n a = true) : ∃ t x, s.prepare who p va n k whole = .ok t x := by
  obtain ⟨-, x, hx, hh, -, -⟩ := gAcc_answers s ⟨who, none, none⟩ p va n 0 a false h
  unfold answers at h
  simp only [Bool.and_eq_true, decide_eq_true_eq] at h
  obtain ⟨⟨⟨⟨h1, h2⟩, h3⟩, h4⟩, h5⟩ := h
  rw [show s.translate _ _ _ _ _ = _ from hx] at h5
  simp only [Bool.and_eq_true] at h5
  rw [ha] at hx h4
  have hk := walked_keeps p (s.xlatTiles who.1 p va k) s (by simpa [List.all_eq_true] using h4)
  have hres : ((s.walked p (s.xlatTiles who.1 p va k)).cache who.1 x).resident (x.pa / 1024) = true :=
    (resident_of_l2 (s := s) (show _ = s.l2 from hk.1) _).trans h5.1.2
  have hs : ((s.walked p (s.xlatTiles who.1 p va k)).cache who.1 x).settle (x.pa / 1024) =
      (s.walked p (s.xlatTiles who.1 p va k)).cache who.1 x := by
    have : ((s.walked p (s.xlatTiles who.1 p va k)).cache who.1 x).reseal = [] :=
      (show _ = s.reseal from hk.2.1).trans (by simpa using h2)
    simp [State.settle, State.resealing, this]
  have hf : ((s.walked p (s.xlatTiles who.1 p va k)).cache who.1 x).failedFill (x.pa / 1024) who = false := by
    have : ((s.walked p (s.xlatTiles who.1 p va k)).cache who.1 x).failing = [] :=
      (show _ = s.failing from hk.2.2).trans (by simpa using h3)
    simp [State.failedFill, this]
  unfold State.prepare
  rw [if_neg (Nat.not_lt.mpr h1)]
  simp [State.xlate, show s.translate who.1 p va k n = .ok x from hx, hh, hs, hf, hres]

/-- The granule store that the accesses below make. -/
def storing : State := accessed mapped ⟨.G, 0x10408, 4, 0, .store [1, 2, 3, 4]⟩ 1 .C

/-- An entry of another instruction in the log, of the same class. -/
def logged : SideEntry := ⟨{ firstAcc storing with id := 77, grp := 9 }, .translation, true⟩

theorem test_meets_accesses :
    (let s := accessed dev ⟨.S 0, 8, 4, 0, .load⟩ 1 .C
     let a := firstAcc s
     a.space = .S 0 ∧ s.mayPerform 0 a = true ∧ s.cur.acc.find? (fun b => b.id == a.id) = some a ∧ s.cur.slog = []) ∧
    (let a := firstAcc storing
     a.space = .G ∧ storing.mayPerform 0 a = true ∧ storing.pastEnd 0 a = false ∧ a.logs = true ∧ storing.memWf = true ∧
     answers storing (storing.agentOf 0 a) (storing.partOf 0) a.addr a.n a.kind = true) ∧
    (let s := accessed dev ⟨.G, 0x10408, 4, 0, .store [1, 2, 3, 4]⟩ 1 .C
     let a := firstAcc s
     a.space = .G ∧ s.mayPerform 0 a = true ∧ s.pastEnd 0 a = false ∧
     (match s.gAcc (s.agentOf 0 a) (s.partOf 0) a.addr a.n a.pol a.kind false with
      | .fault _ c => c == .translation | _ => false) = true) ∧
    (let a := { firstAcc storing with id := 99 }
     let s := storing.withCur { storing.cur with acc := [a], slog := [logged] }
     s.cur.slog.find? (fun e => e.acc.st == a.st && e.acc.cls == a.cls && e.acc.grp != a.grp && decide (e.acc.id < a.id)) =
       some logged ∧ s.cur.acc.find? (fun b => b.id == 99) = some a ∧ s.mayPerform 0 a = true ∧ a.logs = true) ∧
    (let s := dev.withCur { dev.cur with slog := [⟨{ firstAcc storing with space := .G }, .translation, true⟩] }
     (s.core 0).task.isSome = true ∧ s.partOf 0 = 0) ∧
    (let s := accessed dev ⟨.B .A, 256, 4, 0, .store [1, 2, 3, 4]⟩ 16 .V
     (firstAcc s).space = .B .A ∧ (firstAcc s).kind = .store [1, 2, 3, 4]) := by decide +kernel

/-- A logged store whose page is there now. -/
def replaying : State := storing.withCur { storing.cur with acc := [], slog := [⟨firstAcc storing, .translation, true⟩] }

theorem test_meets_accesses_answer :
    (∃ t bs, storing.gAcc (storing.agentOf 0 (firstAcc storing)) (storing.partOf 0) 0x10408 4 0 (.store [1, 2, 3, 4]) false =
      .ok t bs) ∧
    ((replaying.core 0).slog[0]? = some ⟨firstAcc storing, .translation, true⟩ ∧
      (replaying.core 0).mayReplay 0 0 ⟨firstAcc storing, .translation, true⟩ = true ∧ (firstAcc storing).isRelease = false) ∧
    ∃ t bs, replaying.gAcc (replaying.agentOf 0 (firstAcc storing)) (replaying.partOf 0) 0x10408 4 0 (.store [1, 2, 3, 4]) false =
      .ok t bs :=
  ⟨(gAcc_answers storing _ _ _ _ 0 _ false (by decide +kernel)).1, by decide +kernel,
    (gAcc_answers replaying _ _ _ _ 0 _ false (by decide +kernel)).1⟩

/-- A flight of two accesses, of which one is left after `k`. -/
def flown (k : Nat) (dest : Dest) : Core :=
  { Core.reset with
    acc := (List.range k).map (fun i => ⟨i, 3, .C, .G, 8 * i, 8, 8 * i, .load, 1, 0, 0, 0, false⟩)
    fl := [⟨3, .C, dest, [], [], 0, 0⟩] }

/-- Retiring: the last access of an instruction, and one before the last; and what a load, a pair and a row collect. -/
theorem test_meets_retires :
    (let c := flown 1 (.sreg 5 8 false)
     let a := c.acc.headD (firstAcc dev)
     (c.fl.find? (fun f => f.grp == a.grp)).isSome = true ∧
     (∀ b ∈ c.acc.filter (fun b => b.id != a.id), b.grp ≠ a.grp) ∧ ∀ e ∈ c.slog.filter (fun e => e.acc.id != a.id), e.acc.grp ≠ a.grp) ∧
    (let c := flown 2 (.spair 4)
     let a := c.acc.headD (firstAcc dev)
     (c.fl.find? (fun f => f.grp == a.grp)).isSome = true ∧ ∃ b ∈ c.acc.filter (fun b => b.id != a.id), b.grp = a.grp) ∧
    (let f : Flight := ⟨3, .C, .sreg 31 2 true, addressed 0 [0x34, 0xF2], [], 0, 0⟩
     f.dest = .sreg 31 2 true ∧ f.got = addressed 0 [0x34, 0xF2] ∧
     ((flown 1 f.dest).deposit f).getS 31 = 0xFFFFFFFFFFFFF234) ∧
    (let f : Flight := ⟨3, .C, .spair 30, addressed 0 ((List.range 16).map (BitVec.ofNat 8)), [], 0, 0⟩
     f.dest = .spair 30 ∧ ((flown 1 f.dest).deposit f).getS 31 = 0x0F0E0D0C0B0A0908) ∧
    (let f : Flight := ⟨3, .V, .vrow 7, [(255, 0xAB)], [], 0, 0⟩
     f.dest = .vrow 7 ∧ (flown 1 f.dest).rowsOk = true ∧ rowByte (((flown 1 f.dest).deposit f).row 7) 255 = 0xAB) := by
  decide +kernel

/-- Dirty bytes and stores: an access that answers keeps the invariant and writes its bytes; a command's granule too. -/
theorem test_meets_stores :
    (storing.memWf = true ∧ storing.dirtyOk = true ∧ storing.resident 5 = false) ∧
    (∀ d, (AccKind.store [1, 2, 3, 4]).newBytes 4 (storing.devBytes 0x10408 4) = some d → d.length = 4) ∧
    (∃ t bs, storing.gAcc (storing.agentOf 0 (firstAcc storing)) 0 0x10408 4 0 (.store [1, 2, 3, 4]) false = .ok t bs) ∧
    (∃ x, storing.translate 0 0 0x10408 .write 4 = .ok x ∧ x.host = false ∧ x.pa % 1024 + 4 ≤ 1024 ∧
      storing.resealing (x.pa / 1024) = false) ∧
    (∃ t bs, mapped.gAcc (Agent.outside 0 0) 0 0x1040F 1 0 .load false = .ok t bs) ∧
    (∃ t bs, mapped.readAt (Agent.outside 0 0) 0 0x10400 4 0 ⟨false, 0x10400, 3⟩ = .ok t bs) ∧
    (∃ t bs, mapped.writeTo (Agent.outside 0 0) 0 0x10400 0 ⟨false, 0x107FC, 3⟩ [1, 2, 3, 4] false = .ok t bs) ∧
    mapped.resealing 65 = false ∧ (0x107FC % 1024 + 4 ≤ 1024) := by
  have h := gAcc_answers storing (storing.agentOf 0 (firstAcc storing)) 0 0x10408 4 0 (.store [1, 2, 3, 4]) false (by decide +kernel)
  have ho : mapped.outlived 0 0x10400 = false := by decide +kernel
  obtain ⟨t, ht⟩ := reach_resident mapped 0 65 (appliedPol 3 0) false true (by decide) (by decide +kernel)
  refine ⟨by decide +kernel, fun d hd => ?_, h.1, h.2,
    (gAcc_answers mapped (Agent.outside 0 0) 0 0x1040F 1 0 .load false (by decide +kernel)).1, ?_, ?_, by decide +kernel, by decide⟩
  · simp [AccKind.newBytes] at hd; subst hd; rfl
  · simp [State.readAt, ho, ht]
  · simp [State.writeTo, ho, ht]

/-- A command of core 0. -/
def command (op : LOp) (dst src shape comp : BitVec 64) : LCmd :=
  { LForm.make { op := op, dims := if op = .cpl then 2 else 1, g := 0, c := 0, s := 0 } .nop Core.reset none with
    id := 5, dst := dst, src := src, shape := shape, comp := comp }

/-- The device with the command in flight. -/
def flying (s : State) (l : LCmd) : State := s.withCur { s.cur with lcmds := [l] }

/-- A granule of G: that has not translated. -/
def grainG (a : Nat) : Grain := ⟨.G, a, 4, 0, none, false⟩

theorem test_meets_load_commands :
    (let l := command .cpl bufW bufS 0x20000010 (0x0400000200000000 + 2 ^ 34)
     let s := flying dev l
     let r := s.lOn 0 l
     (s.core 0).lcmd 5 = some l ∧ l.released = false ∧ l.releases = true ∧ l.faulted = none ∧
     r.2.mayRelease = true ∧ r.2.faulted = none ∧ (r.1.core 0).mayComplete r.1.clock l.incS = true ∧ l.incS ≠ 0) ∧
    (let l := { command .cpl bufW bufS 0x20000010 0 with work := { Work.idle with marked := [(0, 64, .translation)] } }
     let r := (flying dev l).lOn 0 l
     r.2.mayRelease = false) ∧
    (let l := { command .cp bufW bufS 16 0x0400000200000000 with released := true }
     let s := flying dev l
     let r := s.lOn 0 l
     (s.core 0).lcmd 5 = some l ∧ l.delivered = false ∧ l.releases = true ∧ l.faulted = none ∧
     r.2.arrived = true ∧ (r.1.core 0).mayComplete r.1.clock l.incD = true) ∧
    (let l := { command .cp bufW bufS 16 0x0400000200000000 with released := true, work := { Work.idle with marked := [(0, 64, .translation)] } }
     ((flying dev l).lOn 0 l).2.arrived = false) ∧
    (let l := { command .cp bufW bufS 16 0 with released := true, delivered := true }
     let s := flying dev l
     (s.core 0).lcmd 5 = some l ∧ l.faulted = none ∧ (s.landSome (s.lServer 0 l) l.work).2 = l.work) ∧
    (let l := { command .pfBulk 0 0x10000 16 0 with todo := 1 }
     let s := flying mapped l
     let r := s.tilesOn 0 l false
     (s.core 0).lcmd 5 = some l ∧ l.delivered = false ∧ l.releases = false ∧ r.2.2 = none ∧ r.2.1.tilesDone = true ∧
     (r.1.core 0).mayComplete r.1.clock l.incD = true) ∧
    (let l := { command .pfBulk 0 0x10800 16 0 with todo := 1, tiles := [(0, 66)] }
     let s := { flying mapped l with fills := [⟨66, 0, false⟩] }
     let r := s.tilesOn 0 l false
     r.2.2 = none ∧ r.2.1.tilesDone = false) ∧
    (let l := { command .lfill bufW 0 16 0x0400000200000000 with delivered := true }
     (flying dev l).cur.lcmd 5 = some l ∧ l.mayNotify = true ∧ l.op ≠ .cpr ∧ l.op ≠ .cpm) := by
  refine ⟨?_, ?_, ?_, ?_, ?_, ?_, ?_, ?_⟩ <;> decide +kernel

theorem turned_nil {α : Type} (n : Nat) : turned n ([] : List α) = [] := by simp [turned]

theorem turned_one {α : Type} (n : Nat) (x : α) : turned n [x] = [x] := by
  rcases Nat.mod_two_eq_zero_or_one n with h | h <;> simp [turned, h]

/-- A fault of the one granule that is due. -/
theorem workFault_one (s : State) (sv : Server) (w : Work) (g : Grain) (h : w.srcs = [g]) (hd : w.dsts = []) (r : State × Cause × Nat)
    (hf : s.xlateFault sv.reads.who (s.partOf sv.v) .read g = some r) : s.workFault sv w = some r := by
  simp [State.workFault, h, hd, turned_nil, turned_one, hf]

theorem test_meets_load_faults :
    (let l := command .pfBulk 0 0x10000 16 0
     let s := flying dev l
     let r := s.tilesOn 0 l true
     (s.core 0).lcmd 5 = some l ∧ l.delivered = false ∧ l.released = false ∧ l.faulted = none ∧
     r.2.2 = some (some .translation, 0x10000)) ∧
    (let l := { command .lgath bufW 0 (3 + 1 * 2 ^ 20) 0 with work := { Work.idle with dsts := [grainG 64] } }
     let s := flying dev l
     (s.core 0).lcmd 5 = some l ∧ l.isGath = true ∧
     (match s.gatherFault (s.lServer 0 l) l.gather l.retry.work with
      | some (_, _, c, a) => c == .translation && a == 64 | none => false) = true) ∧
    (let l := { command .cp bufW 64 16 0 with work := { Work.idle with srcs := [grainG 64] } }
     let s := flying dev l
     (s.core 0).lcmd 5 = some l ∧ l.isGath = false ∧ l.op ≠ .pfBulk ∧ l.op ≠ .pfRel) := by decide +kernel

theorem test_meets_load_fault_answers :
    let l := { command .cp bufW 64 16 0 with work := { Work.idle with srcs := [grainG 64] } }
    ∃ t, (flying dev l).workFault ((flying dev l).lServer 0 l) l.work = some (t, .translation, 64) := by
  intro l
  have h : ∃ t, (flying dev l).xlateFault ((flying dev l).lServer 0 l).reads.who
      ((flying dev l).partOf ((flying dev l).lServer 0 l).v) .read (grainG 64) = some (t, .translation, 64) := by
    have hd : (match (flying dev l).xlateFault ((flying dev l).lServer 0 l).reads.who
      ((flying dev l).partOf ((flying dev l).lServer 0 l).v) .read (grainG 64) with
      | some (_, c, a) => c == .translation && a == 64 | none => false) = true := by decide +kernel
    split at hd
    · rename_i t c a hx; simp at hd; exact ⟨t, by rw [hx, hd.1, hd.2]⟩
    · simp at hd
  obtain ⟨t, ht⟩ := h
  exact ⟨t, workFault_one _ _ _ (grainG 64) rfl rfl _ ht⟩
/-- G: addresses from 2^29 on are host memory, and the page at 2^29 has been granted to core 0. -/
def hosted : State := { withRegs mapped [(xltCfg 0, 2 ^ 25 + 15)] with
  mem := [(0, 3), (2, 1), (0x10000, 0x6D), (0x10008, 0x15)]
  tlb := [⟨0, 0, 2 ^ 29, 2 ^ 16, true, 0, 0, 0, 0, false, true, true, false, 0⟩] }

/-- A started command of core 0 that has left its slot. -/
def engCmd (cls cmd desc : Nat) (work : Work) : ECmd :=
  { id := 9, eng := 0, entry := 0, core := 0, hdr := BitVec.ofNat 64 (cls * 2 ^ 61 + cmd * 2 ^ 58), doff := 0,
    desc := BitVec.ofNat 256 desc, word := 4096, occupying := false, ending := false, started := true, released := false,
    delivered := false, dead := false, work := work, faulted := false, step := 0, seq := 0 }

def engaged (s : State) (c : ECmd) : State := { s with ecmds := [c] }

/-- Work whose source has been read. -/
def readWork (d : List Byte) : Work := { Work.idle with got := dataAt 0 d }

theorem test_meets_rows :
    ([(0, 1), (1, 2), (2, 3), (3, 1), (0, 2 ^ 20 + 1), (1, 2 ^ 20 + 2), (2, 2 ^ 20 + 3), (3, 2 ^ 20 + 253)] : List (Nat × Nat)).all
      (fun e =>
        let c := engCmd 0 e.1 (2 ^ 11) { Work.idle with idx := [e.2] }
        let s := engaged dev c
        let (t, w) := s.moveOn (s.eServer c) c.work
        s.ecmd 9 == some c && s.servable c 0 e.1 && (oneOf t.tick 28 (w.idx.filter w.rowReady) == some e.2)) = true ∧
    ([0, 1, 2, 3].all fun m =>
      let c := engCmd 0 m (2 ^ 11) Work.idle
      let s := engaged dev c
      let (t, w) := s.moveOn (s.eServer c) c.work
      s.servable c 0 m && (oneOf t.tick 28 (w.idx.filter w.rowReady) == none)) = true := by
  decide +kernel

theorem test_meets_row_phases :
    (let w : Work := { Work.idle with got := dataAt (rowPos 63) (List.replicate 256 1) ++ dataAt (rowPos 63 + 512) [1, 2, 3, 4] }
     w.data (rowPos 63) 256 = some (List.replicate 256 1) ∧ w.data (rowPos 63 + 512) 4 = some [1, 2, 3, 4]) ∧
    (let w : Work := { Work.idle with got := dataAt (rowPos 0) (List.replicate 256 1) }
     w.data (rowPos 0) 256 = some (List.replicate 256 1) ∧ w.data (rowPos 0 + 512) 4 = none) ∧
    ((fmt32.decode 0x7FC00000).isNan = true ∧ fmt32.decode 0x7F800000 = .inf false ∧ fmt32.decode 0xFF800000 = .inf true ∧
     (fmt32.decode 0x3F800000).isNan = false ∧ fmt32.decode 0x3F800000 = .fin false (2 ^ 23) (2 ^ 23) ∧
     (0x7FC00000 : Nat) ∈ [0x7FC00000, 0] ∧ (1 : Nat) < [0x7FC00000, 0].length) ∧
    (([(5, 0), (5, 1), (0x7FC00000, 2)] : List (Nat × Nat)).Pairwise (fun a b => a.2 < b.2)) ∧
    (let c := engCmd 2 0 (3 * 2 ^ 128 + 2 * 2 ^ 160) Work.idle
     (wordsOf (List.replicate 12 0)).take (c.f 128 13) = [0, 0, 0] ∧ c.cmd = 0 ∧ (engCmd 2 1 0 Work.idle).cmd ≠ 0) := by
  decide +kernel

theorem test_meets_engine_commands :
    (([0, 1] : List Nat).all fun m =>
      let c := engCmd 1 m (2 ^ 128 + 64) Work.idle
      let s := engaged dev c
      s.ecmd 9 == some c && c.cls == 1 && c.cmd == m && c.started && !c.delivered) = true ∧
    (([0, 1] : List Nat).all fun m =>
      let c := engCmd 2 m (2 ^ 128) (readWork (List.replicate (4 * (m + 1)) 1))
      let s := engaged dev c
      let w := (s.workOn (s.eServer c) c.work).2
      s.servable c 2 m && c.step == 0 && w.srcs.isEmpty && (w.data 0 (4 * c.f 128 13 * (m + 1))).isSome) = true ∧
    (([0, 1] : List Nat).all fun m =>
      let c := { engCmd 2 m (2 ^ 128) Work.idle with step := 1 }
      (engaged dev c).servable c 2 m && c.step != 0) = true ∧
    (engaged dev (engCmd 3 0 (4 * 2 ^ 64) Work.idle)).servable (engCmd 3 0 (4 * 2 ^ 64) Work.idle) 3 0 = true ∧
    (([0, 1, 2] : List Nat).all fun m =>
      let c := engCmd 4 m (2 ^ 16 + 2 ^ 29 * 2 ^ 64 + 2 ^ 29 * 2 ^ 128 + 4 * 2 ^ 192) (readWork [1, 2, 3, 4])
      let s := engaged dev c
      let w := (s.workOn (s.eServer c) c.work).2
      s.servable c 4 m && c.step == 0 && w.srcs.isEmpty && (w.data 0 (c.f 192 17)).isSome) = true ∧
    (([0, 1, 2] : List Nat).all fun m =>
      let c := { engCmd 4 m (2 ^ 16 + 2 ^ 29 * 2 ^ 64 + 2 ^ 29 * 2 ^ 128 + 4 * 2 ^ 192) Work.idle with step := 1 }
      let s := { engaged dev c with
        nodes := [(0, Node.fresh 0 0 0 0 0 0 0 0 true)]
        contribs := [⟨0, 0, 1, 0, 0, c.shape, [1, 2, 3, 4], 4⟩] }
      let t := (s.workOn (s.eServer c) c.work).1
      s.servable c 4 m && decide (c.f 16 16 ≤ (t.contribsOf c).length) && (t.contribsOf c).all (fun x => x.shape == c.shape)) = true ∧
    (([0, 1] : List Nat).all fun m =>
      let c := engCmd 5 m (5 + 2 ^ 29 * 2 ^ 32 + 4 * 2 ^ 96) (readWork [1, 2, 3, 4])
      let s := { engaged dev c with ueConn := [(5, 2 ^ 40)] }
      let w := (s.workOn (s.eServer c) c.work).2
      s.servable c 5 m && connOpen (s.conn (c.f 0 24)) && c.step == 0 && w.srcs.isEmpty && (w.data 0 (c.f 96 17)).isSome) = true ∧
    (let c := engCmd 5 2 5 Work.idle
     let s := { engaged dev c with ueConn := [(5, 2 ^ 40)] }
     s.servable c 5 2 = true ∧ c.step = 0 ∧ connOpen (s.conn (c.f 0 24)) = true) ∧
    (3 < (engCmd 3 0 (4 * 2 ^ 64) Work.idle).f 64 8) := by
  refine ⟨?_, ?_, ?_, ?_, ?_, ?_, ?_, ?_, ?_⟩ <;> decide +kernel

theorem test_meets_engines :
    (let c := { engCmd 2 0 0 Work.idle with step := 1 }
     let s := engaged dev c
     s.ecmd 9 = some c ∧ c.started = true ∧ c.releases = true ∧ c.released = false ∧ c.dead = false ∧ c.sourceRead = true ∧
     c.passed = true ∧ (s.core 0).mayComplete s.clock (hdrIs c.hdr) = true) ∧
    (let c := { engCmd 2 0 0 Work.idle with step := 1, released := true }
     let s := engaged dev c
     c.delivered = false ∧ s.eArrived c = true ∧ c.cls ≠ 5 ∧ (s.core 0).mayComplete s.clock (hdrId c.hdr) = true) ∧
    (let c := { engCmd 2 0 0 Work.idle with occupying := true }
     c.started = true ∧ c.delivered = false ∧ c.occupying = true) ∧
    (let c := { engCmd 4 0 0 { Work.idle with dsts := [grainG 64] } with delivered := true }
     (engaged dev c).ecmd 9 = some c ∧ c.delivered = true) ∧
    (let s := { dev with engines := [(0, { Engine.asleep with wake := .waking })] }
     (s.engine 0).wake = .waking) ∧
    (let s := { dev with engines := [(0, { Engine.asleep with wake := .awake, marked := [3] })] }
     engExists 0 = true ∧ (s.engine 0).wake = .awake ∧ (s.engine 0).heldLap ≠ s.slot / 512 + 1 ∧ 1 ≤ s.freeSlots 0 ∧
     s.engFresh 0 = true ∧ nextMarked (domBase 0) (domSize 0) (s.engine 0).ptr (s.engine 0).marked = some 3 ∧
     (s.engine 0).wake ≠ .asleep ∧ s.engines.sorted = true) ∧
    (let s := { dev with slot := 1023, engines := [(0, { Engine.asleep with wake := .awake, holds := [⟨3, 511⟩, ⟨4, 512⟩] })] }
     (s.engine 0).holds = [⟨3, 511⟩, ⟨4, 512⟩] ∧ (511 + 512 ≤ s.slot) ∧ ¬ (512 + 512 ≤ s.slot)) ∧
    (let s := withRegs dev [(prtClAct, 0x80)]
     s.barOpen = true ∧ s.owner (engCluster 0) = some 0 ∧ s.changing (engCluster 0) = false ∧ engExists 0 = true ∧
     clsComb (engCls 0) = false ∧ (s.engine 0).leases.contains (.standing 0) = false ∧ engCls 0 < 6 ∧ s.capTurn = true ∧
     s.engFresh 0 = true) ∧
    ((2 ^ 16 / 2 ^ 16 ≠ 0) ∧ 6 ≤ engCls (6 * 2 ^ 7) ∧ (4000 : BitVec 64).toNat ≤ 4000 ∧ 4000 < (4001 : BitVec 64).toNat) := by
  refine ⟨?_, ?_, ?_, ?_, ?_, ?_, ?_, ?_, ?_⟩ <;> decide +kernel

/-- A granule of G: on a page that no table maps. -/
theorem test_meets_engine_faults :
    let c := engCmd 3 0 (4 * 2 ^ 64) { Work.idle with srcs := [grainG 64] }
    c.cls ≠ 1 ∧ (engaged dev c).servable c c.cls c.cmd = true ∧
    ∃ t, (engaged dev c).serviceFault c = some (t, c, .translation, 64) ∧ (t.core 0).st = .running := by
  intro c
  have h : ∃ t, (engaged dev c).xlateFault ((engaged dev c).eServer c).reads.who
      ((engaged dev c).partOf ((engaged dev c).eServer c).v) .read (grainG 64) = some (t, .translation, 64) ∧
      (t.core 0).st = .running := by
    have hd : (match (engaged dev c).xlateFault ((engaged dev c).eServer c).reads.who
      ((engaged dev c).partOf ((engaged dev c).eServer c).v) .read (grainG 64) with
      | some (t, d, a) => d == .translation && a == 64 && ((t.core 0).st == .running) | none => false) = true := by decide +kernel
    split at hd
    · rename_i t d a hx; simp at hd; exact ⟨t, by rw [hx, hd.1.1, hd.1.2], hd.2⟩
    · simp at hd
  obtain ⟨t, ht, hr⟩ := h
  refine ⟨by decide, by decide +kernel, t, ?_, hr⟩
  have hw := workFault_one (engaged dev c) ((engaged dev c).eServer c) c.work (grainG 64) rfl rfl _ ht
  unfold State.serviceFault
  rw [if_neg (by decide), hw]; rfl
/-- A node of job 3 of partition 0 in the given state. -/
def node (st : NSt) : Node := { Node.fresh 0 3 64 0 1 0 0 0 true with st := st }

def withNode (s : State) (x : Node) : State := { s with nodes := [(0, x)] }

/-- A launch record that declares one arena. -/
def oneArena : List (BitVec 64) := [BitVec.ofNat 64 (2 ^ 33)]

/-- A core in Exiting, all its streams ended. -/
def exiting (step : Nat) (succ : List (BitVec 256)) : State :=
  dev.withCur { dev.cur with
    st := .exiting, exitStep := step, succ := succ
    strm := Vector.ofFn fun i => { dev.cur.strm[i] with ended := true } }

theorem test_meets_nodes :
    (let x := { node .allocating with record := oneArena }
     let s := { withNode dev x with arenas := (List.range 64).map (fun k => (k, ⟨1023, false, 0, [], []⟩)) }
     s.nodeAt 0 = some x ∧ x.arenas = [] ∧ s.heldBack 0 x = false ∧ s.slotsFree x = false ∧
     ((List.range 64).all fun k => !(s.arenaSlot x.part k).live) = true) ∧
    (let x := { node .allocating with record := [] }
     let s := withNode dev x
     s.nodeAt 0 = some x ∧ s.heldBack 0 x = false ∧ s.slotsFree x = true ∧
     (State.birth x.part 0 (recArenas x.record) s).nodeAt 0 = some x) ∧
    (let x := { node .allocating with zeroing := [1025] }
     x.st = .allocating ∧ x.zeroing ≠ [] ∧ x.st ∈ [NSt.ready, NSt.allocating, NSt.placing]) ∧
    (let x := { node .placing with record := [BitVec.ofNat 64 (2 ^ 36), 0, 0, 0, 1] }
     let s := withRegs (withNode dev x) [(schCtrl, 1)]
     s.nodeAt 0 = some x ∧ s.places x.part = true ∧ s.placeHeld 0 x = false ∧ spansPackages x.record = false ∧ x.after = []) ∧
    (validPlace [2] [0, 1] = true ∧ ([0, 1] : List Nat).Nodup ∧ ([0, 1] : List Nat)[1]? = some 1 ∧ 5 < prodCounts [2, 3]) ∧
    (let s := { withNode (exiting 1 []) (node .running) with ecmds := [] }
     (s.core 0).st = .exiting ∧ (s.core 0).task = some Task.probe ∧ (s.core 0).exitStep ≤ 2 ∧ (s.core 0).allEnded = true ∧
     s.exitDrained 0 = true ∧ (s.core 0).succ = [] ∧ s.nodeAt Task.probe.node = some (node .running)) ∧
    (let s := { withNode (exiting 1 [7]) (node .running) with ecmds := [engCmd 2 0 0 Work.idle] }
     s.exitDrained 0 = false ∧ (s.core 0).succ ≠ [] ∧ { s with ecmds := [] }.exitDrained 0 = true) ∧
    (let s := withNode (exiting 3 []) (node .running)
     (s.core 0).exitStep = 3 ∧ s.succs.any (fun b => b.core == some 0) = false) ∧
    (let x := { node .running with cores := [0, 1] }
     (withNode dev x).nodeAt Task.probe.node = some x ∧ x.done.length + 1 < x.cores.length) ∧
    (let t := { Task.probe with budget := 0 }
     let s := dev.withCur { dev.cur with task := some t }
     (s.core 0).st = .running ∧ t.had + 1000 * t.budget ≤ (s.core 0).used t s.slot) ∧
    (let s := dev.withCur { dev.cur with st := .placed, strm := Vector.ofFn fun i => { dev.cur.strm[i] with ended := true } }
     (s.core 0).nothing = true) := by decide +kernel

theorem test_meets_packets :
    (let b : Succ := ⟨3, 0, BitVec.ofNat 256 (2 ^ 96 + 64), [], 0, none, 0⟩
     let s := { dev with succs := [b] }
     s.succs[0]? = some b ∧ (s.jobAt b.part b.job).failed = false ∧ blkCheck b.block b.set = 0 ∧
     s.homePkg b.part (blkKey b.block) = s.self) ∧
    (let s := { dev with jobs := [(3, ⟨1, 0, true⟩)] }
     (s.jobAt 0 3).failed = true ∧ s.jobs.sorted = true ∧ (s.jobAt 0 3).count ≠ 0) ∧
    (let s := { dev with inbox := [(1, 0, .enqueue 3 5), (2, 0, .enqueueAck 3), (1, 1, .ready 3 64 7),
        (4, 0, .gangComplete 3 7), (1, 0, .enqueueAck 3)], nodes := [(0, { node .running with inst := 7 })] }
     s.taken 0 = some (1, 0, .enqueue 3 5) ∧ s.taken 1 = some (2, 0, .enqueueAck 3) ∧
     s.taken 2 = some (1, 1, .ready 3 64 7) ∧ (s.dropMsg 2).newEntry 0 = some 1 ∧ s.rangeChanging 1 = false ∧
     s.taken 3 = some (4, 0, .gangComplete 3 7) ∧ s.taken 4 = none ∧
     s.nodes.find? (fun e => e.2.part == 0 && e.2.job == 3 && e.2.inst == 7) = some (0, { node .running with inst := 7 }) ∧
     s.nodes.find? (fun e => e.2.part == 0 && e.2.job == 3 && e.2.inst == 8) = none) ∧
    (dev.barOpen = true ∧ dev.nodes.any (fun e => e.2.part == 0) = false ∧ dev.arenas.sorted = true) := by decide +kernel

/-- Slot 2 serves queue 5 of partition 0, job 3, 2^4 entries, in host memory. -/
def queued : State :=
  withRegs dev [(qsCfg 2, 5 + 4 * 2 ^ 12 + 2 ^ 23 + 3 * 2 ^ 24), (qsBase 2, 2 ^ 63 + 2 ^ 40)]

theorem test_meets_queues :
    (queued.boundSlot 5 = some 2 ∧ queued.boundSlot 6 = none ∧ queued.qValid 2 = true ∧ queued.qPart 2 = 0 ∧
     queued.qJob 2 = 3 ∧ Tab.get Tdi.unlocked queued.tdi 0 ≠ Tdi.error ∧ queued.others 0 = [] ∧
     (queued.qslot 2).doneDue = false ∧ queued.qErr 2 = false ∧ (queued.jobAt 0 3).failed = false ∧
     (queued.qslot 2).headDue = false ∧ (queued.qslot 2).leaving = none ∧ queued.pending (queued.qid 2) = false ∧
     (queued.qslot 2).known = false ∧ queued.qslots.sorted = true ∧ queued.regF (qsCfg 2) 22 1 ≠ 1 ∧ queued.barOpen = true) ∧
    (({ queued with qslots := [(2, { QSlot.empty with doneDue := true })] }.qslot 2).doneDue = true ∧
     ({ queued with qslots := [(2, { QSlot.empty with due := true })] }.qslot 2).due = true ∧
     (let q := { QSlot.empty with known := true, tail := 1 }
      q.due = false ∧ q.doneDue = false ∧ q.head ≠ q.tail) ∧
     (let q := { QSlot.empty with headDue := true }
      q.due = false ∧ q.head = q.tail) ∧
     (({ queued with qslots := [(2, { QSlot.empty with leaving := some 7 })] }.qslot 2).leaving = some 7) ∧
     (withRegs queued [(pendReg 5, 32)]).pending ((withRegs queued [(pendReg 5, 32)]).qid 2) = true) ∧
    (let s := { queued with qslots := [(2, { QSlot.empty with headDue := true })], tdi := [(0, .error)] }
     (s.qslot 2).headDue = true ∧ s.qErr 2 = false ∧
     (match s.qWrite 2 0 (leBytes 8 (s.qslot 2).head) with | .fault t _ => (t.qslot 2).headDue | _ => false) = true) ∧
    (let x : BitVec 64 := BitVec.ofNat 64 (6 + 4 * 2 ^ 12 + 2 ^ 23 + 3 * 2 ^ 24 + 2 ^ 17 + 2 ^ 63)
     cfgOk (x &&& cfgMask).toNat = true ∧ fld (x &&& cfgMask).toNat 23 1 = 1 ∧
     queued.boundSlot (fld (x &&& cfgMask).toNat 0 12) = none ∧ queued.qValid 2 = true ∧
     queued.qid 2 ≠ fld (x &&& cfgMask).toNat 0 12 ∧ queued.regF (qsCfg 2) 22 1 = 0 ∧ dev.qValid 2 = false ∧
     Tab.get Tdi.unlocked dev.tdi (fld (x &&& cfgMask).toNat 0 12 / 128) ≠ Tdi.error ∧
     ((withRegs dev [(pendReg 6, 64)]).setReg (qsCfg 2) (x &&& cfgMask)).pending (fld (x &&& cfgMask).toNat 0 12) = true) ∧
    (match queued.qRead 2 0 8 with | .ok t bs => t == queued && bs.length == 8 | _ => false) = true ∧
    (match queued.qRead 2 64 32 with | .ok _ bs => bs.length == 32 | _ => false) = true ∧
    (match queued.qRead 2 8 8 with | .ok _ bs => bs.length == 8 | _ => false) = true ∧
    (match { queued with tdi := [(0, .error)] }.qRead 2 0 8 with | .fault _ c => c == .hostRefused | _ => false) = true ∧
    (match queued.qWrite 2 16 [0, 0, 0, 0, 0, 0, 0, 0] with | .ok t _ => t.qslots.sorted | _ => false) = true ∧
    (cfgOk 0 = false ∧ cfgOk (5 + 4 * 2 ^ 12 + 2 ^ 23 + 3 * 2 ^ 24) = true ∧ dev.boundSlot 5 = none ∧ dev.qValid 3 = false) ∧
    (let s := { queued with jobs := [(3, ⟨1, 0, true⟩)] }
     (s.jobAt 0 3).failed = true) ∧
    ((withRegs queued [(qsCfg 2, 5 + 4 * 2 ^ 12 + 2 ^ 22 + 2 ^ 23 + 3 * 2 ^ 24)]).regF (qsCfg 2) 22 1 = 1) ∧
    (let s := withRegs dev [(schPre 0, 1), (prtClAct, 0x80)]
     s.regF (schPre 0) 0 1 = 1 ∧ s.regF (schPre 0) 0 2 = 1 ∧ 0 ∈ s.ownCores 0 ∧ (s.core 0).st = .running) ∧
    (let s := withRegs State.reset [(schPre 0, 1), (prtClAct, 0x80)]
     s.ownCores 0 ≠ [] ∧ ((s.ownCores 0).all fun v => (s.core v).st == .idle) = true) ∧
    ((dev.jobAt 0 3).count = 0 ∧ (dev.jobAt 0 3).sent = 0) ∧
    dev.flog.length < 64 ∧ 64 ≤ { dev with flog := List.replicate 64 0 }.flog.length := by decide +kernel
/-- A write to a resident tile ends, and leaves the registers and what is resident as they are. -/
theorem devWrite_resident (s : State) (p pa pol : Nat) (bs : List Byte) (whole : Bool) (h : s.reseal = [])
    (hp : pol ≠ 3) (hr : s.resident (pa / 1024) = true) :
    ∃ t, s.devWrite p pa pol bs whole = .ok t [] ∧ t.regs = s.regs ∧ t.reseal = [] ∧
      ∀ k, t.resident k = s.resident k := by
  have hs : s.settle (pa / 1024) = s := by simp [State.settle, State.resealing, h]
  have ho : (s.observe p (pa / 1024)).regs = s.regs ∧ (s.observe p (pa / 1024)).reseal = s.reseal ∧
      (s.observe p (pa / 1024)).l2 = s.l2 := by
    unfold State.observe; simp only []; split <;> (try split) <;> exact ⟨rfl, rfl, rfl⟩
  have ht : ∀ (u : State), (u.touch (pa / 1024) pol).regs = u.regs ∧ (u.touch (pa / 1024) pol).reseal = u.reseal ∧
      ∀ k, (u.touch (pa / 1024) pol).resident k = u.resident k := by
    intro u
    unfold State.touch
    split
    · refine ⟨rfl, rfl, fun k => ?_⟩
      simp only [State.resident, List.any_append, List.any_filter]
      induction u.l2 with
      | nil => rfl
      | cons a r ih =>
        simp only [List.any_cons]
        rw [← ih]
        cases ha : (a.tile == pa / 1024) <;> simp [bne, ha, Bool.or_assoc, Bool.or_left_comm]
    · refine ⟨rfl, rfl, fun k => ?_⟩
      simp only [State.resident, State.mapTile, List.any_map]
      congr 1; funext x; simp only [Function.comp]; split <;> rfl
    · exact ⟨rfl, rfl, fun _ => rfl⟩
  have hro : (s.observe p (pa / 1024)).resident (pa / 1024) = true := by simpa [State.resident, ho.2.2] using hr
  have htr := (ht (s.observe p (pa / 1024))).2.2
  have hrt : ((s.observe p (pa / 1024)).touch (pa / 1024) pol).resident (pa / 1024) = true := by rw [htr]; exact hro
  refine ⟨(((s.observe p (pa / 1024)).touch (pa / 1024) pol).devMerge p pa bs).leave (pa / 1024) pol, ?_, ?_⟩
  · simp [State.devWrite, State.reach, hs, hro]
  · simp only [State.leave, hp, false_and, if_false, State.devMerge, hrt, if_true, State.mapTile]
    refine ⟨(ht _).1.trans ho.1, (ht _).2.1.trans (ho.2.1.trans h), fun k => ?_⟩
    have : ∀ (l : List L2Tile), (l.map (fun t => if t.tile = pa / 1024 then { t with dirty := true } else t)).any
        (fun t => t.tile == k) = l.any (fun t => t.tile == k) := by
      intro l
      rw [List.any_map]; congr 1; funext x; simp only [Function.comp]; split <;> rfl
    simp only [State.resident, State.settlePast]
    rw [this]
    have h1 := htr k
    simp only [State.resident, ho.2.2] at h1
    exact h1
/-- Alike in the registers and in what is resident, with no page to be sealed afresh. -/
def Alike (s t : State) : Prop := t.regs = s.regs ∧ t.reseal = [] ∧ ∀ k, t.resident k = s.resident k

theorem alike_relocate {s t : State} (h : Alike s t) (p pa tier n : Nat) :
    t.relocate p pa tier n = s.relocate p pa tier n := by
  have e : ∀ o, t.reg o = s.reg o := fun o => by simp [State.reg, h.1]
  simp only [State.relocate, e]

theorem alike_frame {s t : State} (h : Alike s t) (p v : Nat) :
    t.frameAddr p v = s.frameAddr p v ∧ t.frameTier p = s.frameTier p := by
  simp [State.frameAddr, State.frameTier, State.regF, State.reg, h.1]

theorem relWrite_alike {s t : State} (h : Alike s t) (p pa tier a : Nat) (bs : List Byte)
    (hr : ∀ n ≤ 1024, s.relocate p pa tier n = .ok a) (hn : bs.length ≤ 1024) (hk : s.resident (a / 1024) = true) :
    ∃ u, t.relWrite p pa tier bs = .ok u [] ∧ Alike s u := by
  obtain ⟨u, h1, h2, h3, h4⟩ := devWrite_resident t p a 0 bs (decide (bs.length = 1024)) h.2.1 (by decide)
    (by rw [h.2.2]; exact hk)
  refine ⟨u, ?_, h2.trans h.1, h3, fun k => (h4 k).trans (h.2.2 k)⟩
  simp [State.relWrite, alike_relocate h, hr _ hn, h1]

theorem writeFrameAt_alike {s t : State} (h : Alike s t) (p v off a : Nat) (bs : List Byte)
    (hr : ∀ n ≤ 1024, s.relocate p (s.frameAddr p v + off) (s.frameTier p) n = .ok a) (hn : bs.length ≤ 1024)
    (hk : s.resident (a / 1024) = true) : ∃ u, t.writeFrameAt p v off bs = (u, true) ∧ Alike s u := by
  obtain ⟨u, h1, h2⟩ := relWrite_alike h p _ _ a bs hr hn hk
  exact ⟨u, by rw [State.writeFrameAt, (alike_frame h p v).1, (alike_frame h p v).2, h1], h2⟩

theorem writeFrame_alike {s t : State} (h : Alike s t) (p v : Nat) (a : Nat → Nat)
    (hr : ∀ i < 4, ∀ n ≤ 1024, s.relocate p (s.frameAddr p v + 1024 * i) (s.frameTier p) n = .ok (a i))
    (hk : ∀ i < 4, s.resident (a i / 1024) = true) : ∃ u, t.writeFrame p v = (u, true) := by
  have hl : ∀ i (bs : List Byte), (part bs i 1024).length ≤ 1024 := fun i bs => by simp [part, List.length_take]
  have e : ∀ {t}, Alike s t → ∀ i < 4, ∀ bs, ∃ u, t.writeFrameAt p v (1024 * i) (part bs (1024 * i) 1024) = (u, true) ∧ Alike s u :=
    fun {t} h i hi bs => writeFrameAt_alike h p v _ (a i) _ (hr i hi) (hl _ _) (hk i hi)
  simp only [State.writeFrame]
  generalize (t.core v).frame t.clock = bs
  obtain ⟨u0, h0, l0⟩ := e h 0 (by decide) bs
  obtain ⟨u1, h1, l1⟩ := e l0 1 (by decide) bs
  obtain ⟨u2, h2, l2⟩ := e l1 2 (by decide) bs
  obtain ⟨u3, h3, -⟩ := e l2 3 (by decide) bs
  exact ⟨u3, by simp only [show List.range 4 = [0, 1, 2, 3] from rfl, List.foldl, if_true, h0, h1, h2, h3]⟩

theorem relRead_alike {s t : State} (h : Alike s t) (p pa tier n a : Nat)
    (hr : s.relocate p pa tier n = .ok a) (hk : s.resident (a / 1024) = true) :
    ∃ bs, ∃ u, t.relRead p pa tier n = .ok u bs ∧ Alike s u := by
  obtain ⟨u, h1, h2⟩ := devWrite_resident t p a 0 [] false h.2.1 (by decide) (by rw [h.2.2]; exact hk)
  have hs : t.settle (a / 1024) = t := by simp [State.settle, State.resealing, h.2.1]
  have ho : ((t.observe p (a / 1024)).resident (a / 1024)) = true := by
    rw [← hk, ← h.2.2]; unfold State.observe; simp only [State.resident]; split <;> (try split) <;> rfl
  refine ⟨_, (t.observe p (a / 1024)).touch (a / 1024) 0,
    by simp [State.relRead, alike_relocate h, hr, State.devRead, State.reach, hs, ho, State.leave]; rfl, ?_⟩
  have ho2 : (t.observe p (a / 1024)).regs = t.regs ∧ (t.observe p (a / 1024)).reseal = t.reseal ∧
      (t.observe p (a / 1024)).l2 = t.l2 := by
    unfold State.observe; simp only []; split <;> (try split) <;> exact ⟨rfl, rfl, rfl⟩
  refine ⟨ho2.1.trans h.1, ho2.2.1.trans h.2.1, fun k => ?_⟩
  rw [← h.2.2 k]
  simp only [State.touch, State.resident, ho2.2.2, List.any_append, List.any_filter]
  induction t.l2 with
  | nil => rfl
  | cons b r ih =>
    simp only [List.any_cons]
    rw [← ih]
    cases hb : (b.tile == a / 1024) <;> simp [bne, hb, Bool.or_assoc, Bool.or_left_comm]

theorem readFrame_alike {s t : State} (h : Alike s t) (p v : Nat) (a : Nat → Nat)
    (hr : ∀ i < 4, s.relocate p (s.frameAddr p v + 1024 * i) (s.frameTier p) 1024 = .ok (a i))
    (hk : ∀ i < 4, s.resident (a i / 1024) = true) : ∃ f, t.readFrame p v = some f := by
  have e : ∀ {t}, Alike s t → ∀ i < 4, ∃ bs u, t.relRead p (t.frameAddr p v + 1024 * i) (t.frameTier p) 1024 = .ok u bs ∧ Alike s u :=
    fun {t} h i hi => by rw [(alike_frame h p v).1, (alike_frame h p v).2]; exact relRead_alike h p _ _ _ (a i) (hr i hi) (hk i hi)
  simp only [State.readFrame]
  obtain ⟨b0, u0, h0, l0⟩ := e h 0 (by decide)
  obtain ⟨b1, u1, h1, l1⟩ := e l0 1 (by decide)
  obtain ⟨b2, u2, h2, l2⟩ := e l1 2 (by decide)
  obtain ⟨b3, u3, h3, -⟩ := e l2 3 (by decide)
  exact ⟨[] ++ b0 ++ b1 ++ b2 ++ b3, by simp only [show List.range 4 = [0, 1, 2, 3] from rfl, List.foldl, h0, h1, h2, h3]⟩

/-- Core 0 has parked; its frame, in tiles 128 to 131, and the ring, in tile 132, are resident. -/
def parkedDev : State :=
  { withRegs dev [(xltBound 0 0, 2 ^ 20), (fltFbase 0, 0x20000), (fltQbase 0, 0x21000), (fltQcfg 0, 4)] with
    l2 := (List.range 5).map (fun i => ⟨128 + i, 0, false, false, false⟩) }

def parked (r : CauseRec) (f : Core → Core) : State := parkedDev.withCur (f (parkedDev.cur.park parkedDev.now r))

def illegalRec : CauseRec := { cause := .illegal, orig := 0 }

theorem foldl_keeps {α β : Type} (P : α → Prop) (f : α → β → α) (h : ∀ a b, P a → P (f a b)) :
    ∀ (l : List β) (a : α), P a → P (l.foldl f a)
  | [], _, ha => ha
  | b :: r, a, ha => foldl_keeps P f h r (f a b) (h a b ha)

theorem clearAllMarks_keeps (s : State) (v : Nat) : (s.clearAllMarks v).regs = s.regs ∧ (s.clearAllMarks v).reseal = s.reseal ∧
    (s.clearAllMarks v).l2 = s.l2 ∧ (s.clearAllMarks v).cores = s.cores := by
  let P (t : State) := t.regs = s.regs ∧ t.reseal = s.reseal ∧ t.l2 = s.l2 ∧ t.cores = s.cores
  unfold State.clearAllMarks
  apply foldl_keeps P
  · intro t n ht
    unfold State.clearMarks
    apply foldl_keeps P
    · exact fun u _ hu => ⟨hu.1, hu.2.1, hu.2.2.1, hu.2.2.2⟩
    · exact ht
  · exact ⟨rfl, rfl, rfl, rfl⟩

/-- Clearing the marks, and logging no store, leaves a parked core alike. -/
theorem alike_noLog (c : Cause) : Alike (parked illegalRec id) (((parked illegalRec id).clearAllMarks 0).logHeld 0 c) := by
  obtain ⟨h1, h2, h3, h4⟩ := clearAllMarks_keeps (parked illegalRec id) 0
  have ha : (((parked illegalRec id).clearAllMarks 0).core 0).acc = [] := by
    simp only [State.core, h4]; decide +kernel
  generalize (parked illegalRec id).clearAllMarks 0 = u at h1 h2 h3 ha
  simp only [State.logHeld, ha, List.filter_nil, List.take_nil, List.foldl_nil]
  exact ⟨h1, h2, fun k => resident_of_l2 (s := parked illegalRec id) h3 k⟩

theorem parked_alike (r : CauseRec) (f : Core → Core) : Alike (parked r f) (parked r f) := ⟨rfl, rfl, fun _ => rfl⟩

theorem parked_frame_tiles (r : CauseRec) (f : Core → Core) : ∀ i < 4, ∀ n ≤ 1024,
    (parked r f).relocate 0 ((parked r f).frameAddr 0 0 + 1024 * i) ((parked r f).frameTier 0) n = .ok (0x20000 + 1024 * i) ∧
    (parked r f).resident ((0x20000 + 1024 * i) / 1024) = true := by
  intro i hi n hn
  have h1 : ((parked r f).reg (xltBound 0 0)).toNat = 2 ^ 20 := show (parkedDev.reg _).toNat = _ by decide +kernel
  have h2 : (parked r f).reg (xltBase 0 0) = 0 := show parkedDev.reg _ = _ by decide +kernel
  have h3 : (parked r f).frameAddr 0 0 = 0x20000 := show parkedDev.frameAddr 0 0 = _ by decide +kernel
  have h4 : (parked r f).frameTier 0 = 0 := show parkedDev.frameTier 0 = _ by decide +kernel
  constructor
  · rw [h3, h4, State.relocate, h1, h2, if_neg (by omega)]
    simp
  · have : (0x20000 + 1024 * i) / 1024 = 128 + i := by omega
    rw [this]
    interval_cases i <;> rfl

/-- A parked core whose frame can be written, as CORE_PARK, FRAME_REWRITE and CORE_RESUME ask. -/
theorem test_meets_frame_writes :
    (∃ t, (parked illegalRec id).writeFrame 0 0 = (t, true)) ∧
    (∃ t, (((parked illegalRec id).clearAllMarks 0).logHeld 0 .illegal).writeFrame 0 0 = (t, true)) ∧
    (∃ t, (parked illegalRec (fun c => { c with framed := true })).writeFrameAt 0 0 0 (List.replicate 512 0) = (t, true)) ∧
    (∃ f, (parked illegalRec (fun c => { c with settled := true, framed := true })).readFrame 0 0 = some f) ∧
    (∃ t, (parked illegalRec id).relWrite 0 0x21000 0 (List.replicate 64 0) = .ok t []) := by
  have w (r f) := fun i hi n hn => (parked_frame_tiles r f i hi n hn).1
  have k (r f) := fun i hi => (parked_frame_tiles r f i hi 0 (by decide)).2
  refine ⟨writeFrame_alike (parked_alike _ _) 0 0 _ (w _ _) (k _ _),
    writeFrame_alike (s := parked illegalRec id) (alike_noLog _) 0 0 _ (w _ _) (k _ _), ?_, ?_, ?_⟩
  · obtain ⟨t, h, -⟩ := writeFrameAt_alike (parked_alike illegalRec (fun c => { c with framed := true })) 0 0 0 0x20000
      (List.replicate 512 0) (w _ _ 0 (by decide)) (by rw [List.length_replicate]; decide) (k _ _ 0 (by decide))
    exact ⟨t, h⟩
  · exact readFrame_alike (parked_alike _ _) 0 0 _ (fun i hi => w _ _ i hi 1024 (le_refl _)) (k _ _)
  · obtain ⟨t, h, -⟩ := relWrite_alike (parked_alike illegalRec id) 0 0x21000 0 0x21000 (List.replicate 64 0)
      (by
        intro n hn
        have h1 : ((parked illegalRec id).reg (xltBound 0 0)).toNat = 2 ^ 20 := by decide +kernel
        have h2 : (parked illegalRec id).reg (xltBase 0 0) = 0 := by decide +kernel
        rw [State.relocate, h1, h2, if_neg (by omega)]
        simp) (by rw [List.length_replicate]; decide) (by decide +kernel)
    exact ⟨t, h⟩

theorem test_meets_parked :
    (let s := parked illegalRec id
     (s.core 0).unsettled = true ∧ s.quiet 0 = true ∧ (s.core 0).framed = false ∧ s.partOf 0 = 0 ∧
     (s.clearAllMarks 0).regs = s.regs ∧ (s.clearAllMarks 0).l2 = s.l2 ∧ (s.core 0).causes.length ≤ 16) ∧
    (let s := parked illegalRec (fun c => { c with framed := true })
     (s.core 0).unsettled = true ∧ (s.core 0).framed = true ∧ (s.core 0).inHandler = false) ∧
    (let s := parked illegalRec (fun c => { c with task := some { Task.probe with handler := some 8192 } })
     (s.core 0).routeOf = .handler ∧ (s.core 0).task = some { Task.probe with handler := some 8192 }) ∧
    (let s := parked illegalRec (fun c => { c with mq := [⟨0, .token, 0, 0, 4096, 1, some (3, false)⟩] })
     (s.core 0).unsettled = true ∧ s.quiet 0 = false) ∧
    (let s := parked illegalRec (fun c => { c with inHandler := true, hstop := true, frameHeld := true })
     s.commandable 0 0 = true ∧ (s.core 0).frameHeld = true ∧ (s.core 0).inHandler = true) ∧
    (let x : BitVec 64 := 4
     4 ≤ fld x.toNat 0 5 ∧ fld x.toNat 0 5 ≤ 16 ∧ fld (17 : BitVec 64).toNat 0 5 > 16 ∧ fld (3 : BitVec 64).toNat 0 5 < 4) ∧
    (let c := Core.reset
     let f := c.frame 0
     part f 0x240 24 = part (c.streamBytes .C) 0 24) ∧
    (let s := parked { cause := .trap, orig := 0 } id
     (s.core 0).inHandler = false ∧ ((s.core 0).causes.all fun r => r.cause.route != .software) = true ∧
     ((s.core 0).causes.any fun r => r.cause.route == .handler) = true ∧ (s.core 0).routeOf = .software) ∧
    (let s := { parked illegalRec id with fq := [⟨0, [1, 2, 3, 4]⟩] }
     s.fqStop.contains 0 = false ∧ s.fq.find? (fun r => r.part == 0) = some ⟨0, [1, 2, 3, 4]⟩ ∧ s.ringUsed 0 < s.ringSize 0 ∧
     (dev.ringSize 0 ≤ dev.ringUsed 0) ∧ dev.locked 0 = false ∧ { dev with tdi := [(0, .locked)] }.locked 0 = true) ∧
    (let s := parked illegalRec (fun c => { c with settled := true, framed := true })
     s.barOpen = true ∧ s.commandable 0 0 = true ∧ dev.commandable 0 0 = false ∧ (s.core 0).frameHeld = false ∧
     (s.core 0).inHandler = false ∧ (s.core 0).task = some Task.probe ∧
     (s.syncCounters 0 0).regs = s.regs ∧
     ({ s with nodes := [(0, node .running)] }.dropCommands 0).nodeAt 0 = some (node .running)) ∧
    (let s := parked illegalRec (fun c => { c with frameHeld := true })
     s.commandable 0 0 = true ∧ (s.core 0).frameHeld = true ∧ (s.core 0).inHandler = false) ∧
    (let s := parked { cause := .hostOutstanding, orig := 0 } (fun c => { c with settled := true, framed := true, pages := [65536] })
     (s.core 0).st = .parked ∧ (s.core 0).settled = true ∧ (s.core 0).routeOf = .automatic ∧ (s.core 0).causes ≠ [] ∧
     s.preq = [] ∧ s.fq = []) := by decide +kernel
/-- Partition 0 owns the first 512 MiB of HBM under key 7, and tile 3 is sealed under it. -/
def sealed : State := { withRegs dev [(prtActRange 0 0, 2 ^ 16), (prtClAct, 0x80)] with
  keys := [(0, 7)]
  seals := [(3, ⟨7, 1, 0⟩)]
  fills := [⟨3, 0, false⟩, ⟨4, 0, false⟩] }

theorem test_meets_translations :
    (dev.barOpen = true ∧ dev.locked 0 = false ∧ { dev with tdi := [(0, .run)] }.locked 0 = true ∧
     fld (2 ^ 63 + 3 * 2 ^ 60) 63 1 = 1 ∧ fld (2 ^ 63 + 3 * 2 ^ 60) 60 2 = 3 ∧ fld (2 ^ 63 + 3 * 2 ^ 60) 62 1 = 0) ∧
    (let s := { dev with invs := [(0, false), (1, true)] }
     s.invs.find? (fun e => e.1 == 0) = some (0, false) ∧ s.usesOld 0 = false ∧
     (s.invs.erase (0, false)).contains (0, false) = false ∧ s.invs.find? (fun e => e.1 == 1) = some (1, true) ∧
     s.usesOld 1 = false) ∧
    (let l := { command .cp bufW 64 16 0 with work := { Work.idle with dsts := [{ grainG 64 with phys := some ⟨false, 64, 3⟩ }] } }
     let s := { flying dev l with invs := [(0, false)] }
     s.usesOld 0 = true) ∧
    (let w := ((firstAcc (accessed dev ⟨.G, 65536, 4, 0, .load⟩ 1 .C)).id, false)
     let q : PageReq := ⟨0, 65536, 0, [(0, w)]⟩
     let s := { withRegs (accessed hosted ⟨.G, 65536, 4, 0, .load⟩ 1 .C) [(xltRoot 0, 1)] with preq := [q, { q with page := 2 ^ 29 }] }
     let r : AtsReply := ⟨true, true, true, 4096⟩
     s.preq.find? (fun q => q.part == 0 && q.page == 65536 && q.stage == 0) = some q ∧ r.present = true ∧ r.read = true ∧
     q.who.all (s.awaits 0) = true ∧ (∀ w ∈ q.who, w.2.2 = false) ∧ s.leafAt 0 65536 = none ∧
     s.preq.find? (fun q => q.part == 0 && q.page == 2 ^ 29 && q.stage == 0) = some { q with page := 2 ^ 29 } ∧
     s.leafAt 0 (2 ^ 29) = some (2 ^ 29, true, false)) ∧
    (let q : PageReq := ⟨0, 65536, 1, [(0, 1, true)]⟩
     let s := { withRegs dev [(xltPrq 0, 1)] with preq := [q] }
     s.preq.find? (fun q => q.part == 0 && q.page == 65536 && q.stage == 1) = some q ∧ s.prqLimit 0 ≤ s.outstanding 0 ∧
     s.outstanding 0 ≠ 0 ∧ dev.outstanding 0 = 0 ∧ q.who.any (s.awaits 0) = false) ∧
    (let s := accessed dev ⟨.G, 65536, 4, 0, .load⟩ 1 .C
     let q : PageReq := ⟨0, 65536, 1, [(0, (firstAcc s).id, false)]⟩
     q.who.any ({ s with preq := [q] }.awaits 0) = true) ∧
    (let s := accessed dev ⟨.G, 8, 4, 0, .load⟩ 1 .C
     (s.core 0).acc.find? (fun x => x.id == (firstAcc s).id) = some (firstAcc s)) ∧
    (sealed.fills.find? (fun f => f.tile == 3) = some ⟨3, 0, false⟩ ∧ sealed.reseal = [] ∧ sealed.verifies 3 = true ∧
     sealed.resident 3 = false ∧ sealed.victim 0 (sealed.home 3) = none ∧ sealed.verifies 4 = false ∧
     sealed.fillWaiters 4 = [] ∧
     (let s := { sealed with l2 := [⟨3, 0, false, false, false⟩] }
      s.verifies 3 = true ∧ s.resident 3 = true)) := by decide +kernel

/-- Each comb has 32 maintenance slots staged in its table 1. -/
def staged : State := { State.reset with
  regs := [
    (66048, 0xC0C0C0C0C0C0C0C0), (66056, 0xC0C0C0C0C0C0C0C0), (66064, 0xC0C0C0C0C0C0C0C0), (66072,
    0xC0C0C0C0C0C0C0C0), (70144, 0xC0C0C0C0C0C0C0C0), (70152, 0xC0C0C0C0C0C0C0C0), (70160, 0xC0C0C0C0C0C0C0C0),
    (70168, 0xC0C0C0C0C0C0C0C0), (74240, 0xC0C0C0C0C0C0C0C0), (74248, 0xC0C0C0C0C0C0C0C0), (74256,
    0xC0C0C0C0C0C0C0C0), (74264, 0xC0C0C0C0C0C0C0C0), (78336, 0xC0C0C0C0C0C0C0C0), (78344, 0xC0C0C0C0C0C0C0C0),
    (78352, 0xC0C0C0C0C0C0C0C0), (78360, 0xC0C0C0C0C0C0C0C0), (131072, 5)] }

/-- The words of the staged tables. -/
theorem staged_words : ((List.range 16).all fun j => (List.range 64).all fun w =>
    (staged.reg (calStaged (j / 4) (j % 4) + 8 * w)).toNat == if j % 4 = 1 ∧ w < 4 then 0xC0C0C0C0C0C0C0C0 else 0) = true := by
  decide +kernel

theorem staged_slot (c k i : Nat) (hc : c < 4) (hk : k < 4) (hi : i < 512) :
    staged.stagedSlot c k i = if k = 1 ∧ i < 32 then 0xC0 else 0 := by
  have h := staged_words
  simp only [List.all_eq_true, List.mem_range, beq_iff_eq] at h
  have h1 := h (4 * c + k) (by omega) (i / 8) (by omega)
  rw [show (4 * c + k) / 4 = c by omega, show (4 * c + k) % 4 = k by omega] at h1
  have h2 : (calStaged c k + i) / 8 * 8 = calStaged c k + 8 * (i / 8) := by simp only [calStaged]; omega
  have h3 : (calStaged c k + i) % 8 = i % 8 := by simp only [calStaged]; omega
  rw [State.stagedSlot, State.regByte, State.regF, h2, h3, h1]
  have h4 : ∀ b < 8, fld 0xC0C0C0C0C0C0C0C0 (8 * b) 8 = 0xC0 := by decide
  have h5 : ∀ b < 8, fld 0 (8 * b) 8 = 0 := by decide
  by_cases hh : k = 1 ∧ i < 32
  · rw [if_pos ⟨hh.1, by omega⟩, if_pos hh, h4 _ (by omega)]
  · rw [if_neg (by omega), if_neg hh, h5 _ (by omega)]

theorem staged_slots_good : staged.slotFail = none := by
  have hl : ∀ p < 32, staged.stagedLive p = false := by decide +kernel
  rw [State.slotFail, List.findSome?_eq_none_iff]
  intro c hc
  have hc := List.mem_range.1 hc
  rw [Option.or_eq_none_iff, List.findSome?_eq_none_iff]
  refine ⟨fun k hk => List.find?_eq_none.2 fun i hi => ?_, ?_⟩
  · rw [staged_slot c k i hc (List.mem_range.1 hk) (List.mem_range.1 hi)]
    split
    · rename_i h; rw [h.1]; decide
    · simp [State.slotBad, fld]
  · have hf : (List.range 512).filter (fun i => fld (staged.stagedSlot c 1 i) 6 1 == 1) =
        (List.range 512).filter (fun i => decide (i < 32)) := by
      apply List.filter_congr
      intro i hi
      rw [staged_slot c 1 i hc (by decide) (List.mem_range.1 hi)]
      by_cases h : i < 32 <;> simp [h, fld]
    rw [hf, if_neg (by decide +kernel), List.find?_eq_none]
    intro p hp
    rw [hl p (List.mem_range.1 hp)]
    simp [staged, State.reset]

theorem prepare_passes (s : State) (h0 : s.regF prtJrnl 0 2 = 0)
    (h1 : (List.range 32).find? (fun p => s.sweeping p && s.partChanges p) = none)
    (h2 : (List.range 48).find? (fun c => s.ownerChanges c && s.clusterBusy c) = none)
    (h3 : (List.range 32).find? (fun p => s.locked p && s.partChanges p) = none)
    (h4 : (List.range 32).find? s.rangeBad = none)
    (h5 : (List.range 32).find? (fun p => [0, 1].any (fun t =>
      !xltIn (s.reg (xltBase p t)).toNat (s.reg (xltBound p t)).toNat t (s.stagedRange p t))) = none)
    (h6 : s.slotFail = none)
    (h7 : (List.range 4).find? (fun c =>
      decide (20 < ((List.range 32).map (fun p => s.regF (prtWfloor p) (5 * c) 5)).foldl (· + ·) 0)) = none)
    (h8 : (List.range 32).find? (fun p => (s.rangeChanges p 0 || s.rangeChanges p 1) &&
      s.nodes.any (fun e => e.2.part == p)) = none) : s.prepareCode = (0, 0) := by
  simp only [State.prepareCode, h0, h1, h2, h3, h4, h5, h6, h7, h8, ne_eq, not_true, if_false]

/-- A layout with maintenance slots and no partition passes every check of Table 19.2. -/
theorem test_layout_passes : staged.prepareCode = (0, 0) :=
  prepare_passes staged (by decide +kernel) (by decide +kernel) (by decide +kernel) (by decide +kernel) (by decide +kernel)
    (by decide +kernel) staged_slots_good (by decide +kernel) (by decide +kernel)

theorem test_meets_layouts :
    (dev.slot < 512 * (dev.lap + 1) ∧ 512 * ({ dev with slot := 512 }.lap + 1) ≤ { dev with slot := 512 }.slot) ∧
    (dev.barOpen = true ∧ dev.journal ≠ 2 ∧ dev.quotaNext = [] ∧ (withRegs dev [(prtJrnl, 1)]).journal ≠ 0) ∧
    ({ dev with quotaNext := [(3, 5)] }.quotaNext.all (fun e => decide (e.1 < 32)) = true) ∧
    ((List.range 32).any sealed.liveP = true ∧
      (((List.range 32).filter sealed.liveP).map (fun p => sealed.regF (prtActWfloor p) 0 5)).sum ≤ 20) ∧
    ({ dev with scrub := [4] }.scrub.contains 4 = true ∧ clusterOf 200 = 4) ∧
    (let s := { dev with reseal := [(2, 4, 0)] }
     s.reseal = (2, 4, 0) :: [] ∧ 2 < 4 ∧ s.memWf = true ∧ s.reseal.any (fun r => decide (r.1 ≤ 3 ∧ 3 < r.2.1)) = true) ∧
    (sealed.barOpen = true ∧ sealed.liveP 0 = true) ∧
    (let s := { sealed with sweep := [(0, (0, 3, 9))] }
     s.sweep.find? (fun e => e.1 == 0) = some (0, 0, 3, 9) ∧ s.reseal = [] ∧ 3 < (s.tileSpan 0 0).2 ∧
     (s.sealOf 3).key = Tab.get 0 s.keys 0 ∧ Tab.get 0 s.keys 0 ≠ 0 ∧ s.dramErr 3 = false ∧ s.capOk 3 = true) ∧
    (let s := { sealed with sweep := [(0, (0, 2 ^ 19, 9))] }
     (s.tileSpan 0 0).2 ≤ 2 ^ 19) ∧
    (let s := { sealed with sweep := [(0, (1, lpBase / 1024, 9))] }
     (s.tileSpan 0 1).2 ≤ lpBase / 1024) ∧
    (22400 ≤ 1400 * dev.stretch) := by decide +kernel
/-- Connection 5 is open for partition 0, reliable and unordered, with one packet not yet acknowledged. -/
def connected (rod : Bool) : State := withRegs { mapped with
  ueConn := [(5, BitVec.ofNat 128 (2 ^ 40 + if rod then 2 ^ 47 else 0))]
  ueState := [(5, { UeConn.fresh with
    nextTx := 1, nextMsg := 1, rxNext := 5, unacked := [⟨⟨0, 0, false, 0, 0, 1, [7]⟩, 0, true, true, 0⟩], rxBase := 2, rxDone := [4] })]
  ueWin := [(0, BitVec.ofNat 128 (2 ^ 0 + 2 ^ 2 + 64 * 2 ^ 8 + 0x10400 * 2 ^ 40 + 9 * 2 ^ 96))] } [(calActive 2 2, 0x80)]

/-- Slot 0 of every comb's LINK table is partition 0's. -/
def linked : State := withRegs mapped ((List.range 4).map (fun c => (calActive c 3, 0x80)))

theorem linked_serves (g : Nat) : linked.linkServes g 0 = true := by
  have h : ∀ i < 16, ((!(linked.link i).taken linked.slot &&
    linked.slotOwner (linkComb i) 3 (linked.slot % 512) == some 0)) = true := by decide +kernel
  exact h _ (Nat.mod_lt _ (by decide))

/-- With every link retraining no slot serves. -/
theorem linked_waits (g : Nat) :
    ({ linked with links := (List.range 16).map (fun i => (i, ⟨true, true, 0, 0, 0⟩)) } : State).linkServes g 0 = false := by
  have h : ∀ i < 16, ((!(({ linked with links := (List.range 16).map (fun i => (i, ⟨true, true, 0, 0, 0⟩)) } : State).link i).taken
    linked.slot && linked.slotOwner (linkComb i) 3 (linked.slot % 512) == some 0)) = false := by decide +kernel
  exact h _ (Nat.mod_lt _ (by decide))

theorem test_meets_relay :
    (linked.linkServes 1 0 = true ∧ (Msg.store 0 (List.replicate 2048 0)).payload ≤ 2048 ∧
      2048 < (Msg.store 0 (List.replicate 2049 0)).payload ∧ 2048 < (Msg.load 0 2049).payload) ∧
    (let s := { linked with relay := [(32, ⟨1, 4, [⟨0, .enqueueAck 3, 2, false⟩], false⟩)] }
     (s.pair 1 0).nextRx = 4 ∧ (s.pair 1 0).unacked.find? (fun u => u.num == 0) = some ⟨0, .enqueueAck 3, 2, false⟩ ∧
     (s.pair 1 0).unreachable = false ∧ (s.perform 1 0 (.enqueueAck 3)).isSome = true) ∧
    (let s := { linked with relay := [(32, ⟨1, 4, [⟨0, .enqueueAck 3, 16, true⟩], false⟩)] }
     (s.pair 1 0).unacked.find? (fun u => u.num == 0) = some ⟨0, .enqueueAck 3, 16, true⟩ ∧
     (s.pair 1 0).unacked.filter (fun (u : RelaySent) => u.waits) ≠ [] ∧
     { s with relay := [(32, ⟨1, 4, [⟨0, .enqueueAck 3, 16, false⟩], false⟩)] }.pair 1 0 = ⟨1, 4, [⟨0, .enqueueAck 3, 16, false⟩], false⟩) ∧
    (linked.undone 1 0 = false ∧ { linked with inbox := [(1, 0, .enqueueAck 3)] }.undone 1 0 = true ∧
     Tab.get Tdi.unlocked { dev with tdi := [(0, .error)] }.tdi 0 = .error ∧ dev.qPart 2 = 0) ∧
    (let s := { dev with links := [(19, ⟨true, true, 0, 0, 0⟩)] }
     (s.link 19).retraining = true ∧ 19 < 20 ∧ s.links.sorted = true ∧
     { dev with links := [(18, ⟨true, false, 0, 0, 9⟩)] }.slot < ({ dev with links := [(18, ⟨true, false, 0, 0, 9⟩)] }.link 18).busy ∧
     dev.links.sorted = true ∧ (dev.link 18).retraining = false ∧ (dev.link 18).busy ≤ dev.slot) ∧
    (dev.journal = 0 ∧ dev.partChanges 3 = false ∧ (withRegs dev [(prtClOwn, 0x83), (prtJrnl, 1)]).journal ≠ 0 ∧
     (withRegs dev [(prtClOwn, 0x83), (prtJrnl, 1)]).partChanges 3 = true) := by
  refine ⟨⟨linked_serves 1, by decide +kernel⟩, by decide +kernel, by decide +kernel, by decide +kernel, by decide +kernel, by decide +kernel⟩

/-- Accesses of another package to a page that is at hand perform. -/
theorem test_meets_remote_accesses :
    (∃ t bs, linked.gWrite (Agent.outside (numCores + 3) 1) 0 0x10400 0 [1, 2] = .ok t bs) ∧
    ∃ t bs, linked.gRead (Agent.outside (numCores + 3) 1) 0 0x10400 2 0 = .ok t bs := by
  obtain ⟨⟨t, bs, h⟩, -⟩ := gAcc_answers linked (Agent.outside (numCores + 3) 1) 0 0x10400 2 0 (.store [1, 2]) false (by decide +kernel)
  obtain ⟨⟨u, cs, h2⟩, -⟩ := gAcc_answers linked (Agent.outside (numCores + 3) 1) 0 0x10400 2 0 .load false (by decide +kernel)
  have hg : granules 0x10400 2 = [(0x10400, 2, 0)] := by decide
  have hp : tilePieces [(1 : Byte), 2].length 0x10400 [(1 : Byte), 2].length 0 = [(0x10400, 2, 0)] := by decide
  constructor
  · refine ⟨t, [], ?_⟩
    rw [State.gWrite, hp]
    simp only [State.gWriteGo]
    rw [show (2 == 1024) = false from rfl, show List.take 2 (List.drop 0 [(1 : Byte), 2]) = [1, 2] from rfl, h]
  · exact ⟨u, cs, by simp [State.gRead, hg, State.gReadGo, h2]⟩

/-- The granule of a placement in a resident tile translates. -/
theorem test_meets_placements :
    ∃ t gs, State.placeRuns 5 0 (rowGrains .G true [(0x10404, 4)]) (connected false) [] = (t, some gs) := by
  obtain ⟨t, x, h⟩ := prepare_answers (connected false) (numCores + 1, 5) 0 0x10404 4 .write false (.store []) rfl (by decide +kernel)
  have hr : rowGrains .G true [(0x10404, 4)] = [⟨.G, 0x10404, 4, 0, none, false⟩] := by decide +kernel
  exact ⟨t, [⟨.G, 0x10404, 4, 0, some x.place, false⟩], by rw [hr]; simp only [State.placeRuns, h, List.nil_append]⟩

theorem test_meets_ethernet :
    (connOpen ((connected false).conn 5) = true ∧ connRod ((connected false).conn 5) = false ∧
     connRod ((connected true).conn 5) = true ∧ (connected true).ueServes 5 = true ∧
     (connected false).ueServes 5 = true ∧ { connected true with slot := 1 }.ueServes 5 = false ∧ 1 < ((connected true).ue 5).rxBase ∧ 5 < 2 ^ 14 ∧
     ((connected true).ue 5).rxBase ≤ 3 ∧ 3 ≤ ((connected true).ue 5).rxNext ∧ ((connected true).ue 5).rxNext < 6 ∧
     ((connected true).ue 5).rxDone.contains 6 = false ∧ ((connected true).ue 5).rxDone.contains 4 = true ∧
     ((connected true).ue 5).rxDone.contains 3 = false ∧ (connected false).ueState.sorted = true) ∧
    ((match (connected false).placeOf 5 ⟨2, 0, true, 8, 0, 1, [7]⟩ with | .error => true | _ => false) = true ∧
     (match (connected false).placeOf 5 ⟨2, 0, false, 8, 0, 1, [7]⟩ with | .drop => true | _ => false) = true ∧
     (match (connected false).placeOf 5 ⟨2, 0, true, 9, 4, 8, [7, 7, 7, 7]⟩ with
      | .at a none => a == 0x10404 | _ => false) = true ∧
     ((State.placeRuns 5 0 (rowGrains .G true [(2 ^ 30 + 4, 4)]) (connected false) []).2).isNone = true) ∧
    (((connected false).ue 5).unacked.any (fun y => y.pkt.seq == 0) = true ∧
     ((connected false).ue 5).unacked.find? (fun y => y.pkt.seq == 0) =
       some ⟨⟨0, 0, false, 0, 0, 1, [7]⟩, 0, true, true, 0⟩) ∧
    ((withRegs (connected false) [(lnkUeIdx, 5)]).ueIndex false = some 5 ∧
     fld ((connected false).conn 5) 40 2 ≠ 0 ∧ (withRegs dev [(lnkUeIdx, 2 ^ 15 + 7)]).ueIndex true = some 7) := by
  decide +kernel

def image : Image := ⟨4, true, true, 99⟩

/-- The device in a phase of its cold reset, with an image in slot A. -/
def phased (n : Nat) : State := { withRegs State.reset [(mgtStat, n)] with
  mgmt := { State.reset.mgmt with imageA := some image, running := some image } }

theorem test_meets_boot :
    ((phased 0).phase = 0 ∧ (phased 1).phase = 1 ∧ (phased 1).mgmt.running.isSome = true ∧
     { phased 1 with mgmt := State.reset.mgmt }.mgmt.running = none ∧ (phased 2).phase = 2 ∧ (phased 3).phase = 3 ∧
     (phased 4).phase = 4 ∧ (phased 5).phase = 5 ∧ (phased 5).barOpen = true ∧ (phased 4).barOpen = false) ∧
    (let s := { phased 0 with mgmt := { (phased 0).mgmt with imageB := some { image with version := 5 }, newImage := true } }
     s.mgmt.newImage = true ∧ s.mgmt.imageB = some { image with version := 5 } ∧ s.accepts { image with version := 5 } = true ∧
     s.mgmt.lastB = s.mgmt.runningB ∧ s.mgmt.runningB = false) ∧
    ((phased 0).chooseImage = some (image, false) ∧ State.reset.chooseImage = none ∧ (phased 0).accepts image = true) ∧
    ((phased 5).mgmt.running = some image) ∧
    (let s := { phased 5 with clock := 350000000 }
     4 ≤ s.phase ∧ s.mgmt.wdtFrom + 350000 * s.regF mgtWdt 0 16 ≤ s.clock ∧ s.journal ≠ 1) ∧
    (dev.dramBad.contains 3 = false ∧ { dev with l2 := [⟨3, 0, false, false, false⟩] }.l2.any (fun x => x.tile == 3 && !x.dirty) = true ∧
     ({ dev with l2 := [⟨3, 0, false, false, false⟩] }.dropTile 3).verifies 3 = false ∧
     { dev with l2 := [⟨3, 0, false, true, false⟩] }.l2.any (fun x => x.tile == 3 && x.dirty) = true ∧
     dev.ownerOf (1024 * 3) = none) ∧
    ((dev.core 5).task = none) ∧
    (let s := { dev with spdm := [(2, ⟨true, true, true, 0⟩)] }
     s.barOpen = true ∧ s.spdm.sorted = true ∧ (s.spdmOf 2).version = true ∧ (s.spdmOf 2).caps = true ∧
     (s.spdmOf 2).algs = true) := by decide +kernel
theorem test_meets_steps :
    (let s := State.reset.withFetchWord 32 0x80003214
     s.turn.ev = none ∧ fetches s (some (.add ⟨0, 0⟩ 3 4 5)) = true) ∧
    (dev.turn.ev = none ∧ State.reset.turn.ev = some .coldReset ∧ isEvent .coldReset = true) ∧
    (let s := dev.withCur (dev.cur.setStr .C { dev.cur.str .C with off := 256 })
     (match s.fetchNext with | (_, .runEnd) => true | _ => false) = true) ∧
    (let s := dev.withCur (dev.cur.setStr .C { dev.cur.str .C with off := 9 })
     (match s.fetchNext with | (u, .bad c o pop) => c == .translation && o == 0 && pop == 0 && u.cur.canIssue .C | _ => false) = true) ∧
    (let s := at_ .C
     s.turn.st ∈ (Instr.engage ⟨0, 0⟩ 1 2 3 4).homes ∧ s.cur.canIssue .C = true ∧
     (Instr.engage ⟨0, 0⟩ 1 2 3 4).wf .C = false) ∧
    (let s := at_ .M
     s.popped .M (Instr.tok (.nopToken ⟨1, 0⟩)) = none ∧ (Instr.nopToken ⟨1, 0⟩).wf .M = true ∧
     Stream.M ∈ (Instr.nopToken ⟨1, 0⟩).homes) ∧
    (let c := (at_ .C).cur.setQueue .C .L [1, 2, 3, 4, 5, 6, 7, 8]
     peer .C 1 = some .L ∧ (c.str .C).hold = [] ∧ 8 ≤ (c.queue .C .L).length ∧ ((at_ .C).cur.queue .C .L).length < 8 ∧
     c.drained .C = true) ∧
    ([.add ⟨0, 0⟩ 1 2 3, .vmov ⟨0, 0⟩ 1 2 0, .mma ⟨0, 0⟩ 1 2 3 0 0 0] : List Instr).all (fun i => !isEvent i) = true := by
  decide +kernel

/-- A drain of tile 2 to A:0 that has not started. -/
def aDrain : Drain :=
  { id := 8, tile := 2, ty := .f32, dst := .A, off := 0, pitch := 256, prog := none, slot := none, k := 9, inc := 1, rw := 0,
    addr := 4096, word := .drain ⟨0, 0⟩ 2 1 0 0 0 9 1, started := false, dph := 0, next := 0, got := none, pend := [],
    half := false }

theorem test_meets_matrix_events :
    (let e : MEntry := ⟨7, .tclr 2, 0, 0, 4096, 0, none⟩
     let s := dev.withCur { dev.cur with mq := [e] }
     (s.core 0).mq = e :: [] ∧ (s.core 0).runs = true ∧ ((s.core 0).park s.now illegalRec).runs = false ∧
     e.next < e.op.groups ∧ e.op.groups ≤ { e with next := 1 }.next ∧ { e with part := some (5, false) }.part ≠ none ∧
     ((s.core 0).park s.now illegalRec).st = .parked ∧
     Core.reset.rowsOk = true ∧ (5 < 128 * 2)) ∧
    (let d : Drain := aDrain
     let s := dev.withCur { dev.cur with drains := [d], mq := [⟨7, .tclr 3, 0, 0, 4096, 1, none⟩, ⟨8, .drain 8, 0, 0, 4096, 0, none⟩] }
     (s.core 0).runs = true ∧ d.started = false ∧ d.next < 128 ∧ d.pend.length < 24 ∧ d.prog = none ∧
     (∀ e ∈ (s.core 0).mq, e.op.writes d.tile = false) ∧ (s.core 0).drainReady d = true ∧
     ({ s.core 0 with mq := [⟨7, .tclr 2, 0, 0, 4096, 0, none⟩, ⟨8, .drain 8, 0, 0, 4096, 0, none⟩] } : Core).drainReady d = false) ∧
    (let d : Drain := { aDrain with started := true, next := 128 }
     let s := dev.withCur { dev.cur with drains := [d] }
     (s.core 0).drains = d :: [] ∧ d.next = 128 ∧ d.pend = [] ∧ (s.core 0).mayComplete s.clock d.inc = true ∧
     ∀ st ∈ [Stream.C, .L, .M, .V], ((s.core 0).str st).hold = []) ∧
    (let d : Drain := { aDrain with started := true, next := 30, pend := List.replicate 25 [(0, [])] }
     d.pend.length = 25 ∧ d.next < 128 ∧ d.pend ≠ []) ∧
    (let m : Mma := ⟨false, 0, .i8, .i8, .int, 0, 0, 0, 0, 0, 0⟩
     m.cls = .int ∧ mclass m.fa m.fb = some .int ∧ 3 < m.cls.cols) := by decide +kernel

theorem test_meets_engine_requests :
    (let s := { set .C (fun c => c.setS 10 (BitVec.ofNat 64 (4 * 2 ^ 61))) with regs := [(calActive 0 2, 0x80)] }
     meets s .C (.engage ⟨0, 0⟩ 1 6 10 12) (fun s => free s && clsComb (hdrCls (s.cur.getS 10)) &&
       s.ownsEng (s.partOf 0) (combOf 0)) = true) ∧
    (let r : EReq := ⟨0, 1, 6, 0, 0, 0, 0, false, 0, 0, 4096⟩
     let s := { dev with ereqs := [r] }
     s.ereqs.find? (fun e => e.core == 0) = some r ∧ { r with check := 5 }.check ≠ 0 ∧ s.engTurn 0 (hdrCls r.hdr) r.list = true ∧
     s.slotOwner (combOf 0) 2 (s.slot % 512) ≠ some (s.partOf 0) ∧
     (withRegs s [(calActive 0 2, 0x80)]).slotOwner (combOf 0) 2 (s.slot % 512) = some (s.partOf 0)) ∧
    (let r : EReq := ⟨0, 1, 6, 0, 0, 0, BitVec.ofNat 64 (2 ^ 15), false, 0, 0, 4096⟩
     r.core = 0 ∧ hdrCls r.hdr = 0 ∧ r.check = 0 ∧ r.list = BitVec.ofNat 64 (2 ^ 15 + 0 * 2 ^ 12 + 0) ∧ r.d ≠ 0 ∧
     0 < clsCount 0 ∧ r.marked = decide (dev.kOf (dev.partOf 0) 0 ≤ (dev.core 0).streakOf 0)) ∧
    meets dev .C (.mfsr ⟨0, 0⟩ 6 (BitVec.ofNat 12 (0x040 + 2))) free = true := by decide +kernel

theorem test_meets_values :
    (EF.decode .f32 0x7FC00000 = .nan false ∧ EF.decode .f32 0x7F800001 = .nan true ∧ EF.decode .f32 0xFF800000 = .inf true ∧
     EF.ffmt .f32 ≠ none) ∧
    ((laneFmt false).decode 0x80000000).isZero = true ∧ (laneFmt true).decode 0x7FF8000000000000 = .nan false ∧
    (((laneFmt false).decode 0xBF800000).neg = true ∧ ((laneFmt false).decode 0xBF800000).isZero = false) ∧
    ((Core.reset.setP 1 1).rowsOk = true ∧ EF.scaled .mxfp4 = true) ∧
    (Core.reset.bufA.sorted = true ∧ 0 < 4 ∧ (16 : Nat) ∈ [1, 2, 4, 8, 16]) := by decide +kernel

/-! ### Worked examples of the spec -/

/-- Table 2.8: 500.0 and 5.0 from FP32, with the flags that the table names. -/
theorem test_worked_conversions :
    convert .f32 .e4m3 .rne false 0x43FA0000 = (0x7F, flOF ||| flNX) ∧
    (convert .f32 .e4m3 .rne true 0x43FA0000).1 = 0x7E ∧ (convert .f32 .e4m3 .rtz false 0x43FA0000).1 = 0x7E ∧
    convert .f32 .e2m1 .rne false 0x40A00000 = (0x6, flNX) ∧ convert .f32 .e2m1 .rna false 0x40A00000 = (0x7, flNX) := by
  decide +kernel

/-- The value 0x3F80_9000 rounded to BF16 with `.rdi` at one element, after R54. -/
def dithered (dphase : BitVec 8) (row col x : Nat) : Nat := (convert .f32 .bf16 (.rdi (dither dphase row col)) false x).1

/-- The example after R54. -/
theorem test_worked_dither :
    dithered 37 0 0 0x3F809000 = 0x3F81 ∧ dithered 37 0 1 0x3F809000 = 0x3F80 ∧ dithered 37 1 0 0x3F809000 = 0x3F80 ∧
    dithered 37 1 1 0x3F809000 = 0x3F81 ∧ dithered 37 9 7 0x3F809000 = 0x3F80 ∧ dithered 37 9 7 0x3F809001 = 0x3F81 ∧
    dithered 74 1 0 0x3F809000 = 0x3F81 ∧ dithered 74 0 1 0x3F809000 = 0x3F80 ∧ bayer 9 7 = 107 := by decide +kernel

/-- Monitors of comb 0 from gains by partition, for the third way on (R326, R327). -/
def gains (l : List (Nat × List Nat)) : Tab Nat :=
  l.flatMap (fun e => (e.2.zip (List.range e.2.length)).map (fun g => (e.1 * 32 + 3 + g.2, g.1)))

/-- The example of R327: quotas 7, 10 and 3. -/
theorem test_worked_quotas :
    quotaLoop { State.reset with monitor := gains [(1, [50, 40, 30, 20, 10, 5]), (2, List.replicate 8 45),
        (4, List.replicate 18 8)] } 0 [1, 2, 4] 20 [(1, 2), (2, 2), (4, 2)] = [(1, 7), (2, 10), (4, 3)] := by decide +kernel

/-- The example of R81: partition 0 has ASEL 0xE and the arena in slot 5 at generation 3. -/
theorem test_worked_arena_window :
    (let s := { withRegs dev [(xltCfg 0, 0xE)] with arenas := [(5, ⟨3, true, 0, [0], []⟩)] }
     s.inWindow 0 0xE1403000001000 = true ∧ s.outlived 0 0xE1403000001000 = false ∧
     s.outlived 0 0xE1404000000000 = true ∧ s.inWindow 0 0xD1403000001000 = false) := by decide +kernel

/-- Table 7.3: the corners of division, and the sign of a remainder. -/
theorem test_worked_division :
    aluDiv (BitVec.ofInt 64 (-7)) 2 = BitVec.ofInt 64 (-3) ∧ aluRem (BitVec.ofInt 64 (-7)) 2 = BitVec.ofInt 64 (-1) ∧
    aluDiv 5 0 = 0xFFFFFFFFFFFFFFFF ∧ aluRem 5 0 = 5 ∧
    aluDiv 0x8000000000000000 (BitVec.ofInt 64 (-1)) = 0x8000000000000000 ∧
    aluRem 0x8000000000000000 (BitVec.ofInt 64 (-1)) = 0 ∧ aluClz 0 = 64 := by decide +kernel
/-- A word whose first halfword is at hand names a queue that is empty; the next halfword has faulted, or the word does not
decode. -/
theorem test_meets_bad_words :
    (let h : Fetched := ⟨none, 0xFAFF⟩
     let h2 : Fetched := ⟨none, 0xFFFF⟩
     h.bad = none ∧ 2 ^ 15 ≤ h.half.toNat ∧ h.half.toNat / 2 ^ 10 % 32 ≠ 31 ∧ popOf h.half = 2 ∧
     decodeWord .C (h.half.toNat * 2 ^ 16 + h2.half.toNat) = none ∧ (⟨some .translation, 0⟩ : Fetched).bad = some .translation) ∧
    (let s := State.reset.probe .C [0xFAFF, 0xFFFF] false
     (match s.fetchNext with
      | (u, .bad c o pop) => c == .illegal && o == 0 && pop == 2 && u.cur.canIssue .C && u.cur.popWaits .C pop
      | _ => false) = true) ∧
    (let s := dev.withCur { dev.cur.setStr .C { dev.cur.str .C with off := 9 } with st := .parked }
     s.cur.canIssue .C = false) := by decide +kernel

/-- A class is barred, a register is awaited, and a `waitw` may not read its word yet. -/
theorem test_meets_waits :
    (let s := (loading .C).withCur ((loading .C).cur.fencedBy ⟨(loading .C).cur.nextId, .C, 8⟩)
     ([.ld ⟨0, 0⟩ 1 2 3 0 0 0, .ldl ⟨0, 0⟩ 1 2 3 0 0 0, .amoG ⟨0, 0⟩ 4 6 3 0 0 0, .amoS ⟨0, 0⟩ 1 2 3 0 0 0, .amoSg ⟨0, 0⟩ 1 2 3 0 0 0,
       .st ⟨0, 0⟩ 1 2 3 0 0 0, .stl ⟨0, 0⟩ 1 2 3 0 0 0, .redf ⟨0, 0⟩ 1 2 3 0 0 0] : List Instr).all (fun i =>
       meets s .C i (fun s => s.cur.barred .C 3 && !s.cur.barred .C 2)) = true ∧
     s.cur.fences ≠ [] ∧ meets s .C (.waitw ⟨0, 0⟩ 1 2 3 0 0) (fun s => s.cur.barred .C 3) = true) ∧
    (let s := set .C (fun c => c.launch .C [⟨.S 0, 0, 4, 0, .load⟩] 3 0 0 (.sreg 2 4 false) true 0)
     ([.ld ⟨0, 0⟩ 1 2 3 0 0 0, .st ⟨0, 0⟩ 1 2 3 0 0 0] : List Instr).all (fun i => meets s .C i (fun s => s.cur.sBusy [2])) = true) ∧
    (let s := (loading .V).withCur ((loading .V).cur.fencedBy ⟨(loading .V).cur.nextId, .V, 8⟩)
     ([.vldG ⟨0, 0⟩ 2 2 1 3 0 0 0, .vldSg ⟨0, 0⟩ 2 2 1 3 0 0, .vstG ⟨0, 0⟩ 2 2 1 3 0 0 0, .vstSg ⟨0, 0⟩ 2 2 1 3 0 0] : List Instr).all
       (fun i => meets s .V i (fun s => s.cur.barred .V 3)) = true) ∧
    (let s := set .V (fun c => c.launch .V [⟨.S 0, 0, 4, 0, .load⟩] 3 0 0 (.vrow 1) true 0)
     ([.vldG ⟨0, 0⟩ 2 2 1 0 0 0 0, .vstG ⟨0, 0⟩ 2 2 1 0 0 0 0] : List Instr).all (fun i =>
       meets s .V i (fun s => s.cur.rowBusy [s.cur.vr 0 1])) = true) ∧
    (let s := set .M (fun c => { c with drains := [{ aDrain with tile := 3 }, aDrain] })
     ([.mma ⟨0, 0⟩ 3 3 4 0 1 0, .mmat ⟨0, 0⟩ 3 3 4 0 1 0, .tclr ⟨0, 0⟩ 3, .tldA ⟨0, 0⟩ 3 2, .tldW ⟨0, 0⟩ 3 2] : List Instr).all
       (fun i => meets s .M i (fun s => s.cur.draining 3)) = true ∧
     meets s .M (.drain ⟨0, 0⟩ 3 7 2 0 0 9 1) (fun s => decide (2 ≤ s.cur.drains.length)) = true) ∧
    (let s := set .M (fun c => { c with drains := [{ aDrain with slot := some 2 }] })
     meets s .M (.eload ⟨0, 0⟩ 2 6 0 0) (fun s => s.cur.slotBusy 2) = true) ∧
    meets (at_ .M) .M (.eload ⟨0, 0⟩ 2 6 0 0) (fun s => !programOk [BitVec.ofNat 32 (leNat (s.cur.bytes .W 0 4))]) = true ∧
    (let c := { (at_ .C).cur with waitw := some ⟨64, 0, 1, 0, false, 0, 0, 7⟩ }
     c.waitw = some ⟨64, 0, 1, 0, false, 0, 0, 7⟩ ∧ (c.writeS 64 [1, 0, 0, 0]).waitw = some ⟨64, 0, 1, 0, true, 0, 0, 7⟩) := by
  decide +kernel

/-- A `kset` that is held, with its turn, and with an access before it; %dphase and %dstep with and without a value due. -/
theorem test_meets_held_writes :
    (let c := (at_ .C).cur.hold .C (.set 7 5)
     let s := (at_ .C).withCur c
     ((s.core 0).str .C).hold = [⟨(at_ .C).cur.nextId, .set 7 5⟩] ∧ (s.core 0).releasable .C (at_ .C).cur.nextId = true ∧
     s.landed 0 = true ∧ (s.core 0).kTurn s.clock 0 = true ∧
     ({ s.core 0 with kAt := s.clock, kPh := 1 } : Core).kTurn s.clock 0 = false) ∧
    (loading .C).cur.releasable .C (loading .C).cur.nextId = false ∧
    ((at_ .C).cur.dphNext = none ∧ (at_ .C).cur.dstNext = none ∧
     ((at_ .C).cur.srWrite 9 0x011 5).dphNext = some (5, true)) := by decide +kernel
/-- An engine that partition 0 leases, of which one slot is left, and one that is full. -/
def shared (left : Nat) : State := { dev with
  engines := [(0, { Engine.asleep with wake := .awake, leases := [.standing 0] })]
  ecmds := (List.range (2 - left)).map (fun i => { engCmd 0 0 0 Work.idle with id := i, occupying := true }) }

/-- A list of entries of class 0: entry i names engine `xs[i]`. -/
def baton (xs : List Nat) : BitVec 64 :=
  BitVec.ofNat 64 ((xs.zip (List.range 4)).map (fun e => (2 ^ 15 + e.1) * 2 ^ (16 * e.2))).sum

def codes (s : State) (xs : List Nat) (marked : Bool) : List (Nat × Bool) :=
  (xs.zip (List.range 4)).map (fun e => s.admitCode 0 0 (entryAt (baton xs) e.2) e.2 marked)

/-- Lists that are admitted at their first entry, at a later one after refusals and from a hold, refused at each entry, refused
after four, malformed, and empty; and each answer of Admit. -/
theorem test_meets_admissions :
    (codes (shared 1) [0] false = [(0, false)] ∧ codes (shared 2) [1, 0] false = [(3, false), (0, false)] ∧
     codes { shared 1 with engines := [(0, { (shared 1).engine 0 with holds := [⟨0, 9⟩] })] } [0] true = [(0, true)] ∧
     codes (shared 0) [0, 1, 12, 0] true = [(1, false), (3, false), (4, false), (1, false)] ∧
     codes (withRegs (shared 1) [(lseRes 0, 1)]) [1, 0] false = [(3, false), (2, false)]) ∧
    (let l := baton [0, 1] + 0x100000
     fld (entryAt l 1) 15 1 = 1 ∧ fld (entryAt l 1) 4 8 ≠ 0 ∧ fld (entryAt 0 0) 15 1 = 0 ∧ fld (entryAt (baton [3]) 1) 15 1 = 0) ∧
    (let s := shared 1
     s.engines.sorted = true ∧ (s.engine 0).leases ≠ [] ∧ s.freeSlots 0 = 1 ∧ (shared 0).freeSlots 0 = 0 ∧ (s.engine 1).leases = [] ∧
     s.justEnded 1 = false ∧ (shared 2).reserve 0 0 < (shared 2).freeSlots 0 ∧
     (withRegs s [(lseRes 0, 1)]).freeSlots 0 ≤ (withRegs s [(lseRes 0, 1)]).reserve 0 0 ∧ clsCount 0 ≤ 12 ∧ 11 < clsCount 0) ∧
    (clsComb 4 = true ∧ dev.leasesEng 0 (engId 0 4 0) = false ∧
     (let s := withRegs { dev with engines := [(engId 0 4 0, { Engine.asleep with wake := .awake, leases := [.standing 0] })] }
        [(calActive 0 2, 0x80)]
      s.leasesEng 0 (engId 0 4 0) = true ∧ s.ownsEng 0 0 = true ∧ s.justEnded (engId 0 4 0) = false)) := by decide +kernel

/-- An `engage` whose engine has decided a request that follows it, and one whose descriptor lies where it may. -/
theorem test_meets_engage_turns :
    (let s := { set .C (fun c => (c.setS 12 (baton [0])).setS 11 0x40) with
        engines := [(0, { Engine.asleep with seenAt := 1, seenPos := 9 })] }
     meets s .C (.engage ⟨0, 0⟩ 1 6 10 12) (fun s => free s && s.cur.drained .C && !clsComb (hdrCls (s.cur.getS 10)) &&
       !s.engTurn 0 0 (s.cur.getS 12) && decide ((s.cur.getS 11).toNat < 0x40000 ∧ (s.cur.getS 11).toNat % 32 = 0) &&
       s.past.isEmpty) = true) ∧
    (let s := set .C (fun c => c.setS 11 0x40001)
     0x40000 ≤ (s.cur.getS 11).toNat ∧ (s.cur.getS 11).toNat % 32 ≠ 0) ∧
    (let r : EReq := ⟨0, 1, 6, BitVec.ofNat 64 (5 * 2 ^ 61), 0, 0, baton [0], false, 7, 0, 4096⟩
     let s := { dev with ereqs := [r], engines := [(engId 0 5 0, { Engine.asleep with seenAt := 1, seenPos := 9 })] }
     s.ereqs.find? (fun e => e.core == 0) = some r ∧ s.engTurn 0 (hdrCls r.hdr) r.list = false ∧ 5 ≤ r.check) := by decide +kernel

/-- A vector access past 2^56, one that enters a dead arena window, and ones past a scratchpad. -/
theorem test_meets_vector_places :
    (let s := (at_ .V).withCur { (at_ .V).cur with vgov := 0 }
     s.cur.accessesOf 16 = List.range 16) ∧
    (let s := (at_ .V).withCur { (at_ .V).cur with vgov := 0 }
     let x : BitVec 64 := BitVec.ofNat 64 (2 ^ 56 - 32)
     (∀ i ∈ ([0, 1] : List Nat), ¬ 2 ^ 56 < x.toNat + i * 16 + 16) ∧ 2 ^ 56 < x.toNat + 2 * 16 + 16 ∧ 2 ∈ s.cur.accessesOf 16) ∧
    (let s := windowed .V (fun c => { c with vgov := 0 })
     let x : BitVec 64 := BitVec.ofNat 64 (0xE0000000000000 - 16)
     s.outlived (s.partOf 0) (x.toNat + 15) = false ∧ s.outlived (s.partOf 0) (x.toNat + 16) = true ∧ 1 ∈ s.cur.accessesOf 16 ∧
     ∀ i ∈ s.cur.accessesOf 16, x.toNat + i * 16 + 16 ≤ 2 ^ 56) ∧
    (let s := (at_ .V).withCur { (at_ .V).cur with vgov := 0 }
     s.cur.sgTarget 0 0x3FF00 = some (0, 0x3FF00) ∧ (∀ j ∈ s.cur.accessesOf 16, 0x3FF00 + j * 16 + 16 ≤ 0x40000) ∧
     s.cur.sgTarget 0 0x3FF01 = some (0, 0x3FF01) ∧ 15 ∈ s.cur.accessesOf 16 ∧ 0x40000 < 0x3FF01 + 15 * 16 + 16 ∧
     s.cur.sgTarget 0 0x0F00000000000000 = none) ∧
    (let s := (at_ .V).withCur { (at_ .V).cur.setP 1 0 with vgov := 1 }
     s.cur.accessesOf 16 = []) := by decide +kernel
/-- A `net.post` and a `net.send` that have arrived, a command whose occupancy has passed at this C-cycle, and one that still
occupies its slot. -/
theorem test_meets_engine_ends :
    (let c := { engCmd 5 2 5 Work.idle with step := 1, released := true, occupying := true, ending := true }
     let s := { engaged dev c with ueConn := [(5, 2 ^ 40)] }
     s.ecmd 9 = some c ∧ c.started = true ∧ c.cls = 5 ∧ c.cmd = 2 ∧ c.delivered = false ∧ c.dead = false ∧ c.passed = true ∧
     (s.core 0).mayComplete s.clock (hdrId c.hdr) = true) ∧
    (let c := { engCmd 5 2 5 Work.idle with step := 1, occupying := true }
     c.releases = true ∧ c.released = false ∧ c.sourceRead = true ∧ c.passed = false ∧ c.delivered = false ∧ c.started = true) ∧
    (let c := { engCmd 1 0 0 { Work.idle with marked := [(0, 64, .translation)] } with step := 1 }
     c.step ≠ 0 ∧ (engCmd 1 0 0 Work.idle).work.stops = false) ∧
    (let w : Work := Work.idle
     w.rowReady (4 * 63 + 3) = true ∧ { w with dsts := [⟨.S 0, 0, 4, 1024 * 63, none, false⟩] }.rowReady (4 * 63 + 3) = false) := by
  decide +kernel

/-- A launch record whose shape has two gangs of one task, each in a package of its own. -/
def twoGangs : Rec :=
  [BitVec.ofNat 64 (0x5356 * 2 ^ 48 + 2 ^ 40 + 2 * 2 ^ 36), 0, 0, 0,
    BitVec.ofNat 64 ((2 + 4 * 2 ^ 16 + 6 * 2 ^ 19) + (1 + 2 * 2 ^ 19) * 2 ^ 32)] ++ List.replicate 19 0

/-- A node of a job whose shape spans packages, with more gangs than packages; its last task; a package past its gangs. -/
theorem test_meets_node_ends :
    (let x := { node .running with cores := [0, 1], done := [1] }
     let s := withNode dev x
     (s.core 0).task = some Task.probe ∧ s.nodeAt Task.probe.node = some x ∧ x.done.length + 1 = x.cores.length ∧ x.home = true ∧
     x.packages ≤ 1 ∧ s.nodes.sorted = true ∧ s.engines.sorted = true ∧ s.jobs.sorted = true ∧ s.arenas.sorted = true) ∧
    (let x := node .running
     let s := { withNode dev x with arenas := [(3, ⟨1, true, 0, [], [0, 7]⟩)] }
     ((s.nodeComplete 0).arenaSlot x.part 3).live = true ∧ ((s.nodeComplete 0).arenaSlot x.part 3).holders = [7]) ∧
    (let r := twoGangs
     let s := withRegs dev [(lnkPlen 0, 1)]
     recF r 0 48 16 = 0x5356 ∧ recF r 0 40 8 = 1 ∧ recFieldsOk r = true ∧ recGangs r = 2 ∧ spansPackages r = true ∧
     shapeOk (recLevels r) (s.pkgs 0).length = true ∧ max 1 (s.pkgs 0).length < recGangs r ∧
     (BitVec.ofNat 64 (recFeat r) &&& ~~~(s.reg schFeat)) = 0) ∧
    (let x := { node .placing with record := twoGangs }
     let s := withRegs { withNode dev x with mem := [(0, 1), (4, 2), (8, 7)] }
       [(schCtrl, 1), (lnkPlen 0, 3), (lnkPkgid, 7), (xltBound 0 0, 2 ^ 20)]
     let t := withRegs { s with mem := [(0, 7), (4, 2), (8, 1)] } []
     s.nodeAt 0 = some x ∧ x.after = [] ∧ s.places x.part = true ∧ s.placeHeld 0 x = false ∧ spansPackages x.record = true ∧
     recGangs x.record = 2 ∧ s.pkgIndex 0 = 2 ∧ t.pkgIndex 0 = 0) := by decide +kernel

/-- This package is 7, and the job package list names packages 1 and 7: key 5 has its home at package 1. -/
def twoPackages : State := withRegs
  { dev with succs := [⟨3, 0, BitVec.ofNat 256 (2 ^ 96 + 5 * 2 ^ 64 + 64), [], 0, none, 0⟩], mem := [(0, 1), (4, 7)] }
  [(lnkPlen 0, 2), (lnkPkgid, 7), (xltBound 0 0, 2 ^ 20)]

theorem observe_packages (s : State) (p tile key : Nat) (h : s.reseal = []) :
    (s.observe p tile).homePkg 0 key = s.homePkg 0 key ∧ (s.observe p tile).self = s.self := by
  have e : (s.observe p tile).regs = s.regs ∧ (s.observe p tile).reseal = [] ∧
      ∀ a, (s.observe p tile).devByte a = s.devByte a := by
    unfold State.observe; simp only []; split <;> (try split) <;> exact ⟨rfl, h, fun _ => rfl⟩
  generalize s.observe p tile = t at e
  have hd : ∀ a n, t.devBytes a n = s.devBytes a n := fun a n => by simp only [State.devBytes, e.2.2]
  have hs : ∀ k, t.settle k = t ∧ s.settle k = s := fun k => by simp [State.settle, State.resealing, h, e.2.1]
  constructor
  · have hk : t.pkgAt 0 = s.pkgAt 0 := by
      funext i
      simp only [State.pkgAt, State.pkgAddr, State.relocate, State.regF, State.reg, e.1, hd, hs]
      rfl
    simp only [State.homePkg, State.pkgs, hk, State.self, State.regF, State.reg, e.1]
    rfl
  · simp only [State.self, State.regF, State.reg, e.1]

theorem test_meets_far_homes :
    (twoPackages.jobAt 0 3).failed = false ∧ (twoPackages.listRead 0).homePkg 0 5 ≠ (twoPackages.listRead 0).self ∧
    (twoPackages.succs.all fun b => b.part == 0 && b.job == 3 && blkKey b.block == 5 && blkCheck b.block b.set == 0) = true ∧
    (dev.listRead 0).homePkg 0 5 = (dev.listRead 0).self := by
  have h3 : twoPackages.listRead 0 = (twoPackages.settle 0).observe 0 0 := by
    have h1 : twoPackages.regF (lnkPlen 0) 0 17 = 2 := by decide +kernel
    have h2 : ((List.range 2).filterMap (fun i => match twoPackages.pkgAddr 0 i with
      | .ok a => some (a / 1024) | .error _ => none)).eraseDups = [0] := by decide +kernel
    rw [State.listRead]
    simp only [h1]
    rw [if_neg (by decide)]
    exact congrArg (List.foldl (fun s t => (s.settle t).observe 0 t) twoPackages) h2
  have h4 : twoPackages.settle 0 = twoPackages := by simp [State.settle, State.resealing, show twoPackages.reseal = [] by decide +kernel]
  have h5 := observe_packages twoPackages 0 0 5 (by decide +kernel)
  refine ⟨by decide +kernel, ?_, by decide +kernel, by decide +kernel⟩
  rw [h3, h4, h5.1, h5.2]
  decide +kernel

/-- A slot that leaves its queue with a notify still due, and one whose HEAD is written first. -/
theorem test_meets_queue_ends :
    (let s := { queued with qslots := [(2, { QSlot.empty with due := true })] }
     s.qslots.sorted = true ∧ (s.qslot 2).headDue = false ∧ (s.qslot 2).due = true ∧
     fld (s.reg (qsCfg 2) &&& ~~~0x800000).toNat 23 1 = 0) ∧
    ((queued.qslot 2).due = false ∧ fld (BitVec.ofNat 64 (5 + 3 * 2 ^ 24)).toNat 23 1 = 0) ∧
    (let s := { queued with qslots := [(2, { QSlot.empty with headDue := true })] }
     (s.qslot 2).headDue = true ∧ s.qErr 2 = false ∧
     (match s.qWrite 2 0 (leBytes 8 (s.qslot 2).head) with | .ok t _ => t.qslots.sorted | _ => false) = true) := by decide +kernel

/-- A core that goes back from its handler, one that stands in it, and one whose frame is yet to be written; a frame that cannot
be written, or read. -/
theorem test_meets_parked_commands :
    (let s := parked illegalRec (fun c => { c with returning := true })
     s.commandable 0 0 = true ∧ (s.core 0).returning = true) ∧
    (let s := parked illegalRec id
     s.commandable 0 0 = true ∧ (s.core 0).returning = false ∧ (s.core 0).framed = false ∧ s.barOpen = true) ∧
    (let s := parked illegalRec (fun c => { c with framed := true })
     (s.core 0).returning = false ∧ (s.core 0).frameHeld = false ∧ (s.core 0).framed = true) ∧
    (let s := withRegs (parked illegalRec (fun c => { c with framed := true })) [(xltBound 0 0, 0)]
     s.commandable 0 0 = true ∧ (s.core 0).framed = true ∧ (s.core 0).frameHeld = false ∧
     (s.syncCounters 0 0).readFrame 0 0 = none ∧ (s.writeFrame 0 0).2 = false ∧
     (s.core 0).unsettled = true ∧ s.quiet 0 = true ∧ (s.rewriteFrame 0 0).2 = false) ∧
    (let c := { (parked illegalRec id).core 0 with inHandler := true, hstop := true }
     c.inHandler = true ∧ c.hstop = true) := by decide +kernel

theorem parked_frame_at (r : CauseRec) (f : Core → Core) (off : Nat) (ho : off < 4096) : ∀ n ≤ 1024,
    (parked r f).relocate 0 ((parked r f).frameAddr 0 0 + off) ((parked r f).frameTier 0) n = .ok (0x20000 + off) := by
  intro n hn
  have h1 : ((parked r f).reg (xltBound 0 0)).toNat = 2 ^ 20 := show (parkedDev.reg _).toNat = _ by decide +kernel
  have h2 : (parked r f).reg (xltBase 0 0) = 0 := show parkedDev.reg _ = _ by decide +kernel
  have h3 : (parked r f).frameAddr 0 0 = 0x20000 := show parkedDev.frameAddr 0 0 = _ by decide +kernel
  have h4 : (parked r f).frameTier 0 = 0 := show parkedDev.frameTier 0 = _ by decide +kernel
  rw [h3, h4, State.relocate, h1, h2, if_neg (by omega)]
  simp

/-- The frame of a parked core can be written again, and so can one that is held. -/
theorem test_meets_frame_rewrites :
    (∃ t, (parked illegalRec (fun c => { c with framed := true })).rewriteFrame 0 0 = (t, true)) ∧
    (∃ t, (parked illegalRec (fun c => { c with frameHeld := true })).writeFrame 0 0 = (t, true)) := by
  refine ⟨?_, writeFrame_alike (parked_alike _ _) 0 0 _ (fun i hi n hn => (parked_frame_tiles _ _ i hi n hn).1)
    (fun i hi => (parked_frame_tiles _ _ i hi 0 (by decide)).2)⟩
  have hl : ∀ (bs : List Byte) (a n : Nat), n ≤ 1024 → (part bs a n).length ≤ 1024 :=
    fun bs a n h => by simp only [part, List.length_take]; omega
  have hh : (((parked illegalRec (fun c => { c with framed := true })).core 0).headerBytes
      (parked illegalRec (fun c => { c with framed := true })).clock ++
      ((parked illegalRec (fun c => { c with framed := true })).core 0).causeBytes).length ≤ 1024 := by decide +kernel
  have hk : ∀ k ∈ [128, 129, 130, 131], (parked illegalRec (fun c => { c with framed := true })).resident k = true := by decide +kernel
  have e := fun off ho => parked_frame_at illegalRec (fun c => { c with framed := true }) off ho
  have l0 := parked_alike illegalRec (fun c => { c with framed := true })
  generalize parked illegalRec (fun c => { c with framed := true }) = s at e hk hh l0 ⊢
  obtain ⟨t1, h1, l1⟩ := writeFrameAt_alike l0 0 0 0 _ ((s.core 0).headerBytes s.clock ++ (s.core 0).causeBytes)
    (e 0 (by decide)) hh (hk _ (by decide))
  obtain ⟨t2, h2, l2⟩ := writeFrameAt_alike l1 0 0 0xAD0 _ (part ((s.core 0).frame s.clock) 0xAD0 0x130)
    (e 0xAD0 (by decide)) (hl _ _ _ (by decide)) (hk _ (by decide))
  obtain ⟨t3, h3, -⟩ := writeFrameAt_alike l2 0 0 0xC00 _ (part ((s.core 0).frame s.clock) 0xC00 0x2D0)
    (e 0xC00 (by decide)) (hl _ _ _ (by decide)) (hk _ (by decide))
  exact ⟨t3, by simp only [State.rewriteFrame, h1, List.foldl, if_true, h2, h3]⟩

/-- Waiters that a reply satisfies in part; a request that is queued with room to send it; a page that is awaited with address
translation services on and off; and a logged store whose page is refused. -/
theorem test_meets_replies :
    (let q : PageReq := ⟨0, 2 ^ 29, 0, [(0, 1, false), (0, 2, true)]⟩
     let s := { withRegs hosted [(xltRoot 0, 1)] with preq := [q] }
     let r : AtsReply := ⟨true, true, false, 4096⟩
     s.preq.find? (fun q => q.part == 0 && q.page == 2 ^ 29 && q.stage == 0) = some q ∧ s.leafAt 0 (2 ^ 29) = some (2 ^ 29, true, false) ∧
     (r.present = false ∨ (if true then r.write else r.read) = false) ∧ (0, 2, true) ∈ q.who) ∧
    (let s := { withRegs dev [(hstPri 0, 1), (xltCfg 0, 2 ^ 25), (xltPrq 0, 1)] with preq := [⟨0, 65536, 2, [(0, 1, true)]⟩] }
     s.outstanding 0 < s.prqLimit 0 ∧ s.regF (hstPri 0) 0 1 = 1 ∧ s.atsOn 0 = true ∧ dev.atsOn 0 = false ∧
     s.preq.find? (fun r => r.part == 0 && r.stage == 2) = some ⟨0, 65536, 2, [(0, 1, true)]⟩) ∧
    (let s := accessed dev ⟨.G, 65536, 4, 0, .load⟩ 1 .C
     let q : PageReq := ⟨0, 65536, 1, [(0, (firstAcc s).id, false)]⟩
     let t := { withRegs s [(xltCfg 0, 2 ^ 25)] with preq := [q] }
     t.preq.find? (fun q => q.part == 0 && q.page == 65536 && q.stage == 1) = some q ∧ q.who.any (t.awaits 0) = true ∧ t.atsOn 0 = true ∧
     { s with preq := [q] }.atsOn 0 = false ∧ q.who.any ({ s with preq := [q] }.awaits 0) = true) ∧
    (let a : Acc := { firstAcc (accessed dev ⟨.G, 65536, 4, 0, .store [1, 2, 3, 4]⟩ 1 .C) with id := 77 }
     let e : SideEntry := ⟨a, .hostOutstanding, false⟩
     let s := parked illegalRec (fun c => { c with slog := [e], pages := [65536] })
     (s.core 0).acc.find? (fun x => x.id == 77) = none ∧ (s.core 0).lcmd 77 = none ∧
     (s.core 0).slog.find? (fun e => e.acc.id == 77) = some e ∧ (s.core 0).st = .parked ∧ (s.core 0).pages.contains 65536 = true ∧
     (dev.core 0).st ≠ .parked) := by decide +kernel

/-- The journal bars a sweep; an interval ends. -/
theorem test_meets_bars :
    (let s := withRegs dev [(prtClOwn, 0x83), (prtJrnl, 1)]
     s.sweepBarred 3 = true ∧ s.sweeping 3 = false ∧ s.barOpen = true) ∧ dev.journal = 0 := by decide +kernel

/-- Values in the range of a register and outside it, at its ends; a locked function; requests of SPDM out of their order. -/
theorem test_meets_register_values :
    (([50, 5000] : List Nat).all (within 50 5000) = true ∧ ([49, 5001] : List Nat).all (fun v => !within 50 5000 v) = true ∧
     within 1 1000 0 = false ∧ within 100 100000 100000 = true ∧ within 16 64 65 = false ∧ within 1 65535 1 = true) ∧
    ((35 : BitVec 64) &&& regMask (fltPksel 3) = 35 ∧ (36 : BitVec 64) &&& regMask (fltPksel 3) = 36 ∧
     (5000 : BitVec 64) &&& regMask (schBudget 3) = 5000 ∧ (0x00640014 : BitVec 64) &&& regMask lnkRlyCfg = 0x00640014 ∧
     (0x8FFF : BitVec 64) &&& regMask lnkUeIdx = 0x8FFF ∧ fld 0x8FFF 15 1 = 1 ∧ fld 0x8FFF 0 14 < 4096 ∧ ¬ fld 0xBFFF 0 14 < 4096 ∧
     dev.spanningJob 0 = false ∧
     { twoPackages with jobs := [(3, ⟨1, 0, false⟩)] }.spanningJob 0 = true ∧ dev.barOpen = true ∧
     (List.range 32).all (fun q => !dev.liveP q) = true ∧ sealed.liveP 0 = true) ∧
    (dev.locked 0 = false ∧ dev.rangeOk 0 0 0 0 = true ∧ dev.rangeOk 0 0 5 (2 ^ 20) = false ∧
     (0x9249 : BitVec 64) &&& regMask (lseRes 0) = 0x9249 ∧ (List.range 6).all (fun k => decide (fld 0x9249 (3 * k) 3 < clsSlots k)) = true ∧
     ¬ fld 2 0 3 < clsSlots 0 ∧ (List.range 6).all (fun k => decide (1 ≤ fld 0x444444 (4 * k) 4)) = true ∧ ¬ 1 ≤ fld 0x444440 0 4) ∧
    ({ dev with tdi := [(0, .run)] }.locked 0 = true) ∧
    (within 1 2015 2015 = true ∧ within 1 2015 2016 = false ∧ ¬ fld 4031 0 16 ≤ 4030 ∧ ¬ fld 21 0 5 ≤ 20 ∧ dev.journal = 0 ∧
     (withRegs dev [(prtJrnl, 1)]).journal ≠ 0) ∧
    (within 1 60000 (fld (60000 + 2 ^ 16) 0 16) = true ∧ fld (60000 + 2 ^ 16) 31 1 = 0 ∧ within 1 60000 (fld 60001 0 16) = false) ∧
    ((dev.spdmOf 2).version = false ∧ (dev.spdmOf 2).caps = false ∧ (dev.spdmOf 2).algs = false ∧
     ({ dev with spdm := [(2, ⟨true, true, true, 0⟩)] }.measure 7).isSome = false) ∧
    (0x7FFF < 0x8000 ∧ 0x9FFF = 0x9000 + 0x80 * 31 + 0x7F ∧ 0xA000 ≤ 0xBFFF ∧ 0xBFFF < 0xC000) := by decide +kernel

/-- A multicast with two targets to notify, and a released copy that meets the death of an arena. -/
theorem test_meets_notified_targets :
    (let l := { command .cpm 64 bufW 0x0003000000000010 0x0400000200000000 with delivered := true }
     let s := flying dev l
     (s.core 0).lcmd 5 = some l ∧ l.mayNotify = true ∧ s.notifyDue 0 l = [0, 1] ∧ s.notifyDue 0 { l with told := [1] } = [0]) ∧
    (let l := { command .lfill bufW 0 16 0x0400000200000000 with delivered := true }
     (flying dev l).notifyDue 0 l = [0]) := by decide +kernel
theorem workFault_landing (s : State) (sv : Server) (w : Work) (g : Grain) (h : w.srcs = []) (hd : w.dsts = [g])
    (hx : s.xlateFault sv.writes.who (s.partOf sv.v) .write g = none) (r : State × Cause × Nat) (hf : s.landFault sv w g = some r) :
    s.workFault sv w = some r := by
  simp [State.workFault, h, hd, turned_nil, turned_one, hx, hf]

/-- A released copy whose destination lies in an arena that has died since. -/
theorem test_meets_late_deaths :
    let l := { command .cp 64 bufW 16 0 with
      released := true
      work := { Work.idle with
        dsts := [⟨.G, 0xE1402000001000, 4, 0, some ⟨false, 0x1000, 3⟩, false⟩]
        got := dataAt 0 [1, 2, 3, 4] } }
    let s := flying (withRegs dev [(xltCfg 0, 0xE)]) l
    (s.core 0).lcmd 5 = some l ∧ l.delivered = false ∧ l.faulted = none ∧ l.isGath = false ∧ l.released = true ∧
    ∃ t, s.workFault (s.lServer 0 l) l.work = some (t, .outlived, 0xE1402000001000) := by
  intro l s
  refine ⟨by decide +kernel, rfl, rfl, rfl, rfl, ?_⟩
  have h : ∃ t, s.landFault (s.lServer 0 l) l.work ⟨.G, 0xE1402000001000, 4, 0, some ⟨false, 0x1000, 3⟩, false⟩ =
      some (t, .outlived, 0xE1402000001000) := by
    have hd : (match s.landFault (s.lServer 0 l) l.work ⟨.G, 0xE1402000001000, 4, 0, some ⟨false, 0x1000, 3⟩, false⟩ with
      | some (_, c, a) => c == .outlived && a == 0xE1402000001000 | none => false) = true := by decide +kernel
    split at hd
    · rename_i t c a hx; simp at hd; exact ⟨t, by rw [hx, hd.1, hd.2]⟩
    · simp at hd
  obtain ⟨t, ht⟩ := h
  exact ⟨t, workFault_landing _ _ _ _ rfl rfl rfl _ ht⟩
end Sys2Proof.Tests
end

section
/-! Where the accesses of C stop, and how the rows of V reach G: and SG: (R4, R68, R81, R156 to R160, R230, R231). -/

namespace Sys2Proof.Machine

open Sys2Proof

/-! ### Words by their effects -/

section Words

variable {st : Stream} {tk : Tok} {i : Instr} {hw : Nat} {f : State → BitVec 32 → Eff}

/-- A word faults where its effect does. -/
theorem faults_of_effect {ready : State → Bool} {cause : Cause} {addr : State → Nat}
    (hi : ∀ σ, exec i σ = issue σ st i tk hw f) (hf : ∀ σ x, ready σ = true → f σ x = .fault cause (addr σ)) :
    Faults st tk i ready cause addr := fun s s1 x h hr => by
  rw [hi, issue_fault h (hf s1 x hr)]

/-- A word waits where its effect does. -/
theorem waits_of_effect {ready : State → Bool} (hi : ∀ σ, exec i σ = issue σ st i tk hw f)
    (hf : ∀ σ x, ready σ = true → f σ x = .wait) : Waits st tk i ready := fun s s1 x h hr => by
  rw [hi, issue_wait h (hf s1 x hr)]

/-- A word whose effect leaves the state as it is only finishes. -/
theorem issue_go_self {s s1 : State} {x y : BitVec 32} (h : Issues s st i tk s1 x) (hf : f s1 x = .go s1 y) :
    issue s st i tk hw f = .next (s1.moved (s1.cur.finished s.now st hw tk.push y)) := by
  rw [issue_of_issues h, hf]
  simp only [Eff.finish, ← h.turn, State.moved, State.withCur, State.cur, Core.finished]

end Words

/-! ### Accesses of C to G: (R156, R158, R159, R160) -/

/-- What the words of C that access G: have in common: an access of class `c` to `n` bytes at s[a], aligned to `m`, which
names the registers `rs`, is sent once it has passed its checks. -/
def State.gAccess (σ : State) (c : BitVec 4) (rs : List (BitVec 5)) (a : BitVec 5) (n m : Nat) (send : Eff) : Eff :=
  if σ.cur.sBusy rs ∨ σ.cur.barred .C c.toNat then .wait
  else if (σ.cur.getS a).toNat % m ≠ 0 then .fault .addressing (σ.cur.getS a).toNat
  else
    match σ.gCheck (σ.cur.getS a) n with
    | some f => .fault f (σ.cur.getS a).toNat
    | none => send

/-- What the words of C that access a scratchpad have in common: `code` 0 names S:, 1 names SG: (R157, R159). -/
def State.sAccess (σ : State) (code : BitVec 2) (c : BitVec 4) (rs : List (BitVec 5)) (a : BitVec 5) (n m : Nat)
    (send : Space → Nat → Eff) : Eff :=
  if σ.cur.sBusy rs ∨ σ.cur.barred .C c.toNat then .wait
  else
    match σ.sPlace code (σ.cur.getS a) n with
    | .error f => .fault f 0
    | .ok (sp, off) => if off % m ≠ 0 then .fault .addressing 0 else send sp off

section Checks

variable {σ : State} {va : Reg} {n : Nat}

theorem State.gCheck_addressing (h : 2 ^ 56 < va.toNat + n) : σ.gCheck va n = some .addressing := if_pos h

theorem State.gCheck_outlived (h : va.toNat + n ≤ 2 ^ 56)
    (hd : σ.outlived (σ.partOf σ.turn.core) va.toNat = true ∨ σ.outlived (σ.partOf σ.turn.core) (va.toNat + n - 1) = true) :
    σ.gCheck va n = some .outlived := by
  rw [State.gCheck, if_neg (Nat.not_lt.2 h), if_pos hd]

theorem State.sPlace_S (h : va.toNat + n ≤ 0x40000) : σ.sPlace 0 va n = .ok (.S σ.turn.core, va.toNat) := if_pos h

theorem State.sPlace_S_addressing (h : 0x40000 < va.toNat + n) : σ.sPlace 0 va n = .error .addressing :=
  if_neg (Nat.not_le.2 h)

theorem State.sPlace_SG_accessList (h : σ.cur.sgTarget σ.turn.core va = none) : σ.sPlace 1 va n = .error .accessList := by
  rw [State.sPlace, if_neg (by decide), h]

theorem State.sPlace_SG {w off : Nat} (h : σ.cur.sgTarget σ.turn.core va = some (w, off)) :
    σ.sPlace 1 va n = if off + n ≤ 0x40000 then .ok (.S w, off) else .error .addressing := by
  rw [State.sPlace, if_neg (by decide), h]

end Checks

section Access

variable {σ : State} {c : BitVec 4} {rs : List (BitVec 5)} {a : BitVec 5} {n m : Nat} {code : BitVec 2}
  (hb : σ.cur.sBusy rs = false) (hc : σ.cur.barred .C c.toNat = false)

include hb hc

theorem State.gAccess_addressing {send : Eff}
    (h : 2 ^ 56 < (σ.cur.getS a).toNat + n ∨ (σ.cur.getS a).toNat % m ≠ 0) :
    σ.gAccess c rs a n m send = .fault .addressing (σ.cur.getS a).toNat := by
  rw [State.gAccess, if_neg (by simp [hb, hc])]
  split
  · rfl
  · next hm => rw [State.gCheck_addressing (h.resolve_right hm)]

theorem State.gAccess_outlived {send : Eff} (h : (σ.cur.getS a).toNat + n ≤ 2 ^ 56) (hm : (σ.cur.getS a).toNat % m = 0)
    (hd : σ.outlived (σ.partOf σ.turn.core) (σ.cur.getS a).toNat = true ∨
      σ.outlived (σ.partOf σ.turn.core) ((σ.cur.getS a).toNat + n - 1) = true) :
    σ.gAccess c rs a n m send = .fault .outlived (σ.cur.getS a).toNat := by
  rw [State.gAccess, if_neg (by simp [hb, hc]), if_neg (not_not.2 hm), State.gCheck_outlived h hd]

variable {send : Space → Nat → Eff}

theorem State.sAccess_error {cause : Cause} (h : σ.sPlace code (σ.cur.getS a) n = .error cause) :
    σ.sAccess code c rs a n m send = .fault cause 0 := by
  rw [State.sAccess, if_neg (by simp [hb, hc]), h]

theorem State.sAccess_unaligned {sp : Space} {off : Nat} (h : σ.sPlace code (σ.cur.getS a) n = .ok (sp, off))
    (hm : off % m ≠ 0) : σ.sAccess code c rs a n m send = .fault .addressing 0 := by
  rw [State.sAccess, if_neg (by simp [hb, hc]), h]
  exact if_pos hm

theorem State.sAccess_S_addressing (h : 0x40000 < (σ.cur.getS a).toNat + n ∨ (σ.cur.getS a).toNat % m ≠ 0) :
    σ.sAccess 0 c rs a n m send = .fault .addressing 0 := by
  by_cases hp : 0x40000 < (σ.cur.getS a).toNat + n
  · exact State.sAccess_error hb hc (State.sPlace_S_addressing hp)
  · exact State.sAccess_unaligned hb hc (State.sPlace_S (Nat.not_lt.1 hp)) (h.resolve_left hp)

theorem State.sAccess_SG_addressing {w off : Nat} (ht : σ.cur.sgTarget σ.turn.core (σ.cur.getS a) = some (w, off))
    (h : 0x40000 < off + n ∨ off % m ≠ 0) : σ.sAccess 1 c rs a n m send = .fault .addressing 0 := by
  have hs := State.sPlace_SG (n := n) ht
  by_cases hp : 0x40000 < off + n
  · exact State.sAccess_error hb hc (hs.trans (if_neg (Nat.not_le.2 hp)))
  · exact State.sAccess_unaligned hb hc (hs.trans (if_pos (Nat.not_lt.1 hp))) (h.resolve_left hp)

end Access

/-! ### Which words these are -/

section Forms

variable (tk : Tok) (d a : BitVec 5) (c o : BitVec 4) (s r z : BitVec 3) (l e : BitVec 2) (w t : BitVec 1) (σ : State)

theorem exec_ld_gAccess : exec (.ld tk d a c s l z) σ = issue σ .C (.ld tk d a c s l z) tk 2 (fun σ _ =>
    σ.gAccess c (a :: dataRegs z d) a (sizeBytes z) 1
      (σ.sendLoad .C [⟨.G, (σ.cur.getS a).toNat, sizeBytes z, 0, .load⟩] c.toNat s.toNat l.toNat (loadDest z d) tk.push)) := by
  simp only [State.gAccess, Nat.mod_one, ne_eq, not_true_eq_false, if_false]; rfl

theorem exec_st_gAccess : exec (.st tk d a c s l z) σ = issue σ .C (.st tk d a c s l z) tk 2 (fun σ _ =>
    σ.gAccess c (a :: dataRegs z d) a (sizeBytes z) 1
      (σ.sendStore .C [⟨.G, (σ.cur.getS a).toNat, sizeBytes z, 0, .store (σ.cur.storeData z d)⟩] c.toNat s.toNat l.toNat
        tk.push)) := by
  simp only [State.gAccess, Nat.mod_one, ne_eq, not_true_eq_false, if_false]; rfl

theorem exec_amoG_gAccess : exec (.amoG tk d a c s o w) σ = issue σ .C (.amoG tk d a c s o w) tk 2 (fun σ _ =>
    σ.gAccess c (a :: amoRegs o d) a (amoBytes o w) (amoBytes o w)
      (σ.sendLoad .C [⟨.G, (σ.cur.getS a).toNat, amoBytes o w, 0, σ.cur.amoKind o w d⟩] c.toNat s.toNat 0 (amoDest o w d)
        tk.push)) := rfl

theorem exec_redf_gAccess : exec (.redf tk d a c s r t) σ = issue σ .C (.redf tk d a c s r t) tk 2 (fun σ _ =>
    σ.gAccess c [a, d] a 4 4
      (σ.sendStore .C
        [⟨.G, (σ.cur.getS a).toNat, 4, 0, .redf (t == 1) r.toNat (dither σ.cur.dphase 0 0) ((σ.cur.getS d).toNat % 2 ^ 32)⟩]
        c.toNat s.toNat 0 tk.push)) := rfl

theorem exec_ldl_sAccess : exec (.ldl tk d a c s e z) σ = issue σ .C (.ldl tk d a c s e z) tk 2 (fun σ _ =>
    σ.sAccess e c (a :: dataRegs z d) a (sizeBytes z) 1 (fun sp off =>
      σ.sendLoad .C [⟨sp, off, sizeBytes z, 0, .load⟩] c.toNat s.toNat 0 (loadDest z d) tk.push)) := by
  simp only [State.sAccess, Nat.mod_one, ne_eq, not_true_eq_false, if_false]; rfl

theorem exec_stl_sAccess : exec (.stl tk d a c s e z) σ = issue σ .C (.stl tk d a c s e z) tk 2 (fun σ _ =>
    σ.sAccess e c (a :: dataRegs z d) a (sizeBytes z) 1 (fun sp off =>
      σ.sendStore .C [⟨sp, off, sizeBytes z, 0, .store (σ.cur.storeData z d)⟩] c.toNat s.toNat 0 tk.push)) := by
  simp only [State.sAccess, Nat.mod_one, ne_eq, not_true_eq_false, if_false]; rfl

theorem exec_amoS_sAccess : exec (.amoS tk d a c s o w) σ = issue σ .C (.amoS tk d a c s o w) tk 2 (fun σ _ =>
    σ.sAccess 0 c (a :: amoRegs o d) a (amoBytes o w) (amoBytes o w) (fun sp off =>
      σ.sendLoad .C [⟨sp, off, amoBytes o w, 0, σ.cur.amoKind o w d⟩] c.toNat s.toNat 0 (amoDest o w d) tk.push)) := rfl

theorem exec_amoSg_sAccess : exec (.amoSg tk d a c s o w) σ = issue σ .C (.amoSg tk d a c s o w) tk 2 (fun σ _ =>
    σ.sAccess 1 c (a :: amoRegs o d) a (amoBytes o w) (amoBytes o w) (fun sp off =>
      σ.sendLoad .C [⟨sp, off, amoBytes o w, 0, σ.cur.amoKind o w d⟩] c.toNat s.toNat 0 (amoDest o w d) tk.push)) := rfl

end Forms

/-! ### Where they stop -/

section Stops

variable {tk : Tok} {i i' : Instr} {c : BitVec 4} {rs : List (BitVec 5)} {a : BitVec 5} {n m : Nat}

theorem gAccess_faults {send : State → Eff}
    (hi : ∀ σ, exec i σ = issue σ .C i tk 2 (fun σ _ => σ.gAccess c rs a n m (send σ))) :
    Faults .C tk i (fun σ => !σ.cur.sBusy rs && !σ.cur.barred .C c.toNat &&
      decide (2 ^ 56 < (σ.cur.getS a).toNat + n ∨ (σ.cur.getS a).toNat % m ≠ 0))
      .addressing (fun σ => (σ.cur.getS a).toNat) ∧
    Faults .C tk i (fun σ => !σ.cur.sBusy rs && !σ.cur.barred .C c.toNat &&
      decide ((σ.cur.getS a).toNat + n ≤ 2 ^ 56 ∧ (σ.cur.getS a).toNat % m = 0) &&
      (σ.outlived (σ.partOf σ.turn.core) (σ.cur.getS a).toNat ||
        σ.outlived (σ.partOf σ.turn.core) ((σ.cur.getS a).toNat + n - 1)))
      .outlived (fun σ => (σ.cur.getS a).toNat) := by
  refine ⟨faults_of_effect hi fun σ _ h => ?_, faults_of_effect hi fun σ _ h => ?_⟩
  · simp only [Bool.and_eq_true, Bool.not_eq_true', decide_eq_true_eq] at h
    obtain ⟨⟨hb, hc⟩, ha⟩ := h
    exact State.gAccess_addressing hb hc ha
  · simp only [Bool.and_eq_true, Bool.not_eq_true', decide_eq_true_eq, Bool.or_eq_true] at h
    obtain ⟨⟨⟨hb, hc⟩, ha, hm⟩, hd⟩ := h
    exact State.gAccess_outlived hb hc ha hm hd

/-- A word and its form on SG:. -/
theorem sAccess_faults {send send' : State → Space → Nat → Eff}
    (hi : ∀ σ, exec i σ = issue σ .C i tk 2 (fun σ _ => σ.sAccess 0 c rs a n m (send σ)))
    (hi' : ∀ σ, exec i' σ = issue σ .C i' tk 2 (fun σ _ => σ.sAccess 1 c rs a n m (send' σ))) :
    Faults .C tk i (fun σ => !σ.cur.sBusy rs && !σ.cur.barred .C c.toNat &&
      decide (0x40000 < (σ.cur.getS a).toNat + n ∨ (σ.cur.getS a).toNat % m ≠ 0)) .addressing (fun _ => 0) ∧
    Faults .C tk i' (fun σ => !σ.cur.sBusy rs && !σ.cur.barred .C c.toNat &&
      (σ.cur.sgTarget σ.turn.core (σ.cur.getS a)).isNone) .accessList (fun _ => 0) ∧
    Faults .C tk i' (fun σ => !σ.cur.sBusy rs && !σ.cur.barred .C c.toNat &&
      (match σ.cur.sgTarget σ.turn.core (σ.cur.getS a) with
       | some (_, off) => decide (0x40000 < off + n ∨ off % m ≠ 0)
       | none => false)) .addressing (fun _ => 0) := by
  refine ⟨faults_of_effect hi fun σ _ h => ?_, faults_of_effect hi' fun σ _ h => ?_, faults_of_effect hi' fun σ _ h => ?_⟩
  all_goals
    simp only [Bool.and_eq_true, Bool.not_eq_true'] at h
    obtain ⟨⟨hb, hc⟩, h⟩ := h
  · exact State.sAccess_S_addressing hb hc (of_decide_eq_true h)
  · exact State.sAccess_error hb hc (State.sPlace_SG_accessList (Option.isNone_iff_eq_none.1 h))
  · cases ht : σ.cur.sgTarget σ.turn.core (σ.cur.getS a) with
    | none => rw [ht] at h; cases h
    | some p =>
      rw [ht] at h
      exact State.sAccess_SG_addressing hb hc ht (of_decide_eq_true h)

end Stops

/-- Settles O19: the words share two effects, one for G: and one for the scratchpads, and each check of these stops every
word that has it. -/
theorem controlAddressFaults : Obligations.ControlAddressFaults := by
  unfold Obligations.ControlAddressFaults
  simp only [List.forall_mem_cons, List.not_mem_nil, false_implies, implies_true, and_true]
  refine ⟨fun tk d a c o s r l z w t => ⟨?_, ?_, ?_, ?_⟩, fun tk d a c o s z w => ⟨?_, ?_, ?_⟩⟩
  · exact gAccess_faults (exec_ld_gAccess tk d a c s z l)
  · exact gAccess_faults (exec_st_gAccess tk d a c s z l)
  · exact gAccess_faults (exec_amoG_gAccess tk d a c o s w)
  · exact gAccess_faults (exec_redf_gAccess tk d a c s r t)
  · exact sAccess_faults (exec_ldl_sAccess tk d a c s z 0) (exec_ldl_sAccess tk d a c s z 1)
  · exact sAccess_faults (exec_stl_sAccess tk d a c s z 0) (exec_stl_sAccess tk d a c s z 1)
  · exact sAccess_faults (exec_amoS_sAccess tk d a c o s w) (exec_amoSg_sAccess tk d a c o s w)

/-! ### Rows of V on G: and SG: (R230, R231) -/

section Rows

/-- A plain store finishes as it is handed over. -/
theorem State.sendStore_plain {σ : State} {st : Stream} {sp : List Spec} {c l : Nat} {sc : BitVec 3} {p : BitVec 2} (h : sc = 0) :
    σ.sendStore st sp c sc.toNat l p = .go (σ.setCore σ.turn.core (σ.cur.launch st sp c sc.toNat l .nothing false p)) 0 :=
  if_pos (congrArg BitVec.toNat h)

/-- A release finishes when it has performed. -/
theorem State.sendStore_release {σ : State} {st : Stream} {sp : List Spec} {c l : Nat} {sc : BitVec 3} {p : BitVec 2} (h : sc ≠ 0) :
    σ.sendStore st sp c sc.toNat l p = .late (σ.setCore σ.turn.core (σ.cur.launch st sp c sc.toNat l .nothing true p)) :=
  if_neg fun h0 => h (BitVec.eq_of_toNat_eq h0)

/-- What `vld` and `vst` have in common: an access of class `c` to row `row` is sent once nothing keeps it waiting. -/
def State.rowAccess (σ : State) (row c : Nat) (send : Eff) : Eff :=
  if σ.cur.rowBusy [row] ∨ σ.cur.barred .V c then .wait else send

theorem State.rowAccess_ready {σ : State} {row c : Nat} {send : Eff} (hb : σ.cur.rowBusy [row] = false) (hc : σ.cur.barred .V c = false) :
    σ.rowAccess row c send = send := if_neg (by simp [hb, hc])

theorem State.rowAccess_waits {σ : State} {row c : Nat} {send : Eff}
    (h : (σ.cur.rowBusy [row] || σ.cur.barred .V c) = true) : σ.rowAccess row c send = .wait := if_pos (Bool.or_eq_true_iff.1 h)

variable {i : Instr} {tk : Tok} {row : State → Nat} {c : BitVec 4} {sc : BitVec 3} {l : Nat}
  {r : State → Except (Cause × Nat) (List Spec)}

/-- A row load finishes with no access, begins with some, and parks with the fault of its accesses. -/
theorem rowLoad_does (hi : ∀ σ, exec i σ = issue σ .V i tk 2 (fun σ _ =>
      σ.rowAccess (row σ) c.toNat (vload σ (r σ) (row σ) c.toNat sc.toNat l tk.push)))
    {s s1 : State} {x : BitVec 32} (h : Issues s .V i tk s1 x) (hb : s1.cur.rowBusy [row s1] = false)
    (hc : s1.cur.barred .V c.toNat = false) :
    (∀ sp, r s1 = .ok sp → exec i s = .next (s1.moved (
      if sp = [] then s1.cur.finished s.now .V 2 tk.push 0
      else (s1.cur.launch .V sp c.toNat sc.toNat l (.vrow (row s1)) true tk.push).begun s.now .V 2))) ∧
    (∀ e a, r s1 = .error (e, a) → exec i s = .next (s.park s.turn.core (s.cur.recOf .V e a))) := by
  rw [hi]
  refine ⟨fun sp hr => ?_, fun e a hr => issue_fault h ?_⟩
  · cases sp with
    | nil => exact issue_go_self h (by rw [State.rowAccess_ready hb hc, hr]; rfl)
    | cons p ps => exact issue_late h (by rw [State.rowAccess_ready hb hc, hr]; rfl)
  · rw [State.rowAccess_ready hb hc, hr]; rfl

/-- A row store does likewise, but a plain one has finished once it is handed over. -/
theorem rowStore_does (hi : ∀ σ, exec i σ = issue σ .V i tk 2 (fun σ _ =>
      σ.rowAccess (row σ) c.toNat (vstore σ (r σ) c.toNat sc.toNat l tk.push)))
    {s s1 : State} {x : BitVec 32} (h : Issues s .V i tk s1 x) (hb : s1.cur.rowBusy [row s1] = false)
    (hc : s1.cur.barred .V c.toNat = false) :
    (∀ sp, r s1 = .ok sp → exec i s = .next (s1.moved (
      if sp = [] then s1.cur.finished s.now .V 2 tk.push 0
      else if sc = 0 then (s1.cur.launch .V sp c.toNat sc.toNat l .nothing false tk.push).finished s.now .V 2 tk.push 0
      else (s1.cur.launch .V sp c.toNat sc.toNat l .nothing true tk.push).begun s.now .V 2))) ∧
    (∀ e a, r s1 = .error (e, a) → exec i s = .next (s.park s.turn.core (s.cur.recOf .V e a))) := by
  rw [hi]
  refine ⟨fun sp hr => ?_, fun e a hr => issue_fault h ?_⟩
  · cases sp with
    | nil => exact issue_go_self h (by rw [State.rowAccess_ready hb hc, hr]; rfl)
    | cons p ps =>
      have hs : s1.rowAccess (row s1) c.toNat (vstore s1 (r s1) c.toNat sc.toNat l tk.push) =
          s1.sendStore .V (p :: ps) c.toNat sc.toNat l tk.push := by
        rw [State.rowAccess_ready hb hc, hr]; rfl
      rw [if_neg (List.cons_ne_nil p ps)]
      split
      · next h0 => exact issue_go h (hs.trans (State.sendStore_plain h0))
      · next h0 => exact issue_late h (hs.trans (State.sendStore_release h0))
  · rw [State.rowAccess_ready hb hc, hr]; rfl

end Rows

section RowForms

variable (tk : Tok) (z : BitVec 2) (x : BitVec 4) (d : BitVec 5) (c : BitVec 4) (s : BitVec 3) (l : BitVec 2) (w : BitVec 1)
  (σ : State)

theorem exec_vldG_rowAccess : exec (.vldG tk z x d c s l w) σ = issue σ .V (.vldG tk z x d c s l w) tk 2 (fun σ _ =>
    σ.rowAccess (σ.cur.vr w d) c.toNat (vload σ (σ.gRow (σ.cur.getX x) (4 * 2 ^ z.toNat) (fun _ => .load)) (σ.cur.vr w d)
      c.toNat s.toNat l.toNat tk.push)) := rfl

theorem exec_vldSg_rowAccess : exec (.vldSg tk z x d c s w) σ = issue σ .V (.vldSg tk z x d c s w) tk 2 (fun σ _ =>
    σ.rowAccess (σ.cur.vr w d) c.toNat (vload σ (σ.sgRow (σ.cur.getX x) (4 * 2 ^ z.toNat) (fun _ => .load)) (σ.cur.vr w d)
      c.toNat s.toNat 0 tk.push)) := rfl

theorem exec_vstG_rowAccess : exec (.vstG tk z x d c s l w) σ = issue σ .V (.vstG tk z x d c s l w) tk 2 (fun σ _ =>
    σ.rowAccess (σ.cur.vr w d) c.toNat (vstore σ (σ.gRow (σ.cur.getX x) (4 * 2 ^ z.toNat)
      (rowPart (σ.cur.row (σ.cur.vr w d)) (4 * 2 ^ z.toNat))) c.toNat s.toNat l.toNat tk.push)) := rfl

theorem exec_vstSg_rowAccess : exec (.vstSg tk z x d c s w) σ = issue σ .V (.vstSg tk z x d c s w) tk 2 (fun σ _ =>
    σ.rowAccess (σ.cur.vr w d) c.toNat (vstore σ (σ.sgRow (σ.cur.getX x) (4 * 2 ^ z.toNat)
      (rowPart (σ.cur.row (σ.cur.vr w d)) (4 * 2 ^ z.toNat))) c.toNat s.toNat 0 tk.push)) := rfl

end RowForms

/-! ### The accesses of a row -/

theorem Core.mem_accessesOf (c : Core) (n j : Nat) : j ∈ c.accessesOf n ↔ j < 256 / n ∧ c.enabled j n = true := by
  simp [Core.accessesOf]

theorem Core.accessesOf_pairwise (c : Core) (n : Nat) : (c.accessesOf n).Pairwise (· < ·) :=
  List.pairwise_lt_range.filter _

/-- In a list in rising order, `find?` answers the least member that meets the test. -/
theorem find?_eq_some_of_least {l : List Nat} (hl : l.Pairwise (· < ·)) {p : Nat → Bool} {j : Nat} (hj : j ∈ l)
    (hp : p j = true) (hlt : ∀ i ∈ l, i < j → p i = false) : l.find? p = some j := by
  obtain ⟨as, bs, rfl⟩ := List.append_of_mem hj
  refine List.find?_eq_some_iff_append.2 ⟨hp, as, bs, rfl, fun i hi => ?_⟩
  have hij : i < j := (List.pairwise_append.1 hl).2.2 i hi j List.mem_cons_self
  simp [hlt i (List.mem_append_left _ hi) hij]

section Places

variable (σ : State) (x : Reg) (n : Nat) (k : Nat → AccKind)

/-- Access j of a row on G: ends past 2^56 (R4). -/
def pastG (j : Nat) : Prop := 2 ^ 56 < x.toNat + j * n + n

/-- Access j of a row on G: starts or ends in an arena window of a handle that is not live (R81). -/
def State.deadG (j : Nat) : Prop :=
  σ.outlived (σ.partOf σ.turn.core) (x.toNat + j * n) = true ∨ σ.outlived (σ.partOf σ.turn.core) (x.toNat + j * n + n - 1) = true

variable {σ x n k}

theorem State.find?_past_eq_none :
    (σ.cur.accessesOf n).find? (fun j => decide (2 ^ 56 < x.toNat + j * n + n)) = none ↔
      ∀ j ∈ σ.cur.accessesOf n, ¬pastG x n j := by simp [pastG]

theorem State.find?_dead_eq_none :
    (σ.cur.accessesOf n).find? (fun j => σ.outlived (σ.partOf σ.turn.core) (x.toNat + j * n) ||
        σ.outlived (σ.partOf σ.turn.core) (x.toNat + j * n + n - 1)) = none ↔
      ∀ j ∈ σ.cur.accessesOf n, ¬σ.deadG x n j := by simp [State.deadG]

theorem State.gRow_eq_ok_iff {sp : List Spec} : σ.gRow x n k = .ok sp ↔
    (∀ j ∈ σ.cur.accessesOf n, ¬pastG x n j ∧ ¬σ.deadG x n j) ∧
      (σ.cur.accessesOf n).map (fun j => ⟨.G, x.toNat + j * n, n, j * n, k j⟩) = sp := by
  constructor
  · intro h
    simp only [State.gRow] at h
    split at h
    · cases h
    · next hp =>
      split at h
      · cases h
      · next hd =>
        exact ⟨fun j hj => ⟨State.find?_past_eq_none.1 hp j hj, State.find?_dead_eq_none.1 hd j hj⟩, Except.ok.inj h⟩
  · rintro ⟨h, rfl⟩
    simp only [State.gRow, State.find?_past_eq_none.2 fun j hj => (h j hj).1, State.find?_dead_eq_none.2 fun j hj => (h j hj).2]

theorem State.gRow_addressing {j : Nat} (hj : j ∈ σ.cur.accessesOf n) (hp : pastG x n j)
    (hlt : ∀ i ∈ σ.cur.accessesOf n, i < j → ¬pastG x n i) : σ.gRow x n k = .error (.addressing, x.toNat + j * n) := by
  have hf : (σ.cur.accessesOf n).find? (fun j => decide (2 ^ 56 < x.toNat + j * n + n)) = some j :=
    find?_eq_some_of_least (σ.cur.accessesOf_pairwise n) hj (decide_eq_true hp) fun i hi h => decide_eq_false (hlt i hi h)
  simp only [State.gRow, hf]

theorem State.gRow_outlived {j : Nat} (hj : j ∈ σ.cur.accessesOf n) (hp : ∀ i ∈ σ.cur.accessesOf n, ¬pastG x n i)
    (hd : σ.deadG x n j) (hlt : ∀ i ∈ σ.cur.accessesOf n, i < j → ¬σ.deadG x n i) :
    σ.gRow x n k = .error (.outlived, x.toNat + j * n) := by
  have hf : (σ.cur.accessesOf n).find? (fun j => σ.outlived (σ.partOf σ.turn.core) (x.toNat + j * n) ||
      σ.outlived (σ.partOf σ.turn.core) (x.toNat + j * n + n - 1)) = some j :=
    find?_eq_some_of_least (σ.cur.accessesOf_pairwise n) hj (Bool.or_eq_true_iff.2 hd) fun i hi h =>
      Bool.eq_false_iff.2 (mt Bool.or_eq_true_iff.1 (hlt i hi h))
  simp only [State.gRow, State.find?_past_eq_none.2 hp, hf]

theorem State.sgRow_nil (h : σ.cur.accessesOf n = []) : σ.sgRow x n k = .ok [] := by
  simp only [State.sgRow, h, List.isEmpty_nil, if_true]

theorem State.sgRow_accessList (h : σ.cur.accessesOf n ≠ []) (ht : σ.cur.sgTarget σ.turn.core x = none) :
    σ.sgRow x n k = .error (.accessList, 0) := by
  simp only [State.sgRow, List.isEmpty_iff, h, ht, if_false]

theorem State.sgRow_target {w off : Nat} (h : σ.cur.accessesOf n ≠ []) (ht : σ.cur.sgTarget σ.turn.core x = some (w, off)) :
    σ.sgRow x n k = if ∃ j ∈ σ.cur.accessesOf n, 0x40000 < off + j * n + n then .error (.addressing, 0)
      else .ok ((σ.cur.accessesOf n).map (fun j => ⟨.S w, off + j * n, n, j * n, k j⟩)) := by
  simp only [State.sgRow, List.isEmpty_iff, h, ht, if_false, List.any_eq_true, decide_eq_true_eq]

theorem State.sgRow_addressing {w off : Nat} (h : σ.cur.accessesOf n ≠ []) (ht : σ.cur.sgTarget σ.turn.core x = some (w, off))
    (hp : ∃ j ∈ σ.cur.accessesOf n, 0x40000 < off + j * n + n) : σ.sgRow x n k = .error (.addressing, 0) :=
  (State.sgRow_target h ht).trans (if_pos hp)

theorem State.sgRow_ok {w off : Nat} (h : σ.cur.accessesOf n ≠ []) (ht : σ.cur.sgTarget σ.turn.core x = some (w, off))
    (hp : ∀ j ∈ σ.cur.accessesOf n, off + j * n + n ≤ 0x40000) :
    σ.sgRow x n k = .ok ((σ.cur.accessesOf n).map (fun j => ⟨.S w, off + j * n, n, j * n, k j⟩)) :=
  (State.sgRow_target h ht).trans (if_neg fun ⟨j, hj, hlt⟩ => absurd (hp j hj) (Nat.not_le.2 hlt))

theorem State.exists_sgRow_ok_iff : (∃ sp, σ.sgRow x n k = .ok sp) ↔ σ.cur.accessesOf n = [] ∨
    ∃ w off, σ.cur.sgTarget σ.turn.core x = some (w, off) ∧ ∀ j ∈ σ.cur.accessesOf n, off + j * n + n ≤ 0x40000 := by
  by_cases h : σ.cur.accessesOf n = []
  · exact iff_of_true ⟨[], State.sgRow_nil h⟩ (.inl h)
  · constructor
    · rintro ⟨sp, hs⟩
      cases ht : σ.cur.sgTarget σ.turn.core x with
      | none => rw [State.sgRow_accessList h ht] at hs; cases hs
      | some t =>
        refine .inr ⟨t.1, t.2, rfl, fun j hj => Nat.not_lt.1 fun hlt => ?_⟩
        rw [State.sgRow_addressing h ht ⟨j, hj, hlt⟩] at hs
        cases hs
    · rintro (h' | ⟨w, off, ht, hp⟩)
      · exact absurd h' h
      · exact ⟨_, State.sgRow_ok h ht hp⟩

end Places

/-- Settles O40: the four words share one effect, which waits, faults or hands over the accesses of the row; `find?` over the
enabled accesses in rising order picks the first fault of the lowest rank. -/
theorem vectorGlobalAccess : Obligations.VectorGlobalAccess := by
  unfold Obligations.VectorGlobalAccess
  simp only [List.forall_mem_cons, List.not_mem_nil, false_implies, implies_true, and_true]
  refine ⟨fun tk z x d c s l w => ⟨?_, ?_⟩, fun tk z x d c s l w => ⟨?_, ?_⟩, fun tk z l x c d s w => ⟨?_, ?_, ?_, ?_⟩, ?_,
    Core.mem_accessesOf⟩
  · exact fun _ _ _ => rowLoad_does (exec_vldG_rowAccess tk z x d c s l w)
  · exact fun _ _ _ => rowLoad_does (exec_vldSg_rowAccess tk z x d c s w)
  · exact fun _ _ _ => rowStore_does (exec_vstG_rowAccess tk z x d c s l w)
  · exact fun _ _ _ => rowStore_does (exec_vstSg_rowAccess tk z x d c s w)
  · exact waits_of_effect (exec_vldG_rowAccess tk z x d c s l w) fun _ _ => State.rowAccess_waits
  · exact waits_of_effect (exec_vstG_rowAccess tk z x d c s l w) fun _ _ => State.rowAccess_waits
  · exact waits_of_effect (exec_vldSg_rowAccess tk z x d c s w) fun _ _ => State.rowAccess_waits
  · exact waits_of_effect (exec_vstSg_rowAccess tk z x d c s w) fun _ _ => State.rowAccess_waits
  · rintro σ x n k js past dead rfl hpast hdead
    obtain rfl : past = pastG x n := funext fun j => propext (hpast j)
    obtain rfl : dead = σ.deadG x n := funext fun j => propext (hdead j)
    exact ⟨fun h => State.gRow_eq_ok_iff.2 ⟨h, rfl⟩, fun j => State.gRow_addressing, fun j => State.gRow_outlived,
      State.sgRow_nil, State.sgRow_accessList, fun w off h ht => ⟨State.sgRow_ok h ht, State.sgRow_addressing h ht⟩,
      ⟨fun ⟨_, h⟩ => (State.gRow_eq_ok_iff.1 h).1, fun h => ⟨_, State.gRow_eq_ok_iff.2 ⟨h, rfl⟩⟩⟩,
      State.exists_sgRow_ok_iff⟩

end Sys2Proof.Machine
end

section
/-! How the words of the four streams run (R11, R13, R146), and what they leave as it is (R15, R84, R88). -/

namespace Sys2Proof.Machine

open Sys2Proof

/-! ### States that differ in the moving core and the notes alone -/

/-- `t` differs from `s` in the moving core of `s` and in the notes of what parties have done. -/
structure State.Near (s t : State) : Prop where
  rest : ∃ cores hist, t = { s with cores := cores, hist := hist }
  others : s.cores.sorted = true → t.cores.sorted = true ∧ ∀ v, v ≠ s.turn.core → t.core v = s.core v

namespace State.Near

variable {s t u : State}

theorem refl (s : State) : State.Near s s := ⟨⟨_, _, rfl⟩, fun h => ⟨h, fun _ _ => rfl⟩⟩

theorem turn (h : State.Near s t) : t.turn = s.turn := by
  obtain ⟨⟨_, _, rfl⟩, -⟩ := h
  rfl

theorem trans (h : State.Near s t) (h' : State.Near t u) : State.Near s u := by
  have ht := h.turn
  obtain ⟨⟨_, _, rfl⟩, hc⟩ := h
  obtain ⟨⟨_, _, rfl⟩, hc'⟩ := h'
  refine ⟨⟨_, _, rfl⟩, fun hs => ?_⟩
  obtain ⟨hs1, h1⟩ := hc hs
  obtain ⟨hs2, h2⟩ := hc' hs1
  exact ⟨hs2, fun v hv => (h2 v hv).trans (h1 v hv)⟩

theorem setCore (s : State) {v : Nat} (hv : v = s.turn.core) (c : Core) : State.Near s (s.setCore v c) :=
  ⟨⟨_, _, rfl⟩, fun h => ⟨Tab.sorted_put c h, fun _ hw => State.core_setCore_ne c h (hv ▸ hw)⟩⟩

theorem record (s : State) (e : Ev) : State.Near s (s.record e) := ⟨⟨_, _, rfl⟩, fun h => ⟨h, fun _ _ => rfl⟩⟩

theorem note (s : State) (e : Ev) : State.Near s (s.note e) := by
  unfold State.note
  split
  · exact refl s
  · exact record s e

theorem notes {α : Type} (f : State → α → Ev) : ∀ (l : List α) (s : State),
    State.Near s (l.foldl (fun s x => s.note (f s x)) s)
  | [], s => refl s
  | x :: l, s => (note s (f s x)).trans (notes f l _)

theorem flushStr (s : State) {v : Nat} (hv : v = s.turn.core) (st : Stream) : State.Near s (s.flushStr v st) := by
  unfold State.flushStr
  split
  · exact refl s
  · exact (setCore s hv _).trans (notes _ _ _)

theorem flushAt (s : State) {v : Nat} (hv : v = s.turn.core) : State.Near s (s.flushAt v) := by
  have h1 := flushStr s hv .C
  have h2 := h1.trans (flushStr _ (hv.trans (by rw [h1.turn])) .L)
  have h3 := h2.trans (flushStr _ (hv.trans (by rw [h2.turn])) .M)
  exact h3.trans (flushStr _ (hv.trans (by rw [h3.turn])) .V)

theorem park (s : State) {v : Nat} (hv : v = s.turn.core) (r : CauseRec) : State.Near s (s.park v r) := setCore s hv _

theorem fenced (s : State) (st : Stream) (m : BitVec 16) (sc : BitVec 3) : State.Near s (s.fenced st m sc) := by
  unfold State.fenced
  dsimp only
  split
  · exact (setCore s rfl _).trans (record _ _)
  · exact (setCore s rfl _).trans (note _ _)

theorem seen (s : State) (r : Ev) (loc : Nat) (now : List Byte) : State.Near s (s.seen r loc now).1 := note s _

theorem look (s : State) (ag : Agent) (loc : Nat) (now : List Byte) : State.Near s (s.look ag loc now).1 := by
  unfold State.look
  split
  · exact seen s _ _ _
  · exact refl s

theorem viewGo (ag : Agent) (v : Nat) : ∀ (rs : List (Buf × Nat × Nat)) (s : State) (c : Core),
    State.Near s (State.viewGo ag v rs s c).1
  | [], s, _ => refl s
  | (_, _, _) :: rs, s, _ => (look s ag _ _).trans (viewGo ag v rs _ _)

theorem view (s : State) (ag : Agent) (v : Nat) (rs : List (Buf × Nat × Nat)) : State.Near s (s.view ag v rs).1 := by
  unfold State.view
  split
  · exact refl s
  · exact viewGo ag v rs s _

end State.Near

/-! ### Effects that stay within the moving core -/

/-- The state that an effect leaves differs from `s` in the moving core and the notes alone. -/
def Eff.Near (s : State) : Eff → Prop
  | .go t _ => s.Near t
  | .late t => s.Near t
  | _ => True

section Effects

variable {s σ : State}

theorem Eff.Near.ite {p : Prop} [Decidable p] {e f : Eff} (he : e.Near s) (hf : f.Near s) :
    (if p then e else f).Near s := by
  split
  · exact he
  · exact hf

theorem Eff.Near.checked {e : Eff} (he : e.Near s) (wf : Bool) : (e.checked wf).Near s := by
  cases e <;> cases wf <;> trivial

theorem Eff.Near.finish {e : Eff} (hσ : s.Near σ) (he : e.Near σ) (st : Stream) (hw : Nat) (push : BitVec 2) :
    s.Near (e.finish s s.turn.core st hw push) := by
  have go (t : State) (ht : σ.Near t) (c : Core) : s.Near ((t.setCore s.turn.core c).flushAt s.turn.core) := by
    have h1 := hσ.trans ht
    have h2 := h1.trans (State.Near.setCore t (congrArg Turn.core h1.turn.symm) c)
    exact h2.trans (State.Near.flushAt _ (congrArg Turn.core h2.turn.symm))
  cases e with
  | wait => exact State.Near.refl s
  | fault c a => exact State.Near.park s rfl _
  | go t x => exact go t he _
  | late t => exact go t he _

theorem near_of_popped {s s1 : State} {st : Stream} {tk : Tok} {x : BitVec 32} (h : s.popped st tk = some (s1, x)) :
    s.Near s1 := by
  obtain ⟨-, rfl, -⟩ | ⟨_, _, -, -, -, rfl⟩ := State.popped_cases h
  · exact State.Near.refl s1
  · exact (State.Near.setCore s rfl _).trans (State.Near.note _ _)

theorem onCore_near (s : State) (f : Core → Core) : (onCore s f).Near s := State.Near.setCore s rfl _

theorem onCore_near_note (s : State) (e : Ev) (f : Core → Core) : (onCore (s.note e) f).Near s :=
  (State.Near.note s e).trans (onCore_near (s.note e) f)

end Effects

end Sys2Proof.Machine
end

section
namespace Sys2Proof.Machine

open Sys2Proof

/-! ### Every word of a stream is issued -/

/-- The words whose effect reaches beyond their core: a header fetches its block, and the others move engines or tasks. -/
def Instr.reaches (i : Instr) : Bool :=
  match i with
  | .blockHeader .. | .engage .. | .lease .. | .unlease .. | .exit .. => true
  | _ => false

/-- The words that write one s, b or x register or one row. -/
def Instr.writesOne (i : Instr) : Bool :=
  i.intDest.isSome || i.floatDest.isSome || i.bDest.isSome || i.xDest.isSome || i.vDest.isSome

/-- How a word of stream `st` runs from `s`: it is issued with an effect `f` that stays within the moving core, unless it reaches
beyond it; and where the word writes one register or row and breaks R146, its effect waits for nothing while no access is
pending. -/
structure Word (s : State) (st : Stream) (i : Instr) (hw : Nat) (f : State → BitVec 32 → Eff) : Prop where
  moves : s.turn.st = st
  run : exec i s = issue s st i i.tok hw f
  near : Instr.reaches i = false → ∀ σ x, (f σ x).Near σ
  ready : Instr.writesOne i = true → i.wf st = false → ∀ σ x, σ.cur.fl = [] → σ.cur.acc = [] → f σ x ≠ .wait

def IsWord (s : State) (i : Instr) : Prop := ∃ st hw f, Word s st i hw f

section Forms

variable {s : State} {st : Stream} {i : Instr} {hw : Nat} {f : State → BitVec 32 → Eff}

theorem Core.sBusy_eq_false {c : Core} (h : c.fl = []) (rs : List (BitVec 5)) : c.sBusy rs = false := by
  simp [Core.sBusy, h]

theorem Core.rowBusy_eq_false {c : Core} (h : c.fl = []) (h' : c.acc = []) (rows : List Nat) : c.rowBusy rows = false := by
  simp [Core.rowBusy, h, h']

theorem isWord_cOp (hs : s.turn.st = .C) {rs : List (BitVec 5)} {g : Core → Core} (h : exec i s = cOp s i i.tok rs g) :
    IsWord s i :=
  ⟨.C, _, _, hs, h, fun _ σ _ => .ite trivial (onCore_near σ g), fun _ _ σ _ hf _ => by
    rw [if_neg (by simp [Core.sBusy_eq_false hf])]
    exact nofun⟩

theorem isWord_cCompact (hs : s.turn.st = .C) {rs : List (BitVec 5)} {g : Core → Core} (ht : i.tok = Tok.none)
    (h : exec i s = cCompact s i rs g) : IsWord s i :=
  ⟨.C, 1, fun σ _ => if σ.cur.sBusy rs then .wait else onCore σ g, hs, by rw [h, ht]; rfl,
    fun _ σ _ => .ite trivial (onCore_near σ g), fun _ _ σ _ hf _ => by
      rw [if_neg (by simp [Core.sBusy_eq_false hf])]
      exact nofun⟩

theorem isWord_onCore (hs : s.turn.st = st) {g : Core → Core} (h : exec i s = issue s st i i.tok hw fun σ _ => onCore σ g) :
    IsWord s i :=
  ⟨st, _, _, hs, h, fun _ σ _ => onCore_near σ g, fun _ _ _ _ _ _ => nofun⟩

theorem isWord_vOp (hs : s.turn.st = .V) {rows : Core → List Nat} {g : Core → Core} (h : exec i s = vOp s i i.tok rows g) :
    IsWord s i :=
  ⟨.V, _, _, hs, h, fun _ σ _ => .ite trivial (onCore_near σ g), fun _ _ σ _ hf ha => by
    rw [if_neg (by simp [Core.rowBusy_eq_false hf ha])]
    exact nofun⟩

/-- A word that writes neither one register nor one row, or keeps the rules of R146 whatever its operands. -/
theorem isWord_of_near (hs : s.turn.st = st) (hd : Instr.writesOne i = false ∨ i.wf st = true)
    (h : exec i s = issue s st i i.tok hw f) (hf : ∀ σ x, (f σ x).Near σ) : IsWord s i :=
  ⟨st, _, _, hs, h, fun _ => hf, fun hd' hw' => by cases hd <;> simp_all⟩

theorem isWord_reaches (hs : s.turn.st = st) (hr : Instr.reaches i = true) (hd : Instr.writesOne i = false)
    (h : exec i s = issue s st i i.tok hw f) : IsWord s i :=
  ⟨st, _, _, hs, h, fun hr' => by simp [hr] at hr', fun hd' => by simp [hd] at hd'⟩

end Forms

/-! ### The effects of the words -/

section Near

variable (σ : State)

theorem State.sendLoad_near (st : Stream) (sp : List Spec) (c sc pol : Nat) (d : Dest) (p : BitVec 2) :
    (σ.sendLoad st sp c sc pol d p).Near σ := State.Near.setCore σ rfl _

theorem State.sendStore_near (st : Stream) (sp : List Spec) (c sc pol : Nat) (p : BitVec 2) :
    (σ.sendStore st sp c sc pol p).Near σ := .ite (State.Near.setCore σ rfl _) (State.Near.setCore σ rfl _)

variable {σ}

theorem State.gAccess_near {c : BitVec 4} {rs : List (BitVec 5)} {a : BitVec 5} {n m : Nat} {send : Eff} (h : send.Near σ) :
    (σ.gAccess c rs a n m send).Near σ := by
  refine .ite trivial (.ite trivial ?_)
  split
  · trivial
  · exact h

theorem State.sAccess_near {code : BitVec 2} {c : BitVec 4} {rs : List (BitVec 5)} {a : BitVec 5} {n m : Nat}
    {send : Space → Nat → Eff} (h : ∀ sp off, (send sp off).Near σ) : (σ.sAccess code c rs a n m send).Near σ := by
  refine .ite trivial ?_
  split
  · trivial
  · exact .ite trivial (h _ _)

variable (σ)

theorem vload_near (r : Except (Cause × Nat) (List Spec)) (row c s l : Nat) (p : BitVec 2) : (vload σ r row c s l p).Near σ := by
  unfold vload
  split
  · trivial
  · exact .ite (State.Near.refl σ) (σ.sendLoad_near ..)

theorem vstore_near (r : Except (Cause × Nat) (List Spec)) (c s l : Nat) (p : BitVec 2) : (vstore σ r c s l p).Near σ := by
  unfold vstore
  split
  · trivial
  · exact .ite (State.Near.refl σ) (σ.sendStore_near ..)

theorem State.branchTo_near (t : Nat) (call : Bool) : (σ.branchTo t call).Near σ :=
  .ite trivial (.ite (onCore_near σ _) (.ite trivial (.ite trivial (onCore_near σ _))))

theorem finishIn_near (tk : Tok) (x : BitVec 32) (f : Core → Core) : (finishIn σ tk x f).Near σ :=
  .ite (State.Near.setCore σ rfl _) (State.Near.setCore σ rfl _)

theorem finishIn_near_of {σ1 : State} (h : σ.Near σ1) (tk : Tok) (x : BitVec 32) (f : Core → Core) :
    (finishIn σ1 tk x f).Near σ :=
  .ite (h.trans (State.Near.setCore σ1 rfl _)) (h.trans (State.Near.setCore σ1 rfl _))

theorem incBy_near (tk : Tok) (k : BitVec 6) (n : Nat) : (incBy σ tk k n).Near σ :=
  .ite (State.Near.setCore σ rfl _) (onCore_near σ _)

theorem kTest_near (tk : Tok) (k : BitVec 6) (holds : Bool) (f : Core → Core) : (kTest σ tk k holds f).Near σ :=
  .ite (finishIn_near_of σ (State.Near.note σ _) tk 0 _) trivial

theorem enqueueM_near (tk : Tok) (op : MOp) (f : Core → Core) : (enqueueM σ tk op f).Near σ := State.Near.setCore σ rfl _

theorem issueMma_near (i : Instr) (tk : Tok) (trans : Bool) (t : BitVec 3) (a b : BitVec 4) (g : BitVec 3) (f : BitVec 5)
    (r : BitVec 3) : (issueMma σ i tk trans t a b g f r).Near σ := by
  refine .ite trivial ?_
  split
  · trivial
  · exact enqueueM_near σ ..

theorem issueTld_near (tk : Tok) (t : BitVec 3) (b : BitVec 4) (buf : Buf) : (issueTld σ tk t b buf).Near σ :=
  .ite trivial (.ite trivial (enqueueM_near σ ..))

theorem issueL_near (i : Instr) (tk : Tok) (f : LForm) (x : BitVec 32) : Eff.Near σ
    (let l := f.make i σ.cur (if tk.pop = 0 then none else some x)
     if 32 ≤ σ.cur.lcmds.length ∨ (l.isGath ∧ 8 ≤ (σ.cur.lcmds.filter LCmd.isGath).length) then .wait
     else
       match l.check σ σ.turn.core with
       | some (cause, a) => .fault cause a
       | none =>
         .go ((σ.setCore σ.turn.core
           { σ.cur with
             lcmds := σ.cur.lcmds ++ [{ l with work := l.plan σ σ.turn.core }], nextId := σ.cur.nextId + 1 }).note
           (σ.lForkEv σ.turn.core l)) 0) := by
  refine .ite trivial ?_
  split
  · trivial
  · exact (State.Near.setCore σ rfl _).trans (State.Near.note _ _)

end Near

theorem isWord_issueL {s : State} {i : Instr} {f : LForm} (hs : s.turn.st = .L) (hd : Instr.writesOne i = false)
    (h : exec i s = issueL s i i.tok f) : IsWord s i :=
  isWord_of_near hs (.inl hd) h fun σ x => issueL_near σ i i.tok f x

/-- A load of a row from a buffer, which waits for the rows it names alone. -/
theorem isWord_rowLoad {s : State} {i : Instr} (hs : s.turn.st = .V) {rows : State → List Nat} {ok : State → Bool}
    {sp : State → List Spec} {row : State → Nat} {p : BitVec 2}
    (h : exec i s = issue s .V i i.tok 2 fun σ _ =>
      if σ.cur.rowBusy (rows σ) then .wait else if !ok σ then .fault .addressing 0 else vload σ (.ok (sp σ)) (row σ) 16 0 0 p) :
    IsWord s i :=
  ⟨.V, _, _, hs, h, fun _ σ _ => .ite trivial (.ite trivial (vload_near σ ..)), fun _ _ σ _ hf ha => by
    rw [if_neg (by simp [Core.rowBusy_eq_false hf ha])]
    split
    · exact nofun
    · unfold vload
      split
      · exact nofun
      · split
        · exact nofun
        · exact nofun⟩

theorem waitw_unarmed {s : State} (h : s.cur.waitw = none) (tk : Tok) (b a : BitVec 5) (k : BitVec 4) (sc c : BitVec 3) :
    ∃ f, exec (.waitw tk b a k sc c) s = issue s .C (.waitw tk b a k sc c) tk 0 f ∧ ∀ σ x, (f σ x).Near σ := by
  rw [exec, execWaitw, h]
  exact ⟨_, rfl, fun σ _ => .ite trivial (.ite trivial (.ite (onCore_near_note σ _ _) (State.Near.setCore σ rfl _)))⟩

theorem isWord_C {s : State} {i : Instr} (hi : i.homes = [.C]) (hs : s.turn.st = .C)
    (hw : ∀ tk b a k sc c, i = .waitw tk b a k sc c → s.cur.waitw = none) : IsWord s i := by
  cases i
  case add | sub | and | or | xor | andn | sll | srl | sra | mul | mulh | mulhu | div | divu | rem | remu | min | max | minu |
      maxu | clz | popc | addi | andi | ori | xori | slli | srli | srai | li | lis | cmp | cmpi | qand | qor | qxor | qandn |
      qnot | qset | qclr | faddF64 | fsubF64 | fmulF64 | fdivF64 | fminF64 | fmaxF64 | fsqrtF64 | ffmaF64 | faddF32 |
      fsubF32 | fmulF32 | fdivF32 | fminF32 | fmaxF32 | fsqrtF32 | ffmaF32 | cvt | arenaH | arenaA | mfsr | mtsr =>
    exact isWord_cOp hs rfl
  case mov | addc | lic => exact isWord_cCompact hs rfl rfl
  case ld =>
    exact isWord_of_near hs (.inl rfl) (exec_ld_gAccess ..)
      fun σ _ => State.gAccess_near (σ.sendLoad_near ..)
  case amoG =>
    exact isWord_of_near hs (.inl rfl) (exec_amoG_gAccess ..)
      fun σ _ => State.gAccess_near (σ.sendLoad_near ..)
  case st =>
    exact isWord_of_near hs (.inl rfl) (exec_st_gAccess ..)
      fun σ _ => State.gAccess_near (σ.sendStore_near ..)
  case redf =>
    exact isWord_of_near hs (.inl rfl) (exec_redf_gAccess ..)
      fun σ _ => State.gAccess_near (σ.sendStore_near ..)
  case ldl =>
    exact isWord_of_near hs (.inl rfl) (exec_ldl_sAccess ..)
      fun σ _ => State.sAccess_near fun _ _ => σ.sendLoad_near ..
  case amoS =>
    exact isWord_of_near hs (.inl rfl) (exec_amoS_sAccess ..)
      fun σ _ => State.sAccess_near fun _ _ => σ.sendLoad_near ..
  case amoSg =>
    exact isWord_of_near hs (.inl rfl) (exec_amoSg_sAccess ..)
      fun σ _ => State.sAccess_near fun _ _ => σ.sendLoad_near ..
  case stl =>
    exact isWord_of_near hs (.inl rfl) (exec_stl_sAccess ..)
      fun σ _ => State.sAccess_near fun _ _ => σ.sendStore_near ..
  case bq =>
    exact isWord_of_near hs (.inl rfl) (execBq.eq_1 ..)
      fun σ _ => .ite (σ.branchTo_near ..) (onCore_near σ _)
  case bnq =>
    exact isWord_of_near hs (.inl rfl) (execBnq.eq_1 ..)
      fun σ _ => .ite (onCore_near σ _) (σ.branchTo_near ..)
  case j => exact isWord_of_near hs (.inl rfl) (execJ.eq_1 ..) fun σ _ => σ.branchTo_near ..
  case call => exact isWord_of_near hs (.inl rfl) (execCall.eq_1 ..) fun σ _ => σ.branchTo_near ..
  case jmpr =>
    exact isWord_of_near hs (.inl rfl) (execJmpr.eq_1 ..)
      fun σ _ => .ite trivial (σ.branchTo_near ..)
  case callr =>
    exact isWord_of_near hs (.inl rfl) (execCallr.eq_1 ..)
      fun σ _ => .ite trivial (σ.branchTo_near ..)
  case ret =>
    exact isWord_of_near hs (.inl rfl) (execRet.eq_1 ..)
      fun σ _ => .ite trivial (onCore_near σ _)
  case kincr =>
    exact isWord_of_near hs (.inl rfl) (execKincr.eq_1 ..)
      fun σ _ => .ite trivial (onCore_near σ _)
  case ifence =>
    exact isWord_of_near hs (.inl rfl) (execIfence.eq_1 ..)
      fun σ _ => .ite (onCore_near_note σ _ _) trivial
  case fence =>
    exact isWord_of_near hs (.inl rfl) (execFence.eq_1 ..)
      fun σ _ => State.Near.fenced σ ..
  case waitw tk b a k sc c =>
    obtain ⟨f, he, hf⟩ := waitw_unarmed (hw tk b a k sc c rfl) tk b a k sc c
    exact isWord_of_near hs (.inl rfl) he hf
  case engage => exact isWord_reaches hs rfl rfl (execEngage.eq_1 ..)
  case lease => exact isWord_reaches hs rfl rfl (execLease.eq_1 ..)
  case unlease => exact isWord_reaches hs rfl rfl (execUnlease.eq_1 ..)
  case exit => exact isWord_reaches hs rfl rfl (execExit.eq_1 ..)
  case trap =>
    exact isWord_of_near hs (.inl rfl) (execTrap.eq_1 ..)
      fun σ _ => State.Near.setCore σ rfl _
  case brk =>
    exact isWord_of_near hs (.inl rfl) (execBrk.eq_1 ..)
      fun σ _ => State.Near.setCore σ rfl _
  case kset => exact isWord_of_near hs (.inl rfl) (execKset.eq_1 ..) fun σ _ => onCore_near σ _
  case kread =>
    exact isWord_of_near hs (.inr rfl) (execKread.eq_1 ..) fun σ _ => .ite trivial (kTest_near σ ..)
  case kincCompact =>
    exact isWord_of_near hs (.inl rfl) (execKincCompact.eq_1 ..)
      fun σ _ => incBy_near σ ..
  all_goals cases hi

theorem isWord_L {s : State} {i : Instr} (hi : i.homes = [.L]) (hs : s.turn.st = .L) : IsWord s i := by
  cases i
  case cp1d | cp2d | cp3d | cpw1d | cpw2d | cpw3d | cpl | cpr | cpm | cvcp | pfBulk | pfRel | lgath | lscat | lfill =>
    exact isWord_issueL hs rfl rfl
  case badd | bsub | band | bor | bxor | bsll | bsrl | bmul | baddi | bli | blis | bmov | baddc =>
    exact isWord_onCore hs rfl
  all_goals cases hi

theorem isWord_M {s : State} {i : Instr} (hi : i.homes = [.M]) (hs : s.turn.st = .M) : IsWord s i := by
  cases i
  case mma => exact isWord_of_near hs (.inl rfl) (execMma.eq_1 ..) fun σ _ => issueMma_near σ ..
  case mmat => exact isWord_of_near hs (.inl rfl) (execMmat.eq_1 ..) fun σ _ => issueMma_near σ ..
  case tclr =>
    exact isWord_of_near hs (.inl rfl) (execTclr.eq_1 ..)
      fun σ _ => .ite trivial (enqueueM_near σ ..)
  case tclrCompact =>
    exact isWord_of_near hs (.inl rfl) (execTclrCompact.eq_1 ..)
      fun σ _ => .ite trivial (enqueueM_near σ ..)
  case tldA => exact isWord_of_near hs (.inl rfl) (execTldA.eq_1 ..) fun σ _ => issueTld_near σ ..
  case tldW => exact isWord_of_near hs (.inl rfl) (execTldW.eq_1 ..) fun σ _ => issueTld_near σ ..
  case drain =>
    exact isWord_of_near hs (.inl rfl) (execDrain.eq_1 ..)
      fun σ _ => .ite trivial (.ite trivial (.ite trivial ((State.Near.note σ _).trans (.setCore _ rfl _))))
  case eload =>
    exact isWord_of_near hs (.inl rfl) (execEload.eq_1 ..)
      fun σ _ => .ite trivial (.ite trivial (.ite trivial (finishIn_near_of σ (.view σ ..) ..)))
  case gli => exact isWord_of_near hs (.inl rfl) (execGli.eq_1 ..) fun σ _ => finishIn_near σ ..
  case glis => exact isWord_of_near hs (.inl rfl) (execGlis.eq_1 ..) fun σ _ => finishIn_near σ ..
  all_goals cases hi

theorem isWord_V {s : State} {i : Instr} (hi : i.homes = [.V]) (hs : s.turn.st = .V) : IsWord s i := by
  cases i
  case vfence =>
    exact isWord_of_near hs (.inl rfl) (execVfence.eq_1 ..)
      fun σ _ => State.Near.fenced σ ..
  case vgov => exact isWord_of_near hs (.inl rfl) (execVgov.eq_1 ..) fun σ _ => onCore_near σ _
  case vaddF32 | vsubF32 | vmulF32 | vfmaF32 | vminF32 | vmaxF32 | vdivF32 | vaddF64 | vsubF64 | vmulF64 | vfmaF64 | vminF64 |
      vmaxF64 | vdivF64 | vaddF16 | vsubF16 | vmulF16 | vfmaF16 | vminF16 | vmaxF16 | vdivF16 | vaddBf16 | vsubBf16 |
      vmulBf16 | vfmaBf16 | vminBf16 | vmaxBf16 | vdivBf16 | vaddI32 | vsubI32 | vmulI32 | vmulhI32 | vand | vor | vxor |
      vandn | vsll | vsrl | vsra | vaddI16 | vsubI16 | vmulI16 | vcmp | vmov | vsel | vbcast | vsqrt | vrsqrt | vexp2 |
      vlog2 | vexp | vln | vsin | vcos | vtanh | verf | vrcp | vcvtF32 | vcvtF64 | vcvtI32 | vquant | vexpand | vrsum |
      vrmax | vrmin | vbcl | vrotl | vshuf | vzip | pand | por | pxor | pandn | pnot | pset | pclr | xli | xlis | xadd |
      xsub | xand | xorX | xxor | xsll | xsrl | xmul | vflrd | vflclr | vbaseW | vbaseR | vrotW | vrotR =>
    exact isWord_vOp hs (by unfold exec; rfl)
  case vldr =>
    exact isWord_rowLoad hs (execVldr.eq_1 ..)
  case vgath =>
    exact isWord_rowLoad hs (execVgath.eq_1 ..)
  case vstr =>
    exact isWord_of_near hs (.inl rfl) (execVstr.eq_1 ..)
      fun σ _ => .ite trivial (.ite trivial (.ite trivial (vstore_near σ ..)))
  case vscat =>
    exact isWord_of_near hs (.inl rfl) (execVscat.eq_1 ..)
      fun σ _ => .ite trivial (.ite trivial (.ite trivial (vstore_near σ ..)))
  case vldG =>
    exact isWord_of_near hs (.inl rfl) (execVldG.eq_1 ..)
      fun σ _ => .ite trivial (vload_near σ ..)
  case vldSg =>
    exact isWord_of_near hs (.inl rfl) (execVldSg.eq_1 ..)
      fun σ _ => .ite trivial (vload_near σ ..)
  case vstG =>
    exact isWord_of_near hs (.inl rfl) (execVstG.eq_1 ..)
      fun σ _ => .ite trivial (vstore_near σ ..)
  case vstSg =>
    exact isWord_of_near hs (.inl rfl) (execVstSg.eq_1 ..)
      fun σ _ => .ite trivial (vstore_near σ ..)
  all_goals cases hi

theorem isWord_any {s : State} {i : Instr} (hi : i.homes = [.C, .L, .M, .V]) : IsWord s i := by
  cases i
  case blockHeader => exact isWord_reaches rfl rfl rfl (execBlockHeader.eq_1 ..)
  case take => exact isWord_of_near rfl (.inl rfl) (execTake.eq_1 ..) fun σ _ => .ite trivial (finishIn_near σ ..)
  case give => exact isWord_of_near rfl (.inl rfl) (execGive.eq_1 ..) fun σ _ => .ite trivial (finishIn_near σ ..)
  case nopToken => exact isWord_of_near rfl (.inl rfl) (execNopToken.eq_1 ..) fun σ _ => finishIn_near σ ..
  case nop => exact isWord_of_near rfl (.inl rfl) (execNop.eq_1 ..) fun σ _ => onCore_near σ _
  case kinc => exact isWord_of_near rfl (.inl rfl) (execKinc.eq_1 ..) fun σ _ => incBy_near σ ..
  case kwge => exact isWord_of_near rfl (.inl rfl) (execKwge.eq_1 ..) fun σ _ => kTest_near σ ..
  case kwgs => exact isWord_of_near rfl (.inl rfl) (execKwgs.eq_1 ..) fun σ _ => kTest_near σ ..
  case kwlt => exact isWord_of_near rfl (.inl rfl) (execKwlt.eq_1 ..) fun σ _ => kTest_near σ ..
  all_goals cases hi

theorem Instr.homes_cases (i : Instr) :
    (∃ st, i.homes = [st]) ∨ i.homes = [.C, .L, .M, .V] ∨ i.homes = [] := by
  cases i <;> simp [Instr.homes]

/-- Every word of the moving stream is issued; a `waitw` that is armed only waits for its word. -/
theorem isWord {s : State} {i : Instr} (h : s.turn.st ∈ i.homes)
    (hw : ∀ tk b a k sc c, i = .waitw tk b a k sc c → s.cur.waitw = none) : IsWord s i := by
  obtain ⟨st, hi⟩ | hi | hi := Instr.homes_cases i
  · have hs : s.turn.st = st := List.mem_singleton.1 (hi ▸ h)
    cases st
    · exact isWord_C hi hs hw
    · exact isWord_L hi hs
    · exact isWord_M hi hs
    · exact isWord_V hi hs
  · exact isWord_any hi
  · exact absurd (hi ▸ h) List.not_mem_nil

end Sys2Proof.Machine
end

section
namespace Sys2Proof.Machine

open Sys2Proof

/-! ### A word that may not issue, and one that breaks R146 (O8) -/

theorem Core.waitw_of_canIssue {c : Core} {st : Stream} (h : c.canIssue st = true) (hs : st = .C) : c.waitw = none := by
  subst hs
  simp only [Core.canIssue, Bool.and_eq_true, bne_self_eq_false, Bool.false_or] at h
  exact Option.isNone_iff_eq_none.1 h.2.1.1

/-- Every word whose stream may issue is issued: no `waitw` is armed then. -/
theorem isWord_of_canIssue {s : State} {i : Instr} (h : s.turn.st ∈ i.homes) (hc : s.cur.canIssue s.turn.st = true) :
    IsWord s i :=
  isWord h fun _ _ _ _ _ _ hi => Core.waitw_of_canIssue hc (List.mem_singleton.1 (by rw [hi] at h; exact h))

theorem State.popped_cur {s s1 : State} {st : Stream} {tk : Tok} {x : BitVec 32} (h : s.popped st tk = some (s1, x)) :
    s1.cur.fl = s.cur.fl ∧ s1.cur.acc = s.cur.acc := by
  obtain ⟨-, rfl, -⟩ | ⟨_, _, -, -, -, rfl⟩ := State.popped_cases h
  · exact ⟨rfl, rfl⟩
  · simp [Core.setQueue]

theorem Core.files_handlerUsed (c : Core) (now : Now) : (c.handlerUsed now).files = c.files := by
  unfold Core.handlerUsed
  split <;> rfl

theorem Core.start_keeps (c : Core) (now : Now) :
    (c.start now).files = c.files ∧ (c.start now).tq = c.tq ∧ (c.start now).strm = c.strm ∧ (c.start now).acc = c.acc := by
  unfold Core.start Core.implicitExit
  split
  · split <;> exact ⟨rfl, rfl, rfl, rfl⟩
  · exact ⟨rfl, rfl, rfl, rfl⟩

theorem Core.handlerUsed_keeps (c : Core) (now : Now) :
    (c.handlerUsed now).tq = c.tq ∧ (c.handlerUsed now).strm = c.strm ∧ (c.handlerUsed now).acc = c.acc := by
  unfold Core.handlerUsed
  split <;> exact ⟨rfl, rfl, rfl⟩

/-- Parking pops and pushes no token, moves no stream, and changes no register, counter, flag or access. -/
theorem Core.park_keeps (c : Core) (now : Now) (r : CauseRec) :
    (c.park now r).files = c.files ∧ (c.park now r).tq = c.tq ∧ (c.park now r).strm = c.strm ∧
      (c.park now r).acc = c.acc := by
  unfold Core.park
  split
  · exact Core.start_keeps c now
  · exact ⟨rfl, rfl, rfl, rfl⟩
  · exact ⟨rfl, rfl, rfl, rfl⟩
  · exact ⟨Core.files_handlerUsed c now, Core.handlerUsed_keeps c now⟩
  · exact ⟨rfl, rfl, rfl, rfl⟩

/-- Settles O8: every word is issued (`isWord`), an issue waits while it cannot pop, and the effect of an ill-formed word is
checked before its pop counts. -/
theorem illegalWordsParkAndEmptyPopsWait : Obligations.IllegalWordsParkAndEmptyPopsWait := by
  unfold Obligations.IllegalWordsParkAndEmptyPopsWait
  refine ⟨fun s i hm hc hp => ?_, fun s s1 x i hm hc hwf hp => ?_, fun c now r => Core.park_keeps c now r⟩
  · obtain ⟨st, hw, f, h⟩ := isWord_of_canIssue hm hc
    rw [h.run]
    exact issue_empty (h.moves ▸ hp) hw f
  · obtain ⟨st, hw, f, h⟩ := isWord_of_canIssue hm hc
    obtain ⟨rfl, hrun, -, hready⟩ := h
    have hpark (hf : f s1 x ≠ .wait) := hrun.trans (issue_illegal (n := hw) hc hp hwf hf)
    refine ⟨?_, fun hone hfl hacc => ?_⟩
    · by_cases hf : f s1 x = .wait
      · exact .inl (hrun.trans (issue_illegal_wait hc hp hf))
      · exact .inr (hpark hf)
    · obtain ⟨hfl', hacc'⟩ := State.popped_cur hp
      exact hpark (hready hone hwf s1 x (hfl'.trans hfl) (hacc'.trans hacc))

/-! ### The frame of a word (O9) -/

theorem State.Near.issued {s t : State} {st : Stream} {i : Instr} {tk : Tok} {hw : Nat} {f : State → BitVec 32 → Eff}
    (hf : ∀ σ x, (f σ x).Near σ) (h : issue s st i tk hw f = .next t) : s.Near t := by
  cases hc : s.cur.canIssue st with
  | false =>
    cases (issue_blocked hc hw f).symm.trans h
    exact .refl s
  | true =>
    cases hp : s.popped st tk with
    | none =>
      cases (issue_empty hp hw f).symm.trans h
      exact .refl s
    | some y =>
      cases (issue_of_popped hc hp hw f).symm.trans h
      exact Eff.Near.finish (near_of_popped hp) ((hf _ _).checked _) _ _ _

/-- A `waitw` that is armed changes its core alone. -/
theorem State.Near.waitw {s t : State} {w : WaitW} (hw : s.cur.waitw = some w) {tk : Tok} {b a : BitVec 5} {k : BitVec 4}
    {sc c : BitVec 3} (h : exec (.waitw tk b a k sc c) s = .next t) : s.Near t := by
  rw [exec, execWaitw, hw] at h
  dsimp only at h
  split at h
  · cases h
    exact (State.Near.setCore s rfl _).trans (.flushAt _ rfl)
  · cases h
    exact .refl s

theorem State.Near.word {s t : State} {i : Instr} (hm : s.turn.st ∈ i.homes) (hr : Instr.reaches i = false)
    (h : exec i s = .next t) : s.Near t := by
  by_cases ha : ∀ tk b a k sc c, i = .waitw tk b a k sc c → s.cur.waitw = none
  · obtain ⟨st, hw, f, hi⟩ := isWord hm ha
    exact .issued (hi.near hr) (hi.run.symm.trans h)
  · push Not at ha
    obtain ⟨tk, b, a, k, sc, c, rfl, hne⟩ := ha
    obtain ⟨w, hw⟩ := Option.ne_none_iff_exists'.1 hne
    exact .waitw hw h

/-- Settles O9: each word is issued with an effect that stays within the moving core (`isWord`), and a pop, the finish of a
word and the releases that follow it stay within it too. -/
theorem wordsChangeOneCoreOnly : Obligations.WordsChangeOneCoreOnly := by
  unfold Obligations.WordsChangeOneCoreOnly
  intro s t i hm hheader hengage hlease hunlease hexit h
  have hr : Instr.reaches i = false := by
    unfold Instr.reaches
    split
    · exact (hheader _ _ _ _ _ rfl).elim
    · exact (hengage _ _ _ _ _ rfl).elim
    · exact (hlease _ _ _ _ rfl).elim
    · exact (hunlease _ _ _ rfl).elim
    · exact (hexit _ _ _ rfl).elim
    · rfl
  obtain ⟨⟨cores, hist, rfl⟩, hcores⟩ := State.Near.word hm hr h
  exact ⟨rfl, fun hs => (hcores hs).2⟩

end Sys2Proof.Machine
end

section
namespace Sys2Proof.Machine

open Sys2Proof

/-! ### Finishing a word, and the releases of a stream (O10) -/

theorem Stream.ix_inj : ∀ {a b : Stream}, a.ix = b.ix → a = b
  | .C, .C, _ | .L, .L, _ | .M, .M, _ | .V, .V, _ => rfl

section Streams

variable (c : Core) (st st' : Stream) (v : Strm)

@[simp] theorem Core.files_setStr : (c.setStr st v).files = c.files := by cases st <;> rfl

@[simp] theorem Core.setStr_str : c.setStr st (c.str st) = c := by
  cases st <;> simp [Core.setStr, Core.str]

@[simp] theorem Core.queue_setStr (a b : Stream) : (c.setStr st v).queue a b = c.queue a b := by
  simp only [Core.queue, Core.setStr_tq]

theorem Core.queue_setQueue_ne {a b a' b' : Stream} (l : List (BitVec 32)) (h : (a', b') ≠ (a, b)) :
    (c.setQueue a b l).queue a' b' = c.queue a' b' := by
  have hne : 4 * a.ix + b.ix ≠ 4 * a'.ix + b'.ix := fun e => by
    have h1 := b.ix_lt
    have h2 := b'.ix_lt
    have ha : a'.ix = a.ix := by omega
    have hb : b'.ix = b.ix := by omega
    exact h (by rw [Stream.ix_inj ha, Stream.ix_inj hb])
  simp only [Core.queue, Core.setQueue, Vector.getElem_set_ne _ _ hne]

/-- What a core holds of its streams changes only where its field does. -/
theorem Core.str_congr {c d : Core} (h : d.strm = c.strm) (st : Stream) : d.str st = c.str st := by
  cases st <;> simp only [Core.str, h]

@[simp] theorem Core.str_start (now : Now) : (c.start now).str st = c.str st :=
  Core.str_congr (Core.start_keeps c now).2.2.1 st

end Streams

section Push

variable (c : Core) (st p : Stream) (code : BitVec 2) (x : BitVec 32)

theorem Core.push_of_peer {st p : Stream} {code : BitVec 2} (h : peer st code = some p) :
    c.push st code x = c.hold st (.push p x) := by simp only [Core.push, h]

theorem Core.push_of_no_peer {st : Stream} {code : BitVec 2} (h : peer st code = none) : c.push st code x = c := by
  simp only [Core.push, h]

/-- What a stream holds for later changes its releases and the numbering alone. -/
theorem Core.hold_keeps (a : HAct) : (c.hold st a).files = c.files ∧ (c.hold st a).tq = c.tq ∧
    ((c.hold st a).str st).hold = (c.str st).hold ++ [⟨c.nextId, a⟩] ∧
    (∀ st', ((c.hold st a).str st').off = (c.str st').off ∧ ((c.hold st a).str st').blk = (c.str st').blk) := by
  unfold Core.hold
  refine ⟨by rw [Core.files_setStr]; rfl, by rw [Core.setStr_tq], by rw [Core.str_setStr], fun st' => ?_⟩
  by_cases h : st' = st
  · subst h
    rw [Core.str_setStr]
    exact ⟨rfl, rfl⟩
  · rw [Core.str_setStr_ne _ _ _ _ h]
    cases st' <;> exact ⟨rfl, rfl⟩

theorem Core.push_keeps : (c.push st code x).files = c.files ∧ (c.push st code x).tq = c.tq ∧
    ∀ st', ((c.push st code x).str st').off = (c.str st').off ∧ ((c.push st code x).str st').blk = (c.str st').blk := by
  cases h : peer st code with
  | none =>
    rw [Core.push_of_no_peer c x h]
    exact ⟨rfl, rfl, fun _ => ⟨rfl, rfl⟩⟩
  | some p =>
    rw [Core.push_of_peer c x h]
    obtain ⟨hf, hq, -, hs⟩ := Core.hold_keeps c st (.push p x)
    exact ⟨hf, hq, hs⟩

/-- Finishing a word moves its stream on and leaves every register, token queue and other stream's place. -/
theorem Core.finished_keeps (now : Now) (hw : Nat) :
    (c.finished now st hw code x).files = c.files ∧ (c.begun now st hw).files = c.files ∧
    (c.finished now st hw code x).tq = c.tq ∧
    ((c.finished now st hw code x).str st).off = (c.str st).off + hw ∧
    ((c.finished now st hw code x).str st).blk = (c.str st).blk ∧
    (∀ st', st' ≠ st → ((c.finished now st hw code x).str st').off = (c.str st').off ∧
      ((c.finished now st hw code x).str st').blk = (c.str st').blk) := by
  obtain ⟨hf, hq, -, -⟩ := Core.start_keeps c now
  obtain ⟨pf, pq, ps⟩ := Core.push_keeps ((c.start now).advance st hw) st code x
  have af : ((c.start now).advance st hw).files = c.files := (Core.files_setStr _ _ _).trans hf
  have as : ((c.start now).advance st hw).str st =
      { c.str st with off := (c.str st).off + hw, last := if hw = 0 then (c.str st).last else (c.str st).off } := by
    rw [Core.advance, Core.str_setStr, Core.str_start]
  refine ⟨pf.trans af, af, pq.trans ((Core.setStr_tq ..).trans hq), ?_, ?_, fun st' h => ?_⟩
  · exact (ps st).1.trans (by rw [as])
  · exact (ps st).2.trans (by rw [as])
  · have an : ((c.start now).advance st hw).str st' = c.str st' := by
      rw [Core.advance, Core.str_setStr_ne _ _ _ _ h, Core.str_start]
    exact ⟨(ps st').1.trans (by rw [an]), (ps st').2.trans (by rw [an])⟩

end Push

section Flush

variable {s : State} {v : Nat} {st p : Stream}

/-- Making notes changes the history alone. -/
theorem State.notes_eq (f : State → Held → Ev) : ∀ (m : List Held) (s : State),
    ∃ hist, m.foldl (fun s h => s.note (f s h)) s = { s with hist := hist }
  | [], s => ⟨s.hist, rfl⟩
  | h :: m, s => by
    obtain ⟨hist, e⟩ := State.notes_eq f m (s.note (f s h))
    refine ⟨hist, e.trans ?_⟩
    unfold State.note
    split <;> rfl

theorem State.core_notes (f : State → Held → Ev) (m : List Held) (s : State) (v : Nat) :
    (m.foldl (fun s h => s.note (f s h)) s).core v = s.core v := by
  obtain ⟨hist, e⟩ := State.notes_eq f m s
  rw [e]
  rfl

theorem State.flushStr_of_empty (h : ((s.core v).str st).hold = []) : s.flushStr v st = s := by
  simp only [State.flushStr, h]

/-- The core after its stream has made what it can. -/
theorem State.core_flushStr (h : Held) (r : List Held) (hh : ((s.core v).str st).hold = h :: r) :
    (s.flushStr v st).core v =
      let (k, _, c) := Core.flushGo s.now (s.landed v) st (h :: r) (s.core v)
      c.setStr st { c.str st with hold := k } := by
  simp only [State.flushStr, hh, State.core_notes, State.core_setCore]

theorem State.flushStr_eq (s : State) (v : Nat) (st : Stream) :
    ∃ cores hist, s.flushStr v st = { s with cores := cores, hist := hist } := by
  unfold State.flushStr
  split
  · exact ⟨_, _, rfl⟩
  · obtain ⟨hist, e⟩ := State.notes_eq (fun s h => s.heldEv v st h) _ _
    exact ⟨_, hist, e⟩

theorem State.flushAt_eq (s : State) (v : Nat) : ∃ cores hist, s.flushAt v = { s with cores := cores, hist := hist } := by
  obtain ⟨c1, h1, e1⟩ := State.flushStr_eq s v .C
  obtain ⟨c2, h2, e2⟩ := State.flushStr_eq { s with cores := c1, hist := h1 } v .L
  obtain ⟨c3, h3, e3⟩ := State.flushStr_eq { s with cores := c2, hist := h2 } v .M
  obtain ⟨c4, h4, e4⟩ := State.flushStr_eq { s with cores := c3, hist := h3 } v .V
  exact ⟨c4, h4, by rw [State.flushAt, e1, e2, e3, e4]⟩

theorem State.flushAt_of_empty (h : ∀ st, ((s.core v).str st).hold = []) : s.flushAt v = s := by
  simp only [State.flushAt, State.flushStr_of_empty (h _)]

variable {n : Nat} {x : BitVec 32}

/-- A push that heads its stream's releases is made while its queue has room: the payload stands at the back. -/
theorem State.core_flushStr_push (hh : ((s.core v).str st).hold = [⟨n, .push p x⟩])
    (hroom : ((s.core v).queue st p).length < 8) (hrel : (s.core v).releasable st n = true) (hl : s.landed v = true) :
    (s.flushStr v st).core v =
      let c := (s.core v).setQueue st p ((s.core v).queue st p ++ [x])
      c.setStr st { c.str st with hold := [] } := by
  rw [State.core_flushStr _ _ hh]
  simp [Core.flushGo, Core.canMake, Core.make, hroom, hrel, hl]

/-- While the queue is full, the payload waits with the stream. -/
theorem State.core_flushStr_full (hh : ((s.core v).str st).hold = [⟨n, .push p x⟩])
    (hfull : 8 ≤ ((s.core v).queue st p).length) : (s.flushStr v st).core v = s.core v := by
  rw [State.core_flushStr _ _ hh]
  have hno : (s.core v).canMake s.now (s.landed v) st ⟨n, .push p x⟩ = false := by
    simp [Core.canMake, Nat.not_lt.2 hfull]
  simp only [Core.flushGo, hno, Bool.false_eq_true, if_false, ← hh]
  exact Core.setStr_str _ st

end Flush

/-- Settles O10: `finished` is `start`, `advance` and `push`, each of which leaves the files; and the releases of a stream go
through `flushGo`, which makes a push that has precedence and room. -/
theorem finishingMovesOnAndPushes : Obligations.FinishingMovesOnAndPushes := by
  unfold Obligations.FinishingMovesOnAndPushes
  refine ⟨fun c now st hw push x => Core.finished_keeps c st push x now hw, fun c st p code x hp => ?_,
    fun s v st p n x hh => ⟨fun hroom hrel hl => ?_, State.core_flushStr_full hh⟩, fun s v => ⟨?_, State.flushAt_of_empty⟩⟩
  · rw [Core.push_of_peer c x hp]
    obtain ⟨-, hq, hhold, -⟩ := Core.hold_keeps c st (.push p x)
    exact ⟨hhold, hq⟩
  · rw [State.core_flushStr_push hh hroom hrel hl]
    refine ⟨?_, ?_, fun st' q hne => ?_, ?_⟩
    · rw [Core.queue_setStr, Core.queue_setQueue]
    · rw [Core.str_setStr]
    · rw [Core.queue_setStr, Core.queue_setQueue_ne _ _ hne]
    · rw [Core.files_setStr]
      rfl
  · obtain ⟨cores, hist, e⟩ := State.flushAt_eq s v
    rw [e]

end Sys2Proof.Machine
end

section
namespace Sys2Proof.Machine

open Sys2Proof

/-! ### Parking and resumption (O47) -/

section Park

variable (c : Core) (now : Now) (r : CauseRec)

@[simp] theorem Core.handlerUsed_st : (c.handlerUsed now).st = c.st := by unfold Core.handlerUsed; split <;> rfl
@[simp] theorem Core.handlerUsed_slog : (c.handlerUsed now).slog = c.slog := by unfold Core.handlerUsed; split <;> rfl
@[simp] theorem Core.handlerUsed_lcmds : (c.handlerUsed now).lcmds = c.lcmds := by unfold Core.handlerUsed; split <;> rfl
@[simp] theorem Core.handlerUsed_before : (c.handlerUsed now).before = c.before := by unfold Core.handlerUsed; split <;> rfl

theorem Core.implicitExit_st {c : Core} (h : c.st = .running) :
    c.implicitExit.st = if (c.str .C).ended then .exiting else .running := by
  unfold Core.implicitExit
  cases (c.str .C).ended <;> simp [h]

/-- A placed task begins as one that runs or, where C's loop record is empty, that exits (Table 1.5, R17). -/
theorem Core.start_st_of_placed (h : c.st = .placed) :
    (c.start now).st = if (c.str .C).ended then .exiting else .running := by
  rw [Core.start, if_pos h]
  exact Core.implicitExit_st rfl

variable {c}

theorem Core.park_of_placed (h : c.st = .placed) : c.park now r = (c.start now).stopped now r := by
  simp only [Core.park, h]

theorem Core.park_of_begun (h : c.st = .running ∨ c.st = .exiting) : c.park now r = c.stopped now r := by
  rcases h with h | h <;> simp only [Core.park, h]

theorem Core.park_of_parked (h : c.st = .parked) : c.park now r =
    { c.handlerUsed now with causes := c.causes ++ [r], settled := false, hstop := c.hstop || c.inHandler, returning := false } := by
  simp only [Core.park, h]

theorem Core.park_of_idle (h : c.st = .idle ∨ c.st = .complete) : c.park now r = c := by
  rcases h with h | h <;> simp only [Core.park, h]

theorem Core.park_of_task (h : c.st = .placed ∨ c.st = .running ∨ c.st = .exiting) :
    (c.park now r).st = .parked ∧
      (c.park now r).before = (if c.st = .placed then (if (c.str .C).ended then .exiting else .running) else c.st) ∧
      (c.park now r).parkedAt = now.clk := by
  rcases h with h | h
  · rw [Core.park_of_placed now r h, if_pos h, ← Core.start_st_of_placed c now h]
    exact ⟨rfl, rfl, rfl⟩
  · rw [Core.park_of_begun now r h, if_neg (by rcases h with h | h <;> simp [h])]
    exact ⟨rfl, rfl, rfl⟩

theorem Core.park_records (h : c.st ≠ .idle) (h' : c.st ≠ .complete) :
    (c.park now r).st = .parked ∧ (c.park now r).causes = c.causes ++ [r] := by
  cases hs : c.st with
  | idle => exact absurd hs h
  | complete => exact absurd hs h'
  | placed =>
    rw [Core.park_of_placed now r hs]
    exact ⟨rfl, by rw [Core.stopped, Core.start_causes]⟩
  | running =>
    rw [Core.park_of_begun now r (.inl hs)]
    exact ⟨rfl, rfl⟩
  | exiting =>
    rw [Core.park_of_begun now r (.inr hs)]
    exact ⟨rfl, rfl⟩
  | parked =>
    rw [Core.park_of_parked now r hs]
    exact ⟨(Core.handlerUsed_st c now).trans hs, rfl⟩

theorem Core.park_keeps_work (c : Core) : (c.park now r).lcmds = c.lcmds ∧ (c.park now r).slog = c.slog := by
  unfold Core.park
  split
  · exact ⟨Core.start_lcmds c now, Core.start_slog c now⟩
  · exact ⟨rfl, rfl⟩
  · exact ⟨rfl, rfl⟩
  · exact ⟨Core.handlerUsed_lcmds c now, Core.handlerUsed_slog c now⟩
  · exact ⟨rfl, rfl⟩

end Park

section Resume

variable (c : Core) (now : Now)

/-- The core as its resumption leaves it before the side log replays: its handler has ended. -/
def Core.handlerEnded : Core :=
  { c.handlerUsed now with
    inHandler := false
    hstop := false
    waitw := if c.inHandler then c.heldW else c.waitw
    heldW := none }

theorem Core.resume_eq : c.resume now = (c.handlerEnded now).replayAll now := rfl

@[simp] theorem Core.handlerEnded_slog : (c.handlerEnded now).slog = c.slog := Core.handlerUsed_slog c now
@[simp] theorem Core.handlerEnded_before : (c.handlerEnded now).before = c.before := Core.handlerUsed_before c now
@[simp] theorem Core.handlerEnded_st : (c.handlerEnded now).st = c.st := Core.handlerUsed_st c now
@[simp] theorem Core.files_handlerEnded : (c.handlerEnded now).files = c.files := Core.files_handlerUsed c now

variable {c}

theorem Core.resume_of_no_log (h : c.slog = []) : c.resume now = (c.handlerEnded now).goBack now := by
  rw [Core.resume_eq, Core.replayAll, Core.handlerEnded_slog, h]
  rfl

theorem Core.resume_of_log (h : c.slog ≠ []) : c.resume now =
    { c.handlerEnded now with
      slog := c.slog.map (fun e => { e with due := true })
      returning := true, causes := [], settled := true, frameHeld := false, pages := [] } := by
  rw [Core.resume_eq, Core.replayAll, if_neg (by simpa using h), Core.handlerEnded_slog]

/-- A core that goes back tries every faulted access and command again. -/
theorem Core.goBack_retries (c : Core) : (∀ a ∈ (c.goBack now).acc, a.stuck = false) ∧
    (∀ l ∈ (c.goBack now).lcmds, l.faulted = none) := by
  constructor
  · intro a ha
    obtain ⟨b, -, rfl⟩ := List.mem_map.1 ha
    rfl
  · intro l hl
    obtain ⟨m, -, rfl⟩ := List.mem_map.1 hl
    rfl

end Resume

/-! ### The primary cause (R19) -/

theorem mem_causeInsert (r x : CauseRec) : ∀ l : List CauseRec, x ∈ causeInsert r l ↔ x = r ∨ x ∈ l
  | [] => by simp [causeInsert]
  | y :: l => by
    unfold causeInsert
    split
    · simp
    · simp only [List.mem_cons, mem_causeInsert r x l]
      tauto

/-- Records inserted by rank stand in rank order. -/
theorem causeInsert_sorted (r : CauseRec) : ∀ {l : List CauseRec},
    l.Pairwise (fun a b => a.cause.code ≤ b.cause.code) → (causeInsert r l).Pairwise (fun a b => a.cause.code ≤ b.cause.code)
  | [], _ => List.pairwise_singleton _ _
  | y :: l, h => by
    obtain ⟨hy, hl⟩ := List.pairwise_cons.1 h
    unfold causeInsert
    split
    case isTrue hlt =>
      refine List.pairwise_cons.2 ⟨fun z hz => ?_, h⟩
      rcases List.mem_cons.1 hz with rfl | hz
      · exact hlt.le
      · exact hlt.le.trans (hy z hz)
    case isFalse hlt =>
      refine List.pairwise_cons.2 ⟨fun z hz => ?_, causeInsert_sorted r hl⟩
      rcases (mem_causeInsert r z l).1 hz with rfl | hz
      · exact not_lt.1 hlt
      · exact hy z hz

/-- The records of a list, by rank. -/
theorem mem_rankAll (x : CauseRec) : ∀ (l acc : List CauseRec),
    x ∈ l.foldl (fun l r => causeInsert r l) acc ↔ x ∈ l ∨ x ∈ acc
  | [], acc => by simp
  | r :: l, acc => by
    simp only [List.foldl_cons, mem_rankAll x l, mem_causeInsert, List.mem_cons]
    tauto

theorem rankAll_sorted : ∀ (l : List CauseRec) {acc : List CauseRec}, acc.Pairwise (fun a b => a.cause.code ≤ b.cause.code) →
    (l.foldl (fun l r => causeInsert r l) acc).Pairwise (fun a b => a.cause.code ≤ b.cause.code)
  | [], _, h => h
  | r :: l, _, h => rankAll_sorted l (causeInsert_sorted r h)

/-- The primary cause is one of those recorded, of the lowest rank. -/
theorem Core.primary_lowest {c : Core} (h : c.causes ≠ []) :
    (∃ r ∈ c.causes, r.cause.code = c.primary) ∧ ∀ r ∈ c.causes, c.primary ≤ r.cause.code := by
  have hmem (x : CauseRec) := mem_rankAll x c.causes []
  have hsort := rankAll_sorted c.causes List.Pairwise.nil
  unfold Core.primary Core.ranked
  cases hl : c.causes.foldl (fun l r => causeInsert r l) [] with
  | nil =>
    obtain ⟨r, hr⟩ := List.exists_mem_of_ne_nil _ h
    exact absurd ((hmem r).2 (.inl hr)) (by simp [hl])
  | cons y l =>
    rw [hl] at hmem hsort
    refine ⟨⟨y, by simpa using hmem y, rfl⟩, fun r hr => ?_⟩
    rcases List.mem_cons.1 ((hmem r).2 (.inl hr)) with rfl | hr
    · exact le_rfl
    · exact (List.pairwise_cons.1 hsort).1 r hr

/-- Settles O47: one case per state of Table 1.5 for parking, and the two ways of a resumption by whether the side log is
empty; ranks by insertion in rank order. -/
theorem parkingRecordsItsCause : Obligations.ParkingRecordsItsCause := by
  unfold Obligations.ParkingRecordsItsCause
  refine ⟨fun c now r => ?_, fun c now h => ?_, fun c now h => ?_, fun c => Core.primary_lowest, fun k e he hk => ?_⟩
  · obtain ⟨hfiles, htq, hstrm, hacc⟩ := Core.park_keeps c now r
    obtain ⟨hl, hs⟩ := Core.park_keeps_work now r c
    refine ⟨Core.park_of_task now r, Core.park_records now r, Core.park_of_idle now r, hfiles, htq, hstrm, hacc, hl, hs,
      fun h later => ?_⟩
    rw [Core.park_of_begun now r h]
    rfl
  · rw [Core.resume_of_no_log now h]
    obtain ⟨hacc, hl⟩ := Core.goBack_retries now (c.handlerEnded now)
    exact ⟨Core.handlerEnded_before c now, rfl, Core.files_handlerEnded c now, rfl, rfl, rfl, rfl, hacc, hl⟩
  · rw [Core.resume_of_log now h]
    exact ⟨Core.handlerEnded_st c now, rfl, rfl, rfl, Core.files_handlerEnded c now, Core.handlerEnded_before c now⟩
  · simp only [List.mem_cons, List.not_mem_nil, or_false] at he
    rcases he with rfl | rfl | rfl | rfl | rfl | rfl | rfl | rfl | rfl | rfl | rfl | rfl | rfl | rfl | rfl <;>
      (subst hk; rfl)

end Sys2Proof.Machine
end

section
/-! Tokens, counters, and the end of a task (R13, R14, R16, R17, R134, R166–R169, R175). -/

namespace Sys2Proof.Machine

open Sys2Proof

/-! ### Words that finish in their stream or in M's order -/

section Finish

variable {s s1 σ : State} {st : Stream} {i : Instr} {tk : Tok} {x y : BitVec 32} {hw : Nat} {f : State → BitVec 32 → Eff}
  {g : Core → Core}

/-- A word of C, L or V that finishes as it issues. -/
theorem issue_finishIn (h : Issues s st i tk s1 x) (hst : s.turn.st ≠ .M) (hf : f s1 x = finishIn s1 tk y g) :
    issue s st i tk hw f = .next (s1.moved ((g s1.cur).finished s.now st hw tk.push y)) :=
  issue_go h (hf.trans (by rw [finishIn, if_neg (h.turn ▸ hst)]))

/-- A word of M that joins the M queue with its push. -/
theorem issue_finishIn_M (h : Issues s st i tk s1 x) (hst : s.turn.st = .M) (hf : f s1 x = finishIn s1 tk y g) :
    issue s st i tk hw f = .next (s1.moved (((g s1.cur).queuedM .token tk y).begun s.now st hw)) :=
  issue_late h (hf.trans (by rw [finishIn, if_pos (h.turn ▸ hst)]; rfl))

end Finish

/-! ### Tokens (O23) -/

section Tokens

variable {st : Stream} {tk : Tok} {r : BitVec 5} {s s1 σ : State} {x : BitVec 32}

theorem busyIn_eq (σ : State) (r : BitVec 5) : busyIn σ r = (σ.turn.st == .C && σ.cur.sBusy [r]) := rfl

/-- A condition that holds of the state after the pop speaks of the stream before it. -/
theorem Issues.st_of_ready {p : Bool} (h : Issues s st i tk s1 x) (hr : (s1.turn.st == st && p) = true) :
    s.turn.st = st ∧ p = true := by
  rw [h.turn, Bool.and_eq_true, beq_iff_eq] at hr
  exact hr

theorem take_finishes (hst : st ≠ .M) :
    Finishes st 2 tk (.take tk r) (fun σ => σ.turn.st == st && !(st == .C && σ.cur.sBusy [r]))
      (fun σ x => σ.cur.setR st r (x.setWidth 64)) (fun _ => 0) := by
  intro s s1 x h hr
  obtain ⟨rfl, hb⟩ := h.st_of_ready hr
  rw [exec, execTake]
  refine issue_finishIn h hst (g := fun c => c.setR s.turn.st r (x.setWidth 64)) ?_
  rw [busyIn_eq, h.turn, if_neg (by simpa only [Bool.not_eq_true, Bool.not_eq_true'] using hb)]

theorem give_finishes (hst : st ≠ .M) :
    Finishes st 2 tk (.give tk r) (fun σ => σ.turn.st == st && !(st == .C && σ.cur.sBusy [r]))
      (fun σ _ => σ.cur) (fun σ => (σ.cur.getR st r).setWidth 32) := by
  intro s s1 x h hr
  obtain ⟨rfl, hb⟩ := h.st_of_ready hr
  rw [exec, execGive]
  refine issue_finishIn h hst (g := id) ?_
  rw [busyIn_eq, h.turn, if_neg (by simpa only [Bool.not_eq_true, Bool.not_eq_true'] using hb)]

theorem nopToken_finishes (hst : st ≠ .M) :
    Finishes st 2 tk (.nopToken tk) (fun σ => σ.turn.st == st) (fun σ _ => σ.cur) (fun _ => 0) := by
  intro s s1 x h hr
  obtain rfl := h.turn.symm ▸ beq_iff_eq.1 hr
  rw [exec, execNopToken]
  exact issue_finishIn h hst (g := id) rfl

theorem take_M (hst : s.turn.st = .M) (h : Issues s .M (.take tk r) tk s1 x) : exec (.take tk r) s =
    .next (s1.moved (((s1.cur.setG (r.setWidth 4) (x.setWidth 64)).queuedM .token tk 0).begun s.now .M 2)) := by
  rw [exec, execTake, hst]
  refine issue_finishIn_M h hst (g := fun c => c.setR .M r (x.setWidth 64)) ?_
  rw [busyIn_eq, h.turn, hst]
  rfl

theorem give_M (hst : s.turn.st = .M) (h : Issues s .M (.give tk r) tk s1 x) : exec (.give tk r) s =
    .next (s1.moved ((s1.cur.queuedM .token tk ((s1.cur.getG (r.setWidth 4)).setWidth 32)).begun s.now .M 2)) := by
  rw [exec, execGive, hst]
  refine issue_finishIn_M h hst (g := id) ?_
  rw [busyIn_eq, h.turn, hst]
  rfl

theorem nopToken_M (hst : s.turn.st = .M) (h : Issues s .M (.nopToken tk) tk s1 x) : exec (.nopToken tk) s =
    .next (s1.moved ((s1.cur.queuedM .token tk 0).begun s.now .M 2)) := by
  rw [exec, execNopToken, hst]
  exact issue_finishIn_M h hst (g := id) rfl

theorem nop_finishes (st : Stream) :
    Finishes st 1 Tok.none .nop (fun σ => σ.turn.st == st) (fun σ _ => σ.cur) (fun _ => 0) := by
  intro s s1 x h hr
  obtain rfl := h.turn.symm ▸ beq_iff_eq.1 hr
  rw [exec, execNop]
  exact issue_onCore h (g := id) rfl

/-- Settles O23: each token word is `finishIn` of its stream once its register awaits no value. -/
theorem tokenWordsMoveTokens : Obligations.TokenWordsMoveTokens := by
  unfold Obligations.TokenWordsMoveTokens
  exact ⟨fun st tk r hst => ⟨take_finishes hst, give_finishes hst, nopToken_finishes hst⟩,
    fun tk r s s1 x hst => ⟨take_M hst, give_M hst, nopToken_M hst⟩, nop_finishes⟩

end Tokens

/-! ### The end of a task, and stops (O25) -/

section Exit

variable (s : State) (c : Core) (bs : List (BitVec 256))

theorem State.mayDoze_eq (e : Nat) : ∃ engines, s.mayDoze e = { s with engines := engines } := by
  unfold State.mayDoze
  dsimp only
  split
  · exact ⟨_, rfl⟩
  · exact ⟨_, rfl⟩

theorem State.mayDozes_eq : ∀ (l : List Nat) (s : State), ∃ engines, l.foldl State.mayDoze s = { s with engines := engines }
  | [], s => ⟨_, rfl⟩
  | e :: l, s => by
    obtain ⟨g, hg⟩ := State.mayDoze_eq s e
    obtain ⟨g', hg'⟩ := State.mayDozes_eq l (s.mayDoze e)
    exact ⟨g', by rw [List.foldl_cons, hg', hg]⟩

/-- An exit changes its core and, where it ends a handler, the engines and their commands. -/
theorem State.exitNow_eq : ∃ ecmds engines, s.exitNow bs =
    { s.setCore s.turn.core ((s.cur.start s.now).beginExit s.now bs) with ecmds := ecmds, engines := engines } := by
  unfold State.exitNow
  dsimp only
  split
  · obtain ⟨g, hg⟩ := State.mayDozes_eq _ _
    exact ⟨_, g, hg⟩
  · exact ⟨_, _, rfl⟩

theorem State.turn_exitNow : (s.exitNow bs).turn = s.turn := by
  obtain ⟨_, _, h⟩ := State.exitNow_eq s bs
  rw [h]
  rfl

theorem State.cur_exitNow : (s.exitNow bs).cur = (s.cur.start s.now).beginExit s.now bs := by
  obtain ⟨_, _, h⟩ := State.exitNow_eq s bs
  rw [h]
  exact State.cur_setCore s _

/-- A task that exits has ended C's code with its successor blocks read, its handler too. -/
theorem Core.beginExit_ends (now : Now) : (c.beginExit now bs).st = .exiting ∧ (c.beginExit now bs).exitStep = 1 ∧
    ((c.beginExit now bs).str .C).ended = true ∧ (c.beginExit now bs).succ = bs ∧ (c.beginExit now bs).inHandler = false := by
  unfold Core.beginExit
  dsimp only
  split
  case isTrue => exact ⟨rfl, rfl, by simp [Core.str], rfl, rfl⟩
  case isFalse h => exact ⟨rfl, rfl, by simp [Core.str], rfl, by simpa using h⟩

theorem Core.files_beginExit (now : Now) : (c.beginExit now bs).files = { c.files with ret := [] } := by
  unfold Core.beginExit
  dsimp only
  split <;> rfl

/-- An effect that finishes later, whatever it changes beside its core. -/
theorem issue_late_at {s s1 t : State} {st : Stream} {i : Instr} {tk : Tok} {x : BitVec 32} (h : Issues s st i tk s1 x)
    {hw : Nat} {f : State → BitVec 32 → Eff} (ht : t.turn = s1.turn) (hf : f s1 x = .late t) :
    issue s st i tk hw f = .next (t.moved (t.cur.begun s.now st hw)) := by
  rw [issue_of_issues h, hf]
  simp only [Eff.finish, ← h.turn, ← ht]
  rfl

variable {s}

/-- `exit` reads its successor blocks where they lie within S at a multiple of 32. -/
theorem exit_of_ok {p : BitVec 2} {a : BitVec 5} {n : BitVec 3} {s1 : State} {x : BitVec 32}
    (h : Issues s .C (.exit p a n) ⟨p, 0⟩ s1 x) (hb : s1.cur.sBusy [a] = false)
    (hok : n = 0 ∨ ((s1.cur.getS a).toNat % 32 = 0 ∧ (s1.cur.getS a).toNat + 32 * n.toNat ≤ 0x40000 ∧
      s1.cur.mayPerform s1.turn.core (s1.cur.atIssue s1.turn.core (s1.cur.getS a).toNat (32 * n.toNat) 0 0) = true)) :
    exec (.exit p a n) s = .next
      (let t := s1.exitNow ((List.range n.toNat).map (fun i => s1.cur.block ((s1.cur.getS a).toNat + 32 * i)))
       t.moved (t.cur.begun s.now .C 2)) := by
  rw [exec, execExit]
  refine issue_late_at h (State.turn_exitNow s1 _) ?_
  dsimp only
  rw [if_neg (by simp [hb])]
  by_cases hn : n = 0
  · subst hn
    rfl
  · obtain ⟨hal, hle, hp⟩ := hok.resolve_left hn
    have hpos : 0 < n.toNat := Nat.pos_of_ne_zero fun e => hn (BitVec.eq_of_toNat_eq e)
    have hlt : (s1.cur.getS a).toNat / 2 ^ 18 = 0 := Nat.div_eq_of_lt (by omega)
    rw [if_neg hn, if_neg (by rw [hlt]; omega), if_neg (by simp [hp])]

theorem exit_faults (p : BitVec 2) (a : BitVec 5) (n : BitVec 3) :
    Faults .C ⟨p, 0⟩ (.exit p a n) (fun σ => !σ.cur.sBusy [a] && decide (n ≠ 0) &&
      decide ((σ.cur.getS a).toNat % 32 ≠ 0 ∨ 0x40000 < (σ.cur.getS a).toNat + 32 * n.toNat)) .addressing (fun _ => 0) := by
  intro s s1 x h hwhen
  simp only [Bool.and_eq_true, Bool.not_eq_true', decide_eq_true_eq] at hwhen
  obtain ⟨⟨hb, hn⟩, hbad⟩ := hwhen
  rw [exec, execExit]
  refine issue_fault h ?_
  dsimp only
  rw [if_neg (by simp [hb]), if_neg hn, if_pos (.inr hbad)]

theorem stopWith_begins {i : Instr} {p : BitVec 2} {k : BitVec 16} {cause : Cause}
    (hi : ∀ s, exec i s = issue s .C i ⟨p, 0⟩ 2 fun σ _ => stopWith σ cause k) :
    Begins .C 2 ⟨p, 0⟩ i (fun _ => true) (fun σ =>
      (σ.cur.start σ.now).park σ.now { (σ.cur.start σ.now).recOf .C cause 0 with det := k.toNat }) :=
  fun s _ _ h _ => (hi s).trans (issue_late h rfl)

/-- Settles O25: `exit` is `exitNow`, which ends C and, where it ends a handler, the engine commands of the core; `trap` and
`brk` park the core as they issue. -/
theorem exitTrapAndBreak : Obligations.ExitTrapAndBreak := by
  unfold Obligations.ExitTrapAndBreak
  refine ⟨fun p a n s s1 x => exit_of_ok, fun s bs => ?_, exit_faults, fun p k e he => ?_, fun c now r h => ?_⟩
  · obtain ⟨hst, hstep, hend, hsucc, hh⟩ := Core.beginExit_ends (s.cur.start s.now) bs s.now
    have hfiles := (Core.files_beginExit (s.cur.start s.now) bs s.now).trans (by rw [(Core.start_keeps s.cur s.now).1])
    obtain ⟨_, _, he⟩ := State.exitNow_eq s bs
    rw [← State.cur_exitNow] at hst hstep hend hsucc hh hfiles
    refine ⟨hst, hstep, hend, hsucc, hh, hfiles, State.turn_exitNow s bs, ?_⟩
    rw [he]
    exact ⟨rfl, rfl, rfl, rfl⟩
  · simp only [List.mem_cons, List.not_mem_nil, or_false] at he
    obtain rfl | rfl := he
    · exact ⟨rfl, stopWith_begins fun _ => rfl⟩
    · exact ⟨rfl, stopWith_begins fun _ => rfl⟩
  · have hne : c.st ≠ .idle ∧ c.st ≠ .complete := by rcases h with h | h <;> simp [h]
    obtain ⟨hst, hcauses⟩ := Core.park_records now r hne.1 hne.2
    exact ⟨hst, hcauses, (Core.park_keeps c now r).1⟩

end Exit

end Sys2Proof.Machine
end

section
/-! The record of a counter that overflows (R14, R168, R372). -/

namespace Sys2Proof.Machine

open Sys2Proof

/-! ### A counter that overflows records what stands first for it (O24) -/

/-- A record of counter 0 that is no counter overflow. -/
def trapRec : CauseRec := { cause := .trap, orig := 0 }

/-- A core that runs, whose list of the raises of the present C-cycle holds `trapRec` for counter 0. -/
def trapNoted : Core := { Core.reset with st := .running, kIncs := [(0, trapRec)] }

/-- A raise past the top records the first entry that stands for its counter, whatever its cause. -/
theorem incK_trapNoted : (trapNoted.incK ⟨0, 0⟩ 0 (2 ^ 24) trapRec).causes = [trapRec] := by
  decide

/-- Refutes O24: the last clause speaks of every core, and the record of an overflow is the first of those that the core has
noted for the counter in this C-cycle (`kFirst`), kept as it stands. In a core that has noted a record with another cause, here
`trapNoted`, the overflow adds that record, and so no record with cause 4. -/
theorem not_counterWordsCount : ¬ Obligations.CounterWordsCount := by
  unfold Obligations.CounterWordsCount
  rintro ⟨-, -, -, -, -, -, h⟩
  obtain ⟨-, -, hover⟩ := h trapNoted ⟨0, 0⟩ (2 ^ 24) 0 trapRec
  obtain ⟨-, hrecord, -⟩ := hover (by decide)
  obtain ⟨-, x, hx, hcauses⟩ := hrecord (by decide) rfl
  rw [incK_trapNoted] at hcauses
  have hxr : x = trapRec := (List.cons.inj hcauses).1.symm
  rw [hxr] at hx
  exact absurd hx (by decide)

end Sys2Proof.Machine
end

section
/-! SUPPORT. What an access to memory leaves as it is: everything but memory itself, the L2 with its records, the translations,
and what the device counts and sends of accesses. -/

namespace Sys2Proof.Machine

open Sys2Proof

/-- A state without what accesses to memory and packets of other packages change: memory, the L2 and its records, translations,
what is counted, noted and sent, and the registers. -/
def State.bare (s : State) : State :=
  { s with
    mem := [], l2b := [], l2 := [], seals := [], fails := [], failing := [], through := [], capFlog := [], hist := [], past := [],
    capBlk := [], capCache := [], hostMem := [], tlb := [], preq := [], regs := [], reseal := [], keyNo := 0, sweep := [],
    monitor := [], shadow := [], relay := [], out := [] }

/-- A fold of updates that each keep the rest keeps it. -/
theorem foldl_bare {β : Type} {f : State → β → State} (hf : ∀ s b, (f s b).bare = s.bare) : ∀ (l : List β) (s : State),
    (l.foldl f s).bare = s.bare
  | [], _ => rfl
  | b :: l, s => (foldl_bare hf l (f s b)).trans (hf s b)

variable {s : State}

/-! ### Registers, notes, and tiles -/

theorem State.bare_out (x) : ({ s with out := x } : State).bare = s.bare := rfl
theorem State.bare_fails (x) : ({ s with fails := x } : State).bare = s.bare := rfl

@[simp] theorem State.bare_setReg (o x) : (s.setReg o x).bare = s.bare := rfl
@[simp] theorem State.bare_orReg (o x) : (s.orReg o x).bare = s.bare := rfl
@[simp] theorem State.bare_setRegF (o l n x) : (s.setRegF o l n x).bare = s.bare := rfl
@[simp] theorem State.bare_note (e) : (s.note e).bare = s.bare := by unfold State.note; split <;> rfl
@[simp] theorem State.bare_settlePast (a n) : (s.settlePast a n).bare = s.bare := rfl
@[simp] theorem State.bare_sealTile (a b c d) : (s.sealTile a b c d).bare = s.bare := rfl
@[simp] theorem State.bare_mergeTile (a) : (s.mergeTile a).bare = s.bare := rfl
@[simp] theorem State.bare_mapTile (a f) : (s.mapTile a f).bare = s.bare := rfl
@[simp] theorem State.bare_sealMem (a b c d) : (s.sealMem a b c d).bare = s.bare := rfl
@[simp] theorem State.bare_sendHost (g p a d) : (s.sendHost g p a d).bare = s.bare := rfl

@[simp] theorem State.bare_startSweep (p b) : (s.startSweep p b).bare = s.bare := by
  unfold State.startSweep
  dsimp only
  split
  · rfl
  · rw [State.bare_setReg, State.bare_setReg, State.bare_setReg]
    rfl

@[simp] theorem State.bare_capMake (n : Nat) (bs : List (Nat × Bool)) : (State.capMake n bs s).bare = s.bare := by
  induction n generalizing s bs with
  | zero => rfl
  | succ n ih =>
    match bs with
    | [] => rfl
    | (b, w) :: bs =>
      rw [State.capMake]
      dsimp only
      split
      · rw [ih]
        split <;> rfl
      · split
        · rw [ih]
          rfl
        · split
          · rw [ih]
            rfl
          · split
            · rw [ih]
              rfl
            · split
              · rw [ih]
                rfl
              · rw [ih]
                rfl

@[simp] theorem State.bare_capFetch (t) : (s.capFetch t).bare = s.bare := State.bare_capMake ..
@[simp] theorem State.bare_capWrite (t) : (s.capWrite t).bare = s.bare := State.bare_capMake ..

@[simp] theorem State.bare_writeBack (a) : (s.writeBack a).bare = s.bare := by
  unfold State.writeBack
  dsimp only
  split
  · rfl
  · split
    · rfl
    · split
      · rw [State.bare_startSweep, State.bare_mapTile]
      · rw [State.bare_fails, State.bare_mapTile, State.bare_capWrite, State.bare_sealTile, State.bare_mergeTile]

@[simp] theorem State.bare_tagFail (a) : (s.tagFail a).bare = s.bare := by
  unfold State.tagFail
  dsimp only
  split
  · rw [State.bare_out, State.bare_orReg]
    rfl
  · rw [State.bare_fails]
    rfl

@[simp] theorem State.bare_fillFails (t) : (s.fillFails t).bare = s.bare := State.bare_tagFail t

@[simp] theorem State.bare_scrubCheck : s.scrubCheck.bare = s.bare := by
  unfold State.scrubCheck
  split <;> rfl

@[simp] theorem State.bare_resealPage (g) : (s.resealPage g).bare = s.bare := by
  unfold State.resealPage
  split
  · rfl
  · rw [State.bare_scrubCheck, State.bare_capWrite]
    exact foldl_bare (fun s _ => State.bare_sealMem ..) _ _

@[simp] theorem State.bare_settle (a) : (s.settle a).bare = s.bare := by
  unfold State.settle
  split
  · exact State.bare_resealPage _
  · rfl

@[simp] theorem State.bare_allocate (p a r) : (s.allocate p a r).bare = s.bare := by
  unfold State.allocate
  dsimp only
  split
  · rfl
  · rfl
  · split
    · exact State.bare_writeBack _
    · exact State.bare_writeBack _

@[simp] theorem State.bare_touch (a p) : (s.touch a p).bare = s.bare := by
  unfold State.touch
  split <;> rfl

@[simp] theorem State.bare_bypassed (a) : (s.bypassed a).bare = s.bare := by
  unfold State.bypassed
  dsimp only
  split
  · exact State.bare_writeBack a
  · exact State.bare_writeBack a

@[simp] theorem State.bare_observe (p a) : (s.observe p a).bare = s.bare := by
  unfold State.observe
  dsimp only
  split
  · split <;> rfl
  · rfl

@[simp] theorem State.bare_wentOut (a b) : (s.wentOut a b).bare = s.bare := by
  unfold State.wentOut
  split <;> rfl

@[simp] theorem State.bare_leave (a p b) : (s.leave a p b).bare = s.bare := by
  unfold State.leave
  split
  · rw [State.bare_wentOut, State.bare_bypassed]
  · rfl

@[simp] theorem State.bare_devMerge (p a b c) : (s.devMerge p a b c).bare = s.bare := by
  unfold State.devMerge
  dsimp only
  split
  · rfl
  · split
    · exact State.bare_capWrite _
    · split
      · rw [State.bare_settlePast, State.bare_startSweep]
        rfl
      · rw [State.bare_wentOut]
        exact State.bare_capWrite _

@[simp] theorem State.bare_noteWrites (e o) : ∀ (gs : List (Nat × Nat × Nat)) (s : State),
    (State.noteWrites e o gs s).bare = s.bare
  | [], _ => rfl
  | (_, _, _) :: gs, _ => State.bare_noteWrites e o gs _

@[simp] theorem State.bare_devPut (e p a b c) : (s.devPut e p a b c).bare = s.bare :=
  (State.bare_noteWrites ..).trans (State.bare_devMerge ..)

@[simp] theorem State.bare_seen (e a n) : (s.seen e a n).1.bare = s.bare := State.bare_note _

@[simp] theorem State.bare_look (g a n) : (s.look g a n).1.bare = s.bare := by
  unfold State.look
  split
  · exact State.bare_seen ..
  · rfl

@[simp] theorem State.bare_wrote (g k a n) : (s.wrote g k a n).bare = s.bare := by
  unfold State.wrote
  split <;> rfl

@[simp] theorem State.bare_put (g k p a d) : (s.put g k p a d).bare = s.bare := by
  unfold State.put
  split
  · exact State.bare_devPut ..
  · exact State.bare_devMerge ..

@[simp] theorem State.bare_devAcc (g p a n k) : (s.devAcc g p a n k).1.bare = s.bare := by
  unfold State.devAcc
  split
  · exact State.bare_look ..
  · exact State.bare_put ..

@[simp] theorem State.bare_walked (p l) : (s.walked p l).bare = s.bare := by
  refine foldl_bare (fun s t => ?_) l s
  split
  · exact State.bare_observe ..
  · exact (State.bare_capFetch _).trans (State.bare_observe ..)

@[simp] theorem State.bare_askHost (w p a b) : (s.askHost w p a b).1.bare = s.bare := by
  unfold State.askHost
  dsimp only
  split <;> rfl

/-! ### Results that carry a state -/

/-- The state that an access leaves. -/
def MRes.state : MRes → State
  | .ok s _ => s
  | .fault s _ => s
  | .wait s => s

/-- The state that a translation leaves. -/
def XRes.state : XRes → State
  | .ok s _ => s
  | .fault s _ => s
  | .wait s => s

theorem MRes.bare_ite {p : Prop} [Decidable p] {a b : MRes} (ha : a.state.bare = s.bare) (hb : b.state.bare = s.bare) :
    (if p then a else b).state.bare = s.bare := by
  split
  · exact ha
  · exact hb

/-- What is made of an access keeps the rest where the outcome does. -/
theorem MRes.bare_bind {r : MRes} {s : State} (hr : r.state.bare = s.bare) {f : State → List Byte → MRes}
    (hf : ∀ t b, (f t b).state.bare = t.bare) :
    (match r with | .fault s c => MRes.fault s c | .wait s => .wait s | .ok s b => f s b).state.bare = s.bare := by
  cases r with
  | ok t b => exact (hf t b).trans hr
  | fault t c => exact hr
  | wait t => exact hr

theorem State.bare_reach (p t pol w u) : (s.reach p t pol w u).state.bare = s.bare := by
  have h0 : ((s.settle t).observe p t).bare = s.bare := (State.bare_observe ..).trans (State.bare_settle t)
  have h1 : (if w = true then (s.settle t).observe p t else ((s.settle t).observe p t).capFetch t).bare = s.bare := by
    split
    · exact h0
    · exact (State.bare_capFetch _).trans h0
  unfold State.reach
  exact MRes.bare_ite ((State.bare_touch ..).trans h0) (MRes.bare_ite ((State.bare_fillFails _).trans h0)
    (MRes.bare_ite ((State.bare_allocate ..).trans h1) h1))

theorem State.bare_hostAcc (g p a n k) : (s.hostAcc g p a n k).state.bare = s.bare := by
  unfold State.hostAcc
  dsimp only
  split
  · rfl
  · split
    · rfl
    · split
      · rfl
      · split
        · exact State.bare_look ..
        · exact (State.bare_sendHost ..).trans (State.bare_wrote ..)

theorem State.bare_xlate (w p a k n) : (s.xlate w p a k n).state.bare = s.bare := by
  have h0 : (s.walked p (s.xlatTiles w.1 p a k)).bare = s.bare := State.bare_walked ..
  unfold State.xlate
  dsimp only
  split
  · exact h0
  · split
    · split
      · exact (State.bare_askHost ..).trans h0
      · exact (State.bare_askHost ..).trans h0
    · split
      · exact (State.bare_tagFail _).trans h0
      · exact h0

theorem State.bare_gAcc (g p a n pol k b) : (s.gAcc g p a n pol k b).state.bare = s.bare := by
  have hx := State.bare_xlate (s := s) g.who p a k.xkind n
  unfold State.gAcc
  split
  · rfl
  · cases hr : s.xlate g.who p a k.xkind n with
    | fault s1 c =>
      rw [hr] at hx
      exact hx
    | wait s1 =>
      rw [hr] at hx
      exact hx
    | ok s1 x =>
      rw [hr] at hx
      refine Eq.trans ?_ hx
      dsimp only
      refine MRes.bare_ite (MRes.bare_ite rfl (State.bare_hostAcc ..)) (MRes.bare_ite rfl (MRes.bare_ite rfl ?_))
      exact MRes.bare_bind (State.bare_reach p (x.pa / 1024) (appliedPol x.cmax pol) b false)
        fun _ _ => (State.bare_leave ..).trans (State.bare_devAcc ..)

theorem State.bare_gReadGo (g p pol) : ∀ (gs : List (Nat × Nat × Nat)) (s : State) (acc : List Byte),
    (State.gReadGo g p pol gs s acc).state.bare = s.bare
  | [], _, _ => rfl
  | (a, n, _) :: gs, _, acc =>
    MRes.bare_bind (State.bare_gAcc g p a n pol .load false) fun t b => State.bare_gReadGo g p pol gs t (acc ++ b)

theorem State.bare_gRead (g p a n pol) : (s.gRead g p a n pol).state.bare = s.bare := State.bare_gReadGo ..

theorem State.bare_gWriteGo (g p pol d) : ∀ (gs : List (Nat × Nat × Nat)) (s : State),
    (State.gWriteGo g p pol d gs s).state.bare = s.bare
  | [], _ => rfl
  | (a, n, x) :: gs, _ =>
    MRes.bare_bind (State.bare_gAcc g p a n pol (.store ((d.drop x).take n)) (n == 1024))
      fun t _ => State.bare_gWriteGo g p pol d gs t

theorem State.bare_gWrite (g p a pol d) : (s.gWrite g p a pol d).state.bare = s.bare := State.bare_gWriteGo ..

end Sys2Proof.Machine
end

section
/-! Fetching words and blocks, and the runs of a block (R12, R15, R17, R126, R128–R132, R165). -/

namespace Sys2Proof.Machine

open Sys2Proof

/-! ### A fetch leaves whose turn it is -/

theorem State.turn_of_bare {s t : State} (h : t.bare = s.bare) : t.turn = s.turn := (congrArg State.turn h :)

theorem State.turn_putCode (s : State) (v p va : Nat) (h : Half) : (s.putCode v p va h).turn = s.turn := rfl

theorem State.turn_fillHalf (s : State) (v p va : Nat) : (s.fillHalf v p va).turn = s.turn := by
  have hx := State.turn_of_bare (State.bare_xlate (s := s) (numCores + 64 + v, 0) p va .code 2)
  unfold State.fillHalf
  split
  · rfl
  · cases hr : s.xlate (numCores + 64 + v, 0) p va .code 2 with
    | fault s1 c =>
      rw [hr] at hx
      exact hx
    | wait s1 =>
      rw [hr] at hx
      exact hx
    | ok s1 x =>
      rw [hr] at hx
      refine Eq.trans ?_ hx
      have h2 : ((s1.settle (x.pa / 1024)).observe p (x.pa / 1024)).bare = s1.bare := by simp
      dsimp only
      split
      · split <;> rfl
      · split
        · exact State.turn_of_bare ((State.bare_tagFail _).trans h2)
        · split
          · exact (State.turn_putCode ..).trans (State.turn_of_bare h2)
          · exact (State.turn_putCode ..).trans (State.turn_of_bare ((State.bare_capFetch _).trans h2))

theorem State.turn_opened (s : State) (st : Stream) (l : BitVec 10) : (s.opened st l).turn = s.turn := by
  have fold (f : State → Nat → State) (hf : ∀ s i, (f s i).turn = s.turn) : ∀ (l : List Nat) (s : State),
      (l.foldl f s).turn = s.turn := fun l => by
    induction l with
    | nil => exact fun _ => rfl
    | cons i l ih => exact fun s => (ih (f s i)).trans (hf s i)
  unfold State.opened
  dsimp only
  split
  · exact fold _ (fun s i => State.turn_fillHalf ..) _ s
  · rfl

theorem State.turn_readHalf (s : State) (o : Nat) : (s.readHalf o).1.turn = s.turn := by
  unfold State.readHalf
  dsimp only
  split
  · rfl
  · split
    · exact State.turn_fillHalf ..
    · exact State.turn_fillHalf ..

theorem State.turn_flushAt (s : State) (v : Nat) : (s.flushAt v).turn = s.turn := by
  obtain ⟨_, _, e⟩ := State.flushAt_eq s v
  rw [e]

theorem State.turn_fetchNext (s : State) : s.fetchNext.1.turn = s.turn := by
  unfold State.fetchNext
  dsimp only
  split
  · rfl
  · split
    · rfl
    · split
      · exact State.turn_readHalf ..
      · exact (State.turn_readHalf ..).trans (State.turn_readHalf ..)

/-! ### The word at a stream's place (O3) -/

theorem State.readHalf_half (s : State) (o : Nat) : (s.readHalf o).2 = s.halfAt s.turn.core s.turn.st o := by
  unfold State.readHalf
  dsimp only
  split
  · rfl
  · split <;> rfl

/-- A word is the compact form of its first halfword, or the 32-bit word of the two. -/
theorem wordOf_eq_word {st : Stream} {len off : Nat} {h h2 : Fetched} {i : Instr} (e : wordOf st len off h h2 = .word i) :
    (h.half.toNat < 2 ^ 15 ∧ decodeCompact st h.half.toNat = some i) ∨
      (2 ^ 15 ≤ h.half.toNat ∧ ¬(len ≠ 0 ∧ len ≤ off + 1) ∧
        decodeWord st (h.half.toNat * 2 ^ 16 + h2.half.toNat) = some i) := by
  unfold wordOf at e
  split at e
  · cases e
  · split at e
    case isTrue hlt =>
      refine .inl ⟨hlt, ?_⟩
      split at e
      · split at e
        · cases e
        · cases e
          assumption
      · cases e
    case isFalse hlt =>
      dsimp only at e
      split at e
      · cases e
      · refine .inr ⟨not_lt.1 hlt, ‹_›, ?_⟩
        split at e
        · cases e
        · split at e
          · cases e
            assumption
          · split at e
            · cases e
            · cases e
              assumption
          · cases e

theorem decodeHalves_of_wordOf {st : Stream} {len off : Nat} {h h2 : Fetched} {i : Instr}
    (e : wordOf st len off h h2 = .word i) : decodeHalves st h.half h2.half = some i := by
  unfold decodeHalves
  obtain ⟨hlt, hd⟩ | ⟨hge, -, hd⟩ := wordOf_eq_word e
  · rw [if_pos (Nat.div_eq_of_lt hlt), hd]
  · rw [if_neg (by omega), hd]

/-- The word that a stream fetches is decoded from the halfwords at its place. -/
theorem State.decodeHalves_of_fetchNext {s t : State} {i : Instr} (h : s.fetchNext = (t, .word i)) :
    let r := s.cur.str s.turn.st
    let s1 := (s.readHalf r.off).1
    decodeHalves s.turn.st (s.halfAt s.turn.core s.turn.st r.off).half
      (s1.halfAt s.turn.core s.turn.st (r.off + 1)).half = some i := by
  have hturn := State.turn_readHalf s (s.cur.str s.turn.st).off
  have hsecond := State.readHalf_half (s.readHalf (s.cur.str s.turn.st).off).1 ((s.cur.str s.turn.st).off + 1)
  rw [hturn] at hsecond
  dsimp only
  rw [← hsecond, ← State.readHalf_half]
  unfold State.fetchNext at h
  dsimp only at h
  split at h
  · cases h
  · split at h
    · cases h
    · split at h
      case isTrue hc =>
        have e := (Prod.ext_iff.1 h).2
        obtain ⟨hlt, hd⟩ | ⟨hge, hlen, -⟩ := wordOf_eq_word e
        · rw [decodeHalves, if_pos (Nat.div_eq_of_lt hlt), hd]
        · obtain hbad | hlt | hlen' := hc
          · rw [Option.isSome_iff_exists] at hbad
            obtain ⟨f, hf⟩ := hbad
            rw [wordOf, hf] at e
            cases e
          · omega
          · exact absurd hlen' hlen
      case isFalse => exact decodeHalves_of_wordOf (Prod.ext_iff.1 h).2

/-! ### Steps -/

theorem step_of_stepCore {s t : State} (h : stepCore s = .next t) : step s = .next t.tickOn := by
  unfold step
  rw [h]

theorem stepCore_of_event {s : State} {i : Instr} (hev : s.turn.ev = some i) (hi : isEvent i = true) :
    stepCore s = exec i s := by
  unfold stepCore
  rw [hev]
  exact if_pos hi

theorem stepCore_of_no_event {s : State} (hev : s.turn.ev = none) : stepCore s = stepStream (s.flushAt s.turn.core) := by
  unfold stepCore
  rw [hev]

theorem stepStream_of_word {s t : State} {i : Instr} (h : s.fetchNext = (t, .word i)) : stepStream s = exec i t := by
  rw [stepStream, h]

theorem stepStream_of_runEnd {s t : State} (h : s.fetchNext = (t, .runEnd)) :
    stepStream s = exec (.blockRunEnd s.turn.core s.turn.st) t := by
  have hturn := State.turn_fetchNext s
  rw [h] at hturn
  rw [stepStream, h, ← hturn]

theorem stepStream_of_bad {s t : State} {c : Cause} {o : Nat} {pop : BitVec 2} (h : s.fetchNext = (t, .bad c o pop)) :
    stepStream s = .next (t.fetchFault c o pop) := by
  rw [stepStream, h]

/-- Settles O3: the step is `stepStream` of the flushed state, whose word `wordOf` decodes from the halfwords read. -/
theorem stepRunsTheFetchedWord : Obligations.StepRunsTheFetchedWord := by
  unfold Obligations.StepRunsTheFetchedWord
  intro s t i hev hw
  refine ⟨fun u hu => step_of_stepCore ?_, ?_⟩
  · rw [stepCore_of_no_event hev, stepStream_of_word hw, hu]
  · have h := State.decodeHalves_of_fetchNext hw
    rw [State.turn_flushAt] at h
    exact h

/-! ### A word that faults (O4) -/

theorem Core.waitOn_nil (c : Core) : c.waitOn [] = c := by
  unfold Core.waitOn
  rw [List.filter_nil, List.append_nil]

theorem State.fetchFault_parks {s : State} {c : Cause} {o : Nat} {pop : BitVec 2} (hcan : s.cur.canIssue s.turn.st = true)
    (hpop : s.cur.popWaits s.turn.st pop = false) (hc : c ≠ .hostOutstanding) :
    s.fetchFault c o pop = s.park s.turn.core
      (s.cur.recOf s.turn.st c (if c = .illegal then 0 else (s.cur.str s.turn.st).pc + 2 * o)) := by
  unfold State.fetchFault
  dsimp only
  rw [if_neg (by simp [hcan, hpop]), if_neg (by simp [hc]), pagesOf, if_neg hc, Core.waitOn_nil]
  rfl

theorem State.fetchFault_waits {s : State} {c : Cause} {o : Nat} {pop : BitVec 2}
    (h : s.cur.canIssue s.turn.st = false ∨ s.cur.popWaits s.turn.st pop = true) : s.fetchFault c o pop = s := by
  unfold State.fetchFault
  dsimp only
  rw [if_pos (by simpa using h)]

/-- Settles O4: the three other outcomes of a turn, and what `wordOf` makes of the second halfword. -/
theorem stepTakesDueEvents : Obligations.StepTakesDueEvents := by
  unfold Obligations.StepTakesDueEvents
  refine fun s => ⟨fun i t hev hi ht => ?_, fun u t hev hf ht => ?_, fun u c o pop hev hf => ?_, fun st len off h h2 => ?_⟩
  · exact step_of_stepCore ((stepCore_of_event hev hi).trans ht)
  · refine step_of_stepCore ?_
    rw [stepCore_of_no_event hev, stepStream_of_runEnd hf, State.turn_flushAt, ht]
  · have hturn : u.turn = s.turn := by
      have h := State.turn_fetchNext (s.flushAt s.turn.core)
      rw [hf] at h
      exact h.trans (State.turn_flushAt s _)
    have hstep := (stepCore_of_no_event hev).trans (stepStream_of_bad hf)
    rw [← hturn]
    refine ⟨fun hcan hpop hc => ?_, fun h => ?_⟩
    · rw [step_of_stepCore hstep, State.fetchFault_parks hcan hpop hc]
    · rw [step_of_stepCore hstep, State.fetchFault_waits h]
  · intro hgood hlong hlen hin
    have hshort : ¬h.half.toNat < 2 ^ 15 := not_lt.2 hlong
    have hends : ¬(len ≠ 0 ∧ len ≤ off + 1) := fun hl => absurd hl.2 (not_le.2 hin)
    refine ⟨fun f hf => ?_, fun hgood2 hd => ?_, fun hpop => ?_⟩
    · simp only [wordOf, hgood, if_neg hshort, if_neg hends, hf]
    · simp only [wordOf, hgood, if_neg hshort, if_neg hends, hgood2, hd]
    · exact if_neg hpop

/-! ### Blocks (O22) -/

section Blocks

variable {c : Core} {st : Stream} {now : Now}

theorem State.popped_none (s : State) (st : Stream) : s.popped st Tok.none = some (s, 0) := by
  unfold State.popped
  have h : peer st Tok.none.pop = none := by cases st <;> rfl
  rw [h]

theorem Issues.of_none {s s1 : State} {i : Instr} {x : BitVec 32} (h : Issues s st i Tok.none s1 x) : s1 = s := by
  have hp := h.pop
  rw [State.popped_none] at hp
  exact (Prod.ext_iff.1 (Option.some.inj hp)).1.symm

theorem Core.getP_setP (c : Core) {n : BitVec 4} (h : n ≠ 0) (x : BitVec 128) : (c.setP n x).getP n = x := by
  unfold Core.getP Core.setP
  rw [if_neg h, if_neg h]
  exact Vector.getElem_set_self ..

theorem Core.getP_stageWrite (c : Core) (i n : Nat) :
    (c.stageWrite i n).getP 8 = if i < n then BitVec.allOnes 128 else 0 := Core.getP_setP c (by decide) _

theorem Core.stageWrite_keeps (c : Core) (i n : Nat) :
    (c.stageWrite i n).rot = c.rot ∧ ∀ st, (c.stageWrite i n).str st = c.str st := by
  unfold Core.stageWrite
  exact ⟨Core.setP_rot .., fun st => Core.str_congr (Core.setP_strm ..) st⟩

/-- A run of a block that has more starts again 2 halfwords past the header. -/
theorem Core.endRun_next (h : (c.str st).blk.run + 1 < (c.str st).blk.runs) :
    c.endRun now st =
      let b := (c.str st).blk
      let c1 := c.setStr st { c.str st with blk := { b with run := b.run + 1 }, off := 2 }
      let c2 := if b.rot then { c1 with rot := c1.rot + 1 } else c1
      if st = .V ∧ b.stg ≠ 0 then c2.stageWrite (b.run + 1) b.n else c2 := by
  rw [Core.endRun]
  exact if_pos h

theorem Core.endRun_last (h : (c.str st).blk.runs ≤ (c.str st).blk.run + 1) : c.endRun now st = c.endBlock now st := by
  rw [Core.endRun]
  exact if_neg (not_lt.2 h)

/-- What the next run of a block changes: its index, the place, %rot in a rotating block, and in V the stage predicate. -/
theorem Core.endRun_next_fields (h : (c.str st).blk.run + 1 < (c.str st).blk.runs) :
    ((c.endRun now st).str st).blk = { (c.str st).blk with run := (c.str st).blk.run + 1 } ∧
    ((c.endRun now st).str st).off = 2 ∧
    (c.endRun now st).rot = (if (c.str st).blk.rot then c.rot + 1 else c.rot) ∧
    (st = .V → (c.str st).blk.stg ≠ 0 →
      (c.endRun now st).getP 8 = if (c.str st).blk.run + 1 < (c.str st).blk.n then BitVec.allOnes 128 else 0) := by
  rw [Core.endRun_next h]
  dsimp only
  set c1 := c.setStr st { c.str st with blk := { (c.str st).blk with run := (c.str st).blk.run + 1 }, off := 2 } with hc1
  set c2 := if (c.str st).blk.rot then { c1 with rot := c1.rot + 1 } else c1 with hc2
  have hstr : c2.str st = { c.str st with blk := { (c.str st).blk with run := (c.str st).blk.run + 1 }, off := 2 } := by
    have h1 : c1.str st = { c.str st with blk := { (c.str st).blk with run := (c.str st).blk.run + 1 }, off := 2 } :=
      Core.str_setStr ..
    rw [← h1]
    refine Core.str_congr ?_ st
    rw [hc2]
    split <;> rfl
  have hrot : c2.rot = if (c.str st).blk.rot then c.rot + 1 else c.rot := by
    have h1 : c1.rot = c.rot := Core.setStr_rot ..
    rw [hc2, ← h1]
    split <;> rfl
  split
  case isTrue hv =>
    obtain ⟨krot, kstr⟩ := Core.stageWrite_keeps c2 ((c.str st).blk.run + 1) (c.str st).blk.n
    rw [kstr, krot, hstr, hrot]
    exact ⟨rfl, rfl, rfl, fun _ _ => Core.getP_stageWrite ..⟩
  case isFalse hv =>
    rw [hstr, hrot]
    exact ⟨rfl, rfl, rfl, fun h1 h2 => absurd ⟨h1, h2⟩ hv⟩

/-- After its last run a block ends: a called block of C returns, any other ends its phase (R15, R17, R165). -/
theorem Core.endRun_last_cases (h : (c.str st).blk.runs ≤ (c.str st).blk.run + 1) :
    (st = .C → (c.str .C).blk.called = true → c.endRun now st = c.popRet now) ∧
    (st = .C → (c.str .C).blk.called = false → c.ret ≠ [] → ∀ d, d = c.setStr .C { c.str .C with off := (c.str .C).last } →
      c.endRun now st = d.park now (d.recOf .C .illegal 0)) ∧
    (st = .C → (c.str .C).blk.called = false → c.ret = [] →
      c.endRun now st = (c.enterPhase .C ((c.str .C).phase + 1)).implicitExit) ∧
    (st ≠ .C → c.endRun now st = c.enterPhase st ((c.str st).phase + 1)) := by
  rw [Core.endRun_last h]
  unfold Core.endBlock
  refine ⟨fun hst hc => ?_, fun hst hc hr d hd => ?_, fun hst hc hr => ?_, fun hst => if_neg hst⟩
  · rw [if_pos hst, if_pos hc]
  · rw [if_pos hst, if_neg (by simp [hc]), if_pos (by simpa using hr), hd]
    rfl
  · rw [if_pos hst, if_neg (by simp [hc]), if_neg (by simp [hr])]

/-! ### Phases of the loop record (R15) -/

/-- The block of a phase that is not empty is entered. -/
theorem Core.enterPhase_of_block {ph : Nat} (hph : ph ≤ 2) (ha : c.phaseAddr st ph ≠ 0) : c.enterPhase st ph =
    c.setStr st
      { c.str st with phase := ph, blk := Block.entering (c.phaseAddr st ph) (ph == 1) false, off := 0, ended := false } := by
  unfold Core.enterPhase
  dsimp only
  match ph, hph with
  | 0, _ => rw [if_pos ⟨rfl, ha⟩]
  | 1, _ => rw [if_neg (by simp), if_pos ⟨le_rfl, ha⟩]
  | 2, _ => rw [if_neg (by simp), if_neg (by simp), if_pos ⟨le_rfl, ha⟩]

/-- An empty phase is passed over. -/
theorem Core.enterPhase_of_empty {ph : Nat} (hph : ph ≤ 2) (ha : c.phaseAddr st ph = 0) :
    c.enterPhase st ph = c.enterPhase st (ph + 1) := by
  unfold Core.enterPhase
  dsimp only
  match ph, hph with
  | 0, _ => simp [ha]
  | 1, _ => simp [ha]
  | 2, _ => simp [ha]

theorem Core.enterPhase_three (c : Core) (st : Stream) : ((c.enterPhase st 3).str st).ended = true := by
  unfold Core.enterPhase
  dsimp only
  rw [if_neg (by simp), if_neg (by simp), if_neg (by simp), Core.str_setStr]

theorem Core.implicitExit_cases (c : Core) :
    ((c.str .C).ended = true → c.st = .running → c.implicitExit = { c with st := .exiting, succ := [], exitStep := 1 }) ∧
      ((c.str .C).ended = false → c.implicitExit = c) := by
  unfold Core.implicitExit
  exact ⟨fun he hs => if_pos ⟨he, hs⟩, fun he => if_neg (by simp [he])⟩

end Blocks

section Header

variable {st : Stream} {l : BitVec 10} {r : BitVec 1} {s : BitVec 3} {g : BitVec 1} {n : BitVec 11} {σ : State}

/-- The core as a header leaves it, where the block has runs. -/
def State.headed (σ : State) (st : Stream) (l : BitVec 10) (r : BitVec 1) (s : BitVec 3) (cnt : Nat) : Core :=
  let q := σ.cur.str st
  let c := ((σ.opened st l).core σ.turn.core).setStr st
    { σ.loadLoop σ.turn.core (σ.partOf σ.turn.core) q.pc l.toNat q with
      blk := ⟨q.pc, l.toNat, r == 1, s.toNat, cnt, runsOf cnt s.toNat, 0, q.blk.byRec && q.off == 0, q.blk.called⟩
      off := 2
      last := 0 }
  if st = .V ∧ s ≠ 0 then c.clearStages.stageWrite 0 cnt else c

/-- The repeat count that a header reads at its entry. -/
def State.headCount (σ : State) (st : Stream) (g : BitVec 1) (n : BitVec 11) : Nat :=
  σ.cur.repCount st ((σ.cur.str st).blk.byRec && (σ.cur.str st).off == 0) g n

theorem exec_blockHeader (h : Issues σ st (.blockHeader l r s g n) Tok.none σ 0) (hst : σ.turn.st = st)
    (hlen : (σ.cur.str st).blk.len = 0) (hbusy : ¬(st = .C ∧ g = 1 ∧ σ.cur.sBusy [n.setWidth 5] = true))
    (hruns : runsOf (σ.headCount st g n) s.toNat ≤ 1 ∨ l.toNat ≤ 256) :
    exec (.blockHeader l r s g n) σ = .next ((σ.opened st l).moved
      ((if runsOf (σ.headCount st g n) s.toNat = 0 then (σ.headed st l r s (σ.headCount st g n)).endBlock σ.now st
        else σ.headed st l r s (σ.headCount st g n)).finished σ.now st 0 0 0)) := by
  subst hst
  rw [exec, execBlockHeader]
  refine issue_go_note (t := σ.opened σ.turn.st l) h (State.turn_opened ..) ?_
  have hshort : ¬(1 < runsOf (σ.headCount σ.turn.st g n) s.toNat ∧ 256 < l.toNat) := by omega
  dsimp only
  rw [if_neg (by simp [hlen]), if_neg hbusy]
  refine (if_neg hshort).trans ?_
  rfl

/-- A header that stands inside a body, or whose block is too long for its runs, is an illegal instruction. -/
theorem blockHeader_illegal (hst : σ.turn.st = st) (s1 : State) (x : BitVec 32)
    (h : Issues σ st (.blockHeader l r s g n) Tok.none s1 x)
    (hbad : (σ.cur.str st).blk.len ≠ 0 ∨ (¬(st = .C ∧ g = 1 ∧ σ.cur.sBusy [n.setWidth 5] = true) ∧
      1 < runsOf (σ.headCount st g n) s.toNat ∧ 256 < l.toNat)) :
    exec (.blockHeader l r s g n) σ = .next (σ.park σ.turn.core (σ.cur.recOf st .illegal 0)) := by
  obtain rfl := h.of_none
  subst hst
  rw [exec, execBlockHeader]
  refine issue_fault h ?_
  dsimp only
  by_cases hlen : (s1.cur.str s1.turn.st).blk.len ≠ 0
  · rw [if_pos hlen]
  · obtain ⟨hbusy, hlong⟩ := hbad.resolve_left hlen
    rw [if_neg hlen, if_neg hbusy]
    exact if_pos hlong

end Header

/-- Settles O22: a header is issued with the block that `headed` gives; a run's end is `endRun`, which starts the next run or
ends the block; `enterPhase` takes the loop record's phases in order. -/
theorem blocksOpenRunAndEnd : Obligations.BlocksOpenRunAndEnd := by
  unfold Obligations.BlocksOpenRunAndEnd
  refine ⟨fun st l r s g n cnt entered hcnt hentered => ⟨fun σ h hst hlen hbusy hruns => ?_, fun σ s1 x h hw => ?_,
      fun σ s1 x h hw => ?_⟩, fun c st t g n => ⟨fun ht => ?_, rfl, rfl⟩, fun n stg => ⟨rfl, fun hn => ?_, fun hn hs => ?_⟩,
    fun c i n => Core.getP_stageWrite .., fun c j => ?_, fun σ v p addr len r hr hlen => ?_, fun s v st hcan hlen hoff => ?_,
    fun c st now => Core.endRun_next_fields, fun c st now => Core.endRun_last_cases, Core.implicitExit_cases,
    fun c st ph hph ha => ?_, fun c st ph => Core.enterPhase_of_empty, Core.enterPhase_three⟩
  · have hc : cnt σ = σ.headCount st g n := hcnt σ
    have he : entered σ = σ.headed st l r s (cnt σ) := hentered σ
    rw [he, hc]
    exact exec_blockHeader h hst hlen hbusy (hc ▸ hruns)
  · obtain rfl := h.of_none
    have hc : cnt s1 = s1.headCount st g n := hcnt s1
    simp only [Bool.and_eq_true, beq_iff_eq, Bool.not_eq_true', decide_eq_true_eq, hc] at hw
    obtain ⟨⟨⟨hst, -⟩, hbusy⟩, hlong⟩ := hw
    refine blockHeader_illegal hst s1 x h (.inr ⟨?_, hlong⟩)
    rintro ⟨h1, h2, h3⟩
    simp [h1, h2, h3] at hbusy
  · obtain rfl := h.of_none
    simp only [Bool.and_eq_true, beq_iff_eq, bne_iff_ne] at hw
    exact blockHeader_illegal hw.1 s1 x h (.inl hw.2)
  · simp [Core.repCount, ht]
  · simp [runsOf, hn]
  · simp [runsOf, hn, hs]
  · simp [Core.clearStages]
  · have hload : r.loads addr len = true := by
      simp only [Strm.loads, Bool.and_eq_true, decide_eq_true_eq, Bool.not_eq_true', Bool.and_eq_false_iff, beq_eq_false_iff_ne]
      exact ⟨hlen, hr⟩
    rw [State.loadLoop, if_pos hload]
    exact ⟨rfl, rfl, rfl⟩
  · rw [exec, execBlockRunEnd]
    exact if_pos ⟨hcan, hlen, hoff⟩
  · rw [Core.enterPhase_of_block hph ha, Core.str_setStr]
    exact ⟨rfl, rfl, rfl⟩

end Sys2Proof.Machine
end

section
/-! SUPPORT and O55. Tables read after a canonical write, the slots, jobs and nodes of the scheduler that are such tables, and
the host's queues (R283–R285, R291, R293). -/

namespace Sys2Proof.Machine

open Sys2Proof

/-! ### Tables read after a write -/

section Tables

variable {α : Type} {d v : α} {t : Tab α} {j k : Nat}

theorem Tab.sorted_above (h : Tab.sorted ((j, v) :: t) = true) : Tab.above j t = true := h

theorem Tab.get_del_same (h : t.sorted = true) : Tab.get d (t.del k) k = d := by
  induction t with
  | nil => rfl
  | cons e t ih =>
    obtain ⟨j, w⟩ := e
    have ha := Tab.sorted_above h
    rw [Tab.del]
    split
    case isTrue hj => exact Tab.above_get ha (by omega)
    case isFalse hj =>
      split
      case isTrue hk => rw [Tab.get, if_neg hj, if_pos hk]
      case isFalse hk => rw [Tab.get, if_neg hj, if_neg hk, ih (Tab.above_sorted ha)]

/-- Another key reads as before, in rising order or not. -/
theorem Tab.get_put_other (hj : j ≠ k) : Tab.get d (t.put k v) j = Tab.get d t j := by
  induction t with
  | nil => grind [Tab.put, Tab.get]
  | cons e t ih => grind [Tab.put, Tab.get]

theorem Tab.get_del_other (h : t.sorted = true) (hj : j ≠ k) : Tab.get d (t.del k) j = Tab.get d t j := by
  induction t with
  | nil => rfl
  | cons e t ih =>
    obtain ⟨i, w⟩ := e
    have ha := Tab.sorted_above h
    rw [Tab.del]
    split
    case isTrue hi =>
      rw [Tab.get, if_neg (by omega)]
      split
      · exact Tab.above_get ha (by omega)
      · rfl
    case isFalse hi =>
      split
      · rfl
      · rw [Tab.get, Tab.get, ih (Tab.above_sorted ha)]

variable [DecidableEq α]

theorem Tab.get_set_same (h : t.sorted = true) : Tab.get d (Tab.set d t k v) k = v := by
  rw [Tab.set]
  split
  case isTrue hv => rw [Tab.get_del_same h, hv]
  case isFalse => exact Tab.get_put_same ..

/-- A value that an unlisted key does not read as is read back, in rising order or not. -/
theorem Tab.get_set_of_ne (hv : v ≠ d) : Tab.get d (Tab.set d t k v) k = v := by
  rw [Tab.set, if_neg hv, Tab.get_put_same]

theorem Tab.get_set_other (h : t.sorted = true) (hj : j ≠ k) : Tab.get d (Tab.set d t k v) j = Tab.get d t j := by
  rw [Tab.set]
  split
  · exact Tab.get_del_other h hj
  · exact Tab.get_put_other hj

theorem Tab.sorted_set (h : t.sorted = true) : (Tab.set d t k v).sorted = true := by
  rw [Tab.set]
  split
  · exact Tab.sorted_del h
  · exact Tab.sorted_put v h

end Tables

/-! ### Slots and jobs -/

section Slots

variable {s t : State} {i p j : Nat} {q : QSlot} {x : Job}

theorem State.qslot_setQslot (h : s.qslots.sorted = true) : (s.setQslot i q).qslot i = q := Tab.get_set_same h

theorem State.qslot_setQslot_of_ne (h : q ≠ QSlot.empty) : (s.setQslot i q).qslot i = q := Tab.get_set_of_ne h

theorem State.jobAt_setJob (h : s.jobs.sorted = true) : (s.setJob p j x).jobAt p j = x := Tab.get_set_same h

theorem State.jobAt_setJob_of_ne (h : x ≠ ⟨0, 0, false⟩) : (s.setJob p j x).jobAt p j = x := Tab.get_set_of_ne h

/-! ### A slot's reads and writes (R284, R285) -/

variable {bs : List Byte} {c : Cause}

theorem State.learnHead_known (h : (s.qslot i).known = true) : s.learnHead i = s := if_pos h

theorem State.learnHead_read (hk : (s.qslot i).known = false) (h : s.qRead i 0 8 = .ok t bs) : s.learnHead i =
    (t.setQslot i { t.qslot i with head := leNat (bs.take 4), known := true }).setRegF (qsStat i) 0 32 (leNat (bs.take 4)) := by
  rw [State.learnHead, if_neg (by simp [hk]), h]

theorem State.learnHead_fault (hk : (s.qslot i).known = false) (h : s.qRead i 0 8 = .fault t c) :
    s.learnHead i = t.setErr i := by
  rw [State.learnHead, if_neg (by simp [hk]), h]
  rfl

theorem State.readHeader_read (hk : (s.qslot i).known = true) (h : s.qRead i 8 8 = .ok t bs) :
    s.readHeader i = t.setQslot i { t.qslot i with tail := leNat (bs.take 4), due := false } := by
  rw [State.readHeader, State.learnHead_known hk]
  simp only [hk, h, Bool.not_true, Bool.false_eq_true, if_false]

theorem State.readHeader_fault (hk : (s.qslot i).known = true) (h : s.qRead i 8 8 = .fault t c) :
    s.readHeader i = t.setErr i := by
  rw [State.readHeader, State.learnHead_known hk]
  simp only [hk, h, Bool.not_true, Bool.false_eq_true, if_false]

/-- The value that a DONE write carries. -/
def QSlot.doneWord (q : QSlot) : Nat := (if q.failedSince then 2 ^ 63 else 0) + q.head % 2 ^ 32

theorem State.writeDone_written (hk : (s.qslot i).known = true)
    (h : s.qWrite i 16 (leBytes 8 (s.qslot i).doneWord) = .ok t bs) : s.writeDone i =
      (t.setQslot i { t.qslot i with failedSince := false, doneDue := false }).setJob (t.qPart i) (t.qJob i)
        { t.jobAt (t.qPart i) (t.qJob i) with failed := false } := by
  rw [QSlot.doneWord] at h
  rw [State.writeDone, State.learnHead_known hk]
  simp only [hk, h, Bool.not_true, Bool.false_eq_true, if_false]

theorem State.writeHead_written (h : s.qWrite i 0 (leBytes 8 (s.qslot i).head) = .ok t bs) :
    s.writeHead i = t.setQslot i { t.qslot i with headDue := false } := by
  rw [State.writeHead, h]

theorem State.writeHead_fault (h : s.qWrite i 0 (leBytes 8 (s.qslot i).head) = .fault t c) : s.writeHead i = t.setErr i := by
  rw [State.writeHead, h]

theorem State.mayDone_alone (h : s.others (s.qPart i) = []) : s.mayDone i = true := by
  simp [State.mayDone, h]

theorem State.qslots_setRegF {o l n x : Nat} : (s.setRegF o l n x).qslots = s.qslots :=
  (congrArg State.qslots (State.bare_setRegF o l n x) :)

theorem State.qslot_setErr : (s.setErr j).qslot i = s.qslot i := by
  rw [State.qslot, State.setErr, State.qslots_setRegF, State.qslot]

/-! ### QUEUE_CONSUME takes one step of a slot's work, in the order of R284 and R285 -/

section Consume

variable (hv : s.qValid i = true) (ht : Tab.get Tdi.unlocked s.tdi (s.qPart i) ≠ Tdi.error)
include hv ht

theorem exec_queueConsume_done (hd : (s.qslot i).doneDue = true) (ha : s.others (s.qPart i) = []) :
    exec (.queueConsume i) s = .next (s.writeDone i) := by
  rw [exec, execQueueConsume]
  rw [if_neg (by simp [hv, ht]), if_pos ⟨hd, State.mayDone_alone ha⟩]

variable (hd : (s.qslot i).doneDue = false)
include hd

theorem exec_queueConsume_leaving {x : BitVec 64} (hl : (s.qslot i).leaving = some x) :
    exec (.queueConsume i) s = .next (s.unbindOn i x) := by
  rw [exec, execQueueConsume]
  rw [if_neg (by simp [hv, ht]), if_neg (by simp [hd])]
  simp only [hl]

variable (hl : (s.qslot i).leaving = none)
include hl

theorem exec_queueConsume_pending (hp : s.pending (s.qid i) = true) :
    exec (.queueConsume i) s = .next (s.servePending i) := by
  rw [exec, execQueueConsume]
  rw [if_neg (by simp [hv, ht]), if_neg (by simp [hd])]
  simp only [hl, hp, if_true]

variable (hp : s.pending (s.qid i) = false)
include hp

theorem exec_queueConsume_stopped (h : s.qErr i = true ∨ (s.jobAt (s.qPart i) (s.qJob i)).failed = true) :
    exec (.queueConsume i) s = .next s := by
  rw [exec, execQueueConsume]
  rw [if_neg (by simp [hv, ht]), if_neg (by simp [hd])]
  simp only [hl, hp, Bool.false_eq_true, if_false, if_pos h]

/-- A slot that nothing stops reads its header, consumes an entry, or writes HEAD. -/
theorem exec_queueConsume_goes (he : s.qErr i = false) (hf : (s.jobAt (s.qPart i) (s.qJob i)).failed = false) :
    exec (.queueConsume i) s = .next (
      if (s.qslot i).due then s.readHeader i
      else if (s.qslot i).known ∧ (s.qslot i).head ≠ (s.qslot i).tail then s.consume i
      else if (s.qslot i).headDue then s.writeHead i
      else s) := by
  rw [exec, execQueueConsume]
  rw [if_neg (by simp [hv, ht]), if_neg (by simp [hd])]
  simp only [hl, hp, he, hf, Bool.false_eq_true, or_self, if_false]
  simp only [apply_ite Host.Outcome.next]

end Consume

/-! ### The end of a binding (R285) -/

theorem State.unbindOn_written {x : BitVec 64} (hd : (s.qslot i).headDue = true) (he : s.qErr i = false)
    (h : s.qWrite i 0 (leBytes 8 (s.qslot i).head) = .ok t bs) (hs : t.qslots.sorted = true) :
    s.unbindOn i x = (t.setQslot i { t.qslot i with headDue := false }).leaveQueue i x := by
  rw [State.unbindOn, if_pos hd, if_neg (by simp [he])]
  dsimp only
  rw [State.writeHead_written h, if_neg (by simp [State.qslot_setQslot hs])]

theorem State.unbindOn_fault {x : BitVec 64} (hd : (s.qslot i).headDue = true) (he : s.qErr i = false)
    (h : s.qWrite i 0 (leBytes 8 (s.qslot i).head) = .fault t c) (hdt : (t.qslot i).headDue = true) :
    s.unbindOn i x = t.setErr i := by
  rw [State.unbindOn, if_pos hd, if_neg (by simp [he])]
  dsimp only
  rw [State.writeHead_fault h, if_pos (by rw [State.qslot_setErr, hdt])]

/-- A slot with no HEAD to write leaves its queue at once; a notify that it has yet to serve stays pending. -/
theorem State.unbind_now {x : BitVec 64} (hd : (s.qslot i).headDue = false) (hx : fld x.toNat 23 1 = 0)
    (ht : ((s.setQslot i { s.qslot i with leaving := some x }).setRegF (qsCfg i) 23 1 0).setQslot i QSlot.empty = t) :
    s.unbind i x = (if (s.qslot i).due then t.setPending (s.qid i) else t).setReg (qsCfg i) x := by
  have hq : (s.setQslot i { s.qslot i with leaving := some x }).qslot i = { s.qslot i with leaving := some x } :=
    State.qslot_setQslot_of_ne (by simp [QSlot.empty])
  rw [State.unbind, State.unbindOn, if_neg (by rw [hq]; simp [hd]), State.leaveQueue]
  dsimp only
  rw [if_pos hx, hq, ht]
  rfl

end Slots

/-! ### Binding a slot (R285) -/

section Bind

variable {s : State} {i : Nat} {x : BitVec 64}

theorem exec_queueBind_refused (hb : s.barOpen = true) (h : cfgOk (x &&& cfgMask).toNat = false ∨
    ∃ k, s.boundSlot (fld (x &&& cfgMask).toNat 0 12) = some k ∧ k ≠ i) :
    exec (.queueBind i x) s = .next (s.orReg schEvt 0x40) := by
  rw [exec, execQueueBind]
  rw [if_neg (by simp [hb])]
  refine if_pos (.inr ?_)
  rcases h with h | ⟨k, hk, hne⟩
  · exact .inl (by rw [h]; rfl)
  · exact .inr (.inr (by rw [hk]; simp [hne]))

section Free

variable (hb : s.barOpen = true) (hi : i < 256) (hc : cfgOk (x &&& cfgMask).toNat = true)
  (hv : fld (x &&& cfgMask).toNat 23 1 = 1) (hf : s.boundSlot (fld (x &&& cfgMask).toNat 0 12) = none)
include hb hi hc hv hf

theorem exec_queueBind_free (h : s.qValid i = false) : exec (.queueBind i x) s = .next (s.bindSlot i (x &&& cfgMask)) := by
  rw [exec, execQueueBind]
  rw [if_neg (by simp [hb]), if_neg (by rw [hc, hv, hf]; simp [hi]), if_pos (by simp [h])]

theorem exec_queueBind_other (h : s.qValid i = true) (hq : s.qid i ≠ fld (x &&& cfgMask).toNat 0 12)
    (hp : s.regF (qsCfg i) 22 1 = 0) : exec (.queueBind i x) s = .next (s.unbind i (x &&& cfgMask)) := by
  rw [exec, execQueueBind]
  rw [if_neg (by simp [hb]), if_neg (by rw [hc, hv, hf]; simp [hi]), if_neg (by simp [h]), if_neg (fun h => hq h.1),
    if_neg (by simp [hp])]

end Free

/-- A slot that is bound while its queue's bit is set serves the notify. -/
theorem State.bindSlot_pending (ht : Tab.get Tdi.unlocked s.tdi (fld x.toNat 0 12 / 128) ≠ Tdi.error)
    (hp : (s.setReg (qsCfg i) x).pending (fld x.toNat 0 12) = true) : s.bindSlot i x =
      ((s.setReg (qsCfg i) x).setQslot i { QSlot.empty with
        failedSince := (s.jobAt (fld x.toNat 0 12 / 128) (fld x.toNat 24 16)).failed
        due := true }).setRegF (pendReg (fld x.toNat 0 12)) (fld x.toNat 0 12 % 64) 1 0 := by
  have ht' : (Tab.get Tdi.unlocked (s.setReg (qsCfg i) x).tdi (fld x.toNat 0 12 / 128) != Tdi.error) = true :=
    bne_iff_ne.2 ht
  rw [State.bindSlot]
  dsimp only
  rw [hp, ht']
  rfl

theorem exec_queueUnbind_refused (hb : s.barOpen = true) (hv : s.qValid i = true) (hp : s.regF (qsCfg i) 22 1 = 1) :
    exec (.queueUnbind i) s = .next (s.orReg schEvt 0x10) := by
  rw [exec, execQueueUnbind, if_neg (by simp [hb, hv]), if_pos hp]

theorem exec_queueUnbind_goes (hb : s.barOpen = true) (hv : s.qValid i = true) (hp : s.regF (qsCfg i) 22 1 ≠ 1) :
    exec (.queueUnbind i) s = .next (s.unbind i (s.reg (qsCfg i) &&& ~~~0x800000)) := by
  rw [exec, execQueueUnbind, if_neg (by simp [hb, hv]), if_neg hp]

theorem State.bar_open {t : State} (h : s.barOpen = true) : s.bar t = t := if_pos h

end Bind

/-! ### Notifies, pre-emption, DONE writes, and the failure log -/

section Log

variable {s : State} {p i j : Nat}

theorem exec_notify_bad (hb : s.barOpen = true) (hp : p < 32) (hi : 128 ≤ i) :
    exec (.notify p i) s = .next (s.orReg schEvt 0x20) := by
  rw [exec, execNotify]
  dsimp only
  rw [if_neg (by simp [hb, hp]), if_pos hi]

/-- A notify of a queue that a slot serves makes the slot read TAIL. -/
theorem exec_notify_bound {k : Nat} (hb : s.barOpen = true) (hp : p < 32) (hi : i < 128)
    (hk : s.boundSlot (128 * p + i) = some k) :
    exec (.notify p i) s = .next (s.setQslot k { s.qslot k with due := true }) := by
  rw [exec, execNotify]
  dsimp only
  rw [if_neg (by simp [hb, hp]), if_neg (by omega), hk]

theorem exec_notify_unbound (hb : s.barOpen = true) (hp : p < 32) (hi : i < 128)
    (hk : s.boundSlot (128 * p + i) = none) : exec (.notify p i) s = .next (s.setPending (128 * p + i)) := by
  rw [exec, execNotify]
  dsimp only
  rw [if_neg (by simp [hb, hp]), if_neg (by omega), hk]

theorem State.places_preempted (h : s.regF (schPre p) 0 1 = 1) : s.places p = false := by
  simp [State.places, h]

theorem State.preCheck_settled (hr : s.regF (schPre p) 0 2 = 1)
    (h : ∀ v ∈ s.ownCores p, (s.core v).st = .idle ∨ (s.core v).st = .parked) :
    s.preCheck p = (s.setRegF (schPre p) 1 1 1).orReg schEvt 8 :=
  if_pos ⟨hr, by simpa using h⟩

theorem State.preCheck_running (h : ∃ v ∈ s.ownCores p, (s.core v).st = .running) : s.preCheck p = s := by
  obtain ⟨v, hv, hr⟩ := h
  refine if_neg fun hc => ?_
  have hall := List.all_eq_true.1 hc.2 v hv
  simp [hr] at hall

theorem State.checkZero_counting (h : (s.jobAt p j).count ≠ 0) : s.checkZero p j = s := by
  rw [State.checkZero]
  exact if_pos (by omega)

theorem State.checkZero_alone (hc : (s.jobAt p j).count = 0) (hs : (s.jobAt p j).sent = 0) (ho : s.others p = []) :
    s.checkZero p j = (s.slotsOf p j).foldl State.writeDone s := by
  rw [State.checkZero]
  dsimp only
  rw [if_neg (by omega), ho]
  rfl

/-- The word that a failure leaves in SCH_FLOG: partition, cause, job, and the node's number (R293). -/
def flogWord (p j c n : Nat) : BitVec 64 :=
  BitVec.ofNat 64 (p % 32 * 2 ^ 59 + c * 2 ^ 54 + j % 65536 * 2 ^ 32 + n / 65536 % 4 * 2 ^ 16 + n % 65536)

theorem flogWord_fields {c n : Nat} (hp : p < 32) (hj : j < 65536) (hc : c < 32) :
    fld (flogWord p j c n).toNat 54 5 = c ∧ fld (flogWord p j c n).toNat 59 5 = p ∧ fld (flogWord p j c n).toNat 32 16 = j := by
  simp only [flogWord, fld, BitVec.toNat_ofNat]
  omega

theorem State.flog_logFail_room {c n : Nat} (h : s.flog.length < 64) :
    (s.logFail p j c n).flog = s.flog ++ [flogWord p j c n] := by
  have h1 : (s.orReg schEvt 2).flog.length < 64 := h
  rw [State.logFail]
  rw [if_pos h1]
  rfl

theorem State.flog_logFail_full {c n : Nat} (h : 64 ≤ s.flog.length) : (s.logFail p j c n).flog = s.flog := by
  have h1 : ¬(s.orReg schEvt 2).flog.length < 64 := not_lt.2 h
  rw [State.logFail]
  rw [if_neg h1]
  rfl

end Log

/-- Settles O55: QUEUE_CONSUME by the lemmas of a slot's work in its order, an unbind by `unbind_now` and `unbindOn`, and each
other event by its own lemma; a slot or a job that has been written is read back from its table. -/
theorem hostQueuesAndPreemption : Obligations.HostQueuesAndPreemption := by
  unfold Obligations.HostQueuesAndPreemption
  refine ⟨fun s p i hb hp => ⟨exec_notify_bad hb hp, fun hi => ⟨fun k => exec_notify_bound hb hp hi, exec_notify_unbound hb hp hi⟩⟩,
    fun s i hv ht => ⟨exec_queueConsume_done hv ht, fun hd => ⟨fun x => exec_queueConsume_leaving hv ht hd,
      exec_queueConsume_pending hv ht hd, fun hl hp => ⟨exec_queueConsume_stopped hv ht hd hl hp, fun he hf => ?_⟩⟩⟩,
    fun s t i bs c => ⟨fun hk => ⟨State.learnHead_read hk, State.learnHead_fault hk⟩,
      fun hk => ⟨State.readHeader_read hk, State.readHeader_fault hk⟩, fun h => ?_, fun h => ?_, fun hk h hs => ?_⟩,
    fun s i x hb => ⟨exec_queueBind_refused hb, fun hi hc hv hf =>
      ⟨exec_queueBind_free hb hi hc hv hf, exec_queueBind_other hb hi hc hv hf⟩, State.bindSlot_pending,
      fun hv => ⟨exec_queueUnbind_refused hb hv, exec_queueUnbind_goes hb hv⟩, ?_⟩,
    fun s t i x _ hd hx ht => ⟨fun hn => ?_, fun hn => ?_⟩,
    fun s t i x bs => State.unbindOn_written, fun s t i x c => State.unbindOn_fault, fun s hb => ?_,
    fun s p hb hp => ⟨?_, ?_⟩, fun s p => ⟨State.places_preempted, State.preCheck_settled, fun _ => State.preCheck_running⟩,
    fun s p j => ⟨State.checkZero_counting, State.checkZero_alone⟩,
    fun s p j c n _ _ hp hj => ⟨State.jobAt_setJob_of_ne (by simp), fun hlen hc => ?_, State.flog_logFail_full⟩⟩
  · rw [exec_queueConsume_goes hv ht hd hl hp he hf]
    refine ⟨fun hdue => by rw [if_pos hdue], fun hdue hk hne => ?_, fun hdue heq hh => ?_⟩
    · rw [if_neg (by simp [hdue]), if_pos ⟨hk, hne⟩]
    · rw [if_neg (by simp [hdue]), if_neg (by simp [heq]), if_pos hh]
  · rw [State.consume]
    simp only [h]
  · rw [State.consume]
    simp only [h]
  · rw [State.writeDone_written hk h]
    have hq : ∀ (u : State) (p j : Nat) (x : Job), (u.setJob p j x).qslot i = u.qslot i := fun _ _ _ _ => rfl
    rw [hq, State.qslot_setQslot hs]
    exact ⟨rfl, rfl⟩
  · rw [exec, execQueueErrClear, State.bar_open hb]
  · rw [State.unbind_now hd hx ht, if_neg (by simp [hn])]
  · rw [State.unbind_now hd hx ht, if_pos hn]
    rfl
  · rw [exec, execFlogRead, State.bar_open hb]
    refine ⟨_, rfl, rfl, ?_⟩
    cases s.flog with
    | nil => rfl
    | cons w r => rfl
  · rw [exec, execPreemptRequest, if_pos hp, State.bar_open hb]
  · rw [exec, execPreemptResume, if_pos hp, State.bar_open hb]
  · exact ⟨_, State.flog_logFail_room hlen, flogWord_fields hp hj hc⟩

end Sys2Proof.Machine
end

section
/-! SUPPORT and O56. The fault frame's layout, its images, the fault records' ring, and the ways on of a parked core (R304–R306,
R271, R303). -/

namespace Sys2Proof.Machine

open Sys2Proof

/-! ### Areas of a list of bytes -/

section Parts

variable {α : Type} {a b d : List Byte} {k n : Nat}

theorem part_append_right : part (a ++ b) (a.length + k) n = part b k n := by
  rw [part, part, List.drop_length_add_append]

theorem part_append_left (h : k + n ≤ a.length) : part (a ++ b) k n = part a k n := by
  rw [part, part, List.drop_append_of_le_length (by omega), List.take_append_of_le_length (by rw [List.length_drop]; omega)]

theorem length_flatMap_of_length {g : α → List Byte} (h : ∀ x, (g x).length = n) (l : List α) :
    (l.flatMap g).length = n * l.length := by
  simp [List.length_flatMap, h, Nat.mul_comm]

/-- The i-th of equal areas. -/
theorem part_flatMap {g : α → List Byte} (h : ∀ x, (g x).length = n) : ∀ (l : List α) (i : Nat) (hi : i < l.length),
    part (l.flatMap g) (n * i) n = g l[i]
  | x :: l, 0, _ => by
    rw [List.flatMap_cons, part_append_left (by simp [h]), part]
    simp [← h x]
  | x :: l, i + 1, hi => by
    have hn : n * (i + 1) = (g x).length + n * i := by rw [h, Nat.mul_succ, Nat.add_comm]
    rw [List.flatMap_cons, hn, part_append_right, part_flatMap h l i (by simpa using hi), List.getElem_cons_succ]

@[simp] theorem length_leBytes (n v : Nat) : (leBytes n v).length = n := by
  induction n generalizing v with
  | zero => rfl
  | succ n ih => rw [leBytes, List.length_cons, ih]

@[simp] theorem length_areaBytes (l : List Nat) (n : Nat) : (areaBytes l n).length = n := by simp [areaBytes]

end Parts

/-! ### The frame's areas have the sizes of Table 17.4 -/

section Frame

variable (c : Core) (clock : Nat) (st : Stream)

theorem Core.length_headerBytes : (c.headerBytes clock).length = 64 := by simp [Core.headerBytes]

theorem Core.length_ranked : c.ranked.length ≤ 16 := List.length_take_le ..

theorem CauseRec.length_bytes (r : CauseRec) : r.bytes.length = 32 := by simp [CauseRec.bytes]

theorem Core.length_causeBytes : c.causeBytes.length = 512 := by
  have hr := c.length_ranked
  rw [Core.causeBytes, List.length_append, length_flatMap_of_length CauseRec.length_bytes, List.length_replicate]
  omega

theorem Core.length_streamBytes : (c.streamBytes st).length = 32 := by simp [Core.streamBytes]

theorem Ret.length_bytes (r : Ret) : r.bytes.length = 16 := by simp [Ret.bytes]

theorem Core.length_logBytes : c.logBytes.length = 32 := length_areaBytes ..

theorem length_queueBytes (q : List (BitVec 32)) : (queueBytes q).length = 36 := by
  rw [queueBytes, List.length_append, length_leBytes, length_flatMap_of_length fun _ => length_leBytes ..,
    List.length_range]

theorem Core.length_mmaBytes : c.mmaBytes.length = 64 := length_areaBytes ..

theorem Core.length_drainBytes : c.drainBytes.length = 64 :=
  length_flatMap_of_length (fun _ => length_areaBytes ..) _

theorem length_eloadBytes : eloadBytes.length = 16 := length_areaBytes ..

theorem Core.length_lBytes : c.lBytes.length = 768 := length_flatMap_of_length (fun _ => length_areaBytes ..) _

/-- The bytes of a register file. -/
theorem length_fileBytes {w m n : Nat} (v : Vector (BitVec w) m) :
    (v.toList.flatMap fun x => leBytes n x.toNat).length = n * m := by
  rw [length_flatMap_of_length fun _ => length_leBytes .., Vector.length_toList]

/-- The entries of a stack of which a frame shows the first 8, filled up with zeros. -/
theorem length_stackBytes {α : Type} {g : α → List Byte} {n : Nat} (h : ∀ x, (g x).length = n) (l : List α) :
    ((l.take 8).flatMap g ++ List.replicate (n * 8 - n * min 8 l.length) 0).length = n * 8 := by
  have hle : n * min 8 l.length ≤ n * 8 := Nat.mul_le_mul_left n (min_le_left ..)
  rw [List.length_append, length_flatMap_of_length h, List.length_take, List.length_replicate]
  omega

theorem Core.length_frame : (c.frame clock).length = 4096 := by
  have hret := length_stackBytes Ret.length_bytes c.ret.reverse
  have hmask := length_stackBytes (fun l : LCmd => length_leBytes 32 l.work.mask) (c.lcmds.filter LCmd.isGath)
  have hs := length_flatMap_of_length (fun i : Fin 32 => length_leBytes 8 (c.getS (BitVec.ofNat 5 i.val)).toNat)
    (List.finRange 32)
  have ht := length_flatMap_of_length (fun e : Stream × Stream => length_queueBytes (c.queue e.1 e.2)) tokenPairs
  have hpairs : tokenPairs.length = 12 := rfl
  have hst := length_flatMap_of_length c.length_streamBytes [Stream.C, .L, .M, .V]
  rw [List.length_append, List.length_reverse, List.length_replicate] at hret
  rw [List.length_append, List.length_replicate] at hmask
  simp only [Core.frame, List.length_append, hst, hs, ht, c.length_headerBytes, c.length_causeBytes, length_fileBytes,
    c.length_logBytes, c.length_mmaBytes, c.length_drainBytes, length_eloadBytes, c.length_lBytes, length_leBytes,
    List.length_replicate, List.length_finRange, List.length_cons, List.length_nil, hpairs]
  omega

/-- The s registers follow the header, the cause records and the stream records. -/
theorem Core.frame_regs : ∃ pre post, pre.length = 0x2C0 ∧ c.frame clock =
    pre ++ ((List.finRange 32).flatMap (fun i => leBytes 8 (c.getS (BitVec.ofNat 5 i.val)).toNat) ++ post) := by
  refine ⟨c.headerBytes clock ++ c.causeBytes ++ [Stream.C, .L, .M, .V].flatMap c.streamBytes, ?post, ?len, ?split⟩
  case split =>
    simp only [Core.frame, List.append_assoc]
    rfl
  case len =>
    simp only [List.length_append, c.length_headerBytes, c.length_causeBytes, length_flatMap_of_length c.length_streamBytes,
      List.length_cons, List.length_nil]

theorem Core.part_frame_regs {i : Nat} (hi : i < 32) :
    part (c.frame clock) (0x2C0 + 8 * i) 8 = leBytes 8 (c.getS (BitVec.ofNat 5 i)).toNat := by
  obtain ⟨pre, post, hpre, hf⟩ := c.frame_regs clock
  have hlen (i : Fin 32) := length_leBytes 8 (c.getS (BitVec.ofNat 5 i.val)).toNat
  rw [hf, ← hpre, part_append_right, part_append_left, part_flatMap hlen _ i (by simpa using hi), List.getElem_finRange]
  · rfl
  · rw [length_flatMap_of_length hlen, List.length_finRange]
    omega

end Frame

end Sys2Proof.Machine
end

section
/-! SUPPORT and O56, continued: the causes' order and route, a frame that has been written, its images, the ring, and the
commands of FLT_P_CMD. -/

namespace Sys2Proof.Machine

open Sys2Proof

/-! ### Order and route of the causes (R19, R303) -/

section Causes

theorem causeInsert_perm (r : CauseRec) : ∀ l : List CauseRec, (causeInsert r l).Perm (r :: l)
  | [] => .refl _
  | x :: l => by
    rw [causeInsert]
    split
    · exact .refl _
    · exact ((causeInsert_perm r l).cons x).trans (.swap ..)

theorem rankAll_perm : ∀ l acc : List CauseRec, (l.foldl (fun l r => causeInsert r l) acc).Perm (l ++ acc)
  | [], _ => .refl _
  | r :: l, acc => (rankAll_perm l _).trans (((causeInsert_perm r acc).append_left l).trans List.perm_middle)

variable {c : Core}

/-- The first 16 records, by rank: all of them where a core has no more. -/
theorem Core.ranked_perm (h : c.causes.length ≤ 16) : c.ranked.Perm c.causes := by
  have hp := rankAll_perm c.causes []
  rw [List.append_nil] at hp
  rwa [Core.ranked, List.take_of_length_le (by rw [hp.length_eq]; exact h)]

theorem Core.ranked_sorted : c.ranked.Pairwise (fun a b => a.cause.code ≤ b.cause.code) :=
  (rankAll_sorted c.causes List.Pairwise.nil).sublist (List.take_sublist ..)

theorem Core.routeOf_software (h : (∃ r ∈ c.causes, r.cause.route = .software) ∨ c.inHandler = true) :
    c.routeOf = .software :=
  if_pos (by simpa using h)

theorem Core.routeOf_automatic (hh : c.inHandler = false) (h : ∀ r ∈ c.causes, r.cause.route = .automatic) :
    c.routeOf = .automatic := by
  have hs : ¬(c.causes.any (fun r => r.cause.route == .software) = true ∨ c.inHandler = true) := by
    simpa [hh] using fun r hr => by simp [h r hr]
  have hn : ¬c.causes.any (fun r => r.cause.route == .handler) = true := by
    simpa using fun r hr => by simp [h r hr]
  rw [Core.routeOf, if_neg hs, if_neg hn]

/-- A task without a handler leaves a cause of the handler's route to software. -/
theorem Core.routeOf_no_handler (hh : c.inHandler = false) (h : ∀ r ∈ c.causes, r.cause.route ≠ .software)
    (he : ∃ r ∈ c.causes, r.cause.route = .handler) (ht : ∀ t, c.task = some t → t.handler = none) :
    c.routeOf = .software := by
  have hs : ¬(c.causes.any (fun r => r.cause.route == .software) = true ∨ c.inHandler = true) := by
    simpa [hh] using h
  have hn : ¬(c.task.any (fun t => t.handler.isSome) = true ∧ c.ret.length < 8) := by
    rintro ⟨hany, -⟩
    obtain ⟨t, hct, hs⟩ := (Option.any_eq_true ..).1 hany
    simp [ht t hct] at hs
  rw [Core.routeOf, if_neg hs, if_pos (by simpa using he), if_neg hn]

end Causes

/-! ### CORE_PARK (R304, R305) -/

section Park

variable {s t : State} {v : Nat}

/-- The state that CORE_PARK writes its frame from: the marks cleared, and the stores that wait behind a fault logged. -/
def State.parkFrom (s : State) (v : Nat) : State :=
  (s.clearAllMarks v).logHeld v (match (s.core v).ranked with | r :: _ => r.cause | [] => .illegal)

theorem exec_corePark (hu : (s.core v).unsettled = true) (hq : s.quiet v = true) : exec (.corePark v) s =
    let again := (s.core v).framed && !(s.core v).inHandler
    let r := if again then (s.parkFrom v).rewriteFrame (s.partOf v) v else (s.parkFrom v).writeFrame (s.partOf v) v
    if r.2 then .next ((r.1.framed v (!again)).preCheck (s.partOf v))
    else .next (((r.1.setCore v { r.1.core v with frameHeld := true }).orReg (fltEvt (s.partOf v)) 2).preCheck
      (s.partOf v)) := by
  rw [exec, execCorePark]
  dsimp only
  rw [if_pos hu, if_neg (by simp [hq])]
  rfl

theorem exec_corePark_first (hu : (s.core v).unsettled = true) (hq : s.quiet v = true)
    (h : (s.core v).framed = false ∨ (s.core v).inHandler = true) :
    ((s.parkFrom v).writeFrame (s.partOf v) v = (t, true) →
      exec (.corePark v) s = .next ((t.framed v true).preCheck (s.partOf v))) ∧
    ((s.parkFrom v).writeFrame (s.partOf v) v = (t, false) → exec (.corePark v) s = .next
      (((t.setCore v { t.core v with frameHeld := true }).orReg (fltEvt (s.partOf v)) 2).preCheck (s.partOf v))) := by
  have ha : ((s.core v).framed && !(s.core v).inHandler) = false := by
    rcases h with h | h <;> simp [h]
  rw [exec_corePark hu hq, ha]
  exact ⟨fun hw => by simp only [Bool.false_eq_true, if_false, hw, if_true, Bool.not_false],
    fun hw => by simp only [Bool.false_eq_true, if_false, hw]⟩

theorem exec_corePark_again (hu : (s.core v).unsettled = true) (hq : s.quiet v = true) (hf : (s.core v).framed = true)
    (hh : (s.core v).inHandler = false) :
    ((s.parkFrom v).rewriteFrame (s.partOf v) v = (t, true) →
      exec (.corePark v) s = .next ((t.framed v false).preCheck (s.partOf v))) ∧
    ((s.parkFrom v).rewriteFrame (s.partOf v) v = (t, false) → exec (.corePark v) s = .next
      (((t.setCore v { t.core v with frameHeld := true }).orReg (fltEvt (s.partOf v)) 2).preCheck (s.partOf v))) := by
  have ha : ((s.core v).framed && !(s.core v).inHandler) = true := by simp [hf, hh]
  rw [exec_corePark hu hq, ha]
  exact ⟨fun hw => by simp only [if_true, hw, Bool.not_true], fun hw => by simp only [if_true, hw, Bool.false_eq_true, if_false]⟩

theorem exec_corePark_busy (hu : (s.core v).unsettled = true) (hq : s.quiet v = false) : exec (.corePark v) s = .next s := by
  rw [exec, execCorePark]
  dsimp only
  rw [if_pos hu, if_pos (by simp [hq])]

/-- A further cause rewrites three areas of the frame, one after the other. -/
theorem State.rewriteFrame_written {s1 s2 s3 : State} {p : Nat} {c : Core} (hc : s.core v = c)
    (h1 : s.writeFrameAt p v 0 (c.headerBytes s.clock ++ c.causeBytes) = (s1, true))
    (h2 : s1.writeFrameAt p v 0xAD0 (part (c.frame s.clock) 0xAD0 0x130) = (s2, true))
    (h3 : s2.writeFrameAt p v 0xC00 (part (c.frame s.clock) 0xC00 0x2D0) = (s3, true)) :
    s.rewriteFrame p v = (s3, true) := by
  subst hc
  simp only [State.rewriteFrame, h1, List.foldl_cons, List.foldl_nil, if_true, h2, h3]

/-! ### A frame that has been written (R271, R304, R305) -/

/-- The core whose frame has been written. -/
def Core.frameDone (c : Core) (whole : Bool) : Core :=
  { (if whole then c.imaged else c) with settled := true, framed := true, frameHeld := false, route := c.routeOf }

theorem State.framed_eq (s : State) (v : Nat) (w : Bool) : s.framed v w =
    (s.post (s.faultRec v (s.core v).primary 0 (s.core v).routeOf.code (s.core v).primaryAddr)).setCore v
      (if (s.core v).routeOf = .handler then ((s.core v).frameDone w).enterHandler s.now else (s.core v).frameDone w) := by
  cases w <;> rfl

theorem State.core_framed (s : State) (v : Nat) (w : Bool) : (s.framed v w).core v =
    if (s.core v).routeOf = .handler then ((s.core v).frameDone w).enterHandler s.now else (s.core v).frameDone w := by
  rw [State.framed_eq, State.core_setCore]

/-- What the entry of a handler leaves as it is. -/
theorem Core.enterHandler_keeps (c : Core) (now : Now) : (c.enterHandler now).framed = c.framed ∧
    (c.enterHandler now).settled = c.settled ∧ (c.enterHandler now).kimg = c.kimg := by
  rw [Core.enterHandler]
  split <;> exact ⟨rfl, rfl, rfl⟩

/-- The handler is entered as by a call. -/
theorem Core.enterHandler_enters {c : Core} {now : Now} {t : Task} {h : Nat} (ht : c.task = some t)
    (hh : t.handler = some h) : (c.enterHandler now).inHandler = true ∧ (c.enterHandler now).heldW = c.waitw ∧
      ((c.enterHandler now).str .C).blk = Block.entering h false true ∧
      (c.enterHandler now).ret = ⟨(c.str .C).blk, (c.str .C).off, true⟩ :: c.ret := by
  rw [Core.enterHandler, ht]
  refine ⟨rfl, rfl, ?_, rfl⟩
  rw [Core.str_setStr, hh]
  rfl

theorem State.core_framed_fields (s : State) (v : Nat) (w : Bool) : ((s.framed v w).core v).framed = true ∧
    ((s.framed v w).core v).settled = true ∧
    ((s.framed v w).core v).kimg = (if w then (s.core v).k else (s.core v).kimg) := by
  have hk : ((s.core v).frameDone w).kimg = if w then (s.core v).k else (s.core v).kimg := by cases w <;> rfl
  obtain ⟨hf, hs, hi⟩ := Core.enterHandler_keeps ((s.core v).frameDone w) s.now
  rw [State.core_framed]
  split
  · exact ⟨hf, hs, hi.trans hk⟩
  · exact ⟨rfl, rfl, hk⟩

theorem State.core_framed_handler {w : Bool} {t : Task} {h : Nat} (hr : (s.core v).routeOf = .handler)
    (ht : (s.core v).task = some t) (hh : t.handler = some h) : ((s.framed v w).core v).inHandler = true ∧
      ((s.framed v w).core v).heldW = (s.core v).waitw ∧
      (((s.framed v w).core v).str .C).blk = Block.entering h false true ∧
      ((s.framed v w).core v).ret = ⟨((s.core v).str .C).blk, ((s.core v).str .C).off, true⟩ :: (s.core v).ret := by
  rw [State.core_framed, if_pos hr]
  cases w <;> exact Core.enterHandler_enters (c := (s.core v).frameDone _) ht hh

end Park

/-! ### The images of a frame (R306, R186) -/

section Images

variable {s : State} {v p : Nat} {c : Core} {st : Stream} {f : List Byte}

theorem State.loadStream_unedited (h : part f (0x240 + 32 * st.ix) 24 = part (c.streamBytes st) 0 24) :
    s.loadStream v p c st f = c :=
  if_pos h

theorem State.sflate_loadStream (c : Core) (st : Stream) : (s.loadStream v p c st f).sflate = c.sflate := by
  rw [State.loadStream]
  dsimp only
  split
  · rfl
  · cases st <;> rfl

theorem State.sflate_loadStreams (l : List Stream) (c : Core) :
    (l.foldl (fun c st => s.loadStream v p c st f) c).sflate = c.sflate := by
  induction l generalizing c with
  | nil => rfl
  | cons st l ih => rw [List.foldl_cons, ih, State.sflate_loadStream]

/-- The token queues' images touch nothing else. -/
theorem foldl_setQueue_keeps {α : Type} (src dst : α → Stream) (q : α → List (BitVec 32)) (l : List α) (c : Core) :
    (l.foldl (fun c e => c.setQueue (src e) (dst e) (q e)) c).sflags = c.sflags ∧
    (l.foldl (fun c e => c.setQueue (src e) (dst e) (q e)) c).k = c.k ∧
    (l.foldl (fun c e => c.setQueue (src e) (dst e) (q e)) c).s = c.s := by
  induction l generalizing c with
  | nil => exact ⟨rfl, rfl, rfl⟩
  | cons e l ih => exact ih (c.setQueue (src e) (dst e) (q e))

theorem State.loadFrame_images : (s.loadFrame v p c f).sflags = BitVec.ofNat 5 (frameN f 0x3C1 1) ||| c.sflate ∧
    (s.loadFrame v p c f).k = Vector.ofFn (fun i => BitVec.ofNat 24 (frameN f (0x720 + 4 * i.val) 3)) ∧
    (s.loadFrame v p c f).s = Vector.ofFn (fun i => BitVec.ofNat 64 (frameN f (0x2C0 + 8 * i.val) 8)) := by
  have hl := State.sflate_loadStreams (s := s) (v := v) (p := p) (f := f) [.C, .L, .M, .V] c
  rw [← hl]
  exact foldl_setQueue_keeps (α := Nat × Stream × Stream) (·.2.1) (·.2.2) _ _ _

end Images

/-! ### The ring of fault records (R305) -/

section Ring

variable {s t : State} {p : Nat} {x : BitVec 64}

theorem State.writeRecord_full {r : FaultRec} (hr : s.fq.find? (fun r => r.part == p) = some r)
    (h : s.ringSize p ≤ s.ringUsed p) : s.writeRecord p = { s with fqStop := p :: s.fqStop }.orReg (fltEvt p) 1 := by
  rw [State.writeRecord]
  simp only [hr, if_pos h]

theorem State.writeRecord_room {r : FaultRec} {bs : List Byte} (hr : s.fq.find? (fun r => r.part == p) = some r)
    (h : s.ringUsed p < s.ringSize p) (hw : s.relWrite p
      (fld (s.reg (fltQbase p)).toNat 6 46 * 64 + 64 * (s.regF (fltQcfg p) 32 16 % 2 ^ s.regF (fltQcfg p) 0 5))
      (fld (s.reg (fltQbase p)).toNat 0 1) (r.words.flatMap (fun w => leBytes 8 w.toNat) ++ List.replicate 32 0) =
        .ok t bs) :
    s.writeRecord p = { t.setRegF (fltQcfg p) 32 16 (s.regF (fltQcfg p) 32 16 + 1) with
      fq := t.fq.erase r
      out := .interrupt p :: t.out } := by
  rw [State.writeRecord]
  simp only [hr, if_neg (not_le.2 h), hw]

theorem exec_faultQueueWrite_bad (hb : s.barOpen = true) (hp : p < 32) (h : fld x.toNat 0 5 < 4 ∨ 16 < fld x.toNat 0 5) :
    exec (.faultQueueWrite p true x) s = .next (s.orReg (fltEvt p) 8) := by
  rw [exec, execFaultQueueWrite]
  dsimp only
  rw [if_neg (by simp [hb, hp]), if_pos rfl, if_pos h]

/-- A write of FLT_P_QCFG in its range: the partition's records are tried again. -/
theorem exec_faultQueueWrite_cfg (hb : s.barOpen = true) (hp : p < 32)
    (h : ¬(fld x.toNat 0 5 < 4 ∨ 16 < fld x.toNat 0 5)) : ∃ w : BitVec 64, exec (.faultQueueWrite p true x) s =
      .next { s.setReg (fltQcfg p) w with fqStop := (s.setReg (fltQcfg p) w).fqStop.filter (· != p) } := by
  rw [exec, execFaultQueueWrite]
  dsimp only
  rw [if_neg (by simp [hb, hp]), if_pos rfl, if_neg h]
  exact ⟨_, rfl⟩

/-- A write of FLT_P_QBASE; a locked interface refuses it (R343). -/
theorem exec_faultQueueWrite_base (hb : s.barOpen = true) (hp : p < 32) :
    (s.locked p = true → exec (.faultQueueWrite p false x) s = .next (s.orReg hstEvt 2)) ∧
    (s.locked p = false → exec (.faultQueueWrite p false x) s = .next
      { s.setReg (fltQbase p) (x &&& 0x000FFFFFFFFFFFC1) with fqStop := s.fqStop.filter (· != p) }) := by
  rw [exec, execFaultQueueWrite]
  dsimp only
  rw [if_neg (by simp [hb, hp]), if_neg (by simp)]
  exact ⟨fun h => if_pos h, fun h => if_neg (by simp [h])⟩

end Ring

/-! ### The commands of FLT_P_CMD (R304, R306) -/

section Commands

variable {s t : State} {p v : Nat} (hb : s.barOpen = true) (hp : p < 32)

theorem State.commandable_iff : s.commandable p v = true ↔
    (s.core v).st = .parked ∧ (s.core v).task.isSome = true ∧ s.partOf v = p := by
  simp [State.commandable, and_assoc]

theorem Core.commanded_resumes {now : Now} {c : Core} (h : c.inHandler = false ∨ c.hstop = false) :
    c.commanded now = c.resume now :=
  if_neg (by rcases h with h | h <;> simp [h])

theorem Core.commanded_handler {now : Now} {c : Core} (h1 : c.inHandler = true) (h2 : c.hstop = true) :
    c.commanded now = Core.replayAll now { c with causes := [], settled := true, frameHeld := false, pages := [] } :=
  if_pos (by simp [h1, h2])

include hb hp

theorem exec_commands_bad (h : s.commandable p v = false) : exec (.coreResume p v) s = .next (s.orReg (fltEvt p) 4) ∧
    exec (.coreAbandon p v) s = .next (s.orReg (fltEvt p) 4) ∧
    exec (.frameRewrite p v) s = .next (s.orReg (fltEvt p) 4) := by
  rw [exec, execCoreResume, exec, execCoreAbandon, exec, execFrameRewrite]
  simp only [hb, not_le.2 hp, h, Bool.not_true, Bool.false_eq_true, or_self, if_false, Bool.not_false, if_true]
  exact ⟨rfl, rfl, rfl⟩

variable (hc : s.commandable p v = true)
include hc

theorem exec_coreResume_returning (h : (s.core v).returning = true) : exec (.coreResume p v) s = .next s := by
  rw [exec, execCoreResume, if_neg (by simp [hb, hp]), if_neg (by simp [hc])]
  exact if_pos h

variable (hr : (s.core v).returning = false)
include hr

theorem exec_coreResume_unwritten (h : (s.core v).frameHeld = true ∨ (s.core v).framed = false) :
    exec (.coreResume p v) s = .next (s.setCore v ((s.core v).commanded s.now)) := by
  rw [exec, execCoreResume, if_neg (by simp [hb, hp]), if_neg (by simp [hc])]
  dsimp only
  rw [if_neg (by simp [hr]), if_pos (by simpa using h)]

/-- The frame that stands is loaded, its counter images brought up to date first. -/
theorem exec_coreResume_loads (hh : (s.core v).frameHeld = false) (hf : (s.core v).framed = true) :
    (∀ f, (s.syncCounters p v).readFrame p v = some f → exec (.coreResume p v) s = .next ((s.syncCounters p v).setCore v
      (((s.syncCounters p v).loadFrame v p ((s.syncCounters p v).core v) f).commanded (s.syncCounters p v).now))) ∧
    ((s.syncCounters p v).readFrame p v = none →
      exec (.coreResume p v) s = .next ((s.syncCounters p v).orReg (fltEvt p) 4)) := by
  rw [exec, execCoreResume, if_neg (by simp [hb, hp]), if_neg (by simp [hc])]
  dsimp only
  rw [if_neg (by simp [hr]), if_neg (by simp [hh, hf])]
  exact ⟨fun f h => by simp only [h], fun h => by simp only [h]; rfl⟩

omit hr

theorem exec_coreAbandon_fails {t : Task} {x : Node} (ht : (s.core v).task = some t)
    (hx : (s.dropCommands v).nodeAt t.node = some x) : exec (.coreAbandon p v) s =
      .next (((s.dropCommands v).failJob p x.job 13 t.node).finishTask v) := by
  rw [exec, execCoreAbandon, if_neg (by simp [hb, hp]), if_neg (by simp [hc])]
  simp only [ht, hx]

theorem exec_frameRewrite_written (h : s.writeFrame p v = (t, true)) :
    ((s.core v).frameHeld = false → exec (.frameRewrite p v) s = .next (t.setCore v (t.core v).imaged)) ∧
    ((s.core v).frameHeld = true → exec (.frameRewrite p v) s = .next (t.framed v true)) := by
  rw [exec, execFrameRewrite, if_neg (by simp [hb, hp]), if_neg (by simp [hc])]
  dsimp only
  rw [h]
  dsimp only
  rw [if_neg (by simp)]
  exact ⟨fun hh => if_neg (by simp [hh]), fun hh => if_pos hh⟩

theorem exec_frameRewrite_fault (h : s.writeFrame p v = (t, false)) : exec (.frameRewrite p v) s =
    .next ((t.setCore v { t.core v with frameHeld := true }).orReg (fltEvt p) 2) := by
  rw [exec, execFrameRewrite, if_neg (by simp [hb, hp]), if_neg (by simp [hc])]
  dsimp only
  rw [h]
  exact if_pos rfl

end Commands

/-- A core on the automatic route whose pages are all answered and whose record is written resumes (R303, R313). -/
theorem exec_autoResume {s : State} {v : Nat} (hs : (s.core v).st = .parked) (hset : (s.core v).settled = true)
    (hh : (s.core v).frameHeld = false) (hi : (s.core v).inHandler = false) (hr : (s.core v).routeOf = .automatic)
    (hc : (s.core v).causes ≠ []) (hp : ∀ a ∈ (s.core v).pages, ∀ r ∈ s.preq, r.part = s.partOf v → r.page ≠ a)
    (hq : s.fq = []) : exec (.autoResume v) s =
      .next ((s.post (s.faultRec v (s.core v).primary 2 0 (s.core v).primaryAddr)).setCore v
        ((s.core v).resume s.now)) := by
  have hpages : (s.core v).pages.all (fun a => !s.preq.any (fun r => r.part == s.partOf v && r.page == a)) = true := by
    simpa using hp
  have hcs : (!(s.core v).causes.isEmpty) = true := by simpa using hc
  rw [exec, execAutoResume]
  exact if_pos ⟨hs, hset, by simp [hh], by simp [hi], hr, hcs, hpages, by simp [hq]⟩

/-- Settles O56: each event by the lemmas on its branches; the frame by the sizes of its areas; the causes' order by insertion
as a permutation that sorts. -/
theorem parkedCoresWriteFramesAndResume : Obligations.ParkedCoresWriteFramesAndResume := by
  unfold Obligations.ParkedCoresWriteFramesAndResume
  refine ⟨fun s v hu hq => ⟨fun h t => exec_corePark_first hu hq h, fun hf hh t => exec_corePark_again hu hq hf hh⟩,
    fun s s1 s2 s3 p v c => State.rewriteFrame_written, fun s v => exec_corePark_busy, fun s v w => ?_,
    fun c h => ⟨Core.ranked_perm h, Core.ranked_sorted⟩,
    fun c => ⟨fun h => Core.routeOf_software (.inr h), fun h => Core.routeOf_software (.inl h), Core.routeOf_automatic,
      Core.routeOf_no_handler⟩,
    fun c clock => ⟨c.length_frame clock, fun i hi => c.part_frame_regs clock hi⟩,
    fun s v p c st f => State.loadStream_unedited, fun s p hp hs => ?_,
    fun s p r hr => ⟨fun h => ?_, fun h t bs => State.writeRecord_room hr h⟩,
    fun s p x hb hp => ⟨exec_faultQueueWrite_bad hb hp, fun h1 h2 => ?_,
      (exec_faultQueueWrite_base hb hp).1, (exec_faultQueueWrite_base hb hp).2⟩,
    fun s p v hb hp => ⟨exec_commands_bad hb hp, fun hc => ⟨exec_coreResume_returning hb hp hc,
      exec_coreResume_unwritten hb hp hc, fun hr hh hf t ht => ht ▸ exec_coreResume_loads hb hp hc hr hh hf,
      fun t x => exec_coreAbandon_fails hb hp hc,
      fun t => ⟨exec_frameRewrite_written hb hp hc, exec_frameRewrite_fault hb hp hc⟩⟩⟩,
    fun s p v => State.commandable_iff, fun now c => ⟨Core.commanded_resumes, Core.commanded_handler⟩,
    fun s v p c f => ?_, fun s v => exec_autoResume⟩
  · obtain ⟨hf, hs, hk⟩ := s.core_framed_fields v w
    refine ⟨by rw [State.framed_eq]; rfl, hf, hs, fun hw => ?_, fun hw => ?_, fun t h => State.core_framed_handler⟩
    · rw [hk, if_pos hw]
    · rw [hk, if_neg (by simp [hw])]
  · rw [exec, execFaultRecordWrite]
    exact if_pos ⟨hp, by simpa using hs⟩
  · have hw := State.writeRecord_full hr h
    exact ⟨hw, by rw [hw]; rfl⟩
  · obtain ⟨w, hw⟩ := exec_faultQueueWrite_cfg (x := x) hb hp (by omega)
    exact ⟨_, hw, rfl, rfl⟩
  · obtain ⟨hflags, hk, hs⟩ := State.loadFrame_images (s := s) (v := v) (p := p) (c := c) (f := f)
    exact ⟨hflags, fun i => by rw [hk]; simp, fun i => by rw [hs]; simp⟩

end Sys2Proof.Machine
end

section
/-! SUPPORT for O54. The scheduler's tables: node entries, jobs, arenas and leases, what a node's completion does to each, and
what it leaves as it is (R26–R28, R79–R83). -/

namespace Sys2Proof.Machine

open Sys2Proof

/-- A fold of updates that each keep something keeps it. -/
theorem foldl_keeps {β γ : Type} (π : State → γ) {f : State → β → State} (hf : ∀ s b, π (f s b) = π s) :
    ∀ (l : List β) (s : State), π (l.foldl f s) = π s
  | [], _ => rfl
  | b :: l, s => (foldl_keeps π hf l (f s b)).trans (hf s b)

/-! ### Entries of a table -/

section Entries

variable {α : Type} {t : Tab α} {k n : Nat} {v x : α}

theorem Tab.find_put_same : ((t.put n x).find? (fun e => e.1 == n)).map (·.2) = some x := by
  induction t with
  | nil => simp [Tab.put]
  | cons e t ih => grind [Tab.put]

theorem Tab.find_del_same (h : t.sorted = true) : (t.del n).find? (fun e => e.1 == n) = none := by
  have habove (t : Tab α) : ∀ j, Tab.above j t = true → n ≤ j → t.find? (fun e => e.1 == n) = none := by
    induction t with
    | nil => exact fun _ _ _ => rfl
    | cons e t ih => grind [Tab.above]
  induction t with
  | nil => rfl
  | cons e t ih =>
    obtain ⟨j, w⟩ := e
    have ha := Tab.sorted_above h
    rw [Tab.del]
    split
    case isTrue hj => exact habove t j ha (by omega)
    case isFalse hj =>
      split
      case isTrue hk =>
        rw [List.find?_cons_of_neg (by simpa using hj)]
        exact habove t j ha (by omega)
      case isFalse hk =>
        rw [List.find?_cons_of_neg (by simpa using hj)]
        exact ih (Tab.above_sorted ha)

theorem Tab.above_map (g : α → α) : ∀ (t : Tab α) (j : Nat), Tab.above j (t.map fun e => (e.1, g e.2)) = Tab.above j t
  | [], _ => rfl
  | (i, _) :: t, _ => congrArg (_ && ·) (Tab.above_map g t i)

theorem Tab.sorted_map (g : α → α) : Tab.sorted (t.map fun e => (e.1, g e.2)) = t.sorted := by
  cases t with
  | nil => rfl
  | cons e t => exact Tab.above_map g t e.1

/-- What is read is an entry, or what an unlisted key reads as. -/
theorem Tab.get_mem (d : α) : Tab.get d t k = d ∨ (k, Tab.get d t k) ∈ t := by
  induction t with
  | nil => exact .inl rfl
  | cons e t ih => grind [Tab.get]

theorem Tab.get_of_unlisted {d : α} (h : ∀ e ∈ t, e.1 ≠ k) : Tab.get d t k = d :=
  (Tab.get_mem d).resolve_right fun hm => h _ hm rfl

end Entries

/-! ### Node entries -/

section Nodes

variable {s t : State} {n p j v : Nat} {x : Node}

theorem State.nodeAt_congr (h : t.nodes = s.nodes) : t.nodeAt n = s.nodeAt n := by
  rw [State.nodeAt, h, State.nodeAt]

theorem State.nodeAt_setNode : (s.setNode n x).nodeAt n = some x := Tab.find_put_same

theorem State.nodeAt_del (h : s.nodes.sorted = true) (ht : t.nodes = s.nodes.del n) : t.nodeAt n = none := by
  rw [State.nodeAt, ht, Tab.find_del_same h]
  rfl

/-- An update of every node is read at each. -/
theorem State.nodeAt_map (g : Node → Node) (ht : t.nodes = s.nodes.map fun e => (e.1, g e.2)) :
    t.nodeAt n = (s.nodeAt n).map g := by
  have hf : (fun e : Nat × Node => e.1 == n) ∘ (fun e : Nat × Node => (e.1, g e.2)) = fun e => e.1 == n := rfl
  rw [State.nodeAt, ht, List.find?_map, hf, State.nodeAt, Option.map_map, Option.map_map]
  rfl

end Nodes

/-! ### What a DONE write leaves as it is (R285) -/

section Done

/-- A state without what a DONE write changes: what accesses change, the queue slots, and the jobs. -/
def State.graph (s : State) : State := { s.bare with qslots := [], jobs := [] }

variable {s t : State} {p i j : Nat}

theorem State.graph_of_bare (h : t.bare = s.bare) : t.graph = s.graph := by
  rw [State.graph, h, State.graph]

theorem State.graph_setQslot (q : QSlot) : (s.setQslot i q).graph = s.graph := rfl

theorem State.bare_qRead (s : State) (i off n : Nat) : (s.qRead i off n).state.bare = s.bare := by
  rw [State.qRead]
  exact MRes.bare_ite (State.bare_hostAcc ..) (State.bare_gRead ..)

theorem State.bare_qWrite (s : State) (i off : Nat) (d : List Byte) : (s.qWrite i off d).state.bare = s.bare := by
  rw [State.qWrite]
  exact MRes.bare_ite (State.bare_hostAcc ..) (State.bare_gWrite ..)

/-- The jobs count as many nodes as before, in a table in rising order. -/
def State.CountsAs (t s : State) : Prop :=
  s.jobs.sorted = true → t.jobs.sorted = true ∧ ∀ p j, (t.jobAt p j).count = (s.jobAt p j).count

theorem State.countsAs_of_jobs (h : t.jobs = s.jobs) : t.CountsAs s := fun hs =>
  ⟨h ▸ hs, fun p j => by rw [State.jobAt, h, State.jobAt]⟩

theorem State.CountsAs.trans {u : State} (h1 : u.CountsAs t) (h2 : t.CountsAs s) : u.CountsAs s := fun hs =>
  ⟨(h1 (h2 hs).1).1, fun p j => ((h1 (h2 hs).1).2 p j).trans ((h2 hs).2 p j)⟩

/-- The end of a job's failure changes no count. -/
theorem State.countsAs_unfail (s : State) (p j : Nat) :
    (s.setJob p j { s.jobAt p j with failed := false }).CountsAs s := by
  intro hs
  refine ⟨Tab.sorted_set hs, fun q i => ?_⟩
  by_cases hk : jobKey q i = jobKey p j
  · have hj : ∀ u : State, u.jobAt q i = u.jobAt p j := fun u => by rw [State.jobAt, hk, State.jobAt]
    rw [hj, State.jobAt_setJob hs, hj]
  · exact congrArg Job.count (Tab.get_set_other hs hk)

theorem State.learnHead_keeps (s : State) (i : Nat) : (s.learnHead i).graph = s.graph ∧ (s.learnHead i).jobs = s.jobs := by
  have hr := s.bare_qRead i 0 8
  rw [State.learnHead]
  split
  case isTrue => exact ⟨rfl, rfl⟩
  case isFalse =>
    cases hq : s.qRead i 0 8 with
    | ok t bs =>
      rw [hq] at hr
      have hj : t.jobs = s.jobs := (congrArg State.jobs hr :)
      have hg : t.graph = s.graph := State.graph_of_bare hr
      exact ⟨(State.graph_of_bare (State.bare_setRegF ..)).trans ((State.graph_setQslot _).trans hg), hj⟩
    | fault t c =>
      rw [hq] at hr
      exact ⟨State.graph_of_bare ((State.bare_setRegF ..).trans hr), (congrArg State.jobs hr :)⟩
    | wait t =>
      rw [hq] at hr
      exact ⟨State.graph_of_bare hr, (congrArg State.jobs hr :)⟩

theorem State.writeDone_keeps (s : State) (i : Nat) : (s.writeDone i).graph = s.graph ∧ (s.writeDone i).CountsAs s := by
  obtain ⟨hg, hj⟩ := s.learnHead_keeps i
  rw [State.writeDone]
  dsimp only
  generalize s.learnHead i = u at hg hj
  generalize hd : leBytes 8 ((if (u.qslot i).failedSince then 2 ^ 63 else 0) + (u.qslot i).head % 2 ^ 32) = d
  have hw := u.bare_qWrite i 16 d
  split
  case isTrue => exact ⟨hg, State.countsAs_of_jobs hj⟩
  case isFalse =>
    cases hq : u.qWrite i 16 d with
    | ok t bs =>
      rw [hq] at hw
      have ht : t.jobs = u.jobs := (congrArg State.jobs hw :)
      exact ⟨(State.graph_of_bare (t := t) hw).trans hg,
        State.CountsAs.trans (State.countsAs_unfail _ _ _) (State.countsAs_of_jobs (ht.trans hj))⟩
    | fault t c =>
      rw [hq] at hw
      exact ⟨(State.graph_of_bare hw).trans hg, State.countsAs_of_jobs ((congrArg State.jobs hw :).trans hj)⟩
    | wait t =>
      rw [hq] at hw
      exact ⟨(State.graph_of_bare hw).trans hg, State.countsAs_of_jobs ((congrArg State.jobs hw :).trans hj)⟩

theorem State.writeDones_count : ∀ (l : List Nat) (s : State), (l.foldl State.writeDone s).CountsAs s
  | [], _ => fun h => ⟨h, fun _ _ => rfl⟩
  | i :: l, s => (State.writeDones_count l _).trans (s.writeDone_keeps i).2

theorem State.checkZero_keeps (s : State) (p j : Nat) : (s.checkZero p j).graph = s.graph ∧ (s.checkZero p j).CountsAs s := by
  rw [State.checkZero]
  dsimp only
  split
  · exact ⟨rfl, State.countsAs_of_jobs rfl⟩
  · split
    · exact ⟨foldl_keeps State.graph (fun s i => (s.writeDone_keeps i).1) _ _, State.writeDones_count _ _⟩
    · exact ⟨foldl_keeps State.graph (by intros; rfl) _ _, 
        State.countsAs_of_jobs (by exact foldl_keeps State.jobs (by intros; rfl) _ _)⟩

end Done

/-! ### Packets of other packages and marks -/

section Sends

variable {s : State}

theorem State.bare_relaySend (q p : Nat) (m : Msg) : (s.relaySend q p m).bare = s.bare := by
  rw [State.relaySend, State.relayOut]
  dsimp only
  split
  · rfl
  · rfl

theorem State.bare_preCheck (p : Nat) : (s.preCheck p).bare = s.bare := by
  rw [State.preCheck]
  split
  · exact (State.bare_orReg ..).trans (State.bare_setRegF ..)
  · rfl

theorem State.preCheck_keeps (p : Nat) : (s.preCheck p).nodes = s.nodes ∧ (s.preCheck p).cores = s.cores :=
  ⟨(congrArg State.nodes (State.bare_preCheck p) :), (congrArg State.cores (State.bare_preCheck p) :)⟩

theorem State.clearMarks_keeps (s : State) (v cls : Nat) : (s.clearMarks v cls).nodes = s.nodes ∧
    (s.clearMarks v cls).cores = s.cores := by
  rw [State.clearMarks]
  exact ⟨foldl_keeps State.nodes (by intros; rfl) _ _, foldl_keeps State.cores (by intros; rfl) _ _⟩

/-- The clearing of a core's marks changes neither nodes nor cores. -/
theorem State.clearAllMarks_keeps (s : State) (v : Nat) : (s.clearAllMarks v).nodes = s.nodes ∧
    (s.clearAllMarks v).cores = s.cores := by
  rw [State.clearAllMarks]
  exact ⟨foldl_keeps State.nodes (fun s c => (s.clearMarks_keeps v c).1) _ _,
    foldl_keeps State.cores (fun s c => (s.clearMarks_keeps v c).2) _ _⟩

end Sends

/-! ### The end of leases (R27) -/

section Leases

variable {s : State} {l : Lessee}

theorem State.engine_endLease_same (h : s.engines.sorted = true) (e : Nat) :
    ((s.endLease l e).engine e).leases = (s.engine e).leases.filter (· != l) :=
  congrArg Engine.leases (Tab.get_set_same h)

theorem State.engine_endLease_other (h : s.engines.sorted = true) {e d : Nat} (hd : d ≠ e) :
    (s.endLease l e).engine d = s.engine d :=
  Tab.get_set_other h hd

/-- When a lease has ended on every engine of a list, it stands on none that it did not stand on elsewhere. -/
theorem State.endLeases_none : ∀ (es : List Nat) (s : State), s.engines.sorted = true →
    (∀ e, e ∉ es → (s.engine e).leases.contains l = false) →
    ∀ e, ((es.foldl (fun s e => s.endLease l e) s).engine e).leases.contains l = false
  | [], _, _, h, e => h e (by simp)
  | d :: es, s, hs, h, e => by
    refine State.endLeases_none es (s.endLease l d) (Tab.sorted_set hs) (fun e he => ?_) e
    by_cases hd : e = d
    · rw [hd, State.engine_endLease_same hs]
      simp
    · rw [State.engine_endLease_other hs hd]
      exact h e (by simp [hd, he])

/-- The engines that a node leases. -/
def State.leasedBy (s : State) (n : Nat) : List Nat :=
  (s.engines.filter (fun e => e.2.leases.contains (.node n))).map (·.1)

theorem State.not_leasedBy {n e : Nat} (h : e ∉ s.leasedBy n) : (s.engine e).leases.contains (.node n) = false := by
  rcases Tab.get_mem (t := s.engines) (k := e) Engine.asleep with hd | hm
  · rw [State.engine, hd]
    rfl
  · by_contra hc
    rw [State.engine] at hc
    exact h (List.mem_map.2 ⟨_, List.mem_filter.2 ⟨hm, by simpa using hc⟩, rfl⟩)

end Leases

/-! ### The end of holds (R27, R82) -/

section Holds

variable {s : State} {p n k : Nat}

/-- The end of a node's hold on one arena slot; the arena dies with its last holder. -/
def State.releaseHold (p n : Nat) (s : State) (k : Nat) : State :=
  let a := s.arenaSlot p k
  if a.live ∧ a.holders.contains n then
    let h := a.holders.filter (· != n)
    if h.isEmpty then s.killArena p k else s.setArena p k { a with holders := h }
  else s

theorem State.releaseHolds_eq : s.releaseHolds p n = (List.range 64).foldl (State.releaseHold p n) s := rfl

/-- Nothing but the slot's arena, and memory with its L2 and its fills, changes. -/
theorem State.releaseHold_keeps (s : State) (k : Nat) : (State.releaseHold p n s k).nodes = s.nodes ∧
    (State.releaseHold p n s k).jobs = s.jobs ∧ (State.releaseHold p n s k).cores = s.cores ∧
    (State.releaseHold p n s k).engines = s.engines := by
  rw [State.releaseHold]
  dsimp only
  split
  · split <;> exact ⟨rfl, rfl, rfl, rfl⟩
  · exact ⟨rfl, rfl, rfl, rfl⟩

theorem State.releaseHolds_keeps : (s.releaseHolds p n).nodes = s.nodes ∧ (s.releaseHolds p n).jobs = s.jobs ∧
    (s.releaseHolds p n).cores = s.cores ∧ (s.releaseHolds p n).engines = s.engines := by
  rw [State.releaseHolds_eq]
  exact ⟨foldl_keeps State.nodes (fun s k => (s.releaseHold_keeps k).1) _ _,
    foldl_keeps State.jobs (fun s k => (s.releaseHold_keeps k).2.1) _ _,
    foldl_keeps State.cores (fun s k => (s.releaseHold_keeps k).2.2.1) _ _,
    foldl_keeps State.engines (fun s k => (s.releaseHold_keeps k).2.2.2) _ _⟩

/-- A slot whose arena, if it lives, node n does not hold. -/
def State.letGo (p n : Nat) (s : State) (k : Nat) : Prop :=
  (s.arenaSlot p k).live = true → (s.arenaSlot p k).holders.contains n = false

theorem State.letGo_congr {t : State} (h : t.arenaSlot p k = s.arenaSlot p k) : State.letGo p n t k ↔ State.letGo p n s k := by
  rw [State.letGo, h, State.letGo]

/-- The arenas after a slot's release: the slot is let go, and every other stands as it was. -/
theorem State.releaseHold_arenas (hs : s.arenas.sorted = true) (k : Nat) :
    (State.releaseHold p n s k).arenas.sorted = true ∧ State.letGo p n (State.releaseHold p n s k) k ∧
    ∀ i, i ≠ k → (State.releaseHold p n s k).arenaSlot p i = s.arenaSlot p i := by
  have hset (a : Arena) : ((s.setArena p k a).arenas.sorted = true ∧ (s.setArena p k a).arenaSlot p k = a ∧
      ∀ i, i ≠ k → (s.setArena p k a).arenaSlot p i = s.arenaSlot p i) :=
    ⟨Tab.sorted_set hs, Tab.get_set_same hs, fun i hi => Tab.get_set_other hs (by omega)⟩
  rw [State.releaseHold]
  dsimp only
  split
  case isTrue hheld =>
    split
    case isTrue =>
      obtain ⟨h1, h2, h3⟩ := hset { s.arenaSlot p k with live := false, pages := [], holders := [] }
      refine ⟨h1, fun hl => ?_, h3⟩
      have hk : (s.killArena p k).arenaSlot p k = { s.arenaSlot p k with live := false, pages := [], holders := [] } := h2
      rw [hk] at hl
      simp at hl
    case isFalse =>
      obtain ⟨h1, h2, h3⟩ := hset { s.arenaSlot p k with holders := (s.arenaSlot p k).holders.filter (· != n) }
      refine ⟨h1, fun _ => ?_, h3⟩
      rw [h2]
      simp
  case isFalse hfree =>
    refine ⟨hs, fun hl => ?_, fun i hi => rfl⟩
    simpa [hl] using hfree

theorem State.releaseHolds_let_go : ∀ (l : List Nat) (s : State), s.arenas.sorted = true →
    (∀ k ∈ l, State.letGo p n (l.foldl (State.releaseHold p n) s) k) ∧
    ∀ k, k ∉ l → (l.foldl (State.releaseHold p n) s).arenaSlot p k = s.arenaSlot p k
  | [], _, _ => ⟨by simp, fun _ _ => rfl⟩
  | i :: l, s, hs => by
    obtain ⟨hsort, hgo, hother⟩ := State.releaseHold_arenas (p := p) (n := n) hs i
    obtain ⟨hin, hout⟩ := State.releaseHolds_let_go l (State.releaseHold p n s i) hsort
    refine ⟨fun k hk => ?_, fun k hk => ?_⟩
    · by_cases hl : k ∈ l
      · exact hin k hl
      · have hki : k = i := by simpa [hl] using hk
        exact (State.letGo_congr (hout k hl)).2 (hki ▸ hgo)
    · obtain ⟨hki, hl⟩ : k ≠ i ∧ k ∉ l := by simpa using hk
      exact (hout k hl).trans (hother k hki)

end Holds

end Sys2Proof.Machine
end

section
/-! SUPPORT for O54, continued: the shape of a gang and its task indices (R21, R22), the start of its tasks (R16), and the
completion of a task and of its node (R17, R27). -/

namespace Sys2Proof.Machine

open Sys2Proof

/-! ### Shapes and indices (R21, R22) -/

section Shapes

theorem pairwise_of_rising : ∀ l : List Nat, rising l = true → l.Pairwise (· < ·)
  | [], _ => .nil
  | [_], _ => List.pairwise_singleton _ _
  | a :: b :: r, h => by
    simp only [rising, Bool.and_eq_true, decide_eq_true_eq] at h
    have ih := pairwise_of_rising (b :: r) h.2
    refine List.pairwise_cons.2 ⟨fun c hc => ?_, ih⟩
    rcases List.mem_cons.1 hc with rfl | hc
    · exact h.1
    · exact h.1.trans ((List.pairwise_cons.1 ih).1 c hc)

theorem validPlace_rising {ls cs : List Nat} (h : validPlace ls cs = true) :
    cs.length = prodCounts ls ∧ cs.Pairwise (· < ·) := by
  simp only [validPlace, Bool.and_eq_true, beq_iff_eq] at h
  obtain ⟨⟨⟨hlen, hrise⟩, -⟩, -⟩ := h
  exact ⟨hlen, pairwise_of_rising cs hrise⟩

theorem foldl_levCount (ws : List Nat) (a : Nat) : ws.foldl (fun a w => a * levCount w) a = a * prodCounts ws := by
  induction ws generalizing a with
  | nil => simp [prodCounts]
  | cons w ws ih => rw [prodCounts, List.foldl_cons, List.foldl_cons, ih, ih, one_mul, mul_assoc]

theorem prodCounts_cons (w : Nat) (ws : List Nat) : prodCounts (w :: ws) = levCount w * prodCounts ws := by
  rw [prodCounts, List.foldl_cons, foldl_levCount, one_mul]

theorem length_indicesOf (ws : List Nat) (t : Nat) : (indicesOf ws t).length = ws.length := by
  induction ws with
  | nil => rfl
  | cons w ws ih => rw [indicesOf, List.length_cons, ih, List.length_cons]

/-- The indices are the digits of the task's number, outermost first. -/
theorem foldl_indicesOf (ws : List Nat) (t a : Nat) :
    ((indicesOf ws t).zip ws).foldl (fun a e => a * levCount e.2 + e.1) a = a * prodCounts ws + t % prodCounts ws := by
  induction ws generalizing a with
  | nil => simp [indicesOf, prodCounts, Nat.mod_one]
  | cons w ws ih =>
    rw [indicesOf, List.zip_cons_cons, List.foldl_cons, ih, prodCounts_cons, mul_comm (levCount w), Nat.mod_mul]
    ring

end Shapes

/-! ### A launch record whose shape has more gangs than the job has packages (R279, check 6) -/

theorem State.recCheck_too_large {s : State} {p lrec : Nat} {passed : List Nat} {r : Rec} (h1 : recF r 0 48 16 = 0x5356)
    (h2 : recF r 0 40 8 = 1) (h3 : recFieldsOk r = true) (h4 : lrec % 64 = 0)
    (h5 : shapeOk (recLevels r) (s.pkgs p).length = true) (h6 : (BitVec.ofNat 64 (recFeat r) &&& ~~~(s.reg schFeat)) = 0)
    (h7 : max 1 (s.pkgs p).length < recGangs r) : s.recCheck p lrec passed r = 6 := by
  rw [State.recCheck, if_neg (by simp [h1, h2]), if_neg (by simp [h3, h4]), if_neg (by simp [h5]), if_neg (by simp [h6]),
    if_pos (.inr (.inr h7))]

/-! ### The start of a gang (R16, R22) -/

section Gang

variable {s : State} {n v : Nat} {x : Node}

theorem Core.enterPhase_task (c : Core) (st : Stream) (ph : Nat) : (c.enterPhase st ph).task = c.task := by
  unfold Core.enterPhase
  dsimp only
  split
  · exact Core.setStr_task ..
  · split
    · exact Core.setStr_task ..
    · split <;> exact Core.setStr_task ..

theorem Core.begin_task (c : Core) (t : Task) (r : Rec) (now : Now) (seed seedS : Nat) :
    (c.begin t r now seed seedS).task = some t := by
  unfold Core.begin
  simp only [List.foldl_cons, List.foldl_nil, Core.enterPhase_task]

theorem State.cores_beginTask (s : State) (v : Nat) (t : Task) (r : Rec) (preds : List Nat) :
    (s.beginTask v t r preds).cores = s.cores.put v (((s.core v).reserve s.fresh).begin t r s.now s.fresh s.fresh) :=
  (congrArg State.cores ((State.bare_note _).trans (State.bare_settlePast ..)) :)

theorem State.core_congr {t : State} (h : t.cores = s.cores) : t.core v = s.core v := by
  rw [State.core, h, State.core]

theorem State.core_setCore_other {w : Nat} {c : Core} (h : w ≠ v) : (s.setCore v c).core w = s.core w := Tab.get_put_other h

theorem State.task_beginTask (s : State) (v : Nat) (t : Task) (r : Rec) (preds : List Nat) :
    ((s.beginTask v t r preds).core v).task = some t := by
  rw [State.core, State.cores_beginTask, Tab.get_put_same, Core.begin_task]

theorem State.core_beginTask_other {w : Nat} (h : w ≠ v) (t : Task) (r : Rec) (preds : List Nat) :
    (s.beginTask v t r preds).core w = s.core w := by
  rw [State.core, State.cores_beginTask, Tab.get_put_other h, State.core]

/-- The starts of tasks on cores that differ: each core of the list runs its own. -/
theorem State.task_beginTasks (T : Nat × Nat → Task) (r : Rec) (preds : List Nat) : ∀ (l : List (Nat × Nat)) (s : State),
    (l.map (·.2)).Nodup →
    (∀ e ∈ l, ((l.foldl (fun s jv => s.beginTask jv.2 (T jv) r preds) s).core e.2).task = some (T e)) ∧
    ∀ v, v ∉ l.map (·.2) → (l.foldl (fun s jv => s.beginTask jv.2 (T jv) r preds) s).core v = s.core v
  | [], _, _ => ⟨by simp, fun _ _ => rfl⟩
  | d :: l, s, hn => by
    obtain ⟨hd, hl⟩ := List.nodup_cons.1 hn
    obtain ⟨hin, hout⟩ := State.task_beginTasks T r preds l (s.beginTask d.2 (T d) r preds) hl
    refine ⟨fun e he => ?_, fun v hv => ?_⟩
    · rcases List.mem_cons.1 he with rfl | he
      · rw [List.foldl_cons, hout e.2 hd, State.task_beginTask]
      · exact hin e he
    · obtain ⟨h1, h2⟩ : v ≠ d.2 ∧ v ∉ l.map (·.2) := by simpa using hv
      exact (hout v h2).trans (State.core_beginTask_other h1 ..)

theorem State.task_startGang {cs : List Nat} {j : Nat} (hn : cs.Nodup) (hj : cs[j]? = some v) :
    ((s.startGang n x cs).core v).task = some (x.taskOn n cs (s.regF (schBudget x.part) 0 13)
      (if spansPackages x.record then s.pkgIndex x.part * gangTasks x.record else 0) j v) := by
  have hmap : ((List.range cs.length).zip cs).map (·.2) = cs := List.map_snd_zip (by simp)
  have hmem : (j, v) ∈ (List.range cs.length).zip cs := by
    refine List.mem_iff_getElem?.2 ⟨j, ?_⟩
    have hlt : j < cs.length := (List.getElem?_eq_some_iff.1 hj).1
    rw [List.getElem?_zip_eq_some]
    exact ⟨by simp [hlt], hj⟩
  rw [State.startGang]
  exact (State.task_beginTasks (fun jv => x.taskOn n cs _ _ jv.1 jv.2) x.record x.preds _ _ (by rwa [hmap])).1 (j, v) hmem

/-- The indices of a task: those of its shape's levels, and zeros up to the eighth. -/
theorem Node.length_idx_taskOn {cs : List Nat} {b base j : Nat} :
    (x.taskOn n cs b base j v).idx.length = max 8 (recLevels x.record).length := by
  simp only [Node.taskOn, List.length_append, List.length_replicate, length_indicesOf]
  omega

theorem Node.take_idx_taskOn {cs : List Nat} {b base j : Nat} :
    (x.taskOn n cs b base j v).idx.take (recLevels x.record).length = indicesOf (recLevels x.record) (base + j) := by
  simp only [Node.taskOn]
  rw [List.take_append_of_le_length (length_indicesOf ..).ge, List.take_of_length_le (length_indicesOf ..).le]

end Gang

/-! ### The completion of a node (R27) -/

section Complete

variable {s : State} {n v : Nat} {x : Node}

theorem State.of_graph {t : State} (h : t.graph = s.graph) : t.nodes = s.nodes ∧ t.cores = s.cores ∧
    t.engines = s.engines ∧ t.arenas = s.arenas :=
  ⟨(congrArg State.nodes h :), (congrArg State.cores h :), (congrArg State.engines h :), (congrArg State.arenas h :)⟩

/-- The state when a node's leases have ended and the other packages have been told. -/
def State.leasesEnded (s : State) (n : Nat) (x : Node) : State :=
  let s1 := (s.leasedBy n).foldl (fun s e => s.endLease (.node n) e) s
  let far := if x.home ∧ spansPackages x.record then s1.others x.part else []
  far.foldl (fun s q => s.relaySend q x.part (.gangComplete x.job x.inst)) s1

theorem State.nodeComplete_eq (h : s.nodeAt n = some x) :
    s.nodeComplete n = ((s.leasesEnded n x).dropNode n).checkZero x.part x.job := by
  rw [State.nodeComplete, h]
  rfl

theorem State.leasesEnded_keeps : (s.leasesEnded n x).nodes = s.nodes ∧ (s.leasesEnded n x).cores = s.cores ∧
    (s.leasesEnded n x).jobs = s.jobs ∧ (s.leasesEnded n x).arenas = s.arenas ∧ (s.leasesEnded n x).engines =
      ((s.leasedBy n).foldl (fun s e => s.endLease (.node n) e) s).engines := by
  have hb : (s.leasesEnded n x).bare = ((s.leasedBy n).foldl (fun s e => s.endLease (.node n) e) s).bare :=
    foldl_bare (fun _ _ => State.bare_relaySend ..) _ _
  have hl : ∀ {γ : Type} (π : State → γ), (∀ u e, π (u.endLease (.node n) e) = π u) →
      π ((s.leasedBy n).foldl (fun s e => s.endLease (.node n) e) s) = π s := fun π hf => foldl_keeps π hf _ _
  exact ⟨(congrArg State.nodes hb :).trans (hl State.nodes fun _ _ => rfl),
    (congrArg State.cores hb :).trans (hl State.cores fun _ _ => rfl),
    (congrArg State.jobs hb :).trans (hl State.jobs fun _ _ => rfl),
    (congrArg State.arenas hb :).trans (hl State.arenas fun _ _ => rfl), (congrArg State.engines hb :)⟩

theorem State.dropNode_eq (h : s.nodeAt n = some x) : s.dropNode n =
    { (s.releaseHolds x.part n).setJob x.part x.job
        { (s.releaseHolds x.part n).jobAt x.part x.job with
          count := ((s.releaseHolds x.part n).jobAt x.part x.job).count - 1 } with
      nodes := (s.releaseHolds x.part n).nodes.del n
      contribs := (s.releaseHolds x.part n).contribs.filter (fun c => c.inst != x.inst) } := by
  rw [State.dropNode, h]

/-- What the removal of a node's entry does to the scheduler's tables. -/
theorem State.dropNode_tables (h : s.nodeAt n = some x) : (s.dropNode n).nodes = s.nodes.del n ∧
    (s.dropNode n).cores = s.cores ∧ (s.dropNode n).engines = s.engines ∧
    (s.dropNode n).arenas = (s.releaseHolds x.part n).arenas ∧ (s.dropNode n).jobs =
      (s.setJob x.part x.job { s.jobAt x.part x.job with count := (s.jobAt x.part x.job).count - 1 }).jobs := by
  obtain ⟨hn, hj, hc, he⟩ := State.releaseHolds_keeps (s := s) (p := x.part) (n := n)
  rw [State.dropNode_eq h]
  generalize s.releaseHolds x.part n = u at hn hj hc he
  have hja : u.jobAt x.part x.job = s.jobAt x.part x.job := by rw [State.jobAt, hj, State.jobAt]
  have hset (y : Job) : (u.setJob x.part x.job y).jobs = (s.setJob x.part x.job y).jobs := by
    rw [State.setJob, hj, State.setJob]
  rw [← hja, ← hset, ← hn, ← hc, ← he]
  exact ⟨rfl, rfl, rfl, rfl, rfl⟩

/-- What a node's completion does to the scheduler's tables. -/
theorem State.nodeComplete_tables (h : s.nodeAt n = some x) : (s.nodeComplete n).nodes = s.nodes.del n ∧
    (s.nodeComplete n).cores = s.cores ∧
    (s.nodeComplete n).engines = ((s.leasedBy n).foldl (fun s e => s.endLease (.node n) e) s).engines ∧
    (s.nodeComplete n).arenas = ((s.leasesEnded n x).releaseHolds x.part n).arenas := by
  obtain ⟨hn, hc, -, -, he⟩ := State.leasesEnded_keeps (s := s) (n := n) (x := x)
  obtain ⟨hn1, hc1, he1, ha1, -⟩ := State.dropNode_tables ((State.nodeAt_congr hn).trans h)
  have hg := (((s.leasesEnded n x).dropNode n).checkZero_keeps x.part x.job).1
  rw [State.nodeComplete_eq h]
  obtain ⟨gn, gc, ge, ga⟩ := State.of_graph hg
  exact ⟨gn.trans (hn1.trans (by rw [hn])), gc.trans (hc1.trans hc), ge.trans (he1.trans he), ga.trans ha1⟩

theorem State.nodeComplete_gone (h : s.nodeAt n = some x) (hs : s.nodes.sorted = true) : (s.nodeComplete n).nodeAt n = none :=
  State.nodeAt_del hs (State.nodeComplete_tables h).1

theorem State.nodeComplete_leases (h : s.nodeAt n = some x) (hs : s.engines.sorted = true) (e : Nat) :
    ((s.nodeComplete n).engine e).leases.contains (.node n) = false := by
  rw [State.engine, (State.nodeComplete_tables h).2.2.1]
  exact State.endLeases_none (s.leasedBy n) s hs (fun e he => State.not_leasedBy he) e

theorem State.nodeComplete_count (h : s.nodeAt n = some x) (hs : s.jobs.sorted = true) :
    ((s.nodeComplete n).jobAt x.part x.job).count = (s.jobAt x.part x.job).count - 1 := by
  obtain ⟨hn, -, hj, -, -⟩ := State.leasesEnded_keeps (s := s) (n := n) (x := x)
  obtain ⟨-, -, -, -, hj1⟩ := State.dropNode_tables ((State.nodeAt_congr hn).trans h)
  have hja : (s.leasesEnded n x).jobAt x.part x.job = s.jobAt x.part x.job := by rw [State.jobAt, hj, State.jobAt]
  have hsl : (s.leasesEnded n x).jobs.sorted = true := by rwa [hj]
  have hsd : ((s.leasesEnded n x).dropNode n).jobs.sorted = true := by
    rw [hj1]
    exact Tab.sorted_set hsl
  rw [State.nodeComplete_eq h, ((((s.leasesEnded n x).dropNode n).checkZero_keeps x.part x.job).2 hsd).2, State.jobAt, hj1]
  exact (congrArg Job.count (State.jobAt_setJob hsl)).trans (by rw [hja])

theorem State.nodeComplete_holders (h : s.nodeAt n = some x) (hs : s.arenas.sorted = true) {k : Nat} (hk : k < 64)
    (hl : ((s.nodeComplete n).arenaSlot x.part k).live = true) :
    ((s.nodeComplete n).arenaSlot x.part k).holders.contains n = false := by
  obtain ⟨-, -, -, ha, -⟩ := State.leasesEnded_keeps (s := s) (n := n) (x := x)
  have hgo := (State.releaseHolds_let_go (p := x.part) (n := n) (List.range 64) (s.leasesEnded n x) (by rwa [ha])).1 k
    (List.mem_range.2 hk)
  exact (State.letGo_congr (by
    rw [State.arenaSlot, (State.nodeComplete_tables h).2.2.2, State.releaseHolds_eq, State.arenaSlot])).2 hgo hl

/-! ### The completion of a gang and of a task (R17, R281, R288) -/

theorem State.core_idle_all : ∀ (l : List Nat) (s : State) (v : Nat), (v ∈ l ∨ (s.core v).st = .idle) →
    ((l.foldl (fun s v => s.setCore v { s.core v with st := .idle }) s).core v).st = .idle
  | [], _, _, h => by simpa using h
  | w :: l, s, v, h => by
    refine State.core_idle_all l _ v ?_
    by_cases hv : v = w
    · rw [hv, State.core_setCore]
      exact .inr rfl
    · rw [State.core_setCore_other hv]
      simpa [hv] using h

/-- A gang whose node lives on one package: its cores are idle, and the node is gone. -/
theorem State.gangDone_ends (h : s.nodeAt n = some x) (hh : x.home = true) (hp : x.packages ≤ 1) (hs : s.nodes.sorted = true) :
    (s.gangDone n).nodeAt n = none ∧ ∀ w ∈ x.cores, ((s.gangDone n).core w).st = .idle := by
  have hn : (x.cores.foldl (fun s v => s.setCore v { s.core v with st := .idle }) s).nodes = s.nodes :=
    foldl_keeps State.nodes (by intros; rfl) _ _
  generalize hi : x.cores.foldl (fun s v => s.setCore v { s.core v with st := .idle }) s = u at hn
  have hat : (u.setNode n { x with cores := [], done := [] }).nodeAt n = some { x with cores := [], done := [] } :=
    State.nodeAt_setNode
  have hsort : (u.setNode n { x with cores := [], done := [] }).nodes.sorted = true := Tab.sorted_put _ (hn ▸ hs)
  have he : s.gangDone n = (u.setNode n { x with cores := [], done := [] }).nodeComplete n := by
    rw [State.gangDone, h]
    dsimp only
    rw [hi, if_pos hh, State.gangReport, hat]
    exact if_pos hp
  rw [he]
  refine ⟨State.nodeComplete_gone hat hsort, fun w hw => ?_⟩
  rw [State.core_congr (State.nodeComplete_tables hat).2.1, ← hi]
  exact State.core_idle_all _ _ _ (.inl hw)

/-- A core whose task has completed. -/
def Core.completed (c : Core) : Core :=
  { c with
    st := .complete, task := none, succ := [], exitStep := 0, inHandler := false, hstop := false, ret := []
    waitw := none, heldW := none, returning := false, engReq := none, lcmds := [], mq := [], drains := [], acc := [], fl := []
    slog := [], fences := [], tq := Vector.replicate 16 [], causes := [], settled := false, framed := false, frameHeld := false
    pages := [], strm := Vector.replicate 4 Strm.reset }

/-- The state when core v's task has completed, before its node hears of it. -/
def State.taskEnded (s0 : State) (v : Nat) : State :=
  let s := (s0.leaveReqs v).note (s0.taskEv v .done)
  { (s.setCore v (s0.core v).completed).clearAllMarks v with
    colls := s.colls.filter (fun e => e.1 != v)
    nodes := s.nodes.map (fun e => (e.1, { e.2 with after := e.2.after.filter (· != v) })) }

theorem State.bare_told (s : State) (v : Nat) : ((s.leaveReqs v).note (s.taskEv v .done)).bare = s.bare :=
  (State.bare_note _).trans rfl

theorem State.nodes_taskEnded (s : State) (v : Nat) : (s.taskEnded v).nodes =
    s.nodes.map (fun e => (e.1, { e.2 with after := e.2.after.filter (· != v) })) := by
  have h : ((s.leaveReqs v).note (s.taskEv v .done)).nodes = s.nodes := (congrArg State.nodes (s.bare_told v) :)
  rw [← h]
  rfl

theorem State.cores_taskEnded (s : State) (v : Nat) :
    (s.taskEnded v).cores = (((s.leaveReqs v).note (s.taskEv v .done)).setCore v (s.core v).completed).cores := by
  have hm := (State.clearAllMarks_keeps (((s.leaveReqs v).note (s.taskEv v .done)).setCore v (s.core v).completed) v).2
  rw [State.taskEnded, ← hm]

theorem State.core_taskEnded (s : State) (v : Nat) : (s.taskEnded v).core v = (s.core v).completed := by
  rw [State.core_congr (s.cores_taskEnded v), State.core_setCore]

/-- The node as it stands when core v has completed its task of it. -/
def Node.doneOn (x : Node) (v : Nat) : Node := { x with done := x.done ++ [v], after := x.after.filter (· != v) }

theorem State.finishTask_eq {t : Task} (ht : (s.core v).task = some t) (hx : s.nodeAt t.node = some x) : s.finishTask v =
    (if x.done.length + 1 = x.cores.length then ((s.taskEnded v).setNode t.node (x.doneOn v)).gangDone t.node
     else (s.taskEnded v).setNode t.node (x.doneOn v)).preCheck t.part := by
  have h : ((s.leaveReqs v).note (s.taskEv v .done)).cores = s.cores := (congrArg State.cores (s.bare_told v) :)
  have hat : (s.taskEnded v).nodeAt t.node = some { x with after := x.after.filter (· != v) } := by
    rw [State.nodeAt_map (fun y => { y with after := y.after.filter (· != v) }) (s.nodes_taskEnded v), hx]
    rfl
  rw [State.finishTask]
  dsimp only
  rw [State.core_congr h, ht]
  dsimp only
  split
  case h_1 hn =>
    have hn' : (s.taskEnded v).nodeAt t.node = none := hn
    simp [hat] at hn'
  case h_2 y hy =>
    have hy' : (s.taskEnded v).nodeAt t.node = some y := hy
    obtain rfl := Option.some.inj (hat.symm.trans hy')
    rw [List.length_append]
    rfl

end Complete

end Sys2Proof.Machine
end

section
/-! O54. The events of nodes, gangs, tasks, successors and packets (R17, R21–R29, R281, R286–R289). -/

namespace Sys2Proof.Machine

open Sys2Proof

/-! ### Allocation, ageing and placement (R25, R286, R288) -/

section Allocate

variable {s : State} {n : Nat} {x : Node} (h : s.nodeAt n = some x)
include h

/-- No slot is free, and none holds an arena that could die: the job fails with cause 16. -/
theorem exec_arenaAllocate_fails (hst : x.st = .allocating) (ha : x.arenas = []) (hh : s.heldBack n x = false)
    (hf : s.slotsFree x = false) (hd : ∀ k < 64, (s.arenaSlot x.part k).live = false) :
    exec (.arenaAllocate n) s = .next (s.failJob x.part x.job 16 n) := by
  rw [exec, execArenaAllocate, h]
  dsimp only
  rw [if_neg (by simp [hst, ha, hh]), if_pos (by simp [hf]), if_pos (by simpa using hd)]

theorem exec_arenaAllocate_takes (hst : x.st = .allocating) (ha : x.arenas = []) (hh : s.heldBack n x = false)
    (hf : s.slotsFree x = true) {y : Node} (hy : (State.birth x.part n (recArenas x.record) s).nodeAt n = some y) :
    exec (.arenaAllocate n) s = .next (if s.pagesFree x then
      (State.birth x.part n (recArenas x.record) s).setNode n
        { y with arenas := y.arenas ++ x.passed.filter (fun h => !y.arenas.contains h)
                 st := if y.zeroing.isEmpty then .placing else .allocating }
      else s) := by
  rw [exec, execArenaAllocate, h]
  dsimp only
  rw [if_neg (by simp [hst, ha, hh]), if_neg (by simp [hf]), hy]
  cases s.pagesFree x <;> rfl

theorem exec_arenaZeroFillDone (hst : x.st = .allocating) (hz : x.zeroing ≠ []) : exec (.arenaZeroFillDone n) s = .next
    ((x.zeroing.foldl (fun s h => s.zeroArena x.part h) s).setNode n { x with st := .placing, zeroing := [] }) := by
  rw [exec, execArenaZeroFillDone, h]
  exact if_neg (by simp [hst, hz])

theorem exec_ageingInterval (hst : x.st ∈ [NSt.ready, .allocating, .placing]) :
    exec (.ageingInterval n) s = .next (s.setNode n { x with age := x.age + 1 }) := by
  rw [exec, execAgeingInterval, h]
  dsimp only
  cases hx : x.st <;> simp [hx] at hst <;> rfl

variable (hst : x.st = .placing) (ha : x.after = []) (hp : s.places x.part = true) (hh : s.placeHeld n x = false)
include hst ha hp hh

/-- A package past the gangs of the shape runs no task of it. -/
theorem exec_gangPlace_none (hs : spansPackages x.record = true) (hg : recGangs x.record ≤ s.pkgIndex x.part) :
    exec (.gangPlace n) s = .next ((s.setNode n { x with st := .running }).gangDone n) := by
  rw [exec, execGangPlace, h]
  dsimp only
  rw [if_neg (by simp [hst, ha, hp, hh]), if_pos ⟨hs, hg⟩]

theorem exec_gangPlace_gang (hs : spansPackages x.record = false ∨ s.pkgIndex x.part < recGangs x.record) :
    exec (.gangPlace n) s = .next
      (if (Config.place s.tick).all (s.freeCore x.part) ∧ validPlace (gangLevels x.record) (Config.place s.tick) then
        s.startGang n x (Config.place s.tick) else s) := by
  have hg : ¬(spansPackages x.record = true ∧ recGangs x.record ≤ s.pkgIndex x.part) := by
    rintro ⟨h1, h2⟩
    exact hs.elim (by simp [h1]) (not_lt.2 h2)
  rw [exec, execGangPlace, h]
  dsimp only
  rw [if_neg (by simp [hst, ha, hp, hh]), if_neg hg, apply_ite Host.Outcome.next]

end Allocate

/-! ### The exit of a task (R17) -/

section Exit

variable {s : State} {v : Nat} {t : Task} {x : Node}

/-- The successor blocks that core v hands over at its exit, with the arena set of its node. -/
def State.handedOver (s : State) (v : Nat) (t : Task) (x : Node) : List Succ :=
  (List.range (s.core v).succ.length).zip (s.core v).succ |>.map (fun (e : Nat × BitVec 256) =>
    ({ job := x.job, part := t.part, block := e.2, set := x.arenas, comb := combOf v, core := some v,
       seq := s.fresh + e.1 } : Succ))

theorem State.blocks_handedOver : (s.handedOver v t x).map (·.block) = (s.core v).succ := by
  rw [State.handedOver, List.map_map]
  exact List.map_snd_zip (by simp)

theorem State.mem_handedOver {b : Succ} (h : b ∈ s.handedOver v t x) :
    b.core = some v ∧ b.set = x.arenas ∧ b.job = x.job ∧ b.part = t.part := by
  obtain ⟨e, -, rfl⟩ := List.mem_map.1 h
  exact ⟨rfl, rfl, rfl, rfl⟩

theorem Core.nothing_of_not_placed {c : Core} (h : c.st ≠ .placed) : c.nothing = false := by
  simp [Core.nothing, h]

variable (hs : (s.core v).st = .exiting) (ht : (s.core v).task = some t)
include hs ht

theorem exec_taskCompletion_waits (h2 : (s.core v).exitStep ≤ 2) (he : (s.core v).allEnded = true)
    (hd : s.exitDrained v = false) : exec (.taskCompletion v) s = .next (s.setCore v { s.core v with exitStep := 2 }) := by
  rw [exec, execTaskCompletion]
  simp only [Core.nothing_of_not_placed (c := s.core v) (by simp [hs]), Bool.false_eq_true, if_false, hs, ht, h2, if_true, he,
    Bool.not_true, hd, Bool.not_false]

theorem exec_taskCompletion_hands (h2 : (s.core v).exitStep ≤ 2) (he : (s.core v).allEnded = true)
    (hd : s.exitDrained v = true) (hx : s.nodeAt t.node = some x) : exec (.taskCompletion v) s =
      let s1 := { s.setCore v { s.core v with exitStep := 3, succ := [] } with
        succs := s.succs ++ s.handedOver v t x, fresh := s.fresh + (s.handedOver v t x).length }
      .next (if (s.handedOver v t x).isEmpty then s1.finishTask v else s1) := by
  rw [exec, execTaskCompletion]
  simp only [Core.nothing_of_not_placed (c := s.core v) (by simp [hs]), Bool.false_eq_true, if_false, hs, ht, h2, if_true, he,
    Bool.not_true, hd, hx]
  rfl

/-- A task without successors completes as soon as it has drained. -/
theorem exec_taskCompletion_ends (h2 : (s.core v).exitStep ≤ 2) (he : (s.core v).allEnded = true)
    (hd : s.exitDrained v = true) (hx : s.nodeAt t.node = some x) (hn : (s.core v).succ = []) :
    exec (.taskCompletion v) s = .next ((s.setCore v { s.core v with exitStep := 3 }).finishTask v) := by
  have hb : s.handedOver v t x = [] := by simp [State.handedOver, hn]
  have hc : ({ s.core v with exitStep := 3, succ := [] } : Core) = { s.core v with exitStep := 3 } := by rw [← hn]
  rw [exec_taskCompletion_hands hs ht h2 he hd hx, hb, hc]
  dsimp only
  rw [List.append_nil]
  rfl

/-- The successors of a task that has drained stand with the scheduler, behind those that it holds. -/
theorem exec_taskCompletion_succs (h2 : (s.core v).exitStep ≤ 2) (he : (s.core v).allEnded = true)
    (hd : s.exitDrained v = true) (hx : s.nodeAt t.node = some x) (hn : (s.core v).succ ≠ []) :
    ∃ u, exec (.taskCompletion v) s = .next u ∧ (u.core v).exitStep = 3 ∧
      u.succs.map (·.block) = s.succs.map (·.block) ++ (s.core v).succ ∧
      ∀ b ∈ u.succs, b ∈ s.succs ∨ (b.core = some v ∧ b.set = x.arenas ∧ b.job = x.job ∧ b.part = t.part) := by
  have hb : (s.handedOver v t x).isEmpty = false := by
    refine List.isEmpty_eq_false_iff.2 fun he => hn ?_
    rw [← State.blocks_handedOver (t := t) (x := x), he]
    rfl
  rw [exec_taskCompletion_hands hs ht h2 he hd hx]
  dsimp only
  rw [hb]
  refine ⟨_, rfl, ?_, ?_, fun b hmem => (List.mem_append.1 hmem).imp_right State.mem_handedOver⟩
  · exact congrArg Core.exitStep (State.core_setCore s v { s.core v with exitStep := 3, succ := [] })
  · exact List.map_append.trans (congrArg (s.succs.map (·.block) ++ ·) State.blocks_handedOver)

theorem exec_taskCompletion_applied (h3 : (s.core v).exitStep = 3) (hb : s.succs.any (fun b => b.core == some v) = false) :
    exec (.taskCompletion v) s = .next (s.finishTask v) := by
  rw [exec, execTaskCompletion]
  simp only [Core.nothing_of_not_placed (c := s.core v) (by simp [hs]), Bool.false_eq_true, if_false, hs, ht, h3, hb]
  rfl

end Exit

section Finish

variable {s : State} {v : Nat} {t : Task} {x : Node}

theorem State.core_setNode {n : Nat} : (s.setNode n x).core v = s.core v := rfl

/-- A task of a node of which others have yet to complete. -/
theorem State.finishTask_other (ht : (s.core v).task = some t) (hx : s.nodeAt t.node = some x)
    (hd : x.done.length + 1 < x.cores.length) : (s.finishTask v).nodeAt t.node =
      some { x with done := x.done ++ [v], after := x.after.filter (· != v) } ∧
      ((s.finishTask v).core v).st = .complete ∧ ((s.finishTask v).core v).task = none := by
  rw [State.finishTask_eq ht hx, if_neg hd.ne]
  obtain ⟨hn, hcs⟩ := State.preCheck_keeps (s := (s.taskEnded v).setNode t.node (x.doneOn v)) t.part
  have hc : (((s.taskEnded v).setNode t.node (x.doneOn v)).preCheck t.part).core v = (s.core v).completed := by
    rw [State.core_congr hcs, State.core_setNode, s.core_taskEnded v]
  refine ⟨(State.nodeAt_congr hn).trans State.nodeAt_setNode, ?_, ?_⟩
  · rw [hc]
    rfl
  · rw [hc]
    rfl

/-- The last task of a node on one package: the node is gone, and its cores are idle. -/
theorem State.finishTask_last (ht : (s.core v).task = some t) (hx : s.nodeAt t.node = some x)
    (hd : x.done.length + 1 = x.cores.length) (hh : x.home = true) (hp : x.packages ≤ 1) (hs : s.nodes.sorted = true) :
    (s.finishTask v).nodeAt t.node = none ∧ ∀ w ∈ x.cores, ((s.finishTask v).core w).st = .idle := by
  have hsort : ((s.taskEnded v).setNode t.node (x.doneOn v)).nodes.sorted = true := by
    refine Tab.sorted_put _ ?_
    rw [s.nodes_taskEnded v]
    exact (Tab.sorted_map (fun y : Node => { y with after := y.after.filter (· != v) })).trans hs
  have hat : ((s.taskEnded v).setNode t.node (x.doneOn v)).nodeAt t.node = some (x.doneOn v) := State.nodeAt_setNode
  obtain ⟨hgone, hidle⟩ := State.gangDone_ends hat hh hp hsort
  rw [State.finishTask_eq ht hx, if_pos hd]
  obtain ⟨hn, hc⟩ := State.preCheck_keeps (s := ((s.taskEnded v).setNode t.node (x.doneOn v)).gangDone t.node) t.part
  refine ⟨(State.nodeAt_congr hn).trans hgone, fun w hw => ?_⟩
  rw [State.core_congr hc]
  exact hidle w hw

/-- A task that has run for its budget parks (R29). -/
theorem exec_taskOverrun (ht : (s.core v).task = some t) (hr : (s.core v).st = .running)
    (hu : t.had + 1000 * t.budget ≤ (s.core v).used t s.slot) : exec (.taskOverrun v) s = .next
      (s.setCore v ({ s.core v with task := some { t with had := (s.core v).used t s.slot } }.park s.now
        { cause := .overrun, orig := 7 })) := by
  rw [exec, execTaskOverrun]
  dsimp only
  rw [ht]
  exact if_pos ⟨.inl hr, hu⟩

theorem Core.start_not_placed {now : Now} {c : Core} : (c.start now).st ≠ .placed := by
  rw [Core.start]
  split
  case isTrue =>
    rw [Core.implicitExit]
    split <;> simp
  case isFalse h => exact h

/-- A placed task with nothing to issue begins first (log entry 54). -/
theorem exec_taskCompletion_nothing (h : (s.core v).nothing = true) : exec (.taskCompletion v) s =
    exec (.taskCompletion v) (s.setCore v ((s.core v).start s.now)) := by
  have hn : ((s.core v).start s.now).nothing = false := Core.nothing_of_not_placed Core.start_not_placed
  rw [exec, execTaskCompletion, exec, execTaskCompletion]
  simp only [h, if_true, State.core_setCore, hn, Bool.false_eq_true, if_false]

end Finish

/-! ### Successors and packets (R26, R28, R281) -/

section Packets

variable {s : State} {k : Nat}

/-- The packet that is taken is in the inbox, with none of its pair before it. -/
theorem State.taken_oldest {e : Nat × Nat × Msg} (h : s.taken k = some e) : s.inbox[k]? = some e ∧
    ∀ x ∈ s.inbox.take k, x.1 ≠ e.1 ∨ x.2.1 ≠ e.2.1 := by
  rw [State.taken] at h
  cases hk : s.inbox[k]? with
  | none => simp [hk] at h
  | some d =>
    obtain ⟨g, p, m⟩ := d
    simp only [hk] at h
    split at h
    case isTrue => simp at h
    case isFalse hany =>
      obtain rfl := Option.some.inj h
      refine ⟨rfl, fun x hx => ?_⟩
      by_contra hc
      push Not at hc
      exact hany (List.any_eq_true.2 ⟨x, hx, by simp [hc.1, hc.2]⟩)

theorem exec_successorApply {b : Succ} (h : s.succs[k]? = some b) : exec (.successorApply k) s = .next
    ({ s with succs := s.succs.filter (fun x => x.seq != b.seq) }.applySucc b) := by
  rw [exec, execSuccessorApply, h]

theorem State.applySucc_failed {b : Succ} (h : (s.jobAt b.part b.job).failed = true) : s.applySucc b = s := by
  rw [State.applySucc]
  exact if_pos h

/-- A block that passes its checks is applied here, or sent to the home of its key. -/
theorem State.applySucc_goes {b : Succ} (hf : (s.jobAt b.part b.job).failed = false) (hc : blkCheck b.block b.set = 0) :
    s.applySucc b =
      let t := s.listRead b.part
      if t.homePkg b.part (blkKey b.block) = t.self then t.applyHere b.part b.job b.comb b.block t.self b.core
      else (t.countSent b.part b.job).relaySend (t.homePkg b.part (blkKey b.block)) b.part (.enqueue b.job b.block) := by
  rw [State.applySucc]
  dsimp only
  rw [if_neg (by simp [hf]), if_neg (by simp [hc])]

theorem exec_enqueuePacket {q p j : Nat} {b : BitVec 256} (h : s.taken k = some (q, p, .enqueue j b)) :
    exec (.enqueuePacket k) s = .next ((if ((s.dropMsg k).jobAt p j).failed then s.dropMsg k
      else (s.dropMsg k).applyHere p j 0 b q none).relaySend q p (.enqueueAck j)) := by
  rw [exec, execEnqueuePacket, h]

theorem exec_enqueueAck {q p j : Nat} (h : s.taken k = some (q, p, .enqueueAck j)) : exec (.enqueueAck k) s =
    .next (((s.dropMsg k).setJob p j { s.jobAt p j with sent := (s.jobAt p j).sent - 1 }).checkZero p j) := by
  rw [exec, execEnqueueAck, h]
  rfl

theorem State.rangeChanging_congr {t : State} {p : Nat} (h : t.regs = s.regs) : t.rangeChanging p = s.rangeChanging p := by
  simp only [State.rangeChanging, State.regF, State.reg, h]

theorem exec_readyPacket {q p j r i n : Nat} (h : s.taken k = some (q, p, .ready j r i))
    (hn : (s.dropMsg k).newEntry 0 = some n) (hr : s.rangeChanging p = false) : exec (.readyPacket k) s = .next
      (((((s.dropMsg k).setNode n { Node.fresh p j r 0 1 i q 0 false with left := 0 }).countNode p j).makeReady n).relaySend
        q p (.enqueueAck j)) := by
  have hc : (((s.dropMsg k).setNode n { Node.fresh p j r 0 1 i q 0 false with left := 0 }).countNode p j).rangeChanging p =
      false := (State.rangeChanging_congr rfl).trans hr
  rw [exec, execReadyPacket, h]
  dsimp only
  rw [hn]
  dsimp only
  rw [if_neg (by rw [hc]; simp)]

section Report

variable {q p j i : Nat} (h : s.taken k = some (q, p, .gangComplete j i))
include h

/-- A report reaches the home entry of its node; to the other packages it says that the node is complete. -/
theorem exec_gangCompleteReport_entry {n : Nat} {x : Node}
    (hx : s.nodes.find? (fun e => e.2.part == p && e.2.job == j && e.2.inst == i) = some (n, x)) :
    exec (.gangCompleteReport k) s =
      .next (if x.home then (s.dropMsg k).gangReport n else (s.dropMsg k).nodeComplete n) := by
  have hn : (s.dropMsg k).nodes = s.nodes := rfl
  rw [exec, execGangCompleteReport, h]
  dsimp only
  rw [hn, hx, apply_ite Host.Outcome.next]

theorem exec_gangCompleteReport_none
    (hx : s.nodes.find? (fun e => e.2.part == p && e.2.job == j && e.2.inst == i) = none) :
    exec (.gangCompleteReport k) s = .next (s.dropMsg k) := by
  have hn : (s.dropMsg k).nodes = s.nodes := rfl
  rw [exec, execGangCompleteReport, h]
  dsimp only
  rw [hn, hx]

end Report

/-! ### Arena slots (R289) -/

theorem exec_arenaSlotReset {p : Nat} (hb : s.barOpen = true) (hp : p < 32) : exec (.arenaSlotReset p) s =
    .next (if s.nodes.any (fun e => e.2.part == p) then s.orReg (schArst p) 2
      else { s with arenas := s.arenas.filter (fun e => e.1 / 64 != p) }) := by
  rw [exec, execArenaSlotReset, State.bar_open hb, if_neg (not_le.2 hp)]

theorem arenaSlot_filtered {p k : Nat} (hk : k < 64) :
    ({ s with arenas := s.arenas.filter (fun e => e.1 / 64 != p) } : State).arenaSlot p k = Arena.none := by
  refine Tab.get_of_unlisted fun e he hek => ?_
  have hne := (List.mem_filter.1 he).2
  rw [hek] at hne
  simp only [bne_iff_ne, ne_eq] at hne
  omega

end Packets

/-- Settles O54: each event by the lemma on its branch; the start of a gang by induction over its cores; a node's completion
by what it does to each of the scheduler's tables. -/
theorem nodesBecomeTasksAndComplete : Obligations.NodesBecomeTasksAndComplete := by
  unfold Obligations.NodesBecomeTasksAndComplete
  refine ⟨fun s n x h => ⟨fun hst ha hh => ⟨exec_arenaAllocate_fails h hst ha hh,
      fun hf y => exec_arenaAllocate_takes h hst ha hh hf⟩, exec_arenaZeroFillDone h, exec_ageingInterval h⟩,
    fun s n x h hst ha hp hh => ⟨exec_gangPlace_none h hst ha hp hh, exec_gangPlace_gang h hst ha hp hh⟩,
    fun s p lrec passed r => State.recCheck_too_large, fun ls cs => validPlace_rising, fun s n x cs j v hn hj => ?_,
    fun ws t ht => ?_,
    fun s v t hs ht => ⟨fun h2 he => ⟨exec_taskCompletion_waits hs ht h2 he, fun hd x hx =>
      ⟨exec_taskCompletion_ends hs ht h2 he hd hx, exec_taskCompletion_succs hs ht h2 he hd hx⟩⟩,
      exec_taskCompletion_applied hs ht⟩,
    fun s v t x => State.finishTask_other, fun s v t x => State.finishTask_last,
    fun s n x h hn he hj ha => ⟨State.nodeComplete_gone h hn, State.nodeComplete_leases h he, State.nodeComplete_count h hj,
      fun k => State.nodeComplete_holders h ha⟩,
    fun s v t => exec_taskOverrun, fun s k e => State.taken_oldest, fun s v => exec_taskCompletion_nothing,
    fun s k b => exec_successorApply, fun s b => ⟨State.applySucc_failed, fun hf hc t ht => ?_⟩,
    fun s k q p j b => exec_enqueuePacket, fun s k q p j => exec_enqueueAck, fun s k q p j r i n => exec_readyPacket,
    fun s k q p j i h => ⟨fun n x => exec_gangCompleteReport_entry h, exec_gangCompleteReport_none h⟩,
    fun s p => exec_arenaSlotReset, fun s p k hk hb hp hn _ => ?_⟩
  · refine ⟨_, State.task_startGang hn hj, rfl, rfl, rfl, rfl, Node.length_idx_taskOn, fun hs => ?_⟩
    rw [if_neg (by simp [hs]), Node.take_idx_taskOn, zero_add]
    exact ⟨zero_add j, rfl⟩
  · rw [foldl_indicesOf, zero_mul, zero_add, Nat.mod_eq_of_lt ht]
  · subst ht
    rw [State.applySucc_goes hf hc]
    exact ⟨fun h => if_pos h, fun h hh hne => hh ▸ if_neg (hh ▸ hne)⟩
  · rw [exec_arenaSlotReset hb hp, if_neg (by simp [hn])]
    exact ⟨_, rfl, arenaSlot_filtered hk⟩

end Sys2Proof.Machine
end

section
/-! The canonical form of memory through the dispatch and through a whole step (R71, R73, R75, R126). -/

namespace Sys2Proof.Machine

open Sys2Proof

variable {s : State}

/-- Whatever word runs, whatever event is taken: each keeps the canonical form by the lemma on its own effect. -/
theorem exec_wf (h : s.memWf = true) : ∀ i, ResWf (exec i s)
  | .add .. => execAdd_wf h .. | .sub .. => execSub_wf h .. | .and .. => execAnd_wf h .. | .or .. => execOr_wf h ..
  | .xor .. => execXor_wf h .. | .andn .. => execAndn_wf h .. | .sll .. => execSll_wf h ..
  | .srl .. => execSrl_wf h .. | .sra .. => execSra_wf h .. | .mul .. => execMul_wf h ..
  | .mulh .. => execMulh_wf h .. | .mulhu .. => execMulhu_wf h .. | .div .. => execDiv_wf h ..
  | .divu .. => execDivu_wf h .. | .rem .. => execRem_wf h .. | .remu .. => execRemu_wf h ..
  | .min .. => execMin_wf h .. | .max .. => execMax_wf h .. | .minu .. => execMinu_wf h ..
  | .maxu .. => execMaxu_wf h .. | .clz .. => execClz_wf h .. | .popc .. => execPopc_wf h ..
  | .addi .. => execAddi_wf h .. | .andi .. => execAndi_wf h .. | .ori .. => execOri_wf h ..
  | .xori .. => execXori_wf h .. | .slli .. => execSlli_wf h .. | .srli .. => execSrli_wf h ..
  | .srai .. => execSrai_wf h .. | .li .. => execLi_wf h .. | .lis .. => execLis_wf h .. | .cmp .. => execCmp_wf h ..
  | .cmpi .. => execCmpi_wf h .. | .qand .. => execQand_wf h .. | .qor .. => execQor_wf h ..
  | .qxor .. => execQxor_wf h .. | .qandn .. => execQandn_wf h .. | .qnot .. => execQnot_wf h ..
  | .qset .. => execQset_wf h .. | .qclr .. => execQclr_wf h .. | .ld .. => execLd_wf h .. | .st .. => execSt_wf h ..
  | .ldl .. => execLdl_wf h .. | .stl .. => execStl_wf h .. | .amoG .. => execAmoG_wf h ..
  | .amoS .. => execAmoS_wf h .. | .amoSg .. => execAmoSg_wf h .. | .redf .. => execRedf_wf h ..
  | .faddF64 .. => execFaddF64_wf h .. | .fsubF64 .. => execFsubF64_wf h .. | .fmulF64 .. => execFmulF64_wf h ..
  | .fdivF64 .. => execFdivF64_wf h .. | .fminF64 .. => execFminF64_wf h .. | .fmaxF64 .. => execFmaxF64_wf h ..
  | .fsqrtF64 .. => execFsqrtF64_wf h .. | .ffmaF64 .. => execFfmaF64_wf h .. | .faddF32 .. => execFaddF32_wf h ..
  | .fsubF32 .. => execFsubF32_wf h .. | .fmulF32 .. => execFmulF32_wf h .. | .fdivF32 .. => execFdivF32_wf h ..
  | .fminF32 .. => execFminF32_wf h .. | .fmaxF32 .. => execFmaxF32_wf h .. | .fsqrtF32 .. => execFsqrtF32_wf h ..
  | .ffmaF32 .. => execFfmaF32_wf h .. | .cvt .. => execCvt_wf h .. | .bq .. => execBq_wf h ..
  | .bnq .. => execBnq_wf h .. | .j .. => execJ_wf h .. | .call .. => execCall_wf h .. | .jmpr .. => execJmpr_wf h ..
  | .callr .. => execCallr_wf h .. | .ret .. => execRet_wf h _ | .ifence .. => execIfence_wf h _
  | .fence .. => execFence_wf h .. | .waitw .. => execWaitw_wf h .. | .exit .. => execExit_wf h ..
  | .arenaH .. => execArenaH_wf h .. | .arenaA .. => execArenaA_wf h .. | .engage .. => execEngage_wf h ..
  | .lease .. => execLease_wf h .. | .unlease .. => execUnlease_wf h .. | .mfsr .. => execMfsr_wf h ..
  | .mtsr .. => execMtsr_wf h .. | .trap .. => execTrap_wf h .. | .brk .. => execBrk_wf h ..
  | .take .. => execTake_wf h .. | .give .. => execGive_wf h .. | .nopToken .. => execNopToken_wf h _
  | .kset .. => execKset_wf h .. | .kinc .. => execKinc_wf h .. | .kwge .. => execKwge_wf h ..
  | .kwgs .. => execKwgs_wf h .. | .kwlt .. => execKwlt_wf h .. | .kread .. => execKread_wf h ..
  | .kincr .. => execKincr_wf h .. | .blockHeader .. => execBlockHeader_wf h .. | .nop => execNop_wf h
  | .mov .. => execMov_wf h .. | .addc .. => execAddc_wf h .. | .lic .. => execLic_wf h ..
  | .kincCompact .. => execKincCompact_wf h .. | .cp1d .. => execCp1d_wf h .. | .cp2d .. => execCp2d_wf h ..
  | .cp3d .. => execCp3d_wf h .. | .cpw1d .. => execCpw1d_wf h .. | .cpw2d .. => execCpw2d_wf h ..
  | .cpw3d .. => execCpw3d_wf h .. | .cpl .. => execCpl_wf h .. | .cpr .. => execCpr_wf h ..
  | .cpm .. => execCpm_wf h .. | .cvcp .. => execCvcp_wf h .. | .pfBulk .. => execPfBulk_wf h ..
  | .pfRel .. => execPfRel_wf h .. | .lgath .. => execLgath_wf h .. | .lscat .. => execLscat_wf h ..
  | .lfill .. => execLfill_wf h .. | .badd .. => execBadd_wf h .. | .bsub .. => execBsub_wf h ..
  | .band .. => execBand_wf h .. | .bor .. => execBor_wf h .. | .bxor .. => execBxor_wf h ..
  | .bsll .. => execBsll_wf h .. | .bsrl .. => execBsrl_wf h .. | .bmul .. => execBmul_wf h ..
  | .baddi .. => execBaddi_wf h .. | .bli .. => execBli_wf h .. | .blis .. => execBlis_wf h ..
  | .bmov .. => execBmov_wf h .. | .baddc .. => execBaddc_wf h .. | .mma .. => execMma_wf h ..
  | .mmat .. => execMmat_wf h .. | .tclr .. => execTclr_wf h .. | .tldA .. => execTldA_wf h ..
  | .tldW .. => execTldW_wf h .. | .drain .. => execDrain_wf h .. | .eload .. => execEload_wf h ..
  | .gli .. => execGli_wf h .. | .glis .. => execGlis_wf h .. | .tclrCompact .. => execTclrCompact_wf h _
  | .vaddF32 .. => execVaddF32_wf h .. | .vsubF32 .. => execVsubF32_wf h .. | .vmulF32 .. => execVmulF32_wf h ..
  | .vfmaF32 .. => execVfmaF32_wf h .. | .vminF32 .. => execVminF32_wf h .. | .vmaxF32 .. => execVmaxF32_wf h ..
  | .vdivF32 .. => execVdivF32_wf h .. | .vaddF64 .. => execVaddF64_wf h .. | .vsubF64 .. => execVsubF64_wf h ..
  | .vmulF64 .. => execVmulF64_wf h .. | .vfmaF64 .. => execVfmaF64_wf h .. | .vminF64 .. => execVminF64_wf h ..
  | .vmaxF64 .. => execVmaxF64_wf h .. | .vdivF64 .. => execVdivF64_wf h .. | .vaddF16 .. => execVaddF16_wf h ..
  | .vsubF16 .. => execVsubF16_wf h .. | .vmulF16 .. => execVmulF16_wf h .. | .vfmaF16 .. => execVfmaF16_wf h ..
  | .vminF16 .. => execVminF16_wf h .. | .vmaxF16 .. => execVmaxF16_wf h .. | .vdivF16 .. => execVdivF16_wf h ..
  | .vaddBf16 .. => execVaddBf16_wf h .. | .vsubBf16 .. => execVsubBf16_wf h ..
  | .vmulBf16 .. => execVmulBf16_wf h .. | .vfmaBf16 .. => execVfmaBf16_wf h ..
  | .vminBf16 .. => execVminBf16_wf h .. | .vmaxBf16 .. => execVmaxBf16_wf h ..
  | .vdivBf16 .. => execVdivBf16_wf h .. | .vaddI32 .. => execVaddI32_wf h .. | .vsubI32 .. => execVsubI32_wf h ..
  | .vmulI32 .. => execVmulI32_wf h .. | .vmulhI32 .. => execVmulhI32_wf h .. | .vand .. => execVand_wf h ..
  | .vor .. => execVor_wf h .. | .vxor .. => execVxor_wf h .. | .vandn .. => execVandn_wf h ..
  | .vsll .. => execVsll_wf h .. | .vsrl .. => execVsrl_wf h .. | .vsra .. => execVsra_wf h ..
  | .vaddI16 .. => execVaddI16_wf h .. | .vsubI16 .. => execVsubI16_wf h .. | .vmulI16 .. => execVmulI16_wf h ..
  | .vcmp .. => execVcmp_wf h .. | .vmov .. => execVmov_wf h .. | .vsel .. => execVsel_wf h ..
  | .vbcast .. => execVbcast_wf h .. | .vsqrt .. => execVsqrt_wf h .. | .vrsqrt .. => execVrsqrt_wf h ..
  | .vexp2 .. => execVexp2_wf h .. | .vlog2 .. => execVlog2_wf h .. | .vexp .. => execVexp_wf h ..
  | .vln .. => execVln_wf h .. | .vsin .. => execVsin_wf h .. | .vcos .. => execVcos_wf h ..
  | .vtanh .. => execVtanh_wf h .. | .verf .. => execVerf_wf h .. | .vrcp .. => execVrcp_wf h ..
  | .vcvtF32 .. => execVcvtF32_wf h .. | .vcvtF64 .. => execVcvtF64_wf h .. | .vcvtI32 .. => execVcvtI32_wf h ..
  | .vquant .. => execVquant_wf h .. | .vexpand .. => execVexpand_wf h .. | .vrsum .. => execVrsum_wf h ..
  | .vrmax .. => execVrmax_wf h .. | .vrmin .. => execVrmin_wf h .. | .vbcl .. => execVbcl_wf h ..
  | .vrotl .. => execVrotl_wf h .. | .vshuf .. => execVshuf_wf h .. | .vzip .. => execVzip_wf h ..
  | .vldr .. => execVldr_wf h .. | .vstr .. => execVstr_wf h .. | .vldG .. => execVldG_wf h ..
  | .vstG .. => execVstG_wf h .. | .vldSg .. => execVldSg_wf h .. | .vstSg .. => execVstSg_wf h ..
  | .vgath .. => execVgath_wf h .. | .vscat .. => execVscat_wf h .. | .pand .. => execPand_wf h ..
  | .por .. => execPor_wf h .. | .pxor .. => execPxor_wf h .. | .pandn .. => execPandn_wf h ..
  | .pnot .. => execPnot_wf h .. | .pset .. => execPset_wf h .. | .pclr .. => execPclr_wf h ..
  | .xli .. => execXli_wf h .. | .xlis .. => execXlis_wf h .. | .xadd .. => execXadd_wf h ..
  | .xsub .. => execXsub_wf h .. | .xand .. => execXand_wf h .. | .xorX .. => execXorX_wf h ..
  | .xxor .. => execXxor_wf h .. | .xsll .. => execXsll_wf h .. | .xsrl .. => execXsrl_wf h ..
  | .xmul .. => execXmul_wf h .. | .vfence .. => execVfence_wf h .. | .vflrd .. => execVflrd_wf h ..
  | .vflclr .. => execVflclr_wf h .. | .vbaseW .. => execVbaseW_wf h .. | .vbaseR .. => execVbaseR_wf h ..
  | .vrotW .. => execVrotW_wf h .. | .vrotR .. => execVrotR_wf h .. | .vgov .. => execVgov_wf h _
  | .blockRunEnd .. => execBlockRunEnd_wf h .. | .accessPerform .. => execAccessPerform_wf h ..
  | .lCmdSourceReleased .. => execLCmdSourceReleased_wf h .. | .lCmdDelivered .. => execLCmdDelivered_wf h ..
  | .notifyWrite .. => execNotifyWrite_wf h .. | .lCmdServiceFault .. => execLCmdServiceFault_wf h ..
  | .mFinish .. => execMFinish_wf h _ | .drainStart .. => execDrainStart_wf h _ | .drainRow .. => execDrainRow_wf h _
  | .drainDelivered .. => execDrainDelivered_wf h _ | .portStarvationFreeze b => execPortStarvationFreeze_wf h b
  | .combEngineDecision .. => execCombEngineDecision_wf h _ | .rowMax .. => execRowMax_wf h _
  | .rowExps .. => execRowExps_wf h _ | .rowScale .. => execRowScale_wf h _ | .rowAll .. => execRowAll_wf h _
  | .gthGet .. => execGthGet_wf h _ | .gthPut .. => execGthPut_wf h _ | .selTop .. => execSelTop_wf h _
  | .selPack .. => execSelPack_wf h _ | .xfmTr .. => execXfmTr_wf h _ | .colSum .. => execColSum_wf h _
  | .colBcast .. => execColBcast_wf h _ | .colCat .. => execColCat_wf h _ | .netSend .. => execNetSend_wf h _
  | .netWrite .. => execNetWrite_wf h _ | .netPost .. => execNetPost_wf h _
  | .engineReleasedEvent .. => execEngineReleasedEvent_wf h _
  | .engineDeliveredEvent .. => execEngineDeliveredEvent_wf h _
  | .engineOccupancyEnd .. => execEngineOccupancyEnd_wf h _ | .engineWakeDone .. => execEngineWakeDone_wf h _
  | .engineServiceFault .. => execEngineServiceFault_wf h _ | .holdCreate .. => execHoldCreate_wf h _
  | .holdLapse .. => execHoldLapse_wf h _ | .standingLeaseGrant .. => execStandingLeaseGrant_wf h ..
  | .standingLeaseEnd .. => execStandingLeaseEnd_wf h .. | .engineRecall .. => execEngineRecall_wf h _
  | .lsePccapWrite .. => execLsePccapWrite_wf h _ | .lseSwcapWrite .. => execLseSwcapWrite_wf h _
  | .taskCompletion .. => execTaskCompletion_wf h _ | .successorApply .. => execSuccessorApply_wf h _
  | .enqueuePacket .. => execEnqueuePacket_wf h _ | .enqueueAck .. => execEnqueueAck_wf h _
  | .readyPacket .. => execReadyPacket_wf h _ | .gangCompleteReport .. => execGangCompleteReport_wf h _
  | .arenaAllocate .. => execArenaAllocate_wf h _ | .arenaZeroFillDone .. => execArenaZeroFillDone_wf h _
  | .gangPlace .. => execGangPlace_wf h _ | .ageingInterval .. => execAgeingInterval_wf h _
  | .taskOverrun .. => execTaskOverrun_wf h _ | .notify .. => execNotify_wf h ..
  | .queueConsume .. => execQueueConsume_wf h _ | .queueBind .. => execQueueBind_wf h ..
  | .queueUnbind .. => execQueueUnbind_wf h _ | .queueErrClear .. => execQueueErrClear_wf h _
  | .flogRead => execFlogRead_wf h | .preemptRequest .. => execPreemptRequest_wf h _
  | .preemptResume .. => execPreemptResume_wf h _ | .arenaSlotReset .. => execArenaSlotReset_wf h _
  | .registerWrite .. => execRegisterWrite_wf h .. | .corePark .. => execCorePark_wf h _
  | .faultRecordWrite .. => execFaultRecordWrite_wf h _ | .faultQueueWrite .. => execFaultQueueWrite_wf h ..
  | .coreResume .. => execCoreResume_wf h .. | .coreAbandon .. => execCoreAbandon_wf h ..
  | .sideLogKick .. => execSideLogKick_wf h .. | .frameRewrite .. => execFrameRewrite_wf h ..
  | .sideLogReplay .. => execSideLogReplay_wf h .. | .autoResume .. => execAutoResume_wf h _
  | .tlbInvalidate .. => execTlbInvalidate_wf h .. | .invalidateDone .. => execInvalidateDone_wf h _
  | .atsResponse .. => execAtsResponse_wf h .. | .pageResponse .. => execPageResponse_wf h ..
  | .atsInvalidation .. => execAtsInvalidation_wf h .. | .tileFill .. => execTileFill_wf h _
  | .layoutPrepare => execLayoutPrepare_wf h | .layoutApplyRequest => execLayoutApplyRequest_wf h
  | .layoutAbort => execLayoutAbort_wf h | .lapBoundary => execLapBoundary_wf h
  | .clusterScrubDone .. => execClusterScrubDone_wf h _ | .pageReseal .. => execPageReseal_wf h _
  | .quotaInterval .. => execQuotaInterval_wf h _ | .mpReset => execMpReset_wf h
  | .rekeyRequest .. => execRekeyRequest_wf h _ | .rekeySweepTile .. => execRekeySweepTile_wf h _
  | .capFlogRead => execCapFlogRead_wf h | .slipClear .. => execSlipClear_wf h _
  | .priEnable .. => execPriEnable_wf h _ | .tdiStateChange .. => execTdiStateChange_wf h ..
  | .getVersion .. => execGetVersion_wf h .. | .getCapabilities .. => execGetCapabilities_wf h ..
  | .negotiateAlgorithms .. => execNegotiateAlgorithms_wf h .. | .getDigests .. => execGetDigests_wf h ..
  | .getCertificate .. => execGetCertificate_wf h .. | .challenge .. => execChallenge_wf h ..
  | .getMeasurements .. => execGetMeasurements_wf h .. | .keyExchange .. => execKeyExchange_wf h ..
  | .relayPacketReceive .. => execRelayPacketReceive_wf h .. | .relayAck .. => execRelayAck_wf h ..
  | .relayRto .. => execRelayRto_wf h .. | .flitCrcError .. => execFlitCrcError_wf h _
  | .linkRetrain .. => execLinkRetrain_wf h _ | .retrainTimeout .. => execRetrainTimeout_wf h _
  | .uePacketReceive .. => execUePacketReceive_wf h .. | .ueAckReceive .. => execUeAckReceive_wf h ..
  | .ueReorderTimeout .. => execUeReorderTimeout_wf h .. | .ueRto .. => execUeRto_wf h ..
  | .ueConnOpen .. => execUeConnOpen_wf h .. | .ueConnClose .. => execUeConnClose_wf h _
  | .ueWindowWrite .. => execUeWindowWrite_wf h .. | .coldReset => execColdReset_wf h
  | .firmwareUpload .. => execFirmwareUpload_wf h _ | .firmwareCommit => execFirmwareCommit_wf h
  | .watchdogKick => execWatchdogKick_wf h | .watchdogExpiry => execWatchdogExpiry_wf h
  | .eccCorrected => execEccCorrected_wf h | .uncorrectableError .. => execUncorrectableError_wf h _
  | .linkRetrainSuccess .. => execLinkRetrainSuccess_wf h _ | .cClockChange .. => execCClockChange_wf h _
  | .refresh i => execRefresh_wf h i

/-- The turn of a stream: a wait, a run's end, a fetch that stops, or the word that was fetched. -/
theorem stepStream_wf (h : s.memWf = true) : ResWf (stepStream s) := by
  have hf : s.fetchNext.1.memWf = true := State.fetchNext_wf h
  unfold stepStream
  split <;> rename_i t _ heq <;> rw [heq] at hf
  · exact hf
  · exact exec_wf hf _
  · exact (State.fetchFault_wf ..).trans hf
  · exact exec_wf hf _

theorem stepCore_wf (h : s.memWf = true) : ResWf (stepCore s) := by
  unfold stepCore
  split
  · exact .ite (fun _ => exec_wf h _) (fun _ => h)
  · exact stepStream_wf ((State.flushAt_wf ..).trans h)

theorem step_wf (h : s.memWf = true) : ResWf (step s) := by
  have hc := stepCore_wf h
  unfold step
  split <;> rename_i heq
  · rw [heq] at hc
    exact State.tickOn_wf hc
  · trivial
  · trivial

/-- Settles O7: each instruction and event keeps the form (`exec_wf`), and so do the fetch before it and the clock's step
after it. -/
theorem stepsKeepMemoryCanonical : Obligations.StepsKeepMemoryCanonical := by
  unfold Obligations.StepsKeepMemoryCanonical
  intro s t h ht
  have hs := step_wf h
  rw [ht] at hs
  exact hs

end Sys2Proof.Machine
end

section
/-! What a word of V that writes one row changes (R66, R141, R212, R214, R215), and the rows and flag masks of a core. -/

namespace Sys2Proof.Machine

open Sys2Proof

/-! ### Rows and flag masks -/

section Rows

variable {c : Core} {d r : Nat} {v : Row}

theorem Core.row_setRow_same (h : c.rowsOk = true) : (c.setRow d v).row d = v := Tab.get_set_same h

theorem Core.row_setRow_other (h : c.rowsOk = true) (hr : r ≠ d) : (c.setRow d v).row r = c.row r := by
  unfold Core.row Core.setRow Tab.set
  dsimp only
  split
  · exact Tab.get_del_other h hr
  · exact Tab.get_put_other hr

theorem Core.rowsOk_setRow (h : c.rowsOk = true) : (c.setRow d v).rowsOk = true := Tab.sorted_set h

theorem Core.files_setRow : (c.setRow d v).files = { c.files with bufX := (c.setRow d v).bufX } := rfl

theorem Core.row_congr {c' : Core} (hb : c'.bufX = c.bufX) (hs : c'.seed = c.seed) : c'.row r = c.row r := by
  simp only [Core.row, Core.undefX, hb, hs]

theorem orLane_getLsbD (m : Vector (BitVec 128) 5) (i : Nat) (f : Fl) (j : Fin 5) (u : Nat) :
    (orLane m i f)[j].getLsbD u = (m[j].getLsbD u || (f.getLsbD j.val && decide (u < 128) && decide (u = i))) := by
  have he : (orLane m i f)[j] = if f.getLsbD j.val then m[j.val] ||| (1#128 <<< i) else m[j.val] := by
    simp [orLane]
  have hone : (1#128 <<< i).getLsbD u = (decide (u < 128) && decide (u = i)) := by
    rw [BitVec.getLsbD_shiftLeft, BitVec.getLsbD_one]
    by_cases h : u = i
    · simp [h]
    · simp only [h, decide_false, Bool.and_false]
      by_cases hlt : u < i
      · simp [hlt]
      · simp [show u - i ≠ 0 by omega]
  rw [he]
  cases f.getLsbD j.val with
  | false => simp
  | true => simp [hone]

/-- The masks only gain bits as the flags of lanes are recorded. -/
theorem orLanes_getLsbD_of (fs : List Fl) : ∀ (m : Vector (BitVec 128) 5) (i : Nat) (j : Fin 5) (u : Nat),
    m[j].getLsbD u = true → (orLanes m i fs)[j].getLsbD u = true := by
  induction fs with
  | nil => exact fun _ _ _ _ h => h
  | cons f fs ih => exact fun m i j u h => ih _ _ j u (by rw [orLane_getLsbD, h, Bool.true_or])

theorem Core.vflags_raiseV_of (nf : Bool) (fs : List Fl) (j : Fin 5) (u : Nat) (h : c.vflags[j].getLsbD u = true) :
    (c.raiseV nf fs).vflags[j].getLsbD u = true := by
  cases nf with
  | true => exact h
  | false => exact orLanes_getLsbD_of fs _ _ j u h

theorem Core.files_raiseV (nf : Bool) (fs : List Fl) :
    (c.raiseV nf fs).files = { c.files with vflags := (c.raiseV nf fs).vflags } := by cases nf <;> rfl

end Rows

/-! ### Increments that a core owes (R168) -/

def HAct.IsPush (a : HAct) : Prop := ∃ p x, a = .push p x

theorem Core.owesInc_eq_false_iff {c : Core} :
    c.owesInc = false ↔ ∀ st, ∀ h ∈ (c.str st).hold, h.act.IsPush := by
  have hl (l : List Held) : l.any (fun h => match h.act with | .push _ _ => false | _ => true) = false ↔
      ∀ h ∈ l, h.act.IsPush := by
    rw [List.any_eq_false]
    refine forall₂_congr fun h _ => ?_
    obtain ⟨_, a⟩ := h
    cases a <;> simp [HAct.IsPush]
  have hst : (∀ st, ∀ h ∈ (c.str st).hold, h.act.IsPush) ↔
      ∀ st ∈ [Stream.C, .L, .M, .V], ∀ h ∈ (c.str st).hold, h.act.IsPush :=
    ⟨fun h st _ => h st, fun h st => h st (by cases st <;> simp)⟩
  rw [hst, Core.owesInc, List.any_eq_false]
  refine forall₂_congr fun st _ => ?_
  rw [Bool.not_eq_true]
  exact hl _

/-! ### The frame of a row -/

/-- `d` differs from `c`, of what words compute with, in row `r` and by bits set in the flag masks alone; and its counters only
where `c` owes increments. -/
structure Core.RowFrame (r : Nat) (c d : Core) : Prop where
  files : d.files = { c.files with bufX := d.bufX, vflags := d.vflags, k := d.k }
  count : c.owesInc = false → d.owesInc = false ∧ d.k = c.k
  rows : c.rowsOk = true → d.rowsOk = true ∧ ∀ q, q ≠ r → d.row q = c.row q
  flags : ∀ (j : Fin 5) (u : Nat), c.vflags[j].getLsbD u = true → d.vflags[j].getLsbD u = true

namespace Core.RowFrame

variable {r : Nat} {c d e : Core}

theorem trans (h : Core.RowFrame r c d) (h' : Core.RowFrame r d e) : Core.RowFrame r c e where
  files := by rw [h'.files, h.files]
  count hc := by
    obtain ⟨hd, hk⟩ := h.count hc
    obtain ⟨he, hk'⟩ := h'.count hd
    exact ⟨he, hk'.trans hk⟩
  rows hc := by
    obtain ⟨hd, hq⟩ := h.rows hc
    obtain ⟨he, hq'⟩ := h'.rows hd
    exact ⟨he, fun q hne => (hq' q hne).trans (hq q hne)⟩
  flags j u hc := h'.flags j u (h.flags j u hc)

/-- A change that leaves the files as they are, counters aside. -/
theorem of_files (hf : d.files = { c.files with k := d.k }) (hk : c.owesInc = false → d.owesInc = false ∧ d.k = c.k) :
    Core.RowFrame r c d := by
  have hb : d.bufX = c.bufX := congrArg Files.bufX hf
  have hv : d.vflags = c.vflags := congrArg Files.vflags hf
  have hs : d.seed = c.seed := congrArg Files.seed hf
  refine ⟨by rw [hf, hb, hv]; rfl, hk, fun hc => ⟨?_, fun q _ => Core.row_congr hb hs⟩, fun j u h => ?_⟩
  · rw [Core.rowsOk, hb]
    exact hc
  · rw [hv]
    exact h

/-- A change that leaves the files and what the streams hold. -/
theorem of_hold (hf : d.files = c.files) (hs : ∀ st, (d.str st).hold = (c.str st).hold) : Core.RowFrame r c d := by
  have hk : d.k = c.k := congrArg Files.k hf
  refine of_files (by rw [hf, hk]; rfl) fun hc => ⟨?_, hk⟩
  rw [Core.owesInc_eq_false_iff] at hc ⊢
  simpa only [hs] using hc

theorem refl (r : Nat) (c : Core) : Core.RowFrame r c c := of_hold rfl fun _ => rfl

theorem of_strm (hf : d.files = c.files) (hs : d.strm = c.strm) : Core.RowFrame r c d :=
  of_hold hf fun st => by rw [Core.str_congr hs]

theorem setRow (r : Nat) (c : Core) (v : Row) : Core.RowFrame r c (c.setRow r v) where
  files := rfl
  count hc := ⟨hc, rfl⟩
  rows hc := ⟨Core.rowsOk_setRow hc, fun _ hq => Core.row_setRow_other hc hq⟩
  flags _ _ h := h

theorem raiseV (r : Nat) (c : Core) (nf : Bool) (fs : List Fl) : Core.RowFrame r c (c.raiseV nf fs) where
  files := by cases nf <;> rfl
  count hc := by cases nf <;> exact ⟨hc, rfl⟩
  rows hc := by cases nf <;> exact ⟨hc, fun _ _ => rfl⟩
  flags := Core.vflags_raiseV_of nf fs

/-- Every computing word of V ends so: it writes its row and records the flags of its lanes. -/
theorem setRow_raiseV (r : Nat) (c : Core) (v : Row) (nf : Bool) (fs : List Fl) :
    Core.RowFrame r c ((c.setRow r v).raiseV nf fs) := (setRow r c v).trans (raiseV r _ nf fs)

theorem mapLanes (r : Nat) (c : Core) (s : Nat) (nf : Bool) (f : Nat → Nat × Fl) : Core.RowFrame r c (c.mapLanes r s nf f) :=
  setRow_raiseV r c _ nf _

theorem launch (r : Nat) (c : Core) (st : Stream) (sp : List Spec) (cls scope pol : Nat) (dest : Dest) (late : Bool)
    (push : BitVec 2) : Core.RowFrame r c (c.launch st sp cls scope pol dest late push) := of_strm rfl rfl

theorem park (r : Nat) (c : Core) (now : Now) (x : CauseRec) : Core.RowFrame r c (c.park now x) := by
  obtain ⟨hf, -, hs, -⟩ := Core.park_keeps c now x
  exact of_strm hf hs

theorem setQueue (r : Nat) (c : Core) (p st : Stream) (l : List (BitVec 32)) : Core.RowFrame r c (c.setQueue p st l) :=
  of_strm rfl rfl

theorem start (r : Nat) (c : Core) (now : Now) : Core.RowFrame r c (c.start now) := by
  obtain ⟨hf, -, hs, -⟩ := Core.start_keeps c now
  exact of_strm hf hs

theorem setStr (r : Nat) (c : Core) {st : Stream} {x : Strm}
    (h : (∀ g ∈ (c.str st).hold, g.act.IsPush) → ∀ g ∈ x.hold, g.act.IsPush) : Core.RowFrame r c (c.setStr st x) := by
  have hf := Core.files_setStr c st x
  have hk : (c.setStr st x).k = c.k := congrArg Files.k hf
  refine of_files (by rw [hf, hk]; rfl) fun hc => ⟨?_, hk⟩
  rw [Core.owesInc_eq_false_iff] at hc ⊢
  intro st'
  by_cases hst : st' = st
  · subst hst
    rw [Core.str_setStr]
    exact h (hc st')
  · rw [Core.str_setStr_ne _ _ _ _ hst]
    exact hc st'

theorem advance (r : Nat) (c : Core) (st : Stream) (hw : Nat) : Core.RowFrame r c (c.advance st hw) := setStr r c id

theorem push (r : Nat) (c : Core) (st : Stream) (code : BitVec 2) (x : BitVec 32) :
    Core.RowFrame r c (c.push st code x) := by
  cases h : peer st code with
  | none =>
    rw [Core.push_of_no_peer c x h]
    exact refl r c
  | some p =>
    rw [Core.push_of_peer c x h, Core.hold]
    refine trans (d := { c with nextId := c.nextId + 1 }) (of_strm rfl rfl) ?_
    refine setStr r _ fun hc g hg => ?_
    rcases List.mem_append.1 hg with hg | hg
    · exact hc g hg
    · rw [List.mem_singleton.1 hg]
      exact ⟨p, x, rfl⟩

theorem begun (r : Nat) (c : Core) (now : Now) (st : Stream) (hw : Nat) :
    Core.RowFrame r c ((c.start now).advance st hw) := (start r c now).trans (advance r _ st hw)

theorem finished (r : Nat) (c : Core) (now : Now) (st : Stream) (hw : Nat) (code : BitVec 2) (x : BitVec 32) :
    Core.RowFrame r c (((c.start now).advance st hw).push st code x) := (begun r c now st hw).trans (push r _ st code x)

end Core.RowFrame

/-! ### The releases that a core makes beside a word -/

theorem Core.setK_keeps {c d : Core} (hf : d.files = c.files) (hs : d.strm = c.strm) (k : BitVec 6) (x : BitVec 24) :
    (d.setK k x).files = { c.files with k := (d.setK k x).k } ∧ (d.setK k x).strm = c.strm := by
  rw [← hf]
  exact ⟨rfl, hs⟩

theorem Core.incK_keeps (c : Core) (now : Now) (k : BitVec 6) (n : Nat) (x : CauseRec) :
    (c.incK now k n x).files = { c.files with k := (c.incK now k n x).k } ∧ (c.incK now k n x).strm = c.strm := by
  unfold Core.incK
  extract_lets x' c0 c1 y c2 new old
  have hf : c1.files = c.files := rfl
  have hs : c1.strm = c.strm := rfl
  have h2 : c2.files = { c.files with k := c2.k } ∧ c2.strm = c.strm := Core.setK_keeps hf hs k _
  split
  · exact Core.setK_keeps hf hs k _
  · clear_value c2 new old c0
    split
    · exact h2
    · obtain ⟨pf, -, ps, -⟩ := Core.park_keeps { c2 with kOver := k.toNat :: c2.kOver } now new
      have hk : (Core.park now new { c2 with kOver := k.toNat :: c2.kOver }).k = c2.k := congrArg Files.k pf
      exact ⟨by rw [hk]; exact pf.trans h2.1, ps.trans h2.2⟩

/-- A release that is made: the counters alone change of the files, and not where it is a push. -/
theorem Core.make_keeps (c : Core) (now : Now) (st : Stream) (h : Held) :
    (c.make now st h).files = { c.files with k := (c.make now st h).k } ∧ (c.make now st h).strm = c.strm ∧
      (h.act.IsPush → (c.make now st h).k = c.k) := by
  obtain ⟨id, a⟩ := h
  cases a with
  | push p x => exact ⟨rfl, rfl, fun _ => rfl⟩
  | inc k n x =>
    obtain ⟨hf, hs⟩ := Core.incK_keeps c now k n x
    exact ⟨hf, hs, fun ⟨_, _, e⟩ => by cases e⟩
  | set k x => exact ⟨rfl, rfl, fun ⟨_, _, e⟩ => by cases e⟩

theorem Core.flushGo_keeps (now : Now) (landed : Bool) (st : Stream) : ∀ (l : List Held) (c : Core),
    (Core.flushGo now landed st l c).2.2.files = { c.files with k := (Core.flushGo now landed st l c).2.2.k } ∧
    (Core.flushGo now landed st l c).2.2.strm = c.strm ∧
    ((∀ h ∈ l, h.act.IsPush) → (Core.flushGo now landed st l c).2.2.k = c.k) ∧
    (Core.flushGo now landed st l c).1 ⊆ l := by
  intro l
  induction l with
  | nil => exact fun c => ⟨rfl, rfl, fun _ => rfl, List.Subset.refl _⟩
  | cons h l ih =>
    intro c
    rw [Core.flushGo]
    split
    · obtain ⟨hf, hs, hk, hsub⟩ := ih (c.make now st h)
      obtain ⟨mf, ms, mk⟩ := Core.make_keeps c now st h
      refine ⟨?_, hs.trans ms, fun hp => ?_, List.Subset.trans hsub (List.subset_cons_self _ _)⟩
      · exact hf.trans (by rw [mf])
      · exact (hk fun g hg => hp g (List.mem_cons_of_mem _ hg)).trans (mk (hp h List.mem_cons_self))
    · exact ⟨rfl, rfl, fun _ => rfl, List.Subset.refl _⟩

namespace Core.RowFrame

theorem flushGo (r : Nat) (c : Core) (now : Now) (landed : Bool) (st : Stream) {l : List Held} (hl : (c.str st).hold = l) :
    Core.RowFrame r c ((Core.flushGo now landed st l c).2.2.setStr st
      { (Core.flushGo now landed st l c).2.2.str st with hold := (Core.flushGo now landed st l c).1 }) := by
  obtain ⟨hf, hs, hk, hsub⟩ := Core.flushGo_keeps now landed st l c
  refine .trans (of_files hf fun hc => ⟨?_, hk ?_⟩) (setStr r _ fun hp g hg => hp g ?_)
  · rw [Core.owesInc_eq_false_iff] at hc ⊢
    simpa only [Core.str_congr hs] using hc
  · exact hl ▸ Core.owesInc_eq_false_iff.1 hc st
  · rw [Core.str_congr hs, hl]
    exact hsub hg

theorem flushStr (r : Nat) (s : State) (v : Nat) (st : Stream) : Core.RowFrame r (s.core v) ((s.flushStr v st).core v) := by
  cases h : ((s.core v).str st).hold with
  | nil =>
    rw [State.flushStr_of_empty h]
    exact refl r _
  | cons g l =>
    rw [State.core_flushStr g l h]
    exact flushGo r _ s.now (s.landed v) st h

theorem flushAt (r : Nat) (s : State) (v : Nat) : Core.RowFrame r (s.core v) ((s.flushAt v).core v) :=
  (((flushStr r s v .C).trans (flushStr r _ v .L)).trans (flushStr r _ v .M)).trans (flushStr r _ v .V)

end Core.RowFrame

/-! ### Words that write one row -/

/-- The same core moves, and keeps the frame of row `r`. -/
def State.RowFrame (r : Nat) (s t : State) : Prop := t.turn = s.turn ∧ s.cur.RowFrame r t.cur

/-- The state that an effect leaves keeps the frame of row `r`. -/
def Eff.RowFrame (r : Nat) (s : State) : Eff → Prop
  | .go t _ => s.RowFrame r t
  | .late t => s.RowFrame r t
  | _ => True

section Effects

variable {r : Nat} {s σ t : State} {e : Eff}

theorem State.RowFrame.refl (r : Nat) (s : State) : s.RowFrame r s := ⟨rfl, .refl r _⟩

theorem State.RowFrame.trans (h : s.RowFrame r σ) (h' : σ.RowFrame r t) : s.RowFrame r t :=
  ⟨h'.1.trans h.1, h.2.trans h'.2⟩

theorem State.RowFrame.setCore {v : Nat} (hv : v = s.turn.core) {d : Core} (h : s.cur.RowFrame r d) :
    s.RowFrame r (s.setCore v d) := by
  subst hv
  exact ⟨rfl, by rw [State.cur_setCore]; exact h⟩

theorem State.RowFrame.flushAt (r : Nat) (s : State) {v : Nat} (hv : v = s.turn.core) : s.RowFrame r (s.flushAt v) := by
  have hc := Core.RowFrame.flushAt r s v
  obtain ⟨cores, hist, e⟩ := State.flushAt_eq s v
  rw [e] at hc ⊢
  subst hv
  exact ⟨rfl, hc⟩

theorem Eff.RowFrame.checked (h : e.RowFrame r s) (wf : Bool) : (e.checked wf).RowFrame r s := by
  cases wf with
  | true => rwa [Eff.checked_true]
  | false => cases e <;> trivial

theorem Eff.RowFrame.onCore {g : Core → Core} (h : σ.cur.RowFrame r (g σ.cur)) : (onCore σ g).RowFrame r σ :=
  State.RowFrame.setCore rfl h

/-- A word ends: it waits, it parks the core, or it finishes or goes on; and the core makes the releases that it may. -/
theorem Eff.RowFrame.finish (hσ : s.RowFrame r σ) (he : e.RowFrame r σ) (st : Stream) (hw : Nat) (code : BitVec 2) :
    s.RowFrame r (e.finish s s.turn.core st hw code) := by
  have moved {u : State} (hu : σ.RowFrame r u) {d : Core} (hd : u.cur.RowFrame r d) :
      s.RowFrame r ((u.setCore s.turn.core d).flushAt s.turn.core) :=
    have hv : s.turn.core = u.turn.core := by rw [hu.1, hσ.1]
    (hσ.trans hu).trans ((State.RowFrame.setCore hv hd).trans (.flushAt r _ hv))
  have cur {u : State} (hu : σ.RowFrame r u) : u.core s.turn.core = u.cur := by rw [State.cur, hu.1, hσ.1]
  cases e with
  | wait => exact .refl r s
  | fault c a => exact .setCore rfl (.park r ..)
  | go u x => exact moved he (by rw [cur he]; exact .finished r ..)
  | late u => exact moved he (by rw [cur he]; exact .begun r ..)

theorem State.popped_rowFrame {st : Stream} {tk : Tok} {x : BitVec 32} (r : Nat) (h : s.popped st tk = some (σ, x)) :
    s.RowFrame r σ := by
  obtain ⟨-, rfl, -⟩ | ⟨p, l, -, -, -, rfl⟩ := State.popped_cases h
  · exact .refl r _
  · refine ⟨by simp, ?_⟩
    rw [State.cur_note, State.cur_setCore]
    exact .setQueue r ..

theorem Core.RowFrame.vr {c d : Core} (h : c.RowFrame r d) (w : BitVec 1) (f : BitVec 5) : d.vr w f = c.vr w f := by
  have hb : d.vbase = c.vbase := congrArg Files.vbase h.files
  have hr : d.rot = c.rot := congrArg Files.rot h.files
  simp only [Core.vr, Core.vrow, hb, hr]

/-- A word whose effect keeps the frame of the row that its field names. -/
theorem issue_rowFrame {st : Stream} {i : Instr} {tk : Tok} {hw : Nat} {f : State → BitVec 32 → Eff} {w : BitVec 1}
    {d : BitVec 5} (h : issue s st i tk hw f = .next t) (hf : ∀ σ x, (f σ x).RowFrame (σ.cur.vr w d) σ) :
    s.RowFrame (s.cur.vr w d) t := by
  cases hc : s.cur.canIssue st with
  | false =>
    cases (issue_blocked hc hw f).symm.trans h
    exact .refl _ _
  | true =>
    cases hp : s.popped st tk with
    | none =>
      cases (issue_empty hp hw f).symm.trans h
      exact .refl _ _
    | some y =>
      obtain ⟨σ, x⟩ := y
      cases (issue_of_popped hc hp hw f).symm.trans h
      have hσ := State.popped_rowFrame (s.cur.vr w d) hp
      have he := hf σ x
      rw [hσ.2.vr] at he
      exact Eff.RowFrame.finish hσ (he.checked _) ..

theorem vOp_rowFrame {i : Instr} {tk : Tok} {rows : Core → List Nat} {g : Core → Core} {w : BitVec 1} {d : BitVec 5}
    (hi : exec i s = vOp s i tk rows g) (h : exec i s = .next t) (hg : ∀ c : Core, c.RowFrame (c.vr w d) (g c)) :
    s.RowFrame (s.cur.vr w d) t := by
  refine issue_rowFrame (hi.symm.trans h) fun σ _ => ?_
  split
  · trivial
  · exact .onCore (hg _)

/-- The hand-over of a row load leaves the row to its accesses. -/
theorem vload_rowFrame (σ : State) (r : Nat) (sp : Except (Cause × Nat) (List Spec)) (row c sc l : Nat) (push : BitVec 2) :
    (vload σ sp row c sc l push).RowFrame r σ := by
  unfold vload
  split
  · trivial
  · split
    · exact State.RowFrame.refl r σ
    · exact State.RowFrame.setCore rfl (.launch r ..)

/-- A load of a row from a buffer waits, faults, or is handed over. -/
theorem rowLoad_rowFrame {i : Instr} {tk : Tok} {rows : State → List Nat} {ok : State → Bool} {sp : State → List Spec}
    {row : State → Nat} {w : BitVec 1} {d : BitVec 5} {p : BitVec 2}
    (h : issue s .V i tk 2 (fun σ _ =>
      if σ.cur.rowBusy (rows σ) then .wait
      else if !ok σ then .fault .addressing 0
      else vload σ (.ok (sp σ)) (row σ) 16 0 0 p) = .next t) : s.RowFrame (s.cur.vr w d) t := by
  refine issue_rowFrame h fun σ _ => ?_
  split
  · trivial
  · split
    · trivial
    · exact vload_rowFrame σ ..

theorem Core.vcvt_rowFrame (c : Core) (h f : EF) (out : Bool) (r a rc : Nat) (sat nf : Bool) :
    c.RowFrame r (c.vcvt h f out r a rc sat nf) := by
  cases out <;> exact .setRow_raiseV r c ..

end Effects

/-- The words that write one row: they compute it from rows, or they hand over the accesses that will fill it. -/
theorem exec_rowFrame {s t : State} {i : Instr} {w : BitVec 1} {d : BitVec 5} (hi : i.vDest = some (w, d))
    (h : exec i s = .next t) : s.RowFrame (s.cur.vr w d) t := by
  cases i
  case vaddF32 | vsubF32 | vmulF32 | vfmaF32 | vminF32 | vmaxF32 | vdivF32 | vaddF64 | vsubF64 | vmulF64 | vfmaF64 | vminF64 |
      vmaxF64 | vdivF64 | vaddF16 | vsubF16 | vmulF16 | vfmaF16 | vminF16 | vmaxF16 | vdivF16 | vaddBf16 | vsubBf16 |
      vmulBf16 | vfmaBf16 | vminBf16 | vmaxBf16 | vdivBf16 | vaddI32 | vsubI32 | vmulI32 | vmulhI32 | vand | vor | vxor |
      vandn | vsll | vsrl | vsra | vaddI16 | vsubI16 | vmulI16 | vsqrt | vrsqrt | vexp2 | vlog2 | vexp | vln | vsin | vcos |
      vtanh | verf | vrcp | vbcl | vrotl | vshuf | vzip =>
    cases hi
    refine vOp_rowFrame (by unfold exec; rfl) h fun c => ?_
    exact .mapLanes _ c ..
  case vquant | vexpand | vrsum | vrmax | vrmin =>
    cases hi
    refine vOp_rowFrame (by unfold exec; rfl) h fun c => ?_
    exact .setRow_raiseV _ c ..
  case vmov | vsel | vbcast | vflrd =>
    cases hi
    refine vOp_rowFrame (by unfold exec; rfl) h fun c => ?_
    exact .setRow _ c _
  case vcvtF32 | vcvtF64 | vcvtI32 =>
    cases hi
    refine vOp_rowFrame (by unfold exec; rfl) h fun c => ?_
    exact c.vcvt_rowFrame ..
  case vldr =>
    cases hi
    exact rowLoad_rowFrame ((execVldr.eq_1 ..).symm.trans h)
  case vgath =>
    cases hi
    exact rowLoad_rowFrame ((execVgath.eq_1 ..).symm.trans h)
  all_goals cases hi

/-- Settles O43: every such word is issued with an effect that keeps the frame of its row (`exec_rowFrame`), and so do the pop,
the finish or the parking, and the releases made beside it. -/
theorem vectorWordsWriteOneRow : Obligations.VectorWordsWriteOneRow := by
  unfold Obligations.VectorWordsWriteOneRow
  intro s t i w d hi h
  obtain ⟨-, hf⟩ := exec_rowFrame hi h
  exact ⟨hf.files, fun hc => (hf.count hc).2, hf.rows, hf.flags⟩

end Sys2Proof.Machine
end

section
/-! Rows as lanes (R62, R212 to R215), and the names of rows and predicates (R66, R141, R213). -/

namespace Sys2Proof.Machine

open Sys2Proof

/-! ### Rows as elements -/

section Elements

/-- Bits of a number below a cut do not see what is cut off. -/
theorem div_mod_of_mod {x a w m : Nat} (h : a + w ≤ m) : x % 2 ^ m / 2 ^ a % 2 ^ w = x / 2 ^ a % 2 ^ w := by
  refine Nat.eq_of_testBit_eq fun j => ?_
  simp only [Nat.testBit_mod_two_pow, Nat.testBit_div_two_pow]
  by_cases hj : j < w
  · simp [hj, show j + a < m by omega]
  · simp [hj]

/-- The number whose first `n` digits to the base 2^w are `g i`. -/
def digits (w : Nat) (g : Nat → Nat) (n : Nat) : Nat := (List.range n).foldl (fun a i => a + g i % 2 ^ w * 2 ^ (w * i)) 0

theorem foldl_digits (w : Nat) (g : Nat → Nat) (n b : Nat) :
    (List.range n).foldl (fun a i => a + g i % 2 ^ w * 2 ^ (w * i)) b = b + digits w g n := by
  have hadd (l : List Nat) (b : Nat) : l.foldl (fun a i => a + g i % 2 ^ w * 2 ^ (w * i)) b =
      b + l.foldl (fun a i => a + g i % 2 ^ w * 2 ^ (w * i)) 0 := by
    induction l generalizing b with
    | nil => rfl
    | cons i l ih =>
      rw [List.foldl_cons, List.foldl_cons, ih, ih (0 + _)]
      omega
  exact hadd _ b

theorem digits_succ (w : Nat) (g : Nat → Nat) (n : Nat) : digits w g (n + 1) = digits w g n + g n % 2 ^ w * 2 ^ (w * n) := by
  simp only [digits, List.range_succ, List.foldl_append, List.foldl_cons, List.foldl_nil]

theorem digits_lt (w : Nat) (g : Nat → Nat) (n : Nat) : digits w g n < 2 ^ (w * n) := by
  induction n with
  | zero => simp [digits]
  | succ n ih =>
    have hg : g n % 2 ^ w < 2 ^ w := Nat.mod_lt _ (Nat.two_pow_pos w)
    calc digits w g (n + 1) = digits w g n + g n % 2 ^ w * 2 ^ (w * n) := digits_succ w g n
      _ < (g n % 2 ^ w + 1) * 2 ^ (w * n) := by rw [Nat.succ_mul]; omega
      _ ≤ 2 ^ w * 2 ^ (w * n) := Nat.mul_le_mul_right _ hg
      _ = 2 ^ (w * (n + 1)) := by rw [← Nat.pow_add, Nat.mul_succ, Nat.add_comm]

/-- A digit reads back, whatever stands above the digits. -/
theorem digit_of_digits (w : Nat) (g : Nat → Nat) {n i : Nat} (hi : i < n) (H : Nat) :
    (H * 2 ^ (w * n) + digits w g n) / 2 ^ (w * i) % 2 ^ w = g i % 2 ^ w := by
  induction n generalizing H with
  | zero => omega
  | succ n ih =>
    have hsplit : H * 2 ^ (w * (n + 1)) + digits w g (n + 1) = (H * 2 ^ w + g n % 2 ^ w) * 2 ^ (w * n) + digits w g n := by
      rw [digits_succ, Nat.mul_succ, Nat.pow_add, Nat.add_mul]
      ring
    rw [hsplit]
    rcases Nat.lt_succ_iff_lt_or_eq.1 hi with h | rfl
    · exact ih h _
    · rw [Nat.mul_comm, Nat.mul_add_div (Nat.two_pow_pos _), Nat.div_eq_of_lt (digits_lt w g i), Nat.add_zero,
        Nat.mul_comm, Nat.mul_add_mod, Nat.mod_mod]

variable {old : Row} {w n i : Nat} {f : Nat → Nat}

/-- An element of a row that has been built reads back. -/
theorem rowElem_rowBuild (hn : w * n ≤ 2048) (hi : i < n) : rowElem (rowBuild old w n f) w i = f i % 2 ^ w := by
  have hw : w * i + w ≤ 2048 := (Nat.mul_succ w i ▸ Nat.mul_le_mul_left w hi).trans hn
  rw [rowElem, rowBuild, BitVec.toNat_ofNat, div_mod_of_mod hw, foldl_digits, digit_of_digits w f hi]

theorem rowElem_mod (r : Row) (w i : Nat) : rowElem r w i % 2 ^ w = rowElem r w i := Nat.mod_mod _ _

theorem rowElem_mergeLanes {rs : List (Option (Nat × Fl))} (hn : w * rs.length ≤ 2048) (hi : i < rs.length) :
    rowElem (mergeLanes old w rs) w i = (match rs.getD i none with | some x => x.1 | none => rowElem old w i) % 2 ^ w :=
  rowElem_rowBuild hn hi

end Elements

/-! ### Lane maps (R214, R215) -/

section Lanes

variable {c : Core} {d s i r : Nat} {nf : Bool} {f : Nat → Nat × Fl}

theorem Core.laneMap_getD (hi : i < 256 / s) :
    (c.laneMap s (256 / s) true f).getD i none = if c.enabled i s then some (f i) else none := by
  simp [Core.laneMap, List.getD_eq_getElem?_getD, hi]

theorem Core.length_laneMap (n : Nat) (gov : Bool) : (c.laneMap s n gov f).length = n := by simp [Core.laneMap]

theorem Core.row_raiseV (fs : List Fl) : (c.raiseV nf fs).row r = c.row r := by cases nf <;> rfl

theorem Core.row_mapLanes_same (h : c.rowsOk = true) :
    (c.mapLanes d s nf f).row d = mergeLanes (c.row d) (8 * s) (c.laneMap s (256 / s) true f) := by
  rw [Core.mapLanes, Core.putLanes, Core.row_raiseV, Core.row_setRow_same h]

theorem Core.row_mapLanes_other (h : c.rowsOk = true) (hr : r ≠ d) : (c.mapLanes d s nf f).row r = c.row r := by
  rw [Core.mapLanes, Core.putLanes, Core.row_raiseV, Core.row_setRow_other h hr]

theorem Core.lane_mapLanes (h : c.rowsOk = true) (hs : s ∈ [1, 2, 4, 8]) (hi : i < 256 / s) :
    (c.mapLanes d s nf f).lane d s i = if c.enabled i s then (f i).1 % 2 ^ (8 * s) else c.lane d s i := by
  have hn : 8 * s * (256 / s) ≤ 2048 := by
    simp only [List.mem_cons, List.not_mem_nil, or_false] at hs
    rcases hs with rfl | rfl | rfl | rfl <;> decide
  rw [Core.lane, Core.row_mapLanes_same h, rowElem_mergeLanes (by rwa [Core.length_laneMap]) (by rwa [Core.length_laneMap]),
    Core.laneMap_getD hi]
  cases c.enabled i s with
  | true => rfl
  | false => exact rowElem_mod _ _ _

theorem orLanes_getLsbD (fs : List Fl) : ∀ (m : Vector (BitVec 128) 5) (k : Nat) (j : Fin 5) (u : Nat), u < 128 →
    (orLanes m k fs)[j].getLsbD u = (m[j].getLsbD u || (decide (k ≤ u) && (fs.getD (u - k) 0).getLsbD j.val)) := by
  induction fs with
  | nil => intro m k j u _; simp [orLanes]
  | cons f fs ih =>
    intro m k j u hu
    rw [orLanes, ih _ _ _ _ hu, orLane_getLsbD]
    rcases Nat.lt_trichotomy u k with h | rfl | h
    · simp [show ¬ k ≤ u by omega, show ¬ k + 1 ≤ u by omega, show u ≠ k by omega]
    · simp [hu]
    · obtain ⟨m', hm⟩ : ∃ m', u - k = m' + 1 := ⟨u - k - 1, by omega⟩
      simp [show k ≤ u by omega, show k + 1 ≤ u by omega, show u ≠ k by omega, hm, show u - (k + 1) = m' by omega]

theorem laneFlags_getD (rs : List (Option (Nat × Fl))) :
    (laneFlags rs).getD i 0 = match rs.getD i none with | some x => x.2 | none => flNone := by
  simp only [laneFlags, List.getD_eq_getElem?_getD, List.getElem?_map]
  cases rs[i]? <;> rfl

theorem Core.vflags_mapLanes (j : Fin 5) (hi : i < 128) :
    ((c.mapLanes d s nf f).vflags[j]).getLsbD i =
      ((c.vflags[j]).getLsbD i || (!nf && decide (i < 256 / s) && c.enabled i s && (f i).2.getLsbD j.val)) := by
  cases nf with
  | true => simp [Core.mapLanes, Core.putLanes, Core.raiseV, Core.setRow]
  | false =>
    have hv : (c.mapLanes d s false f).vflags = orLanes c.vflags 0 (laneFlags (c.laneMap s (256 / s) true f)) := rfl
    rw [hv, orLanes_getLsbD _ _ _ _ _ hi, Nat.sub_zero, laneFlags_getD]
    by_cases hlt : i < 256 / s
    · rw [Core.laneMap_getD hlt]
      cases c.enabled i s <;> simp [hlt, flNone]
    · rw [List.getD_eq_default _ _ (by rw [Core.length_laneMap]; omega)]
      simp [hlt, flNone]

theorem Core.files_mapLanes : (c.mapLanes d s nf f).files =
    { c.files with bufX := (c.mapLanes d s nf f).bufX, vflags := (c.mapLanes d s nf f).vflags } := by
  rw [Core.mapLanes, Core.putLanes, Core.files_raiseV, Core.files_setRow]
  cases nf <;> rfl

end Lanes

/-! ### Names of rows and predicates (R66, R141, R213) -/

section Names

variable (c : Core)

theorem Core.vrow_low {n : Nat} (h : n ≤ 31) : c.vrow n = (c.vbase.toNat + n) % 1024 := if_pos h

theorem Core.vrow_high {n : Nat} (h : 32 ≤ n) :
    c.vrow n = (c.vbase.toNat + 32 + (n - 32 + c.rot.toNat) % 32) % 1024 := if_neg (by omega)

theorem Core.vrow_lt (n : Nat) : c.vrow n < 1024 := by
  unfold Core.vrow
  split <;> exact Nat.mod_lt _ (by decide)

theorem Core.vrow_inj {n m : Nat} (hn : n < 64) (hm : m < 64) (h : c.vrow n = c.vrow m) : n = m := by
  unfold Core.vrow at h
  split at h <;> split at h <;> omega

theorem vreg_cases (b : BitVec 1) (f : BitVec 5) : vreg b f < 64 ∧ (f.toNat ≤ 15 → vreg b f = 16 * b.toNat + f.toNat) ∧
    (16 ≤ f.toNat → vreg b f = 32 + 16 * b.toNat + f.toNat - 16) := by
  have hb := b.isLt
  have hf := f.isLt
  refine ⟨?_, fun h => if_pos h, fun h => if_neg (by omega)⟩
  unfold vreg
  split <;> omega

theorem Core.pphys_low {n : BitVec 4} (h : n.toNat ≤ 7) : (c.pphys n).val = n.toNat := by rw [Core.pphys, if_pos h]

theorem Core.pphys_high {n : BitVec 4} (h : 8 ≤ n.toNat) : (c.pphys n).val = 8 + (n.toNat - 8 + c.rot.toNat) % 8 := by
  rw [Core.pphys, if_neg (by omega)]

theorem Core.pphys_inj {n m : BitVec 4} (h : c.pphys n = c.pphys m) : n = m := by
  have hv := congrArg Fin.val h
  have hn := n.isLt
  have hm := m.isLt
  refine BitVec.eq_of_toNat_eq ?_
  rcases Nat.lt_or_ge n.toNat 8 with h1 | h1 <;> rcases Nat.lt_or_ge m.toNat 8 with h2 | h2
  · rwa [c.pphys_low (by omega), c.pphys_low (by omega)] at hv
  · rw [c.pphys_low (by omega), c.pphys_high h2] at hv; omega
  · rw [c.pphys_high h1, c.pphys_low (by omega)] at hv; omega
  · rw [c.pphys_high h1, c.pphys_high h2] at hv; omega

end Names

/-- Settles O41: an element of a row that has been built reads back (`rowElem_rowBuild`), the masks are ORed lane by lane
(`orLanes_getLsbD`), and the names are compared modulo the window and the rotation. -/
theorem lanesAndRowsOfTheVectorFile : Obligations.LanesAndRowsOfTheVectorFile := by
  unfold Obligations.LanesAndRowsOfTheVectorFile
  refine ⟨fun c d s i nf f => Core.lane_mapLanes, fun c d s r nf f => Core.row_mapLanes_other,
    fun c d s i nf f j _ => Core.vflags_mapLanes j, fun c d s nf f => Core.files_mapLanes, fun _ _ _ => rfl,
    fun c n => ⟨c.vrow_low, fun h _ => c.vrow_high h, c.vrow_lt n⟩, fun c n m => c.vrow_inj, vreg_cases,
    fun c n m => ⟨c.pphys_low, c.pphys_high, c.pphys_inj⟩, fun c d r v h => ⟨?_, Core.rowsOk_setRow h⟩, rfl⟩
  split
  · next hr => rw [hr, Core.row_setRow_same h]
  · next hr => exact Core.row_setRow_other h hr

end Sys2Proof.Machine
end

section
/-! Row loads, stores, gathers and scatters of V on the buffers of its core (R84, R87, R89, R229, R232). -/

namespace Sys2Proof.Machine

open Sys2Proof

/-! ### What these words have in common -/

/-- An access to a buffer that names the X rows `rows` waits while one of them is busy. -/
def State.bufAccess (σ : State) (rows : List Nat) (e : Eff) : Eff := if σ.cur.rowBusy rows then .wait else e

/-- It is sent where its address passes its check. -/
def bufChecked (ok : Bool) (send : Eff) : Eff := if !ok then .fault .addressing 0 else send

/-- The row to write is sent after the buffer that it names has been looked at. -/
def bufStored (denied : Prop) [Decidable denied] (ok : Bool) (send : Eff) : Eff :=
  if denied then .fault .accessList 0 else bufChecked ok send

section Does

variable {i : Instr} {tk : Tok} {rows : State → List Nat} {ok : State → Bool} {sp : State → List Spec} {row : State → Nat}
  {s s1 : State} {x : BitVec 32}

theorem State.bufAccess_ready {σ : State} {rows : List Nat} {e : Eff} (hb : σ.cur.rowBusy rows = false) :
    σ.bufAccess rows e = e := if_neg (by simp [hb])

theorem bufChecked_fault {ok : Bool} {e : Eff} (h : ok = false) : bufChecked ok e = .fault .addressing 0 := if_pos (by simp [h])

theorem bufChecked_ok {ok : Bool} {e : Eff} (h : ok = true) : bufChecked ok e = e := if_neg (by simp [h])

/-- A load of a row from a buffer begins, finishes with nothing enabled, and parks on a bad address. -/
theorem bufLoad_does (hi : ∀ σ, exec i σ = issue σ .V i tk 2 fun σ _ =>
      σ.bufAccess (rows σ) (bufChecked (ok σ) (vload σ (.ok (sp σ)) (row σ) 16 0 0 tk.push)))
    (h : Issues s .V i tk s1 x) (hb : s1.cur.rowBusy (rows s1) = false) :
    (ok s1 = true → exec i s = .next (s1.moved (
      if sp s1 = [] then s1.cur.finished s.now .V 2 tk.push 0
      else (s1.cur.launch .V (sp s1) 16 0 0 (.vrow (row s1)) true tk.push).begun s.now .V 2))) ∧
    (ok s1 = false → exec i s = .next (s.park s.turn.core (s.cur.recOf .V .addressing 0))) := by
  rw [hi]
  refine ⟨fun hok => ?_, fun hok => issue_fault h (by rw [State.bufAccess_ready hb, bufChecked_fault hok])⟩
  have hs : s1.bufAccess (rows s1) (bufChecked (ok s1) (vload s1 (.ok (sp s1)) (row s1) 16 0 0 tk.push)) =
      vload s1 (.ok (sp s1)) (row s1) 16 0 0 tk.push := by rw [State.bufAccess_ready hb, bufChecked_ok hok]
  cases hsp : sp s1 with
  | nil => exact issue_go_self h (hs.trans (by rw [hsp]; rfl))
  | cons p ps => exact issue_late h (hs.trans (by rw [hsp]; rfl))

/-- A store of a row to a buffer does likewise, but has finished once it is handed over, and parks where L alone may write. -/
theorem bufStore_does {denied : Prop} [Decidable denied] (hi : ∀ σ, exec i σ = issue σ .V i tk 2 fun σ _ =>
      σ.bufAccess (rows σ) (bufStored denied (ok σ) (vstore σ (.ok (sp σ)) 16 0 0 tk.push)))
    (h : Issues s .V i tk s1 x) (hb : s1.cur.rowBusy (rows s1) = false) :
    (¬denied → ok s1 = true → exec i s = .next (s1.moved (
      if sp s1 = [] then s1.cur.finished s.now .V 2 tk.push 0
      else (s1.cur.launch .V (sp s1) 16 0 0 .nothing false tk.push).finished s.now .V 2 tk.push 0))) ∧
    (¬denied → ok s1 = false → exec i s = .next (s.park s.turn.core (s.cur.recOf .V .addressing 0))) ∧
    (denied → exec i s = .next (s.park s.turn.core (s.cur.recOf .V .accessList 0))) := by
  rw [hi]
  refine ⟨fun hd hok => ?_, fun hd hok => issue_fault h ?_, fun hd => issue_fault h ?_⟩
  · have hs : s1.bufAccess (rows s1) (bufStored denied (ok s1) (vstore s1 (.ok (sp s1)) 16 0 0 tk.push)) =
        vstore s1 (.ok (sp s1)) 16 0 0 tk.push := by
      rw [State.bufAccess_ready hb, bufStored, if_neg hd, bufChecked_ok hok]
    cases hsp : sp s1 with
    | nil => exact issue_go_self h (hs.trans (by rw [hsp]; rfl))
    | cons p ps => exact issue_go h (hs.trans (by rw [hsp]; rfl))
  · rw [State.bufAccess_ready hb, bufStored, if_neg hd, bufChecked_fault hok]
  · rw [State.bufAccess_ready hb, bufStored, if_pos hd]

end Does

section Forms

variable (tk : Tok) (u z : BitVec 2) (v : BitVec 1) (x : BitVec 4) (d i : BitVec 5) (w : BitVec 1) (σ : State)

theorem exec_vldr_bufAccess : exec (.vldr tk u x d w) σ = issue σ .V (.vldr tk u x d w) tk 2 (fun σ _ =>
    σ.bufAccess [σ.cur.vr w d] (bufChecked (rowAddrOk (rowBuf u) (σ.cur.getX x))
      (vload σ (.ok (σ.unitRow (rowBuf u) (σ.cur.getX x).toNat (fun _ => .load))) (σ.cur.vr w d) 16 0 0 tk.push))) := rfl

theorem exec_vgath_bufAccess : exec (.vgath tk z v d i x w) σ = issue σ .V (.vgath tk z v d i x w) tk 2 (fun σ _ =>
    σ.bufAccess [σ.cur.vr w d, σ.cur.vr w i]
      (bufChecked (σ.cur.gathOk (gathBuf v) (σ.cur.getX x) (σ.cur.vr w i) (laneSize z))
        (vload σ (.ok ((σ.cur.accessesOf (laneSize z)).map (fun j => ⟨bufSpace σ (gathBuf v),
          (σ.cur.getX x).toNat + σ.cur.lane (σ.cur.vr w i) (laneSize z) j * laneSize z, laneSize z, laneSize z * j, .load⟩)))
          (σ.cur.vr w d) 16 0 0 tk.push))) := rfl

theorem exec_vstr_bufAccess : exec (.vstr tk u x d w) σ = issue σ .V (.vstr tk u x d w) tk 2 (fun σ _ =>
    σ.bufAccess [σ.cur.vr w d] (bufStored (rowBuf u = .W) (rowAddrOk (rowBuf u) (σ.cur.getX x))
      (vstore σ (.ok (σ.unitRow (rowBuf u) (σ.cur.getX x).toNat
        (fun j => .store (leBytes 2 (rowElem (σ.cur.row (σ.cur.vr w d)) 16 j))))) 16 0 0 tk.push))) := rfl

theorem exec_vscat_bufAccess : exec (.vscat tk z v d i x w) σ = issue σ .V (.vscat tk z v d i x w) tk 2 (fun σ _ =>
    σ.bufAccess [σ.cur.vr w d, σ.cur.vr w i]
      (bufStored (v = 1) (σ.cur.gathOk .A (σ.cur.getX x) (σ.cur.vr w i) (laneSize z))
        (vstore σ (.ok ((σ.cur.topLanes (σ.cur.getX x) (σ.cur.vr w i) (laneSize z)).map (fun j => ⟨.B .A,
          (σ.cur.getX x).toNat + σ.cur.lane (σ.cur.vr w i) (laneSize z) j * laneSize z, laneSize z, laneSize z * j,
          .store (leBytes (laneSize z) (rowElem (σ.cur.row (σ.cur.vr w d)) (8 * laneSize z) j))⟩))) 16 0 0 tk.push))) := rfl

end Forms

/-! ### Addresses and lanes -/

theorem rowAddrOk_iff (b : Buf) (x : Reg) : rowAddrOk b x = true ↔ x.toNat % 16 = 0 ∧ x.toNat + 256 ≤ b.size := by
  have hb : b.size ≤ 2 ^ 19 := by cases b <;> decide
  simp only [rowAddrOk, Bool.and_eq_true, beq_iff_eq, decide_eq_true_eq]
  omega

theorem Core.gathOk_iff (c : Core) (b : Buf) (x : Reg) (vi s : Nat) : c.gathOk b x vi s = true ↔
    x.toNat < 2 ^ 19 ∧ x.toNat % s = 0 ∧
      ∀ j, j < 256 / s → c.enabled j s = true → x.toNat + c.lane vi s j * s + s ≤ b.size := by
  have hx : x.toNat / 2 ^ 19 = 0 ↔ x.toNat < 2 ^ 19 := by omega
  simp only [Core.gathOk, Bool.and_eq_true, beq_iff_eq, decide_eq_true_eq, List.all_eq_true, List.mem_range,
    Bool.or_eq_true, Bool.not_eq_true', hx, and_assoc]
  refine and_congr_right fun _ => and_congr_right fun _ => forall₂_congr fun j _ => ?_
  cases c.enabled j s <;> simp [Core.elemOff]

theorem Core.mem_topLanes (c : Core) (x : Reg) (vi s j : Nat) : j ∈ c.topLanes x vi s ↔ j < 256 / s ∧ c.enabled j s = true ∧
    ∀ m, m < 256 / s → c.enabled m s = true → j < m → c.lane vi s m * s ≠ c.lane vi s j * s := by
  simp only [Core.topLanes, Core.elemOff, List.mem_filter, Core.mem_accessesOf, Bool.not_eq_true', List.any_eq_false,
    Bool.and_eq_true, decide_eq_true_eq, beq_iff_eq, Nat.add_left_cancel_iff, and_assoc, and_imp, not_and, ne_eq]

theorem bit_ne_zero_iff : ∀ v : BitVec 1, ¬v = 0 ↔ v = 1 := by decide

/-- Settles O39: the four words share one effect, which waits, faults or hands over its accesses (`bufLoad_does`,
`bufStore_does`). -/
theorem vectorBufferAccess : Obligations.VectorBufferAccess := by
  unfold Obligations.VectorBufferAccess
  simp only [List.forall_mem_cons, List.not_mem_nil, false_implies, implies_true, and_true, decide_eq_true_eq,
    decide_eq_false_iff_not]
  refine ⟨fun tk u v x d i z w => ⟨fun σ σ1 y => ?_, fun σ σ1 y => ?_⟩,
    fun tk u v x d i z w => ⟨fun σ σ1 y h hb => ?_, fun σ σ1 y h hb => ?_⟩,
    rowAddrOk_iff, Core.gathOk_iff, fun _ _ _ _ => rfl, Core.mem_topLanes⟩
  · exact bufLoad_does (exec_vldr_bufAccess tk u x d w)
  · exact bufLoad_does (exec_vgath_bufAccess tk z v x d i w)
  · obtain ⟨hok, hbad, hW⟩ := bufStore_does (exec_vstr_bufAccess tk u x d w) h hb
    exact ⟨hok, hbad, fun hd => hW (not_not.1 hd)⟩
  · have hv : ¬v = 0 ↔ v = 1 := bit_ne_zero_iff v
    obtain ⟨hok, hbad, hW⟩ := bufStore_does (exec_vscat_bufAccess tk z v x d i w) h hb
    exact ⟨fun hd => hok (by rwa [← hv, not_not]), fun hd => hbad (by rwa [← hv, not_not]), fun hd => hW (hv.1 hd)⟩

end Sys2Proof.Machine
end

section
/-! Commands of L at issue (R177, R180 to R189): what is handed over, and what the checks of Table 8.6 let pass. -/

namespace Sys2Proof.Machine

open Sys2Proof

/-! ### The hand-over -/

theorem State.note_setCore (s : State) (e : Ev) (v : Nat) (c : Core) : (s.setCore v c).note e = (s.note e).setCore v c := by
  rw [State.note, State.note, State.setCore_past]
  split <;> rfl

/-- There is room for a command: fewer than 32 are in flight and, for a gather or scatter, fewer than 8 of these (R183, R304). -/
theorem lRoom {c : Core} {l : LCmd} (hroom : c.lcmds.length < 32)
    (hgath : l.isGath = true → (c.lcmds.filter LCmd.isGath).length < 8) :
    ¬(32 ≤ c.lcmds.length ∨ (l.isGath = true ∧ 8 ≤ (c.lcmds.filter LCmd.isGath).length)) := by
  rintro (hl | ⟨hg, hl⟩)
  · omega
  · exact absurd (hgath hg) (by omega)

section Issue

variable {σ σ1 : State} {i : Instr} {tk : Tok} {x : BitVec 32} {f : LForm} (h : Issues σ .L i tk σ1 x)

include h

/-- A command word whose checks pass adds its command, and has finished. -/
theorem issueL_accepts (ha : σ1.acceptsL (f.command i σ1.cur tk x) = true) :
    issueL σ i tk f = .next ((σ1.note (σ1.lForkEv σ1.turn.core (f.command i σ1.cur tk x))).moved
      ((σ1.withCmd (f.command i σ1.cur tk x)).finished σ.now .L 2 tk.push 0)) := by
  simp only [State.acceptsL, Bool.and_eq_true, decide_eq_true_eq, Bool.or_eq_true, Bool.not_eq_true',
    Option.isNone_iff_eq_none] at ha
  obtain ⟨⟨hroom, hgath⟩, hcheck⟩ := ha
  refine issue_go_note h (State.note_turn ..) ?_
  unfold LForm.command at hgath hcheck
  dsimp only
  rw [if_neg (lRoom hroom fun hg => hgath.resolve_left (ne_of_eq_of_ne hg nofun)), hcheck, State.note_turn, ← State.note_setCore]
  rfl

/-- A command word that fails a check stops where it would issue. -/
theorem issueL_refused {k : Cause} {a : Nat} (hc : (f.command i σ1.cur tk x).check σ1 σ.turn.core = some (k, a))
    (hroom : σ1.cur.lcmds.length < 32)
    (hgath : (f.command i σ1.cur tk x).isGath = true → (σ1.cur.lcmds.filter LCmd.isGath).length < 8) :
    issueL σ i tk f = .next (σ.park σ.turn.core (σ.cur.recOf .L k a)) := by
  refine issue_fault h ?_
  unfold LForm.command at hc hgath
  rw [← h.turn] at hc
  dsimp only
  rw [if_neg (lRoom hroom hgath), hc]

end Issue

/-! ### What the checks let pass (Table 8.6) -/

section Checks

variable {m : LCmd} {s : State} {v : Nat}

theorem rowsFit_G {w : BitVec 64} {rows : List (Nat × Nat)} : rowsFit true w rows = true ↔ ∀ r ∈ rows, r.1 + r.2 ≤ 2 ^ 56 := by
  simp [rowsFit]

theorem rowsFit_buf {w : BitVec 64} {rows : List (Nat × Nat)} :
    rowsFit false w rows = true ↔ ∀ r ∈ rows, r.1 + r.2 ≤ (bufOf w).size := by
  simp [rowsFit]

theorem LCmd.check_illegal (hop : m.op = .cvcp) (hr : m.rnd = 5) (hf : m.dfmt = 0) : m.check s v = some (.illegal, 0) :=
  if_pos ⟨hop, hr, hf⟩

theorem LCmd.check_addressing (hi : ¬(m.op = .cvcp ∧ m.rnd = 5 ∧ m.dfmt = 0)) (ha : m.addressingOk (s.core v) v = false) :
    m.check s v = some (.addressing, 0) := by
  simp only [LCmd.check, if_neg hi, ha, Bool.not_false, if_true]

theorem LCmd.check_accessList (hi : ¬(m.op = .cvcp ∧ m.rnd = 5 ∧ m.dfmt = 0)) (ha : m.addressingOk (s.core v) v = true)
    (hl : m.accessOk (s.core v) v = false) : m.check s v = some (.accessList, 0) := by
  simp only [LCmd.check, if_neg hi, ha, hl, Bool.not_true, Bool.not_false, Bool.false_eq_true, if_true, if_false]

/-- A command passes when each of the checks does. -/
theorem LCmd.check_none (h : m.check s v = none) :
    m.addressingOk (s.core v) v = true ∧ m.accessOk (s.core v) v = true ∧ m.outlivedAt s (s.partOf v) = none := by
  unfold LCmd.check at h
  dsimp only at h
  split at h
  · cases h
  · split at h
    · cases h
    · next ha =>
      split at h
      · cases h
      · next hl => exact ⟨by simpa using ha, by simpa using hl, Option.map_eq_none_iff.1 h⟩

/-- Neither end of a row that a command names in G: lies in an arena that is not live. -/
theorem LCmd.outlivedAt_none {p : Nat} (h : m.outlivedAt s p = none) :
    (m.op.srcNeed.isG m.src = true → ∀ r ∈ m.srcRows, s.outlived p r.1 = false ∧ s.outlived p (r.1 + r.2 - 1) = false) ∧
    (m.op.dstNeed.isG m.dst = true → ∀ r ∈ m.dstRows, s.outlived p r.1 = false ∧ s.outlived p (r.1 + r.2 - 1) = false) := by
  rw [LCmd.outlivedAt, List.find?_eq_none] at h
  have ends {rows : List (Nat × Nat)} (hr : ∀ a ∈ rows.flatMap (fun r => [r.1, r.1 + r.2 - 1]), ¬s.outlived p a = true) :
      ∀ r ∈ rows, s.outlived p r.1 = false ∧ s.outlived p (r.1 + r.2 - 1) = false := fun r hm =>
    ⟨Bool.eq_false_iff.2 (hr _ (List.mem_flatMap.2 ⟨r, hm, by simp⟩)),
      Bool.eq_false_iff.2 (hr _ (List.mem_flatMap.2 ⟨r, hm, by simp⟩))⟩
  exact ⟨fun hg => ends fun a ha => h a (List.mem_append.2 (.inl (by rwa [if_pos hg]))),
    fun hg => ends fun a ha => h a (List.mem_append.2 (.inr (by rwa [if_pos hg])))⟩

theorem LCmd.passes (h : m.check s v = none) :
    m.op.dstNeed.ok m.dst = true ∧ m.op.srcNeed.ok m.src = true ∧ m.shapeOk = true ∧ m.alignOk = true ∧
    m.overlaps (s.core v) v = false ∧
    (m.op.srcNeed.isBuf m.src = true → (bufOf m.src = .W ∨ bufOf m.src = .S) ∧
      ∀ r ∈ m.srcRows, r.1 + r.2 ≤ (bufOf m.src).size) ∧
    (m.op.dstNeed.isBuf m.dst = true → bufOf m.dst ≠ .X ∧ ∀ r ∈ m.dstRows, r.1 + r.2 ≤ (bufOf m.dst).size) ∧
    (m.op.srcNeed.isG m.src = true → ∀ r ∈ m.srcRows, r.1 + r.2 ≤ 2 ^ 56) ∧
    (m.op.dstNeed.isG m.dst = true → ∀ r ∈ m.dstRows, r.1 + r.2 ≤ 2 ^ 56) ∧
    (m.op.dstNeed = .sg → ∀ r ∈ m.dstRows, r.1 + r.2 ≤ 0x40000) ∧ (∀ t ∈ m.targets (s.core v) v, t ≠ none) ∧
    (m.op.srcNeed.isG m.src = true → ∀ r ∈ m.srcRows, s.outlived (s.partOf v) r.1 = false ∧
      s.outlived (s.partOf v) (r.1 + r.2 - 1) = false) ∧
    (m.op.dstNeed.isG m.dst = true → ∀ r ∈ m.dstRows, s.outlived (s.partOf v) r.1 = false ∧
      s.outlived (s.partOf v) (r.1 + r.2 - 1) = false) := by
  obtain ⟨ha, hl, ho⟩ := LCmd.check_none h
  simp only [LCmd.addressingOk, Bool.and_eq_true, Bool.or_eq_true, Bool.not_eq_true', bne_iff_ne, ne_eq, rowsFit_G, rowsFit_buf,
    List.all_eq_true, decide_eq_true_eq] at ha
  simp only [LCmd.accessOk, Bool.and_eq_true, Bool.or_eq_true, Bool.not_eq_true', beq_iff_eq, bne_iff_ne, ne_eq,
    List.all_eq_true, Option.isSome_iff_ne_none] at hl
  obtain ⟨⟨⟨⟨⟨⟨⟨⟨⟨⟨⟨hd, hs⟩, hshape⟩, -⟩, -⟩, halign⟩, hsg⟩, hsb⟩, hdg⟩, hdb⟩, hsgr⟩, hov⟩ := ha
  obtain ⟨⟨hlsrc, hldst⟩, htargets⟩ := hl
  obtain ⟨hos, hod⟩ := LCmd.outlivedAt_none ho
  refine ⟨hd, hs, hshape, halign, hov, fun hb => ⟨?_, hsb.resolve_left (by simp [hb])⟩,
    fun hb => ⟨hldst.resolve_left (by simp [hb]), hdb.resolve_left (by simp [hb])⟩,
    fun hg => hsg.resolve_left (by simp [hg]), fun hg => hdg.resolve_left (by simp [hg]),
    fun hg => hsgr.resolve_left (by simp [hg]), htargets, hos, hod⟩
  rcases hlsrc with (hn | hW) | hS
  · simp [hb] at hn
  · exact .inl hW
  · exact .inr hS

end Checks

/-- Settles O28: every command word is issued by `issueL`, which hands its command over or stops it; and the checks of Table 8.6
are taken in their order. -/
theorem loadCommandsAreHandedOver : Obligations.LoadCommandsAreHandedOver := by
  unfold Obligations.LoadCommandsAreHandedOver
  have word {f : LForm} {i : Instr} {tk : Tok} (hi : ∀ σ, exec i σ = issueL σ i tk f) (σ σ1 : State) (x : BitVec 32)
      (m : LCmd) (h : Issues σ .L i tk σ1 x) (hm : m = f.command i σ1.cur tk x) :
      (σ1.acceptsL m = true → exec i σ = .next ((σ1.note (σ1.lForkEv σ1.turn.core m)).moved
        ((σ1.withCmd m).finished σ.now .L 2 tk.push 0))) ∧
      (∀ k a, m.check σ1 σ.turn.core = some (k, a) → σ1.cur.lcmds.length < 32 →
        (m.isGath = true → (σ1.cur.lcmds.filter LCmd.isGath).length < 8) →
        exec i σ = .next (σ.park σ.turn.core (σ.cur.recOf .L k a))) := by
    subst hm
    rw [hi]
    exact ⟨issueL_accepts h, fun k a => issueL_refused h⟩
  refine ⟨fun tk g c s l r n u => ?_, fun f i c tk x => ?_, fun _ _ => rfl, fun m s v => LCmd.passes,
    fun m s v => ⟨LCmd.check_illegal, LCmd.check_addressing, LCmd.check_accessList⟩⟩
  · simp only [List.forall_mem_cons, List.not_mem_nil, false_implies, implies_true, and_true]
    exact ⟨word fun _ => rfl, word fun _ => rfl, word fun _ => rfl, word fun _ => rfl, word fun _ => rfl, word fun _ => rfl,
      word fun _ => rfl, word fun _ => rfl, word fun _ => rfl, word fun _ => rfl, word fun _ => rfl, word fun _ => rfl,
      word fun _ => rfl, word fun _ => rfl, word fun _ => rfl⟩
  · exact ⟨rfl, rfl, rfl, rfl, fun h => if_pos h, rfl, rfl, rfl, rfl, rfl⟩

end Sys2Proof.Machine
end

section
/-! The L2 keeps dirty bytes in dirty tiles: `dirtyOk` through every operation on the L2 (O49). -/

namespace Sys2Proof.Machine

open Sys2Proof

/-! ### Lists of resident tiles -/

/-- The first entry of a tile in a list of tiles is dirty. -/
def DirtyIn (l : List L2Tile) (k : Nat) : Prop := ∃ t, l.find? (fun t => t.tile == k) = some t ∧ t.dirty = true

theorem DirtyIn.append {l : List L2Tile} {k : Nat} (h : DirtyIn l k) (r : List L2Tile) : DirtyIn (l ++ r) k := by
  obtain ⟨t, ht, hd⟩ := h
  exact ⟨t, by simp [List.find?_append, ht], hd⟩

/-- Tiles that are removed from the list leave the entry of every other tile. -/
theorem DirtyIn.filter {l : List L2Tile} {k : Nat} (h : DirtyIn l k) (p : L2Tile → Bool) (hp : ∀ t, t.tile = k → p t = true) :
    DirtyIn (l.filter p) k := by
  obtain ⟨t, ht, hd⟩ := h
  refine ⟨t, ?_, hd⟩
  rw [List.find?_filter, ← ht]
  congr 1
  funext u
  by_cases hu : u.tile = k
  · simp [hu, hp u hu]
  · simp [hu]

theorem find?_updateTile (l : List L2Tile) (j k : Nat) (f : L2Tile → L2Tile) (hf : ∀ t, (f t).tile = t.tile) :
    (l.map (fun t => if t.tile = j then f t else t)).find? (fun t => t.tile == k) =
      (l.find? (fun t => t.tile == k)).map (fun t => if t.tile = j then f t else t) := by
  rw [List.find?_map]
  congr 2
  funext t
  by_cases ht : t.tile = j <;> simp [ht, hf]

/-- An update of one tile's entries leaves a dirty tile dirty, where it clears no dirty bit or the tile is another. -/
theorem DirtyIn.update {l : List L2Tile} {j k : Nat} (h : DirtyIn l k) (f : L2Tile → L2Tile) (hf : ∀ t, (f t).tile = t.tile)
    (hd : k = j → ∀ t, t.dirty = true → (f t).dirty = true) :
    DirtyIn (l.map (fun t => if t.tile = j then f t else t)) k := by
  obtain ⟨t, ht, htd⟩ := h
  have hk : t.tile = k := by simpa using List.find?_some ht
  refine ⟨_, by rw [find?_updateTile l j k f hf, ht]; rfl, ?_⟩
  by_cases hj : t.tile = j
  · simpa [hj] using hd (hk.symm.trans hj) t htd
  · simpa [hj] using htd

/-- A resident tile whose entries are made dirty is dirty. -/
theorem DirtyIn.mark {l : List L2Tile} {j : Nat} (h : l.any (fun t => t.tile == j) = true) (f : L2Tile → L2Tile)
    (hf : ∀ t, (f t).tile = t.tile) (hd : ∀ t, (f t).dirty = true) :
    DirtyIn (l.map (fun t => if t.tile = j then f t else t)) j := by
  cases ht : l.find? (fun t => t.tile == j) with
  | none => exact absurd h (by simpa using ht)
  | some t =>
    have hj : t.tile = j := by simpa using List.find?_some ht
    exact ⟨f t, by rw [find?_updateTile l j j f hf, ht, Option.map_some, if_pos hj], hd t⟩

/-- A tile that a list lacks is dirty once a dirty entry of it stands at the end. -/
theorem DirtyIn.fresh {l : List L2Tile} {t : L2Tile} (h : l.any (fun u => u.tile == t.tile) = false) (hd : t.dirty = true) :
    DirtyIn (l ++ [t]) t.tile := by
  refine ⟨t, ?_, hd⟩
  have hn : l.find? (fun u => u.tile == t.tile) = none := by
    rw [List.find?_eq_none]; simpa [List.any_eq_false] using h
  simp [List.find?_append, hn]

/-- A tile whose entries move behind all others keeps its first entry, and so does every other tile. -/
theorem DirtyIn.moveLast {l : List L2Tile} {k : Nat} (h : DirtyIn l k) (j : Nat) :
    DirtyIn (l.filter (fun t => t.tile != j) ++ l.filter (fun t => t.tile == j)) k := by
  by_cases hk : k = j
  · have hn : (l.filter (fun t => t.tile != j)).find? (fun t => t.tile == k) = none := by
      rw [List.find?_eq_none]
      intro u hu
      simpa [hk] using (List.mem_filter.mp hu).2
    obtain ⟨t, ht, hd⟩ := h.filter (fun t => t.tile == j) (fun t ht => by simp [ht, hk])
    exact ⟨t, by rw [List.find?_append, hn, Option.none_or, ht], hd⟩
  · exact (h.filter _ fun t ht => by simpa [ht] using hk).append _

/-! ### The invariant as a statement about tiles and bytes -/

theorem State.dirtyOk_iff (s : State) : s.dirtyOk = true ↔ ∀ e ∈ s.l2b, DirtyIn s.l2 (e.1 / 1024) := by
  rw [State.dirtyOk, List.all_eq_true]
  refine forall_congr' fun e => imp_congr_right fun _ => ?_
  unfold DirtyIn
  cases s.l2.find? (fun t => t.tile == e.1 / 1024) <;> simp

/-- What the invariant is about: the tiles of the L2 and its dirty bytes. -/
def State.l2Part (s : State) : List L2Tile × Tab Byte := (s.l2, s.l2b)

theorem State.dirtyOk_congr {s t : State} (h : t.l2Part = s.l2Part) : t.dirtyOk = s.dirtyOk := by
  obtain ⟨h1, h2⟩ := Prod.mk.inj h
  rw [State.dirtyOk, State.dirtyOk, h1, h2]

/-- The invariant passes to a state whose dirty bytes are old ones of tiles that stay dirty. -/
theorem State.dirtyOk_of_keeps {s t : State} (h : s.dirtyOk = true)
    (ht : ∀ e ∈ t.l2b, DirtyIn t.l2 (e.1 / 1024) ∨ (e ∈ s.l2b ∧ (DirtyIn s.l2 (e.1 / 1024) → DirtyIn t.l2 (e.1 / 1024)))) :
    t.dirtyOk = true := by
  rw [State.dirtyOk_iff] at h ⊢
  intro e he
  rcases ht e he with hd | ⟨hs, hk⟩
  · exact hd
  · exact hk (h e hs)

/-! ### Operations that leave the L2 as it is -/

section
variable {s : State}

@[simp] theorem State.l2Part_setReg (o x) : (s.setReg o x).l2Part = s.l2Part := rfl
@[simp] theorem State.l2Part_orReg (o x) : (s.orReg o x).l2Part = s.l2Part := rfl
@[simp] theorem State.l2Part_note (e) : (s.note e).l2Part = s.l2Part := by unfold State.note; split <;> rfl
@[simp] theorem State.l2Part_noteWrite (e a o) : (s.noteWrite e a o).l2Part = s.l2Part := rfl
@[simp] theorem State.l2Part_settlePast (a n) : (s.settlePast a n).l2Part = s.l2Part := rfl
@[simp] theorem State.l2Part_cache (w x) : (s.cache w x).l2Part = s.l2Part := rfl
@[simp] theorem State.l2Part_sealTile (a b c d) : (s.sealTile a b c d).l2Part = s.l2Part := rfl
@[simp] theorem State.l2Part_sealMem (a b c d) : (s.sealMem a b c d).l2Part = s.l2Part := rfl
@[simp] theorem State.l2Part_sendHost (g p a d) : (s.sendHost g p a d).l2Part = s.l2Part := rfl

@[simp] theorem State.l2Part_startSweep (p b) : (s.startSweep p b).l2Part = s.l2Part := by
  unfold State.startSweep
  dsimp only
  split
  · rfl
  · exact (State.l2Part_setReg _ _).trans ((State.l2Part_setReg _ _).trans ((State.l2Part_setReg _ _).trans rfl))

@[simp] theorem State.l2Part_scrubCheck : s.scrubCheck.l2Part = s.l2Part := by unfold State.scrubCheck; split <;> rfl

@[simp] theorem State.l2Part_wentOut (a b) : (s.wentOut a b).l2Part = s.l2Part := by unfold State.wentOut; split <;> rfl

@[simp] theorem State.l2Part_observe (p k) : (s.observe p k).l2Part = s.l2Part := by
  unfold State.observe
  split
  dsimp only
  split
  · split <;> rfl
  · rfl

/-- Bringing blocks into the cap cache changes the records of blocks, their lines, the registers and what goes out, alone. -/
theorem State.capMake_eq (n : Nat) (bs : List (Nat × Bool)) (s : State) : ∃ blk lines regs out,
    State.capMake n bs s = { s with capBlk := blk, capCache := lines, regs := regs, out := out } := by
  induction n generalizing s bs with
  | zero => exact ⟨_, _, _, _, rfl⟩
  | succ n ih =>
    have next : ∀ (bs : List (Nat × Bool)) (t : State),
        (∃ blk lines regs out, t = { s with capBlk := blk, capCache := lines, regs := regs, out := out }) →
        ∃ blk lines regs out, State.capMake n bs t = { s with capBlk := blk, capCache := lines, regs := regs, out := out } := by
      rintro bs t ⟨_, _, _, _, rfl⟩
      exact ih bs _
    cases bs with
    | nil => exact ⟨_, _, _, _, rfl⟩
    | cons e bs =>
      obtain ⟨b, w⟩ := e
      rw [State.capMake]
      dsimp only
      split
      · refine next _ _ ?_
        split <;> exact ⟨_, _, _, _, rfl⟩
      · split
        · exact next _ _ ⟨_, _, _, _, rfl⟩
        · split
          · exact next _ _ ⟨_, _, _, _, rfl⟩
          · split
            · exact next _ _ ⟨_, _, _, _, rfl⟩
            · split <;> exact next _ _ ⟨_, _, _, _, rfl⟩

@[simp] theorem State.l2Part_capMake (n : Nat) (bs : List (Nat × Bool)) : (State.capMake n bs s).l2Part = s.l2Part := by
  obtain ⟨_, _, _, _, h⟩ := State.capMake_eq n bs s
  rw [h]
  rfl

@[simp] theorem State.l2Part_capFetch (k) : (s.capFetch k).l2Part = s.l2Part := State.l2Part_capMake ..
@[simp] theorem State.l2Part_capWrite (k) : (s.capWrite k).l2Part = s.l2Part := State.l2Part_capMake ..

@[simp] theorem State.l2Part_noteWrites (e o gs) : (State.noteWrites e o gs s).l2Part = s.l2Part := by
  induction gs generalizing s with
  | nil => rfl
  | cons g gs ih => rw [State.noteWrites, ih, State.l2Part_noteWrite]

@[simp] theorem State.l2Part_look (g a n) : (s.look g a n).1.l2Part = s.l2Part := by
  unfold State.look
  split
  · simp [State.seen]
  · rfl

@[simp] theorem State.l2Part_wrote (g k a n) : (s.wrote g k a n).l2Part = s.l2Part := by unfold State.wrote; split <;> simp

/-- A fold of updates that each leave the L2 leaves it. -/
theorem foldl_l2Part {β : Type} {f : State → β → State} (hf : ∀ s b, (f s b).l2Part = s.l2Part) (l : List β) :
    (l.foldl f s).l2Part = s.l2Part := by
  induction l generalizing s with
  | nil => rfl
  | cons b l ih => exact ih.trans (hf s b)

@[simp] theorem State.l2Part_walked (p l) : (s.walked p l).l2Part = s.l2Part :=
  foldl_l2Part (fun s k => by split <;> simp) l

end

/-- A translation that answers leaves the L2, and answers what the tables give. -/
theorem State.xlate_ok {s t : State} {who : Nat × Nat} {p va n : Nat} {k : XKind} {x : Xlat} (h : s.xlate who p va k n = .ok t x) :
    s.translate who.1 p va k n = .ok x ∧ t.l2Part = s.l2Part := by
  unfold State.xlate at h
  dsimp only at h
  split at h
  · rename_i y hy
    obtain ⟨rfl, rfl⟩ := XRes.ok.inj h
    exact ⟨hy, by simp⟩
  · (repeat' split at h) <;> cases h

/-- A host access leaves the L2. -/
theorem State.hostAcc_ok {s t : State} {ag : Agent} {p va n : Nat} {k : AccKind} {bs : List Byte}
    (h : s.hostAcc ag p va n k = .ok t bs) : t.l2Part = s.l2Part := by
  unfold State.hostAcc at h
  dsimp only at h
  split at h
  · cases h
  · split at h
    · cases h
    · split at h
      · cases h
      · split at h
        · obtain ⟨rfl, -⟩ := MRes.ok.inj h; simp
        · obtain ⟨rfl, -⟩ := MRes.ok.inj h
          rw [State.l2Part_sendHost, State.l2Part_wrote]; rfl

/-! ### Operations on tiles -/

section
variable {s : State} (h : s.dirtyOk = true)
include h

theorem State.dirtyOk_eq {t : State} (ht : t.l2Part = s.l2Part) : t.dirtyOk = true := (State.dirtyOk_congr ht).trans h

theorem State.dirtyOk_mapTile (k : Nat) (f : L2Tile → L2Tile) (hf : ∀ t, (f t).tile = t.tile)
    (hd : ∀ t, t.dirty = true → (f t).dirty = true) : (s.mapTile k f).dirtyOk = true :=
  State.dirtyOk_of_keeps h (fun _ he => .inr ⟨he, fun hk => hk.update f hf (fun _ => hd)⟩)

/-- A tile without dirty bytes may become clean. -/
theorem State.dirtyOk_mapTile_clean (k : Nat) (f : L2Tile → L2Tile) (hf : ∀ t, (f t).tile = t.tile)
    (hk : ∀ e ∈ s.l2b, e.1 / 1024 ≠ k) : (s.mapTile k f).dirtyOk = true :=
  State.dirtyOk_of_keeps h (fun e he => .inr ⟨he, fun hd => hd.update f hf (fun heq => absurd heq (hk e he))⟩)

theorem State.dirtyOk_mergeTile (k : Nat) : (s.mergeTile k).dirtyOk = true :=
  State.dirtyOk_of_keeps h (fun _ he => .inr ⟨List.mem_of_mem_filter he, fun hd => hd⟩)

theorem State.dirtyOk_dropTile (k : Nat) : (s.dropTile k).dirtyOk = true := by
  refine State.dirtyOk_of_keeps h (fun e he => .inr ⟨List.mem_of_mem_filter he, fun hd => hd.filter _ fun t ht => ?_⟩)
  have hk : (e.1 / 1024 != k) = true := (List.mem_filter.mp he).2
  rwa [ht]

/-- A tile that takes a place of the L2 behind the others. -/
theorem State.dirtyOk_append (r : List L2Tile) : State.dirtyOk { s with l2 := s.l2 ++ r } = true :=
  State.dirtyOk_of_keeps h (fun _ he => .inr ⟨he, fun hd => hd.append r⟩)

theorem State.dirtyOk_touch (k pol : Nat) : (s.touch k pol).dirtyOk = true := by
  unfold State.touch
  split
  · exact State.dirtyOk_of_keeps h (fun _ he => .inr ⟨he, fun hd => hd.moveLast k⟩)
  · exact State.dirtyOk_mapTile h k _ (fun _ => rfl) (fun _ ht => ht)
  · exact h

/-- A write-back: the bytes of the tile leave the overlay before the tile is clean. -/
theorem State.dirtyOk_writeBack (k : Nat) : (s.writeBack k).dirtyOk = true := by
  unfold State.writeBack
  split
  · exact h
  · rename_i t ht
    dsimp only
    split
    · exact h
    · split
      · exact (State.dirtyOk_congr (State.l2Part_startSweep ..)).trans
          (State.dirtyOk_mapTile h k _ (fun _ => rfl) (fun _ hd => hd))
      · have hp : State.l2Part (((s.mergeTile k).sealTile k ((s.mergeTile k).keyOf k) ((s.sealOf k).version + 1) t.part).capWrite k)
            = (s.mergeTile k).l2Part := by simp
        refine State.dirtyOk_mapTile_clean (State.dirtyOk_eq (State.dirtyOk_mergeTile h k) hp) k
          (fun t => { t with dirty := false, pinned := false }) (fun _ => rfl) (fun e he => ?_)
        rw [(Prod.mk.inj hp).2] at he
        simpa using (List.mem_filter.mp he).2

theorem State.dirtyOk_bypassed (k : Nat) : (s.bypassed k).dirtyOk = true := by
  unfold State.bypassed
  dsimp only
  split
  · exact State.dirtyOk_writeBack h k
  · exact State.dirtyOk_dropTile (State.dirtyOk_writeBack h k) k

theorem State.dirtyOk_allocate (p k : Nat) (retain : Bool) : (s.allocate p k retain).dirtyOk = true := by
  unfold State.allocate
  dsimp only
  split
  · exact State.dirtyOk_append h _
  · exact h
  · split
    · exact State.dirtyOk_writeBack h _
    · exact State.dirtyOk_append (State.dirtyOk_dropTile (State.dirtyOk_writeBack h _) _) _

/-- A page sealed afresh leaves the L2 with all its tiles and bytes. -/
theorem State.dirtyOk_resealPage (g : Nat) : (s.resealPage g).dirtyOk = true := by
  unfold State.resealPage
  split
  · exact h
  · dsimp only
    rw [State.dirtyOk_congr (State.l2Part_scrubCheck.trans ((State.l2Part_capWrite _).trans
      (foldl_l2Part (fun s i => State.l2Part_sealMem ..) _)))]
    refine State.dirtyOk_of_keeps h (fun e he => .inr ⟨List.mem_of_mem_filter he, fun hd => hd.filter _ fun t ht => ?_⟩)
    have hg : (e.1 / 2 ^ 16 != g) = true := (List.mem_filter.mp he).2
    rwa [ht, Nat.div_div_eq_div_mul]

theorem State.dirtyOk_settle (k : Nat) : (s.settle k).dirtyOk = true := by
  unfold State.settle
  split
  · exact State.dirtyOk_resealPage h _
  · exact h

theorem State.dirtyOk_leave (k pol : Nat) (by_ : Option (Nat × Nat)) : (s.leave k pol by_).dirtyOk = true := by
  unfold State.leave
  split
  · exact State.dirtyOk_eq (State.dirtyOk_bypassed h k) (State.l2Part_wentOut ..)
  · exact h

theorem State.dirtyOk_reach {t : State} {p k pol : Nat} {whole sure : Bool} {bs : List Byte}
    (hr : s.reach p k pol whole sure = .ok t bs) : t.dirtyOk = true := by
  have hs : ((s.settle k).observe p k).dirtyOk = true := State.dirtyOk_eq (State.dirtyOk_settle h k) (State.l2Part_observe ..)
  unfold State.reach at hr
  dsimp only at hr
  generalize (s.settle k).observe p k = s1 at hr hs
  generalize (if sure then s1.keyed k else s1.verifies k) = fit at hr
  have hf : State.dirtyOk (if whole then s1 else s1.capFetch k) = true := by
    split
    · exact hs
    · exact State.dirtyOk_eq hs (State.l2Part_capFetch k)
  split at hr
  · obtain ⟨rfl, -⟩ := MRes.ok.inj hr; exact State.dirtyOk_touch hs ..
  · split at hr
    · cases hr
    · split at hr
      · obtain ⟨rfl, -⟩ := MRes.ok.inj hr; exact State.dirtyOk_allocate hf ..
      · obtain ⟨rfl, -⟩ := MRes.ok.inj hr; exact hf

end

/-! ### Bytes that are merged -/

theorem mem_addressed {bs : List Byte} {a : Nat} {e : Nat × Byte} (h : e ∈ addressed a bs) : a ≤ e.1 ∧ e.1 < a + bs.length := by
  induction bs generalizing a with
  | nil => cases h
  | cons b bs ih =>
    rcases List.mem_cons.mp h with rfl | h
    · exact ⟨Nat.le_refl _, by simp⟩
    · have := ih h
      simp only [List.length_cons]
      omega

theorem mem_putDirty {m : Tab Byte} {l : List (Nat × Byte)} {e : Nat × Byte} (h : e ∈ putDirty m l) : e ∈ l ∨ e ∈ m := by
  induction l generalizing m with
  | nil => exact .inr h
  | cons x l ih =>
    rcases ih h with hl | hm
    · exact .inl (List.mem_cons_of_mem _ hl)
    · rcases Tab.mem_put hm with rfl | hm
      · exact .inl List.mem_cons_self
      · exact .inr hm

/-- The bytes that a merge within one tile leaves in the overlay are old ones, or lie in the tile. -/
theorem mem_putDirty_addressed {m : Tab Byte} {pa : Nat} {bs : List Byte} (hn : pa % 1024 + bs.length ≤ 1024) {e : Nat × Byte}
    (h : e ∈ putDirty m (addressed pa bs)) : e.1 / 1024 = pa / 1024 ∨ e ∈ m := by
  rcases mem_putDirty h with hl | hm
  · have := mem_addressed hl
    exact .inl (by omega)
  · exact .inr hm

section
variable {s : State} (h : s.dirtyOk = true)
include h

theorem State.dirtyOk_devMerge (p pa : Nat) (bs : List Byte) (by_ : Option (Nat × Nat)) (hn : pa % 1024 + bs.length ≤ 1024) :
    (s.devMerge p pa bs by_).dirtyOk = true := by
  unfold State.devMerge
  dsimp only
  split
  · rename_i hr
    rw [State.dirtyOk_congr (State.l2Part_settlePast ..)]
    refine State.dirtyOk_of_keeps h (fun e he => ?_)
    rcases mem_putDirty_addressed hn he with hk | hm
    · rw [hk]; exact .inl (DirtyIn.mark hr _ (fun _ => rfl) (fun _ => rfl))
    · exact .inr ⟨hm, fun hd => hd.update _ (fun _ => rfl) (fun _ _ _ => rfl)⟩
  · rename_i hr
    split
    · exact State.dirtyOk_eq h (by simp; rfl)
    · split
      · rw [State.dirtyOk_congr ((State.l2Part_settlePast ..).trans (State.l2Part_startSweep ..))]
        refine State.dirtyOk_of_keeps h (fun e he => ?_)
        rcases mem_putDirty_addressed hn he with hk | hm
        · rw [hk]; exact .inl (DirtyIn.fresh (by simpa [State.resident] using hr) rfl)
        · exact .inr ⟨hm, fun hd => hd.append _⟩
      · exact State.dirtyOk_eq h ((State.l2Part_wentOut ..).trans ((State.l2Part_capWrite _).trans rfl))

theorem State.dirtyOk_put (ag : Agent) (k : AccKind) (p pa : Nat) (d : List Byte) (hn : pa % 1024 + d.length ≤ 1024) :
    (s.put ag k p pa d).dirtyOk = true := by
  unfold State.put
  split
  · exact State.dirtyOk_eq (State.dirtyOk_devMerge h p pa d ag.cmd hn) (State.l2Part_noteWrites ..)
  · exact State.dirtyOk_devMerge h p pa d ag.cmd hn

theorem State.dirtyOk_devAcc (ag : Agent) (p pa n : Nat) (k : AccKind)
    (hk : ∀ old d, k.newBytes n old = some d → pa % 1024 + d.length ≤ 1024) : (s.devAcc ag p pa n k).1.dirtyOk = true := by
  unfold State.devAcc
  split
  · exact State.dirtyOk_eq h (State.l2Part_look ..)
  · exact State.dirtyOk_put h ag k p pa _ (hk _ _ ‹_›)

theorem State.dirtyOk_gAcc {t : State} {ag : Agent} {p va n pol : Nat} {k : AccKind} {whole : Bool} {bs : List Byte}
    (hx : ∀ x, s.translate ag.who.1 p va k.xkind n = .ok x → x.host = false → x.pa % 1024 + n ≤ 1024)
    (hk : ∀ old d, k.newBytes n old = some d → d.length ≤ n) (hr : s.gAcc ag p va n pol k whole = .ok t bs) :
    t.dirtyOk = true := by
  unfold State.gAcc at hr
  split at hr
  · cases hr
  · split at hr
    · cases hr
    · cases hr
    · rename_i s1 x hxl
      obtain ⟨hx1, hp⟩ := State.xlate_ok hxl
      have h1 : s1.dirtyOk = true := State.dirtyOk_eq h hp
      split at hr
      · split at hr
        · cases hr
        · exact State.dirtyOk_eq h1 (State.hostAcc_ok hr)
      · rename_i hh
        split at hr
        · cases hr
        · split at hr
          · cases hr
          · dsimp only at hr
            split at hr
            · cases hr
            · cases hr
            · rename_i s2 _ hrc
              obtain ⟨rfl, -⟩ := MRes.ok.inj hr
              have hb := hx x hx1 (by simpa using hh)
              refine State.dirtyOk_leave (State.dirtyOk_devAcc (State.dirtyOk_reach h1 hrc) _ _ _ _ _ fun old d hd => ?_) ..
              have := hk old d hd
              omega

theorem State.dirtyOk_readAt {t : State} {ag : Agent} {p va n pol : Nat} {pl : Place} {bs : List Byte}
    (hr : s.readAt ag p va n pol pl = .ok t bs) : t.dirtyOk = true := by
  unfold State.readAt at hr
  split at hr
  · cases hr
  · split at hr
    · split at hr
      · cases hr
      · exact State.dirtyOk_eq h (State.hostAcc_ok hr)
    · dsimp only at hr
      split at hr
      · cases hr
      · cases hr
      · rename_i s2 _ hrc
        obtain ⟨rfl, -⟩ := MRes.ok.inj hr
        exact State.dirtyOk_leave (State.dirtyOk_eq (State.dirtyOk_reach h hrc) (State.l2Part_look ..)) ..

theorem State.dirtyOk_writeTo {t : State} {ag : Agent} {p va pol : Nat} {pl : Place} {d bs : List Byte} {whole : Bool}
    (hn : pl.pa % 1024 + d.length ≤ 1024) (hr : s.writeTo ag p va pol pl d whole = .ok t bs) : t.dirtyOk = true := by
  unfold State.writeTo at hr
  split at hr
  · cases hr
  · split at hr
    · exact State.dirtyOk_eq h (State.hostAcc_ok hr)
    · dsimp only at hr
      split at hr
      · cases hr
      · cases hr
      · rename_i s2 _ hrc
        obtain ⟨rfl, -⟩ := MRes.ok.inj hr
        exact State.dirtyOk_leave (State.dirtyOk_put (State.dirtyOk_reach h hrc) _ _ _ _ _ hn) ..

end

/-- Settles O49: an empty overlay has nothing to show at reset, and every operation that makes a tile clean, or removes it,
has taken the tile's bytes out of the overlay first. -/
theorem dirtyBytesLieInDirtyTiles : Obligations.DirtyBytesLieInDirtyTiles := by
  unfold Obligations.DirtyBytesLieInDirtyTiles
  refine ⟨rfl, ?_, ?_, ?_, ?_⟩
  · intro s t ag p va n pol k whole bs h hx hk hr
    exact State.dirtyOk_gAcc h hx hk hr
  · intro s t ag p va n pol pl bs h hr
    exact State.dirtyOk_readAt h hr
  · intro s t ag p va pol pl d bs whole h hn hr
    exact State.dirtyOk_writeTo h hn hr
  · intro s k p retain h
    exact ⟨State.dirtyOk_writeBack h k, State.dirtyOk_bypassed h k, State.dirtyOk_resealPage h k,
      fun _ => State.dirtyOk_allocate h p k retain⟩

end Sys2Proof.Machine
end

section
/-! A pending access performs at its ordering point, and what it returns reaches its destination (O48). -/

namespace Sys2Proof.Machine

open Sys2Proof

/-! ### The side log through the releases of a core -/

theorem Core.incK_slog (now : Now) (k : BitVec 6) (n : Nat) (r : CauseRec) (c : Core) : (c.incK now k n r).slog = c.slog := by
  unfold Core.incK
  extract_lets r' c0 c1 x c2 new old
  split
  · rfl
  · clear_value new old
    split
    · rfl
    · exact (Core.park_keeps_work now new { c2 with kOver := k.toNat :: c2.kOver }).2

theorem Core.make_slog (now : Now) (st : Stream) (h : Held) (c : Core) : (c.make now st h).slog = c.slog := by
  unfold Core.make
  split
  · rfl
  · exact Core.incK_slog ..
  · rfl

theorem Core.flushGo_slog (now : Now) (landed : Bool) (st : Stream) (l : List Held) (c : Core) :
    (Core.flushGo now landed st l c).2.2.slog = c.slog := by
  induction l generalizing c with
  | nil => rfl
  | cons h l ih =>
    rw [Core.flushGo]
    split
    · exact (ih _).trans (Core.make_slog ..)
    · rfl

theorem State.core_flushStr_slog (s : State) (v : Nat) (st : Stream) : ((s.flushStr v st).core v).slog = (s.core v).slog := by
  cases h : ((s.core v).str st).hold with
  | nil => rw [State.flushStr_of_empty h]
  | cons g l =>
    rw [State.core_flushStr g l h]
    exact (Core.setStr_slog _ _ _).trans (Core.flushGo_slog s.now (s.landed v) st (g :: l) (s.core v))

/-- The releases that a core makes leave its side log. -/
theorem State.core_flushAt_slog (s : State) (v : Nat) : ((s.flushAt v).core v).slog = (s.core v).slog := by
  simp only [State.flushAt, State.core_flushStr_slog]

theorem Core.goOn_slog (now : Now) (c : Core) : (c.goOn now).slog = c.slog := by
  unfold Core.goOn
  split
  · rw [Core.handlerOn, Core.setStr_slog]
  · rfl

theorem Core.returned_slog (now : Now) (v : Nat) (c : Core) : (c.returned now v).slog = c.slog := by
  unfold Core.returned
  split
  · exact Core.goOn_slog now c
  · rfl

/-! ### Retiring an access -/

section
variable {c : Core}

theorem Core.deposit_acc (f : Flight) : (c.deposit f).acc = c.acc ∧ (c.deposit f).slog = c.slog := by
  unfold Core.deposit
  split
  · exact ⟨Core.setS_acc .., Core.setS_slog ..⟩
  · exact ⟨(Core.setS_acc ..).trans (Core.setS_acc ..), (Core.setS_slog ..).trans (Core.setS_slog ..)⟩
  · exact ⟨Core.setRow_acc .., Core.setRow_slog ..⟩
  · exact ⟨rfl, rfl⟩

/-- The core after one of its accesses has left those pending and the side log. -/
def Core.without (c : Core) (a : Acc) : Core :=
  { c with acc := c.acc.filter (fun b => b.id != a.id), slog := c.slog.filter (fun e => e.acc.id != a.id) }

/-- Whether other accesses of an access's instruction are pending or logged. -/
def Core.awaits (c : Core) (a : Acc) : Bool :=
  (c.without a).acc.any (fun b => b.grp == a.grp) || (c.without a).slog.any (fun e => e.acc.grp == a.grp)

/-- What an instruction has collected once an access of it has returned bytes. -/
def Flight.collect (f : Flight) (a : Acc) (bs : List Byte) : Flight :=
  { f with got := f.got ++ (List.range bs.length).zipWith (fun i b => (a.pos + i, b)) bs }

variable {a : Acc} {bs : List Byte} {f : Flight}

theorem Core.retire_of_none (h : c.fl.find? (fun f => f.grp == a.grp) = none) : c.retire a bs = c.without a := by
  simp only [Core.retire, h]; rfl

/-- The last access of an instruction finishes it. -/
theorem Core.retire_last (h : c.fl.find? (fun f => f.grp == a.grp) = some f)
    (hl : c.awaits a = false) :
    c.retire a bs =
      (({ c.without a with fl := c.fl.filter (fun g => g.grp != a.grp) } : Core).deposit (f.collect a bs)).push f.st
        f.push 0 := by
  simp only [Core.awaits, Bool.or_eq_false_iff] at hl
  obtain ⟨h1, h2⟩ := hl
  simp only [Core.without] at h1 h2
  simp only [Core.retire, h, h1, h2]
  simp [Core.without, Flight.collect]

/-- An earlier access of an instruction only keeps its bytes. -/
theorem Core.retire_earlier (h : c.fl.find? (fun f => f.grp == a.grp) = some f)
    (hl : c.awaits a = true) :
    c.retire a bs = { c.without a with fl := c.fl.map (fun g => if g.grp = a.grp then f.collect a bs else g) } := by
  rw [Core.awaits, Bool.or_eq_true] at hl
  simp only [Core.without] at hl
  simp only [Core.retire, h, hl]
  simp [Core.without, Flight.collect]

theorem Core.retire_acc_slog : (c.retire a bs).acc = (c.without a).acc ∧ (c.retire a bs).slog = (c.without a).slog := by
  cases h : c.fl.find? (fun f => f.grp == a.grp) with
  | none => rw [Core.retire_of_none h]; exact ⟨rfl, rfl⟩
  | some f =>
    cases hl : c.awaits a with
    | false =>
      rw [Core.retire_last h hl, Core.push_acc, Core.push_slog]
      exact Core.deposit_acc _
    | true => rw [Core.retire_earlier h hl]; exact ⟨rfl, rfl⟩

/-- The flight of an earlier access stays, with the bytes. -/
theorem Core.mem_fl_retire_earlier (h : c.fl.find? (fun f => f.grp == a.grp) = some f)
    (hl : c.awaits a = true) :
    f.collect a bs ∈ (c.retire a bs).fl := by
  rw [Core.retire_earlier h hl]
  have hg : f.grp = a.grp := by simpa using List.find?_some h
  exact List.mem_map.2 ⟨f, List.mem_of_find?_eq_some h, if_pos hg⟩

end

/-- An entry that has performed has left the side log. -/
theorem State.core_replayed_slog (s : State) (v : Nat) (a : Acc) :
    ∀ x ∈ ((s.replayed v a).core v).slog, x.acc.id ≠ a.id := by
  unfold State.replayed
  dsimp only
  rw [State.core_setCore, Core.returned_slog]
  dsimp only
  rw [State.retire, State.core_flushAt_slog, State.core_setCore, Core.retire_acc_slog.2]
  intro x hx
  simpa using (List.mem_filter.mp hx).2

/-! ### What a buffer access leaves and returns -/

theorem length_overlay (loc : Nat) (bs : List Byte) (q : Nat) (old : List Byte) : (overlay loc bs q old).length = bs.length := by
  simp [overlay]

theorem overlay_getD (loc : Nat) (bs : List Byte) (q : Nat) (old : List Byte) {i : Nat} (hi : i < bs.length) :
    (overlay loc bs q old).getD i 0 = if q ≤ loc + i then old.getD (loc + i - q) (bs.getD i 0) else bs.getD i 0 := by
  have hl : i < (overlay loc bs q old).length := by rwa [length_overlay]
  rw [List.getD_eq_getElem _ _ hl, List.getD_eq_getElem _ _ hi]
  simp [overlay]

theorem missed_subset (tick no : Nat) (ps : List Past) (acc : List Past) : missed tick no ps acc ⊆ ps ++ acc := by
  induction ps generalizing acc with
  | nil => exact List.Subset.refl _
  | cons p ps ih =>
    intro q hq
    have := ih _ hq
    split at this <;> simp only [List.mem_append, List.mem_cons] at this ⊢ <;> tauto

theorem State.misses_subset (s : State) (r : Ev) : s.misses r ⊆ s.past := by
  unfold State.misses
  dsimp only
  split
  · exact List.nil_subset _
  · intro q hq
    have := missed_subset _ _ _ _ hq
    rw [List.append_nil, List.mem_reverse] at this
    exact List.mem_of_mem_filter this

/-- The byte of place `a` is that of a write's past, which covers the place. -/
def Past.Shows (q : Past) (a : Nat) (b : Byte) : Prop :=
  q.loc ≤ a ∧ a < q.loc + q.old.length ∧ b = q.old.getD (a - q.loc) 0

theorem length_overlays (loc : Nat) (ms : List Past) (bs : List Byte) :
    (ms.foldl (fun bs p => overlay loc bs p.loc p.old) bs).length = bs.length := by
  induction ms generalizing bs with
  | nil => rfl
  | cons p ms ih => rw [List.foldl_cons, ih, length_overlay]

/-- Each byte of a read is the one that stands there, or one that an overlaid write found. -/
theorem overlays_getD (loc : Nat) (ms : List Past) (bs : List Byte) {i : Nat} (hi : i < bs.length) :
    (ms.foldl (fun bs p => overlay loc bs p.loc p.old) bs).getD i 0 = bs.getD i 0 ∨
    ∃ q ∈ ms, q.Shows (loc + i) ((ms.foldl (fun bs p => overlay loc bs p.loc p.old) bs).getD i 0) := by
  induction ms generalizing bs with
  | nil => exact .inl rfl
  | cons p ms ih =>
    rw [List.foldl_cons]
    rcases ih (overlay loc bs p.loc p.old) (by rwa [length_overlay]) with he | ⟨q, hq, hs⟩
    · rw [he, overlay_getD loc bs p.loc p.old hi]
      by_cases hin : p.loc ≤ loc + i ∧ loc + i < p.loc + p.old.length
      · refine .inr ⟨p, List.mem_cons_self, hin.1, hin.2, ?_⟩
        rw [if_pos hin.1, List.getD_eq_getElem _ _ (by omega), List.getD_eq_getElem _ _ (by omega)]
      · refine .inl ?_
        split
        · exact List.getD_eq_default _ _ (by omega)
        · rfl
    · exact .inr ⟨q, List.mem_cons_of_mem _ hq, hs⟩

/-- What an agent reads at a place: as many bytes, each the one that stands there or one of a write that it may miss. -/
theorem State.look_reads (s : State) (ag : Agent) (loc : Nat) (now : List Byte) :
    (s.look ag loc now).2.length = now.length ∧
    ∀ i, i < now.length → (s.look ag loc now).2.getD i 0 = now.getD i 0 ∨
      ∃ q ∈ s.past, q.Shows (loc + i) ((s.look ag loc now).2.getD i 0) := by
  unfold State.look
  split
  · refine ⟨length_overlays .., fun i hi => (overlays_getD loc _ now hi).imp_right ?_⟩
    rintro ⟨q, hq, hs⟩
    exact ⟨q, State.misses_subset _ _ hq, hs⟩
  · exact ⟨rfl, fun _ _ => .inl rfl⟩

/-- While every write is seen by all, and for one that is no party of the record, a read is what stands there. -/
theorem State.look_plain {s : State} {ag : Agent} (h : ag.ev = none ∨ s.past = []) (loc : Nat) (now : List Byte) :
    s.look ag loc now = (s, now) := by
  unfold State.look
  split
  · rename_i ev he
    have hp : s.past = [] := h.resolve_left (by simp [he])
    have hm : ∀ r, s.misses r = [] := fun r => List.subset_nil.1 (hp ▸ s.misses_subset r)
    simp [State.seen, hm, State.note, hp]
  · rfl

section
variable {s : State}

theorem Core.length_bytes (c : Core) (b : Buf) (off n : Nat) : (c.bytes b off n).length = n := by simp [Core.bytes]

/-- What an access to a buffer leaves of the rest of the machine: the memories, the registers and every core. -/
def State.BufFrame (s t : State) : Prop :=
  t.cores = s.cores ∧ t.mem = s.mem ∧ t.l2b = s.l2b ∧ t.hostMem = s.hostMem ∧ t.regs = s.regs

theorem State.BufFrame.refl (s : State) : s.BufFrame s := ⟨rfl, rfl, rfl, rfl, rfl⟩

theorem State.BufFrame.trans {s t u : State} (h : s.BufFrame t) (h' : t.BufFrame u) : s.BufFrame u := by
  obtain ⟨a1, a2, a3, a4, a5⟩ := h
  obtain ⟨b1, b2, b3, b4, b5⟩ := h'
  exact ⟨b1.trans a1, b2.trans a2, b3.trans a3, b4.trans a4, b5.trans a5⟩

theorem State.BufFrame.note (s : State) (e : Ev) : s.BufFrame (s.note e) := by
  unfold State.note
  split <;> exact ⟨rfl, rfl, rfl, rfl, rfl⟩

theorem State.BufFrame.look (s : State) (ag : Agent) (loc : Nat) (now : List Byte) : s.BufFrame (s.look ag loc now).1 := by
  unfold State.look
  split
  · exact .note ..
  · exact .refl s

theorem State.BufFrame.wrote (s : State) (ag : Agent) (k : AccKind) (loc : Nat) (old : List Byte) :
    s.BufFrame (s.wrote ag k loc old) := by
  unfold State.wrote
  split <;> exact ⟨rfl, rfl, rfl, rfl, rfl⟩

theorem State.BufFrame.noteMet (s : State) (v : Nat) (c : Core) : s.BufFrame (s.noteMet v c) := by
  unfold State.noteMet
  dsimp only
  generalize (_ ++ _ : List WaitW) = l
  induction l generalizing s with
  | nil => exact .refl s
  | cons w l ih => exact .trans (.note ..) (ih _)

theorem State.BufFrame.core {t : State} (h : s.BufFrame t) (v : Nat) : t.core v = s.core v := by
  simp only [State.core, h.1]

theorem State.bufAcc_load (ag : Agent) (v : Nat) (b : Buf) (off n : Nat) :
    s.bufAcc ag v b off n .load =
      if b = .X then (s, (s.core v).bytes b off n) else s.look ag (bufLoc v b off) ((s.core v).bytes b off n) := rfl

variable {t : State} {ag : Agent} {v off n : Nat} {b : Buf} {bs : List Byte}

/-- A load of a buffer leaves the core, and returns the bytes that stand there but for those of writes that it may miss. -/
theorem State.bufAcc_load_reads (h : s.bufAcc ag v b off n .load = (t, bs)) :
    s.BufFrame t ∧ (b = .X ∨ ag.ev = none ∨ s.past = [] → bs = (s.core v).bytes b off n ∧ t = s) ∧
    bs.length = n ∧ ∀ i, i < n → bs.getD i 0 = ((s.core v).bytes b off n).getD i 0 ∨
      ∃ q ∈ s.past, q.Shows (bufLoc v b off + i) (bs.getD i 0) := by
  have hl := Core.length_bytes (s.core v) b off n
  rw [State.bufAcc_load] at h
  by_cases hX : b = .X
  · rw [if_pos hX] at h
    obtain ⟨rfl, rfl⟩ := Prod.mk.inj h
    exact ⟨.refl s, fun _ => ⟨rfl, rfl⟩, hl, fun _ _ => .inl rfl⟩
  · rw [if_neg hX] at h
    have hf := State.BufFrame.look s ag (bufLoc v b off) ((s.core v).bytes b off n)
    have hr := State.look_reads s ag (bufLoc v b off) ((s.core v).bytes b off n)
    rw [h] at hf hr
    rw [hl] at hr
    refine ⟨hf, fun hp => ?_, hr⟩
    rw [State.look_plain (hp.resolve_left hX)] at h
    exact ⟨(Prod.mk.inj h).2.symm, (Prod.mk.inj h).1.symm⟩

/-- An access that writes a buffer: the bytes stand in the core, and it returns what its kind returns of the old ones. -/
theorem State.bufAcc_write {k : AccKind} {d : List Byte} (hd : k.newBytes n ((s.core v).bytes b off n) = some d)
    (h : s.bufAcc ag v b off n k = (t, bs)) :
    State.BufFrame (s.setCore v ((s.core v).writeBuf b off d)) t ∧ bs = k.returns ((s.core v).bytes b off n) := by
  unfold State.bufAcc at h
  simp only [hd] at h
  obtain ⟨rfl, rfl⟩ := Prod.mk.inj h
  refine ⟨?_, rfl⟩
  split
  · exact .refl _
  · exact .trans (.wrote ..) (.noteMet ..)

end

theorem AccKind.newBytes_eq_none {k : AccKind} {n : Nat} {old : List Byte} (h : k.newBytes n old = none) : k = .load := by
  cases k with
  | load => rfl
  | store d => cases h
  | amo op m v w => cases h
  | redf bf r d v => cases h

/-! ### Bytes that an instruction has collected -/

theorem find?_addressed (bs : List Byte) (a i : Nat) :
    (addressed a bs).find? (fun e => e.1 == a + i) = (bs[i]?).map (fun b => (a + i, b)) := by
  induction bs generalizing a i with
  | nil => rfl
  | cons b bs ih =>
    cases i with
    | zero => simp [addressed]
    | succ i =>
      have := ih (a + 1) i
      rw [Nat.add_assoc, Nat.add_comm 1 i] at this
      simp [addressed, this]

theorem gotNat_addressed {bs : List Byte} {p n : Nat} (h : p + n ≤ bs.length) :
    gotNat (addressed 0 bs) p n = leNat ((bs.drop p).take n) := by
  unfold gotNat
  congr 1
  refine List.ext_getElem (by simp; omega) fun i h1 h2 => ?_
  have hi : i < n := by simpa using h1
  have hf := find?_addressed bs 0 (p + i)
  rw [Nat.zero_add, List.getElem?_eq_getElem (by omega)] at hf
  simp [hf]

theorem ofNat5_ne {a b : Nat} (ha : a < 32) (hb : b < 32) (h : a ≠ b) : BitVec.ofNat 5 a ≠ BitVec.ofNat 5 b := by
  intro he
  have := congrArg BitVec.toNat he
  simp only [BitVec.toNat_ofNat] at this
  omega

theorem ofNat5_ne_zero {a : Nat} (ha : a < 32) (h : a ≠ 0) : BitVec.ofNat 5 a ≠ 0 := ofNat5_ne ha (by decide) h

section
variable {c : Core} {f : Flight} {bs : List Byte} {d : Nat}

/-- An s register takes the bytes returned, extended. -/
theorem Core.deposit_sreg {n : Nat} {signed : Bool} (hg : f.got = addressed 0 bs) (h0 : d ≠ 0) (hd : d < 32)
    (hf : f.dest = .sreg d n signed) (hn : bs.length = n) :
    (c.deposit f).getS (BitVec.ofNat 5 d) =
      if signed then BitVec.ofInt 64 (sgn (8 * n) (leNat bs)) else BitVec.ofNat 64 (leNat bs) := by
  have hx : gotNat f.got 0 n = leNat bs := by
    rw [hg, gotNat_addressed (by omega), List.drop_zero, ← hn, List.take_length]
  simp only [Core.deposit, hf, hx]
  exact Core.getS_setS _ _ _ (ofNat5_ne_zero hd h0)

/-- A pair of s registers takes eight bytes each. -/
theorem Core.deposit_spair (hg : f.got = addressed 0 bs) (h0 : d ≠ 0) (hf : f.dest = .spair d) (hd : d < 31)
    (hn : bs.length = 16) :
    (c.deposit f).getS (BitVec.ofNat 5 d) = BitVec.ofNat 64 (leNat (bs.take 8)) ∧
    (c.deposit f).getS (BitVec.ofNat 5 (d + 1)) = BitVec.ofNat 64 (leNat (bs.drop 8)) := by
  have hlo : gotNat f.got 0 8 = leNat (bs.take 8) := by rw [hg, gotNat_addressed (by omega), List.drop_zero]
  have hhi : gotNat f.got 8 8 = leNat (bs.drop 8) := by
    rw [hg, gotNat_addressed (by omega), List.take_of_length_le (by simp [hn])]
  simp only [Core.deposit, hf, hlo, hhi]
  refine ⟨?_, Core.getS_setS _ _ _ (ofNat5_ne_zero (by omega) (Nat.succ_ne_zero d))⟩
  rw [Core.getS_setS_ne _ _ _ _ (ofNat5_ne (by omega) (by omega) (by omega))]
  exact Core.getS_setS _ _ _ (ofNat5_ne_zero (by omega) h0)

theorem rowByte_eq_rowElem (r : Row) (i : Nat) : rowByte r i = BitVec.ofNat 8 (rowElem r 8 i) := by
  refine BitVec.eq_of_toNat_eq ?_
  simp [rowByte, rowElem]

/-- A row takes the bytes collected for its places; its other bytes, and every other row, stay. -/
theorem Core.deposit_vrow {r i : Nat} (hf : f.dest = .vrow r) (h : c.rowsOk = true) (hi : i < 256) :
    rowByte ((c.deposit f).row r) i =
      (match f.got.find? (fun e => e.1 == i) with | some e => e.2 | none => rowByte (c.row r) i) ∧
    ∀ q, q ≠ r → (c.deposit f).row q = c.row q := by
  simp only [Core.deposit, hf]
  refine ⟨?_, fun q hq => Core.row_setRow_other h hq⟩
  rw [Core.row_setRow_same h, rowByte_eq_rowElem, rowElem_rowBuild (by decide) hi]
  cases f.got.find? (fun e => e.1 == i) with
  | some e => exact BitVec.eq_of_toNat_eq (by simpa using e.2.isLt)
  | none => exact (congrArg _ (rowElem_mod ..)).trans (rowByte_eq_rowElem ..).symm

end

/-! ### The events -/

section
variable {s : State} {v k : Nat}

/-- The entry of the side log that an access has to follow: of its class and stream, from an earlier instruction. -/
def Core.leader (c : Core) (a : Acc) : Option SideEntry :=
  c.slog.find? (fun e => e.acc.st == a.st && e.acc.cls == a.cls && e.acc.grp != a.grp && decide (e.acc.id < a.id))

theorem exec_accessPerform_of_leader {a : Acc} (h : (s.core v).acc.find? (fun b => b.id == k) = some a)
    (hm : s.mayPerform v a = true) {e : SideEntry} (he : (s.core v).leader a = some e) :
    exec (.accessPerform v k) s = .next (if a.logs then s.accFault v a e.cause else s) := by
  rw [Core.leader] at he
  change execAccessPerform v k s = _
  simp only [execAccessPerform, h, hm, he]
  cases a.logs <;> simp

theorem exec_accessPerform_of_no_leader {a : Acc} (h : (s.core v).acc.find? (fun b => b.id == k) = some a)
    (hm : s.mayPerform v a = true) (he : (s.core v).leader a = none) (hp : s.pastEnd v a = false) :
    exec (.accessPerform v k) s = .next (s.performAcc v a) := by
  rw [Core.leader] at he
  change execAccessPerform v k s = _
  simp [execAccessPerform, h, hm, he, hp]

/-- A logged access to G: that may replay performs and leaves the log. -/
theorem exec_sideLogReplay {e : SideEntry} (he : (s.core v).slog[k]? = some e) (hm : (s.core v).mayReplay v k e = true)
    (hr : e.acc.isRelease = true → s.landed v = true) (hg : e.acc.space = .G) {t : State} {bs : List Byte}
    (ht : s.gAcc (s.agentOf v e.acc) (s.partOf v) e.acc.addr e.acc.n e.acc.pol e.acc.kind false = .ok t bs) :
    exec (.sideLogReplay v k) s = .next (t.replayed v e.acc) := by
  have hw : ¬(!(s.core v).mayReplay v k e ∨ e.acc.isRelease ∧ !s.landed v) := by
    rw [hm]
    rintro (h | ⟨h1, h2⟩)
    · cases h
    · rw [hr h1] at h2; cases h2
  change execSideLogReplay v k s = _
  simp only [execSideLogReplay, he, if_neg hw, hg, ht]

theorem exec_sideLogKick {p : Nat} (ht : (s.core v).task.isSome = true) (hp : s.partOf v = p) :
    exec (.sideLogKick p v) s =
      .next (s.setCore v { s.core v with slog := (s.core v).slog.map (fun e => { e with due := true }) }) := by
  change execSideLogKick p v s = _
  simp only [execSideLogKick, ht, hp, and_self, if_true]

end

/-- Settles O48, clause by clause: the event asks only whether the access may perform, `bufAcc` is one read and one write of the
core, a read misses at most writes that are past, and `retire` finishes the instruction with its last access. -/
theorem accessesPerformAtTheirPoint : Obligations.AccessesPerformAtTheirPoint := by
  unfold Obligations.AccessesPerformAtTheirPoint
  refine ⟨fun s v k a ha hm => ⟨fun hn hp => exec_accessPerform_of_no_leader ha hm hn hp,
    fun e he => exec_accessPerform_of_leader ha hm he⟩, fun s v a => ⟨?_, ?_, ?_⟩, ?_, ?_, ?_, ?_, ?_, ?_, ?_, ?_⟩
  · intro w t bs hs hb
    simp only [State.performAcc, State.sPort, hs, hb]
  · intro b t bs hs hb
    simp only [State.performAcc, hs, hb]
  · intro hs
    exact ⟨fun t bs hb => by simp only [State.performAcc, hs, hb], fun t c hb => by simp only [State.performAcc, hs, hb]⟩
  · intro s v k e he hm hr hg t bs ht
    exact ⟨exec_sideLogReplay he hm hr hg ht, State.core_replayed_slog t v e.acc⟩
  · intro s p v ht hp
    exact exec_sideLogKick ht hp
  · rintro s t ag v b off n k bs old rfl hb
    cases hk : k.newBytes n ((s.core v).bytes b off n) with
    | none =>
      obtain rfl := AccKind.newBytes_eq_none hk
      obtain ⟨hf, hp, hr⟩ := State.bufAcc_load_reads hb
      exact ⟨hf.core v, fun h => absurd rfl h, fun _ => hp, fun _ => hr, hf.2⟩
    | some d =>
      obtain ⟨hf, hr⟩ := State.bufAcc_write hk hb
      have hn : k ≠ .load := by rintro rfl; cases hk
      exact ⟨(hf.core v).trans (State.core_setCore ..), fun _ => hr, fun h => absurd h hn, fun h => absurd h hn, hf.2⟩
  · exact fun n op v w d old => ⟨rfl, rfl, rfl, rfl, rfl⟩
  · exact fun n x v w => ⟨rfl, rfl, rfl, rfl, rfl⟩
  · intro c a bs
    refine ⟨fun b hb => ?_, fun f hf => ⟨fun ha hs => ?_, fun ⟨b, hb, hg⟩ => ?_⟩⟩
    · rw [Core.retire_acc_slog.1] at hb
      simpa using (List.mem_filter.mp hb).2
    · refine Core.retire_last hf ?_
      rw [Core.awaits, Bool.or_eq_false_iff, List.any_eq_false, List.any_eq_false]
      exact ⟨fun b hb => by simpa using ha b hb, fun e he => by simpa using hs e he⟩
    · have hl : c.awaits a = true := by
        rw [Core.awaits, Bool.or_eq_true]
        exact .inl (List.any_eq_true.2 ⟨b, hb, by simpa using hg⟩)
      refine ⟨?_, ?_, Core.mem_fl_retire_earlier hf hl⟩
      · rw [Core.retire_earlier hf hl]; rfl
      · rw [Core.retire_earlier hf hl]; rfl
  · intro c f bs d hg h0 hd
    exact ⟨fun n signed hf hn => Core.deposit_sreg hg h0 hd hf hn, fun hf h31 hn => Core.deposit_spair hg h0 hf h31 hn⟩
  · intro c f r i hf h hi
    exact Core.deposit_vrow hf h hi

end Sys2Proof.Machine
end

section
/-! L commands in service: how they go on, release, deliver, notify and fault (O51). -/

namespace Sys2Proof.Machine

open Sys2Proof

/-! ### Free choices -/

theorem oneOf_mem {α : Type} (tick place : Nat) {l : List α} (h : l ≠ []) : ∃ w ∈ l, oneOf tick place l = some w := by
  match l, h with
  | [x], _ => exact ⟨x, List.mem_cons_self, rfl⟩
  | x :: y :: r, _ =>
    have hi : Config.freeNat place tick % (r.length + 2) < (x :: y :: r).length := Nat.mod_lt _ (by omega)
    exact ⟨_, List.getElem_mem hi, List.getElem?_eq_getElem hi⟩

/-- A free choice splits a list: nothing is lost, and nothing comes in. -/
theorem mem_chosen {α : Type} (tick : Nat) (l : List α) (i : Nat) (x : α) :
    x ∈ l ↔ x ∈ (chosen tick l i).1 ∨ x ∈ (chosen tick l i).2 := by
  induction l generalizing i with
  | nil => simp [chosen]
  | cons w l ih =>
    rw [List.mem_cons, ih (i + 1), chosen]
    dsimp only
    split <;> simp only [List.mem_cons] <;> tauto

/-! ### What a granule read returns -/

theorem State.hostAcc_load_length {s t : State} {ag : Agent} {p va n : Nat} {bs : List Byte}
    (h : s.hostAcc ag p va n .load = .ok t bs) : bs.length = n := by
  unfold State.hostAcc at h
  dsimp only [AccKind.newBytes] at h
  split at h
  · cases h
  · split at h
    · cases h
    · split at h
      · cases h
      · obtain ⟨-, rfl⟩ := MRes.ok.inj h
        rw [(State.look_reads ..).1]
        simp [State.hostBytes]

theorem State.readAt_length {s t : State} {ag : Agent} {p va n pol : Nat} {pl : Place} {bs : List Byte}
    (h : s.readAt ag p va n pol pl = .ok t bs) : bs.length = n := by
  unfold State.readAt at h
  split at h
  · cases h
  · split at h
    · split at h
      · cases h
      · exact State.hostAcc_load_length h
    · dsimp only at h
      split at h
      · cases h
      · cases h
      · obtain ⟨-, rfl⟩ := MRes.ok.inj h
        rw [(State.look_reads ..).1]
        simp [State.devBytes]

theorem State.bufAcc_load_length (s : State) (ag : Agent) (v : Nat) (b : Buf) (off n : Nat) :
    (s.bufAcc ag v b off n .load).2.length = n :=
  (State.bufAcc_load_reads rfl).2.2.1

/-- A granule that is read returns all its bytes. -/
theorem State.readGrain_length {s t : State} {ag : Agent} {v pol : Nat} {g : Grain} {bs : List Byte}
    (h : s.readGrain ag v pol g = .ok t bs) : bs.length = g.n := by
  unfold State.readGrain at h
  split at h
  · exact State.readAt_length h
  · cases h
  · obtain ⟨-, rfl⟩ := MRes.ok.inj h
    exact State.bufAcc_load_length s ag _ .S g.addr g.n
  · obtain ⟨-, rfl⟩ := MRes.ok.inj h
    exact State.bufAcc_load_length ..

theorem exists_mem_addressed {bs : List Byte} (a : Nat) {i : Nat} (h : i < bs.length) : ∃ b, (a + i, b) ∈ addressed a bs := by
  have hf := find?_addressed bs a i
  rw [List.getElem?_eq_getElem h] at hf
  exact ⟨_, List.mem_of_find?_eq_some hf⟩

/-! ### A command's granules through a round of work -/

/-- Two granules stand for the same bytes: they may differ in their translation alone. -/
def Grain.SameBytes (h g : Grain) : Prop := h.pos = g.pos ∧ h.n = g.n ∧ h.addr = g.addr ∧ h.space = g.space

theorem Grain.SameBytes.refl (g : Grain) : g.SameBytes g := ⟨rfl, rfl, rfl, rfl⟩

/-- The data of a granule is all there. -/
def Grain.ReadIn (g : Grain) (got : List (Nat × Byte)) : Prop := ∀ i, i < g.n → ∃ b, (g.pos + i, b) ∈ got

theorem Grain.ReadIn.mono {g : Grain} {got got' : List (Nat × Byte)} (h : g.ReadIn got) (hs : got ⊆ got') : g.ReadIn got' :=
  fun i hi => (h i hi).imp fun _ hb => hs hb

section
variable (who : Nat × Nat) (p : Nat) (k : XKind)

/-- Translation keeps every granule. -/
theorem State.xlateAll_keeps (gs : List Grain) : ∀ (s : State) (acc : List Grain),
    acc ⊆ (State.xlateAll who p k gs s acc).2 ∧ ∀ g ∈ gs, ∃ h ∈ (State.xlateAll who p k gs s acc).2, h.SameBytes g := by
  induction gs with
  | nil => exact fun s acc => ⟨List.Subset.refl _, fun g hg => nomatch hg⟩
  | cons g gs ih =>
    have key : ∀ (s : State) (acc : List Grain) (g' : Grain), g'.SameBytes g →
        acc ⊆ (State.xlateAll who p k gs s (acc ++ [g'])).2 ∧
        ∀ x ∈ g :: gs, ∃ h ∈ (State.xlateAll who p k gs s (acc ++ [g'])).2, h.SameBytes x := by
      intro s acc g' hg
      obtain ⟨hacc, hgs⟩ := ih s (acc ++ [g'])
      refine ⟨fun x hx => hacc (List.mem_append_left _ hx), fun x hx => ?_⟩
      rcases List.mem_cons.1 hx with rfl | hx
      · exact ⟨g', hacc (List.mem_append_right _ List.mem_cons_self), hg⟩
      · exact hgs x hx
    intro s acc
    rw [State.xlateAll]
    split
    · exact key _ _ g (.refl g)
    · split
      · exact key _ _ _ ⟨rfl, rfl, rfl, rfl⟩
      · exact key _ _ g (.refl g)
      · exact key _ _ g (.refl g)

/-- Translation brings no granule in. -/
theorem State.xlateAll_from (gs : List Grain) : ∀ (s : State) (acc : List Grain),
    ∀ h ∈ (State.xlateAll who p k gs s acc).2, h ∈ acc ∨ ∃ g ∈ gs, h.SameBytes g := by
  induction gs with
  | nil => exact fun s acc h hh => .inl hh
  | cons g gs ih =>
    have key : ∀ (s : State) (acc : List Grain) (g' : Grain), g'.SameBytes g →
        ∀ h ∈ (State.xlateAll who p k gs s (acc ++ [g'])).2, h ∈ acc ∨ ∃ x ∈ g :: gs, h.SameBytes x := by
      intro s acc g' hg h hh
      rcases ih s (acc ++ [g']) h hh with ha | ⟨x, hx, hs⟩
      · rcases List.mem_append.1 ha with ha | ha
        · exact .inl ha
        · obtain rfl := List.mem_singleton.1 ha
          exact .inr ⟨g, List.mem_cons_self, hg⟩
      · exact .inr ⟨x, List.mem_cons_of_mem _ hx, hs⟩
    intro s acc
    rw [State.xlateAll]
    split
    · exact key _ _ g (.refl g)
    · split
      · exact key _ _ _ ⟨rfl, rfl, rfl, rfl⟩
      · exact key _ _ g (.refl g)
      · exact key _ _ g (.refl g)

end

/-- A granule that is to be read stays due, or its data is there; what was due or there stays. -/
theorem State.readAll_keeps (ag : Agent) (v pol : Nat) (gs : List Grain) : ∀ (s : State) (acc : List Grain)
    (got : List (Nat × Byte)),
    acc ⊆ (State.readAll ag v pol gs s acc got).2.1 ∧ got ⊆ (State.readAll ag v pol gs s acc got).2.2 ∧
    ∀ g ∈ gs, g ∈ (State.readAll ag v pol gs s acc got).2.1 ∨ g.ReadIn (State.readAll ag v pol gs s acc got).2.2 := by
  induction gs with
  | nil => exact fun s acc got => ⟨List.Subset.refl _, List.Subset.refl _, fun g hg => nomatch hg⟩
  | cons g gs ih =>
    have stays : ∀ (s : State) (acc : List Grain) (got : List (Nat × Byte)),
        acc ⊆ (State.readAll ag v pol gs s (acc ++ [g]) got).2.1 ∧ got ⊆ (State.readAll ag v pol gs s (acc ++ [g]) got).2.2 ∧
        ∀ x ∈ g :: gs, x ∈ (State.readAll ag v pol gs s (acc ++ [g]) got).2.1 ∨
          x.ReadIn (State.readAll ag v pol gs s (acc ++ [g]) got).2.2 := by
      intro s acc got
      obtain ⟨hacc, hgot, hgs⟩ := ih s (acc ++ [g]) got
      refine ⟨fun x hx => hacc (List.mem_append_left _ hx), hgot, fun x hx => ?_⟩
      rcases List.mem_cons.1 hx with rfl | hx
      · exact .inl (hacc (List.mem_append_right _ List.mem_cons_self))
      · exact hgs x hx
    intro s acc got
    rw [State.readAll]
    split
    · rename_i s1 bs hr
      obtain ⟨hacc, hgot, hgs⟩ := ih s1 acc (got ++ dataAt g.pos bs)
      refine ⟨hacc, fun x hx => hgot (List.mem_append_left _ hx), fun x hx => ?_⟩
      rcases List.mem_cons.1 hx with rfl | hx
      · refine .inr fun i hi => ?_
        obtain ⟨b, hb⟩ := exists_mem_addressed (bs := bs) x.pos (State.readGrain_length hr ▸ hi)
        exact ⟨b, hgot (List.mem_append_right _ hb)⟩
      · exact hgs x hx
    · exact stays ..
    · exact stays ..

theorem State.landing_subset {s : State} {dat : Grain → Option (List Byte)} {ds : List Grain} {g h : Grain} {d : List Byte}
    {whole : Bool} {rest : List Grain} (hl : s.landing dat ds g = some (h, d, whole, rest)) : rest ⊆ ds := by
  have one : (dat g).map (fun d => (g, d, false, ds.erase g)) = some (h, d, whole, rest) → rest ⊆ ds := by
    intro he
    obtain ⟨_, -, he⟩ := Option.map_eq_some_iff.1 he
    obtain ⟨-, -, -, rfl⟩ := he
    exact List.erase_subset
  unfold State.landing at hl
  dsimp only at hl
  split at hl
  · split at hl
    · cases hl
    · split at hl
      · obtain ⟨_, -, he⟩ := Option.map_eq_some_iff.1 hl
        obtain ⟨-, -, -, rfl⟩ := he
        exact fun x hx => List.mem_of_mem_filter hx
      · exact one hl
  · split at hl
    · cases hl
    · exact one hl

/-- Landing makes no granule due. -/
theorem State.landAll_subset (ag : Agent) (v pol : Nat) (late : Bool) (dat : Grain → Option (List Byte)) (gs : List Grain) :
    ∀ (s : State) (ds : List Grain), (State.landAll ag v pol late dat gs s ds).2 ⊆ ds := by
  induction gs with
  | nil => exact fun s ds => List.Subset.refl _
  | cons g gs ih =>
    intro s ds
    rw [State.landAll]
    split
    · exact ih _ _
    · split
      · exact ih _ _
      · rename_i h d whole rest hl
        have hr := State.landing_subset hl
        split
        · exact List.Subset.trans (ih _ _) hr
        · exact ih _ _
        · refine List.Subset.trans (ih _ _) ?_
          split
          · exact hr
          · exact List.Subset.refl _

/-- What reading and landing leave of a command's work. -/
theorem State.moveOn_keeps (s : State) (sv : Server) (w : Work) :
    (∀ g ∈ w.srcs, g ∈ (s.moveOn sv w).2.srcs ∨ g.ReadIn (s.moveOn sv w).2.got) ∧ w.got ⊆ (s.moveOn sv w).2.got ∧
    (s.moveOn sv w).2.dsts ⊆ w.dsts := by
  obtain ⟨-, -, hr⟩ := State.readAll_keeps sv.reads sv.v sv.pol (chosen s.tick w.srcs (2 ^ 17)).1 s [] []
  refine ⟨fun g hg => ?_, List.subset_append_left _ _, State.landAll_subset ..⟩
  rcases (mem_chosen s.tick w.srcs (2 ^ 17) g).1 hg with hc | hc
  · exact (hr g hc).imp (List.mem_append_left _) fun h => h.mono (List.subset_append_right _ _)
  · exact .inl (List.mem_append_right _ hc)

/-- What a round of work leaves of a command: a granule that was to be read is due still, or its data is there; data stays, and no
granule to be written is due that was not. -/
theorem State.workOn_keeps (s : State) (sv : Server) (w : Work) :
    (∀ g ∈ w.srcs, (∃ h ∈ (s.workOn sv w).2.srcs, h.SameBytes g) ∨ g.ReadIn (s.workOn sv w).2.got) ∧
    w.got ⊆ (s.workOn sv w).2.got ∧
    ∀ h ∈ (s.workOn sv w).2.dsts, ∃ g ∈ w.dsts, h.SameBytes g := by
  unfold State.workOn
  dsimp only
  obtain ⟨-, hx⟩ := State.xlateAll_keeps sv.reads.who (s.partOf sv.v) .read (chosen s.tick w.srcs 0).1 s []
  generalize State.xlateAll sv.reads.who (s.partOf sv.v) .read (chosen s.tick w.srcs 0).1 s [] = r1 at hx ⊢
  have hy := State.xlateAll_from sv.writes.who (s.partOf sv.v) .write (chosen s.tick w.dsts (2 ^ 16)).1 r1.1 []
  generalize State.xlateAll sv.writes.who (s.partOf sv.v) .write (chosen s.tick w.dsts (2 ^ 16)).1 r1.1 [] = r2 at hy ⊢
  obtain ⟨hs, hg, hd⟩ := State.moveOn_keeps r2.1 sv
    { w with srcs := r1.2 ++ (chosen s.tick w.srcs 0).2, dsts := r2.2 ++ (chosen s.tick w.dsts (2 ^ 16)).2 }
  refine ⟨fun g hgm => ?_, hg, fun h hh => ?_⟩
  · have hh : ∃ h ∈ r1.2 ++ (chosen s.tick w.srcs 0).2, h.SameBytes g := by
      rcases (mem_chosen s.tick w.srcs 0 g).1 hgm with hc | hc
      · obtain ⟨h, hm, hb⟩ := hx g hc
        exact ⟨h, List.mem_append_left _ hm, hb⟩
      · exact ⟨g, List.mem_append_right _ hc, .refl g⟩
    obtain ⟨h, hm, hb⟩ := hh
    refine (hs h hm).imp (fun hm => ⟨h, hm, hb⟩) fun hr i hi => ?_
    obtain ⟨hpos, hn, -, -⟩ := hb
    rw [← hpos]
    exact hr i (hn ▸ hi)
  · rcases List.mem_append.1 (hd hh) with hm | hm
    · rcases hy h hm with hm | ⟨g, hm, hb⟩
      · cases hm
      · exact ⟨g, (mem_chosen ..).2 (.inl hm), hb⟩
    · exact ⟨h, (mem_chosen ..).2 (.inr hm), .refl h⟩

/-! ### What a command reads and writes -/

theorem rowsOf_lengths (base pp rp base' pp' rp' : Nat) (e : Nat × Nat × Nat) :
    (rowsOf base pp rp e).map (·.2) = (rowsOf base' pp' rp' e).map (·.2) := by
  simp [rowsOf, List.map_flatMap, Function.comp_def]

/-- A copy moves its rows as they are, from its source word's space to its destination word's. -/
theorem LCmd.copy_plan {l : LCmd} (h : l.op ∈ [LOp.cp, .cpw, .cpl]) (s : State) (v : Nat) (w : Work) (g : Grain) :
    l.bytes w g = w.data g.pos g.n ∧
    l.plan s v = { Work.idle with
      srcs := rowGrains (sideSpace (l.op.srcNeed.isG l.src) l.src) false l.srcRows
      dsts := rowGrains (sideSpace (l.op.dstNeed.isG l.dst) l.dst) true l.dstRows } ∧
    l.srcRows.map (·.2) = l.dstRows.map (·.2) := by
  simp only [List.mem_cons, List.not_mem_nil, or_false] at h
  rcases h with h | h | h <;>
  · simp only [LCmd.bytes, LCmd.plan, LCmd.srcRows, LCmd.dstRows, h]
    exact ⟨trivial, rfl, rowsOf_lengths ..⟩

/-- A fill writes its payload in each word. -/
theorem LCmd.fill_bytes {l : LCmd} {w : Work} {g : Grain} {y : BitVec 32} (h : l.op = .lfill) (hp : l.payload = some y)
    (hn : g.n = 4) : l.bytes w g = some (leBytes 4 y.toNat) := by
  simp only [LCmd.bytes, h, hp, hn]
  simp [leBytes]

theorem State.mem_notifyDue (s : State) (v w : Nat) (l : LCmd) : w ∈ s.notifyDue v l ↔
    (if l.op = .cpr ∨ l.op = .cpm then some w ∈ l.targets (s.core v) v else w = v) ∧ w ∉ l.told := by
  unfold State.notifyDue
  split <;> simp

theorem LCmd.not_isGath_of_tiles {l : LCmd} (h : l.op = .pfBulk ∨ l.op = .pfRel) : l.isGath = false := by
  rcases h with h | h <;> simp [LCmd.isGath, h]

theorem LCmd.not_tiles_of_isGath {l : LCmd} (h : l.isGath = true) : ¬(l.op = .pfBulk ∨ l.op = .pfRel) := by
  intro ht
  rw [LCmd.not_isGath_of_tiles ht] at h
  cases h

/-! ### The events of a command -/

section
variable {s t : State} {v k : Nat} {l m : LCmd}

/-- The released event of a command that goes on. -/
theorem exec_lCmdSourceReleased (hl : (s.core v).lcmd k = some l) (hr : l.released = false) (hrel : l.releases = true)
    (hf : l.faulted = none ∨ l.isGath = true) (hon : s.lOn v l = (t, m)) :
    exec (.lCmdSourceReleased v k) s = .next
      (if m.mayRelease ∧ m.faulted.isNone ∧ (t.core v).mayComplete t.clock l.incS then
        (t.putLcmd v { m with released := true }).completed v (lThread l.id) 1 16 l.scope l.ks l.incS
          ({ m with released := true }.record .counterOverflow 0)
       else t.putLcmd v m) := by
  have hgo : ¬(l.released ∨ !l.releases ∨ (l.faulted.isSome ∧ !l.isGath)) := by
    rw [hr, hrel]
    rintro (h | h | ⟨h1, h2⟩)
    · cases h
    · cases h
    · rcases hf with hf | hf
      · rw [hf] at h1; cases h1
      · rw [hf] at h2; cases h2
  change execLCmdSourceReleased v k s = _
  simp only [execLCmdSourceReleased, hl, if_neg hgo, hon]
  split <;> rfl

section Delivered
variable (hl : (s.core v).lcmd k = some l) (hf : l.faulted = none) (hr : l.releases = true → l.released = true)

include hf hr in
/-- Nothing keeps back the delivered event of a command whose source is released and that has met no fault. -/
theorem LCmd.not_kept : ¬((l.faulted.isSome ∧ !l.isGath) ∨ (l.releases ∧ !l.released)) := by
  rw [hf]
  rintro (⟨h, -⟩ | ⟨h1, h2⟩)
  · cases h
  · rw [hr h1] at h2; cases h2

include hl hf hr

/-- A delivered command lands what its narrow scope has left due. -/
theorem exec_lCmdDelivered_of_delivered (hd : l.delivered = true) {w : Work}
    (hland : s.landSome (s.lServer v l) l.work = (t, w)) :
    exec (.lCmdDelivered v k) s = .next (t.putLcmd v { l with work := w }) := by
  change execLCmdDelivered v k s = _
  simp only [execLCmdDelivered, hl, if_neg (LCmd.not_kept hf hr), hd, if_true, hland]

/-- A prefetch or release goes on over its tiles, and is delivered with the last. -/
theorem exec_lCmdDelivered_of_tiles (hd : l.delivered = false) (hop : l.op = .pfBulk ∨ l.op = .pfRel)
    (ht : s.tilesOn v l false = (t, m, none)) :
    exec (.lCmdDelivered v k) s =
      .next (if m.tilesDone ∧ (t.core v).mayComplete t.clock l.incD then t.deliver v m else t.putLcmd v m) := by
  change execLCmdDelivered v k s = _
  simp only [execLCmdDelivered, hl, if_neg (LCmd.not_kept hf hr), hd, Bool.false_eq_true, if_false, if_pos hop, ht]
  split <;> rfl

/-- Any other command goes on granule by granule, and is delivered once its condition holds. -/
theorem exec_lCmdDelivered_of_moves (hd : l.delivered = false) (hop : ¬(l.op = .pfBulk ∨ l.op = .pfRel))
    (hon : s.lOn v l = (t, m)) :
    exec (.lCmdDelivered v k) s =
      .next (if m.arrived ∧ m.faulted.isNone ∧ (t.core v).mayComplete t.clock l.incD then t.deliver v m else t.putLcmd v m) := by
  change execLCmdDelivered v k s = _
  simp only [execLCmdDelivered, hl, if_neg (LCmd.not_kept hf hr), hd, Bool.false_eq_true, if_false, if_neg hop, hon]
  split <;> rfl

end Delivered

/-- The notify word is written at one of the cores that it is due at. -/
theorem exec_notifyWrite (hl : (s.core v).lcmd k = some l) (hm : l.mayNotify = true) {w : Nat}
    (hw : oneOf s.tick 31 (s.notifyDue v l) = some w) :
    ∃ ag, exec (.notifyWrite v k) s =
      .next ((s.sPort ag w (4 * l.nidx) 4 (.store (leBytes 4 l.notifyWord))).1.putLcmd v
        { l with told := w :: l.told, notified := (s.notifyDue v { l with told := w :: l.told }).isEmpty }) := by
  refine ⟨⟨(v, l.id), some (v, l.id), some { s.event v (lThread l.id) 3 l.cls with rel := l.scope }⟩, ?_⟩
  change execNotifyWrite v k s = _
  simp only [execNotifyWrite, hl, hm, Bool.not_true, Bool.false_eq_true, if_false, hw]

section ServiceFault
variable (hl : (s.core v).lcmd k = some l) (hd : l.delivered = false) (hf : l.faulted = none)

include hd hf in
/-- A command that is under way and has met no fault may meet one. -/
theorem LCmd.not_over : ¬(l.delivered ∨ l.faulted.isSome) := by
  rw [hd, hf]
  rintro (h | h) <;> cases h

include hl hd hf

theorem exec_lCmdServiceFault_of_tiles {c : Cause} {a : Nat} (hop : l.op = .pfBulk ∨ l.op = .pfRel)
    (ht : s.tilesOn v l true = (t, m, some (some c, a))) :
    exec (.lCmdServiceFault v k) s = .next (t.lFault v m c a) := by
  change execLCmdServiceFault v k s = _
  simp only [execLCmdServiceFault, hl, if_neg (LCmd.not_over hd hf), if_pos hop, ht]

theorem exec_lCmdServiceFault_of_gather {w : Work} {c : Cause} {a : Nat} (hg : l.isGath = true)
    (ht : s.gatherFault (s.lServer v l) l.gather l.retry.work = some (t, w, c, a)) :
    exec (.lCmdServiceFault v k) s = .next (t.lMark v { l with work := w } c a).1 := by
  change execLCmdServiceFault v k s = _
  simp only [execLCmdServiceFault, hl, if_neg (LCmd.not_over hd hf), if_neg (LCmd.not_tiles_of_isGath hg), if_pos hg, ht]

/-- Once the source of a copy is released, only an arena's death remains to be met. -/
theorem exec_lCmdServiceFault_of_moves {c : Cause} {a : Nat} (hg : l.isGath = false) (hop : ¬(l.op = .pfBulk ∨ l.op = .pfRel))
    (hr : l.released = false ∨ c = .outlived) (ht : s.workFault (s.lServer v l) l.work = some (t, c, a)) :
    exec (.lCmdServiceFault v k) s = .next (t.lFault v l c a) := by
  have hgo : ¬(l.released = true ∧ c ≠ .outlived) := by
    rintro ⟨h1, h2⟩
    rcases hr with hr | hr
    · rw [hr] at h1; cases h1
    · exact h2 hr
  change execLCmdServiceFault v k s = _
  simp only [execLCmdServiceFault, hl, if_neg (LCmd.not_over hd hf), if_neg hop, hg, Bool.false_eq_true, if_false, ht,
    if_neg hgo]

end ServiceFault
end

/-- Settles O51, clause by clause: each event goes on with its command and then asks its one condition; a round of work only takes
granules from those due, and a granule that is read leaves all its bytes in the command's data. -/
theorem loadCommandEventsRunTheirCourse : Obligations.LoadCommandEventsRunTheirCourse := by
  unfold Obligations.LoadCommandEventsRunTheirCourse
  refine ⟨fun s v k l hl hr hrel hf t m hon => ⟨fun hm hn hc => ?_, fun hm => ?_⟩,
    fun s v k l hl hf hr => ⟨fun hd h1 h2 t m hon => ⟨fun ha hn hc => ?_, fun ha => ?_⟩, fun hd t w hland => ?_,
      fun hd hop t m ht => ⟨fun hm hc => ?_, fun hm => ?_⟩⟩,
    fun _ _ _ => rfl, ?_, State.mem_notifyDue, fun s v k l hl hd hf => ⟨fun t m c a hop ht => ?_, fun t w c a hg ht => ?_,
      fun t c a hg h1 h2 hr ht => ?_⟩, fun s sv w => ?_, ?_, ?_, fun now k n r c => ⟨rfl, fun hn => if_neg hn⟩⟩
  · rw [exec_lCmdSourceReleased hl hr hrel hf hon, if_pos ⟨hm, by simp [hn], hc⟩]
  · rw [exec_lCmdSourceReleased hl hr hrel hf hon, if_neg (by simp [hm])]
  · rw [exec_lCmdDelivered_of_moves hl hf hr hd (not_or.2 ⟨h1, h2⟩) hon, if_pos ⟨ha, by simp [hn], hc⟩]
  · rw [exec_lCmdDelivered_of_moves hl hf hr hd (not_or.2 ⟨h1, h2⟩) hon, if_neg (by simp [ha])]
  · exact exec_lCmdDelivered_of_delivered hl hf hr hd hland
  · rw [exec_lCmdDelivered_of_tiles hl hf hr hd hop ht, if_pos ⟨hm, hc⟩]
  · rw [exec_lCmdDelivered_of_tiles hl hf hr hd hop ht, if_neg (by simp [hm])]
  · intro s v k l hl hm hne
    obtain ⟨w, hw, hone⟩ := oneOf_mem s.tick 31 hne
    obtain ⟨ag, he⟩ := exec_notifyWrite hl hm hone
    exact ⟨w, hw, ag, _, rfl, he⟩
  · exact exec_lCmdServiceFault_of_tiles hl hd hf hop ht
  · exact exec_lCmdServiceFault_of_gather hl hd hf hg ht
  · exact exec_lCmdServiceFault_of_moves hl hd hf hg (not_or.2 ⟨h1, h2⟩) hr ht
  · obtain ⟨hs, hg, hd⟩ := State.workOn_keeps s sv w
    exact ⟨hs, fun e he => hg he, hd⟩
  · exact fun l s v w g h => LCmd.copy_plan h s v w g
  · exact fun l w g y h hp hn => LCmd.fill_bytes h hp hn

end Sys2Proof.Machine
end

section
/-! Translations come and go: invalidations, host replies, page requests and tile fills (O57). -/

namespace Sys2Proof.Machine

open Sys2Proof

section
variable {s : State} {p a : Nat}

/-! ### Invalidations -/

/-- What the removal of translations leaves: those of other partitions, those that are no host ones where these alone are named,
and those that meet none of the bytes. -/
theorem State.mem_tlb_shoot (s : State) (p va n : Nat) (h : Bool) (e : Tlb) : e ∈ (s.shoot p va n h).tlb ↔
    e ∈ s.tlb ∧ ¬(e.part = p ∧ (h = true → e.host = true) ∧ e.va < va + n ∧ va < e.va + e.size) := by
  have hm : (e.part == p && (!h || e.host) && decide (e.va < va + n ∧ va < e.va + e.size)) = true ↔
      e.part = p ∧ (h = true → e.host = true) ∧ e.va < va + n ∧ va < e.va + e.size := by
    cases h <;> simp [and_assoc]
  rw [State.shoot, List.mem_filter, Bool.not_eq_true', ← Bool.not_eq_true, hm]

/-- The Reset column gives DONE = 1 (Table 17.7). -/
theorem regReset_xltInvst (hp : p < 32) : regReset (xltInvst p) = 1 := by
  have hlo : 0x8000 ≤ xltInvst p := by unfold xltInvst; omega
  have hhi : xltInvst p < 0x9000 := by unfold xltInvst; omega
  have hmod : xltInvst p % 0x80 = 0x38 := by unfold xltInvst; omega
  have far : ∀ n, 0x9000 ≤ n → xltInvst p ≠ n := fun n hn => by omega
  rw [regReset, if_neg (far prtQint (by decide)), if_neg (far lnkRlyCfg (by decide)), if_neg (far lnkUeCfg (by decide)),
    if_neg (not_or.2 ⟨far lsePccap (by decide), far lseSwcap (by decide)⟩), if_neg (far calStretch (by decide)),
    if_neg (far mgtFeatDev (by decide)), if_neg (far mgtWdt (by decide)), if_neg (far mgtCemax (by decide)),
    if_neg (show ¬(0x5000 ≤ xltInvst p ∧ xltInvst p < 0x5800) by omega), if_pos ⟨hlo, hhi⟩,
    if_neg (show ¬xltInvst p % 0x80 = 0x08 by omega), if_pos hmod]

/-- DONE reads 0 once it has been cleared. -/
theorem State.reg_clearDone (s : State) (hp : p < 32) : (s.setReg (xltInvst p) 0).reg (xltInvst p) = 0 := by
  have hd : (0 : BitVec 64) ≠ regReset (xltInvst p) := by rw [regReset_xltInvst hp]; decide
  simp only [State.reg, State.setReg, Tab.set, if_neg hd, Tab.get_put_same]

theorem exec_tlbInvalidate (s : State) (x : BitVec 64) (hb : s.barOpen = true) (hp : p < 32) : exec (.tlbInvalidate p x) s =
    if s.locked p then .next (s.orReg hstEvt 2)
    else if fld x.toNat 63 1 = 0 then .next s
    else .next (State.setReg
      { s.shoot p (if fld x.toNat 60 2 = 3 then 0 else fld x.toNat 16 40 * 2 ^ 16) (invSize (fld x.toNat 60 2))
          (fld x.toNat 62 1 == 1) with invs := s.invs ++ [(p, false)] } (xltInvst p) 0) := by
  change execTlbInvalidate p x s = _
  simp only [execTlbInvalidate, hb, Bool.not_true, Bool.false_eq_true, or_false, if_neg (Nat.not_le.2 hp)]
  rfl

/-- An invalidation with GO: DONE is cleared, translations only leave, and those of other partitions stay. -/
theorem exec_tlbInvalidate_go (x : BitVec 64) (hb : s.barOpen = true) (hp : p < 32) (hl : s.locked p = false)
    (hg : fld x.toNat 63 1 = 1) : ∃ t, exec (.tlbInvalidate p x) s = .next t ∧ t.reg (xltInvst p) = 0 ∧
      t.invs = s.invs ++ [(p, false)] ∧ (∀ e ∈ t.tlb, e ∈ s.tlb) ∧
      (fld x.toNat 60 2 = 3 → fld x.toNat 62 1 = 0 → ∀ e ∈ t.tlb, e.part = p → 2 ^ 56 ≤ e.va ∨ e.va + e.size = 0) ∧
      ∀ e ∈ s.tlb, e.part ≠ p → e ∈ t.tlb := by
  rw [exec_tlbInvalidate s x hb hp, if_neg (by simp [hl]), if_neg (by omega)]
  refine ⟨_, rfl, State.reg_clearDone _ hp, rfl, fun e he => ((State.mem_tlb_shoot ..).1 he).1, fun hz hh e he hep => ?_,
    fun e he hep => (State.mem_tlb_shoot ..).2 ⟨he, fun h => hep h.1⟩⟩
  have hn := ((State.mem_tlb_shoot ..).1 he).2
  simp only [hz, hh, invSize, if_true] at hn
  by_contra hc
  exact hn ⟨hep, by simp, by omega, by omega⟩

section InvalidateDone
variable {b : Bool} (hf : s.invs.find? (fun e => e.1 == p) = some (p, b))
include hf

theorem exec_invalidateDone_waits (hu : s.usesOld p = true) : exec (.invalidateDone p) s = .next s := by
  change execInvalidateDone p s = _
  simp only [execInvalidateDone, hf, hu, if_true]

theorem exec_invalidateDone (hu : s.usesOld p = false) : exec (.invalidateDone p) s =
    if b then .next { s with invs := s.invs.erase (p, b), out := .invalidated p :: s.out }
    else .next (if (s.invs.erase (p, b)).contains (p, false) then { s with invs := s.invs.erase (p, b) }
      else State.setReg { s with invs := s.invs.erase (p, b) } (xltInvst p) 1) := by
  change execInvalidateDone p s = _
  simp only [execInvalidateDone, hf, hu, Bool.false_eq_true, if_false]

end InvalidateDone

/-! ### Host replies -/

theorem mem_cacheIn {tick holder : Nat} {x e : Tlb} {l : List Tlb} (h : e ∈ cacheIn tick holder x l) :
    e ∈ l ∨ e = { x with holder := holder } := by
  unfold cacheIn at h
  dsimp only at h
  generalize (if holder < numCores then 128 else 4096) = room at h
  split at h
  · exact .inl h
  · split at h
    · exact (List.mem_cons.1 h).symm
    · exact (List.mem_cons.1 h).symm.imp_left List.mem_of_mem_erase

/-- What a TLB holds after a translation is cached is old, or the translation. -/
theorem State.mem_tlb_cache {who : Nat} {x : Xlat} {e : Tlb} (h : e ∈ (s.cache who x).tlb) :
    e ∈ s.tlb ∨ ∃ holder, e = { x.ent with holder := holder } := by
  have key : ∀ (hs : List Nat) (l : List Tlb), e ∈ hs.foldl (fun l h => cacheIn s.tick h x.ent l) l →
      e ∈ l ∨ ∃ holder, e = { x.ent with holder := holder } := by
    intro hs
    induction hs with
    | nil => exact fun l h => .inl h
    | cons i hs ih =>
      intro l h
      rcases ih _ h with h | h
      · exact (mem_cacheIn h).imp_right fun h => ⟨i, h⟩
      · exact .inr h
  exact key _ _ h

/-- A host translation that comes in covers the page asked for, with the lesser of the sizes, of 64 KiB at least, and the
permissions that both give. -/
theorem State.mem_tlb_cacheHost {r : AtsReply} {leaf : Nat × Bool × Bool} {w : Nat × Nat × Bool} {e : Tlb}
    (h : e ∈ (s.cacheHost p a r leaf w).tlb) : e ∈ s.tlb ∨ (e.part = p ∧ e.host = true ∧ e.read = r.read ∧
      e.write = (r.write && leaf.2.1) ∧ e.exec = leaf.2.2 ∧ e.va ≤ a ∧ a < e.va + e.size ∧
      (e.size ≤ r.size ∨ e.size = 2 ^ 16) ∧ (e.size ≤ leaf.1 ∨ e.size = 2 ^ 16)) := by
  rcases State.mem_tlb_cache h with h | ⟨i, rfl⟩
  · exact .inl h
  · right
    have hn : 0 < max (2 ^ 16) (min r.size leaf.1) := by omega
    refine ⟨rfl, rfl, rfl, rfl, rfl, Nat.div_mul_le_self _ _, Nat.lt_div_mul_add hn, ?_, ?_⟩ <;> dsimp only <;> omega

theorem State.cacheHosts_keeps (p a : Nat) (r : AtsReply) (leaf : Nat × Bool × Bool) (ws : List (Nat × Nat × Bool)) (s : State) :
    ∃ tlb, ws.foldl (fun s w => s.cacheHost p a r leaf w) s = { s with tlb := tlb } := by
  induction ws generalizing s with
  | nil => exact ⟨_, rfl⟩
  | cons w ws ih => exact ih (s.cacheHost p a r leaf w)

/-- The state once a host reply has been cached for those that wait. -/
def State.granted (s : State) (p a : Nat) (r : AtsReply) (leaf : Nat × Bool × Bool) (ws : List (Nat × Nat × Bool)) : State :=
  if r.present then ws.foldl (fun s w => s.cacheHost p a r leaf w) s else s

theorem State.granted_keeps (s : State) (p a : Nat) (r : AtsReply) (leaf : Nat × Bool × Bool) (ws : List (Nat × Nat × Bool)) :
    (s.granted p a r leaf ws).regs = s.regs ∧ (s.granted p a r leaf ws).preq = s.preq := by
  unfold State.granted
  split
  · obtain ⟨_, h⟩ := State.cacheHosts_keeps p a r leaf ws s
    rw [h]
    exact ⟨rfl, rfl⟩
  · exact ⟨rfl, rfl⟩

/-- Those of a request that a host reply does not let go on. -/
def AtsReply.refuses (r : AtsReply) (ws : List (Nat × Nat × Bool)) : List (Nat × Nat × Bool) :=
  ws.filter (fun w => !(r.present && (if w.2.2 then r.write else r.read)))

section AtsResponse
variable {r : AtsReply} {q0 : PageReq} (hq : s.preq.find? (fun q => q.part == p && q.page == a && q.stage == 0) = some q0)
include hq

theorem exec_atsResponse_of_no_leaf (hl : s.leafAt p a = none) : exec (.atsResponse p a r) s = .next (s.dropReq p a) := by
  change execAtsResponse p a r s = _
  simp only [execAtsResponse, hq, hl]

variable {leaf : Nat × Bool × Bool} (hl : s.leafAt p a = some leaf)
include hl

theorem exec_atsResponse_of_granted (hr : r.refuses (q0.who.filter (s.awaits p)) = []) :
    exec (.atsResponse p a r) s = .next ((s.granted p a r leaf (q0.who.filter (s.awaits p))).dropReq p a) := by
  change execAtsResponse p a r s = _
  rw [AtsReply.refuses] at hr
  simp only [execAtsResponse, hq, hl, hr, List.isEmpty_nil, if_true]
  rfl

theorem exec_atsResponse_of_refused {left : List (Nat × Nat × Bool)} (hr : r.refuses (q0.who.filter (s.awaits p)) = left)
    (hne : left ≠ []) : exec (.atsResponse p a r) s = .next
      (if s.regF (hstPri p) 0 1 = 0 then
        (s.granted p a r leaf (q0.who.filter (s.awaits p))).refuseAll { q0 with who := left }
       else State.sendQueued p (s.preq.length + 1)
        ((s.granted p a r leaf (q0.who.filter (s.awaits p))).queueReq { q0 with who := left })) := by
  obtain ⟨hregs, hpreq⟩ := State.granted_keeps s p a r leaf (q0.who.filter (s.awaits p))
  have hreg : (s.granted p a r leaf (q0.who.filter (s.awaits p))).regF (hstPri p) 0 1 = s.regF (hstPri p) 0 1 := by
    simp only [State.regF, State.reg, hregs]
  have he : left.isEmpty = false := by simpa using hne
  change execAtsResponse p a r s = _
  rw [← hreg, ← hpreq]
  rw [AtsReply.refuses] at hr
  simp only [execAtsResponse, hq, hl, hr, he, Bool.false_eq_true, if_false]
  exact (apply_ite Host.Outcome.next _ _ _).symm

end AtsResponse

theorem AtsReply.refuses_eq_nil {r : AtsReply} {ws : List (Nat × Nat × Bool)}
    (h : ∀ w ∈ ws, r.present = true ∧ (if w.2.2 then r.write else r.read) = true) : r.refuses ws = [] := by
  refine List.filter_eq_nil_iff.2 fun w hw => ?_
  obtain ⟨h1, h2⟩ := h w hw
  simp only [h1, h2]
  decide

theorem AtsReply.refuses_ne_nil {r : AtsReply} {ws : List (Nat × Nat × Bool)}
    (h : ∃ w ∈ ws, r.present = false ∨ (if w.2.2 then r.write else r.read) = false) : r.refuses ws ≠ [] := by
  obtain ⟨w, hw, hr⟩ := h
  refine List.ne_nil_of_mem (a := w) (List.mem_filter.2 ⟨hw, ?_⟩)
  rcases hr with hr | hr <;> simp [hr]

/-! ### Page requests -/

theorem State.sendQueued_held (n : Nat) (h : s.prqLimit p ≤ s.outstanding p ∨ s.atsOn p = false) : State.sendQueued p n s = s := by
  cases n with
  | zero => rfl
  | succ n =>
    rw [State.sendQueued, if_pos]
    exact h.imp_right fun h => .inr (by simp [h])

/-- Below LIMIT the oldest queued request is sent. -/
theorem State.sendQueued_send (n : Nat) {r : PageReq} (ho : s.outstanding p < s.prqLimit p) (he : s.regF (hstPri p) 0 1 = 1)
    (ha : s.atsOn p = true) (hq : s.preq.find? (fun r => r.part == p && r.stage == 2) = some r) :
    State.sendQueued p (n + 1) s =
      State.sendQueued p n { s.setStage p r.page 1 with out := .pageRequest p (s.pasid p) r.page :: s.out } := by
  have hgo : ¬(s.prqLimit p ≤ s.outstanding p ∨ s.regF (hstPri p) 0 1 = 0 ∨ !s.atsOn p) := by
    rw [he, ha]
    rintro (h | h | h)
    · omega
    · cases h
    · cases h
  rw [State.sendQueued, if_neg hgo]
  simp only [hq]

section PageResponse
variable {q : PageReq} (hq : s.preq.find? (fun q => q.part == p && q.page == a && q.stage == 1) = some q)
include hq

theorem exec_pageResponse_success (hw : q.who.any (s.awaits p) = true) (ha : s.atsOn p = true) :
    exec (.pageResponse p a .success) s = .next (State.sendQueued p s.preq.length
      ({ s.setStage p a 0 with out := .ats p (s.pasid p) a :: s.out }.dueLog p a)) := by
  have hn : s.preq.length = ({ s.setStage p a 0 with out := .ats p (s.pasid p) a :: s.out }.dueLog p a).preq.length :=
    (List.length_map _).symm
  change execPageResponse p a .success s = _
  simp only [execPageResponse, hq, hw, ha, Bool.not_true, Bool.false_eq_true, if_false]
  rw [hn]

theorem exec_pageResponse_success_off (hw : q.who.any (s.awaits p) = true) (ha : s.atsOn p = false) :
    exec (.pageResponse p a .success) s = .next (s.refuseAll q) := by
  change execPageResponse p a .success s = _
  simp only [execPageResponse, hq, hw, ha, Bool.not_true, Bool.false_eq_true, if_false, Bool.not_false, if_true]

theorem exec_pageResponse_success_late (hw : q.who.any (s.awaits p) = false) :
    exec (.pageResponse p a .success) s = .next (State.sendQueued p s.preq.length (s.dropReq p a)) := by
  change execPageResponse p a .success s = _
  simp only [execPageResponse, hq, hw, Bool.not_false, if_true]

theorem exec_pageResponse_invalid :
    exec (.pageResponse p a .invalid) s = .next (State.sendQueued p (s.refuseAll q).preq.length (s.refuseAll q)) := by
  change execPageResponse p a .invalid s = _
  simp only [execPageResponse, hq]

theorem exec_pageResponse_failure :
    exec (.pageResponse p a .failure) s = .next (((s.preq.filter (fun r => r.part == p && r.stage == 2)).foldl
      State.refuseAll (s.refuseAll q)).setRegF (hstPri p) 0 1 0) := by
  change execPageResponse p a .failure s = _
  simp only [execPageResponse, hq]

end PageResponse

section Refuse
variable {v i : Nat} (b : Bool) (hv : v < numCores)
include hv

theorem State.refuse_of_access {x : Acc} (hx : (s.core v).acc.find? (fun x => x.id == i) = some x) :
    s.refuse a (v, i, b) = s.accFault v x .hostRefused := by
  simp only [State.refuse, if_pos hv, hx]

/-- A logged access that is refused takes the cause; its core records it where it has parked for the page. -/
theorem State.refuse_of_logged {e : SideEntry} (hx : (s.core v).acc.find? (fun x => x.id == i) = none)
    (hl : (s.core v).lcmd i = none) (he : (s.core v).slog.find? (fun e => e.acc.id == i) = some e) :
    s.refuse a (v, i, b) =
      let t := s.setCore v { s.core v with slog := (s.core v).slog.map (fun (x : SideEntry) =>
        if x.acc.id = e.acc.id then { x with cause := .hostRefused } else x) }
      if (s.core v).st = .parked ∧ (s.core v).pages.contains a then t.park v (e.acc.record .hostRefused) else t := by
  simp only [State.refuse, if_pos hv, hx, hl, he]

end Refuse

theorem exec_priEnable (hb : s.barOpen = true) (hp : p < 32) : exec (.priEnable p) s = .next (if s.outstanding p ≠ 0 then
    s.orReg hstEvt 1 else State.sendQueued p s.preq.length (s.setRegF (hstPri p) 0 1 1)) := by
  change execPriEnable p s = _
  simp only [execPriEnable, State.bar, hb, if_true, if_neg (Nat.not_le.2 hp)]

/-! ### Fills -/

theorem State.capFetch_eq (s : State) (k : Nat) : ∃ blk lines regs out,
    s.capFetch k = { s with capBlk := blk, capCache := lines, regs := regs, out := out } :=
  State.capMake_eq ..

theorem State.length_inSet_of_victim {pl : Nat × Nat × Nat} (h : s.victim p pl = none) : (s.inSet pl).length < 20 := by
  unfold State.victim at h
  dsimp only at h
  split at h
  · assumption
  · split at h
    · split at h <;> cases h
    · cases h

/-- While a set has a free way, a tile takes it. -/
theorem State.allocate_of_free {k : Nat} {retain : Bool} (h : (s.inSet (s.home k)).length < 20) :
    s.allocate p k retain = { s with l2 := s.l2 ++ [⟨k, p, retain, false, false⟩] } := by
  have hv : s.victim p (s.home k) = none := if_pos h
  simp only [State.allocate, hv]

/-- A fold of updates of cores changes the cores alone. -/
theorem foldl_setCore_eq {β : Type} (f : State → β → Nat) (g : State → β → Core) (l : List β) (s : State) :
    ∃ cores, l.foldl (fun s w => s.setCore (f s w) (g s w)) s = { s with cores := cores } := by
  induction l generalizing s with
  | nil => exact ⟨_, rfl⟩
  | cons w l ih => exact ih (s.setCore (f s w) (g s w))

/-- A fill that has arrived is no longer outstanding. -/
def State.fillTaken (s : State) (k : Nat) : State := { s with fills := s.fills.filter (fun g => g.tile != k) }

theorem State.capChain_fillTaken (s : State) (k : Nat) (n blk : Nat) : (s.fillTaken k).capChain n blk = s.capChain n blk := by
  induction n generalizing blk with
  | zero => rfl
  | succ n ih => simp only [State.capChain, ih]; rfl

/-- Whether a tile verifies does not rest on the fills that are outstanding. -/
theorem State.verifies_fillTaken (s : State) (k : Nat) : (s.fillTaken k).verifies k = s.verifies k := by
  have hc : (s.fillTaken k).capOk k = s.capOk k := by
    simp only [State.capOk, State.capPath, State.capChain_fillTaken]
    rfl
  simp only [State.verifies, hc]
  rfl

theorem State.settle_of_no_reseal (hr : s.reseal = []) (k : Nat) : s.settle k = s := by
  simp [State.settle, State.resealing, hr]

section TileFill
variable {k : Nat} {f : Fill} (hf : s.fills.find? (fun f => f.tile == k) = some f) (hr : s.reseal = [])
include hf hr

/-- A fill that verifies: the tile is there, and the prefetches that wait for it go on. -/
theorem exec_tileFill_of_verifies (hv : s.verifies k = true) : ∃ cores, exec (.tileFill k) s = .next
    { (if s.resident k then s.fillTaken k else ((s.fillTaken k).capFetch k).allocate f.part k f.retain) with cores := cores } := by
  have hs : (s.fillTaken k).settle k = s.fillTaken k := State.settle_of_no_reseal (s := s.fillTaken k) hr k
  have hv' : (s.fillTaken k).verifies k = true := (State.verifies_fillTaken s k).trans hv
  obtain ⟨cores, hc⟩ := foldl_setCore_eq (fun _ w => w.1)
    (fun s (w : Nat × LCmd × Nat) => (s.core w.1).setLcmd { w.2.1 with tiles := w.2.1.tiles.filter (fun x => x.2 != k) })
    ((s.fillTaken k).fillWaiters k)
    (if s.resident k then s.fillTaken k else ((s.fillTaken k).capFetch k).allocate f.part k f.retain)
  refine ⟨cores, ?_⟩
  rw [State.fillTaken] at hs hv'
  change execTileFill k s = _
  simp only [execTileFill, hf, hs, hv', if_true]
  exact congrArg _ hc

theorem exec_tileFill_of_fails (hv : s.verifies k = false) (hw : s.fillWaiters k = []) :
    exec (.tileFill k) s = .next ((s.fillTaken k).fillFails k) := by
  have hs : (s.fillTaken k).settle k = s.fillTaken k := State.settle_of_no_reseal (s := s.fillTaken k) hr k
  have hv' : (s.fillTaken k).verifies k = false := (State.verifies_fillTaken s k).trans hv
  have hw' : (s.fillTaken k).fillWaiters k = [] := hw
  rw [State.fillTaken] at hs hv' hw'
  change execTileFill k s = _
  simp only [execTileFill, hf, hs, hv', hw', Bool.false_eq_true, if_false, List.foldl_nil]
  rfl

/-- A tile that verifies takes a free way of its set. -/
theorem exec_tileFill_allocates (hv : s.verifies k = true) (hn : s.resident k = false)
    (hvic : s.victim f.part (s.home k) = none) : ∃ t, exec (.tileFill k) s = .next t ∧ t.resident k = true ∧
      t.mem = s.mem ∧ t.fills = s.fills.filter (fun g => g.tile != k) := by
  obtain ⟨cores, he⟩ := exec_tileFill_of_verifies hf hr hv
  obtain ⟨blk, lines, regs, out, hc⟩ := State.capFetch_eq (s.fillTaken k) k
  have hfree : (((s.fillTaken k).capFetch k).inSet (((s.fillTaken k).capFetch k).home k)).length < 20 := by
    rw [hc]
    exact State.length_inSet_of_victim (s := s) hvic
  rw [if_neg (by simp [hn]), State.allocate_of_free hfree, hc] at he
  exact ⟨_, he, by simp [State.resident], rfl, rfl⟩

theorem exec_tileFill_of_resident (hv : s.verifies k = true) (hn : s.resident k = true) :
    ∃ t, exec (.tileFill k) s = .next t ∧ t.l2 = s.l2 ∧ t.mem = s.mem := by
  obtain ⟨cores, he⟩ := exec_tileFill_of_verifies hf hr hv
  rw [if_pos hn] at he
  exact ⟨_, he, rfl, rfl⟩

end TileFill

/-- A cap failure is logged; it touches no byte and no tile. -/
theorem State.tagFail_keeps (s : State) (k : Nat) : (s.tagFail k).mem = s.mem ∧ (s.tagFail k).l2 = s.l2 ∧
    ∃ w, (s.tagFail k).capFlog = s.capFlog ++ [w] := by
  unfold State.tagFail
  dsimp only
  split <;> exact ⟨rfl, rfl, _, rfl⟩

end

/-- Settles O57, clause by clause: each event asks its conditions in turn, a filter removes what an invalidation names, and what a
reply or a fill brings in is the one entry or tile that it is about. -/
theorem translationsComeAndGo : Obligations.TranslationsComeAndGo := by
  unfold Obligations.TranslationsComeAndGo
  refine ⟨fun s p x hb hp => ⟨fun hl => ?_, fun hl hg => ?_, fun hl hg => exec_tlbInvalidate_go x hb hp hl hg⟩,
    State.mem_tlb_shoot, ⟨rfl, rfl, rfl, rfl⟩,
    fun s p b hf => ⟨exec_invalidateDone_waits hf, fun hu => ⟨?_, ?_⟩⟩, fun _ _ _ _ => rfl,
    fun s p a r q0 hq => ⟨exec_atsResponse_of_no_leaf hq, fun leaf hl =>
      ⟨fun h => exec_atsResponse_of_granted hq hl (AtsReply.refuses_eq_nil h),
        fun h => exec_atsResponse_of_refused hq hl rfl (AtsReply.refuses_ne_nil h)⟩⟩,
    fun s p a r leaf w e he => State.mem_tlb_cacheHost he, fun s p n h => State.sendQueued_held n h,
    fun s p n r ho he ha hq => State.sendQueued_send n ho he ha hq, fun _ _ => rfl,
    fun s p a q hq => ⟨exec_pageResponse_success hq, exec_pageResponse_success_off hq, exec_pageResponse_success_late hq,
      exec_pageResponse_invalid hq, exec_pageResponse_failure hq⟩,
    fun s a v i b x hv hx => State.refuse_of_access b hv hx, ?_, fun s p hb hp => exec_priEnable hb hp,
    fun s k f hf hr => ⟨exec_tileFill_allocates hf hr, exec_tileFill_of_resident hf hr, exec_tileFill_of_fails hf hr⟩,
    State.tagFail_keeps⟩
  · rw [exec_tlbInvalidate s x hb hp, if_pos hl]
  · rw [exec_tlbInvalidate s x hb hp, if_neg (by simp [hl]), if_pos hg]
  · rintro rfl
    rw [exec_invalidateDone hf hu, if_pos rfl]
  · rintro rfl hc
    rw [exec_invalidateDone hf hu, if_neg Bool.false_ne_true, hc, if_neg Bool.false_ne_true]
  · rintro s t a v i b e hv hx hl he rfl
    rw [State.refuse_of_logged b hv hx hl he]
    refine ⟨fun hs hp => if_pos ⟨hs, hp⟩, fun h => if_neg ?_⟩
    rintro ⟨hs, hp⟩
    rcases h with h | h
    · exact h hs
    · rw [h] at hp; cases hp

end Sys2Proof.Machine
end

section
/-! What the memory words of C do once their address passes its checks, and what its fences and waits wait for (R86 to R92, R149,
R156 to R163). -/

namespace Sys2Proof.Machine

open Sys2Proof

/-! ### Accesses of C that pass their checks -/

section Ready

variable {σ : State} {c : BitVec 4} {rs : List (BitVec 5)} {a : BitVec 5} {n m : Nat}

theorem State.gAccess_waits {send : Eff} (h : (σ.cur.sBusy rs || σ.cur.barred .C c.toNat) = true) :
    σ.gAccess c rs a n m send = .wait := if_pos (Bool.or_eq_true_iff.1 h)

theorem State.sAccess_waits {code : BitVec 2} {send : Space → Nat → Eff}
    (h : (σ.cur.sBusy rs || σ.cur.barred .C c.toNat) = true) : σ.sAccess code c rs a n m send = .wait :=
  if_pos (Bool.or_eq_true_iff.1 h)

variable (hb : σ.cur.sBusy rs = false) (hc : σ.cur.barred .C c.toNat = false)
include hb hc

theorem State.gAccess_sends {send : Eff} (hm : (σ.cur.getS a).toNat % m = 0) (hg : σ.gCheck (σ.cur.getS a) n = none) :
    σ.gAccess c rs a n m send = send := by
  rw [State.gAccess, if_neg (by simp [hb, hc]), if_neg (not_not.2 hm), hg]

theorem State.sAccess_sends {code : BitVec 2} {send : Space → Nat → Eff} {sp : Space} {off : Nat}
    (h : σ.sPlace code (σ.cur.getS a) n = .ok (sp, off)) (hm : off % m = 0) :
    σ.sAccess code c rs a n m send = send sp off := by
  rw [State.sAccess, if_neg (by simp [hb, hc]), h]
  exact if_neg (not_not.2 hm)

end Ready

section Sent

variable {i : Instr} {tk : Tok} {c : BitVec 4} {rs : List (BitVec 5)} {a : BitVec 5} {n m : Nat} {s s1 : State} {x : BitVec 32}

/-- A load or atomic on G: whose address passes its checks begins, and hands its access over. -/
theorem gLoad_begins {sp : State → List Spec} {sc l : Nat} {d : Dest}
    (hi : ∀ σ, exec i σ = issue σ .C i tk 2 (fun σ _ =>
      σ.gAccess c rs a n m (σ.sendLoad .C (sp σ) c.toNat sc l d tk.push)))
    (h : Issues s .C i tk s1 x) (hb : s1.cur.sBusy rs = false) (hc : s1.cur.barred .C c.toNat = false)
    (hm : (s1.cur.getS a).toNat % m = 0) (hg : s1.gCheck (s1.cur.getS a) n = none) :
    exec i s = .next (s1.moved ((s1.cur.launch .C (sp s1) c.toNat sc l d true tk.push).begun s.now .C 2)) :=
  (hi s).trans (issue_late h (State.gAccess_sends hb hc hm hg))

/-- The same, on a scratchpad. -/
theorem sLoad_begins {code : BitVec 2} {sp : State → Space → Nat → List Spec} {sc l : Nat} {d : Dest}
    (hi : ∀ σ, exec i σ = issue σ .C i tk 2 (fun σ _ =>
      σ.sAccess code c rs a n m (fun r o => σ.sendLoad .C (sp σ r o) c.toNat sc l d tk.push)))
    (h : Issues s .C i tk s1 x) (hb : s1.cur.sBusy rs = false) (hc : s1.cur.barred .C c.toNat = false)
    {r : Space} {off : Nat} (hp : s1.sPlace code (s1.cur.getS a) n = .ok (r, off)) (hm : off % m = 0) :
    exec i s = .next (s1.moved ((s1.cur.launch .C (sp s1 r off) c.toNat sc l d true tk.push).begun s.now .C 2)) :=
  (hi s).trans (issue_late h (State.sAccess_sends hb hc hp hm))

theorem gAccess_word_waits {send : State → Eff}
    (hi : ∀ σ, exec i σ = issue σ .C i tk 2 (fun σ _ => σ.gAccess c rs a n m (send σ))) :
    Waits .C tk i (fun σ => σ.cur.sBusy rs || σ.cur.barred .C c.toNat) :=
  waits_of_effect hi fun _ _ h => State.gAccess_waits h

theorem sAccess_word_waits {code : BitVec 2} {send : State → Space → Nat → Eff}
    (hi : ∀ σ, exec i σ = issue σ .C i tk 2 (fun σ _ => σ.sAccess code c rs a n m (send σ))) :
    Waits .C tk i (fun σ => σ.cur.sBusy rs || σ.cur.barred .C c.toNat) :=
  waits_of_effect hi fun _ _ h => State.sAccess_waits h

/-- A store or reduction whose effect is to hand its accesses over has finished where it is plain, and begins where it is a
release. -/
theorem store_does {f : State → BitVec 32 → Eff} {sp : List Spec} {l : Nat} {sc : BitVec 3} (hi : ∀ σ, exec i σ = issue σ .C i tk 2 f)
    (h : Issues s .C i tk s1 x) (hf : f s1 x = s1.sendStore .C sp c.toNat sc.toNat l tk.push) :
    (sc = 0 → exec i s = .next (s1.moved
      ((s1.cur.launch .C sp c.toNat sc.toNat l .nothing false tk.push).finished s.now .C 2 tk.push 0))) ∧
    (sc ≠ 0 → exec i s = .next (s1.moved ((s1.cur.launch .C sp c.toNat sc.toNat l .nothing true tk.push).begun s.now .C 2))) :=
  ⟨fun h0 => (hi s).trans (issue_go h (hf.trans (State.sendStore_plain h0))),
    fun h0 => (hi s).trans (issue_late h (hf.trans (State.sendStore_release h0)))⟩

end Sent

/-- A fence bars a class while it waits for an earlier access of its classes. -/
theorem Core.barred_iff (c : Core) (st : Stream) (k : Nat) :
    c.barred st k = true ↔ ∃ f ∈ c.fences, f.st = st ∧ fld f.mask k 1 = 1 ∧ c.fenceWaits f = true := by
  simp [Core.barred, and_assoc]

/-- Settles O17: the words share two effects, one for G: and one for the scratchpads; each hands its access over where the checks
pass. -/
theorem controlLoadsAndAtomics : Obligations.ControlLoadsAndAtomics := by
  unfold Obligations.ControlLoadsAndAtomics
  simp only [List.forall_mem_cons, List.not_mem_nil, false_implies, implies_true, and_true]
  refine ⟨?_, ?_, ?_, ?_, ?_, Core.barred_iff⟩
  · intro tk d a c s l z σ σ1 x h hr
    simp only [Bool.and_eq_true, Bool.not_eq_true', Option.isNone_iff_eq_none] at hr
    obtain ⟨⟨hb, hc⟩, hg⟩ := hr
    exact (gLoad_begins (exec_ld_gAccess tk d a c s z l) h hb hc (Nat.mod_one _) hg :)
  · intro tk d a c s e z σ σ1 x sp off h hb hc hp
    exact (sLoad_begins (exec_ldl_sAccess tk d a c s z e) h hb hc hp (Nat.mod_one _) :)
  · intro tk d a c s o z σ σ1 x h hr
    simp only [Bool.and_eq_true, Bool.not_eq_true', decide_eq_true_eq, Option.isNone_iff_eq_none] at hr
    obtain ⟨⟨⟨hb, hc⟩, hm⟩, hg⟩ := hr
    exact (gLoad_begins (exec_amoG_gAccess tk d a c o s z) h hb hc hm hg :)
  · exact fun tk d a c s o z σ σ1 x sp off =>
      ⟨fun h hb hc hp hm => (sLoad_begins (exec_amoS_sAccess tk d a c o s z) h hb hc hp hm :),
        fun h hb hc hp hm => (sLoad_begins (exec_amoSg_sAccess tk d a c o s z) h hb hc hp hm :)⟩
  · exact fun tk d a c o s z l w =>
      ⟨gAccess_word_waits (exec_ld_gAccess tk d a c s z l), sAccess_word_waits (exec_ldl_sAccess tk d a c s z l),
        gAccess_word_waits (exec_amoG_gAccess tk d a c o s w), sAccess_word_waits (exec_amoS_sAccess tk d a c o s w),
        sAccess_word_waits (exec_amoSg_sAccess tk d a c o s w)⟩

/-- Settles O18: each word hands over its access once its address passes its checks, and whether it has finished then is its
scope's alone. -/
theorem controlStoresAndReductions : Obligations.ControlStoresAndReductions := by
  unfold Obligations.ControlStoresAndReductions
  simp only [List.forall_mem_cons, List.not_mem_nil, false_implies, implies_true, and_true]
  refine fun tk d a c s l z r t => ⟨⟨?_, ?_⟩, ⟨?_, ?_⟩, ?_, ?_⟩
  · exact gAccess_word_waits (exec_st_gAccess tk d a c s z l)
  · intro σ σ1 x sp h hb hc hs
    split at hs
    · cases hs
    · next hg =>
      cases hs
      have hn : σ1.gCheck (σ1.cur.getS a) (sizeBytes z) = none := by simpa using hg
      exact store_does (exec_st_gAccess tk d a c s z l) h (State.gAccess_sends hb hc (Nat.mod_one _) hn)
  · exact sAccess_word_waits (exec_stl_sAccess tk d a c s z l)
  · intro σ σ1 x sp h hb hc hs
    split at hs
    · next hp =>
      cases hs
      exact store_does (exec_stl_sAccess tk d a c s z l) h (State.sAccess_sends hb hc hp (Nat.mod_one _))
    · cases hs
  · exact gAccess_word_waits (exec_redf_gAccess tk d a c s r t)
  · intro σ σ1 x sp h hb hc hs
    split at hs
    · cases hs
    · next hg =>
      cases hs
      obtain ⟨hn, hm⟩ : σ1.gCheck (σ1.cur.getS a) 4 = none ∧ (σ1.cur.getS a).toNat % 4 = 0 := by simpa using hg
      exact store_does (exec_redf_gAccess tk d a c s r t) h (State.gAccess_sends hb hc hm hn)

end Sys2Proof.Machine
end

section
/-! Fences and waits of C (R89, R92, R131, R161 to R163). -/

namespace Sys2Proof.Machine

open Sys2Proof

/-! ### Fences (R92, R161) -/

/-- A fence puts itself on its core and leaves a record: always where it waits, else as any event is noted. -/
theorem State.fenced_eq (σ : State) (st : Stream) (m : BitVec 16) (s : BitVec 3) {f : Fence} (hf : f = ⟨σ.cur.nextId, st, m.toNat⟩) :
    σ.fenced st m s = (if σ.cur.fenceWaits f then σ.record (σ.fenceEv st m s) else σ.note (σ.fenceEv st m s)).setCore σ.turn.core
      (σ.cur.fencedBy f) := by
  subst hf
  unfold State.fenced
  dsimp only
  split
  · rfl
  · exact State.note_setCore ..

theorem exec_fence {s s1 : State} {tk : Tok} {m : BitVec 16} {sc : BitVec 3} {x : BitVec 32} {f : Fence}
    (h : Issues s .C (.fence tk m sc) tk s1 x) (hf : f = ⟨s1.cur.nextId, .C, m.toNat⟩) :
    exec (.fence tk m sc) s = .next ((if s1.cur.fenceWaits f then s1.record (s1.fenceEv .C m sc) else s1.note (s1.fenceEv .C m sc)).moved
      ((s1.cur.fencedBy f).finished s.now .C 2 tk.push 0)) := by
  have ht : (if s1.cur.fenceWaits f then s1.record (s1.fenceEv .C m sc) else s1.note (s1.fenceEv .C m sc)).turn = s1.turn := by
    split
    · rfl
    · exact State.turn_note ..
  exact issue_go_note h (f := fun σ _ => .go (σ.fenced .C m sc) 0) ht (by rw [State.fenced_eq s1 .C m sc hf, ht])

theorem Core.mem_fencedBy (c : Core) (f g : Fence) :
    g ∈ (c.fencedBy f).fences ↔ (g ∈ c.fences ∨ g = f) ∧ c.fenceWaits g = true := by
  have hnew : g ∈ (if c.fenceWaits f then [f] else []) ↔ g = f ∧ c.fenceWaits g = true := by
    split
    · next h => simpa using fun hg : g = f => hg ▸ h
    · next h => simpa using fun hg : g = f => hg ▸ Bool.eq_false_iff.2 h
  rw [Core.fencedBy, List.mem_append, List.mem_filter, hnew, or_and_right]

theorem Core.fenceWaits_iff (c : Core) (f : Fence) : c.fenceWaits f = true ↔
    (∃ b ∈ c.acc, b.st = f.st ∧ b.id < f.id ∧ fld f.mask b.cls 1 = 1 ∧ c.holds b = false) ∨
    (∃ e ∈ c.slog, e.acc.st = f.st ∧ e.acc.id < f.id ∧ fld f.mask e.acc.cls 1 = 1) := by
  simp [Core.fenceWaits, and_assoc]

/-- Whether the fences of a core let an access perform (R92). -/
def Core.passesFences (c : Core) (a : Acc) : Bool :=
  c.fences.all (fun f => f.st != a.st || decide (a.id < f.id) || fld f.mask a.cls 1 == 0 || !c.fenceWaits f)

/-- An access may perform where the fences let it and, without them, it may. -/
theorem Core.mayPerform_eq (v : Nat) (c : Core) (a : Acc) :
    c.mayPerform v a = ({ c with fences := [] }.mayPerform v a && c.passesFences a) := by
  have hfol : c.follows v a = ({ c with fences := [] }.follows v a && c.passesFences a) := by
    rw [Core.follows, Core.follows, List.all_nil, Bool.and_true]
    rfl
  rw [Core.mayPerform, Core.mayPerform, hfol]
  ac_rfl

/-- A fence that an access follows and that orders its class keeps it from performing while it waits. -/
theorem Core.mayPerform_of_fence {c : Core} {a : Acc} {f : Fence} (v : Nat) (hf : f ∈ c.fences) (hs : f.st = a.st)
    (hi : f.id ≤ a.id) (hm : fld f.mask a.cls 1 = 1) (hw : c.fenceWaits f = true) : c.mayPerform v a = false := by
  have hp : c.passesFences a = false := List.all_eq_false.2 ⟨f, hf, by simp [hs, hm, hw, Nat.not_lt.2 hi]⟩
  rw [Core.mayPerform_eq, hp, Bool.and_false]

/-- Fences that do not order an access's class let it pass. -/
theorem Core.mayPerform_of_no_fence {c : Core} {a : Acc} (v : Nat) (h : ∀ f ∈ c.fences, f.st = a.st → fld f.mask a.cls 1 = 0) :
    c.mayPerform v a = { c with fences := [] }.mayPerform v a := by
  have hp : c.passesFences a = true := by
    refine List.all_eq_true.2 fun f hf => ?_
    by_cases hs : f.st = a.st
    · simp [h f hf hs]
    · simp [hs]
  rw [Core.mayPerform_eq, hp, Bool.and_true]

/-! ### Invalidation of the instruction cache (R131, R162) -/

theorem Strm.stale_lbOk (tick p : Nat) (cache : Tab Half) (r : Strm) : (r.stale tick p cache).lbOk = false := by
  unfold Strm.stale
  dsimp only
  split <;> rfl

theorem Strm.stale_blk (tick p : Nat) (cache : Tab Half) (r : Strm) : (r.stale tick p cache).blk = r.blk := by
  unfold Strm.stale
  dsimp only
  split <;> rfl

theorem Core.str_refetched (tick p : Nat) (c : Core) (st : Stream) :
    (c.refetched tick p).str st = (c.str st).stale tick p c.icache := by
  cases st <;> exact Vector.getElem_map ..

theorem exec_ifence_observes (tk : Tok) : Observes .C 2 tk (.ifence tk) (fun σ => σ.cur.drained .C) (fun σ => σ.ifenceEv)
    (fun σ => σ.cur.refetched σ.tick (σ.partOf σ.turn.core)) := fun s s1 x h hr => by
  rw [exec, execIfence]
  refine issue_go_note h (State.turn_note ..) ?_
  rw [if_pos hr, onCore, State.cur_note]

theorem exec_ifence_waits (tk : Tok) : Waits .C tk (.ifence tk) (fun σ => !σ.cur.drained .C) :=
  waits_of_effect (f := fun σ _ => if σ.cur.drained .C then
      onCore (σ.note σ.ifenceEv) (Core.refetched σ.tick (σ.partOf σ.turn.core)) else .wait)
    (fun _ => rfl) fun _ _ h => if_neg (by simpa using h)

/-! ### `waitw` (R89, R163) -/

/-- A `waitw` may read its word: nothing that it names awaits a value, no fence keeps its class, and every earlier access that its
read follows has performed. -/
def State.waitReady (σ : State) (a b : BitVec 5) (k : BitVec 4) (s : BitVec 3) : Bool :=
  !σ.cur.sBusy [a, b] && !σ.cur.barred .C k.toNat &&
    σ.cur.mayPerform σ.turn.core (σ.cur.atIssue σ.turn.core (σ.cur.getS a).toNat 4 k.toNat s.toNat)

/-- What a `waitw` does that finds none armed. -/
def State.waitEff (σ : State) (tk : Tok) (b a : BitVec 5) (k : BitVec 4) (s w : BitVec 3) : Eff :=
  let off := (σ.cur.getS a).toNat
  let x := (σ.cur.getS b).setWidth 32
  if !σ.waitReady a b k s then .wait
  else if 0x40000 ≤ off ∨ off % 4 ≠ 0 then .fault .addressing 0
  else if waitCond w.toNat (σ.cur.sWord off) x then
    onCore (σ.note (σ.waitEv σ.turn.core off k.toNat s.toNat σ.cur.nextId)) (fun k => k.advance .C 2)
  else .late (σ.setCore σ.turn.core { σ.cur with
    waitw := some ⟨off, w.toNat, x, tk.push, false, k.toNat, s.toNat, σ.cur.nextId⟩, nextId := σ.cur.nextId + 1 })

section Waitw

variable {tk : Tok} {b a : BitVec 5} {k : BitVec 4} {s w : BitVec 3} {σ σ1 : State} {x : BitVec 32}

theorem exec_waitw_unarmed (h : σ.cur.waitw = none) : exec (.waitw tk b a k s w) σ =
    issue σ .C (.waitw tk b a k s w) tk 0 (fun σ _ => σ.waitEff tk b a k s w) := by
  rw [exec, execWaitw, h]
  refine congrArg (issue σ .C (.waitw tk b a k s w) tk 0) (funext fun σ => funext fun _ => ?_)
  refine if_congr ?_ rfl (if_congr ?_ rfl rfl)
  · simp [State.waitReady, or_assoc]
  · exact or_congr_left (by omega)

theorem waitw_unarmed_of_issues (h : Issues σ .C (.waitw tk b a k s w) tk σ1 x) : exec (.waitw tk b a k s w) σ =
    issue σ .C (.waitw tk b a k s w) tk 0 (fun σ _ => σ.waitEff tk b a k s w) :=
  exec_waitw_unarmed (Core.waitw_of_canIssue h.can rfl)

theorem State.waitEff_reads (hr : σ.waitReady a b k s = true) (ho : (σ.cur.getS a).toNat < 0x40000 ∧ (σ.cur.getS a).toNat % 4 = 0) :
    σ.waitEff tk b a k s w =
      if waitCond w.toNat (σ.cur.sWord (σ.cur.getS a).toNat) ((σ.cur.getS b).setWidth 32) then
        onCore (σ.note (σ.waitEv σ.turn.core (σ.cur.getS a).toNat k.toNat s.toNat σ.cur.nextId)) (fun k => k.advance .C 2)
      else .late (σ.setCore σ.turn.core { σ.cur with
        waitw := some ⟨(σ.cur.getS a).toNat, w.toNat, (σ.cur.getS b).setWidth 32, tk.push, false, k.toNat, s.toNat, σ.cur.nextId⟩
        nextId := σ.cur.nextId + 1 }) := by
  rw [State.waitEff, if_neg (by simp [hr]), if_neg (by omega)]

theorem exec_waitw_finishes (h : Issues σ .C (.waitw tk b a k s w) tk σ1 x) (hr : σ1.waitReady a b k s = true)
    (ho : (σ1.cur.getS a).toNat < 0x40000 ∧ (σ1.cur.getS a).toNat % 4 = 0)
    (hc : waitCond w.toNat (σ1.cur.sWord (σ1.cur.getS a).toNat) ((σ1.cur.getS b).setWidth 32) = true) :
    exec (.waitw tk b a k s w) σ =
      .next ((σ1.note (σ1.waitEv σ1.turn.core (σ1.cur.getS a).toNat k.toNat s.toNat σ1.cur.nextId)).moved
        ((σ1.cur.advance .C 2).finished σ.now .C 0 tk.push 0)) := by
  rw [waitw_unarmed_of_issues h]
  refine issue_go_note h (State.turn_note ..) ?_
  rw [State.waitEff_reads hr ho, if_pos hc, onCore, State.cur_note]

theorem exec_waitw_arms (h : Issues σ .C (.waitw tk b a k s w) tk σ1 x) (hr : σ1.waitReady a b k s = true)
    (ho : (σ1.cur.getS a).toNat < 0x40000 ∧ (σ1.cur.getS a).toNat % 4 = 0)
    (hc : waitCond w.toNat (σ1.cur.sWord (σ1.cur.getS a).toNat) ((σ1.cur.getS b).setWidth 32) = false) :
    exec (.waitw tk b a k s w) σ = .next (σ1.moved (Core.begun { σ1.cur with
        waitw := some ⟨(σ1.cur.getS a).toNat, w.toNat, (σ1.cur.getS b).setWidth 32, tk.push, false, k.toNat, s.toNat, σ1.cur.nextId⟩
        nextId := σ1.cur.nextId + 1 } σ.now .C 0)) := by
  rw [waitw_unarmed_of_issues h]
  refine issue_late h ?_
  rw [State.waitEff_reads hr ho, if_neg (by simp [hc])]

theorem exec_waitw_waits (h : Issues σ .C (.waitw tk b a k s w) tk σ1 x) (hr : σ1.waitReady a b k s = false) :
    exec (.waitw tk b a k s w) σ = .next σ := by
  rw [waitw_unarmed_of_issues h]
  exact issue_wait h (if_pos (by simp [hr]))

theorem exec_waitw_faults (h : Issues σ .C (.waitw tk b a k s w) tk σ1 x) (hr : σ1.waitReady a b k s = true)
    (ho : 0x40000 ≤ (σ1.cur.getS a).toNat ∨ (σ1.cur.getS a).toNat % 4 ≠ 0) :
    exec (.waitw tk b a k s w) σ = .next (σ.park σ.turn.core (σ.cur.recOf .C .addressing 0)) := by
  rw [waitw_unarmed_of_issues h]
  refine issue_fault h ?_
  rw [State.waitEff, if_neg (by simp [hr]), if_pos ho]

/-- An armed `waitw` finishes once a write has met its condition. -/
theorem exec_waitw_armed {r : WaitW} (h : σ.cur.waitw = some r) (hm : σ.cur.moves .C = true) :
    exec (.waitw tk b a k s w) σ = .next (if r.met then
      σ.moved (({ σ.cur with waitw := none }.advance .C 2).push .C r.push 0) else σ) := by
  rw [exec, execWaitw, h]
  dsimp only
  split
  · next hc => rw [if_pos hc.1]; rfl
  · next hc => rw [if_neg fun hr => hc ⟨hr, hm⟩]

end Waitw

theorem Core.setBytes_S_waitw (c : Core) (a : Nat) (d : List Byte) : (c.setBytes .S a d).waitw = c.waitw := by
  induction d generalizing c a with
  | nil => rfl
  | cons v vs ih => exact ih ..

/-- A write to S tests the word of an armed `waitw`. -/
theorem Core.waitw_writeS {c : Core} {r : WaitW} (off : Nat) (d : List Byte) (h : c.waitw = some r) : (c.writeS off d).waitw =
    some (if meets off d.length r.addr 4 && waitCond r.cond ((c.setBytes .S off d).sWord r.addr) r.cmp then { r with met := true } else r) := by
  simp only [Core.writeS, Core.setBytes_S_waitw, h, Option.map_some, Bool.and_eq_true]

/-- The conditions of a `waitw`, by their codes (R163). -/
theorem waitCond_codes (w x : BitVec 32) : waitCond 0 w x = decide (w = x) ∧ waitCond 1 w x = decide (w ≠ x) ∧
    waitCond 2 w x = decide (x.toNat ≤ w.toNat) ∧ waitCond 3 w x = decide (w.toNat < x.toNat) := by
  refine ⟨rfl, ?_, ?_, rfl⟩
  · rw [waitCond, Bool.eq_iff_iff, bne_iff_ne, decide_eq_true_iff]
  · rw [waitCond, Bool.eq_iff_iff, Bool.not_eq_true', BitVec.ult_eq_decide, decide_eq_false_iff_not, Nat.not_lt, decide_eq_true_iff]

/-- Settles O20: a fence by what it leaves on its core and by what `mayPerform` asks of it, `ifence` and an unarmed `waitw` by their
effects, and an armed one by what a write to S makes of it. -/
theorem controlFencesAndWaits : Obligations.ControlFencesAndWaits := by
  unfold Obligations.ControlFencesAndWaits
  refine ⟨fun tk m s σ s1 x f h hf => exec_fence h hf, fun c f g => ⟨c.mem_fencedBy f g, rfl⟩,
    fun v c a f => ⟨Core.mayPerform_of_fence v, Core.mayPerform_of_no_fence v, c.fenceWaits_iff f⟩,
    fun tk => ⟨exec_ifence_observes tk, exec_ifence_waits tk⟩,
    fun tick p c st => ⟨rfl, ?_, ?_, rfl⟩, ?_, fun c off d r h => Core.waitw_writeS off d h, waitCond_codes⟩
  · rw [Core.str_refetched, Strm.stale_lbOk]
  · rw [Core.str_refetched, Strm.stale_blk]
  · intro tk b a k s w ready holds off hoff hready hholds
    obtain rfl : off = fun σ => (σ.cur.getS a).toNat := funext hoff
    obtain rfl : ready = fun σ => σ.waitReady a b k s := funext hready
    obtain rfl : holds = fun σ => waitCond w.toNat (σ.cur.sWord (σ.cur.getS a).toNat) ((σ.cur.getS b).setWidth 32) := funext hholds
    refine ⟨fun σ σ1 x h hr => ?_, fun σ σ1 x h hr => ?_, fun σ σ1 x h hr => ?_, fun σ σ1 x h hr => ?_,
      fun σ r h hm => exec_waitw_armed h hm⟩
    all_goals simp only [Bool.and_eq_true, Bool.not_eq_true', decide_eq_true_eq] at hr
    · exact exec_waitw_finishes h hr.1.1 hr.1.2 hr.2
    · exact exec_waitw_waits h hr
    · exact exec_waitw_arms h hr.1.1 hr.1.2 hr.2
    · exact exec_waitw_faults h hr.1 hr.2

end Sys2Proof.Machine
end

section
/-! Engine commands as they release, deliver, leave their slots and fault; engines as they wake, hold, are leased and are recalled
(R94, R106, R110 to R118, R307, R328 to R330, R371). -/

namespace Sys2Proof.Machine

open Sys2Proof

/-! ### What the work of a command leaves as it is -/

/-- A state without what the work of a command changes: what accesses change, and the cores. -/
def State.uncored (s : State) : State := { s.bare with cores := [] }

section Landing

variable {s : State}

theorem State.uncored_of_bare {t : State} (h : t.bare = s.bare) : t.uncored = s.uncored := by
  rw [State.uncored, h, State.uncored]

theorem State.engines_of_uncored {t : State} (h : t.uncored = s.uncored) : t.engines = s.engines :=
  (congrArg State.engines h :)

theorem State.ecmds_of_uncored {t : State} (h : t.uncored = s.uncored) : t.ecmds = s.ecmds := (congrArg State.ecmds h :)

theorem State.uncored_noteMet (v : Nat) (c : Core) : (s.noteMet v c).uncored = s.uncored :=
  State.uncored_of_bare (foldl_bare (fun _ _ => State.bare_note _) _ _)

theorem State.uncored_bufAcc (ag : Agent) (v : Nat) (b : Buf) (off n : Nat) (k : AccKind) :
    (s.bufAcc ag v b off n k).1.uncored = s.uncored := by
  unfold State.bufAcc
  dsimp only
  split
  · split
    · rfl
    · exact State.uncored_of_bare (State.bare_look ..)
  · split
    · rfl
    · refine (State.uncored_noteMet ..).trans (?_ : _ = (s.setCore v _).uncored)
      exact State.uncored_of_bare (State.bare_wrote ..)

theorem State.bare_writeTo (ag : Agent) (p va pol : Nat) (t : Place) (d : List Byte) (whole : Bool) :
    (s.writeTo ag p va pol t d whole).state.bare = s.bare := by
  unfold State.writeTo
  exact MRes.bare_ite rfl (MRes.bare_ite (State.bare_hostAcc ..) (MRes.bare_bind (State.bare_reach ..)
    fun _ _ => (State.bare_leave ..).trans (State.bare_put ..)))

theorem State.uncored_writeGrain (ag : Agent) (v pol : Nat) (g : Grain) (d : List Byte) (whole : Bool) :
    (s.writeGrain ag v pol g d whole).state.uncored = s.uncored := by
  unfold State.writeGrain
  split
  · exact State.uncored_of_bare (State.bare_writeTo ..)
  · rfl
  · exact State.uncored_bufAcc ..
  · exact State.uncored_bufAcc ..

theorem State.uncored_landAll (ag : Agent) (v pol : Nat) (late : Bool) (dat : Grain → Option (List Byte)) (gs : List Grain) :
    ∀ (s : State) (ds : List Grain), (State.landAll ag v pol late dat gs s ds).1.uncored = s.uncored := by
  induction gs with
  | nil => exact fun _ _ => rfl
  | cons g gs ih =>
    intro s ds
    rw [State.landAll]
    split
    · exact ih _ _
    · split
      · exact ih _ _
      · next h d whole _ _ =>
        have hw := State.uncored_writeGrain (s := s) ag v pol h d whole
        split
        · next hr => exact (ih _ _).trans (by rwa [hr] at hw)
        · next hr => exact (ih _ _).trans (by rwa [hr] at hw)
        · exact ih _ _

theorem State.uncored_landSome (sv : Server) (w : Work) : (s.landSome sv w).1.uncored = s.uncored := State.uncored_landAll ..

end Landing

/-! ### Recalls (R116) -/

section Recall

variable {s : State} {e : Nat}

/-- A command that a recall ends goes, and no engine changes by it. -/
theorem State.endCommand_parks (s : State) (c : ECmd) : (s.endCommand c true).engines = s.engines ∧
    (s.endCommand c true).ecmds = s.ecmds.filter (fun x => x.id != c.id) := by
  have hl := State.uncored_landSome (s := s) (s.eServer c) c.work
  exact ⟨(State.engines_of_uncored hl :), congrArg (List.filter fun x : ECmd => x.id != c.id) (State.ecmds_of_uncored hl)⟩

theorem State.endCommands_park (l : List ECmd) : ∀ s : State,
    (l.foldl (fun s c => s.endCommand c true) s).engines = s.engines ∧
    ∀ x ∈ (l.foldl (fun s c => s.endCommand c true) s).ecmds, x ∈ s.ecmds ∧ ∀ c ∈ l, x.id ≠ c.id := by
  induction l with
  | nil => exact fun s => ⟨rfl, fun x hx => ⟨hx, fun c hc => nomatch hc⟩⟩
  | cons c l ih =>
    intro s
    obtain ⟨he, hc⟩ := s.endCommand_parks c
    obtain ⟨hes, hcs⟩ := ih (s.endCommand c true)
    refine ⟨hes.trans he, fun x hx => ?_⟩
    obtain ⟨hx1, hx2⟩ := hcs x hx
    rw [hc, List.mem_filter, bne_iff_ne] at hx1
    exact ⟨hx1.1, List.forall_mem_cons.2 ⟨hx1.2, hx2⟩⟩

theorem State.engine_setEngine (hs : s.engines.sorted = true) (x : Engine) : (s.setEngine e x).engine e = x := Tab.get_set_same hs

theorem State.recall_awake (h : (s.engine e).wake ≠ .asleep) : s.recall e =
    (s.ecmds.filter (fun c => c.eng == e && (!c.delivered || c.occupying))).foldl (fun s c => s.endCommand c true)
      (s.setEngine e Engine.asleep) := if_neg h

theorem State.engine_recall (h : (s.engine e).wake ≠ .asleep) (hs : s.engines.sorted = true) :
    (s.recall e).engine e = Engine.asleep := by
  rw [State.recall_awake h, State.engine, (State.endCommands_park _ _).1]
  exact State.engine_setEngine hs _

/-- What a recall leaves of an engine's commands: those that have delivered and left their slots, whose writes are on their way. -/
theorem State.ecmds_recall (h : (s.engine e).wake ≠ .asleep) {c : ECmd} (hc : c ∈ (s.recall e).ecmds) (he : c.eng = e) :
    c.delivered = true ∧ c.occupying = false := by
  rw [State.recall_awake h] at hc
  obtain ⟨hm, hid⟩ := (State.endCommands_park _ _).2 c hc
  by_contra hn
  refine hid c (List.mem_filter.2 ⟨hm, ?_⟩) rfl
  cases hd : c.delivered <;> cases ho : c.occupying <;> simp_all

end Recall

/-! ### Events of a started command (R94, R106, R371) -/

section Events

variable {s : State} {k : Nat} {c : ECmd} (hk : s.ecmd k = some c) (hs : c.started = true)
include hk hs

theorem exec_engineReleased (hr : c.releases = true) (hn : c.released = false) (hd : c.dead = false) (hsrc : c.sourceRead = true)
    (hp : c.passed = true ∨ c.cls = 5 ∧ c.cmd = 2) (hm : (s.core c.core).mayComplete s.clock (hdrIs c.hdr) = true) :
    exec (.engineReleasedEvent k) s = .next
      ((s.setEcmd { c with released := true }).completed c.core (eThread k) 1 16 (hdrScope c.hdr) (hdrKs c.hdr) (hdrIs c.hdr)
        ({ c with released := true }.record .counterOverflow 0 0)) := by
  rw [exec, execEngineReleasedEvent, hk]
  exact if_pos ⟨hr, by simp [hn], by simp [hd], hs, hsrc, hp, hm⟩

/-- A command that has performed delivers; a posted buffer is then no longer posted. -/
theorem exec_engineDelivered (hn : c.delivered = false) (hd : c.dead = false) (hr : c.released = true ∨ c.releases = false)
    (hp : c.passed = true) (ha : s.eArrived c = true) (hm : (s.core c.core).mayComplete s.clock (hdrId c.hdr) = true) :
    exec (.engineDeliveredEvent k) s = .next
      ((if c.cls = 5 ∧ c.cmd = 2 then
          (s.setEcmd { c with delivered := true }).setUe (c.f 0 24)
            { (s.setEcmd { c with delivered := true }).ue (c.f 0 24) with
              posts := ((s.setEcmd { c with delivered := true }).ue (c.f 0 24)).posts.filter (fun p => p.cmd != c.id) }
        else s.setEcmd { c with delivered := true }).completed
        c.core (eThread k) 3 16 (hdrScope c.hdr) (hdrKd c.hdr) (hdrId c.hdr)
        ({ c with delivered := true }.record .counterOverflow 0 0)) := by
  rw [exec, execEngineDeliveredEvent, hk]
  dsimp only
  rw [if_neg (by simp [hn]), if_pos ⟨by simp [hd], hs, by simpa using hr, hp, ha, hm⟩]

omit hs in
theorem exec_engineDelivered_early (hn : c.delivered = false) (hp : c.passed = false) : exec (.engineDeliveredEvent k) s = .next s := by
  rw [exec, execEngineDeliveredEvent, hk]
  dsimp only
  rw [if_neg (by simp [hn]), if_neg (by simp [hp])]

omit hs in
theorem exec_engineDelivered_late (hn : c.delivered = true) : ∀ t w, s.landSome (s.eServer c) c.work = (t, w) →
    exec (.engineDeliveredEvent k) s = .next ((t.setEcmd { c with work := w }).flushAt c.core) := by
  intro t w hl
  rw [exec, execEngineDeliveredEvent, hk]
  dsimp only
  rw [if_pos hn, hl]

theorem exec_engineOccupancyEnd_of_occupying (ho : c.occupying = true) :
    exec (.engineOccupancyEnd k) s = .next (s.setEcmd { c with ending := true }) := by
  rw [exec, execEngineOccupancyEnd, hk]
  exact if_pos ⟨hs, ho⟩

end Events

/-! ### Faults in service (R118, R307) -/

theorem State.setEcmd_cores (s : State) (c : ECmd) : (s.setEcmd c).cores = s.cores := by
  unfold State.setEcmd
  split
  · obtain ⟨g, hg⟩ := State.mayDoze_eq { s with ecmds := s.ecmds.filter (fun x => x.id != c.id) } c.eng
    rw [hg]
  · rfl

/-- The fault of a command parks its core with the command's record. -/
theorem State.eFault_parks {t : State} {c : ECmd} (cause : Cause) (a : Nat) (hr : (t.core c.core).st = .running) :
    ((t.eFault c cause a).core c.core).st = .parked ∧
    ((t.eFault c cause a).core c.core).causes = (t.core c.core).causes ++ [c.record cause a c.work.mask] := by
  unfold State.eFault
  dsimp only
  generalize (if c.cls = 1 then c.work.marked.flatMap (fun e => pagesOf e.2.2 e.2.1) else pagesOf cause a) = ps
  generalize hc1 : ({ c with faulted := true, ending := true, step := if c.cls = 1 then 1 else c.step } : ECmd) = c1
  have hcore : (((t.unfail numCores c.id).setEcmd c1).core c.core) = t.core c.core := by
    rw [State.core, State.setEcmd_cores, State.core]
    rfl
  rw [State.core_setCore, hcore]
  have hst : ((t.core c.core).waitOn ps).st = .running := hr
  exact Core.park_records _ _ (by simp [hst]) (by simp [hst])

section Fault

variable {s : State} {k : Nat} {c : ECmd} {t : State} {m : ECmd} {cause : Cause} {a : Nat}

theorem State.serviceFault_cmd (hc : c.cls ≠ 1) (hf : s.serviceFault c = some (t, m, cause, a)) : m = c := by
  rw [State.serviceFault, if_neg hc] at hf
  obtain ⟨f, -, he⟩ := Option.map_eq_some_iff.1 hf
  cases he
  rfl

theorem exec_engineServiceFault_of_fault (hk : s.ecmd k = some c) (hc : c.cls ≠ 1) (hs : s.servable c c.cls c.cmd = true)
    (hf : s.serviceFault c = some (t, m, cause, a)) : exec (.engineServiceFault k) s = .next (t.eFault m cause a) := by
  have hg : s.regather c = c := if_neg fun h => hc h.1
  have hs' := hs
  simp only [State.servable, Bool.and_eq_true, Bool.not_eq_true'] at hs'
  obtain ⟨⟨⟨⟨⟨-, hstart⟩, hdel⟩, hdead⟩, -⟩, -⟩ := hs'
  rw [exec, execEngineServiceFault, hk]
  dsimp only
  rw [hg, if_neg (by simp [hstart, hdel, hdead, hc, hs]), hf]

end Fault

/-! ### Wakes, holds, leases and caps (R110, R113 to R115, R328 to R330) -/

section Engines

variable {s : State} {e p : Nat}

theorem exec_engineWakeDone_of_waking (h : (s.engine e).wake = .waking) : exec (.engineWakeDone e) s = .next
    { s.setEngine e { s.engine e with wake := .awake } with
      ecmds := s.ecmds.map (fun c => if c.eng = e then { c with started := true } else c) } := by
  rw [exec, execEngineWakeDone]
  exact if_pos h

theorem engineWakeDone_wakes (h : (s.engine e).wake = .waking) : ∃ t, exec (.engineWakeDone e) s = .next t ∧
    (t.engine e).wake = .awake ∧ (t.engine e).leases = (s.engine e).leases ∧ ∀ c ∈ t.ecmds, c.eng = e → c.started = true := by
  refine ⟨_, exec_engineWakeDone_of_waking h, ?_⟩
  have hx : ({ s.engine e with wake := .awake } : Engine) ≠ Engine.asleep := fun hx => nomatch congrArg Engine.wake hx
  have he : (s.setEngine e { s.engine e with wake := .awake }).engine e = { s.engine e with wake := .awake } := Tab.get_set_of_ne hx
  refine ⟨(congrArg Engine.wake he :), (congrArg Engine.leases he :), fun c hc hce => ?_⟩
  obtain ⟨d, -, rfl⟩ := List.mem_map.1 hc
  split at hce
  · next hd => rw [if_pos hd]
  · next hd => exact absurd hce hd

theorem State.makeHold_makes {v : Nat} (hx : engExists e = true) (ha : (s.engine e).wake = .awake)
    (hl : (s.engine e).heldLap ≠ s.slot / 512 + 1) (hfree : 1 ≤ s.freeSlots e) (hf : s.engFresh e = true)
    (hn : nextMarked (domBase e) (domSize e) (s.engine e).ptr (s.engine e).marked = some v) :
    s.makeHold e = s.setEngine e { s.engine e with
      ptr := (v - domBase e + 1) % domSize e, holds := (s.engine e).holds ++ [⟨v, s.slot⟩], heldLap := s.slot / 512 + 1 } := by
  rw [State.makeHold, if_pos hf, State.holdNow]
  dsimp only
  rw [if_pos ⟨hx, ha, hl, hfree⟩, hn]

theorem State.lapseHold_of_held {h : Hold} {r : List Hold} (hh : (s.engine e).holds = h :: r) : s.lapseHold e =
    if h.made + 512 ≤ s.slot then (s.setEngine e { s.engine e with holds := r }).clearMarks h.core (engCls e) else s := by
  rw [State.lapseHold, hh]

theorem engExists_iff : engExists e = true ↔ e / 2 ^ 16 = 0 ∧ fld e 4 3 = 0 ∧ fld e 0 4 < clsCount (engCls e) ∧
    (if clsComb (engCls e) then fld e 10 4 == 15 else decide (fld e 10 4 ≤ 11)) = true := by
  simp [engExists, and_assoc]

theorem exec_standingLeaseGrant_malformed (hb : s.barOpen = true) (h : e / 2 ^ 16 ≠ 0 ∨ 6 ≤ engCls e) :
    exec (.standingLeaseGrant e p) s = .next (s.setReg lseCres 13) := by
  rw [exec, execStandingLeaseGrant]
  dsimp only
  rw [if_neg (by simp [hb]), if_pos (h.imp_right .inl)]
  rfl

/-- A standing lease on an engine of a cluster that the partition owns, and that no change is under way for, is granted or refused
by the budgets. -/
theorem exec_standingLeaseGrant_owned (hb : s.barOpen = true) (hx : engExists e = true) (hc : clsComb (engCls e) = false)
    (ho : s.owner (engCluster e) = some p) (hch : s.changing (engCluster e) = false)
    (hl : (s.engine e).leases.contains (.standing p) = false) (h6 : engCls e < 6) :
    exec (.standingLeaseGrant e p) s = .next
      ((s.grantLease p (.standing p) e).1.setReg lseCres (BitVec.ofNat 64 (8 + (s.grantLease p (.standing p) e).2))) := by
  obtain ⟨h16, h4, -, -⟩ := engExists_iff.1 hx
  rw [exec, execStandingLeaseGrant]
  dsimp only
  rw [if_neg (by simp [hb]), if_neg (by omega), if_neg (by simp [hx, hc, ho, hch]),
    if_neg (by simpa using hl)]
  rfl

theorem State.writeCap_stores {off : Nat} {x : BitVec 64} (h : x.toNat ≤ 4000) :
    s.writeCap off x = State.fitPool (s.engines.length + 1) (s.setReg off x) := if_neg (Nat.not_lt.2 h)

theorem State.writeCap_refuses {off : Nat} {x : BitVec 64} (h : 4000 < x.toNat) : s.writeCap off x = s.orReg lseEvt 2 := if_pos h

theorem exec_lsePccapWrite_open (hb : s.barOpen = true) (hc : s.capTurn = true) (x : BitVec 64) :
    exec (.lsePccapWrite x) s = .next (s.writeCap lsePccap x) := by
  rw [exec, execLsePccapWrite, State.bar_open hb, if_pos hc]

theorem exec_lseSwcapWrite_open (hb : s.barOpen = true) (hc : s.capTurn = true) (x : BitVec 64) :
    exec (.lseSwcapWrite x) s = .next (s.writeCap lseSwcap x) := by
  rw [exec, execLseSwcapWrite, State.bar_open hb, if_pos hc]

end Engines

/-- Settles O53, clause by clause: each event asks its one condition; a fault parks the core that issued its command, and the commands
that a recall ends leave one after the other. -/
theorem enginesServeAndSleep : Obligations.EnginesServeAndSleep := by
  unfold Obligations.EnginesServeAndSleep
  refine ⟨fun s k c hk hs => ⟨exec_engineReleased hk hs, fun hn hd hr hp ha hnp hm => ?_, fun hn hd hr hp ha h5 h2 hm u hu => ?_,
      exec_engineDelivered_early hk, exec_engineDelivered_late hk, exec_engineOccupancyEnd_of_occupying hk hs,
      fun t m cause a hc hsv hf hr => ?_⟩,
    fun s e h => engineWakeDone_wakes h, fun s e v hx ha hl hfree hf hn => congrArg _ (State.makeHold_makes hx ha hl hfree hf hn),
    fun s e h r hh => congrArg _ (State.lapseHold_of_held hh),
    fun s e p hb => ⟨exec_standingLeaseGrant_malformed hb, fun hx hc ho hch hl h6 => exec_standingLeaseGrant_owned hb hx hc ho hch hl h6,
      congrArg _ (State.bar_open hb), fun hf => congrArg _ ((State.bar_open hb).trans (if_pos hf))⟩,
    fun s e h hs => ?_, fun s x hb hc => ⟨fun hx => ?_, fun hx => ?_⟩⟩
  · rw [exec_engineDelivered hk hs hn hd hr hp ha hm, if_neg hnp]
  · subst hu
    rw [exec_engineDelivered hk hs hn hd (.inl hr) hp ha hm, if_pos ⟨h5, h2⟩]
  · obtain rfl := State.serviceFault_cmd hc hf
    exact ⟨_, exec_engineServiceFault_of_fault hk hc hsv hf, State.eFault_parks cause a hr⟩
  · rw [State.engine_recall h hs]
    exact ⟨rfl, rfl, fun c => State.ecmds_recall h⟩
  · rw [exec_lsePccapWrite_open hb hc, exec_lseSwcapWrite_open hb hc, State.writeCap_stores hx, State.writeCap_stores hx]
    exact ⟨rfl, rfl⟩
  · rw [exec_lsePccapWrite_open hb hc, exec_lseSwcapWrite_open hb hc, State.writeCap_refuses hx, State.writeCap_refuses hx]
    exact ⟨rfl, rfl⟩

end Sys2Proof.Machine
end

section
/-! Insertion sorts: the lists of a select and the contributions of a collective (R122, R124), and free choices (R96). -/

namespace Sys2Proof.Machine

open Sys2Proof

/-! ### Free choices -/

/-- A free choice splits a list and loses nothing. -/
theorem chosen_perm {α : Type} (tick : Nat) (l : List α) (i : Nat) : ((chosen tick l i).1 ++ (chosen tick l i).2).Perm l := by
  induction l generalizing i with
  | nil => exact .refl _
  | cons w l ih =>
    rw [chosen]
    dsimp only
    split
    · exact (ih (i + 1)).cons w
    · exact List.perm_middle.trans ((ih (i + 1)).cons w)

/-! ### Insertion -/

section Insert

variable {α : Type} {p : α → α → Prop} [DecidableRel p] {R : α → α → Prop}

/-- Insertion keeps an order where the new element precedes what follows its place, and follows what it passes. -/
theorem pairwise_orderedInsert {e : α} {l : List α} (hl : l.Pairwise R)
    (hbefore : ∀ y ∈ l, p e y → R e y ∧ ∀ z, R y z → R e z) (hafter : ∀ y ∈ l, ¬p e y → R y e) :
    (l.orderedInsert p e).Pairwise R := by
  induction l with
  | nil => simp
  | cons y l ih =>
    obtain ⟨hy, hl'⟩ := List.pairwise_cons.1 hl
    rw [List.orderedInsert]
    split
    · next h =>
      obtain ⟨hey, hez⟩ := hbefore y List.mem_cons_self h
      exact List.pairwise_cons.2 ⟨List.forall_mem_cons.2 ⟨hey, fun z hz => hez z (hy z hz)⟩, hl⟩
    · next h =>
      refine List.pairwise_cons.2 ⟨fun z hz => ?_, ih hl' (fun z hz => hbefore z (List.mem_cons_of_mem _ hz))
        fun z hz => hafter z (List.mem_cons_of_mem _ hz)⟩
      rcases (List.mem_orderedInsert p).1 hz with rfl | hz
      · exact hafter y List.mem_cons_self h
      · exact hy z hz

/-- Insertion of one element after the other only reorders. -/
theorem foldl_orderedInsert_perm (xs l : List α) : (xs.foldl (fun l e => l.orderedInsert p e) l).Perm (xs ++ l) := by
  induction xs generalizing l with
  | nil => exact .refl _
  | cons x xs ih => exact (ih _).trans (((List.perm_orderedInsert p x l).append_left xs).trans List.perm_middle)

end Insert

/-! ### The order of a select (R122) -/

/-- A value that a code can have: no square root, and no denominator 0. -/
def Val.Plain : Val → Prop
  | .fin _ _ d => d ≠ 0
  | .root _ _ => False
  | _ => True

theorem Val.plain_dyadic (neg : Bool) (m : Nat) (k : Int) : (Val.dyadic neg m k).Plain := by
  unfold Val.dyadic
  split
  · exact one_ne_zero
  · exact pow_ne_zero _ two_ne_zero

theorem FFmt.plain_decode (f : FFmt) (x : Nat) : (f.decode x).Plain := by
  unfold FFmt.decode
  extract_lets c neg ex fr special
  clear_value special
  split
  · split <;> exact trivial
  · split <;> exact Val.plain_dyadic ..

/-- The order of exact finite values is that of the rationals. -/
theorem Val.lt_fin_iff {s t : Bool} {n d m e : Nat} (hd : d ≠ 0) (he : e ≠ 0) : (Val.fin s n d).lt (.fin t m e) = true ↔
    (if s then -(n : ℚ) else n) / d < (if t then -(m : ℚ) else m) / e := by
  have hd' : (0 : ℚ) < d := by positivity
  have he' : (0 : ℚ) < e := by positivity
  rw [div_lt_div_iff₀ hd' he', Val.lt, decide_eq_true_iff, ← Int.cast_lt (R := ℚ)]
  cases s <;> cases t <;> simp

/-- Where a value stands in the order of a select: the NaNs lowest, then −∞, the finite values by size, and ∞. -/
def Val.place : Val → ℕ ×ₗ ℚ
  | .inf true => toLex (1, 0)
  | .fin s n d => toLex (2, (if s then -(n : ℚ) else n) / d)
  | .inf false => toLex (3, 0)
  | _ => toLex (0, 0)

theorem Val.lt_iff_place {x y : Val} (hx : x.Plain) (hy : y.Plain) (hxn : x.isNan = false) (hyn : y.isNan = false) :
    x.lt y = true ↔ x.place < y.place := by
  match x, y, hx, hy, hxn, hyn with
  | .inf s, .inf t, _, _, _, _ => cases s <;> cases t <;> simp [Val.lt, Val.place, Prod.Lex.toLex_lt_toLex]
  | .inf s, .fin _ _ _, _, _, _, _ => cases s <;> simp [Val.lt, Val.place, Prod.Lex.toLex_lt_toLex]
  | .fin _ _ _, .inf t, _, _, _, _ => cases t <;> simp [Val.lt, Val.place, Prod.Lex.toLex_lt_toLex]
  | .fin _ _ _, .fin _ _ _, hd, he, _, _ => simp [Val.lt_fin_iff hd he, Val.place, Prod.Lex.toLex_lt_toLex]

theorem Val.place_nan_lt {x y : Val} (hx : x.isNan = true) (hy : y.Plain) (hyn : y.isNan = false) : x.place < y.place := by
  match x, y, hx, hy, hyn with
  | .nan _, .inf s, _, _, _ => cases s <;> simp [Val.place, Prod.Lex.toLex_lt_toLex]
  | .nan _, .fin _ _ _, _, _, _ => simp [Val.place, Prod.Lex.toLex_lt_toLex]

theorem Val.place_nan_le {x : Val} (hx : x.isNan = true) (y : Val) : x.place ≤ y.place := by
  match x, y, hx with
  | .nan _, .nan _, _ => exact le_rfl
  | .nan _, .inf s, _ => cases s <;> simp [Val.place, Prod.Lex.toLex_le_toLex]
  | .nan _, .fin _ _ _, _ => simp [Val.place, Prod.Lex.toLex_le_toLex]
  | .nan _, .root _ _, _ => exact le_rfl

/-- Whether an element ranks above another is a matter of their places in one linear order. -/
theorem selAbove_iff (a b : Nat) : selAbove a b = true ↔ (fmt32.decode b).place < (fmt32.decode a).place := by
  have hpa := fmt32.plain_decode a
  have hpb := fmt32.plain_decode b
  unfold selAbove
  dsimp only
  split
  · next ha => simpa using Val.place_nan_le ha _
  · next ha =>
    split
    · next hb => simpa using Val.place_nan_lt hb hpa (Bool.eq_false_iff.2 ha)
    · next hb => exact Val.lt_iff_place hpb hpa (Bool.eq_false_iff.2 hb) (Bool.eq_false_iff.2 ha)

/-- The order of a select on values with their indices. -/
def SelBefore (x y : Nat × Nat) : Prop := selAbove y.1 x.1 = false ∧ (selAbove x.1 y.1 = true ∨ x.2 < y.2)

theorem selAbove_eq_false_iff (a b : Nat) : selAbove a b = false ↔ (fmt32.decode a).place ≤ (fmt32.decode b).place := by
  rw [← Bool.not_eq_true, selAbove_iff, not_lt]

theorem SelBefore.of_above {e x : Nat × Nat} (h : selAbove e.1 x.1 = true) : SelBefore e x := by
  refine ⟨?_, .inl h⟩
  rw [selAbove_iff] at h
  rw [selAbove_eq_false_iff]
  exact h.le

theorem selInsert_eq (e : Nat × Nat) (l : List (Nat × Nat)) :
    selInsert e l = l.orderedInsert (fun x y => selAbove x.1 y.1 = true) e := by
  induction l with
  | nil => rfl
  | cons x l ih => rw [selInsert, List.orderedInsert, ih]

/-- Elements that come in the order of their indices stand in the order of the select. -/
theorem foldl_selInsert_pairwise (xs : List (Nat × Nat)) : ∀ l : List (Nat × Nat), l.Pairwise SelBefore →
    xs.Pairwise (fun a b => a.2 < b.2) → (∀ x ∈ l, ∀ y ∈ xs, x.2 < y.2) →
    (xs.foldl (fun l e => selInsert e l) l).Pairwise SelBefore := by
  induction xs with
  | nil => exact fun _ hl _ _ => hl
  | cons e xs ih =>
    intro l hl hxs hlt
    obtain ⟨he, hxs'⟩ := List.pairwise_cons.1 hxs
    refine ih (selInsert e l) ?_ hxs' fun x hx y hy => ?_
    · rw [selInsert_eq]
      refine pairwise_orderedInsert hl (fun y _ h => ⟨.of_above h, fun z hz => .of_above ?_⟩) fun y hy h =>
        ⟨Bool.eq_false_iff.2 h, .inr (hlt y hy e List.mem_cons_self)⟩
      rw [selAbove_iff] at h ⊢
      exact ((selAbove_eq_false_iff _ _).1 hz.1).trans_lt h
    · rw [selInsert_eq, List.mem_orderedInsert] at hx
      rcases hx with rfl | hx
      · exact he y hy
      · exact hlt x hx y (List.mem_cons_of_mem _ hy)

theorem selSort_perm (xs : List (Nat × Nat)) : (selSort xs).Perm xs := by
  have h := foldl_orderedInsert_perm (p := fun x y : Nat × Nat => selAbove x.1 y.1 = true) xs []
  simp only [← selInsert_eq, List.append_nil] at h
  exact h

theorem selSort_pairwise {xs : List (Nat × Nat)} (h : xs.Pairwise (fun a b => a.2 < b.2)) : (selSort xs).Pairwise SelBefore :=
  foldl_selInsert_pairwise xs [] .nil h fun _ hx => nomatch hx

/-! ### The ranks of a collective (R124) -/

theorem rankInsert_eq (x : Contrib) (l : List Contrib) : rankInsert x l = l.orderedInsert (fun x y => x.task < y.task) x := by
  induction l with
  | nil => rfl
  | cons y l ih => rw [rankInsert, List.orderedInsert, ih]

theorem foldl_rankInsert_pairwise (xs : List Contrib) : ∀ l : List Contrib, l.Pairwise (fun a b => a.task ≤ b.task) →
    (xs.foldl (fun a x => rankInsert x a) l).Pairwise (fun a b => a.task ≤ b.task) := by
  induction xs with
  | nil => exact fun _ hl => hl
  | cons x xs ih =>
    intro l hl
    refine ih (rankInsert x l) ?_
    rw [rankInsert_eq]
    exact pairwise_orderedInsert hl (fun y _ h => ⟨h.le, fun z hz => h.le.trans hz⟩) fun y _ h => Nat.not_lt.1 h

theorem byRank_perm (xs : List Contrib) : (byRank xs).Perm xs := by
  have h := foldl_orderedInsert_perm (p := fun x y : Contrib => x.task < y.task) xs []
  simp only [← rankInsert_eq, List.append_nil] at h
  exact h

theorem byRank_pairwise (xs : List Contrib) : (byRank xs).Pairwise (fun a b => a.task ≤ b.task) :=
  foldl_rankInsert_pairwise xs [] .nil

end Sys2Proof.Machine
end

section
/-! Engine commands in service: what the commands of Tables 5.10 to 5.15 compute (R94, R96, R106, R120 to R125, R350). -/

namespace Sys2Proof.Machine

open Sys2Proof

/-! ### Rows (R120) -/

section Rows

theorem rowMax_nan {xs : List Nat} (h : ∃ x ∈ xs, (fmt32.decode x).isNan = true) : rowMax xs = fmt32.nan :=
  if_pos (List.any_eq_true.2 h)

/-- A maximum that is NaN or ∞ leaves no exponential but NaNs. -/
theorem rowExp_nan {m : Nat} (xs : List Nat) (h : (fmt32.decode m).isNan = true ∨ fmt32.decode m = .inf false) :
    rowExp m xs = (xs.map (fun _ => fmt32.nan), fmt32.nan) := by
  rcases h with h | h
  · cases hm : fmt32.decode m with
    | nan b => simp only [rowExp, hm]
    | _ => rw [hm] at h; cases h
  · simp only [rowExp, h]

theorem rowExp_neg_inf {m : Nat} (xs : List Nat) (h : fmt32.decode m = .inf true) : rowExp m xs = (xs.map (fun _ => 0), 0) := by
  simp only [rowExp, h]

/-- The exponentials of a row whose maximum is finite. -/
def rowExps (m : Nat) (xs : List Nat) : List Nat :=
  xs.map (fun x => (specialRun .exp false 0 (FOp.sub.run fmt32 .rne x m 0).1).1)

theorem rowExp_finite {m : Nat} (xs : List Nat) (hn : (fmt32.decode m).isNan = false) (hi : ∀ b, fmt32.decode m ≠ .inf b) :
    rowExp m xs = (rowExps m xs, (rowExps m xs).foldl (fun s e => (FOp.add.run fmt32 .rne s e 0).1) 0) := by
  cases hm : fmt32.decode m with
  | nan b => rw [hm] at hn; cases hn
  | inf b => exact absurd hm (hi b)
  | _ => simp only [rowExp, hm, rowExps]

theorem getD_map_of_lt {α : Type} (f : α → Nat) (xs : List α) (d : α) {i : Nat} (h : i < xs.length) :
    (xs.map f).getD i 0 = f (xs.getD i d) := by
  simp [List.getD_eq_getElem?_getD, h]

theorem rowExps_spec (m : Nat) (xs : List Nat) : (rowExps m xs).length = xs.length ∧ ∀ i, i < xs.length →
    (rowExps m xs).getD i 0 = (specialRun .exp false 0 (FOp.sub.run fmt32 .rne (xs.getD i 0) m 0).1).1 :=
  ⟨List.length_map .., fun _ hi => getD_map_of_lt _ xs 0 hi⟩

theorem rowQuot_spec (ty s : Nat) (es : List Nat) : (rowQuot ty s es).length = es.length ∧ ∀ i, i < es.length →
    (rowQuot ty s es).getD i 0 = if (fmt32.decode s).isZero then 0
      else ((rowFmt ty).round .rne false ((fmt32.decode (es.getD i 0)).div (fmt32.decode s)).1).1 :=
  ⟨List.length_map .., fun _ hi => getD_map_of_lt _ es 0 hi⟩

theorem ECmd.rowPhase_max (c : ECmd) (j : Nat) (x : Row) (stat : Nat) : c.rowPhase j 1 x stat =
    [(.S c.core, c.f 32 18 + 8 * j, 1024 * j + 512, leBytes 4 (rowMax (rowWide (c.f 18 2) x)))] := rfl

theorem ECmd.rowPhase_exps (c : ECmd) (j : Nat) (x : Row) (stat : Nat) {es : List Nat} {sum : Nat}
    (h : rowExp stat (rowWide (c.f 18 2) x) = (es, sum)) : c.rowPhase j 2 x stat =
      [(.B (if c.f 20 1 = 1 then .A else .X), 256 * (c.f 0 11 + j), 1024 * j, (List.range 256).map (rowByte (rowSet (c.f 18 2) x
         (es.map (fun e => ((rowFmt (c.f 18 2)).round .rne false (fmt32.decode e)).1))))),
       (.S c.core, c.f 32 18 + 8 * j + 4, 1024 * j + 516, leBytes 4 sum)] := by
  simp only [ECmd.rowPhase, h]

theorem ECmd.rowPhase_scale (c : ECmd) (j : Nat) (x : Row) (stat : Nat) : c.rowPhase j 3 x stat =
      [(.B (if c.f 20 1 = 1 then .A else .X), 256 * (c.f 0 11 + j), 1024 * j,
        (List.range 256).map (rowByte (rowSet (c.f 18 2) x (rowQuot (c.f 18 2) stat (rowWide (c.f 18 2) x)))))] := rfl

/-- What a phase of a row writes is due once it has been computed. -/
theorem ECmd.rowOn_dsts {d : ECmd} {j phase : Nat} {row stat : List Byte} (hrow : d.work.data (rowPos j) 256 = some row)
    (hstat : d.work.data (rowPos j + 512) 4 = some stat ∨ phase = 1 ∧ stat = [] ∧ d.work.data (rowPos j + 512) 4 = none) :
    (d.rowOn j phase).work.dsts = d.work.dsts ++
      (d.rowPhase j phase (rowOfBytes row) (leNat stat)).flatMap (fun o => grainsAt o.1 o.2.1 o.2.2.2.length o.2.2.1 o.1.cut) := by
  have hs : (d.work.data (rowPos j + 512) 4).getD [] = stat := by
    rcases hstat with h | ⟨-, rfl, h⟩
    · rw [h]; rfl
    · rw [h]; rfl
  simp only [ECmd.rowOn, hrow, hs, Option.getD_some]

/-- A phase of a row waits for what the row's phase before it writes, and for what it reads itself. -/
theorem Work.rowReady_iff (w : Work) {j phase : Nat} (hp : phase ≤ 3) (hj : j < 64) : w.rowReady (4 * j + phase) = true ↔
    (∀ g ∈ w.dsts, g.pos / 1024 ≠ j) ∧ ∀ g ∈ w.srcs, g.pos / 1024 ≠ 2 ^ 20 + j := by
  have hr : (4 * j + phase) % 2 ^ 20 / 4 = j := by omega
  simp only [Work.rowReady, hr, Bool.and_eq_true, Bool.not_eq_true', List.any_eq_false, beq_iff_eq, ne_eq]

theorem Work.rowReady_entered (w : Work) (j phase : Nat) : w.rowReady (2 ^ 20 + 4 * j + phase) = w.rowReady (4 * j + phase) := by
  have hr : (2 ^ 20 + 4 * j + phase) % 2 ^ 20 = (4 * j + phase) % 2 ^ 20 := by omega
  rw [Work.rowReady, hr, Work.rowReady]

end Rows

/-! ### Transforms (R123) -/

/-- Byte i of element (b, a) of a transform's destination is byte i of element (a, b) of its source. -/
theorem turned_index {e sz a b i : Nat} (ha : a < e) (hi : i < sz) : ((b * e + a) * sz + i) / (e * sz) = b ∧
    ((b * e + a) * sz + i) % (e * sz) / sz = a ∧ ((b * e + a) * sz + i) % sz = i := by
  have hsz : 0 < sz := Nat.lt_of_le_of_lt (Nat.zero_le i) hi
  have hin : a * sz + i < e * sz := calc
    a * sz + i < a * sz + sz := Nat.add_lt_add_left hi _
    _ = (a + 1) * sz := (Nat.succ_mul a sz).symm
    _ ≤ e * sz := Nat.mul_le_mul_right sz ha
  have hq : (b * e + a) * sz + i = e * sz * b + (a * sz + i) := by ring
  refine ⟨?_, ?_, ?_⟩
  · rw [hq, Nat.mul_add_div (by omega), Nat.div_eq_of_lt hin, Nat.add_zero]
  · rw [hq, Nat.mul_add_mod, Nat.mod_eq_of_lt hin, Nat.mul_comm a, Nat.mul_add_div hsz, Nat.div_eq_of_lt hi, Nat.add_zero]
  · rw [Nat.mul_comm _ sz, Nat.mul_add_mod, Nat.mod_eq_of_lt hi]

theorem mapM_option_congr {α β : Type} {f g : α → Option β} {l : List α} (h : ∀ x ∈ l, f x = g x) : l.mapM f = l.mapM g := by
  induction l with
  | nil => rfl
  | cons x l ih => rw [List.mapM_cons, List.mapM_cons, h x List.mem_cons_self, ih fun y hy => h y (List.mem_cons_of_mem _ hy)]

theorem ECmd.turnedBytes_eq (c : ECmd) (w : Work) {a b : Nat} (ha : a < c.f 64 8) :
    c.turnedBytes w ((b * c.f 64 8 + a) * 2 ^ c.f 72 2) (2 ^ c.f 72 2) =
      w.data ((a * c.f 64 8 + b) * 2 ^ c.f 72 2) (2 ^ c.f 72 2) := by
  refine mapM_option_congr fun i hi => ?_
  obtain ⟨hb', ha', hm⟩ := turned_index (b := b) ha (List.mem_range.1 hi)
  dsimp only
  rw [hb', ha', hm]

/-! ### Service -/

section Service

variable {s : State} {k : Nat} {c : ECmd} (hk : s.ecmd k = some c)
include hk

omit hk in
theorem State.cmd_of_servable {cls cmd : Nat} (h : s.servable c cls cmd = true) : c.cmd = cmd := by
  simp only [State.servable, Bool.and_eq_true, beq_iff_eq] at h
  exact h.1.1.1.1.1.2

/-- A command is served that is of the class and number of its event and that its engine may serve. -/
theorem serveCmd_serves {cls cmd : Nat} (hs : s.servable c cls cmd = true) (f : ECmd → State) :
    serveCmd s k cls cmd f = .next (f c) := by
  rw [serveCmd, hk]
  exact if_pos hs

section Row

variable {cmd : Nat} (hs : s.servable c 0 cmd = true) {t : State} {w : Work} (hw : s.moveOn (s.eServer c) c.work = (t, w))
include hs hw

theorem serveRow_waits (ho : oneOf t.tick 28 (w.idx.filter w.rowReady) = none) :
    serveRow s k cmd = .next (t.setEcmd { c with work := w }) := by
  rw [serveRow, serveCmd_serves hk hs, hw]
  dsimp only
  rw [ho]

theorem serveRow_serves {i : Nat} (ho : oneOf t.tick 28 (w.idx.filter w.rowReady) = some i) : serveRow s k cmd = .next
    (t.setEcmd (if i < 2 ^ 20 then ECmd.rowEnter { c with work := w } (i / 4) (i % 4)
      else ECmd.rowOn { c with work := w } (i % 2 ^ 20 / 4) (i % 4))) := by
  rw [serveRow, serveCmd_serves hk hs, hw]
  dsimp only
  rw [ho]

variable {j phase : Nat} (hp : phase ≤ 3) (hj : j < 64)
include hp hj

theorem serveRow_enters (ho : oneOf t.tick 28 (w.idx.filter w.rowReady) = some (4 * j + phase)) :
    serveRow s k cmd = .next (t.setEcmd (ECmd.rowEnter { c with work := w } j phase)) := by
  have hd : (4 * j + phase) / 4 = j := by omega
  have hm : (4 * j + phase) % 4 = phase := by omega
  rw [serveRow_serves hk hs hw ho, if_pos (by omega), hd, hm]

theorem serveRow_computes (ho : oneOf t.tick 28 (w.idx.filter w.rowReady) = some (2 ^ 20 + 4 * j + phase)) :
    serveRow s k cmd = .next (t.setEcmd (ECmd.rowOn { c with work := w } j phase)) := by
  have hd : (2 ^ 20 + 4 * j + phase) % 2 ^ 20 / 4 = j := by omega
  have hm : (2 ^ 20 + 4 * j + phase) % 4 = phase := by omega
  rw [serveRow_serves hk hs hw ho, if_neg (by omega), hd, hm]

end Row

theorem serveGth_goes {cmd : Nat} (hc : c.cls = 1) (hm : c.cmd = cmd) (hs : c.started = true) (hd : c.delivered = false) {c1 : ECmd}
    {t : State} {w : Work} (hg : s.regather c = c1) (hw : s.gatherOn (s.eServer c1) c1.gather c1.work false = (t, w)) :
    serveGth s k cmd = .next (t.eStop { c1 with work := w }) := by
  rw [serveGth, hk]
  dsimp only
  rw [if_neg (by simp [hc, hm, hs, hd]), hg, hw]

section Work

variable {cmd : Nat} {t : State} {w : Work} (hw : s.workOn (s.eServer c) c.work = (t, w))
include hw

omit hk in
theorem State.eOn_eq : s.eOn c = (t, { c with work := w }) := by
  rw [State.eOn, hw]

theorem serveSel_computes (hs : s.servable c 2 cmd = true) (h0 : c.step = 0) (hr : w.srcs = []) {d : List Byte}
    (hd : w.data 0 (4 * c.f 128 13 * (cmd + 1)) = some d) : serveSel s k cmd = .next (t.setEcmd
      (ECmd.computed { c with work := w } (.S c.core)
        ((ECmd.selected { c with work := w } d).map (fun (r : Nat × List Nat) => (r.1, r.2.flatMap (leBytes 4)))) 1)) := by
  have hm : c.cmd = cmd := State.cmd_of_servable hs
  rw [serveSel, serveCmd_serves hk hs, State.eOn_eq hw]
  dsimp only
  rw [if_pos ⟨h0, by simp [hr]⟩, hm, hd]
  rfl

theorem serveSel_reads (hs : s.servable c 2 cmd = true) (h : c.step ≠ 0 ∨ w.srcs ≠ []) :
    serveSel s k cmd = .next (t.setEcmd { c with work := w }) := by
  rw [serveSel, serveCmd_serves hk hs, State.eOn_eq hw]
  dsimp only
  rw [if_neg (by simpa [Decidable.imp_iff_not_or] using h)]

theorem exec_xfmTr_goes (hs : s.servable c 3 0 = true) : exec (.xfmTr k) s = .next (t.setEcmd { c with work := w }) := by
  rw [exec, execXfmTr, serveCmd_serves hk hs, State.eOn_eq hw]

theorem serveColl_contributes (hs : s.servable c 4 cmd = true) (h0 : c.step = 0) (hr : w.srcs = []) {d : List Byte}
    (hd : w.data 0 (c.f 192 17) = some d) :
    serveColl s k cmd = .next ((t.contribute c d).setEcmd { c with step := 1, work := Work.idle }) := by
  rw [serveColl, serveCmd_serves hk hs, State.eOn_eq hw]
  dsimp only
  rw [if_pos ⟨h0, by simp [hr]⟩, hd]
  rfl

/-- Once the contributions that a collective waits for are there and agree, it has its result. -/
theorem serveColl_computes (hs : s.servable c 4 cmd = true) (h1 : c.step = 1) (hl : c.f 16 16 ≤ (t.contribsOf c).length)
    (hx : ∀ x ∈ t.contribsOf c, x.shape = c.shape) : serveColl s k cmd = .next (t.setEcmd (ECmd.computed { c with work := w } .G
      [(c.f 128 56, c.colResult ((byRank ((t.contribsOf c).take (c.f 16 16))).map (fun (x : Contrib) => x.data)))] 2)) := by
  rw [serveColl, serveCmd_serves hk hs, State.eOn_eq hw]
  dsimp only
  rw [if_neg (by simp [h1]), if_pos h1, if_pos ⟨by simpa using hl, by simpa using hx⟩]

theorem serveSend_sends (hs : s.servable c 5 cmd = true) (ho : connOpen (s.conn (c.f 0 24)) = true) (h0 : c.step = 0)
    (hr : w.srcs = []) {d : List Byte} (hd : w.data 0 (c.f 96 17) = some d) : serveSend s k cmd = .next
      ((t.ueSend (c.f 0 24) c.id (cmd == 0) (packets (connPay (t.conn (c.f 0 24)))
        (if cmd = 0 then (t.ue (c.f 0 24)).nextMsg else 0) (cmd == 1) (c.f 192 32) (c.f 128 64) d)).setEcmd
        { c with step := 1, work := Work.idle }) := by
  rw [serveSend, serveCmd_serves hk hs]
  dsimp only
  rw [if_neg (by simp [ho]), State.eOn_eq hw]
  dsimp only
  rw [if_pos ⟨h0, by simp [hr]⟩, hd]
  rfl

end Work

theorem exec_netPost_posts (hs : s.servable c 5 2 = true) (h0 : c.step = 0) (ho : connOpen (s.conn (c.f 0 24)) = true) :
    exec (.netPost k) s = .next ((s.setUe (c.f 0 24) { s.ue (c.f 0 24) with posts := (s.ue (c.f 0 24)).posts ++
      [⟨c.id, c.f 192 32, c.f 96 17, c.core, c.f 32 56, none, 0, 0⟩] }).setEcmd { c with step := 1 }) := by
  rw [exec, execNetPost, serveCmd_serves hk hs]
  dsimp only
  rw [if_neg (by simp [h0]), if_neg (by simp [ho])]

end Service

theorem State.eStop_goes {t : State} {c : ECmd} (h : c.work.stops = false ∨ c.step ≠ 0) : t.eStop c = t.setEcmd c := by
  have hn : ¬(c.work.stops = true ∧ c.step = 0) := fun ⟨hs, h0⟩ => h.elim (fun h => by simp [h] at hs) fun h => h h0
  rw [State.eStop, if_neg hn]

/-! ### Select (R122) -/

theorem ECmd.selected_top {c : ECmd} (d : List Byte) (h : c.cmd = 0) {xs : List Nat} (hx : (wordsOf d).take (c.f 128 13) = xs)
    {top : List (Nat × Nat)} (ht : (selSort (xs.zip (List.range xs.length))).take (c.f 160 7) = top) :
    c.selected d = [(c.f 32 18, top.map (fun (e : Nat × Nat) => e.1)), (c.f 64 18, top.map (fun (e : Nat × Nat) => e.2))] := by
  subst hx ht
  exact if_pos h

theorem ECmd.selected_packed {c : ECmd} (d : List Byte) (h : c.cmd ≠ 0) {xs ms ys : List Nat}
    (hx : (wordsOf d).take (c.f 128 13) = xs) (hm : (wordsOf d).drop (c.f 128 13) = ms)
    (hy : ((xs.zip ms).filter (fun (e : Nat × Nat) => e.2 != 0)).map (fun (e : Nat × Nat) => e.1) = ys) :
    c.selected d = [(c.f 32 18, ys), (c.f 64 18, [ys.length])] := by
  subst hx hm hy
  exact if_neg h

theorem selAbove_spec (a b : Nat) :
    ((fmt32.decode a).isNan = true → selAbove a b = false) ∧
    ((fmt32.decode a).isNan = false → (fmt32.decode b).isNan = true → selAbove a b = true) ∧
    ((fmt32.decode a).isNan = false → (fmt32.decode b).isNan = false →
      selAbove a b = (fmt32.decode b).lt (fmt32.decode a)) := by
  unfold selAbove
  dsimp only
  refine ⟨fun ha => if_pos ha, fun ha hb => ?_, fun ha hb => ?_⟩
  · rw [if_neg (by simp [ha]), if_pos hb]
  · rw [if_neg (by simp [ha]), if_neg (by simp [hb])]

/-! ### The events of each class -/

section Events

variable (s : State) (k : Nat)

theorem exec_row {e : Instr × Nat} (he : e ∈ ([(.rowMax k, 0), (.rowExps k, 1), (.rowScale k, 2), (.rowAll k, 3)] : List (Instr × Nat))) :
    exec e.1 s = serveRow s k e.2 := by
  simp only [List.mem_cons, List.not_mem_nil, or_false] at he
  rcases he with rfl | rfl | rfl | rfl <;> rfl

theorem exec_gth {e : Instr × Nat} (he : e ∈ ([(.gthGet k, 0), (.gthPut k, 1)] : List (Instr × Nat))) :
    exec e.1 s = serveGth s k e.2 := by
  simp only [List.mem_cons, List.not_mem_nil, or_false] at he
  rcases he with rfl | rfl <;> rfl

theorem exec_sel {e : Instr × Nat} (he : e ∈ ([(.selTop k, 0), (.selPack k, 1)] : List (Instr × Nat))) :
    exec e.1 s = serveSel s k e.2 := by
  simp only [List.mem_cons, List.not_mem_nil, or_false] at he
  rcases he with rfl | rfl <;> rfl

theorem exec_coll {e : Instr × Nat} (he : e ∈ ([(.colSum k, 0), (.colBcast k, 1), (.colCat k, 2)] : List (Instr × Nat))) :
    exec e.1 s = serveColl s k e.2 := by
  simp only [List.mem_cons, List.not_mem_nil, or_false] at he
  rcases he with rfl | rfl | rfl <;> rfl

theorem exec_send {e : Instr × Nat} (he : e ∈ ([(.netSend k, 0), (.netWrite k, 1)] : List (Instr × Nat))) :
    exec e.1 s = serveSend s k e.2 := by
  simp only [List.mem_cons, List.not_mem_nil, or_false] at he
  rcases he with rfl | rfl <;> rfl

end Events

/-- Settles O52, clause by clause: a served command does what its event says, `serveCmd_serves`; a row's phases by what each reads and
writes; and the sorts by the linear order of a select and by rank. -/
theorem engineCommandsCompute : Obligations.EngineCommandsCompute := by
  unfold Obligations.EngineCommandsCompute
  refine ⟨fun s k c hk => ⟨fun e he hs t w hw => ?_, fun e he hc hm hs hd c1 t w hg hw => ?_, fun e he hs t w hw => ?_,
      fun hs t w hw => exec_xfmTr_goes hk hw hs, fun e he hs t w hw => ?_, fun e he hs ho t w d hw h0 hr hd => ?_,
      exec_netPost_posts hk⟩,
    fun t c => State.eStop_goes, fun d j phase => ⟨rfl, rfl⟩,
    fun w j phase _ hp hj => ⟨w.rowReady_iff hp hj, w.rowReady_entered j phase⟩, ?_, ?_, ?_,
    rowQuot_spec, fun c w a b ha _ => c.turnedBytes_eq w ha, fun xs => ⟨selSort_perm xs, selSort_pairwise⟩, selAbove_spec,
    fun c d xs ms hx hm => ⟨fun h top ht => ECmd.selected_top d h hx ht, fun h ys hy => ECmd.selected_packed d h hx hm hy⟩,
    fun xs => ⟨byRank_perm xs, byRank_pairwise xs⟩, fun tick i w => chosen_perm tick w i⟩
  · rw [exec_row s k he]
    exact ⟨serveRow_waits hk hs hw, fun j phase _ hp hj => ⟨serveRow_enters hk hs hw hp hj, serveRow_computes hk hs hw hp hj⟩⟩
  · rw [exec_gth s k he]
    exact serveGth_goes hk hc hm hs hd hg hw
  · rw [exec_sel s k he]
    exact ⟨fun d h0 hr hd => serveSel_computes hk hw hs h0 hr hd, serveSel_reads hk hw hs⟩
  · rw [exec_coll s k he]
    exact ⟨fun d h0 hr hd => serveColl_contributes hk hw hs h0 hr hd, serveColl_computes hk hw hs⟩
  · rw [exec_send s k he]
    exact serveSend_sends hk hw hs ho h0 hr hd
  · rintro d j phase row stat x n hrow hstat rfl rfl
    exact ECmd.rowOn_dsts hrow hstat
  · rintro c j x stat b rfl
    exact ⟨c.rowPhase_max j x stat, fun es sum h => c.rowPhase_exps j x stat h, c.rowPhase_scale j x stat⟩
  · exact fun m xs => ⟨rowMax_nan, rowExp_nan xs, rowExp_neg_inf xs, fun hn hi =>
      ⟨rowExps m xs, rowExp_finite xs hn hi, rowExps_spec m xs⟩⟩

end Sys2Proof.Machine
end
